-- ==== Sys2Proof/Word.lean ====
section
/-! DEFINITION. The word types and the plainest number helpers: bytes, little-endian fields, counters that wrap and
counters that stop. -/

namespace Sys2Proof

/-- One byte of memory, of a packet or of a register. -/
abbrev Byte := BitVec 8

/-- The low `n` bits of a number: what a field of `n` bits holds of it. -/
def lowBits (n x : Nat) : Nat := x % 2 ^ n

/-- Bits `[hi:lo]` of a number, as the spec writes a field. -/
def bits (x hi lo : Nat) : Nat := (x >>> lo) % 2 ^ (hi + 1 - lo)

/-- Bit `i` of a number. -/
def bit (x i : Nat) : Bool := x.testBit i

/-- A Bool as the bit a register shows. -/
def b2n (b : Bool) : Nat := if b then 1 else 0

/-- One step of a counter of `w` bits that stops at its maximum (R525). -/
def satAdd (w x n : Nat) : Nat := Nat.min (x + n) (2 ^ w - 1)

/-- One step of a counter of `w` bits that wraps (R525). -/
def wrapAdd (w x n : Nat) : Nat := (x + n) % 2 ^ w

/-- The `n` low bytes of a number, least significant first: every multi-byte field of the spec is little-endian. -/
def leBytes : Nat → Nat → List Byte
  | 0, _ => []
  | n + 1, x => BitVec.ofNat 8 x :: leBytes n (x / 256)

/-- The number that bytes spell, least significant first. -/
def ofLe : List Byte → Nat
  | [] => 0
  | b :: bs => b.toNat + 256 * ofLe bs

/-- The number that bytes spell, most significant first. -/
def ofBe (bs : List Byte) : Nat := bs.foldl (fun a b => a * 256 + b.toNat) 0

/-- The `n` low bytes of a number, most significant first. -/
def beBytes (n x : Nat) : List Byte := (leBytes n x).reverse

/-- `bs` cut or padded with zero bytes to `n` bytes. -/
def padTo (n : Nat) (bs : List Byte) : List Byte := bs.take n ++ List.replicate (n - bs.length) 0

/-- The smallest multiple of `m` not below `x`. -/
def roundUp (x m : Nat) : Nat := (x + (m - 1)) / m * m

/-- The number of bits set in the `n` low bits of `x`. -/
def popCount (n x : Nat) : Nat := ((List.range n).filter (fun i => x.testBit i)).length

/-- The positions of the bits set in the `n` low bits of `x`, ascending. -/
def setBits (n x : Nat) : List Nat := (List.range n).filter (fun i => x.testBit i)

/-- Insertion of a key into an ascending list, once. -/
def insertNat (x : Nat) : List Nat → List Nat
  | [] => [x]
  | y :: ys => if x < y then x :: y :: ys else if x = y then y :: ys else y :: insertNat x ys

/-- An ascending list without repeats of the same numbers. -/
def sortNat (xs : List Nat) : List Nat := xs.foldl (fun acc x => insertNat x acc) []

/-- Stable insertion by a comparison: `x` goes before the first element that `lt` puts strictly after it. -/
def insertBy {α : Type} (lt : α → α → Bool) (x : α) : List α → List α
  | [] => [x]
  | y :: ys => if lt x y then x :: y :: ys else y :: insertBy lt x ys

/-- A stable insertion sort. -/
def sortBy {α : Type} (lt : α → α → Bool) (xs : List α) : List α := xs.foldl (fun acc x => insertBy lt x acc) []

/-- `(a - b)` modulo `2 ^ w`: the distance between two free-running indices. -/
def modSub (w a b : Nat) : Nat := (a + 2 ^ w - b % 2 ^ w) % 2 ^ w

end Sys2Proof
end

