-- ==== Sys2Proof/Machine/Table.lean ====
section
/-! DEFINITION. Sparse tables with a value for every key not listed, kept in ONE canonical form: keys strictly
rising and no entry equal to the unlisted value. Memory and every array of the block is such a table. -/

namespace Sys2Proof.Machine

/-- A sparse table: what is listed, in rising key order. -/
abbrev Table (α : Type) := List (Nat × α)

/-- The value at a key; `d` where the key is not listed. -/
def Table.get {α : Type} (t : Table α) (d : α) (k : Nat) : α :=
  match t with
  | [] => d
  | (j, v) :: rest => if k = j then v else Table.get rest d k

/-- The table with an entry at a key it does not list. -/
def Table.place {α : Type} (t : Table α) (k : Nat) (x : α) : Table α :=
  match t with
  | [] => [(k, x)]
  | (j, v) :: rest => if k < j then (k, x) :: (j, v) :: rest else (j, v) :: Table.place rest k x

/-- The table with the value at a key replaced; writing the unlisted value removes the entry. -/
def Table.put {α : Type} [DecidableEq α] (t : Table α) (d : α) (k : Nat) (x : α) : Table α :=
  if x = d then t.filter (fun c => decide (c.1 ≠ k)) else Table.place (t.filter (fun c => decide (c.1 ≠ k))) k x

/-- The table with the keys `[lo, lo + n)` back at the unlisted value. -/
def Table.clear {α : Type} (t : Table α) (lo n : Nat) : Table α :=
  t.filter (fun c => decide (c.1 < lo) || decide (lo + n ≤ c.1))

/-- The table with the keys `[dst, dst + n)` holding what `[src, src + n)` holds. -/
def Table.copyRange {α : Type} [DecidableEq α] (t : Table α) (d : α) (src dst n : Nat) : Table α :=
  (t.filter (fun c => decide (src ≤ c.1) && decide (c.1 < src + n))).foldl
    (fun acc c => Table.put acc d (c.1 - src + dst) c.2) (t.clear dst n)

/-- Every key of the list is above `lo`, keys rise strictly, and no entry equals the unlisted value. -/
def Table.wfFrom {α : Type} [DecidableEq α] (d : α) (lo : Option Nat) : Table α → Bool
  | [] => true
  | (j, v) :: rest =>
    (match lo with | none => true | some l => decide (l < j)) && !decide (v = d) && Table.wfFrom d (some j) rest

/-- The canonical form of a table. -/
def Table.wf {α : Type} [DecidableEq α] (t : Table α) (d : α) : Bool := Table.wfFrom d none t

/-- The value at a key, changed by a function. -/
def Table.upd {α : Type} [DecidableEq α] (t : Table α) (d : α) (k : Nat) (f : α → α) : Table α :=
  t.put d k (f (t.get d k))

end Sys2Proof.Machine
end

