-- ==== Sys2Proof/Types.lean ====
section
/-! DEFINITION. The component types of the block's state and of the commands' operands, each after the spec's own
table or rule. -/

namespace Sys2Proof.Machine

/-- Power states of a region (R65, R558): STATE 0 run, 1 nap, 2 sleep, 3 off. -/
inductive Pwr where
  | run | nap | sleep | off
deriving DecidableEq, Repr

/-- A package position: plane and board coordinates, or a rank (R31, R389). -/
structure Xyz where
  x : Nat := 0
  y : Nat := 0
  z : Nat := 0
deriving DecidableEq, Repr

/-! ### The Scorepad (chapter 17) -/

/-- A Scorepad record (R504). `src` is the 13-bit source (R505); `ctx` is CONTEXT with CTX_VALID. -/
structure Rec where
  seq : Nat
  code : Nat
  sev : Nat
  src : Nat
  time : Nat
  p0 : Nat
  p1 : Nat
  p2 : Nat
  supp : Nat
  ctx : Option Nat
  sat : Bool
  gap : Bool
  clear : Bool
deriving DecidableEq, Repr

/-- A token bucket (R509): how many tokens are missing from BURST, and the code's suppressed count (24 bits). -/
structure Bucket where
  missing : Nat := 0
  supp : Nat := 0
deriving DecidableEq, Repr

/-- The Scorepad store and its control block (R503, R507, R508, R515): lost at AON_RESET_N. -/
structure Pad where
  recs : List Rec := []
  seq : Nat := 0
  dropped : Nat := 0
  clears : Nat := 0
  storeMin : Nat := 1
  pushMin : Nat := 3
  gap : Bool := false
  buckets : Table Bucket := []
  pkgMissing : Nat := 0
deriving DecidableEq, Repr

/-- Tracked units of the suspect list (R483): a physical tile by mesh number 12·my + mx, a region's Spinner, a
region's update unit. -/
inductive UnitId where
  | tile (p : Nat)
  | spinner (r : Nat)
  | update (r : Nat)
deriving DecidableEq, Repr

/-- A SUSPECT unit's entry (R483): the observation period's start in fabric time and the self-test runs passed in it. -/
structure Suspect where
  unit : UnitId
  since : Int
  passed : Nat
deriving DecidableEq, Repr

/-- A page of a stack retired to a spare page (R333, R336). -/
structure PageRemap where
  stack : Nat
  page : Nat
  spare : Nat
deriving DecidableEq, Repr

/-- What SPI flash and fuses keep through every reset (R23, R39, R336, R483, R507, R510, R512, R514, R542). -/
structure Flash where
  seqSaved : Option Nat := none
  bootCount : Nat := 0
  log : List Rec := []
  mgtKey : Option (List Byte) := none
  clearKey : Option (List Byte) := none
  keySlots : Table (List Byte) := []
  failed : List Nat := []
  retired : List UnitId := []
  suspects : List Suspect := []
  hbmLanes : List (Nat × Nat) := []
  hbmPages : List PageRemap := []
deriving DecidableEq, Repr

/-- The management processor and its port (R512, R517–R520). -/
structure Mgt where
  running : Bool := false
  authCount : Nat := 0
  collector : Option (Nat × Nat) := none
  globalAddr : Option (Nat × Nat) := none
  pldmEvents : Bool := false
  endpointId : Nat := 0
  reqSecond : Nat := 0
  reqCount : Nat := 0
deriving DecidableEq, Repr

/-! ### Pins, boot and power (chapters 18 and 19) -/

/-- Levels of the reset inputs and of the rails the block senses, the latched straps, and THERM_TRIP_N
(R540, R542, R545, R546, R565). -/
structure Pins where
  aonN : Bool := false
  pwrGood : Bool := false
  pkgN : Bool := false
  perstN : Bool := false
  vaon : Bool := true
  vio18 : Bool := true
  thermTrip : Bool := false
  bankerEn : Bool := false
  standbyEn : Bool := false
  slot : Nat := 0
  legacy : Bool := false
  raMode : Nat := 0
deriving DecidableEq, Repr

/-- Boot progress and service levels (R442, R548, R549, R554, R557). -/
structure Boot where
  stage : Nat := 0
  level : Nat := 0
  cause : Nat := 0
  nextCause : Nat := 1
  mgtCopy : Nat := 0
  hubCopy : Nat := 0
  fwReady : Bool := false
  host : Bool := false
  compute : Bool := false
  system : Bool := false
  pcieTraining : Bool := false
  linkUp : Bool := false
  listsApplied : Bool := false
deriving DecidableEq, Repr

/-- Package power policy, sensors and limits (R534–R541, R557). -/
structure Power where
  capW : Nat := 3200
  windowMs : Nat := 10
  idle : Pwr := .off
  powerW : Nat := 0
  mv : Nat := 0
  amps : Nat := 0
  hubTemp : Nat := 0
  capMhz : Nat := 1800
  curMhz : Nat := 1800
  capActive : Bool := false
  curActive : Bool := false
  lastCur : Nat := 0
  vcoreMhz : Nat := 600
  tripped : Bool := false
  stackTemp : Table Nat := []
deriving DecidableEq, Repr

/-- Fabric time and its synchronisation (R412, R413, R415, R416). `interp` is the part interpolated from the hub
clock, 0–39; `slew` what is still to be removed. -/
structure FTime where
  count : Nat := 0
  interp : Nat := 0
  slew : Int := 0
  slewTicks : Nat := 0
  state : Nat := 0
  root : Bool := false
  parent : Nat := 7
  hops : Nat := 0
  offset : Int := 0
  parentDelay : Int := 0
  goodSince : Option Nat := none
  lastReply : Nat := 0
  isSet : Bool := false
deriving DecidableEq, Repr

/-! ### Hub processors and the scheduler (chapter 14) -/

/-- Thread states (R419). -/
inductive TState where
  | free | ready | running | blocked
deriving DecidableEq, Repr

/-- A scheduler thread (R419, R421, R426, R431, R433): `elig` 0 command processors, 1 service cores, 2 both. -/
structure Thread where
  prio : Nat := 0
  elig : Nat := 0
  st : TState := .free
  lastCore : Option Nat := none
  lastEnd : Nat := 0
  event : Option Nat := none
  deadline : Option Nat := none
  readyAt : Nat := 0
  raised : Option Nat := none
  prog : Option Nat := none
  slot : Nat := 0
  handler : Nat := 0
  inHandler : Bool := false
  a0 : Nat := 0
  done : Bool := false
deriving DecidableEq, Repr

/-- A hub core, 0–11 (R417, R425, R428, R434, R436). `asking`: waiting at its dispatch port. -/
structure HubCore where
  released : Bool := false
  asking : Bool := false
  thread : Option Nat := none
  heldSince : Nat := 0
  runSince : Nat := 0
  heldNs : Nat := 0
  load : Nat := 0
  preempt : Bool := false
  stops : List Nat := []
  halted : Bool := false
  retired : Bool := false
  dispatchReg : Nat := 0
deriving DecidableEq, Repr

/-- Waits at one priority (R428): the running window's and the last window's. -/
structure WaitStat where
  maxNow : Nat := 0
  cntNow : Nat := 0
  maxLast : Nat := 0
  cntLast : Nat := 0
deriving DecidableEq, Repr

/-- The scheduler (R419–R428). `ready` is the ready order of all priorities; each priority's list is its part. -/
structure Sched where
  threads : Table Thread := []
  ready : List Nat := []
  pendingEv : List Nat := []
  cores : Table HubCore := []
  waits : Table WaitStat := []
  preempts : Nat := 0
  affinityUs : Nat := 20
  quantum : Nat := 10
  windowStart : Nat := 0
deriving DecidableEq, Repr

/-- A running service program (R430–R433). `pages` are the bytes taken from the context's quota. -/
structure Prog where
  ctx : Nat
  count : Nat
  textSize : Nat
  dataSize : Nat
  stackSize : Nat
  entry : Nat
  image : List Byte
  stack : Nat
  pages : Nat
  exits : Nat
  anyInvalid : Bool
  anyAborted : Bool
  code0 : Option Nat
  ended : Nat
deriving DecidableEq, Repr

/-! ### PCIe functions and rings (chapter 15) -/

/-- A message to the closing-tally path carries one of these actions (R276). -/
inductive Action where
  | apply | skip | zero | stop
deriving DecidableEq, Repr

/-- An MSI-X table entry (R442, as PCIe defines it): address, data, vector control. -/
structure MsixEntry where
  addr : Nat := 0
  data : Nat := 0
  ctrl : Nat := 0
deriving DecidableEq, Repr

/-- Function control of one PCIe function (R441, R442). -/
structure Fn where
  compat : Bool := false
  intCtrl : Nat := 0
  intStatus : Nat := 0
  msix : Table MsixEntry := []
  pba : Nat := 0
  lastMsg : Table Nat := []
  delayed : Nat := 0
deriving DecidableEq, Repr

/-- A reply waiting for room in its completion ring (R449). -/
structure Reply where
  bytes : List Byte
  irq : Bool
deriving DecidableEq, Repr

/-- A submission and completion ring pair (R442, R445–R449, R476). -/
structure Ring where
  sqBase : Nat := 0
  log2Slots : Nat := 0
  enabled : Bool := false
  p : Nat := 0
  c : Nat := 0
  cqBase : Nat := 0
  log2Entries : Nat := 0
  t : Nat := 0
  cqHost : Nat := 0
  flushing : Bool := false
  skip : List Nat := []
  waiting : List Reply := []
deriving DecidableEq, Repr

/-- Errors that hardware meets while a command runs: no rule decides when one happens, so the command carries them.
`check` fails a check unit by its residue or its duplicate (R143); `store` is an uncorrectable word of a tile's store
of kind 0 near, 1 deep, 2 row cache, 3 move buffer; `ceStore` a corrected one; `hbm` an uncorrectable and `ceHbm` a
corrected sector of a stack (R331, R332); `walk` an uncorrectable error met by a segment walk, in its
read of the root entry or of the segment entry (R351); `dice` a
duplicate mismatch of a class-B lane (R250); `update` a mismatch of an update unit on a piece or row (R482); `mesh` an
uncorrectable flit that the router of a physical tile meets on a link, with the package addresses of the data that the flit's
packets carry (R364). `remote` is not an error: it is what other packages of the board answer to
the command's READs, from a board address on, and whether they mark it poisoned (R357, R358). -/
inductive Upset where
  | check (unit : Nat) (duplicate : Bool)
  | store (tile kind word : Nat)
  | ceStore (tile kind word : Nat)
  | hbm (stack off : Nat)
  | ceHbm (stack off lane : Nat)
  | walk (leaf : Bool)
  | dice (lane : Nat)
  | update (item : Nat)
  | mesh (at_ link : Nat) (lo n : Nat)
  | remote (addr : Nat) (data : List Byte) (poison : Bool)
deriving DecidableEq, Repr

/-- Effects that R455 puts off to a Turn boundary, with the errors that their walks meet (R326). -/
inductive Deferred where
  | write (ctxAddr : Nat) (bytes : List Byte) (errs : List Upset)
  | patch (entries : List (Nat × Nat × Nat)) (errs : List Upset)
  | fraction (f : Nat)
  | selftest (mask : Nat) (failing : List UnitId)
  | segRelease (index : Nat)
  | segStack (index : Nat) (wr : Bool) (stack limitM1 : Nat)
  | segSpread (index : Nat) (wr : Bool) (limitM1 : Nat)
  | segBoard (index : Nat) (wr : Bool) (limitM1 target : Nat) (there : Bool)
  | segTile (index : Nat) (wr : Bool) (limitM1 tile : Nat)
deriving DecidableEq, Repr

/-- Host data that a started command waits for (R477). -/
inductive HostUse where
  | memWrite (ctxAddr : Nat)
  | graphLoad (ctxAddr : Nat)
  | tableRows (handle table : Nat) (ids : List Nat)
deriving DecidableEq, Repr

/-- What a table command does to one row: TBL_ROWS_WRITE flips it to these bytes, TBL_RETIER moves it to this tier. -/
inductive RowJob where
  | flip (row : List Byte)
  | move (tier : Nat)
deriving DecidableEq, Repr

/-- What a started command still waits for before its reply. `rows`: a table command that has handled `count` rows waits for an
implicit publish before the rows it has left (R313). -/
inductive Await where
  | fence
  | turnRun (handle : Nat)
  | program (id : Nat)
  | deferred (d : Deferred)
  | hostData (addr len : Nat) (u : HostUse)
  | publish (handle table : Nat)
  | rows (handle table count : Nat) (missed : Bool) (todo : List (Nat × RowJob))
  | form
  | join (at_ : Xyz)
  | place (job : Nat)
  | rehome (src : Xyz)
  | exclude (src : Xyz)
  | remote (bytes : Nat)
deriving DecidableEq, Repr

/-- A command that has started and has not replied (R449, R474). `ring` is the device ring 4·fn + n; `claimed`: it
has claimed its outcome. -/
structure Active where
  ring : Nat
  index : Nat
  op : Nat
  irq : Bool
  tag : Nat
  ctx : Nat
  claimed : Bool
  wait : Await
deriving DecidableEq, Repr

/-! ### Links, packets and formation (chapters 12 and 13) -/

/-- The epoch tag and job of a flit (R354). -/
structure Tag where
  turn : Nat
  attempt : Nat
  untagged : Bool
  job : Nat
deriving DecidableEq, Repr

/-- A packet (R356). -/
structure Packet where
  type : Nat
  len : Nat
  sig : Bool
  poison : Bool
  detour : Bool
  holdAxis : Nat
  hold : Nat
  dst : Xyz
  addr : Nat
  sigTally : Nat
  sigTile : Nat
  src : Xyz
  tag : Nat
  data : List Byte
deriving DecidableEq, Repr

/-- A packet with the virtual channel and the epoch tag of its flit (R354, R359). -/
structure Parcel where
  vc : Nat
  tag : Tag
  pkt : Packet
deriving DecidableEq, Repr

/-- Where a packet stands in this package: it came in through a port, it is at the router of a mesh number, or in the hub,
whose units are no part of the tile mesh (R26, R27, R364, R367). -/
inductive Stand where
  | port (i : Nat)
  | router (m : Nat)
  | hub
deriving DecidableEq, Repr

/-- A data flit kept until its acknowledgement (R374). -/
structure Kept where
  seq : Nat
  parcel : Parcel
deriving DecidableEq, Repr

/-- A width change in progress on one direction (R379, R380): the intersection of the masks exchanged so far, and whether
both sides have sent. -/
structure LaneChange where
  mask : Nat
  both : Bool
deriving DecidableEq, Repr

/-- One of the six ports (R372–R388). States: 0 DOWN, 1 training, 2 UP, 3 EDGE, 4 LOST. `prior` is the state before a
renewed training (R386), `x` the number expected next (R375), `told` the FREED counts last reported (R378); `barred`: lost
and not yet reachable again (R381, R386). `lastVc` is the VC last served of each pair, and `waited` how many flits of others have gone
out while a VC could send (R362). `naks` counts the NAKs for this x, and `corrected` the corrected symbols of each lane since x
last advanced (R379). A pause keeps what comes in it: `heldNak`, `heldChange`, and a resend that a re-framing owes; `forced`: it
runs outside a window (R385). -/
structure Port where
  st : Nat := 0
  prior : Option Nat := none
  txW : Nat := 0
  rxW : Nat := 0
  txLanes : Nat := 0
  rxLanes : Nat := 0
  goodTx : Nat := 0
  goodRx : Nat := 0
  slotMismatch : Bool := false
  pPort : Nat := 0
  pSlot : Nat := 0
  pValid : Bool := false
  pSerial : Nat := 0
  pStraps : Nat := 0
  replays : Nat := 0
  crcErr : Nat := 0
  degrades : Nat := 0
  delay : Nat := 0
  txBytes : Nat := 0
  rxBytes : Nat := 0
  seqNext : Nat := 0
  kept : List Kept := []
  txq : List Parcel := []
  sent : Table Nat := []
  freed : Table Nat := []
  x : Nat := 0
  nakFor : Option Nat := none
  released : Table Nat := []
  told : Table Nat := []
  unacked : Bool := false
  txChange : Option LaneChange := none
  rxChange : Option LaneChange := none
  heldNak : Option Nat := none
  heldChange : List (Nat × Bool) := []
  resendOwed : Bool := false
  pause : Bool := false
  forced : Bool := false
  lastVc : Table Nat := []
  waited : Table Nat := []
  naks : Nat := 0
  corrected : Table Nat := []
  recalOwed : Bool := false
  step : Nat := 0
  quiet : Bool := false
  barred : Bool := false
deriving DecidableEq, Repr

/-- A package as a FORM_REPORT describes it (R406): per port its state, the partner's serial and the partner's port. -/
structure PkgReport where
  serial : Nat
  bankerEn : Bool
  standbyEn : Bool
  slot : Nat
  ports : List (Nat × Nat × Nat)
  delaySum : Nat
deriving DecidableEq, Repr

/-- A package the Banker has placed (R405, R406); `lost`: its ports that it has reported LOST (R370, R492). -/
structure Placed where
  at_ : Xyz
  serial : Nat
  bankerEn : Bool
  standbyEn : Bool
  slot : Nat
  delaySum : Nat
  lost : List Nat := []
deriving DecidableEq, Repr

/-- A job of the job table (R390, R408): its box and the roles that re-homes have moved. -/
structure Job where
  job : Nat
  origin : Xyz
  shape : Xyz
  moved : List (Xyz × Xyz)
deriving DecidableEq, Repr

/-- What the Banker records at the standby before acting on it (R283, R405, R475, R493). -/
inductive Decision where
  | formed (placed : List Placed) (missing : List Xyz)
  | commit (key turn attempt : Nat)
  | cancel (key turn : Nat)
  | place (j : Job)
  | remove (job : Nat)
  | joined (p : Placed)
  | lost (at_ : Xyz)
  | assign (job : Nat) (rank to_ : Xyz)
  | exclude (at_ : Xyz) (out : Bool)
deriving DecidableEq, Repr

/-- Formation state held by every package (R33, R404–R411, R416, R498). `away`: a re-home has put the package's role where
its rank does not say (R390, R493). -/
structure Form where
  form : Nat := 0
  banker : Bool := false
  standby : Bool := false
  coord : Xyz := {}
  ext : Xyz := {}
  missing : List Xyz := []
  nextMissing : Option (List Xyz) := none
  bankerAt : Xyz := {}
  standbyAt : Option Xyz := none
  epoch : Nat := 0
  probeEpoch : Option Nat := none
  parent : Option Nat := none
  roleJob : Nat := 0xFFF
  roleRank : Xyz := { x := 15, y := 15, z := 15 }
  rehomed : Bool := false
  away : Bool := false
  lastBeat : Nat := 0
  recorded : List Decision := []
deriving DecidableEq, Repr

/-- What only the Banker holds (R405–R408, R411, R492, R493, R497). `reports` and `acks` are SERIALs of a formation under
way; `rehomes` are re-homes whose reserve is not READY yet (job, rank, reserve); `moves` wait for a COMMIT (FROM, TO);
`alive` holds the time of the last ALIVE by coordinates; `lostPorts` counts LOST ports that faced a package, with the time
of the first. -/
structure Bank where
  expect : Option Xyz := none
  reports : List PkgReport := []
  placed : List Placed := []
  acks : List Nat := []
  jobs : List Job := []
  waiting : List (Nat × Decision) := []
  nextSeq : Nat := 0
  excluded : List Xyz := []
  rehomes : List (Nat × Xyz × Xyz) := []
  moves : List (Xyz × Option Xyz) := []
  rehomeCount : Table Nat := []
  candidates : List (Xyz × PkgReport) := []
  alive : Table Nat := []
  lostPorts : List (Xyz × Nat × Nat) := []
deriving DecidableEq, Repr

/-! ### Contexts, Turns and regions (chapters 01, 09, 11, 15, 16, 18) -/

/-- Context states (R442, R468). -/
inductive CtxSt where
  | closed | opened | running | stopped
deriving DecidableEq, Repr

/-- What pages taken from a context's quota are used for (R352, R430, R460, R461, R473). -/
inductive Use where
  | root
  | leaf (i : Nat)
  | segment (index : Nat)
  | store (handle copy : Nat)
  | save
  | program (id : Nat)
deriving DecidableEq, Repr

/-- Pages of one stack that a context holds: a package address in the stack window and a byte count. -/
structure Alloc where
  addr : Nat
  bytes : Nat
  use : Use
deriving DecidableEq, Repr

/-- Granules of the spread window that a context holds (R460): segment index, window offset, bytes. -/
structure SpreadAlloc where
  index : Nat
  off : Nat
  bytes : Nat
deriving DecidableEq, Repr

/-- A recipe state (R278): STEP, and B1P and B2P as FP32 codes. -/
structure RecipeState where
  step : Nat
  b1p : Nat
  b2p : Nat
deriving DecidableEq, Repr

/-- A variant group's committed selection, clean counter and amax (R105–R109), and the attempt's working values. -/
structure Variant where
  sel : Nat := 0
  clean : Nat := 0
  amaxLast : Nat := 0
  amaxNow : Nat := 0
  sats : Nat := 0
deriving DecidableEq, Repr

/-- A loaded Rulebook (R40, R461): package addresses of its two copies, its size, and the committed state that
belongs to it. `named`: a TURN_RUN has named it (R312); `started`: it has the state that a first TURN_RUN makes (R278); `mirrored`: the buddy has its whole copy, or gets it (R288). -/
structure Book where
  addr : Nat
  copy : Nat
  bytes : Nat
  recipes : Table RecipeState := []
  variants : Table Variant := []
  named : Bool := false
  started : Bool := false
  mirrored : Bool := false
deriving DecidableEq, Repr

/-- A package's contribution to the closing tally (R268): norm pairs as FP32 codes, the NONFINITE flag, the variant
groups' SAT counts and SAT_TOTAL. -/
structure Contribution where
  norms : List (Nat × Nat)
  nonfinite : Bool
  vsat : List Nat
  satTotal : Nat
deriving DecidableEq, Repr

/-- The small committed state that travels with a vote (R287, R289): recipe states, variants, lane counters, Turn, and the
handle of the Rulebook whose states these are. -/
structure Small where
  turn : Nat
  handle : Nat
  recipes : List (Nat × RecipeState)
  variants : List (Nat × Variant)
  lanes : List (Nat × Nat)
deriving DecidableEq, Repr

/-- What a whole copy of a predecessor's committed state brings into the buddy's hub SRAM (R287, R288): its rank, its
small state, its TENSOR_TABLE, RECIPES and TABLES sections by type, and which tables have a re-tier list in force or a
pass that is due (R308, R309). -/
structure MirrorCopy where
  rank : Nat
  small : Small
  sections : List (Nat × List Byte)
  retier : List Nat
  due : List Nat
deriving DecidableEq, Repr

/-- The mirror that a context keeps for its predecessor (R286–R290): the epoch it has reached, and the committed Turns
that it still has to apply, each with the Turn's closing-tally record (no bytes without a closing tally). `held` has one copy
for each of the predecessor's Rulebooks, the newest first. `wanted`: the next GO waits for a whole copy of the mirror (R337,
row B). -/
structure Mirror where
  valid : Bool := false
  epoch : Nat := 0
  todo : List (Nat × List Byte) := []
  held : List MirrorCopy := []
  wanted : Bool := false
deriving DecidableEq, Repr

/-- The Turn machinery of one context (R255–R258, R282–R291, R580). PHASE: 0 idle, 1 waiting for GO, 2 running,
3 record received, 4 voted, 5 stopped. `cancelled`: Turns whose first TURN_RUN will reply ABORTED; `ownCancels`: CANCELs
that this package asked for and that have not come back (R475). `quietNs`: how long no move has issued, as R56 counts it.
`next` is the attempt that starts next, `after` one above the last that ran (R256, R284); `tallied` one above the last attempt
whose tally-fault replay is counted (R58); `recover`: a REPLAY or a re-home has come and no GO since (R402). `left`: journals of
Rulebooks unloaded within the Turn, by journal and directory address and count (R307). -/
structure Turn where
  num : Nat := 0
  attempt : Nat := 0
  ran : Bool := false
  phase : Nat := 0
  slot : Bool := false
  lastAction : Nat := 0
  keepForce : Bool := false
  noClose : Bool := false
  replays : Nat := 0
  updSat : Nat := 0
  handle : Nat := 0
  started : Bool := false
  poison : Bool := false
  cause : Nat := 0
  closed : Bool := false
  closeSig : Option Nat := none
  record : Option (List Byte) := none
  recordHere : Bool := false
  causes : Table Nat := []
  cancelled : List Nat := []
  ownCancels : List Nat := []
  buddyEpoch : Option Nat := none
  awaitCopy : Bool := false
  sinceSwitch : Nat := 0
  quietNs : Nat := 0
  next : Nat := 0
  after : Nat := 0
  tallied : Nat := 0
  recover : Bool := false
  left : List (Nat × Nat × Nat) := []
deriving DecidableEq, Repr

/-- One of the sixteen contexts (R440, R455–R473). `rank` is the role's rank x + 16·y + 256·z (R36, R389). -/
structure Ctx where
  st : CtxSt := .closed
  compat : Bool := false
  job : Nat := 0xFFFF
  stopStatus : Nat := 0
  reason : Nat := 0
  stopSeq : Nat := 0
  mask : Nat := 0
  slice : Nat := 0
  quota : Table Nat := []
  spreadMib : Nat := 0
  root : Nat := 0
  allocs : List Alloc := []
  spread : List SpreadAlloc := []
  stealOff : Bool := false
  keepAll : Bool := false
  seed : Nat := 0
  seedLocked : Bool := false
  threadLimit : Nat := 32
  fraction : Nat := 1
  deepest : Pwr := .off
  lost : List (Nat × Nat) := []
  owed : List (Nat × Nat) := []
  books : Table (Option Book) := []
  rank : Nat := 0
  turn : Turn := {}
  mirror : Mirror := {}
  trace : Option Nat := none
deriving DecidableEq, Repr

/-- The Banker's view of one job's running Turn (R257, R268–R273, R283, R475). The key is the JOB number, or
0x10000 + c for context c of JOB 0xFFFF, whose own package is its Banker (R457). -/
structure JobTurn where
  turn : Nat := 0
  attempt : Nat := 0
  ready : List Nat := []
  gone : Bool := false
  yes : List Nat := []
  contribs : Table (Option Contribution) := []
  poisoned : Bool := false
  deciding : Bool := false
  committed : Bool := false
deriving DecidableEq, Repr

/-- One region: tile map, power, engines and their counters (R11–R16, R65–R67, R235, R317, R487, R488, R531, R558).
`ingress` holds packets for its tiles that wait in the die fabric while it does not run (R66); its clock ramps up from
`rampFrom` to `rampEnd`, and the ramp limiter delays issue until `holdUntil` (R67). `scrubNap`: brought to nap to be scrubbed,
from which state and when (R169). -/
structure Region where
  map : List Nat := [0, 1, 2, 3, 4, 5, 6, 7, 8, 9, 10]
  spare : Nat := 11
  spareUsed : Bool := false
  lost : Bool := false
  holder : Option Nat := none
  pwr : Pwr := .off
  entering : Option Pwr := none
  waking : Option Pwr := none
  want : Option Pwr := none
  wakeNext : Option Pwr := none
  nextDemand : Bool := false
  ramp : Nat := 0
  lead : Nat := 0
  mhz : Nat := 0
  thermMhz : Nat := 1800
  pendMhz : Option Nat := none
  lastStep : Nat := 0
  lastHot : Nat := 0
  lastCool : Nat := 0
  temp : Nat := 0
  issueHeld : Bool := false
  wakes : Nat := 0
  demand : Nat := 0
  downSince : Nat := 0
  fails : Nat := 0
  runs : Nat := 0
  spnHost : Option Nat := none
  updHost : Option Nat := none
  spnOvf : Bool := false
  edges : Nat := 0
  dropped : Nat := 0
  pfHit : Nat := 0
  pfMiss : Nat := 0
  pfWaste : Nat := 0
  pfRows : Nat := 0
  tblReads : Nat := 0
  tblWrites : Nat := 0
  tblRetiers : Nat := 0
  tblFence : Nat := 0
  ingress : List (Parcel × List Upset) := []
  rampFrom : Nat := 0
  rampEnd : Nat := 0
  holdUntil : Nat := 0
  scrubNap : Option (Pwr × Nat) := none
deriving DecidableEq, Repr

/-- What a scrubber's read finds. -/
inductive ErrKind where
  | none | corrected | uncorrectable
deriving DecidableEq, Repr

/-- A request to a stack's sector path or block queue (R327–R329, R332). `src` is the requester's 13-bit source. -/
structure HbmReq where
  stack : Nat
  off : Nat
  len : Nat
  write : Bool
  data : List Byte
  src : Nat
  err : ErrKind
  lane : Nat
deriving DecidableEq, Repr

/-- One HBM stack (R318–R321, R331–R335, R340, R343). States: 0 untrained, 1 running, 2 self refresh, 3 lost.
`heldUntil`: background work outside a window holds its moves till then (R64). The patrol scrub has read `patrolled` sectors
in `ran` ns of running time before `since` and the time since then (R340). `retrain` holds lanes (channel × 64 + lane) whose
channel retrains after the next COMMIT, `retrainNow` those that retrain now (R321). -/
structure Stack where
  st : Nat := 0
  slow : Bool := false
  hot : Bool := false
  ce : Nat := 0
  ue : Nat := 0
  lastErr : Nat := 0
  late : Nat := 0
  rd : Nat := 0
  wr : Nat := 0
  sectors : Nat := 0
  lanes : Nat := 0
  remap : List (Nat × Nat) := []
  badSpares : List Nat := []
  marked : List (Nat × Bool) := []
  ceTimes : Table (List Nat) := []
  laneTimes : Table (List Nat) := []
  retrain : List Nat := []
  retrainNow : List Nat := []
  owed : Table Nat := []
  calDue : List Nat := []
  lastReq : Nat := 0
  waiting : List (HbmReq × Bool) := []
  heldUntil : Nat := 0
  ran : Nat := 0
  since : Nat := 0
  patrolled : Nat := 0
deriving DecidableEq, Repr

/-- A self-test run under way (R484). -/
structure TestRun where
  unit : UnitId
  start : Nat
deriving DecidableEq, Repr

/-- A maintenance window that is open (R63, R484): scope (`none` the package), kinds, end, units that ran in it. -/
structure Window where
  region : Option Nat
  kinds : Nat
  start : Nat
  stop : Nat
  ran : List UnitId
deriving DecidableEq, Repr

/-! ### Tiles and moves (chapters 02–08, 10) -/

/-- The units that moves run on (R45). -/
inductive UnitKind where
  | sequencer | array | vector | store | gather | spinner | prefetcher | update
deriving DecidableEq, Repr

/-- A move that has issued and not completed (R45, R51). Arrivals are (package logical tile, tally); `once` is the
ONCE_ID that an ST_LOAD sets when it completes (R162); `hbm`: it reads or writes HBM (R402); `out`: 1 when
it leaves through the drain buffer, 2 once drained (R129), 3 while an update move waits for the record or its buddy
(R281, R290), with the errors it will meet in `errs`; `used`: the stacks it has read or written. `owner`: of a DEMAND,
the tile whose arrival the flight brings (R233). -/
structure Flight where
  index : Nat
  cls : Nat
  unit : UnitKind
  arrivals : List (Nat × Nat)
  thief : Option Nat
  once : Option Nat
  hbm : Bool
  out : Nat
  errs : List Upset
  used : List Nat := []
  owner : Option Nat := none
deriving DecidableEq, Repr

/-- One running loop (R47): first move of the body, moves in it, trips left after this one, trips done. -/
structure Loop where
  start : Nat
  len : Nat
  left : Nat
  iter : Nat
deriving DecidableEq, Repr

/-- An accumulator of the array (R112, R127): `kind` 0 empty, 1 FP32 pair, 2 INT32; `st` its state (R123): 0 normal,
1 NAN, 2 INF, 3 SAT; S and E as FP32 codes, the exact block-integer value as an integer. -/
structure Acc where
  kind : Nat := 0
  st : Nat := 0
  neg : Bool := false
  s : Nat := 0
  e : Nat := 0
  i : Int := 0
deriving DecidableEq, Repr

/-- One way of the row cache (R171). `data` holds the line's four sectors; the parity bit of each follows from them, and a
command says where one fails (R168). -/
structure RcWay where
  way : Nat
  tag : Nat
  svalid : Nat
  count : Nat
  used : Bool
  data : List Byte
deriving DecidableEq, Repr

/-- A set of the row cache: its valid ways, its accesses since the last halving. -/
structure RcSet where
  ways : List RcWay := []
  accesses : Nat := 0
deriving DecidableEq, Repr

/-- A gather stream in use (R182, R189): its move index, 16-row chunks not yet taken, the stream it helps where it runs a chunk of
another's move, and whether it runs a stolen move (R206). -/
structure GStream where
  index : Nat
  chunksLeft : Nat
  helps : Option Nat := none
  guest : Bool := false
deriving DecidableEq, Repr

/-- One logical tile of the package, T0–T131 (R13, R44–R50, R68). `idleNow`: the idle cause that its time goes to, 10 while it
is active (R523, R527). -/
structure Tile where
  active : Bool := false
  pos : Nat := 0
  loops : List Loop := []
  trips : Table Nat := []
  tallies : Table Nat := []
  ended : Bool := false
  stopped : Bool := false
  buffer : Table (Option Nat) := []
  flights : List Flight := []
  accs : Table Acc := []
  accShape : Nat := 0
  check : Nat := 0
  once : Nat := 0
  onceNext : Nat := 0
  streams : Table (Option GStream) := []
  drain : Option Nat := none
  ask : Option Nat := none
  offers : List UnitKind := []
  pages : List Nat := []
  bad : List (Nat × Nat) := []
  flags : Nat := 0
  satCnt : Nat := 0
  t2inv : Nat := 0
  lastIssue : Nat := 0
  traceq : List (List Byte) := []
  traceEntries : Nat := 0
  traceDropped : Nat := 0
  idleNow : Nat := 10
deriving DecidableEq, Repr

/-- The registers and counters of one physical tile, by mesh number 12·my + mx (R71, R174, R206, R521). `faultIter`: the
loops' iteration numbers at the last tally fault (R48; log entry 33). `rc` and `rcWays`: the row cache and its enabled ways
(R147, R171). The scrubber has read `scrubbed` words since `scrubStart` (R169); its work outside a window holds moves until
`heldUntil` (R64). -/
structure Phys where
  fault : Nat := 0
  faultCnt : Nat := 0
  faultIter : Nat := 0
  ecc : Nat := 0
  eccUe : Nat := 0
  eccLast : Nat := 0
  gthRows : Nat := 0
  laneSteals : Nat := 0
  stealOut : Nat := 0
  stealIn : Nat := 0
  near : Nat := 0
  deep : Nat := 0
  rcHit : Nat := 0
  rcMiss : Nat := 0
  rc : Table RcSet := []
  rcWays : Nat := 0
  scrubStart : Nat := 0
  scrubbed : Nat := 0
  heldUntil : Nat := 0
deriving DecidableEq, Repr

/-! ### What commands carry -/

/-- The header of a host command with the function and ring it stands in (R451, R453): the packet at the ring's
consumer index. -/
structure Hdr where
  fn : Nat
  ring : Nat
  irq : Bool
  ordered : Bool
  length : Nat
  context : Nat
  tag : Nat
deriving DecidableEq, Repr

/-- The SET, FLAGS, SEED and THREAD_LIMIT fields of CTX_POLICY (R459). -/
structure Policy where
  set : Nat
  flags : Nat
  seed : Nat
  threadLimit : Nat
deriving DecidableEq, Repr

/-- A trace descriptor (R526). -/
structure TraceDesc where
  kinds : Nat
  firstTile : Nat
  tileCount : Nat
  sample : Nat
  mode : Nat
  buffer : Nat
  bytes : Nat
  firstTurn : Nat
  turns : Nat
deriving DecidableEq, Repr

/-- The body of HELLO (R383). -/
structure HelloBody where
  port : Nat
  slot : Nat
  straps : Nat
  deviceId : Nat
  serial : Nat
  version : Nat
  goodLanes : Nat
deriving DecidableEq, Repr

/-- What a training step found (R382): signal at all, good lanes, and after step 6 the one-way delay. -/
structure TrainResult where
  signal : Bool
  good : Nat
  delay : Nat
deriving DecidableEq, Repr

/-- How a stack's training ended (R319, R320): 0 full speed, 1 fall-back, 2 lost, with the channel that failed and the
lanes now repaired, each as channel × 64 + lane with the spare that serves it. -/
structure HbmTrain where
  outcome : Nat
  channel : Nat
  repaired : List (Nat × Nat)
deriving DecidableEq, Repr

/-- Strap pin levels (R545). -/
structure Straps where
  bankerEn : Bool
  standbyEn : Bool
  slot : Nat
  legacy : Bool
  raMode : Nat
deriving DecidableEq, Repr

/-- FORM_ASSIGN (R406). -/
structure Assign where
  epoch : Nat
  serial : Nat
  coord : Xyz
  ext : Xyz
  missing : List Xyz
  banker : Xyz
  standby : Option Xyz
  time : Nat
  delay : Nat
deriving DecidableEq, Repr

/-- A PLDM request over MCTP (R520): a sensor reading, the FRU record, the terminus's base commands, or enabling
platform events. -/
inductive PldmReq where
  | setEndpoint (eid : Nat)
  | getTypes
  | reading (sensor : Nat)
  | fru
  | events (enable : Bool)
deriving DecidableEq, Repr

/-- A management request's header and authorization (R517, R518): the request's bytes without AUTH stand in `raw`. -/
structure MgtHdr where
  reqId : Nat
  raw : List Byte
  auth : Option (List Byte)
deriving DecidableEq, Repr

end Sys2Proof.Machine
end

