-- ==== Sys2Proof/Syntax.lean ====
section
/-! DEFINITION. The commands that reach the block: one constructor per row of spec/opcode_table.json, in the table's
order, with the row's operands. Host commands carry their header `h`; a move carries its context, its package logical tile,
and the errors hardware meets while it runs. A command that writes host memory carries `refuse`: how many bytes of its write the host
takes before it refuses one, or none (R465). -/

namespace Sys2Proof

open Sys2Proof.Machine

/-- One command of the opcode table. -/
inductive Instr where
  /-- NOP (R454: does nothing and replies DONE.) -/
  | nop (h : Hdr)
  /-- FENCE (R448: completes only when every earlier packet of its ring has completed.) -/
  | fence (h : Hdr)
  /-- DEV_QUERY (R462: writes the 256-byte device page to host memory.) -/
  | devQuery (h : Hdr) (hostAddr : Nat) (refuse : Option Nat)
  /-- CTX_OPEN (R456: PF command that opens a context with its regions, quotas, slice and job, after checking allocation and state.) -/
  | ctxOpen (h : Hdr) (job : Nat) (mask : Nat) (slice : Nat) (quota : List Nat) (spread : Nat)
  /-- CTX_CLOSE (R469: PF command that ends a context, aborts its started commands, releases its Rulebooks, programs and segment table and returns its pages.) -/
  | ctxClose (h : Hdr)
  /-- CTX_POLICY_SET (R459: CTX_POLICY with OP 0 that sets the steal, keep-all, seed and thread-limit fields named in SET.) -/
  | ctxPolicySet (h : Hdr) (p : Policy)
  /-- RUN_PROGRAM (R430: CTX_POLICY with OP 1 that copies, checks and starts a service-program image and replies when its last thread ends.) -/
  | runProgram (h : Hdr) (p : Policy) (program : Nat) (u : List Upset)
  /-- RESUME (R468: CTX_POLICY with OP 2 that returns a STOPPED context to OPEN.) -/
  | resume (h : Hdr) (p : Policy)
  /-- CTX_SEG_RELEASE (R460: CTX_SEG OP 0 that clears a segment entry and returns its pages.) -/
  | ctxSegRelease (h : Hdr) (index : Nat)
  /-- CTX_SEG_ALLOC_STACK (R460: CTX_SEG OP 1 that takes zeroed pages in one stack and maps them.) -/
  | ctxSegAllocStack (h : Hdr) (index : Nat) (write : Bool) (stack : Nat) (limitM1 : Nat)
  /-- CTX_SEG_ALLOC_SPREAD (R460: CTX_SEG OP 2 that takes zeroed consecutive spread-window granules and maps them.) -/
  | ctxSegAllocSpread (h : Hdr) (index : Nat) (write : Bool) (limitM1 : Nat)
  /-- CTX_SEG_MAP_BOARD (R460: CTX_SEG OP 3 that maps a board range on another package of the board.) -/
  | ctxSegMapBoard (h : Hdr) (index : Nat) (write : Bool) (limitM1 : Nat) (target : Nat) (there : Bool)
  /-- CTX_SEG_MAP_TILE (R460: CTX_SEG OP 4 that maps the tile window of one of the context's logical tiles.) -/
  | ctxSegMapTile (h : Hdr) (index : Nat) (write : Bool) (limitM1 : Nat) (tile : Nat)
  /-- RB_LOAD (R40: reads, copies twice and checks a Rulebook image and returns its handle or a refusal.) -/
  | rbLoad (h : Hdr) (ctxAddr : Nat) (bytes : Nat) (u : List Upset)
  /-- RB_UNLOAD (R461: releases both Rulebook store copies and their mapping.) -/
  | rbUnload (h : Hdr) (handle : Nat)
  /-- TURN_RUN (R470: runs one Turn of a loaded Rulebook and replies at its commit or stop.) -/
  | turnRun (h : Hdr) (handle : Nat)
  /-- TURN_STOP_AFTER (R470: TURN_STOP with MODE 0: the running Turn completes and every queued TURN_RUN replies ABORTED.) -/
  | turnStopAfter (h : Hdr)
  /-- TURN_STOP_NOW (R470: TURN_STOP with MODE 1: the running attempt is abandoned if it reaches the Banker before COMMIT is recorded.) -/
  | turnStopNow (h : Hdr)
  /-- TURN_STATUS (R454: returns the Turn number and Turn state, or TURN_REPLAYED while in replay.) -/
  | turnStatus (h : Hdr)
  /-- ABORT (R474: tries to claim the outcome of a named packet and replies DONE, ABORT_TOO_LATE or NOT_FOUND.) -/
  | abort (h : Hdr) (ring : Nat) (index : Nat) (tOp : Nat) (tTag : Nat) (tIrq : Bool)
  /-- MEM_WRITE (R454: copies host memory into context memory.) -/
  | memWrite (h : Hdr) (hostAddr : Nat) (ctxAddr : Nat) (bytes : Nat)
  /-- MEM_READ (R454: copies context memory to host memory.) -/
  | memRead (h : Hdr) (ctxAddr : Nat) (hostAddr : Nat) (bytes : Nat) (refuse : Option Nat) (u : List Upset)
  /-- MEM_FILL (R454: fills context memory with a 32-bit pattern.) -/
  | memFill (h : Hdr) (ctxAddr : Nat) (bytes : Nat) (pattern : Nat) (u : List Upset)
  /-- MEM_COPY (R454: copies between two context ranges.) -/
  | memCopy (h : Hdr) (src : Nat) (dst : Nat) (bytes : Nat) (u : List Upset)
  /-- GRAPH_LOAD (R455: writes graph data into context memory, deferred to a Turn boundary.) -/
  | graphLoad (h : Hdr) (hostAddr : Nat) (ctxAddr : Nat) (bytes : Nat)
  /-- GRAPH_PATCH (R455: applies up to 254 small patches to graph arrays at a Turn boundary.) -/
  | graphPatch (h : Hdr) (entries : List (Nat × Nat × Nat)) (u : List Upset)
  /-- TBL_CREATE (R312: initialises every directory entry of a table and zeroes copy 0 of each pair.) -/
  | tblCreate (h : Hdr) (handle : Nat) (table : Nat) (tier : Nat) (u : List Upset)
  /-- TBL_ROWS_WRITE (R313: quantizes host rows into the other copy of each row's pair and flips each entry.) -/
  | tblRowsWrite (h : Hdr) (handle : Nat) (table : Nat) (rowsHost : Nat) (ids : List Nat)
  /-- TBL_PUBLISH (R315: performs a publish of a table and completes when the publish completes.) -/
  | tblPublish (h : Hdr) (handle : Nat) (table : Nat)
  /-- TBL_RETIER (R314: moves listed rows to new tiers in free pairs, re-quantized.) -/
  | tblRetier (h : Hdr) (handle : Nat) (table : Nat) (items : List (Nat × Nat)) (u : List Upset)
  /-- CHK_FRACTION (R480: sets the context's check fraction at a Turn boundary.) -/
  | chkFraction (h : Hdr) (fraction : Nat)
  /-- CHK_SELFTEST (R485: gives one self-test run to every unit of the named regions between Turns.) -/
  | chkSelftest (h : Hdr) (mask : Nat) (failing : List UnitId)
  /-- FLT_QUERY (R463: writes the 4 KiB fault report of the last stop and lost ranges.) -/
  | fltQuery (h : Hdr) (hostAddr : Nat) (refuse : Option Nat)
  /-- SP_READ (R511: copies stored Scorepad records to host memory from a sequence number.) -/
  | spRead (h : Hdr) (first : Nat) (count : Nat) (hostAddr : Nat) (refuse : Option Nat)
  /-- SP_CLEAR (R513: PF command that passes an authorized Scorepad clear to the management processor.) -/
  | spClear (h : Hdr) (auth : List Byte) (seq : Nat)
  /-- CNT_SNAPSHOT (R524: writes a counter snapshot to host memory.) -/
  | cntSnapshot (h : Hdr) (hostAddr : Nat) (bytes : Nat) (refuse : Option Nat)
  /-- TRACE_ARM (R526: TRACE_ARM with OP 1 that arms tracing into a buffer from the next GO.) -/
  | traceArm (h : Hdr) (d : TraceDesc)
  /-- TRACE_DISARM (R526: TRACE_ARM with OP 0 that disarms tracing from the next GO.) -/
  | traceDisarm (h : Hdr)
  /-- PWR_POLICY (R541: PF command that sets power cap, window, a context's deepest state and the idle state.) -/
  | pwrPolicy (h : Hdr) (set : Nat) (deepest : Nat) (idle : Nat) (capW : Nat) (windowMs : Nat)
  /-- SYS_JOIN (R409: PF command on the Banker that admits a package at a missing coordinate as a reserve package.) -/
  | sysJoin (h : Hdr) (x : Nat) (y : Nat) (z : Nat)
  /-- SYS_FORM_FORM (R406: SYS_FORM OP 0 that starts system formation by sending FORM_PROBE through every UP port.) -/
  | sysFormForm (h : Hdr) (ex : Nat) (ey : Nat) (ez : Nat)
  /-- SYS_FORM_PLACE (R408: SYS_FORM OP 1 that places a job box, assigns a JOB number and sends ranks.) -/
  | sysFormPlace (h : Hdr) (origin : Xyz) (shape : Xyz)
  /-- SYS_FORM_REMOVE (R454: SYS_FORM OP 2 that removes a job.) -/
  | sysFormRemove (h : Hdr) (job : Nat)
  /-- SYS_REHOME_QUERY (R497: SYS_REHOME OP 0 that returns the number of re-homes in progress.) -/
  | sysRehomeQuery (h : Hdr)
  /-- SYS_REHOME_MOVE (R497: SYS_REHOME OP 1 that moves a running role to a reserve after the running Turn commits.) -/
  | sysRehomeMove (h : Hdr) (src : Xyz) (dst : Xyz)
  /-- SYS_REHOME_DECLARE_LOST (R497: SYS_REHOME OP 2 that declares a package lost at once.) -/
  | sysRehomeDeclareLost (h : Hdr) (src : Xyz)
  /-- SYS_REHOME_EXCLUDE (R497: SYS_REHOME OP 3 that excludes or re-admits a package as a re-home target.) -/
  | sysRehomeExclude (h : Hdr) (flags : Nat) (src : Xyz)
  /-- SYS_TIME_READ (R412: SYS_TIME OP 0 that reports fabric time and synchronisation state.) -/
  | sysTimeRead (h : Hdr)
  /-- SYS_TIME_SET (R412: SYS_TIME OP 1 that sets fabric time on the Banker before formation.) -/
  | sysTimeSet (h : Hdr) (value : Nat)
  /-- UNSUPPORTED_OPCODE (R466: A packet with an undefined opcode replies UNSUPPORTED_OPCODE.) -/
  | unsupportedOpcode (h : Hdr) (opcode : Nat)
  /-- CMD_SQ_DOORBELL_WRITE (R446: Host write of the producer index that makes packets visible and signals the ring's doorbell event.) -/
  | sqDoorbell (fn : Nat) (ring : Nat) (value : Nat)
  /-- CMD_CQ_DOORBELL_WRITE (R449: Host write of the completion consumer index that frees entries and lets stalled replies be written.) -/
  | cqDoorbell (fn : Nat) (ring : Nat) (value : Nat)
  /-- FLUSH (R476: Write of CMD_RING_CTRL.FLUSH that drops every unstarted visible packet and sets P to C.) -/
  | flush (fn : Nat) (ring : Nat)
  /-- RING_ENABLE (R442: Setting CMD_SQ_CFG.ENABLE from 0 to 1, which sets every ring index to 0 and starts the ring.) -/
  | ringEnable (fn : Nat) (ring : Nat) (log2Slots : Nat)
  /-- RING_DISABLE (R443: Clearing CMD_SQ_CFG.ENABLE, which flushes the ring and stops it once started commands reply.) -/
  | ringDisable (fn : Nat) (ring : Nat)
  /-- CMD_INT_STATUS_CLEAR (R442: Write-one-to-clear of interrupt cause bits.) -/
  | intStatusClear (fn : Nat) (mask : Nat)
  /-- REGISTER_WRITE (R442: Write to a register that has no behaviour of its own: stores the value or has no effect.) -/
  | registerWrite (fn : Nat) (bar : Nat) (offset : Nat) (size : Nat) (value : Nat)
  /-- COUNTER_LOW_READ (R6: Read of the low half of a 64-bit counter, which latches the high half in the reader's latch.) -/
  | counterLowRead (reader : Nat) (offset : Nat) (size : Nat)
  /-- COUNTER_HIGH_READ (R6: Read of the high half of a 64-bit counter, which returns the reader's latched value.) -/
  | counterHighRead (reader : Nat) (offset : Nat) (size : Nat)
  /-- MSIX_MODERATION_EXPIRY (R442: End of a MOD_US delay, which sends the vector's message if its cause bit is still set.) -/
  | msixExpiry (fn : Nat) (vec : Nat)
  /-- CORE_DISPATCH (R421: Core read of its dispatch port, which returns a selected thread or blocks until one is assigned.) -/
  | coreDispatch (core : Nat)
  /-- CORE_RELEASE_YIELD (R425: Core gives back its thread to the tail of its ready list.) -/
  | coreReleaseYield (core : Nat)
  /-- CORE_RELEASE_BLOCK (R426: Core gives back its thread to wait on an event, or leaves it READY if the event is pending.) -/
  | coreReleaseBlock (core : Nat) (event : Nat)
  /-- CORE_RELEASE_EXIT (R425: Core gives back its thread, which becomes FREE.) -/
  | coreReleaseExit (core : Nat)
  /-- CORE_SIGNAL (R426: Signal of an event that makes every thread blocked on it READY, or sets its pending bit.) -/
  | coreSignal (core : Nat) (event : Nat)
  /-- CORE_PREEMPT_CLEAR (R425: Write-one-to-clear of the core's preemption request.) -/
  | corePreemptClear (core : Nat) (value : Nat)
  /-- QUANTUM_EXPIRY (R424: End of a thread's quantum, at which it yields if another thread of its priority is READY.) -/
  | quantumExpiry (core : Nat)
  /-- EXIT (R431: Service call that ends the thread with an exit code.) -/
  | svcExit (core : Nat) (code : Nat)
  /-- YIELD (R431: Service call that releases the core with YIELD.) -/
  | svcYield (core : Nat)
  /-- WAIT_EVENT (R432: Service call that blocks on an event of the context's program range.) -/
  | svcWaitEvent (core : Nat) (event : Nat)
  /-- SIGNAL (R432: Service call that signals an event of the context's program range.) -/
  | svcSignal (core : Nat) (event : Nat)
  /-- SLEEP_UNTIL (R431: Service call that blocks the thread until a fabric time.) -/
  | svcSleepUntil (core : Nat) (time : Nat)
  /-- SLEEP_UNTIL_EXPIRY (R431: Fabric time reaches a sleeping thread's deadline and the thread becomes READY.) -/
  | sleepExpiry (thread : Nat)
  /-- TIME_READ (R431: Service call that returns fabric time.) -/
  | svcTimeRead (core : Nat)
  /-- CTX_READ (R432: Service call that copies context memory into writable space through the segment table.) -/
  | svcCtxRead (core : Nat) (addr : Nat) (len : Nat) (dst : Nat) (u : List Upset)
  /-- CTX_WRITE (R432: Service call that copies writable space to context memory through the segment table.) -/
  | svcCtxWrite (core : Nat) (addr : Nat) (len : Nat) (src : Nat) (u : List Upset)
  /-- REG_READ (R431: Service call that returns a register of the context's register view.) -/
  | svcRegRead (core : Nat) (offset : Nat)
  /-- SP_WRITE (R431: Service call that writes an EV_PROGRAM Scorepad record.) -/
  | svcSpWrite (core : Nat) (sev : Nat) (p0 : Nat) (p1 : Nat) (p2 : Nat)
  /-- SET_HANDLER (R431: Service call that registers or removes the thread's trap handler.) -/
  | svcSetHandler (core : Nat) (handler : Nat)
  /-- SERVICE_CALL_UNKNOWN (R431: Undefined service call that returns −1 and does nothing.) -/
  | svcUnknown (core : Nat) (number : Nat)
  /-- USER_TRAP (R433: Non-service trap from user mode, which ends the thread or enters its handler with a frame.) -/
  | userTrap (core : Nat) (cause : Nat) (pc : Nat) (regs : List Nat)
  /-- CORE_STOP (R434: A core's halt line reaches the management processor, which records it, resets the core and resolves its thread.) -/
  | coreStop (core : Nat) (cause : Nat)
  /-- MGT_WATCHDOG_RESET (R438: The always-on watchdog resets a stopped management processor, which reloads firmware and continues.) -/
  | mgtWatchdogReset (cause : Nat)
  /-- MOVE_FETCH_DONE (R43: Moves fetched from the Rulebook store arrive in the move buffer.) -/
  | moveFetchDone (c : Nat) (t : Nat) (n : Nat) (u : List Upset)
  /-- SEQ_NOP (R46: Move that does nothing and may deliver one arrival.) -/
  | seqNop (c : Nat) (t : Nat)
  /-- SEQ_END (R46: Move that ends the tile's stream for the Turn.) -/
  | seqEnd (c : Nat) (t : Nat)
  /-- SEQ_LOOP (R47: Move that runs the next BODY_LEN moves a trip count of times.) -/
  | seqLoop (c : Nat) (t : Nat)
  /-- SEQ_TRIP (R46: Move that loads a trip register from a near-store word.) -/
  | seqTrip (c : Nat) (t : Nat) (u : List Upset)
  /-- SEQ_TALLY (R49: Move that adds to or subtracts from a tally count.) -/
  | seqTally (c : Nat) (t : Nat)
  /-- SEQ_SIGNAL (R51: Move that delivers one arrival to a tally on a target tile.) -/
  | seqSignal (c : Nat) (t : Nat)
  /-- SEQ_POWER (R65: Move that requests run, nap, sleep or off for a region.) -/
  | seqPower (c : Nat) (t : Nat)
  /-- SEQ_WINDOW (R63: Move that opens a maintenance window for region or package.) -/
  | seqWindow (c : Nat) (t : Nat)
  /-- WINDOW_END (R63: A maintenance window's LENGTH expires.) -/
  | windowEnd (region : Option Nat)
  /-- ARR_MMA (R114: Array move that folds all K segments of A × B into accumulators and writes output in mode OUT.) -/
  | arrMma (c : Nat) (t : Nat) (u : List Upset)
  /-- DRAIN_DONE (R129: The array drain buffer finishes writing out and frees a waiting ARR_MMA.) -/
  | drainDone (c : Nat) (t : Nat)
  /-- VEC_EW (R135: Vector move that applies an element-wise operation over COUNT elements.) -/
  | vecEw (c : Nat) (t : Nat) (u : List Upset)
  /-- VEC_FN (R135: Vector move that applies a unary function over COUNT elements.) -/
  | vecFn (c : Nat) (t : Nat) (u : List Upset)
  /-- BERNOULLI (R246: VEC_FN operation that writes class-A Bernoulli mask bits.) -/
  | bernoulli (c : Nat) (t : Nat) (u : List Upset)
  /-- RELPOS (R138: VEC_FN operation that writes relative positions of query and key tokens.) -/
  | relpos (c : Nat) (t : Nat) (u : List Upset)
  /-- VEC_CVT (R135: Vector move that converts COUNT elements between formats.) -/
  | vecCvt (c : Nat) (t : Nat) (u : List Upset)
  /-- VEC_FOLD (R136: Vector move that folds a reduction group's contributions in ascending slot order.) -/
  | vecFold (c : Nat) (t : Nat) (u : List Upset)
  /-- VEC_RED (R137: Vector move that reduces each row by SUM, MAX or ARGMAX.) -/
  | vecRed (c : Nat) (t : Nat) (u : List Upset)
  /-- ST_COPY (R155: Store move that copies between tile addresses, optionally through the transposed block read.) -/
  | stCopy (c : Nat) (t : Nat) (u : List Upset)
  /-- ST_LOAD (R162: Store move that copies from a context address into tile stores, honouring ONCE bits.) -/
  | stLoad (c : Nat) (t : Nat) (u : List Upset)
  /-- ST_SAVE (R159: Store move that copies tile bytes to a context address.) -/
  | stSave (c : Nat) (t : Nat) (u : List Upset)
  /-- ST_FILL (R155: Store move that writes a 32-bit pattern to destination rows.) -/
  | stFill (c : Nat) (t : Nat) (u : List Upset)
  /-- ST_SEND (R159: Store move that copies tile bytes to another logical tile of the role.) -/
  | stSend (c : Nat) (t : Nat) (u : List Upset)
  /-- ST_RC_CLEAR (R172: ST_RC with OP 0 that sets every row-cache COUNT to 0.) -/
  | stRcClear (c : Nat) (t : Nat)
  /-- ST_RC_GHOST (R172: ST_RC with OP 1 that ghosts every row-cache line.) -/
  | stRcGhost (c : Nat) (t : Nat)
  /-- GTH_ROWS (R184: Gather move that fetches one row per edge record into consecutive near-store rows.) -/
  | gthRows (c : Nat) (t : Nat) (u : List Upset)
  /-- LANE_STEAL_CHUNK (R189: An idle gather stream takes the highest untaken chunk of the busiest stream. `left` gives the untaken
chunks of streams as their own progress has left them; without `take` the stream ends its chunk and takes no other.) -/
  | laneStealChunk (c : Nat) (t : Nat) (stream : Nat) (left : List (Nat × Nat)) (take : Bool)
  /-- EL_SORT (R192: Gather move that writes a stably sorted copy of a slot and its segment table.) -/
  | elSort (c : Nat) (t : Nat) (u : List Upset)
  /-- SEG_REDUCE (R194: Vector move that sums gathered rows over each run of equal key.) -/
  | segReduce (c : Nat) (t : Nat) (u : List Upset)
  /-- SEG_ADD (R197: Vector move that folds segment rows into accumulation rows by key.) -/
  | segAdd (c : Nat) (t : Nat) (u : List Upset)
  /-- STEAL_OFFER (R200: A tile whose unit has idled 64 cycles offers that unit to its neighbours.) -/
  | stealOffer (c : Nat) (t : Nat) (unit : UnitKind)
  /-- STEAL_REQUEST (R201: After 32 refused cycles with an offer standing, a tile asks the lowest offering neighbour.) -/
  | stealRequest (c : Nat) (t : Nat)
  /-- STEAL_GRANT (R201: A grant arrives and the head move issues to the thief, consuming its waits.) -/
  | stealGrant (c : Nat) (t : Nat) (thief : Nat) (u : List Upset)
  /-- STOLEN_MOVE_DONE (R202: A stolen move completes on the thief, writing home buffers and delivering arrivals.) -/
  | stolenMoveDone (c : Nat) (t : Nat) (index : Nat)
  /-- MOVE_COMPLETION (R51: A move completes and delivers its arrivals to the tallies it names.) -/
  | moveCompletion (c : Nat) (t : Nat) (index : Nat)
  /-- ARRIVAL_COUNTED (R52: An arrival is counted at its tally 3 cycles after its guarded write or delivery point.) -/
  | arrivalCounted (c : Nat) (t : Nat) (tally : Nat)
  /-- TALLY_STALL (R56: PROGRESS_MS passes with no move issued while a stream is unfinished, raising a tally stall.) -/
  | tallyStall (c : Nat)
  /-- DOUBLES_PAGE_IN (R69: A 64 KiB page of a doubled tile's stores arrives from the doubles reserve.) -/
  | doublesPageIn (t : Nat) (page : Nat) (evict : Nat)
  /-- SPN_SAMPLE (R215: Spinner move that samples one hop into slot pairs and the next frontier.) -/
  | spnSample (c : Nat) (t : Nat) (u : List Upset)
  /-- SPN_ROUTE (R226: Spinner move that selects top experts per token into a token-ordered edge list.) -/
  | spnRoute (c : Nat) (t : Nat) (u : List Upset)
  /-- PF_STAGE (R228: Prefetcher move that copies one row per node-list entry into a deep store.) -/
  | pfStage (c : Nat) (t : Nat) (u : List Upset)
  /-- PREDICT (R232: PF_BLOCKS PREDICT that ranks units by score and starts fetches of the top units.) -/
  | predict (c : Nat) (t : Nat) (u : List Upset)
  /-- PREDICT_FETCH_DONE (R232: A predicted unit's blocks are written and the unit is marked resident.) -/
  | predictFetchDone (c : Nat) (t : Nat) (unit : Nat) (layer : Nat)
  /-- DEMAND (R233: PF_BLOCKS DEMAND that fetches missing active units and writes activity words.) -/
  | demand (c : Nat) (t : Nat) (u : List Upset)
  /-- UPD_NORM (R267: Update move that computes partial squared norms of pieces.) -/
  | updNorm (c : Nat) (t : Nat) (u : List Upset)
  /-- TBL_NORM (R304: Table move that computes a table's partial squared norm.) -/
  | tblNorm (c : Nat) (t : Nat) (u : List Upset)
  /-- CT_CLOSE (R268: Move that sends the package's contribution to the closing tally.) -/
  | ctClose (c : Nat) (t : Nat)
  /-- CT_CONTRIBUTION (R270: The Banker receives a contribution and folds the job's contributions in rank order into the record.) -/
  | ctContribution (key : Nat) (rank : Nat) (turn : Nat) (attempt : Nat) (k : Contribution)
  /-- CT_RECORD (R270: The closing-tally record reaches a package, is written at CT_ADDR and releases waiting update moves.) -/
  | ctRecord (c : Nat) (turn : Nat) (attempt : Nat) (bytes : List Byte) (u : List Upset)
  /-- UPD_APPLY (R281: Update move that applies the closing tally's action to pieces and sends gradients to the buddy.) -/
  | updApply (c : Nat) (t : Nat) (u : List Upset)
  /-- TBL_UPDATE (R305: Table move that applies updates and re-tiers to rows as pending copies.) -/
  | tblUpdate (c : Nat) (t : Nat) (u : List Upset)
  /-- ATTEMPT_START (R257: Start-of-attempt work: clears tallies, flags and partials, writes selection and keep words, cleans the journal.) -/
  | attemptStart (c : Nat)
  /-- READY (R257: A package's READY reaches the Banker, which sends GO once every package is ready.) -/
  | ready (key : Nat) (rank : Nat) (turn : Nat) (attempt : Nat)
  /-- GO (R257: The Banker's GO reaches a package and its attempt starts issuing.) -/
  | go (c : Nat) (turn : Nat) (attempt : Nat)
  /-- POISON_RECEIVED (R283: Poison reaches the Banker, which broadcasts REPLAY for the attempt.) -/
  | poisonReceived (key : Nat) (rank : Nat) (turn : Nat) (attempt : Nat) (cause : Nat)
  /-- REPLAY (R284: REPLAY reaches a package, which stops issue, discards late packets and prepares the next attempt.) -/
  | replay (c : Nat) (turn : Nat) (attempt : Nat) (cause : Nat)
  /-- VOTE (R282: A package whose attempt is fully done and unpoisoned votes YES.) -/
  | vote (c : Nat)
  /-- YES_RECEIVED (R283: The Banker receives a YES and, with all YES in hand, records COMMIT at the standby.) -/
  | yesReceived (key : Nat) (rank : Nat) (turn : Nat) (attempt : Nat)
  /-- STANDBY_RECORD (R405: The standby Banker receives a formation change or decision, records it and acknowledges.) -/
  | standbyRecord (epoch : Nat) (seq : Nat) (d : Decision)
  /-- STANDBY_ACK (R283: The standby's acknowledgement reaches the Banker, which then broadcasts COMMIT or acts on the change.) -/
  | standbyAck (epoch : Nat) (seq : Nat)
  /-- COMMIT (R285: COMMIT reaches a package, which exchanges windows, advances state and posts the TURN_RUN completion.) -/
  | commit (c : Nat) (turn : Nat) (attempt : Nat)
  /-- MIRROR_APPLY_DONE (R290: The mirror reaches the new epoch and the buddy reports it, releasing the predecessor's gradient sends.) -/
  | mirrorApplyDone (c : Nat) (here : Bool) (epoch : Nat) (small : Option Small) (u : List Upset)
  /-- MIRROR_COPY_DONE (R288: A whole copy of committed state into the buddy's mirror completes and the waiting GO may proceed.) -/
  | mirrorCopyDone (c : Nat) (image : List (Nat × List Byte)) (incoming : Option MirrorCopy)
  /-- CONTEXT_SWITCH (R472: At a Turn boundary a region passes to a waiting context, saving and restoring store ranges and lane counters.) -/
  | contextSwitch (c : Nat) (u : List Upset)
  /-- PUBLISH_COMPLETE (R315: A table publish completes once earlier flips are written, earlier reads delivered and row caches ghosted.) -/
  | publishComplete (c : Nat) (handle : Nat) (table : Nat) (u : List Upset)
  /-- CANCEL (R475: CANCEL for an aborted Turn reaches the Banker or a package, withholding GO and replying ABORTED.) -/
  | cancel (banker : Bool) (key : Nat) (turn : Nat)
  /-- TURN_STOP_AT_BANKER (R470: A forwarded TURN_STOP reaches the Banker, which applies it on every package.) -/
  | turnStopAtBanker (key : Nat) (mode : Nat)
  /-- SELFTEST_RUN_START (R484: A suspect unit starts a self-test run in a window with room.) -/
  | selftestRunStart (unit : UnitId)
  /-- SELFTEST_RUN_END (R484: A self-test run ends and its pass or failure enters the suspect states.) -/
  | selftestRunEnd (unit : UnitId) (pass : Bool)
  /-- OBSERVATION_PERIOD_END (R483: A suspect unit's observation period ends without failure and it returns to HEALTHY.) -/
  | observationEnd (unit : UnitId)
  /-- TILE_SCRUB (R169: The tile scrubber reads, corrects and writes back a store word.) -/
  | tileScrub (p : Nat) (deep : Bool) (word : Nat) (err : ErrKind) (second : Bool)
  /-- SCRUB_NAP_WAKE (R169: A region held in sleep or off over an hour is brought to nap for scrubbing.) -/
  | scrubNapWake (region : Nat)
  /-- SECTOR_REQUEST (R328: A sector-path request reaches a region's sector path and is served.) -/
  | sectorRequest (q : HbmReq)
  /-- HBM_REFRESH (R340: A per-bank refresh falls due.) -/
  | hbmRefresh (stack : Nat) (bank : Nat)
  /-- HBM_CALIBRATION (R340: An interface calibration of a channel falls due.) -/
  | hbmCalibration (stack : Nat) (channel : Nat)
  /-- HBM_PATROL_SCRUB (R342: Patrol scrub reads and corrects unclaimed sectors.) -/
  | hbmPatrolScrub (stack : Nat) (sector : Nat) (err : ErrKind) (lane : Nat)
  /-- SELF_REFRESH_ENTRY (R318: A stack of a region in off with no request for 10 µs enters self refresh.) -/
  | selfRefreshEntry (stack : Nat)
  /-- WRITE (R357: A WRITE packet arrives, is ingress-checked and written.) -/
  | pktWrite (p : Parcel)
  /-- WRITE_ACKED (R357: A WRITE_ACKED packet is written and acknowledged once visible.) -/
  | pktWriteAcked (p : Parcel)
  /-- READ (R357: A READ packet arrives and its data are returned.) -/
  | pktRead (p : Parcel) (u : List Upset)
  /-- READ_RESP (R357: Read data arrive at the requester.) -/
  | pktReadResp (p : Parcel)
  /-- WRITE_ACK (R357: Acknowledgement of WRITE_ACKED packets arrives at the requester.) -/
  | pktWriteAck (p : Parcel)
  /-- ARRIVAL (R357: An ARRIVAL packet arrives carrying only an arrival.) -/
  | pktArrival (p : Parcel)
  /-- COLLECTIVE (R395: A COLLECTIVE packet arrives, is checked and writes a group position.) -/
  | pktCollective (p : Parcel)
  /-- ERROR_RESP (R371: An ERROR_RESP arrives and fails the requesting command or stops the context.) -/
  | pktErrorResp (p : Parcel)
  /-- ROUTE_HOP (R369: A packet at a router or package is routed, detoured, delivered or dropped.) -/
  | routeHop (p : Parcel) (from_ : Stand) (meshUe : Option Nat)
  /-- DATA_FRAME (R375: A data frame is received and accepted, discarded with NAK, or discarded as duplicate.) -/
  | dataFrame (port : Nat) (flit : List Byte) (line : List (Nat × Byte))
  /-- IDLE (R378: An IDLE CTL flit carries ACK and FREED credits.) -/
  | ctlIdle (port : Nat) (ack : Nat) (freed : List Nat)
  /-- NAK (R376: A NAK makes the transmitter resend every kept flit after its ACK.) -/
  | ctlNak (port : Nat) (ack : Nat) (freed : List Nat)
  /-- NAK_RETRY_TIMEOUT (R375: No flit x arrives within 2 µs of a NAK and NAK is sent again.) -/
  | nakRetry (port : Nat)
  /-- ACK_TIMEOUT (R376: The oldest kept flit waits 4 µs without ACK advance and the transmitter resends.) -/
  | ackTimeout (port : Nat)
  /-- IDLE_TIMER (R376: 128 ns pass with unacknowledged or unreported flits and an IDLE is sent.) -/
  | idleTimer (port : Nat)
  /-- LANE_BAD (R379: A lane loses lock or exceeds its error ratio and the receiver proposes a width change.) -/
  | laneBad (port : Nat) (lane : Nat)
  /-- LANE_CHANGE (R379: A LANE_CHANGE proposal or answer is received and width is negotiated.) -/
  | laneChange (port : Nat) (ack : Nat) (mask : Nat) (width : Nat) (answer : Bool)
  /-- REFRAME_DONE (R379: Both sides re-frame on the new lanes and the transmitter resends from the oldest kept flit.) -/
  | reframeDone (port : Nat)
  /-- REFRAME_TIMEOUT (R381: Re-framing is not done in 10 µs and the port becomes LOST.) -/
  | reframeTimeout (port : Nat)
  /-- ACK_STALL_TIMEOUT (R381: ACK does not advance for 100 µs and the port becomes LOST.) -/
  | ackStall (port : Nat)
  /-- SIGNAL_LOSS (R381: Every lane of a port loses signal and the port becomes LOST.) -/
  | signalLoss (port : Nat)
  /-- HELLO (R384: A HELLO is received; partners are paired, slot mismatch noted, or the port lost if already UP.) -/
  | hello (port : Nat) (ident : HelloBody)
  /-- RECAL (R385: A RECAL flit announces a pause before the sender's next data flit.) -/
  | recal (port : Nat) (ack : Nat) (pause : Nat)
  /-- RECAL_DUE (R385: A direction's receiver adaptation and delay refresh falls due.) -/
  | recalDue (port : Nat)
  /-- RECAL_PAUSE_END (R385: A recalibration pause ends and data flits resume.) -/
  | recalPauseEnd (port : Nat) (delay : Nat)
  /-- TRAINING_STEP_DONE (R382: A port training step completes and the next begins, ending UP, EDGE or DOWN.) -/
  | trainStepDone (port : Nat) (r : TrainResult)
  /-- TRAINING_STEP_TIMEOUT (R382: A training step exceeds its limit.) -/
  | trainTimeout (port : Nat)
  /-- SIGNAL_QUIET_TIMEOUT (R386: An EDGE or LOST port sees no signal for 1 ms.) -/
  | signalQuiet (port : Nat)
  /-- SIGNAL_DETECT (R386: Signal returns on enough lanes after quiet and the port trains again.) -/
  | signalDetect (port : Nat) (lanes : Nat)
  /-- DELAY_PROBE_TIMER (R413: Every 1 ms a package sends DELAY_PROBE to its time parent.) -/
  | delayProbeTimer
  /-- DELAY_PROBE (R413: A DELAY_PROBE is received and answered with DELAY_REPLY.) -/
  | delayProbe (port : Nat) (epoch : Nat) (t1 : Nat) (ack : Nat)
  /-- DELAY_REPLY (R413: A DELAY_REPLY is received; delay and offset are computed and the rate steered.) -/
  | delayReply (port : Nat) (epoch : Nat) (t1 : Nat) (t2 : Nat) (t3 : Nat) (hops : Nat) (ack : Nat)
  /-- TIME_HOLDOVER_TIMEOUT (R415: No reply for 10 ms puts the package in HOLDOVER.) -/
  | timeHoldover
  /-- TIME_LOCK_TIMER (R415: The offset stays within 4 ns for 1 s and the package becomes LOCKED.) -/
  | timeLock
  /-- REFCLK_TICK (R412: A 25 MHz reference tick advances fabric time by 40.) -/
  | refclkTick
  /-- FORM_PROBE (R406: A package receives FORM_PROBE, records its parent, forwards it and reports.) -/
  | formProbe (port : Nat) (epoch : Nat) (delaySum : Nat)
  /-- FORM_REPORT (R406: A FORM_REPORT is forwarded towards or received by the Banker.) -/
  | formReport (r : PkgReport)
  /-- FORM_QUIET_TIMEOUT (R406: 5 ms without a new report; the Banker places and checks every package.) -/
  | formQuiet
  /-- FORM_ASSIGN (R406: A package receives its coordinates, sets fabric time and acknowledges.) -/
  | formAssign (a : Assign)
  /-- FORM_ACK (R406: An acknowledgement reaches the Banker; with all in, SYS_FORM completes.) -/
  | formAck (serial : Nat)
  /-- JOIN_REPORT (R409: A neighbour reports a newly trained package to the Banker.) -/
  | joinReport (neighbour : Xyz) (port : Nat) (r : PkgReport)
  /-- MISSING_LIST (R410: A new missing list reaches a package and is applied at the next Turn boundary.) -/
  | missingList (epoch : Nat) (list : List Xyz)
  /-- BANKER_HEARTBEAT (R411: Every 10 µs the Banker sends a heartbeat with its epoch.) -/
  | bankerHeartbeat
  /-- HEARTBEAT_RECEIVED (R411: A package compares the heartbeat epoch and follows the highest.) -/
  | heartbeat (epoch : Nat) (banker : Xyz)
  /-- HEARTBEAT_TIMEOUT (R411: The standby hears no heartbeat for 100 µs and takes over as Banker.) -/
  | heartbeatTimeout
  /-- ALIVE (R492: A package's 100 µs ALIVE message reaches the Banker.) -/
  | alive (src : Xyz)
  /-- ALIVE_TIMEOUT (R492: No ALIVE for 1 ms and the Banker declares the package lost and re-homes its role.) -/
  | aliveTimeout (src : Xyz)
  /-- LOST (R492: A LOST message reaches the Banker and the package is declared lost; `by_` is the package that sent it.) -/
  | lost (src : Xyz) (cause : Nat) (by_ : Xyz)
  /-- REHOME_ASSIGN (R493: A reserve package receives a job and rank to take over.) -/
  | rehomeAssign (epoch : Nat) (job : Nat) (rank : Xyz)
  /-- REHOME_COPY_DONE (R495: Mirror copies into the reserve complete and it reports READY.) -/
  | rehomeCopyDone (c : Nat) (small : Small) (image : List (Nat × List Byte))
  /-- REGION_ENTRY_DONE (R531: A region completes entry to nap, sleep or off.) -/
  | regionEntryDone (region : Nat)
  /-- DEMAND_WAKE (R66: A ready head move or arriving packet wakes a sleeping region.) -/
  | demandWake (region : Nat)
  /-- REGION_WAKE_DONE (R66: A waking region runs again after its wake time and ramp.) -/
  | regionWakeDone (region : Nat)
  /-- PARTIAL_WAKE_DONE (R531: A partial wake reaches its named shallower state.) -/
  | partialWakeDone (region : Nat)
  /-- VOLTAGE_SETTLED (R534: VCORE settles and a waiting clock step proceeds.) -/
  | voltageSettled (region : Nat)
  /-- CURRENT_SAMPLE (R536: Every 1 µs VCORE current is measured and clocks lowered or a trip raised.) -/
  | currentSample (amps : Nat) (avg10 : Nat) (avg1 : Nat) (over5us : Bool) (mv : Nat)
  /-- POWER_CAP_CHECK (R537: Every 100 µs package power is compared with the cap and clocks stepped.) -/
  | powerCapCheck (watts : Nat)
  /-- THERMAL_SAMPLE (R538: A sensor reading steps a region clock down or up, or triggers a thermal trip.) -/
  | thermalSample (sensor : Nat) (tenths : Nat)
  /-- AON_RESET_N (R542: Assertion of AON_RESET_N resets every domain.) -/
  | aonResetN
  /-- AON_RESET_RELEASE (R549: Release of AON_RESET_N latches straps and starts the always-on boot stage.) -/
  | aonRelease (straps : Straps) (ok0 : Bool) (ok1 : Bool)
  /-- PWR_GOOD_LOW (R543: PWR_GOOD low takes effect at once as a package reset.) -/
  | pwrGoodLow
  /-- PKG_RESET_N (R543: Assertion of PKG_RESET_N resets all but the always-on domain.) -/
  | pkgResetN
  /-- HUB_STAGE_START (R549: At the later of PKG_RESET_N release and firmware start, the hub stage begins.) -/
  | hubStageStart (straps : Straps)
  /-- HBM_TRAINING_DONE (R320: Stack training completes at 8.0 or 6.4 Gb/s or the stack is lost.) -/
  | hbmTrainingDone (stack : Nat) (r : HbmTrain)
  /-- PERST_N (R542: Assertion of PERST_N resets the PCIe endpoint and ends every context.) -/
  | perstN
  /-- PERST_RELEASE (R552: Release of PERST_N starts PCIe link training.) -/
  | perstRelease
  /-- PCIE_LINK_UP (R552: The PCIe link comes up and configuration requests are answered.) -/
  | pcieLinkUp
  /-- FLR (R477: A function-level reset stops all work of the function and closes its context.) -/
  | flr (fn : Nat)
  /-- VCORE_UNDERVOLTAGE (R569: VCORE below 0.62 V for 2 µs is treated as PWR_GOOD low.) -/
  | vcoreUnder
  /-- VAON_FALL (R569: VAON falls and the TW2 treats AON_RESET_N and PWR_GOOD as low.) -/
  | vaonFall
  /-- SP_RECORD_SUBMIT (R508: A source submits a Scorepad record, which is rate-limited, numbered and stored.) -/
  | spSubmit (code : Nat) (sev : Nat) (src : Nat) (p0 : Nat) (p1 : Nat) (p2 : Nat) (ctx : Option Nat)
  /-- TOKEN_REFILL (R509: A bucket below BURST gains one token after 1 ÷ RATE seconds.) -/
  | tokenRefill (bucket : Option Nat)
  /-- SP_PUSH_STATUS (R519: Every second an SP_PUSH with no records and the STATUS body is sent.) -/
  | spPushStatus
  /-- PLDM_REQUEST (R520: An MCTP/PLDM request arrives on SMBus and is answered.) -/
  | pldmRequest (r : PldmReq)
  /-- MGT_STATUS (R518: Management STATUS message returning device page, readiness, coordinates and time.) -/
  | mgtStatus (m : MgtHdr)
  /-- MGT_SP_READ (R518: Management message that returns up to 40 Scorepad records.) -/
  | mgtSpRead (m : MgtHdr) (first : Nat) (count : Nat)
  /-- MGT_REG_READ (R518: Management message that returns registers of the PF register view.) -/
  | mgtRegRead (m : MgtHdr) (offset : Nat) (count : Nat)
  /-- FLASH_LOG_READ (R518: Management message that returns flash-log records.) -/
  | flashLogRead (m : MgtHdr) (index : Nat) (count : Nat)
  /-- MGT_SP_CLEAR (R513: Management message that performs an authorized Scorepad clear.) -/
  | mgtSpClear (m : MgtHdr) (auth : List Byte) (seq : Nat)
  /-- KEY_SET (R514: Management message that installs the management or clear key.) -/
  | keySet (m : MgtHdr) (key : Nat) (value : List Byte)
  /-- KEY_SLOT (R39: Management message that installs or revokes a Rulebook verification key.) -/
  | keySlot (m : MgtHdr) (slot : Nat) (op : Nat) (point : List Byte)
  /-- COLLECTOR_SET (R518: Management message that sets the push collector and thresholds.) -/
  | collectorSet (m : MgtHdr) (addr : Nat) (port : Nat) (storeMin : Nat) (pushMin : Nat)
  /-- DEBUG (R418: Management message carrying RISC-V debug transport.) -/
  | debugMsg (m : MgtHdr) (core : Nat) (halt : Bool) (body : List Byte)
  /-- MGT_SYS (R518: Management message that carries a SYS command.) -/
  | mgtSys (m : MgtHdr) (opcode : Nat) (body : List Byte)
  /-- ADDR_SET (R518: Management message that sets the global IPv6 address.) -/
  | addrSet (m : MgtHdr) (addr : Nat) (pfxLen : Nat)
  /-- TRACE_QUEUE_DRAIN (R528: A traced tile's full entry queue gains room and held issue resumes.) -/
  | traceQueueDrain (t : Nat) (n : Nat)
  /-- SELF_REFRESH_EXIT (R318: A stack leaves self refresh, at most 2 µs after a request found it there, and the waiting request is served.) -/
  | selfRefreshExit (stack : Nat)
  /-- HBM_RETRAIN_DONE (R321: A channel retraining with a lane repair finishes within 50 µs and held requests and the next READY proceed.) -/
  | hbmRetrainDone (stack : Nat) (channel : Nat)
  /-- HBM_BLOCK_REQUEST (R327: A request reaches a controller's block queue, is served in 128-byte blocks and has its ECC checked.) -/
  | hbmBlockRequest (q : HbmReq)
  /-- HOST_READ_DATA (R477: Data or an error for a read of host memory returns over PCIe to the TW2.) -/
  | hostReadData (ring : Nat) (index : Nat) (data : Option (List Byte)) (u : List Upset)
  /-- SCHEDULER_WINDOW_END (R428: A 1,048,576 ns scheduler window ends and the wait, dispatch and load registers take that window's values.) -/
  | schedulerWindowEnd
  /-- HUB_FIRMWARE_VERIFIED (R549: The hub firmware image is read and verified, cores 0-11 are released and FW_READY and HOST are set.) -/
  | hubFirmwareVerified (ok0 : Bool) (ok1 : Bool)
  /-- VIO18_LOSS (R565: VIO18 becomes absent while VAON stays present and the TW2 holds itself as if AON_RESET_N were low.) -/
  | vio18Loss
  /-- VIO18_RETURN (R565: VIO18 returns while VAON is present and the hold as if AON_RESET_N were low ends.) -/
  | vio18Return
deriving DecidableEq, Repr

end Sys2Proof
end

