-- ==== Sys2Proof/Decode.lean ====
section
/-! DEFINITION. Words that spell a command: none, because no row of the opcode table has bits. A command reaches the queue
as a term, already taken apart. -/

namespace Sys2Proof

/-- The command that a word of the opcode table's numbering spells. -/
def decodeTableWord (_nbits _w : Nat) : Option Instr := none

end Sys2Proof
end

