-- ==== Sys2Proof/Machine/Crypto.lean ====
section
/-! DEFINITION. The hash, authorization and signature functions the spec names and does not define: SHA-256, HMAC,
SHA-384 and ECDSA P-384 verification, after FIPS 180, FIPS 198 and FIPS 186 (log entry 9, PRESUMED). -/

namespace Sys2Proof.Machine

/-- Rotation right in `w` bits. -/
def rotr (w n x : Nat) : Nat := (x >>> n) ||| ((x <<< (w - n)) % 2 ^ w)

/-- The parameters in which SHA-256 and SHA-384 differ: word bits, rounds, rotation amounts, round constants. -/
structure Sha where
  w : Nat
  k : List Nat
  big0 : Nat × Nat × Nat
  big1 : Nat × Nat × Nat
  small0 : Nat × Nat × Nat
  small1 : Nat × Nat × Nat

/-- A sum of three rotations. -/
def Sha.rot3 (p : Sha) (r : Nat × Nat × Nat) (x : Nat) : Nat :=
  (rotr p.w r.1 x) ^^^ (rotr p.w r.2.1 x) ^^^ (rotr p.w r.2.2 x)

/-- Two rotations and a shift. -/
def Sha.rot2 (p : Sha) (r : Nat × Nat × Nat) (x : Nat) : Nat :=
  (rotr p.w r.1 x) ^^^ (rotr p.w r.2.1 x) ^^^ (x >>> r.2.2)

/-- The next word of the message schedule, kept newest first. -/
def Sha.nextWord (p : Sha) (ws : List Nat) : Nat :=
  (p.rot2 p.small1 (ws.getD 1 0) + ws.getD 6 0 + p.rot2 p.small0 (ws.getD 14 0) + ws.getD 15 0) % 2 ^ p.w

/-- The message schedule, newest first, from its first sixteen words. -/
def Sha.schedule (p : Sha) : Nat → List Nat → List Nat
  | 0, ws => ws
  | n + 1, ws => p.schedule n (p.nextWord ws :: ws)

/-- One round on the eight working words. -/
def Sha.round (p : Sha) (h : List Nat) (kw : Nat × Nat) : List Nat :=
  match h with
  | [a, b, c, d, e, f, g, hh] =>
    let m := 2 ^ p.w
    let ch := (e &&& f) ^^^ ((m - 1 - e) &&& g)
    let maj := (a &&& b) ^^^ (a &&& c) ^^^ (b &&& c)
    let t1 := hh + p.rot3 p.big1 e + ch + kw.1 + kw.2
    let t2 := p.rot3 p.big0 a + maj
    [(t1 + t2) % m, a, b, c, (d + t1) % m, e, f, g]
  | _ => h

/-- One block of sixteen words compressed into the chaining value. -/
def Sha.block (p : Sha) (h : List Nat) (ws : List Nat) : List Nat :=
  let sched := (p.schedule (p.k.length - 16) ws.reverse).reverse
  let out := (p.k.zip sched).foldl p.round h
  (h.zip out).map (fun x => (x.1 + x.2) % 2 ^ p.w)

/-- Bytes cut into groups of `n`, at most `fuel` of them. -/
def chunks {α : Type} (n : Nat) : Nat → List α → List (List α)
  | 0, _ => []
  | _, [] => []
  | fuel + 1, xs => xs.take n :: chunks n fuel (xs.drop n)

/-- The message padded to whole blocks. -/
def Sha.pad (p : Sha) (msg : List Byte) : List Byte :=
  let blk := p.w * 2
  let len := p.w / 4
  let total := roundUp (msg.length + 1 + len) blk
  msg ++ (0x80 :: List.replicate (total - msg.length - 1 - len) 0) ++ beBytes len (msg.length * 8)

/-- The digest as bytes, all eight words. -/
def Sha.hash (p : Sha) (iv : List Nat) (msg : List Byte) : List Byte :=
  let m := p.pad msg
  let bs := chunks (p.w * 2) m.length m
  let h := bs.foldl (fun h b => p.block h ((chunks (p.w / 8) b.length b).map ofBe)) iv
  h.flatMap (beBytes (p.w / 8))

/-- The round constants of SHA-256. -/
def sha256K : List Nat :=
  [0x428a2f98, 0x71374491, 0xb5c0fbcf, 0xe9b5dba5, 0x3956c25b, 0x59f111f1, 0x923f82a4, 0xab1c5ed5] ++
  [0xd807aa98, 0x12835b01, 0x243185be, 0x550c7dc3, 0x72be5d74, 0x80deb1fe, 0x9bdc06a7, 0xc19bf174] ++
  [0xe49b69c1, 0xefbe4786, 0x0fc19dc6, 0x240ca1cc, 0x2de92c6f, 0x4a7484aa, 0x5cb0a9dc, 0x76f988da] ++
  [0x983e5152, 0xa831c66d, 0xb00327c8, 0xbf597fc7, 0xc6e00bf3, 0xd5a79147, 0x06ca6351, 0x14292967] ++
  [0x27b70a85, 0x2e1b2138, 0x4d2c6dfc, 0x53380d13, 0x650a7354, 0x766a0abb, 0x81c2c92e, 0x92722c85] ++
  [0xa2bfe8a1, 0xa81a664b, 0xc24b8b70, 0xc76c51a3, 0xd192e819, 0xd6990624, 0xf40e3585, 0x106aa070] ++
  [0x19a4c116, 0x1e376c08, 0x2748774c, 0x34b0bcb5, 0x391c0cb3, 0x4ed8aa4a, 0x5b9cca4f, 0x682e6ff3] ++
  [0x748f82ee, 0x78a5636f, 0x84c87814, 0x8cc70208, 0x90befffa, 0xa4506ceb, 0xbef9a3f7, 0xc67178f2]

/-- The initial value of SHA-256. -/
def sha256Iv : List Nat :=
  [0x6a09e667, 0xbb67ae85, 0x3c6ef372, 0xa54ff53a, 0x510e527f, 0x9b05688c, 0x1f83d9ab, 0x5be0cd19]

/-- The round constants of SHA-384. -/
def sha512K : List Nat :=
  [0x428a2f98d728ae22, 0x7137449123ef65cd, 0xb5c0fbcfec4d3b2f, 0xe9b5dba58189dbbc] ++
  [0x3956c25bf348b538, 0x59f111f1b605d019, 0x923f82a4af194f9b, 0xab1c5ed5da6d8118] ++
  [0xd807aa98a3030242, 0x12835b0145706fbe, 0x243185be4ee4b28c, 0x550c7dc3d5ffb4e2] ++
  [0x72be5d74f27b896f, 0x80deb1fe3b1696b1, 0x9bdc06a725c71235, 0xc19bf174cf692694] ++
  [0xe49b69c19ef14ad2, 0xefbe4786384f25e3, 0x0fc19dc68b8cd5b5, 0x240ca1cc77ac9c65] ++
  [0x2de92c6f592b0275, 0x4a7484aa6ea6e483, 0x5cb0a9dcbd41fbd4, 0x76f988da831153b5] ++
  [0x983e5152ee66dfab, 0xa831c66d2db43210, 0xb00327c898fb213f, 0xbf597fc7beef0ee4] ++
  [0xc6e00bf33da88fc2, 0xd5a79147930aa725, 0x06ca6351e003826f, 0x142929670a0e6e70] ++
  [0x27b70a8546d22ffc, 0x2e1b21385c26c926, 0x4d2c6dfc5ac42aed, 0x53380d139d95b3df] ++
  [0x650a73548baf63de, 0x766a0abb3c77b2a8, 0x81c2c92e47edaee6, 0x92722c851482353b] ++
  [0xa2bfe8a14cf10364, 0xa81a664bbc423001, 0xc24b8b70d0f89791, 0xc76c51a30654be30] ++
  [0xd192e819d6ef5218, 0xd69906245565a910, 0xf40e35855771202a, 0x106aa07032bbd1b8] ++
  [0x19a4c116b8d2d0c8, 0x1e376c085141ab53, 0x2748774cdf8eeb99, 0x34b0bcb5e19b48a8] ++
  [0x391c0cb3c5c95a63, 0x4ed8aa4ae3418acb, 0x5b9cca4f7763e373, 0x682e6ff3d6b2b8a3] ++
  [0x748f82ee5defb2fc, 0x78a5636f43172f60, 0x84c87814a1f0ab72, 0x8cc702081a6439ec] ++
  [0x90befffa23631e28, 0xa4506cebde82bde9, 0xbef9a3f7b2c67915, 0xc67178f2e372532b] ++
  [0xca273eceea26619c, 0xd186b8c721c0c207, 0xeada7dd6cde0eb1e, 0xf57d4f7fee6ed178] ++
  [0x06f067aa72176fba, 0x0a637dc5a2c898a6, 0x113f9804bef90dae, 0x1b710b35131c471b] ++
  [0x28db77f523047d84, 0x32caab7b40c72493, 0x3c9ebe0a15c9bebc, 0x431d67c49c100d4c] ++
  [0x4cc5d4becb3e42b6, 0x597f299cfc657e2a, 0x5fcb6fab3ad6faec, 0x6c44198c4a475817]

/-- The initial value of SHA-384. -/
def sha384Iv : List Nat :=
  [0xcbbb9d5dc1059ed8, 0x629a292a367cd507, 0x9159015a3070dd17, 0x152fecd8f70e5939] ++
  [0x67332667ffc00b31, 0x8eb44a8768581511, 0xdb0c2e0d64f98fa7, 0x47b5481dbefa4fa4]

/-- The parameters of SHA-256 and SHA-384. -/
def sha256P : Sha :=
  { w := 32, k := sha256K, big0 := (2, 13, 22), big1 := (6, 11, 25), small0 := (7, 18, 3), small1 := (17, 19, 10) }
def sha384P : Sha :=
  { w := 64, k := sha512K, big0 := (28, 34, 39), big1 := (14, 18, 41), small0 := (1, 8, 7), small1 := (19, 61, 6) }

/-- SHA-256 of a message. -/
def sha256 (msg : List Byte) : List Byte := sha256P.hash sha256Iv msg

/-- SHA-384 of a message. -/
def sha384 (msg : List Byte) : List Byte := (sha384P.hash sha384Iv msg).take 48

/-- HMAC-SHA-256 under a key of at most 64 bytes. -/
def hmac256 (key msg : List Byte) : List Byte :=
  let k := padTo 64 key
  sha256 (k.map (fun b => b ^^^ 0x5c) ++ sha256 (k.map (fun b => b ^^^ 0x36) ++ msg))

/-! ### ECDSA over P-384 -/

/-- The field prime, the coefficient b, the group order and the base point of P-384. -/
def p384p : Nat := 2 ^ 384 - 2 ^ 128 - 2 ^ 96 + 2 ^ 32 - 1
def p384b : Nat := 0xb3312fa7e23ee7e4988e056be3f82d19181d9c6efe8141120314088f5013875ac656398d8a2ed19d2a85c8edd3ec2aef
def p384n : Nat := 0xffffffffffffffffffffffffffffffffffffffffffffffffc7634d81f4372ddf581a0db248b0a77aecec196accc52973
def p384gx : Nat := 0xaa87ca22be8b05378eb1c71ef320ad746e1d3b628ba79b9859f741e082542a385502f25dbf55296c3a545e3872760ab7
def p384gy : Nat := 0x3617de4a96262c6f5d9e98bf9292dc29f8f41dbd289a147ce9da3113b5f0b8c00a60b1ce1d7e819d7a431d7c90ea0e5f

/-- `b` to the power of the number with the given bits, most significant first, modulo `m`. -/
def powMod (m b : Nat) (bs : List Bool) : Nat :=
  bs.foldl (fun acc x => let sq := acc * acc % m; if x then sq * b % m else sq) 1

/-- The 384 low bits of a number, most significant first. -/
def bits384 (x : Nat) : List Bool := ((List.range 384).map (fun i => x.testBit i)).reverse

/-- The inverse modulo a prime of 384 bits. -/
def invMod (m x : Nat) : Nat := powMod m (x % m) (bits384 (m - 2))

/-- Subtraction in the field. -/
def fsub (a b : Nat) : Nat := (a + p384p - b % p384p) % p384p

/-- A point in Jacobian coordinates; Z = 0 is the point at infinity. -/
structure JPoint where
  x : Nat
  y : Nat
  z : Nat
deriving DecidableEq, Repr

/-- Doubling. -/
def JPoint.double (q : JPoint) : JPoint :=
  if q.z = 0 ∨ q.y = 0 then { x := 1, y := 1, z := 0 }
  else
    let m := p384p
    let yy := q.y * q.y % m
    let s := 4 * q.x * yy % m
    let zz := q.z * q.z % m
    let k := 3 * (fsub q.x zz) * (q.x + zz) % m
    let x := fsub (k * k % m) (2 * s)
    { x := x, y := fsub (k * fsub s x % m) (8 * yy * yy), z := 2 * q.y * q.z % m }

/-- Addition. -/
def JPoint.add (q r : JPoint) : JPoint :=
  if q.z = 0 then r
  else if r.z = 0 then q
  else
    let m := p384p
    let z1 := q.z * q.z % m
    let z2 := r.z * r.z % m
    let u1 := q.x * z2 % m
    let u2 := r.x * z1 % m
    let s1 := q.y * z2 * r.z % m
    let s2 := r.y * z1 * q.z % m
    if u1 = u2 then (if s1 = s2 then q.double else { x := 1, y := 1, z := 0 })
    else
      let h := fsub u2 u1
      let k := fsub s2 s1
      let hh := h * h % m
      let hhh := h * hh % m
      let v := u1 * hh % m
      let x := fsub (k * k % m) (hhh + 2 * v)
      { x := x, y := fsub (k * fsub v x % m) (s1 * hhh), z := h * q.z * r.z % m }

/-- A multiple of a point. -/
def JPoint.mul (k : Nat) (q : JPoint) : JPoint :=
  (bits384 k).foldl (fun acc b => let d := acc.double; if b then d.add q else d) { x := 1, y := 1, z := 0 }

/-- The affine x coordinate. -/
def JPoint.affineX (q : JPoint) : Nat := let zi := invMod p384p q.z; q.x * (zi * zi % p384p) % p384p

/-- The point (x, y) lies on the curve. -/
def onP384 (x y : Nat) : Bool :=
  decide (x < p384p) && decide (y < p384p) &&
  decide (y * y % p384p = (x * x * x + (p384p - 3) * x + p384b) % p384p)

/-- ECDSA P-384 verification of (r, s) on a message under the public key (x, y). -/
def verifyP384 (x y r s : Nat) (msg : List Byte) : Bool :=
  let e := ofBe (sha384 msg)
  let si := invMod p384n s
  let pt := (JPoint.mul (e * si % p384n) { x := p384gx, y := p384gy, z := 1 }).add
    (JPoint.mul (r * si % p384n) { x := x, y := y, z := 1 })
  onP384 x y && decide (0 < r) && decide (r < p384n) && decide (0 < s) && decide (s < p384n) && decide (pt.z ≠ 0) &&
  decide (pt.affineX % p384n = r)

/-- Verification with a 97-byte uncompressed SEC 1 point (R39) and a 128-byte signature block (R38). -/
def verifyBlock (point block msg : List Byte) : Bool :=
  decide (point.length = 97) && decide (point.head? = some 0x04) &&
  verifyP384 (ofBe ((point.drop 1).take 48)) (ofBe ((point.drop 49).take 48)) (ofBe (block.take 48))
    (ofBe ((block.drop 48).take 48)) msg

end Sys2Proof.Machine
end

