-- ==== Sys2Proof/Config.lean ====
section
/-! DEFINITION. What the spec leaves to the part or to no one: the free values. Each is an OPAQUE constant with no
body; a claim about one holds for every value. State.free counts how many have been drawn. -/

namespace Sys2Proof

/-- The value number `n` of everything the spec leaves undefined after a command that goes on: a fresh number for
each draw of the counter State.free (log entry 3). -/
opaque Config.freeValue : Nat → Nat

/-- A function fused into the part: its serial number (R383, R462; log entry 12). -/
opaque Config.serial : Nat

/-- Firmware versions and stepping that DEV_QUERY and EV_BOOT report (R462, R516; log entry 12). -/
opaque Config.fwVersion : Nat
opaque Config.mgtFwVersion : Nat
opaque Config.stepping : Nat

/-- The management MAC address's family, FRU name and other identity that R517 and R520 derive from the serial
number without giving the derivation (log entry 12). -/
opaque Config.mgtMac : Nat

/-- Where a role stands that a re-home has moved, by job and rank: no command tells a package that is not the Banker
(R390, R493; log entry 18). -/
opaque Config.roleCoord : Nat → Nat → Nat

/-- Where a role's buddy keeps its mirror image (area 0) and its mirror staging (area 1): the package address of a byte,
by area, job, the role's rank and offset. The spec gives the sender no address (R281, R288; log entry 24). -/
opaque Config.mirrorAddr : Nat → Nat → Nat → Nat → Nat

/-- The field `i` of a sidecar record that no entry fills, by the FP32 codes of the block's values: the same inputs give the same
bits (R89, R90, R259; log entry 3). -/
opaque Config.sideFill : List Nat → Nat → Byte

/-- A byte of another package's memory at a board address, where no response has told it (R347; log entry 8). -/
opaque Config.remoteByte : Nat → Byte

end Sys2Proof
end

