-- ==== Sys2Proof/Machine/State.lean ====
section
/-! DEFINITION. The block's state as plain data: everything the spec gives one TW2 package, the queue of commands
that wait, what the package has sent, the state after reset, and the reasons a step can stop. Arrays are tables with
an unlisted value, so the state after reset is small. -/

namespace Sys2Proof.Machine

/-- Messages of the closing-tally path and of the Banker (R257, R268, R273, R282–R284, R411, R470, R475, R492). -/
inductive Closing where
  | ready (key rank turn attempt : Nat)
  | go (key turn attempt : Nat)
  | poison (key rank turn attempt cause : Nat)
  | replay (key turn attempt cause : Nat)
  | replayJob (key : Nat) (past : Option (Nat × Nat)) (cause : Nat)
  | contribution (key rank turn attempt : Nat) (k : Contribution)
  | record (key turn attempt : Nat) (bytes : List Byte)
  | yes (key rank turn attempt : Nat) (small : Small)
  | commit (key turn attempt : Nat)
  | cancel (toBanker : Bool) (key turn : Nat)
  | turnStop (key mode : Nat)
  | stopAll (key mode : Nat)
  | mirrorAt (key rank epoch : Nat)
  | mirrorCopy (key rank : Nat)
  | mirrorWhole (key : Nat) (m : MirrorCopy)
  | alive (src : Xyz)
  | lost (src : Xyz) (cause : Nat) (by_ : Xyz)
  | stopJob (job status : Nat)
deriving DecidableEq, Repr

/-- CONTROL messages that travel hop by hop or between Banker and standby (R405, R406, R409–R411, R493). -/
inductive Control where
  | probe (port epoch delaySum : Nat)
  | report (port : Option Nat) (r : PkgReport)
  | assign (a : Assign)
  | ack (serial : Nat)
  | joined (at_ : Xyz) (port : Nat) (r : PkgReport)
  | missing (epoch : Nat) (list : List Xyz)
  | heartbeat (epoch : Nat) (banker : Xyz)
  | standbyRecord (epoch seq : Nat) (d : Decision)
  | standbyAck (epoch seq : Nat)
  | rehome (epoch : Nat) (to_ : Xyz) (job : Nat) (rank : Xyz)
  | role (to_ : Xyz) (job : Nat) (rank : Xyz)
deriving DecidableEq, Repr

/-- What leaves the package or a unit: on PCIe, on the mesh and the ports, on the closing-tally path, on the
management port and on SMBus. `flit` is a data flit in its frame (R372). `value` is what a register read or a service call answers. -/
inductive Sent where
  | msix (fn vec addr data : Nat)
  | hostRead (ring index addr len : Nat)
  | parcel (p : Parcel)
  | toTile (p : Parcel)
  | mesh (fromX fromY toX toY : Nat) (edge : Bool) (p : Parcel)
  | hubLink (die : Nat) (up : Bool) (p : Parcel)
  | flit (port seq ack : Nat) (bytes : List Byte)
  | ctl (port code ack : Nat) (body : List Byte)
  | closing (m : Closing)
  | control (m : Control)
  | mgt (type reqId status : Nat) (body : List Byte)
  | push (addr port : Nat) (body : List Byte)
  | pldm (body : List Byte)
  | pldmEvent (body : List Byte)
  | value (reader v : Nat)
  | hbmData (src stack off : Nat) (poison : Bool) (data : List Byte)
  | steal (home tile : Nat)
deriving DecidableEq, Repr

/-- Who waits for a response (R357, R361): a host command, a move of a tile, a hub core, a whole copy of a context's
committed state to its buddy (R288). -/
inductive Owner where
  | command (ring index : Nat)
  | move (tile index : Nat)
  | core (core : Nat)
  | mirror (c : Nat)
deriving DecidableEq, Repr

/-- Where a READ's data go: a function's host memory, package memory, a program's writable space, another package's memory,
nowhere. -/
inductive Dest where
  | host (fn addr : Nat)
  | mem (addr : Nat)
  | space (prog off : Nat)
  | board (addr : Nat)
  | none
deriving DecidableEq, Repr

/-- A READ or WRITE_ACKED of this package that waits for its response (R357, R361). -/
structure Request where
  tag : Nat
  write : Bool
  ctx : Nat
  untagged : Bool
  to_ : Xyz
  owner : Owner
  dest : Dest
deriving DecidableEq, Repr

/-- A row flipped in its table and not yet published (R315, R316): the key is context, handle, table and row. -/
structure Flip where
  ctx : Nat
  handle : Nat
  table : Nat
  row : Nat
  old : Nat
deriving DecidableEq, Repr

/-- A unit that prefetch has made or is making resident (R232–R234). `predicted`: a PREDICT fetched it and no DEMAND has
judged it yet; `owner`: the tile that computes it; `wanted`: the DEMAND, by move index, that waits for its blocks. -/
structure Resident where
  ctx : Nat
  tile : Nat
  layer : Nat
  unit : Nat
  owner : Nat
  here : Bool
  predicted : Bool
  wanted : Option Nat
deriving DecidableEq, Repr

/-- Everything the spec gives one TW2 package, and the commands that wait. -/
structure State where
  pending : List Instr
  sent : List Sent
  free : Nat
  mem : Table Byte
  poison : Table Bool
  host : Table Byte
  pins : Pins
  boot : Boot
  power : Power
  time : FTime
  pad : Pad
  flash : Flash
  mgt : Mgt
  sched : Sched
  progs : Table (Option Prog)
  space : Table Byte
  fns : Table Fn
  rings : Table Ring
  actives : List Active
  latch : Table Nat
  vfEnable : Bool
  pcieRx : Nat
  pcieTx : Nat
  ctxs : Table Ctx
  regions : Table Region
  hbm : Table Stack
  pkgBytes : Nat
  ports : Table Port
  form : Form
  bank : Bank
  jobs : Table JobTurn
  tiles : Table Tile
  phys : Table Phys
  arrivals : List (Nat × Nat)
  lanes : Table Nat
  lanesNow : Table Nat
  windows : List Window
  tests : List TestRun
  retiring : List UnitId
  requests : List Request
  nextTag : Nat
  routeDrops : Nat
  resident : List Resident
  partials : Table (Nat × Nat)
  journal : Table Nat
  flips : List Flip
  retierList : List (Nat × Nat × Nat)
  retierDone : List (Nat × Nat × Nat)
  retierDue : List (Nat × Nat × Nat)
  traceDesc : Table (Option TraceDesc)
  traceNext : Table (Option (Option TraceDesc))
  idleNs : Table Nat
deriving DecidableEq, Repr

/-- Why a command has no outcome the spec gives. -/
inductive Fault where
  /-- The command's own operands or the bytes it reads break rule `rule`, which the spec leaves UNPREDICTABLE (R3,
  R4) and for which it gives no effect. Raised by the meaning that meets it. Safe: the block goes on in some way the
  model does not claim to know. -/
  | unpredictable (rule : Nat)
deriving DecidableEq, Repr

/-- Why the model gives a command no meaning. -/
inductive Refusal where
  /-- The command of this mnemonic has no meaning yet. Raised by `exec` alone. Safe: nothing is claimed. -/
  | notModelled (mnemonic : String)
deriving DecidableEq, Repr

/-- The machine right after reset: AON_RESET_N asserted on a part straight from the manufacturer, so that every
domain is in reset, nothing has booted, and the boot events (R549) come as commands (log entry 1). -/
def State.reset : State where
  pending := []
  sent := []
  free := 0
  mem := []
  poison := []
  host := []
  pins := {}
  boot := {}
  power := {}
  time := {}
  pad := {}
  flash := {}
  mgt := {}
  sched := {}
  progs := []
  space := []
  fns := []
  rings := []
  actives := []
  latch := []
  vfEnable := false
  pcieRx := 0
  pcieTx := 0
  ctxs := []
  regions := []
  hbm := []
  pkgBytes := 0
  ports := []
  form := {}
  bank := {}
  jobs := []
  tiles := []
  phys := []
  arrivals := []
  lanes := []
  lanesNow := []
  windows := []
  tests := []
  retiring := []
  requests := []
  nextTag := 0
  routeDrops := 0
  resident := []
  partials := []
  journal := []
  flips := []
  retierList := []
  retierDone := []
  retierDue := []
  traceDesc := []
  traceNext := []
  idleNs := []

end Sys2Proof.Machine
end

