-- ==== Sys2Proof/Machine/Ops.lean ====
section
/-! DEFINITION. The named operations over the state: how a command reads and changes memory, sends, draws a free
value, raises a record or an interrupt, and how its result becomes a step's outcome. -/

namespace Sys2Proof.Machine

/-! ### The working state of one command

A meaning is a function on `Work`: the state as changed so far, the memory changes in reverse order, the host-memory
changes, those of the programs' writable space, and the first rule broken. `commit` alone applies memory changes and alone decides the outcome, so that no
meaning can touch the queue or break the canonical form of memory. -/

/-- One change of package memory. -/
inductive MemOp where
  | byte (a : Nat) (v : Byte) (p : Bool)
  | zero (lo n : Nat)
  | copy (src dst n : Nat)
deriving DecidableEq, Repr

/-- The working state of one command. -/
structure Work where
  s : State
  mw : List MemOp
  hw : List (Nat × Byte)
  sw : List MemOp
  stop : Option Fault

/-- Package memory with one change applied. -/
def MemOp.apply (m : Table Byte) : MemOp → Table Byte
  | .byte a v _ => m.put 0 a v
  | .zero lo n => m.clear lo n
  | .copy src dst n => m.copyRange 0 src dst n

/-- The poison marks with one change applied (R167, R332, R358): a write sets or clears the mark of its byte. -/
def MemOp.applyPoison (m : Table Bool) : MemOp → Table Bool
  | .byte a _ p => m.put false a p
  | .zero lo n => m.clear lo n
  | .copy src dst n => m.copyRange false src dst n

/-- The outcome of a command that started in `s` and worked its way to `w`. -/
def commit (s : State) (w : Work) : Host.Outcome State Fault Refusal :=
  match w.stop with
  | some r => .fault r
  | none =>
    .next { w.s with
      pending := s.pending
      mem := w.mw.foldr (fun op m => op.apply m) s.mem
      poison := w.mw.foldr (fun op m => op.applyPoison m) s.poison
      host := w.hw.foldr (fun c m => m.put 0 c.1 c.2) s.host
      space := w.sw.foldr (fun op m => op.apply m) s.space }

/-- A command's working state at its start. -/
def Work.start (s : State) : Work := { s := s, mw := [], hw := [], sw := [], stop := none }

/-- The outcome of a command whose effect is `f`. -/
def run (s : State) (f : Work → Work) : Host.Outcome State Fault Refusal := commit s (f (Work.start s))

/-- The command breaks rule `rule`, which the spec leaves UNPREDICTABLE. -/
def Work.fail (w : Work) (rule : Nat) : Work :=
  { w with stop := match w.stop with | some r => some r | none => some (.unpredictable rule) }

/-- `f` where the condition holds, else the work unchanged. -/
def Work.when (w : Work) (b : Bool) (f : Work → Work) : Work := if b then f w else w

/-- The work after `f` for every element, first to last. -/
def Work.each {α : Type} (w : Work) (xs : List α) (f : Work → α → Work) : Work := xs.foldl f w

/-- Something leaves the package or a unit. -/
def Work.send (w : Work) (m : Sent) : Work := { w with s.sent := w.s.sent ++ [m] }

/-- The next free value, a number the spec leaves undefined (log entry 3). -/
def Work.draw (w : Work) : Nat × Work := (Config.freeValue w.s.free, { w with s.free := w.s.free + 1 })

/-- A value that is known, or the next free value. -/
def Work.valueOr (w : Work) (v : Option Nat) : Nat × Work :=
  match v with
  | some v => (v, w)
  | none => w.draw

/-! ### Arrays of the state -/

/-- The state of a PCIe function. -/
def State.fn (s : State) (i : Nat) : Fn := s.fns.get {} i

/-- The work with the state of a PCIe function replaced. -/
def Work.setFn (w : Work) (i : Nat) (v : Fn) : Work := { w with s.fns := w.s.fns.put {} i v }

/-- The work with the state of a PCIe function changed. -/
def Work.modFn (w : Work) (i : Nat) (f : Fn → Fn) : Work := w.setFn i (f (w.s.fn i))

/-- The state of a device ring, 4·function + n. -/
def State.ring (s : State) (i : Nat) : Ring := s.rings.get {} i

/-- The work with the state of a device ring, 4·function + n replaced. -/
def Work.setRing (w : Work) (i : Nat) (v : Ring) : Work := { w with s.rings := w.s.rings.put {} i v }

/-- The work with the state of a device ring, 4·function + n changed. -/
def Work.modRing (w : Work) (i : Nat) (f : Ring → Ring) : Work := w.setRing i (f (w.s.ring i))

/-- The state of a context. -/
def State.ctx (s : State) (i : Nat) : Ctx := s.ctxs.get {} i

/-- The work with the state of a context replaced. -/
def Work.setCtx (w : Work) (i : Nat) (v : Ctx) : Work := { w with s.ctxs := w.s.ctxs.put {} i v }

/-- The work with the state of a context changed. -/
def Work.modCtx (w : Work) (i : Nat) (f : Ctx → Ctx) : Work := w.setCtx i (f (w.s.ctx i))

/-- The state of a region. -/
def State.region (s : State) (i : Nat) : Region := s.regions.get {} i

/-- The work with the state of a region replaced. -/
def Work.setRegion (w : Work) (i : Nat) (v : Region) : Work := { w with s.regions := w.s.regions.put {} i v }

/-- The work with the state of a region changed. -/
def Work.modRegion (w : Work) (i : Nat) (f : Region → Region) : Work := w.setRegion i (f (w.s.region i))

/-- The state of an HBM stack. -/
def State.stack (s : State) (i : Nat) : Stack := s.hbm.get {} i

/-- The work with the state of an HBM stack replaced. -/
def Work.setStack (w : Work) (i : Nat) (v : Stack) : Work := { w with s.hbm := w.s.hbm.put {} i v }

/-- The work with the state of an HBM stack changed. -/
def Work.modStack (w : Work) (i : Nat) (f : Stack → Stack) : Work := w.setStack i (f (w.s.stack i))

/-- The state of a port, numbered as in HELLO. -/
def State.port (s : State) (i : Nat) : Port := s.ports.get {} i

/-- The work with the state of a port, numbered as in HELLO replaced. -/
def Work.setPort (w : Work) (i : Nat) (v : Port) : Work := { w with s.ports := w.s.ports.put {} i v }

/-- The work with the state of a port, numbered as in HELLO changed. -/
def Work.modPort (w : Work) (i : Nat) (f : Port → Port) : Work := w.setPort i (f (w.s.port i))

/-- The state of the Banker's Turn of a job. -/
def State.job (s : State) (i : Nat) : JobTurn := s.jobs.get {} i

/-- The work with the state of the Banker's Turn of a job replaced. -/
def Work.setJob (w : Work) (i : Nat) (v : JobTurn) : Work := { w with s.jobs := w.s.jobs.put {} i v }

/-- A Turn ends on the package without a commit, or does not start: the next attempt is one above the last that ran (R256). -/
def Turn.rest (t : Turn) : Turn := { t with started := false, recover := false, next := t.after }

/-- The work with the state of the Banker's Turn of a job changed. -/
def Work.modJob (w : Work) (i : Nat) (f : JobTurn → JobTurn) : Work := w.setJob i (f (w.s.job i))

/-- The state of a logical tile of the package. -/
def State.tile (s : State) (i : Nat) : Tile := s.tiles.get {} i

/-- The work with the state of a logical tile of the package replaced. -/
def Work.setTile (w : Work) (i : Nat) (v : Tile) : Work := { w with s.tiles := w.s.tiles.put {} i v }

/-- The work with the state of a logical tile of the package changed. -/
def Work.modTile (w : Work) (i : Nat) (f : Tile → Tile) : Work := w.setTile i (f (w.s.tile i))

/-- The state of a physical tile by mesh number. -/
def State.ph (s : State) (i : Nat) : Phys := s.phys.get {} i

/-- The work with the state of a physical tile by mesh number replaced. -/
def Work.setPh (w : Work) (i : Nat) (v : Phys) : Work := { w with s.phys := w.s.phys.put {} i v }

/-- The work with the state of a physical tile by mesh number changed. -/
def Work.modPh (w : Work) (i : Nat) (f : Phys → Phys) : Work := w.setPh i (f (w.s.ph i))

/-- A service program by its number. -/
def State.prog (s : State) (i : Nat) : Option Prog := s.progs.get none i

/-- The work with a service program replaced. -/
def Work.setProg (w : Work) (i : Nat) (v : Option Prog) : Work := { w with s.progs := w.s.progs.put none i v }

/-- A scheduler thread. -/
def State.thread (s : State) (i : Nat) : Thread := s.sched.threads.get {} i

/-- The work with a thread replaced. -/
def Work.setThread (w : Work) (i : Nat) (v : Thread) : Work :=
  { w with s.sched.threads := w.s.sched.threads.put {} i v }

/-- A hub core. -/
def State.core (s : State) (i : Nat) : HubCore := s.sched.cores.get {} i

/-- The work with a hub core replaced. -/
def Work.setCore (w : Work) (i : Nat) (v : HubCore) : Work :=
  { w with s.sched.cores := w.s.sched.cores.put {} i v }

/-! ### Fabric time (R412) -/

/-- Fabric time as a read of the package sees it: the count and what is interpolated since the last tick. -/
def State.now (s : State) : Nat := (s.time.count + s.time.interp) % 2 ^ 64

/-- Time passes by a free amount between two reads, within one tick of the reference clock (log entry 4). -/
def Work.readTime (w : Work) : Nat × Work :=
  let (v, w1) := w.draw
  let i := Nat.min 39 (w1.s.time.interp + v % 40)
  let w2 := { w1 with s.time.interp := i }
  (w2.s.now, w2)

/-! ### Package memory (R322, R324, R344, R345)

Memory is kept by package address in the stack window or a tile window. A spread-window address names the same byte
as the stack-window address of R324. -/

/-- First address of stack `s`'s part of the stack window (R322). -/
def stackBase (s : Nat) : Nat := s * 0x1000000000

/-- The size of the stack window, and the end of the spread window (R322). -/
def stackWindowEnd : Nat := 0xC000000000
def spreadBase : Nat := 0x10000000000
def spreadEnd : Nat := 0x1BD00000000

/-- First address and end of the tile windows (R344, R345). -/
def tileWindowBase : Nat := 0xC000000000
def tileWindowEnd : Nat := 0xC840000000

/-- The tile-window address of tile address `t` of package logical tile `n` (R345). -/
def tileAddr (n t : Nat) : Nat := tileWindowBase + n * 0x10000000 + t

/-- The first stack offset of the doubles reserve (R323). -/
def reserveOff : Nat := 0xFC0000000

/-- An address of the spread window as the stack-window address of the same byte (R324). -/
def normAddr (a : Nat) : Nat :=
  if spreadBase ≤ a ∧ a < spreadEnd then
    let x := a - spreadBase
    let g := x / 4096
    stackBase (g % 12) + g / 12 * 4096 + x % 4096
  else a

/-- The address lies in HBM space, through either window (R322). -/
def inHbm (a : Nat) : Bool := decide (a < stackWindowEnd) || (decide (spreadBase ≤ a) && decide (a < spreadEnd))

/-- The stack that holds an HBM address. -/
def stackOf (a : Nat) : Nat := normAddr a / 0x1000000000

/-- The stack offset of an HBM address. -/
def offsetOf (a : Nat) : Nat := normAddr a % 0x1000000000

/-- One byte under this command's changes, over the memory it started with. -/
def lookMem (m : Table Byte) : List MemOp → Nat → Byte
  | [], a => m.get 0 a
  | .byte b v _ :: rest, a => if a = b then v else lookMem m rest a
  | .zero lo n :: rest, a => if lo ≤ a ∧ a < lo + n then 0 else lookMem m rest a
  | .copy src dst n :: rest, a => if dst ≤ a ∧ a < dst + n then lookMem m rest (src + (a - dst)) else lookMem m rest a

/-- One poison mark under this command's changes. -/
def lookPoison (m : Table Bool) : List MemOp → Nat → Bool
  | [], a => m.get false a
  | .byte b _ p :: rest, a => if a = b then p else lookPoison m rest a
  | .zero lo n :: rest, a => if lo ≤ a ∧ a < lo + n then false else lookPoison m rest a
  | .copy src dst n :: rest, a =>
    if dst ≤ a ∧ a < dst + n then lookPoison m rest (src + (a - dst)) else lookPoison m rest a

/-- One byte of the state's package memory; what no write has set reads as zero (log entry 5). -/
def State.byteAt (s : State) (a : Nat) : Byte := s.mem.get 0 (normAddr a)

/-- One byte of package memory as the command sees it. -/
def Work.rd (w : Work) (a : Nat) : Byte := lookMem w.s.mem w.mw (normAddr a)

/-- `n` bytes of package memory from `a`. -/
def Work.rdBytes (w : Work) (a n : Nat) : List Byte := (List.range n).map (fun i => w.rd (a + i))

/-- A little-endian number of `n` bytes of package memory. -/
def Work.rdLe (w : Work) (a n : Nat) : Nat := ofLe (w.rdBytes a n)

/-- Some byte of the range is marked poisoned. -/
def Work.rdPoison (w : Work) (a n : Nat) : Bool :=
  (List.range n).any (fun i => lookPoison w.s.poison w.mw (normAddr (a + i)))

/-- One byte written, with its poison mark. -/
def Work.wrP (w : Work) (a : Nat) (v : Byte) (p : Bool) : Work := { w with mw := .byte (normAddr a) v p :: w.mw }

/-- Bytes written from `a` upwards, all with one poison mark. -/
def Work.wrBytesP (w : Work) (a : Nat) (p : Bool) : List Byte → Work
  | [] => w
  | v :: vs => (w.wrP a v p).wrBytesP (a + 1) p vs

/-- Bytes written from `a` upwards, unpoisoned. -/
def Work.wrBytes (w : Work) (a : Nat) (vs : List Byte) : Work := w.wrBytesP a false vs

/-- A little-endian number of `n` bytes written at `a`. -/
def Work.wrLe (w : Work) (a n x : Nat) : Work := w.wrBytes a (leBytes n x)

/-- A range of the stack or tile windows zeroed. -/
def Work.zero (w : Work) (a n : Nat) : Work := { w with mw := .zero a n :: w.mw }

/-- A range of the stack or tile windows copied to another, marks included. -/
def Work.copy (w : Work) (src dst n : Nat) : Work := { w with mw := .copy src dst n :: w.mw }

/-- The key of a byte of a function's host memory (R441). -/
def hostKey (fn a : Nat) : Nat := fn * 2 ^ 64 + a % 2 ^ 64

/-- Bytes written into a function's host memory; they count as PCIe payload sent (R522). -/
def Work.wrHost (w : Work) (fn a : Nat) (vs : List Byte) : Work :=
  { w with
    hw := ((List.range vs.length).zip vs).reverse.map (fun p => (hostKey fn (a + p.1), p.2)) ++ w.hw
    s.pcieTx := wrapAdd 64 w.s.pcieTx vs.length }

/-- One byte of a function's host memory as the block last wrote it. -/
def State.hostByte (s : State) (fn a : Nat) : Byte := s.host.get 0 (hostKey fn a)

/-! ### The Scorepad (R503–R510, R519, R520) -/

/-- BURST of a severity's code buckets (R509). -/
def burstOf (sev : Nat) : Nat := if sev ≤ 2 then 8 else if sev = 6 then 64 else 16

/-- Event codes that R509 exempts from the buckets and from STORE_MIN: EV_SP_CLEARED and EV_CTX_STOP. -/
def exemptCode (code : Nat) : Bool := code = 0xA001 || code = 0x7006

/-- A record's 32 bytes (R504). -/
def Rec.bytes (r : Rec) : List Byte :=
  leBytes 4 r.seq ++ leBytes 2 r.code ++ leBytes 2 (r.sev + 8 * r.src) ++ leBytes 8 r.time ++
  leBytes 4 r.p0 ++ leBytes 4 r.p1 ++ leBytes 4 r.p2 ++
  leBytes 4 (lowBits 24 r.supp + (r.ctx.getD 0 % 16) * 2 ^ 24 + b2n r.ctx.isSome * 2 ^ 28 + b2n r.sat * 2 ^ 29 +
    b2n r.gap * 2 ^ 30 + b2n r.clear * 2 ^ 31)

/-- SP_OLDEST: the number of the oldest stored record, or SP_SEQ when none is stored (R515). -/
def Pad.oldest (p : Pad) : Nat := match p.recs with | [] => p.seq | r :: _ => r.seq

/-- The list without its first element that satisfies `f`. -/
def dropFirst {α : Type} (f : α → Bool) : List α → List α
  | [] => []
  | x :: xs => if f x then xs else x :: dropFirst f xs

/-- The records left once a new record of severity `sev` has its slot (R508); none when it must be dropped. A record below
FATAL finds no free slot either when FATAL records hold every slot left to it. -/
def Pad.makeRoom (p : Pad) (sev : Nat) : Option (List Rec) :=
  if sev = 6 then (if p.recs.length < 65536 then some p.recs else some (p.recs.drop 1))
  else if (p.recs.filter (fun r => r.sev ≠ 6)).length < 64512 ∧ p.recs.length < 65536 then some p.recs
  else if p.recs.any (fun r => r.sev ≤ sev && r.sev ≠ 6) then
    some (dropFirst (fun r => r.sev ≤ sev && r.sev ≠ 6) p.recs)
  else none

/-- The tokens of an occurrence are there: its code's bucket, and for TRACE to ERROR the package bucket (R509). -/
def Pad.hasTokens (p : Pad) (code sev : Nat) : Bool :=
  exemptCode code || (decide ((p.buckets.get {} code).missing < burstOf sev) &&
    (decide (4 < sev) || decide (p.pkgMissing < 4096)))

/-- The Scorepad once an occurrence has taken its tokens. -/
def Pad.takeTokens (p : Pad) (code sev : Nat) : Pad :=
  if exemptCode code then p
  else
    let b := p.buckets.get {} code
    { p with
      buckets := p.buckets.put {} code { b with missing := b.missing + 1 }
      pkgMissing := if sev ≤ 4 then p.pkgMissing + 1 else p.pkgMissing }

/-- A collector or the bus owner hears of a stored record (R519, R520). -/
def Work.announce (w : Work) (r : Rec) : Work :=
  let w := match w.s.mgt.collector with
    | some (a, p) => if w.s.pad.pushMin ≤ r.sev then w.send (.push a p r.bytes) else w
    | none => w
  if 5 ≤ r.sev ∧ w.s.mgt.pldmEvents then w.send (.pldmEvent r.bytes) else w

/-- A record of the store takes its number; the flash log and the saved sequence number follow (R507, R510). -/
def Work.store (w : Work) (recs : List Rec) (r : Rec) : Work :=
  let p := w.s.pad
  let b := p.buckets.get {} r.code
  let r := { r with seq := p.seq, supp := b.supp, sat := decide (b.supp = 0xFFFFFF), gap := p.gap }
  let seq := wrapAdd 32 p.seq 1
  let pad := { p with
    recs := recs ++ [r], seq := seq, gap := false
    buckets := p.buckets.put {} r.code { b with supp := 0 } }
  let flash := { w.s.flash with
    seqSaved := if seq % 4096 = 0 then some seq else w.s.flash.seqSaved
    log := if 5 ≤ r.sev then (w.s.flash.log ++ [r]).drop (w.s.flash.log.length + 1 - 4096) else w.s.flash.log }
  { w with s.pad := pad, s.flash := flash }.announce r

/-- A source submits a record to the arbiter (R506–R509). -/
def Work.submit (w : Work) (code sev src p0 p1 p2 : Nat) (ctx : Option Nat) (clear : Bool) : Work :=
  let p := w.s.pad
  if ¬ exemptCode code ∧ sev < p.storeMin then w
  else if p.hasTokens code sev then
    let w := { w with s.pad := p.takeTokens code sev }
    match w.s.pad.makeRoom (if exemptCode code then 5 else sev) with
    | some recs =>
      w.store recs
        { seq := 0, code := code, sev := sev, src := src, time := w.s.now
          p0 := lowBits 32 p0, p1 := lowBits 32 p1, p2 := lowBits 32 p2
          supp := 0, ctx := ctx, sat := false, gap := false, clear := clear }
    | none => { w with s.pad.dropped := satAdd 32 w.s.pad.dropped 1, s.pad.gap := true }
  else
    let b := p.buckets.get {} code
    { w with s.pad.buckets := p.buckets.put {} code { b with supp := satAdd 24 b.supp 1 } }

/-! ### Interrupts (R442) -/

/-- The 16 bytes of an MSI-X message's table entry are set and the vector is not masked. -/
def MsixEntry.live (e : MsixEntry) : Bool := !bit e.ctrl 0

/-- A vector's message is sent, or its pending bit set while the vector is masked (R442, as PCIe defines it). -/
def Work.message (w : Work) (f vec : Nat) : Work :=
  let fn := w.s.fn f
  let e := fn.msix.get {} vec
  if e.live then
    (w.setFn f { fn with lastMsg := fn.lastMsg.put 0 vec (w.s.now + 1), delayed := fn.delayed &&& (255 - 2 ^ vec) }).send
      (.msix f vec e.addr e.data)
  else w.setFn f { fn with pba := fn.pba ||| 2 ^ vec }

/-- The vector is enabled in CMD_INT_CTRL: bits 0–3 for the rings, 4 fault, 5 device. -/
def Fn.enabled (fn : Fn) (vec : Nat) : Bool := decide (vec < 6) && bit fn.intCtrl vec

/-- MOD_US still holds the vector back: its last message is less than MOD_US µs old. -/
def Fn.moderated (fn : Fn) (vec now : Nat) : Bool :=
  let last := fn.lastMsg.get 0 vec
  decide (0 < last) && decide (now + 1 < last + bits fn.intCtrl 15 8 * 1000)

/-- A cause bit is set; going from 0 to 1 it sends its vector's message, or leaves it to the end of MOD_US. -/
def Work.cause (w : Work) (f vec : Nat) : Work :=
  let fn := w.s.fn f
  if bit fn.intStatus vec then w
  else
    let w := w.setFn f { fn with intStatus := fn.intStatus ||| 2 ^ vec }
    if ¬ fn.enabled vec then w
    else if fn.moderated vec w.s.now then w.modFn f (fun g => { g with delayed := g.delayed ||| 2 ^ vec })
    else w.message f vec

/-- A record written by a unit of the package. A CRITICAL or FATAL one that is stored raises the PF's DEV cause
(R442). -/
def Work.recordCtx (w : Work) (code sev src p0 p1 p2 : Nat) (ctx : Option Nat) : Work :=
  let before := w.s.pad.seq
  let w := w.submit code sev src p0 p1 p2 ctx false
  if 5 ≤ sev ∧ w.s.pad.seq ≠ before then w.cause 0 5 else w

/-- A record that concerns no context. -/
def Work.record (w : Work) (code sev src p0 p1 p2 : Nat) : Work := w.recordCtx code sev src p0 p1 p2 none

/-! ### Sources (R505) -/

def srcTile (mesh : Nat) : Nat := mesh
def srcRegion (r : Nat) : Nat := 0x400 + r
def srcDie (d : Nat) : Nat := 0x800 + d
def srcPackage : Nat := 0xC00
def srcStack (s : Nat) : Nat := 0xC10 + s
def srcPort (p : Nat) : Nat := 0xC20 + p
def srcCore (c : Nat) : Nat := 0xC30 + c
def srcMgt : Nat := 0xC40
def srcPcie : Nat := 0xC41
def srcFn (f : Nat) : Nat := 0xC50 + f
def srcCtx (c : Nat) : Nat := 0xC60 + c
def srcSystem : Nat := 0x1000
def srcThread (t : Nat) : Nat := 0x1400 + t

end Sys2Proof.Machine
end

