-- ==== Sys2Proof/Machine/Sched.lean ====
section
/-! DEFINITION. The hardware thread scheduler and the core ports (chapter 14, R419–R428). -/

namespace Sys2Proof.Machine

/-- The core may run the thread (R419): cores 0–3 are command processors, 4–11 service cores. -/
def eligible (t : Thread) (core : Nat) : Bool :=
  (decide (core < 4) && (t.elig = 0 || t.elig = 2)) || (decide (4 ≤ core) && decide (core < 12) && (t.elig = 1 || t.elig = 2))

/-- The core takes work: released from reset, not halted, not retired (R434, R436, R549). -/
def HubCore.takes (c : HubCore) : Bool := c.released && !c.halted && !c.retired

/-- The core waits at its dispatch port (R421). -/
def HubCore.waits (c : HubCore) : Bool := c.takes && c.asking && c.thread.isNone

/-- The thread is warm on the core (R421). -/
def warm (s : State) (t : Thread) (core : Nat) : Bool :=
  t.lastCore = some core && decide (s.now < t.lastEnd + s.sched.affinityUs * 1000)

/-- The highest priority among threads, 0 for none. -/
def topPrio (s : State) (ts : List Nat) : Nat := ts.foldl (fun p t => Nat.max p (s.thread t).prio) 0

/-- The scheduler's choice for a core that asks for work (R421). -/
def select (s : State) (core : Nat) : Option Nat :=
  let cand := s.sched.ready.filter (fun t => eligible (s.thread t) core)
  let p := topPrio s cand
  let c := cand.filter (fun t => (s.thread t).prio = p)
  match c.find? (fun t => warm s (s.thread t) core) with
  | some t => some t
  | none =>
    match c.find? (fun t => !(List.range 12).any (fun k => warm s (s.thread t) k)) with
    | some t => some t
    | none => c.head?

/-- What a read of CORE_DISPATCH returns for a thread (R425). -/
def dispatchWord (s : State) (t core : Nat) : Nat :=
  t + (s.thread t).prio * 2 ^ 10 + b2n (warm s (s.thread t) core) * 2 ^ 15

/-- A thread goes to a core: it leaves its ready list, its wait enters the window's figures (R422, R428). -/
def Work.assign (w : Work) (t core : Nat) : Work :=
  let th := w.s.thread t
  let c := w.s.core core
  let reg := dispatchWord w.s t core
  let wait := w.s.now - th.readyAt
  let stat := w.s.sched.waits.get {} th.prio
  let stat := { stat with maxNow := Nat.min 0xFFFF (Nat.max stat.maxNow (wait / 1000)), cntNow := satAdd 16 stat.cntNow 1 }
  let w := { w with
    s.sched.ready := w.s.sched.ready.filter (fun x => x ≠ t)
    s.sched.waits := w.s.sched.waits.put {} th.prio stat }
  let w := w.setThread t { th with st := .running, raised := none }
  (w.setCore core
    { c with
      asking := false, thread := some t, heldSince := w.s.now, runSince := w.s.now, dispatchReg := reg }).send
    (.value (16 + core) reg)

/-- Cores that could run the thread and now run one of lower priority (R424). -/
def preemptable (s : State) (t : Thread) : List Nat :=
  (List.range 12).filter (fun k =>
    let c := s.core k
    c.takes && eligible t k && (match c.thread with | some u => decide ((s.thread u).prio < t.prio) | none => false))

/-- The core whose thread has the lowest priority, the lowest number among ties (R424). -/
def lowestRunner (s : State) : List Nat → Option Nat
  | [] => none
  | k :: ks =>
    match lowestRunner s ks with
    | none => some k
    | some j =>
      let pr := fun x => match (s.core x).thread with | some u => (s.thread u).prio | none => 0
      if pr j < pr k then some j else some k

/-- PREEMPT is raised for a READY thread that was not assigned (R424). -/
def Work.raise (w : Work) (t : Nat) : Work :=
  let th := w.s.thread t
  if th.raised.isSome then w
  else
    match lowestRunner w.s (preemptable w.s th) with
    | none => w
    | some k =>
      let w := w.setCore k { w.s.core k with preempt := true }
      let w := w.setThread t { th with raised := some k }
      { w with s.sched.preempts := satAdd 32 w.s.sched.preempts 1 }

/-- A READY thread is assigned at once while an eligible core waits, else it may raise PREEMPT (R422, R424). -/
def Work.place (w : Work) (t : Nat) : Work :=
  let th := w.s.thread t
  if th.st ≠ .ready then w
  else
    let free := (List.range 12).filter (fun k => (w.s.core k).waits && eligible th k)
    match free.find? (fun k => warm w.s th k) with
    | some k => w.assign t k
    | none =>
      match free with
      | k :: _ => w.assign t k
      | [] => w.raise t

/-- A thread joins the tail of its ready list (R420). -/
def Work.enqueue (w : Work) (t : Nat) : Work :=
  let th := w.s.thread t
  let w := w.setThread t { th with st := .ready, event := none, deadline := none, readyAt := w.s.now }
  { w with s.sched.ready := w.s.sched.ready.filter (fun x => x ≠ t) ++ [t] }

/-- Threads become READY in one scheduler cycle: they join in ascending number, then are assigned (R420, R422). -/
def Work.wake (w : Work) (ts : List Nat) : Work :=
  let ts := sortNat ts
  (w.each ts Work.enqueue).each ts Work.place

/-- Threads blocked on an event, ascending. -/
def blockedOn (s : State) (ev : Nat) : List Nat :=
  (s.sched.threads.filter (fun p => p.2.st = .blocked && p.2.event = some ev)).map (·.1)

/-- A signal of an event (R426). -/
def Work.signal (w : Work) (ev : Nat) : Work :=
  match blockedOn w.s ev with
  | [] => { w with s.sched.pendingEv := insertNat ev w.s.sched.pendingEv }
  | ts => w.wake ts

/-- The core gives back the thread it holds: affinity and load are noted (R421, R428). -/
def Work.giveBack (w : Work) (core : Nat) : Work :=
  let c := w.s.core core
  match c.thread with
  | none => w
  | some t =>
    let w := w.setThread t { w.s.thread t with lastCore := some core, lastEnd := w.s.now }
    w.setCore core { c with thread := none, heldNs := c.heldNs + (w.s.now - Nat.max c.heldSince w.s.sched.windowStart) }

/-- The core asks for work: PREEMPTs raised on it may be raised again, and it gets a thread or waits (R421, R424). -/
def Work.ask (w : Work) (core : Nat) : Work :=
  let ths := w.s.sched.threads.filter (fun p => p.2.raised = some core)
  let w := w.each ths (fun w p => w.setThread p.1 { w.s.thread p.1 with raised := none })
  match select w.s core with
  | some t => w.assign t core
  | none => w.setCore core { w.s.core core with asking := true }

/-- The running thread of a core yields: it goes to the tail of its ready list (R425). -/
def Work.yieldCore (w : Work) (core : Nat) : Work :=
  match (w.s.core core).thread with
  | none => w
  | some t => (w.giveBack core).wake [t]

/-- The running thread of a core blocks on an event, or stays READY when the event is pending (R426). -/
def Work.blockCore (w : Work) (core ev : Nat) : Work :=
  match (w.s.core core).thread with
  | none => w
  | some t =>
    let w := w.giveBack core
    if w.s.sched.pendingEv.contains ev then
      { w with s.sched.pendingEv := w.s.sched.pendingEv.filter (fun x => x ≠ ev) }.wake [t]
    else w.setThread t { w.s.thread t with st := .blocked, event := some ev }

/-- CORE_DISPATCH (R421–R425): a core that takes work and holds no thread asks. -/
def execCoreDispatch (core : Nat) (s : State) : Host.Outcome State Fault Refusal :=
  run s (fun w => w.when ((s.core core).takes && (s.core core).thread.isNone && !(s.core core).asking) (·.ask core))

/-- CORE_RELEASE with YIELD (R425). -/
def execCoreReleaseYield (core : Nat) (s : State) : Host.Outcome State Fault Refusal :=
  run s (·.yieldCore core)

/-- CORE_RELEASE with BLOCK (R426). -/
def execCoreReleaseBlock (core event : Nat) (s : State) : Host.Outcome State Fault Refusal :=
  run s (·.blockCore core event)

/-- CORE_RELEASE with EXIT: the thread becomes FREE (R425). -/
def execCoreReleaseExit (core : Nat) (s : State) : Host.Outcome State Fault Refusal :=
  run s (fun w =>
    match (s.core core).thread with
    | none => w
    | some t =>
      let w := w.giveBack core
      w.setThread t { w.s.thread t with st := .free, event := none, deadline := none })

/-- CORE_SIGNAL (R426). -/
def execCoreSignal (core event : Nat) (s : State) : Host.Outcome State Fault Refusal :=
  run s (fun w => w.when (s.core core).takes (·.signal event))

/-- Write-one-to-clear of CORE_PREEMPT.PENDING (R425). -/
def execCorePreemptClear (core value : Nat) (s : State) : Host.Outcome State Fault Refusal :=
  run s (fun w => w.when (bit value 0) (fun w => w.setCore core { w.s.core core with preempt := false }))

/-- End of a quantum (R424): the thread yields when another eligible thread of its priority is READY. -/
def execQuantumExpiry (core : Nat) (s : State) : Host.Outcome State Fault Refusal :=
  run s (fun w =>
    match (s.core core).thread with
    | none => w
    | some t =>
      let p := (s.thread t).prio
      if s.sched.ready.any (fun u => (s.thread u).prio = p && eligible (s.thread u) core) then w.yieldCore core
      else w.setCore core { w.s.core core with runSince := s.now })

/-- End of a scheduler window (R428): the window fields take the window's values. -/
def execSchedulerWindowEnd (s : State) : Host.Outcome State Fault Refusal :=
  run s (fun w =>
    let w := w.each (List.range 12) (fun w k =>
      let c := w.s.core k
      let held := c.heldNs + (if c.thread.isSome then s.now - Nat.max c.heldSince s.sched.windowStart else 0)
      w.setCore k { c with load := Nat.min 1024 (held * 1024 / 1048576), heldNs := 0 })
    let w := w.each (List.range 32) (fun w p =>
      let x := w.s.sched.waits.get {} p
      { w with
        s.sched.waits := w.s.sched.waits.put {} p { maxNow := 0, cntNow := 0, maxLast := x.maxNow, cntLast := x.cntNow } })
    { w with s.sched.windowStart := s.now })

end Sys2Proof.Machine
end

