-- ==== Sys2Proof/Machine/Host.lean ====
section
/-! DEFINITION. Rings, packets and replies (chapter 15, R442–R454, R464–R468, R474–R476): how a host command starts,
which checks it meets, and how its one reply is posted. -/

namespace Sys2Proof.Machine

/-! ### Status and reason codes (R464, R465) -/

def stDone : Nat := 0x01
def stFlagged : Nat := 0x02
def stAborted : Nat := 0x03
def stTooLate : Nat := 0x04
def stNotFound : Nat := 0x05
def stReplayed : Nat := 0x06
def stRefused : Nat := 0x07
def stRefusedBook : Nat := 0x08
def stAuth : Nat := 0x09
def stUnsupported : Nat := 0x0A
def stTally : Nat := 0x10
def stWalk : Nat := 0x11
def stTranslation : Nat := 0x12
def stMemory : Nat := 0x13
def stLink : Nat := 0x14
def stRehome : Nat := 0x15
def stStack : Nat := 0x16
def stCheck : Nat := 0x17

def rsNotOwner : Nat := 1
def rsNotOpen : Nat := 2
def rsPfOnly : Nat := 3
def rsAllocation : Nat := 4
def rsState : Nat := 5
def rsSegment : Nat := 6
def rsThreads : Nat := 7
def rsProgram : Nat := 8
def rsNotBanker : Nat := 9

/-! ### Replies (R449, R450, R452, R453) -/

/-- The slots of a submission ring and the entries of a completion ring (R445). -/
def Ring.slots (r : Ring) : Nat := 2 ^ r.log2Slots
def Ring.entries (r : Ring) : Nat := 2 ^ r.log2Entries

/-- Packets visible at and behind index `i` (R446): 1 to the slot count when packet `i` is visible. -/
def Ring.visible (r : Ring) (i : Nat) : Bool :=
  let d := modSub 32 r.p i
  decide (1 ≤ d) && decide (d ≤ r.slots)

/-- The completion ring has room for the next reply (R449). -/
def Ring.room (r : Ring) : Bool := decide (modSub 32 r.t r.cqHost < r.entries)

/-- A reply record: 32 bytes (R452), or the 16 bytes of TW1 (R453). -/
def replyBytes (tw1 : Bool) (status reason op ring index tag p0 p1 time : Nat) : List Byte :=
  if tw1 then
    leBytes 1 status ++ leBytes 1 reason ++ leBytes 1 op ++ leBytes 1 0 ++ leBytes 4 tag ++ leBytes 4 p0 ++ leBytes 4 p1
  else
    leBytes 1 status ++ leBytes 1 reason ++ leBytes 1 op ++ leBytes 1 (ring % 4) ++ leBytes 4 index ++ leBytes 4 tag ++
    leBytes 4 p0 ++ leBytes 8 p1 ++ leBytes 8 time

/-- The bytes of one completion entry of a device ring (R445). -/
def entrySize (s : State) (ring : Nat) : Nat := if (s.ctx (ring / 4)).compat then 16 else 32

/-- A reply is written at the tail of its completion ring, and its interrupt cause set (R449, R450). -/
def Work.writeReply (w : Work) (ring : Nat) (y : Reply) : Work :=
  let r := w.s.ring ring
  let at_ := r.cqBase + r.t % r.entries * entrySize w.s ring
  let w := w.wrHost (ring / 4) at_ y.bytes
  let w := w.setRing ring { r with t := wrapAdd 32 r.t 1 }
  if y.irq then w.cause (ring / 4) (ring % 4) else w

/-- A reply is written, or waits behind others for room (R449). -/
def Work.postReply (w : Work) (ring : Nat) (y : Reply) : Work :=
  let r := w.s.ring ring
  if r.waiting.isEmpty && r.room then w.writeReply ring y
  else w.setRing ring { r with waiting := r.waiting ++ [y] }

/-- Waiting replies are written while there is room (R449). -/
def Work.drainReplies (w : Work) (ring : Nat) : Nat → Work
  | 0 => w
  | n + 1 =>
    let r := w.s.ring ring
    match r.waiting with
    | [] => w
    | y :: ys =>
      if r.room then
        let w := w.setRing ring { r with waiting := ys }
        (w.writeReply ring y).drainReplies ring n
      else w

/-- The same started command: ring and index name it. -/
def Active.same (a b : Active) : Bool := a.ring = b.ring && a.index = b.index

/-- The pseudo-ring of commands that came over the management port (R518): their reply is a management response. -/
def mgtRing : Nat := 64

/-- The reply of a started command; the command is then done (R435, R449). A command from the management port gets its
response, whose body carries REASON, PARAM0 and PARAM1 (R518; log entry 20). -/
def Work.finish (w : Work) (a : Active) (status reason p0 p1 : Nat) : Work :=
  if a.ring = mgtRing then
    ({ w with s.actives := w.s.actives.filter (fun b => !a.same b) }).send
      (.mgt 0x15 a.index status (leBytes 1 reason ++ leBytes 4 p0 ++ leBytes 8 p1))
  else
  let y : Reply :=
    { bytes := replyBytes (w.s.ctx (a.ring / 4)).compat status reason a.op a.ring a.index a.tag p0 p1 w.s.now
      irq := a.irq }
  ({ w with s.actives := w.s.actives.filter (fun b => !a.same b) }).postReply a.ring y

/-- The first FENCE of a ring with no earlier started packet left (R448). -/
def doneFence (s : State) (ring : Nat) : Option Active :=
  match s.actives.find? (fun b => b.ring = ring) with
  | some a => if a.wait = .fence ∧ a.op = 0x01 then some a else none
  | none => none

/-- FENCEs of a ring that have become the oldest started packet reply (R448). -/
def Work.settleFences (w : Work) (ring : Nat) : Nat → Work
  | 0 => w
  | n + 1 =>
    match doneFence w.s ring with
    | none => w
    | some a => (w.finish a stDone 0 0 0).settleFences ring n

/-- The reply of a started command, and of the FENCEs that waited for it (R448, R449). -/
def Work.reply (w : Work) (a : Active) (status reason p0 p1 : Nat) : Work :=
  (w.finish a status reason p0 p1).settleFences a.ring w.s.actives.length

/-- The plain reply DONE. -/
def Work.replyDone (w : Work) (a : Active) : Work := w.reply a stDone 0 0 0

/-- Bytes go to host memory and the command replies; where the host refuses a byte, those before it are written, the
reply is FAULT_MEMORY, HOST, and `f` does not happen (R465). -/
def Work.reportTo (w : Work) (a : Active) (at_ : Nat) (bs : List Byte) (refuse : Option Nat) (p0 p1 : Nat) (f : Work → Work) :
    Work :=
  match refuse with
  | none => (f (w.wrHost (a.ring / 4) at_ bs)).reply a stDone 0 p0 p1
  | some k =>
    if k < bs.length then (w.wrHost (a.ring / 4) at_ (bs.take k)).reply a stMemory 2 0 0
    else (f (w.wrHost (a.ring / 4) at_ bs)).reply a stDone 0 p0 p1

/-- The reply REFUSED_CONTEXT with a reason. -/
def Work.refuse (w : Work) (a : Active) (reason : Nat) : Work := w.reply a stRefused reason 0 0

/-! ### Starting a packet (R445–R448, R466, R467) -/

/-- The consumer index past packets that an ABORT has completed (R445, R474). -/
def skipDone (skip : List Nat) : Nat → Nat → Nat
  | 0, c => c
  | n + 1, c => if skip.contains c then skipDone skip n (wrapAdd 32 c 1) else c

/-- Packet C has started or completed: C moves on. -/
def Ring.advance (r : Ring) : Ring :=
  let c := skipDone r.skip r.skip.length (wrapAdd 32 r.c 1)
  { r with c := c, skip := r.skip.filter (fun i => decide (modSub 32 r.p i ≤ r.slots) && modSub 32 i c < 2 ^ 31) }

/-- The device ring of a header (R440). -/
def Hdr.dev (h : Hdr) : Nat := 4 * h.fn + h.ring

/-- The packet at the ring's consumer index can start (R443, R446, R448, R476). -/
def canStart (s : State) (h : Hdr) : Bool :=
  let r := s.ring h.dev
  s.boot.fwReady && r.enabled && !r.flushing && r.visible r.c && decide (h.fn < 16) && decide (h.ring < 4) &&
  (!h.ordered || !s.actives.any (fun a => a.ring = h.dev))

/-- The started command a header stands for. -/
def Hdr.active (h : Hdr) (s : State) (op ctx : Nat) : Active :=
  { ring := h.dev, index := (s.ring h.dev).c, op := op, irq := h.irq, tag := h.tag, ctx := ctx, claimed := true
    wait := .fence }

/-- Which context must be open for a command to be admitted (R466): none, or one. -/
inductive Admit where
  | always
  | ctx (c : Nat)
deriving DecidableEq, Repr

/-- The context state admits the command (R466, check 4). -/
def admitted (s : State) : Admit → Bool
  | .always => true
  | .ctx c => !decide ((s.ctx c).st = .closed)

/-- A started command takes its place among those that have not replied. -/
def Work.begin (w : Work) (a : Active) : Work :=
  let w := w.setRing a.ring (w.s.ring a.ring).advance
  { w with s.actives := w.s.actives ++ [a] }

/-- A started command waits for something, having claimed its outcome or not (R474). -/
def Work.await (w : Work) (a : Active) (x : Await) (claimed : Bool) : Work :=
  { w with
    s.actives := w.s.actives.map (fun b => if a.same b then { b with wait := x, claimed := claimed } else b) }

/-- A host command: it starts where the ring allows, meets the checks of R466 in order, and then acts by `f`. `need`
is how many body bytes its opcode reads; `pf` marks a PF command. -/
def Work.command (w : Work) (h : Hdr) (op need : Nat) (pf : Bool) (adm : Admit) (f : Active → Work → Work) : Work :=
  if ¬ canStart w.s h then w
  else if h.length * 16 < need then w.fail 467
  else
    let a := h.active w.s op h.fn
    let w := w.begin a
    if pf ∧ h.fn ≠ 0 then w.refuse a rsPfOnly
    else if ¬ pf ∧ h.context ≠ h.fn then w.refuse a rsNotOwner
    else if ¬ admitted w.s adm then w.refuse a rsNotOpen
    else f a w

/-! ### Ring and function registers (R442, R443, R446, R449, R476) -/

/-- Packets of [C, P) that have neither started nor completed. -/
def Ring.unstarted (r : Ring) : Nat :=
  ((List.range (modSub 32 r.p r.c)).filter (fun i => !r.skip.contains (wrapAdd 32 r.c i))).length

/-- A flush of a ring, from its write to FLUSHING at 0 again (R476; log entry 7). -/
def Work.flushRing (w : Work) (ring : Nat) : Work :=
  let r := w.s.ring ring
  let n := r.unstarted
  let w := w.setRing ring { r with p := r.c, skip := [] }
  w.record 0x7004 2 (srcFn (ring / 4)) ring n 0

/-- CMD_SQ_DOORBELL (R443, R446, R447): P takes the value and the doorbell event of the ring is signalled. -/
def execSqDoorbell (fn ring value : Nat) (s : State) : Host.Outcome State Fault Refusal :=
  run s (fun w =>
    let d := 4 * fn + ring
    let r := s.ring d
    if ¬ s.boot.fwReady ∨ r.flushing then w
    else if r.slots < modSub 32 value r.c then w.fail 447
    else (w.setRing d { r with p := lowBits 32 value }).signal d)

/-- CMD_CQ_DOORBELL (R449, R450): entries are freed and waiting replies written. -/
def execCqDoorbell (fn ring value : Nat) (s : State) : Host.Outcome State Fault Refusal :=
  run s (fun w =>
    let d := 4 * fn + ring
    let r := s.ring d
    if ¬ s.boot.fwReady then w
    else (w.setRing d { r with cqHost := lowBits 32 value }).drainReplies d r.waiting.length)

/-- CMD_RING_CTRL.FLUSH (R476). -/
def execFlush (fn ring : Nat) (s : State) : Host.Outcome State Fault Refusal :=
  run s (fun w => w.when s.boot.fwReady (·.flushRing (4 * fn + ring)))

/-- CMD_SQ_CFG with ENABLE going from 0 to 1 (R442, R443): every index of the ring is 0 and the ring runs. -/
def execRingEnable (fn ring log2Slots : Nat) (s : State) : Host.Outcome State Fault Refusal :=
  run s (fun w =>
    let d := 4 * fn + ring
    let r := s.ring d
    if ¬ s.boot.fwReady then w
    else if r.enabled then w.fail 443
    else if log2Slots = 0 ∨ 12 < log2Slots then w.fail 442
    else
      w.setRing d
        { r with
          log2Slots := log2Slots, enabled := true, p := 0, c := 0, t := 0, cqHost := 0, skip := [], waiting := [] })

/-- CMD_SQ_CFG clearing ENABLE (R443): the ring is flushed and starts nothing more. -/
def execRingDisable (fn ring : Nat) (s : State) : Host.Outcome State Fault Refusal :=
  run s (fun w =>
    let d := 4 * fn + ring
    if ¬ s.boot.fwReady ∨ ¬ (s.ring d).enabled then w
    else (w.flushRing d).modRing d (fun r => { r with enabled := false }))

/-- A register write whose defined bits are those of `mask`; a one in a reserved bit is UNPREDICTABLE (R7). -/
def Work.defined (w : Work) (mask value : Nat) (f : Work → Work) : Work := if value &&& mask = value then f w else w.fail 7

/-- CMD_INT_STATUS, write one to clear (R442). -/
def execIntStatusClear (fn mask : Nat) (s : State) : Host.Outcome State Fault Refusal :=
  run s (·.defined 0x3F mask (fun w => w.modFn fn (fun g => { g with intStatus := g.intStatus - (g.intStatus &&& mask) })))

/-- End of a vector's MOD_US (R442): the message is sent if its bit is still set. -/
def execMsixExpiry (fn vec : Nat) (s : State) : Host.Outcome State Fault Refusal :=
  run s (fun w =>
    let g := s.fn fn
    if ¬ bit g.delayed vec then w
    else if bit g.intStatus vec ∧ g.enabled vec then w.message fn vec
    else w.setFn fn { g with delayed := g.delayed - (g.delayed &&& 2 ^ vec) })

/-- A word of the MSI-X table is written (R442); unmasking a vector with its pending bit set sends its message. -/
def Work.writeMsix (w : Work) (fn off value : Nat) : Work :=
  let vec := off / 16
  let e := (w.s.fn fn).msix.get {} vec
  let e := match off % 16 / 4 with
    | 0 => { e with addr := e.addr / 2 ^ 32 * 2 ^ 32 + lowBits 32 value }
    | 1 => { e with addr := lowBits 32 e.addr + lowBits 32 value * 2 ^ 32 }
    | 2 => { e with data := lowBits 32 value }
    | _ => { e with ctrl := lowBits 1 value }
  if off % 16 / 4 = 3 ∧ value &&& 1 ≠ value then w.fail 7 else
  let w := w.modFn fn (fun g => { g with msix := g.msix.put {} vec e })
  let g := w.s.fn fn
  if e.live ∧ bit g.pba vec then (w.setFn fn { g with pba := g.pba - (g.pba &&& 2 ^ vec) }).message fn vec else w

/-- A write to a ring register without behaviour of its own (R442, R443). -/
def Work.writeRing (w : Work) (d off value : Nat) : Work :=
  let r := w.s.ring d
  let v := lowBits 32 value
  if ¬ w.s.boot.fwReady then w
  else if (off = 0x00 ∨ off = 0x04 ∨ off = 0x08 ∨ off = 0x14 ∨ off = 0x18 ∨ off = 0x1C) ∧ r.enabled then w.fail 443
  else match off with
    | 0x00 => w.defined 0xFFFFF000 v (fun w => w.setRing d { r with sqBase := r.sqBase / 2 ^ 32 * 2 ^ 32 + v / 4096 * 4096 })
    | 0x04 => w.setRing d { r with sqBase := lowBits 32 r.sqBase + v * 2 ^ 32 }
    | 0x08 => w.defined 0x1F v (fun w => w.setRing d { r with log2Slots := lowBits 4 v })
    | 0x14 => w.defined 0xFFFFF000 v (fun w => w.setRing d { r with cqBase := r.cqBase / 2 ^ 32 * 2 ^ 32 + v / 4096 * 4096 })
    | 0x18 => w.setRing d { r with cqBase := lowBits 32 r.cqBase + v * 2 ^ 32 }
    | 0x1C => w.defined 0x1F v (fun w => w.setRing d { r with log2Entries := lowBits 5 v })
    | _ => w

/-- A host write to a register that has no behaviour of its own (R442–R444): BAR2 and read-only registers ignore it. `size`
is the access's bytes: an access that is not of 32 bits, or not aligned, is UNPREDICTABLE (R6), and so is a one in a reserved
bit (R7). -/
def execRegisterWrite (fn bar offset size value : Nat) (s : State) : Host.Outcome State Fault Refusal :=
  run s (fun w =>
    if size ≠ 4 ∨ offset % 4 ≠ 0 then w.fail 6
    else if bar ≠ 0 then w
    else if offset = 0x0008 then w.defined 1 value (fun w => w.modFn fn (fun g => { g with compat := bit value 0 }))
    else if offset = 0x0020 then w.defined 0xFF3F value (fun w => w.modFn fn (fun g => { g with intCtrl := value &&& 0xFF3F }))
    else if 0x8000 ≤ offset ∧ offset < 0x8080 then w.writeMsix fn (offset - 0x8000) value
    else if 0x0100 ≤ offset ∧ offset < 0x0200 then
      w.writeRing (4 * fn + (offset - 0x100) / 0x40) ((offset - 0x100) % 0x40) value
    else w)

/-! ### Fault stops (R468) -/

/-- The started TURN_RUNs of a context, oldest first. -/
def turnRuns (s : State) (c : Nat) : List Active :=
  s.actives.filter (fun a => a.ctx = c && (match a.wait with | .turnRun _ => true | _ => false))

/-- PARAM1 of a TURN_RUN's reply (R454). -/
def turnParam (attempt action : Nat) (noClose : Bool) : Nat := attempt + action * 2 ^ 8 + b2n noClose * 2 ^ 10

/-- Every tile that runs a stream of the context: package logical tiles of its regions (R13, R458). -/
def ctxTiles (x : Ctx) : List Nat := (setBits 12 x.mask).flatMap (fun r => (List.range 11).map (fun k => 11 * r + k))

/-- Issue stops on every tile of a context (R57, R284, R468). -/
def Work.stopTiles (w : Work) (c : Nat) : Work :=
  w.each (ctxTiles (w.s.ctx c)) (fun w n => w.modTile n (fun t => { t with stopped := true }))

/-- The context moves to STOPPED (R468): STOP_STATUS, EV_CTX_STOP, the FAULT cause, the CTX_FAULT event. -/
def Work.enterStopped (w : Work) (c status reason : Nat) : Work :=
  let x := w.s.ctx c
  let seq := w.s.pad.seq
  let w := w.recordCtx 0x7006 4 (srcCtx c) status reason x.turn.num (some c)
  let w := w.stopTiles c
  let w := w.setCtx c
    { w.s.ctx c with
      st := .stopped, stopStatus := status, reason := reason, stopSeq := seq
      turn := { (w.s.ctx c).turn.rest with phase := 5 } }
  (w.cause c 4).signal (0x40 + c)

/-- A context stops (R468): its running TURN_RUN replies with the status and the closing tally's action, and every
TURN_RUN queued behind it is refused. -/
def Work.stopTurn (w : Work) (c status reason action : Nat) : Work :=
  let x := w.s.ctx c
  if x.st = .closed ∨ x.st = .stopped then w
  else
    let runs := turnRuns w.s c
    let running := x.turn.started
    let w := w.enterStopped c status reason
    match runs with
    | [] => w
    | a :: rest =>
      if running then
        (w.reply a status reason x.turn.num (turnParam x.turn.attempt action false)).each rest (fun w b => w.refuse b rsState)
      else w.each (a :: rest) (fun w b => w.refuse b rsState)

/-- A fault stop of a context (R468). -/
def Work.faultStop (w : Work) (c status reason : Nat) : Work := w.stopTurn c status reason 0

end Sys2Proof.Machine
end

