-- ==== Sys2Proof/Machine/Memory.lean ====
section
/-! DEFINITION. Context addresses, board addresses and package addresses: segment walks (R349–R351), what a range
belongs to (R348, R352), the byte counters of memory (R343, R521), and requests to other packages (R347, R357). -/

namespace Sys2Proof.Machine

/-! ### Tiles and where they stand (R10–R13, R458) -/

/-- Mesh number 12·my + mx of physical index `i` of region `r` (R10–R12). -/
def meshOf (r i : Nat) : Nat :=
  let d := r / 3
  let mx := 2 * (r % 3) + i % 2 + 6 * (d % 2)
  let my := i / 2 + 6 * (d / 2)
  12 * my + mx

/-- Mesh number of the physical tile that hosts package logical tile `n` (R13, R16). -/
def hostMesh (s : State) (n : Nat) : Nat := meshOf (n / 11) ((s.region (n / 11)).map.getD (n % 11) 0)

/-- Package region of a context's region number (R458). -/
def ctxRegion (x : Ctx) (k : Nat) : Nat := (setBits 12 x.mask).getD k 12

/-- Package logical tile of a context's logical tile (R458). -/
def pkgTile (x : Ctx) (t : Nat) : Nat := 11 * ctxRegion x (t / 11) + t % 11

/-- The context's own number of a package logical tile (R458). -/
def ctxTile (x : Ctx) (n : Nat) : Nat :=
  11 * ((setBits 12 x.mask).filter (fun r => decide (r < n / 11))).length + n % 11

/-- The number of a context's regions (R458). -/
def regionCount (x : Ctx) : Nat := (setBits 12 x.mask).length

/-! ### Byte counters (R343, R521) -/

/-- A stack enters self refresh, and leaves it (R318): the running time of the patrol scrub stops and goes on (R340). -/
def Stack.rest (g : Stack) (now : Nat) : Stack := { g with st := 2, ran := g.ran + (now - g.since) }
def Stack.resume (g : Stack) (now : Nat) : Stack := { g with st := 1, since := now, lastReq := now }

/-- The 4 KiB granules a range touches, as (address, bytes). -/
def granules (a n : Nat) : List (Nat × Nat) :=
  let first := Nat.min n (4096 - a % 4096)
  let rest := n - first
  (a, first) :: (List.range ((rest + 4095) / 4096)).map (fun i =>
    (a + first + 4096 * i, Nat.min 4096 (rest - 4096 * i)))

/-- What a write costs a stack in bytes written and read: whole sectors, and a read of each sector that it covers only in
part (R329). -/
def writeCost (a n : Nat) : Nat × Nat :=
  if n = 0 then (0, 0)
  else
    let lo := a / 32
    let hi := (a + n - 1) / 32
    let first := decide (a % 32 ≠ 0)
    let last := decide ((a + n) % 32 ≠ 0)
    (32 * (hi - lo + 1), if lo = hi then 32 * b2n (first || last) else 32 * (b2n first + b2n last))

/-- Bytes of HBM read or written count on their stack and on the package (R329, R343). -/
def Work.countHbm (w : Work) (a n : Nat) (write : Bool) : Work :=
  w.each (granules a n) (fun w g =>
    let (wr, rd) := if write then writeCost g.1 g.2 else (0, g.2)
    { w with s.pkgBytes := wrapAdd 64 w.s.pkgBytes (wr + rd) }.modStack (stackOf g.1) (fun k =>
      { k with wr := wrapAdd 64 k.wr wr, rd := wrapAdd 64 k.rd rd, lastReq := w.s.now }))

/-- The first deep-store tile address (R144). -/
def deepBase : Nat := 0x08000000

/-- Bytes of a tile store read or written count on the hosting physical tile (R521). -/
def Work.countTile (w : Work) (n t len : Nat) : Work :=
  w.modPh (hostMesh w.s n) (fun p =>
    if t < deepBase then { p with near := wrapAdd 64 p.near len } else { p with deep := wrapAdd 64 p.deep len })

/-- The address lies in a tile window (R344). -/
def inTiles (a : Nat) : Bool := decide (tileWindowBase ≤ a) && decide (a < tileWindowEnd)

/-- An access counts where its bytes lie. -/
def Work.count (w : Work) (a n : Nat) (write : Bool) : Work :=
  if inHbm a then w.countHbm a n write
  else if inTiles a then w.countTile ((a - tileWindowBase) / 0x10000000) ((a - tileWindowBase) % 0x10000000) n
  else w

/-- Bytes read, counted. -/
def Work.load (w : Work) (a n : Nat) : List Byte × Work := (w.rdBytes a n, w.count a n false)

/-- Bytes written, counted. -/
def Work.storeBytes (w : Work) (a : Nat) (vs : List Byte) (poison : Bool) : Work :=
  (w.wrBytesP a poison vs).count a vs.length true

/-! ### Segment walks (R349–R351) -/

/-- Why a translation fails; `readError` is a walk read at a package address that met an uncorrectable error. -/
inductive WalkErr where
  | translation | walk
  | readError (addr : Nat)
deriving DecidableEq, Repr

/-- A walk pointer leads outside HBM space or into a doubles reserve (R326, R351). -/
def badWalk (a : Nat) : Bool := !inHbm a || decide (reserveOff ≤ offsetOf a)

/-- A segment entry (R349). -/
structure SegEntry where
  valid : Bool
  write : Bool
  limitM1 : Nat
  target : Nat
deriving DecidableEq, Repr

/-- The 16 bytes of a segment entry, read (R349). -/
def SegEntry.ofNat (x : Nat) : SegEntry :=
  { valid := bit x 0, write := bit x 1, limitM1 := bits x 27 8, target := bits x 111 64 }

/-- The 16 bytes of a segment entry, written. -/
def SegEntry.toNat (e : SegEntry) : Nat := b2n e.valid + 2 * b2n e.write + e.limitM1 * 2 ^ 8 + e.target * 2 ^ 64

/-- The root entry that covers a context address: its value (R349). -/
def Work.rootEntry (w : Work) (c a : Nat) : Nat := w.rdLe ((w.s.ctx c).root + 8 * bits a 47 40) 8

/-- The address of a root entry's leaf page (R349). -/
def leafOf (root : Nat) : Nat := bits root 43 12 * 4096

/-- Translation of one access of `n` bytes (R350); `ue`: the walk read that meets an uncorrectable error, that of the
root entry (false) or of the segment entry (true). -/
def Work.translate (w : Work) (c a n : Nat) (write : Bool) (ue : Option Bool) : Except WalkErr Nat :=
  if bits a 63 48 ≠ 0 then .error .translation
  else if badWalk (w.s.ctx c).root then .error .walk
  else if ue = some false then .error (.readError ((w.s.ctx c).root + 8 * bits a 47 40))
  else
    let root := w.rootEntry c a
    if ¬ bit root 0 then .error .translation
    else if badWalk (leafOf root) then .error .walk
    else if ue = some true then .error (.readError (leafOf root + 16 * bits a 39 32))
    else
      let e := SegEntry.ofNat (w.rdLe (leafOf root + 16 * bits a 39 32) 16)
      if ¬ e.valid then .error .translation
      else if (e.limitM1 + 1) * 4096 < lowBits 32 a + n then .error .translation
      else if write ∧ ¬ e.write then .error .translation
      else .ok (e.target + lowBits 32 a)

/-- The status a faulting command replies (R351). -/
def WalkErr.status : WalkErr → Nat
  | .translation => stTranslation
  | _ => stWalk

/-- A segment entry of a context by its index, as the tables in HBM hold it. -/
def Work.segEntry (w : Work) (c index : Nat) : SegEntry :=
  let root := w.rdLe ((w.s.ctx c).root + 8 * (index / 256)) 8
  if bit root 0 then SegEntry.ofNat (w.rdLe (leafOf root + 16 * (index % 256)) 16) else SegEntry.ofNat 0

/-- A segment entry written into its leaf page. -/
def Work.setSegEntry (w : Work) (c index : Nat) (e : SegEntry) : Work :=
  let root := w.rdLe ((w.s.ctx c).root + 8 * (index / 256)) 8
  w.wrLe (leafOf root + 16 * (index % 256)) 16 e.toNat

/-! ### This package and the others of its board (R29, R31, R347) -/

/-- The slot that a board address names is this package's (R29). -/
def ownSlot (s : State) (b : Nat) : Bool := decide (b / 2 ^ 44 = s.pins.slot)

/-- The package address of a board address (R29). -/
def pkgAddr (b : Nat) : Nat := lowBits 44 b

/-- This package's coordinates; before formation its place on its own board (R347). -/
def State.here (s : State) : Xyz :=
  if s.form.form = 2 then s.form.coord else { x := s.pins.slot % 4, y := s.pins.slot / 4, z := 0 }

/-- The coordinates of the package that a board address names, with this package's board column and row (R31, R347). -/
def boardCoord (s : State) (b : Nat) : Xyz :=
  let slot := b / 2 ^ 44 % 16
  { x := s.here.x / 4 * 4 + slot % 4, y := s.here.y / 4 * 4 + slot / 4, z := s.here.z }

/-- The epoch tag of a context's running attempt (R53, R354). -/
def ctxTag (s : State) (c : Nat) : Tag :=
  let x := s.ctx c
  { turn := x.turn.num, attempt := x.turn.attempt, untagged := false, job := lowBits 12 x.job }

/-- The tag of a flit that belongs to no attempt (R354, R355). -/
def freeTag (s : State) (c : Nat) : Tag := { turn := 0, attempt := 0, untagged := true, job := lowBits 12 (s.ctx c).job }

/-- A packet of this package to another, in dimension order (R356). -/
def mkPacket (s : State) (type len : Nat) (dst : Xyz) (addr tag : Nat) (data : List Byte) : Packet :=
  { type := type, len := len, sig := false, poison := false, detour := false, holdAxis := 0, hold := 0
    dst := dst, addr := lowBits 44 addr, sigTally := 0, sigTile := 0, src := s.here, tag := tag, data := data }

/-- The pieces of a range of at most 224 bytes, as (offset, bytes) (R356, R358). -/
def pieces224 (n : Nat) : List (Nat × Nat) :=
  (List.range ((n + 223) / 224)).map (fun i => (224 * i, Nat.min 224 (n - 224 * i)))

/-- A request that will be answered takes the next tag (R356, R361). -/
def Work.request (w : Work) (c : Nat) (write : Bool) (tag : Tag) (type len : Nat) (b : Nat) (data : List Byte)
    (poison : Bool) (owner : Owner) (dest : Dest) : Work :=
  let t := w.s.nextTag
  let q : Request :=
    { tag := t, write := write, ctx := c, untagged := tag.untagged, to_ := boardCoord w.s b, owner := owner, dest := dest }
  let w := { w with s.nextTag := wrapAdd 16 t 1, s.requests := w.s.requests ++ [q] }
  w.send (.parcel { vc := 0, tag := tag, pkt := { mkPacket w.s type len (boardCoord w.s b) b t data with poison := poison } })

/-- The place `off` bytes behind a destination. -/
def Dest.shift (d : Dest) (off : Nat) : Dest :=
  match d with
  | .host f a => .host f (a + off)
  | .mem a => .mem (a + off)
  | .space p o => .space p (o + off)
  | .board b => .board (b + off)
  | .none => .none

/-- A read of another package of the board: READ packets of at most 224 bytes (R358). -/
def Work.readRemote (w : Work) (c : Nat) (tag : Tag) (b n : Nat) (owner : Owner) (dest : Dest) : Work :=
  w.each (pieces224 n) (fun w p => w.request c false tag 2 p.2 (b + p.1) [] false owner (dest.shift p.1))

/-- An acknowledged write to another package of the board (R357). -/
def Work.writeRemote (w : Work) (c : Nat) (tag : Tag) (b : Nat) (vs : List Byte) (poison : Bool) (owner : Owner) :
    Work :=
  w.each (pieces224 vs.length) (fun w p => w.request c true tag 1 p.2 (b + p.1) ((vs.drop p.1).take p.2) poison owner .none)

/-- What other packages answer for a board address, from the command's operands. -/
def remoteByte : List Upset → Nat → Byte
  | [], b => Config.remoteByte b
  | .remote a data _ :: rest, b => if a ≤ b ∧ b < a + data.length then data.getD (b - a) 0 else remoteByte rest b
  | _ :: rest, b => remoteByte rest b

/-- Some byte of a board range comes from another package marked poisoned (R358). -/
def remoteBad (u : List Upset) (b n : Nat) : Bool :=
  u.any (fun e => match e with | .remote a data true => decide (a < b + n) && decide (b < a + data.length) | _ => false)

/-- READ packets of at most 224 bytes to another package of the board, whose answers the command carries (R358; log entry 8). -/
def Work.askRemote (w : Work) (tag : Tag) (b n : Nat) : Work :=
  w.each (pieces224 n) (fun w p =>
    let t := w.s.nextTag
    { w with s.nextTag := wrapAdd 16 t 1 }.send
      (.parcel { vc := 0, tag := tag, pkt := mkPacket w.s 2 p.2 (boardCoord w.s (b + p.1)) (b + p.1) t [] }))

/-- READ packets for the board ranges (offset, bytes, board address) that other packages hold. -/
def Work.askSpans (w : Work) (tag : Tag) (ss : List (Nat × Nat × Nat)) : Work :=
  w.each ss (fun w p => if ownSlot w.s p.2.2 then w else w.askRemote tag p.2.2 p.2.1)

/-- `n` bytes at a board address as the block reads them: its own memory, or what another package answers. -/
def Work.rdBoard (w : Work) (u : List Upset) (b n : Nat) : List Byte :=
  if ownSlot w.s b then w.rdBytes (pkgAddr b) n else (List.range n).map (fun i => remoteByte u (b + i))

/-! ### What a context holds (R348, R352, R456) -/

/-- A range of the stack window lies inside pages of the context. -/
def inAllocs (x : Ctx) (a n : Nat) : Bool :=
  x.allocs.any (fun g => decide (g.addr ≤ a) && decide (a + n ≤ g.addr + g.bytes) &&
    (match g.use with | .segment _ => true | .save => false | _ => false))

/-- A range of the spread window lies inside granules of the context. -/
def inSpread (x : Ctx) (a n : Nat) : Bool :=
  x.spread.any (fun g => decide (spreadBase + g.off ≤ a) && decide (a + n ≤ spreadBase + g.off + g.bytes))

/-- One byte of HBM belongs to pages that the context may use, through either window. -/
def ownsByte (x : Ctx) (a : Nat) : Bool :=
  let k := normAddr a
  inAllocs x k 1 ||
  x.spread.any (fun g =>
    let o := offsetOf k
    let x0 := o / 4096 * 12 * 4096 + stackOf k * 4096 + o % 4096
    decide (g.off ≤ x0) && decide (x0 < g.off + g.bytes))

/-- The whole range lies in HBM space or tile windows allocated to the context (R348). -/
def allocated (x : Ctx) (a n : Nat) : Bool :=
  if inHbm a then inAllocs x a n || inSpread x a n || (granules a n).all (fun g => ownsByte x g.1 && ownsByte x (g.1 + g.2 - 1))
  else if inTiles a then
    let t := (a - tileWindowBase) / 0x10000000
    (ctxTiles x).contains t && decide ((a + n - 1 - tileWindowBase) / 0x10000000 = t)
  else false

/-! ### Poison of the running attempt (R273, R580) -/

/-- Causes of a replay (R499, R580): 1 tally, 2 HBM, 3 store, 4 failed check, 5 link, 6 package or Banker, 7 mesh error. -/
def causeStatus (cause : Nat) : Nat × Nat :=
  match cause with
  | 1 => (stTally, 0)
  | 2 => (stMemory, 1)
  | 3 => (stMemory, 4)
  | 4 => (stCheck, 0)
  | 5 => (stLink, 0)
  | 7 => (stCheck, 0)
  | _ => (stRehome, 0)

/-- The Banker's key of a context's Turns: its JOB, or 0x10000 + c when its own package is its Banker (R457). -/
def keyOf (x : Ctx) (c : Nat) : Nat := if x.job = 0xFFFF then 0x10000 + c else x.job

/-- A rank as one number (R498). -/
def rankNum (r : Xyz) : Nat := r.x + 16 * r.y + 256 * r.z

/-- The rank a package holds for a context: its Rulebook's ROLE, or 0 in a job of its own package (R389, R457). -/
def rankOf (x : Ctx) : Nat := if x.job = 0xFFFF then 0 else x.rank

/-- A rank's number read back. -/
def rankXyz (r : Nat) : Xyz := { x := r % 16, y := r / 16 % 16, z := r / 256 % 16 }

/-- An attempt is running: GO has been received and no vote, replay or stop has ended it. -/
def Turn.live (t : Turn) : Bool := t.started && (t.phase = 2 || t.phase = 3)

/-- An attempt has been prepared and is not over: from READY until its COMMIT, REPLAY or stop. -/
def Turn.busy (t : Turn) : Bool := t.started && decide (1 ≤ t.phase) && decide (t.phase ≤ 4)

/-- The poison bit of a context's running attempt is set and sent to the Banker at once; the
attempt's other moves go on (R143, R273, R282). A tally fault is sent even in an attempt that is poisoned already: R58 counts it. -/
def Work.poison (w : Work) (c cause : Nat) : Work :=
  let x := w.s.ctx c
  if ¬ x.turn.live then w
  else if x.turn.poison then
    (if cause = 1 ∧ x.turn.cause ≠ 1 then w.send (.closing (.poison (keyOf x c) (rankOf x) x.turn.num x.turn.attempt 1)) else w)
  else
    let w := w.setCtx c { x with turn := { x.turn with poison := true, cause := cause } }
    w.send (.closing (.poison (keyOf x c) (rankOf x) x.turn.num x.turn.attempt cause))

end Sys2Proof.Machine
end

