-- ==== Sys2Proof/Machine/Book.lean ====
section
/-! DEFINITION. The Rulebook image: header, section directory, footprints, tensor tables and the loader's checks
(chapter 02, R36–R41, R145, R578, R579), and the allocation of pages that the loader and the segment commands share
(R352, R456, R460, R473). -/

namespace Sys2Proof.Machine

/-! ### Reading an image -/

/-- `n` bytes at offset `off` of a Rulebook store: copy 0, or the second copy where copy 0 is poisoned (R338). -/
def Work.bookBytes (w : Work) (b : Book) (off n : Nat) : List Byte :=
  if w.rdPoison (b.addr + off) n then w.rdBytes (b.copy + off) n else w.rdBytes (b.addr + off) n

/-- A little-endian field of a Rulebook store. -/
def Work.bookLe (w : Work) (b : Book) (off n : Nat) : Nat := ofLe (w.bookBytes b off n)

/-- One entry of the section directory (R37). -/
structure Sect where
  type : Nat
  index : Nat
  off : Nat
  size : Nat
deriving DecidableEq, Repr

/-- Sixteen directory bytes read (R37). -/
def Sect.ofBytes (bs : List Byte) : Sect :=
  { type := ofLe (bs.take 2), index := ofLe ((bs.drop 2).take 2), off := ofLe ((bs.drop 4).take 4)
    size := ofLe ((bs.drop 8).take 4) }

/-- The section directory of a stored Rulebook (R36, R37). -/
def Work.sections (w : Work) (b : Book) : List Sect :=
  let n := w.bookLe b 0x12 2
  let dir := w.bookLe b 0x14 4
  (List.range n).map (fun i => Sect.ofBytes (w.bookBytes b (dir + 16 * i) 16))

/-- The section of a type other than STREAM (R37). -/
def Work.sect (w : Work) (b : Book) (type : Nat) : Option Sect := (w.sections b).find? (fun e => e.type = type)

/-- The move stream of a logical tile (R37). -/
def Work.stream (w : Work) (b : Book) (t : Nat) : Option Sect :=
  (w.sections b).find? (fun e => e.type = 1 && e.index = t)

/-- TILE_COUNT and REGION_MASK (R36). -/
def Work.tileCount (w : Work) (b : Book) : Nat := w.bookLe b 0x0D 1
def Work.regionMask (w : Work) (b : Book) : Nat := w.bookLe b 0x0E 2 % 4096

/-- A tile's footprints (R145). -/
structure Foot where
  near : Nat := 0
  deep : Nat := 0
  cache : Nat := 0
  staging : Nat := 0
deriving DecidableEq, Repr

/-- The TILE_FOOTPRINT entry of a logical tile (R37). -/
def Work.foot (w : Work) (b : Book) (t : Nat) : Foot :=
  match w.sect b 2 with
  | none => {}
  | some e =>
    let f := fun i => w.bookLe b (e.off + 16 * t + 4 * i) 4
    { near := f 0, deep := f 1, cache := f 2, staging := f 3 }

/-- The book of a handle. -/
def Ctx.book (x : Ctx) (h : Nat) : Option Book := x.books.get none h

/-- The book whose Turn runs or ran last (R147). -/
def Ctx.running (x : Ctx) : Option Book := x.book x.turn.handle

/-- The footprints in force of a package logical tile (R147). -/
def Work.footInForce (w : Work) (c n : Nat) : Foot :=
  let x := w.s.ctx c
  match x.running with
  | none => {}
  | some b => w.foot b (ctxTile x n)

/-! ### The tensor table (R262, R263) and the recipes (R277) -/

/-- The TENSOR_TABLE header (R262). -/
structure TensorHead where
  tensors : Nat
  pieces : Nat
  ctAddr : Nat
  curSeg : Nat
  nextSeg : Nat
  keepWord : Nat
  mirrorBase : Nat
  mirrorBytes : Nat
  mstageBase : Nat
  mstageBytes : Nat
  policy : Nat
deriving DecidableEq, Repr

/-- A section's fields: the number at an offset, of a width in bytes. -/
abbrev Reader := Nat → Nat → Nat

/-- The fields of a section of a stored Rulebook; an absent section reads as zeros. -/
def Work.reader (w : Work) (b : Book) (type : Nat) : Reader :=
  match w.sect b type with
  | none => fun _ _ => 0
  | some e => fun o n => w.bookLe b (e.off + o) n

/-- A TENSOR_TABLE header. -/
def TensorHead.read (f : Reader) : TensorHead :=
  { tensors := f 0 4, pieces := f 4 4, ctAddr := f 8 8, curSeg := f 0x10 2, nextSeg := f 0x12 2, keepWord := f 0x14 4
    mirrorBase := f 0x18 8, mirrorBytes := f 0x20 8, mstageBase := f 0x28 8, mstageBytes := f 0x30 8, policy := f 0x38 1 }

/-- The TENSOR_TABLE header of a book, where it has the section. -/
def Work.tensorHead (w : Work) (b : Book) : Option TensorHead :=
  (w.sect b 0x12).map (fun _ => TensorHead.read (w.reader b 0x12))

/-- A tensor record (R262). -/
structure TensorRec where
  threshold : Nat
  clip : Nat
  recipe : Nat
  stream : Nat
deriving DecidableEq, Repr

/-- The record of a tensor id. -/
def TensorRec.read (f : Reader) (t : Nat) : TensorRec :=
  let g := fun o n => f (0x40 + 16 * t + o) n
  { threshold := g 0 4, clip := g 4 2, recipe := g 6 1, stream := g 8 4 }

/-- A piece entry (R262). -/
structure Piece where
  entry : Nat
  tensor : Nat
  region : Nat
  n : Nat
  first : Nat
  stateOff : Nat
  grad : Nat
  mirrorOff : Nat
  mstageOff : Nat
deriving DecidableEq, Repr

/-- The piece of an entry index; entries start at the first multiple of 64 after the tensor records. -/
def Piece.read (f : Reader) (i : Nat) : Piece :=
  let base := roundUp (0x40 + 16 * f 0 4) 64 + 64 * i
  let g := fun o n => f (base + o) n
  { entry := i, tensor := g 0 2, region := g 2 1, n := g 4 4, first := g 8 8, stateOff := g 0x10 8, grad := g 0x18 8
    mirrorOff := g 0x20 8, mstageOff := g 0x28 8 }

/-- A recipe (R277): every value an FP32 code but KIND, BIAS, the table and INIT_STEP. -/
structure Recipe where
  kind : Nat
  bias : Bool
  beta1 : Nat
  beta2 : Nat
  eps : Nat
  wd : Nat
  lrCount : Nat
  lrTable : Nat
  initStep : Nat
deriving DecidableEq, Repr

/-- Recipe `n` of a RECIPES section. -/
def Recipe.read (f : Reader) (n : Nat) : Recipe :=
  let g := fun o k => f (16 + 64 * n + o) k
  { kind := g 0 1, bias := bit (g 1 1) 0, beta1 := g 4 4, beta2 := g 8 4, eps := g 0xC 4, wd := g 0x10 4, lrCount := g 0x14 4
    lrTable := g 0x18 8, initStep := g 0x20 4 }

/-- Bytes of a piece's epoch layout (R263). -/
def layoutBytes (kind n : Nat) : Nat := (if kind = 0 then 4 * n else 3 * n) + n / 16

/-! ### Tables (R292–R298) -/

/-- A TABLES entry (R292). -/
structure TableRec where
  index : Nat
  train : Bool
  region : Nat
  tensor : Nat
  rows : Nat
  len : Nat
  recipe : Nat
  retierTurns : Nat
  hotMin : Nat
  warmMin : Nat
  gradCap : Nat
  dir : Nat
  pools : List Nat
  pairs : List Nat
  retierCap : Nat
  grad : Nat
  retier : Nat
  journal : Nat
  mirrorOff : Nat
  mstageOff : Nat
deriving DecidableEq, Repr

/-- How many tables a book declares (R292). -/
def Work.tableCount (w : Work) (b : Book) : Nat :=
  match w.sect b 0x16 with
  | none => 0
  | some e => w.bookLe b e.off 2

/-- Table `n` of a TABLES section. -/
def TableRec.read (f : Reader) (n : Nat) : TableRec :=
  let g := fun o k => f (16 + 128 * n + o) k
  { index := n, train := decide (g 0 1 = 1), region := g 1 1, tensor := g 2 2, rows := g 4 4, len := g 8 2, recipe := g 0xA 1
    retierTurns := g 0xC 2, hotMin := g 0xE 2, warmMin := g 0x10 2, gradCap := g 0x14 4, dir := g 0x18 8
    pools := [g 0x20 8, g 0x28 8, g 0x30 8], pairs := [g 0x38 4, g 0x3C 4, g 0x40 4], retierCap := g 0x44 4, grad := g 0x48 8
    retier := g 0x50 8, journal := g 0x58 8, mirrorOff := g 0x60 8, mstageOff := g 0x68 8 }

/-- Table `n` of a book (R292). -/
def Work.table (w : Work) (b : Book) (n : Nat) : Option TableRec :=
  if w.tableCount b ≤ n then none else some (TableRec.read (w.reader b 0x16) n)

/-- Every table of a book. -/
def Work.tables (w : Work) (b : Book) : List TableRec := (List.range (w.tableCount b)).filterMap (fun n => w.table b n)

/-- COPY_BYTES of a tier (R296). -/
def TableRec.copyBytes (t : TableRec) (tier : Nat) : Nat :=
  let st := if t.train then 2 else 0
  match tier with
  | 0 => roundUp (2 * t.len + st) 32
  | 1 => roundUp (t.len + t.len / 32 + st) 32
  | _ => roundUp (t.len / 2 + t.len / 32 + st) 32

/-- Context ranges of a TRAIN table's committed state: directory, pools and re-tier list (R308). -/
def TableRec.ranges (t : TableRec) : List (Nat × Nat) :=
  (t.dir, 16 * t.rows) ::
  (t.retier, 16 + 8 * t.retierCap) ::
  (List.range 3).map (fun k => (t.pools.getD k 0, 2 * t.pairs.getD k 0 * t.copyBytes k))

/-- Context ranges of every TRAIN table of a context's loaded Rulebooks. -/
def Work.trainRanges (w : Work) (c : Nat) : List (Nat × Nat) :=
  (List.range 4).flatMap (fun h =>
    match (w.s.ctx c).book h with
    | none => []
    | some b => ((w.tables b).filter (·.train)).flatMap (·.ranges))

/-! ### Pages (R352, R456, R460, R473, R578) -/

/-- A MiB, and the allocatable space of a stack in MiB (R456). -/
def mib : Nat := 0x100000
def stackMib : Nat := 64512

/-- One twelfth of SPREAD_QUOTA, rounded up to a whole MiB (R456). -/
def spreadShare (mibs : Nat) : Nat := (mibs + 11) / 12

/-- QUOTA of a stack, in MiB. -/
def Ctx.quotaOf (x : Ctx) (s : Nat) : Nat := x.quota.get 0 s

/-- What open contexts have reserved in a stack, in MiB (R456). -/
def reservedMib (st : State) (s : Nat) : Nat :=
  ((List.range 16).map (fun c =>
    let x := st.ctx c
    if x.st = .closed then 0 else x.quotaOf s + spreadShare x.spreadMib)).sum

/-- Free space of a stack in MiB (R456). -/
def freeMib (st : State) (s : Nat) : Nat := stackMib - reservedMib st s

/-- Bytes of a context's pages in a stack that a test on their use admits. -/
def Ctx.taken (x : Ctx) (s : Nat) (f : Use → Bool) : Nat :=
  ((x.allocs.filter (fun g => decide (g.addr / 0x1000000000 = s) && f g.use)).map (·.bytes)).sum

/-- Bytes left of a context's quota in a stack (R460). -/
def Ctx.left (x : Ctx) (s : Nat) : Nat := x.quotaOf s * mib - x.taken s (fun _ => true)

/-- Rulebook-store copies, segment-table pages and save-area pages (R578). -/
def Use.fixed : Use → Bool
  | .root => true
  | .leaf _ => true
  | .store _ _ => true
  | .save => true
  | _ => false

/-- The room of a stack (R578). -/
def Ctx.room (x : Ctx) (s : Nat) : Nat := x.quotaOf s * mib - x.taken s Use.fixed

/-- The granule rows of a stack that a run of spread granules covers: (stack offset, bytes) (R324). -/
def spreadPart (off bytes s : Nat) : Nat × Nat :=
  let g0 := off / 4096
  let g1 := (off + bytes) / 4096
  let first := (g0 + 11 - s) / 12
  let last := (g1 + 11 - s) / 12
  (first * 4096, (last - first) * 4096)

/-- Stack offsets taken in a stack by every context: (offset, bytes). -/
def occupied (st : State) (s : Nat) : List (Nat × Nat) :=
  (List.range 16).flatMap (fun c =>
    let x := st.ctx c
    ((x.allocs.filter (fun g => decide (g.addr / 0x1000000000 = s))).map (fun g => (g.addr % 0x1000000000, g.bytes))) ++
    (x.spread.map (fun g => spreadPart g.off g.bytes s)))

/-- A run of bytes meets none of the taken ranges. -/
def clearOf (occ : List (Nat × Nat)) (lo n : Nat) : Bool :=
  occ.all (fun r => decide (r.2 = 0) || decide (lo + n ≤ r.1) || decide (r.1 + r.2 ≤ lo))

/-- The lowest of a list. -/
def lowest : List Nat → Option Nat
  | [] => none
  | x :: xs => match lowest xs with | none => some x | some y => some (Nat.min x y)

/-- The lowest free run of `n` bytes of a stack's allocatable space: which pages firmware takes is the model's choice
(log entry 10). -/
def findRun (st : State) (s n : Nat) : Option Nat :=
  let occ := occupied st s
  lowest ((0 :: occ.map (fun r => r.1 + r.2)).filter (fun lo => decide (lo + n ≤ reserveOff) && clearOf occ lo n))

/-- The lowest free run of `n` bytes of the spread window (log entry 10). -/
def findSpread (st : State) (n : Nat) : Option Nat :=
  let cands := 0 :: (List.range 12).flatMap (fun s => (occupied st s).map (fun r => (r.1 + r.2) / 4096 * 12 * 4096))
  lowest (cands.filter (fun o =>
    decide (o + n ≤ spreadEnd - spreadBase) &&
    (List.range 12).all (fun s => let p := spreadPart o n s; p.2 = 0 || clearOf (occupied st s) p.1 p.2)))

/-- Pages of a stack go to a context, zeroed (R460); none when no run is free. -/
def Work.takePages (w : Work) (c s n : Nat) (u : Use) : Option (Nat × Work) :=
  match findRun w.s s n with
  | none => none
  | some off =>
    let a := stackBase s + off
    let x := w.s.ctx c
    some (a, (w.setCtx c { x with allocs := x.allocs ++ [{ addr := a, bytes := n, use := u }] }).zero a n)

/-- The pages of a use go back to the quota. -/
def Work.freePages (w : Work) (c : Nat) (f : Use → Bool) : Work :=
  w.modCtx c (fun x => { x with allocs := x.allocs.filter (fun g => !f g.use) })

/-- The context's table stack (R352). -/
def Ctx.tableStack (x : Ctx) : Nat := ((List.range 12).find? (fun s => decide (0 < x.quotaOf s))).getD 12

/-! ### The loader (R40, R145, R578, R579) -/

/-- Move classes that a chapter defines; every other value is reserved (R42, R133, R155, R181, R207, R266, R303). -/
def definedClass (k : Nat) : Bool :=
  decide (k ≤ 0x08) || (decide (0x10 ≤ k) && decide (k ≤ 0x14)) || (decide (0x18 ≤ k) && decide (k ≤ 0x1D)) ||
  (decide (0x20 ≤ k) && decide (k ≤ 0x23)) || (decide (0x2C ≤ k) && decide (k ≤ 0x32)) || k = 0x38 || k = 0x39

/-- Section types that R37 defines. -/
def definedSect (t : Nat) : Bool := (decide (1 ≤ t) && decide (t ≤ 5)) || (decide (0x10 ≤ t) && decide (t ≤ 0x16))

/-- Two byte ranges do not meet. -/
def apart (a n b m : Nat) : Bool := decide (n = 0) || decide (m = 0) || decide (a + n ≤ b) || decide (b + m ≤ a)

/-- No two elements of a list are in a relation. -/
def pairwise {α : Type} (f : α → α → Bool) : List α → Bool
  | [] => true
  | x :: xs => xs.all (f x) && pairwise f xs

/-- Check 6: the directory and the sections (R37, R40). -/
def sectionsOk (size n dir : Nat) (es : List Sect) : Bool :=
  decide (1 ≤ n) && decide (n ≤ 64) && decide (dir % 16 = 0) && decide (256 ≤ dir) && decide (dir + 16 * n ≤ size - 128) &&
  es.all (fun e =>
    definedSect e.type && decide (e.off % 16 = 0) && decide (e.off + e.size ≤ size) && apart e.off e.size 0 256 &&
    apart e.off e.size dir (16 * n) && apart e.off e.size (size - 128) 128) &&
  pairwise (fun a b => apart a.off a.size b.off b.size && (decide (a.type ≠ b.type) || (a.type = 1 && decide (a.index ≠ b.index)))) es

/-- Check 7: tiles, regions and streams (R40). -/
def shapeOk (regions tiles mask : Nat) (es : List Sect) : Bool :=
  decide (tiles ≤ 11 * regions) && decide (mask / 2 ^ regions = 0) &&
  (List.range tiles).all (fun t => es.any (fun e => e.type = 1 && e.index = t)) &&
  es.all (fun e => decide (e.type ≠ 1) || decide (e.index < tiles))

/-- One tile's footprints keep R145. -/
def Foot.ok (f : Foot) : Bool :=
  decide (f.near % 1024 = 0) && decide (f.staging % 1024 = 0) && decide (f.deep % 0x10000 = 0) &&
  decide (f.cache % 0x20000 = 0) && decide (f.near + f.staging ≤ 0x600000) && decide (f.deep ≤ 0x8000000) &&
  decide (f.cache ≤ 0x200000)

/-- Check 9: footprints are there and fit (R40, R145, R578). `x` already holds both copies. -/
def Work.footprintsOk (w : Work) (x : Ctx) (b : Book) : Bool :=
  let tiles := w.tileCount b
  let regions := setBits 12 (w.regionMask b)
  match w.sect b 2, w.sect b 3 with
  | some tf, some rf =>
    decide (16 * tiles ≤ tf.size) && regions.all (fun k => decide (16 * k + 16 ≤ rf.size)) &&
    (List.range tiles).all (fun t => (w.foot b t).ok) &&
    regions.all (fun k =>
      let s := ctxRegion x k
      decide (w.bookLe b (rf.off + 16 * k) 8 + x.taken s Use.fixed ≤ (x.quotaOf s + spreadShare x.spreadMib) * mib))
  | _, _ => false

/-- A reservation entry (R579). -/
structure Reserve where
  kind : Nat
  index : Nat
  out : Nat
  inn : Nat
deriving DecidableEq, Repr

/-- The capacity of a resource and whether both directions share it; none where R579 does not admit it. -/
def capacity (regions kind index : Nat) : Option (Nat × Bool) :=
  match kind with
  | 0 => if index < regions then some (2048000, true) else none
  | 1 => if index < 4 then some (400000, false) else none
  | 2 => if index = 4 ∨ index = 5 then some (200000, false) else none
  | 3 => if index < 4 then some (256000, false) else none
  | _ => none

/-- Check 10: reservations (R579). -/
def Work.reservationsOk (w : Work) (x : Ctx) (b : Book) : Bool :=
  match w.sect b 4 with
  | none => true
  | some e =>
    let n := w.bookLe b e.off 2
    let es := (List.range n).map (fun i =>
      let f := fun o k => w.bookLe b (e.off + 16 + 16 * i + o) k
      ({ kind := f 0 1, index := f 1 1, out := f 4 4, inn := f 8 4 } : Reserve))
    es.all (fun r =>
      match capacity (regionCount x) r.kind r.index with
      | none => false
      | some (cap, both) =>
        let same := es.filter (fun q => q.kind = r.kind && q.index = r.index)
        let o := (same.map (·.out)).sum
        let i := (same.map (·.inn)).sum
        if both then decide (o + i ≤ cap) else decide (o ≤ cap) && decide (i ≤ cap))

/-- Check 11 on one stream: classes, the one SEQ_END at the end, and loops. `open_` holds the ends of the bodies that
enclose move `i`, innermost first. -/
def movesOk (last : Nat) : Nat → List Nat → List Nat → Bool
  | _, [], _ => true
  | i, m :: ms, open_ =>
    let open_ := open_.filter (fun e => decide (i < e))
    let k := m % 64
    definedClass k && (decide (k = 1) == decide (i = last)) &&
    (if k = 2 then
      let stop := i + 1 + bits m 93 82
      decide (stop ≤ last + 1) && open_.all (fun e => decide (stop ≤ e)) && decide (open_.length < 2) &&
        movesOk last (i + 1) ms (stop :: open_)
    else movesOk last (i + 1) ms open_)

/-- The moves of a stream. -/
def Work.moves (w : Work) (b : Book) (e : Sect) : List Nat :=
  (List.range (e.size / 16)).map (fun i => w.bookLe b (e.off + 16 * i) 16)

/-- Check 11: every stream's moves (R37, R40). -/
def Work.streamsOk (w : Work) (b : Book) : Bool :=
  ((w.sections b).filter (fun e => e.type = 1)).all (fun e =>
    decide (e.size % 16 = 0) && decide (16 ≤ e.size) && decide (e.size / 16 ≤ 4194304) &&
    movesOk (e.size / 16 - 1) 0 (w.moves b e) [])

/-- Checks 4–11 on the copy, in order: the status and reason of the first that fails (R40). `x` holds both copies. -/
def Work.loaderChecks (w : Work) (x : Ctx) (b : Book) : Option (Nat × Nat) :=
  let img := w.bookBytes b 0 b.bytes
  let key := w.s.flash.keySlots.get [] (w.bookLe b 0x0C 1)
  let es := w.sections b
  let n := w.bookLe b 0x12 2
  if key = [] ∨ ¬ verifyBlock key (img.drop (b.bytes - 128)) (img.take (b.bytes - 128)) then some (stAuth, 0)
  else if bit (w.bookLe b 0x06 2) 0 ≠ x.compat then some (stRefusedBook, 3)
  else if ¬ sectionsOk b.bytes n (w.bookLe b 0x14 4) es then some (stRefusedBook, 4)
  else if ¬ shapeOk (regionCount x) (w.tileCount b) (w.bookLe b 0x0E 2) es then some (stRefusedBook, 5)
  else if w.bookLe b 0x10 2 < 10 then some (stRefusedBook, 9)
  else if ¬ w.footprintsOk x b then some (stRefusedBook, 6)
  else if ¬ w.reservationsOk x b then some (stRefusedBook, 7)
  else if ¬ w.streamsOk b then some (stRefusedBook, 8)
  else none

/-- The stacks of the two copies: the largest room, then the next largest, ties to the lower number (R578). -/
def copyStacks (x : Ctx) : Nat × Nat :=
  let best := fun (ss : List Nat) =>
    ss.foldl (fun (acc : Option Nat) s =>
      match acc with
      | none => some s
      | some b => if x.room b < x.room s then some s else some b) none
  let s0 := (best (List.range 12)).getD 0
  let s1 := (best ((List.range 12).filter (fun s => s ≠ s0))).getD 0
  (s0, s1)

/-- The context address of a Rulebook store (R461). -/
def storeAddr (h : Nat) : Nat := 0xFFFC00000000 + h * 0x100000000

end Sys2Proof.Machine
end

