-- ==== Sys2Proof/Machine/Flags.lean ====
section
/-! DEFINITION. Error and health flags: suspect units, retirement and the tile map (chapters 01 and 16, R14–R23,
R483–R487), errors of HBM and of the tile stores (R166–R170, R330–R337), lost regions (R22), and what every move does
with the errors it meets. -/

namespace Sys2Proof.Machine

/-! ### Where units are (R10–R14) -/

/-- The region of a mesh number (R10, R11). -/
def regionOfMesh (p : Nat) : Nat :=
  let mx := p % 12
  let my := p / 12
  3 * (mx / 6 + 2 * (my / 6)) + mx % 6 / 2

/-- The physical index within its region of a mesh number (R12). -/
def indexOfMesh (p : Nat) : Nat := p / 12 % 6 * 2 + p % 12 % 2

/-- The region that a tracked unit belongs to. -/
def UnitId.region : UnitId → Nat
  | .tile p => regionOfMesh p
  | .spinner r => r
  | .update r => r

/-- The source of a unit's records (R505). -/
def UnitId.source : UnitId → Nat
  | .tile p => srcTile p
  | .spinner r => srcRegion r
  | .update r => srcRegion r

/-- How EV_UNIT_SUSPECT names a unit (R516). -/
def UnitId.kind : UnitId → Nat
  | .tile _ => 0
  | .spinner _ => 1
  | .update _ => 2

/-- The unit is retired, or a tile that failed at manufacture (R14, R23). -/
def isRetired (s : State) (u : UnitId) : Bool :=
  s.flash.retired.contains u || (match u with | .tile p => s.flash.failed.contains p | _ => false)

/-- The suspect entry of a unit. -/
def suspectOf (s : State) (u : UnitId) : Option Suspect := s.flash.suspects.find? (fun x => x.unit = u)

/-- The unit is SUSPECT (R483). -/
def isSuspect (s : State) (u : UnitId) : Bool := (suspectOf s u).isSome

/-- The factory spare of a region: physical index 11, or the highest index that passed the production test (R14). -/
def factorySpare (s : State) (r : Nat) : Nat :=
  (((List.range 12).reverse).find? (fun i => !s.flash.failed.contains (meshOf r i))).getD 11

/-- A physical index of a region survives. -/
def survives (s : State) (r i : Nat) : Bool := !isRetired s (.tile (meshOf r i))

/-- Mesh hops between two mesh numbers (R10). -/
def hops (p q : Nat) : Nat :=
  (Nat.max (p % 12) (q % 12) - Nat.min (p % 12) (q % 12)) + (Nat.max (p / 12) (q / 12) - Nat.min (p / 12) (q / 12))

/-- How many logical tiles a physical index hosts. -/
def hosted (map : List Nat) (i : Nat) : Nat := (map.filter (fun x => x = i)).length

/-! ### Lost regions (R22, R492, R493) -/

/-- JOB_SHAPE of a context's running Rulebook (R36), (1, 1, 1) where none is loaded. -/
def Work.shapeOf (w : Work) (c : Nat) : Xyz :=
  let x := w.s.ctx c
  let b := match x.running with | some b => some b | none => (List.range 4).findSome? (fun h => x.book h)
  match b with
  | none => { x := 1, y := 1, z := 1 }
  | some b => { x := w.bookLe b 0x18 1, y := w.bookLe b 0x19 1, z := w.bookLe b 0x1A 1 }

/-- The context's job is of one package: it has no buddy and is never re-homed (R286, R457, R493). -/
def Work.solo (w : Work) (c : Nat) : Bool :=
  (w.s.ctx c).job = 0xFFFF || decide (w.shapeOf c = { x := 1, y := 1, z := 1 })

/-- The package can no longer serve its role: it tells the Banker, and contexts of one-package jobs that `hit` selects
stop with FAULT_REHOME (R492, R493). -/
def Work.packageLost (w : Work) (cause : Nat) (hit : Ctx → Bool) : Work :=
  let w := if w.s.form.form = 2 then w.send (.closing (.lost w.s.here cause w.s.here)) else w
  w.each (List.range 16) (fun w c =>
    if hit (w.s.ctx c) ∧ w.solo c then w.faultStop c stRehome 0 else w)

/-- REGION_LOST is set (R22): cause 0 tiles, 1 stack, 2 engine host. -/
def Work.regionLost (w : Work) (r cause : Nat) : Work :=
  if (w.s.region r).lost then w
  else
    let w := w.modRegion r (fun g => { g with lost := true })
    let w := w.record 0x2005 5 (srcRegion r) cause 0 0
    w.packageLost 1 (fun x => bit x.mask r)

/-! ### Placing logical tiles (R18–R22) -/

/-- The surviving tile of the region nearest to physical index `i` that hosts one logical tile (R19). -/
def nearestSingle (s : State) (r : Nat) (map : List Nat) (i : Nat) : Option Nat :=
  let cands := (List.range 12).filter (fun j => survives s r j && decide (hosted map j = 1))
  cands.foldl (fun (best : Option Nat) j =>
    match best with
    | none => some j
    | some b => if hops (meshOf r i) (meshOf r j) < hops (meshOf r i) (meshOf r b) then some j else some b) none

/-- One logical index of region `r` leaves its retired host (R18–R20). An unused factory spare that is itself retired hosts
nothing: SPARE_USED stays 0, and the index goes to the nearest single tile (DESIGN CHOICE, log entry 31: R18 is silent on a
retired spare). -/
def Work.placeIndex (w : Work) (r k : Nat) : Work :=
  let g := w.s.region r
  let i := g.map.getD k 0
  if survives w.s r i then w
  else if ¬ g.spareUsed ∧ survives w.s r g.spare ∧ hosted g.map g.spare = 0 then
    w.setRegion r { g with map := g.map.set k g.spare, spareUsed := true }
  else
    match nearestSingle w.s r g.map i with
    | some j => w.setRegion r { g with map := g.map.set k j }
    | none => w.regionLost r 0

/-- A logical tile has a new host: its stores read as zero and its ONCE bits are clear (R160, R162). -/
def Work.moved (w : Work) (n : Nat) : Work :=
  let w := (w.zero (tileAddr n 0) 0x600000).zero (tileAddr n deepBase) 0x8000000
  w.modTile n (fun t => { t with once := 0, onceNext := 0, pages := [], bad := [] })

/-- Every logical tile of a region whose host is retired is placed, in ascending logical id (R21), and the region is lost
with fewer than 6 surviving tiles (R22). -/
def Work.placeRegion (w : Work) (r : Nat) : Work :=
  let before := (w.s.region r).map
  let w := w.each (List.range 11) (fun w k => w.placeIndex r k)
  let after := (w.s.region r).map
  let w := w.each ((List.range 11).filter (fun k => decide (before.getD k 0 ≠ after.getD k 0)))
    (fun w k => w.moved (11 * r + k))
  if ((List.range 12).filter (fun i => survives w.s r i)).length < 6 then w.regionLost r 0 else w

/-! ### Engines (R487) -/

/-- The host region of a region's engines (R487). -/
def hostRegion (r : Nat) : Nat := 3 * (r / 3) + (r + 1) % 3

/-- The Spinner (`spn`) or update unit of region `r` that another region's unit serves. -/
def engineHost (g : Region) (spn : Bool) : Option Nat := if spn then g.spnHost else g.updHost

/-- The engine of a region, as a tracked unit. -/
def engineOf (spn : Bool) (r : Nat) : UnitId := if spn then .spinner r else .update r

/-- A retired engine's region gets its host, or is lost (R487); `say`: the new host is recorded, as it is not when a boot
applies the retirement list again (R23, R516). -/
def Work.placeEngine (w : Work) (spn : Bool) (r : Nat) (say : Bool) : Work :=
  let guests := (List.range 12).filter (fun q => decide (q ≠ r) && engineHost (w.s.region q) spn = some r)
  let w := w.each guests (fun w q => w.regionLost q 2)
  let h := hostRegion r
  let busy := (List.range 12).any (fun q => decide (q ≠ r) && engineHost (w.s.region q) spn = some h)
  if isRetired w.s (engineOf spn h) ∨ busy then w.regionLost r 2
  else
    let w := w.modRegion r (fun g => if spn then { g with spnHost := some h } else { g with updHost := some h })
    if say then w.record 0x2006 3 (srcRegion r) (if spn then 0 else 1) h 0 else w

/-! ### Retirement (R17, R23, R483, R486) -/

/-- The logical tiles a physical tile hosts, as EV_TILE_RETIRED packs them: bits [7:0] and [15:8], 0xFF none (log
entry 14). -/
def hostedParam (s : State) (p : Nat) : Nat :=
  let r := regionOfMesh p
  let ks := (List.range 11).filter (fun k => decide ((s.region r).map.getD k 12 = indexOfMesh p))
  let f := fun i => match ks[i]? with | some k => 11 * r + k | none => 0xFF
  f 0 + f 1 * 2 ^ 8

/-- Retirements take effect together (R17–R23). -/
def Work.retireNow (w : Work) (us : List UnitId) : Work :=
  let us := us.filter (fun u => !isRetired w.s u)
  let w := w.each us (fun w u =>
    match u with
    | .tile p => w.record 0x1009 5 (srcTile p) (indexOfMesh p + 16 * regionOfMesh p) (hostedParam w.s p) 0
    | _ => w)
  let w := { w with
    s.flash.retired := w.s.flash.retired ++ us
    s.flash.suspects := w.s.flash.suspects.filter (fun x => !us.contains x.unit)
    s.retiring := w.s.retiring.filter (fun u => !us.contains u) }
  let w := w.each ((List.range 12).filter (fun r => us.any (fun u => match u with | .tile p => regionOfMesh p = r | _ => false)))
    (fun w r => w.placeRegion r)
  w.each us (fun w u =>
    match u with
    | .tile _ => w
    | .spinner r => w.placeEngine true r true
    | .update r => w.placeEngine false r true)

/-- An open context holds the region in its mask. -/
def regionHeld (s : State) (r : Nat) : Bool :=
  (List.range 16).any (fun c => decide ((s.ctx c).st ≠ .closed) && bit (s.ctx c).mask r)

/-- Retirements of regions that no open context holds take effect at once (R486). -/
def Work.settleRetiring (w : Work) : Work :=
  match w.s.retiring.filter (fun u => !regionHeld w.s u.region) with
  | [] => w
  | us => w.retireNow us

/-- Retirements of a context's regions take effect between two attempts (R17, R486). -/
def Work.retireFor (w : Work) (c : Nat) : Work :=
  let x := w.s.ctx c
  let us := w.s.retiring.filter (fun u =>
    bit x.mask u.region &&
    !(List.range 16).any (fun d => decide (d ≠ c) && bit (w.s.ctx d).mask u.region && (w.s.ctx d).turn.live))
  match us with
  | [] => w
  | us => w.retireNow us

/-- A failure of a tracked unit (R483); `code` is the failure's event code. -/
def Work.unitFailure (w : Work) (u : UnitId) (code : Nat) : Work :=
  if isRetired w.s u then w
  else
    let w := w.modRegion u.region (fun g => { g with fails := satAdd 32 g.fails 1 })
    match suspectOf w.s u with
    | none =>
      let e : Suspect := { unit := u, since := w.s.now, passed := 0 }
      let w := { w with s.flash.suspects := w.s.flash.suspects ++ [e] }
      w.record 0x100A 3 u.source u.kind code 0
    | some _ =>
      if w.s.retiring.contains u then w
      else ({ w with s.retiring := w.s.retiring ++ [u] }).settleRetiring

/-! ### HBM pages (R333–R338) -/

/-- The first spare page of a stack's pool, in pages (R323). -/
def spareFirst : Nat := 0xFFE800

/-- Spare pages of a stack that hold nothing and are not bad, ascending (R335). -/
def freeSpare (s : State) (k : Nat) : Option Nat :=
  let used := (s.flash.hbmPages.filter (fun e => e.stack = k)).map (·.spare)
  (List.range 4096).find? (fun i => !used.contains i && !(s.stack k).badSpares.contains i)

/-- Pages retired in a stack, spare pages among them (R343). -/
def retiredPages (s : State) (k : Nat) : Nat :=
  (s.flash.hbmPages.filter (fun e => e.stack = k)).length + (s.stack k).badSpares.length

/-- The page that an access to a page of a stack belongs to: a spare page in use belongs to the page that it serves, and one
of no use to none (R335). -/
def servedPage (s : State) (k page : Nat) : Option Nat :=
  if page < spareFirst ∨ spareFirst + 4096 ≤ page then some page
  else (s.flash.hbmPages.find? (fun e => e.stack = k && e.spare = page - spareFirst)).map (·.page)

/-- A spare page that serves no page is retired at its own offset: it is never assigned (R335; log entry 32). -/
def Work.loseSpare (w : Work) (k spare : Nat) : Work :=
  w.modStack k (fun g => if g.badSpares.contains spare then g else { g with badSpares := g.badSpares ++ [spare] })

/-- A spare page that served a page of the stack and has failed itself is used no more (R336). -/
def Work.dropSpare (w : Work) (k page : Nat) : Work :=
  match w.s.flash.hbmPages.find? (fun e => e.stack = k && e.page = page) with
  | none => w
  | some e =>
    let w := { w with s.flash.hbmPages := w.s.flash.hbmPages.filter (fun x => x ≠ e) }
    w.modStack k (fun g => { g with badSpares := g.badSpares ++ [e.spare] })

/-- A page goes to the lowest free spare page; with none free the stack is lost (R22, R335, R336). -/
def Work.remapPage (w : Work) (k page : Nat) (ue : Bool) : Work :=
  let w := w.dropSpare k page
  match freeSpare w.s k with
  | none => (w.modStack k (fun g => { g with st := 3 })).regionLost k 1
  | some sp =>
    let e : PageRemap := { stack := k, page := page, spare := sp }
    let w := { w with s.flash.hbmPages := w.s.flash.hbmPages ++ [e] }
    let w := w.modStack k (fun g => { g with remap := g.remap.filter (fun e => e.1 ≠ page) ++ [(page, sp)] })
    w.record 0x3003 3 (srcStack k) page sp (if ue then 0 else 1)

/-- The spread-window address of a byte of a stack (R324). -/
def spreadOf (a : Nat) : Nat :=
  let o := offsetOf a
  spreadBase + (o / 4096 * 12 + stackOf a) * 4096 + o % 4096

/-- The segment indices of the context's leaf pages, ascending (R352). -/
def segIndices (x : Ctx) : List Nat :=
  (sortNat (x.allocs.filterMap (fun g => match g.use with | .leaf i => some i | _ => none))).flatMap (fun i =>
    (List.range 256).map (fun j => 256 * i + j))

/-- Context addresses that map a page, at stack-window address `a` (R337, row F). -/
def Work.mappings (w : Work) (c a : Nat) : List Nat :=
  (segIndices (w.s.ctx c)).filterMap (fun i =>
    let e := w.segEntry c i
    let lim := (e.limitM1 + 1) * 4096
    if ¬ e.valid ∨ ¬ ownSlot w.s e.target then none
    else
      let t := pkgAddr e.target
      let p := if t < spreadBase then a else spreadOf a
      if t ≤ p ∧ p < t + lim then some (i * 2 ^ 32 + (p - t)) else none)

/-- The pages that hold a page of stack space for a context. -/
def Ctx.holds (x : Ctx) (a : Nat) : Bool :=
  x.allocs.any (fun g => decide (g.addr ≤ a) && decide (a < g.addr + g.bytes)) || ownsByte x a

/-- A tensor table of a context: the running Rulebook's, else of the first loaded that has one. -/
def Work.tensors (w : Work) (c : Nat) : Option (Book × TensorHead) :=
  let x := w.s.ctx c
  let hs := x.turn.handle :: List.range 4
  hs.findSome? (fun h => (x.book h).bind (fun b => (w.tensorHead b).map (fun t => (b, t))))

/-- A context address lies in a range. -/
def inRange (a lo n : Nat) : Bool := decide (lo ≤ a) && decide (a < lo + n)

/-- A page zeroed. -/
def Work.zeroPage (w : Work) (a : Nat) : Work := w.zero a 4096

/-- Row F (R337): the page is zero, its mappings are reported and owed by the host; `owe` in an attempt that replays. -/
def Work.lostPage (w : Work) (c a : Nat) (owe : Bool) : Work :=
  let maps := w.mappings c a
  let w := w.zeroPage a
  let w := w.each maps (fun w m => w.recordCtx 0x3004 4 (srcStack (stackOf a)) c (lowBits 32 m) (m / 2 ^ 32) (some c))
  let rs := maps.map (fun m => (m, 4096))
  let w := w.modCtx c (fun x => { x with lost := x.lost ++ rs, owed := if owe then x.owed ++ rs else x.owed })
  w.cause c 4

/-- Reserve bytes of the `j`-th doubled logical tile of a region: near store, then deep store (log entry 15). -/
def doubleBytes : Nat := 0x8600000

/-- Logical indices of a region that share their physical tile with a lower one, ascending: their contents use the
doubles reserve (R69). -/
def doubled (map : List Nat) : List Nat :=
  (List.range 11).filter (fun k => (List.range k).any (fun j => decide (map.getD j 12 = map.getD k 13)))

/-- The logical tile whose paged contents a reserve offset holds, with its tile address (R69; log entry 15). -/
def pagedAt (s : State) (k off : Nat) : Option (Nat × Nat) :=
  let o := off - reserveOff
  match (doubled (s.region k).map)[o / doubleBytes]? with
  | none => none
  | some j =>
    let x := o % doubleBytes
    some (11 * k + j, if x < 0x600000 then x else deepBase + (x - 0x600000))

/-- A lost page's contents come back, or do not (R337); `turn`: a Turn of the context replays. -/
def Work.restorePage (w : Work) (c a : Nat) (turn : Bool) : Work :=
  let x := w.s.ctx c
  let maps := w.mappings c a
  let seg := fun i => maps.any (fun m => decide (m / 2 ^ 32 = i))
  let th := w.tensors c
  let store := x.allocs.findSome? (fun g =>
    match g.use with
    | .store h k => if g.addr ≤ a ∧ a < g.addr + g.bytes then some (h, k, a - g.addr) else none
    | _ => none)
  let rowA := (match th with | some (_, t) => seg t.curSeg | none => false) ||
    (w.trainRanges c).any (fun r => maps.any (fun m => inRange m r.1 r.2))
  let rowB := match th with
    | some (_, t) => maps.any (fun m => inRange m t.mirrorBase t.mirrorBytes || inRange m t.mstageBase t.mstageBytes)
    | none => false
  let rowE := match th with | some (_, t) => seg t.nextSeg | none => false
  if rowA then
    if w.solo c then ((w.lostPage c a false).faultStop c stMemory 3)
    else
      let w := (w.zeroPage a).modCtx c (fun x => { x with turn := { x.turn with awaitCopy := true } })
      w.send (.closing (.mirrorCopy (keyOf x c) (rankOf x)))
  else if rowB then
    let w := w.modCtx c (fun x => { x with mirror := { x.mirror with valid := false, held := [], wanted := true } })
    w.send (.closing (.mirrorCopy (keyOf x c) (rankOf x)))
  else
    match store with
    | some (h, k, o) =>
      match x.book h with
      | some b => w.copy ((if k = 0 then b.copy else b.addr) + o) a 4096
      | none => w.zeroPage a
    | none => if rowE then w.zeroPage a else w.lostPage c a turn

/-- The page at a stack offset is retired and its contents restored (R334–R337). -/
def Work.retirePage (w : Work) (k page : Nat) (ue : Bool) : Work :=
  let a := stackBase k + page * 4096
  let w := w.modStack k (fun g => { g with marked := g.marked.filter (fun m => m.1 ≠ page) })
  let w := w.remapPage k page ue
  if ¬ ue then w
  else if reserveOff ≤ page * 4096 then
    let w := w.zeroPage a
    match pagedAt w.s k (page * 4096) with
    | none => w
    | some (n, _) => w.modTile n (fun t => { t with onceNext := 0, once := 0 })
  else
    w.each ((List.range 16).filter (fun c => decide ((w.s.ctx c).st ≠ .closed) && (w.s.ctx c).holds a))
      (fun w c => w.restorePage c a (w.s.ctx c).turn.started)

/-- Some context is running a Turn: an attempt of it has started and the Turn has neither committed nor stopped. -/
def anyTurn (s : State) : Bool := (List.range 16).any (fun c => (s.ctx c).turn.started)

/-- A context's attempt is under way and uses a page of a stack: it holds the page, or the page is in the doubles reserve of a
region of its mask. -/
def usesPage (s : State) (d k page : Nat) : Bool :=
  (s.ctx d).turn.busy && ((s.ctx d).holds (stackBase k + page * 4096) || (decide (reserveOff ≤ page * 4096) && bit (s.ctx d).mask k))

/-- Marked pages that no attempt of a context other than `c` uses, with the stacks that hold them. -/
def pagesFor (s : State) (c : Nat) (ceToo : Bool) : List (Nat × Nat × Bool) :=
  (List.range 12).flatMap (fun k =>
    ((s.stack k).marked.filter (fun m =>
      (ceToo || m.2) && !(List.range 16).any (fun d => decide (d ≠ c) && usesPage s d k m.1))).map (fun m => (k, m.1, m.2)))

/-- Marked pages are retired at a boundary of context `c` (R334, R491). -/
def Work.retirePages (w : Work) (c : Nat) (ceToo : Bool) : Work :=
  w.each (pagesFor w.s c ceToo) (fun w m => w.retirePage m.1 m.2.1 m.2.2)

/-- A page is marked for retirement (R333, R334). It is retired at once when no context runs a Turn, and for an uncorrectable
error also when no attempt under way uses it. -/
def Work.markPage (w : Work) (k page : Nat) (ue : Bool) : Work :=
  match servedPage w.s k page with
  | none => w.loseSpare k (page - spareFirst)
  | some page =>
    let old := (w.s.stack k).marked
    let ue := ue || old.any (fun m => decide (m.1 = page) && m.2)
    let w := w.modStack k (fun g => { g with marked := old.filter (fun m => m.1 ≠ page) ++ [(page, ue)] })
    if anyTurn w.s && !(ue && (List.range 16).all (fun d => !usesPage w.s d k page)) then w else w.retirePage k page ue

/-- Marked pages are retired when no context runs a Turn any longer (R334). -/
def Work.settlePages (w : Work) : Work :=
  if anyTurn w.s then w
  else
    w.each ((List.range 12).flatMap (fun k => (w.s.stack k).marked.map (fun m => (k, m.1, m.2))))
      (fun w m => w.retirePage m.1 m.2.1 m.2.2)

/-! ### Errors of HBM (R331–R333, R321) -/

/-- The poison bit of an attempt that is prepared and has not its GO yet: it is abandoned before it issues (R334, R337). -/
def Work.poisonReady (w : Work) (c cause : Nat) : Work :=
  let x := w.s.ctx c
  if ¬ x.turn.started ∨ x.turn.phase ≠ 1 ∨ x.turn.poison then w
  else
    (w.setCtx c { x with turn := { x.turn with poison := true, cause := cause } }).send
      (.closing (.poison (keyOf x c) (rankOf x) x.turn.num x.turn.attempt cause))

/-- A page's place is a Rulebook store of the context: its reads go to the other copy, and poison nothing (R338; log entry 32). -/
def Ctx.storesAt (x : Ctx) (a : Nat) : Bool :=
  x.allocs.any (fun g => (match g.use with | .store _ _ => true | _ => false) && decide (g.addr ≤ a) && decide (a < g.addr + g.bytes))

/-- The contexts of a page at a stack offset have their attempts poisoned: those whose allocation holds it, and in the doubles
reserve the one that holds the region, as for a store error of a paged tile (R332, R337). -/
def Work.poisonHolders (w : Work) (k off : Nat) : Work :=
  let a := stackBase k + off / 4096 * 4096
  if reserveOff ≤ off then
    match (w.s.region k).holder with
    | none => w
    | some c =>
      let cause := if off < 0xFFF800000 then 3 else 2
      (w.poison c cause).poisonReady c cause
  else
    w.each (List.range 16) (fun w c =>
      if (w.s.ctx c).holds a ∧ ¬ (w.s.ctx c).storesAt a then (w.poison c 2).poisonReady c 2 else w)

/-- The day of R333 and the second of R321, in ns. -/
def dayNs : Nat := 86400000000000
def secondNs : Nat := 1000000000

/-- The tile error registers of an error found in a word, or in its paged copy (R174). -/
def Work.eccError (w : Work) (p kind word : Nat) (ue scrub paged : Bool) : Work :=
  w.modPh p (fun g =>
    let last := kind % 2 + 2 * b2n ue + (word % 2 ^ 23) * 4 + b2n scrub * 2 ^ 25 + b2n paged * 2 ^ 26
    if ue then { g with eccUe := satAdd 32 g.eccUe 1, eccLast := last }
    else { g with ecc := satAdd 32 g.ecc 1, eccLast := if kind ≤ 1 then last else g.eccLast })

/-- The word of a tile address: near address ÷ 8 or deep offset ÷ 16 (R174). -/
def wordOf (t : Nat) : Nat × Nat := if t < deepBase then (0, t / 8) else (1, (t - deepBase) / 16)

/-- The tile address and size of a word of a store of a kind (R174). -/
def wordAddr (kind word : Nat) : Nat × Nat := if kind = 0 then (word * 8, 8) else (deepBase + word * 16, 16)

/-- A corrected error of a tile's store, row cache or move buffer (R166, R168). -/
def Work.storeCe (w : Work) (n kind word : Nat) (scrub : Bool) : Work :=
  let p := hostMesh w.s n
  (w.eccError p kind word false scrub false).record 0x1006 2 (srcTile p) (n + kind * 2 ^ 8) word 0

/-- A word of a tile's store is lost: it reads as poisoned until it is written, its tile's ONCE bits clear at the next
attempt, and it is zeroed before its GO (R162, R167, R170). -/
def Work.loseWord (w : Work) (n kind word : Nat) : Work :=
  let (t, len) := wordAddr kind word
  let w := w.wrBytesP (tileAddr n t) true (w.rdBytes (tileAddr n t) len)
  w.modTile n (fun t => { t with onceNext := 1, bad := t.bad ++ [wordAddr kind word] })

/-- An uncorrectable error of a tile's store: the record, the counts, the lost word (R162, R167, R170). -/
def Work.storeUe (w : Work) (n kind word move : Nat) (scrub : Bool) : Work :=
  let p := hostMesh w.s n
  ((w.eccError p kind word true scrub false).record 0x1007 4 (srcTile p) (n + kind * 2 ^ 8) word move).loseWord n kind word

/-- An error in the doubles reserve is an error of the stores of the tile whose contents the page held (R332). -/
def Work.pagedError (w : Work) (k off : Nat) (ue : Bool) : Work :=
  match pagedAt w.s k off with
  | none => w
  | some (n, t) =>
    let p := hostMesh w.s n
    let (kind, word) := wordOf t
    let w := w.eccError p kind word ue false true
    if ue then
      (w.record 0x1007 4 (srcTile p) (n + kind * 2 ^ 8) word 0).loseWord n kind word
    else w.record 0x1006 2 (srcTile p) (n + kind * 2 ^ 8) word 0

/-- The source is a function: a host command reads, and no Turn is affected by the error that it meets (R332; log entry 32). -/
def fromHost (src : Nat) : Bool := decide (srcFn 0 ≤ src) && decide (src < srcFn 16)

/-- The stack offset as which an access to a spare page in use counts for the page that it serves (R335). -/
def servedOff (s : State) (k off : Nat) : Option Nat := (servedPage s k (off / 4096)).map (fun p => p * 4096 + off % 4096)

/-- An uncorrectable sector of a stack (R332, R337). -/
def Work.hbmUe (w : Work) (k off src : Nat) : Work :=
  let w := w.record 0x3002 4 (srcStack k) src (off / 32) 0
  let w := w.modStack k (fun g => { g with ue := satAdd 32 g.ue 1, lastErr := off / 32 + 2 ^ 31 })
  let w := match servedOff w.s k off with
    | none => w
    | some o =>
      let w := if reserveOff ≤ o then w.pagedError k o true else w
      if fromHost src then w else w.poisonHolders k o
  w.markPage k (off / 4096) true

/-- A lane's sixteenth corrected error within one second retrains its channel after the next COMMIT (R321). -/
def Work.laneError (w : Work) (k lane : Nat) : Work :=
  let g := w.s.stack k
  let ts := (g.laneTimes.get [] lane).filter (fun t => decide (w.s.now < t + secondNs)) ++ [w.s.now]
  let ch := lane / 64
  if 16 ≤ ts.length then
    let w := w.setStack k { g with
      laneTimes := g.laneTimes.put [] lane [], retrain := insertNat lane g.retrain }
    w.record 0x3005 3 (srcStack k) ch lane 0
  else w.setStack k { g with laneTimes := g.laneTimes.put [] lane ts }

/-- A corrected sector of a stack, written back (R331, R333, R343). -/
def Work.hbmCe (w : Work) (k off lane src : Nat) : Work :=
  let w := w.record 0x3001 2 (srcStack k) src (off / 32) 0
  let g := w.s.stack k
  let page := off / 4096
  let ts := (g.ceTimes.get [] page).filter (fun t => decide (w.s.now < t + dayNs)) ++ [w.s.now]
  let w := w.setStack k
    { g with
      ce := satAdd 32 g.ce 1, lastErr := off / 32, wr := wrapAdd 64 g.wr 32
      ceTimes := g.ceTimes.put [] page (if 4 ≤ ts.length then [] else ts) }
  let w := { w with s.pkgBytes := wrapAdd 64 w.s.pkgBytes 32 }
  let w := match servedOff w.s k off with
    | none => w
    | some o => if reserveOff ≤ o then w.pagedError k o false else w
  let w := w.laneError k lane
  if 4 ≤ ts.length then w.markPage k page false else w

/-! ### Failed checks (R143, R203, R250, R482) -/

/-- A failed check of a unit: record, suspect state, poison (R143, R483). -/
def Work.checkFailed (w : Work) (c : Nat) (u : UnitId) (code p0 p1 p2 : Nat) : Work :=
  let w := w.recordCtx code 4 u.source p0 p1 p2 (some c)
  (w.unitFailure u code).poison c 4

/-- A mismatch of a region's Spinner or update unit: the record names the region, and the unit that serves it fails
(R250, R482, R487). -/
def Work.engineFailed (w : Work) (c : Nat) (spn : Bool) (r code p0 : Nat) : Work :=
  let w := w.recordCtx code 4 (srcRegion r) p0 0 0 (some c)
  (w.unitFailure (engineOf spn ((engineHost (w.s.region r) spn).getD r)) code).poison c 4

/-! ### What a move meets (R57, R166–R168, R331, R332, R351) -/

/-- A walk or translation fault is recorded with the segment index, the requester and the address, and stops the
context (R351); an uncorrectable error of the walk's own read counts and is recorded first (R332). -/
def Work.walkStop (w : Work) (c a src : Nat) (e : WalkErr) : Work :=
  let code := if e = .translation then 0x7003 else 0x7002
  let w := match e with
    | .readError at_ => w.hbmUe (stackOf at_) (offsetOf at_) src
    | _ => w
  (w.recordCtx code 4 src (bits a 47 32) src (lowBits 32 a) (some c)).faultStop c e.status 0

/-- The operand marks a byte at a package address as read with an uncorrectable error, or carried by a flit with one (R332,
R364). -/
def Upset.covers (a : Nat) : Upset → Bool
  | .hbm k off => inHbm a && decide (stackOf a = k) && decide (offsetOf a / 32 = off / 32)
  | .store n kind word =>
    let (t, l) := wordAddr kind word
    decide (kind ≤ 1) && decide (tileAddr n t ≤ a) && decide (a < tileAddr n t + l)
  | .mesh _ _ lo n => decide (lo ≤ a) && decide (a < lo + n)
  | _ => false

/-- A byte reaches its destination poisoned: its word or sector fails, or it was marked before. -/
def Work.bad (w : Work) (u : List Upset) (a : Nat) : Bool := w.rdPoison a 1 || u.any (fun e => e.covers a)

/-- Some byte of a range does. -/
def Work.badRange (w : Work) (u : List Upset) (a n : Nat) : Bool :=
  w.rdPoison a n || u.any (fun e => match e with
    | .hbm k off => inHbm a && (granules a n).any (fun g =>
        decide (stackOf g.1 = k) && decide (offsetOf g.1 / 32 ≤ off / 32) && decide (off / 32 ≤ (offsetOf g.1 + g.2 - 1) / 32))
    | .store m kind word =>
      let (t, l) := wordAddr kind word
      decide (kind ≤ 1) && !apart (tileAddr m t) l a n
    | .mesh _ _ lo k => !apart lo k a n
    | _ => false)

/-- Who a move's reader is: its context, package logical tile, the physical tile that runs it, the move index, and the
source of the unit that runs it (R505). -/
structure Mover where
  c : Nat
  n : Nat
  phys : Nat
  index : Nat
  src : Nat
deriving DecidableEq, Repr

/-- One error that a move meets: records, counts, marks and poison. -/
def Work.meet (w : Work) (m : Mover) : Upset → Work
  | .check unit dup =>
    let w := w.modTile m.n (fun t => { t with flags := t.flags ||| (if dup then 32 else 16) })
    w.checkFailed m.c (.tile m.phys) (if dup then 0x1005 else 0x1004) m.n m.index unit
  | .store n kind word =>
    if 2 ≤ kind then w.storeCe n kind word false else (w.storeUe n kind word m.index false).poison m.c 3
  | .ceStore n kind word => w.storeCe n kind word false
  | .hbm k off => (w.hbmUe k off m.src).poison m.c 2
  | .ceHbm k off lane => w.hbmCe k off lane m.src
  | .walk _ => w
  | .dice lane =>
    w.engineFailed m.c true (m.n / 11) 0x2003 lane
  | .update _ => w
  | .mesh at_ link _ _ =>
    let x := w.s.ctx m.c
    (w.recordCtx 0x100C 4 (srcTile at_) link x.turn.num x.turn.attempt (some m.c)).poison m.c 7
  | .remote _ _ _ => w

/-- Every error a move meets, in the order the command gives them. -/
def Work.meets (w : Work) (m : Mover) (u : List Upset) : Work :=
  u.foldl (fun w e => w.meet m e) w

/-- The walk read of the command that meets an uncorrectable error: that of a segment entry where true. -/
def walkError (u : List Upset) : Option Bool := u.findSome? (fun e => match e with | .walk leaf => some leaf | _ => none)

/-- An error a host command meets while it reads: counts and marks, no poison of its own (R332) but for a flit on the mesh,
which poisons the running attempt of its context (R364). -/
def Work.meetHost (w : Work) (src : Nat) : Upset → Work
  | .store n kind word => if 2 ≤ kind then w.storeCe n kind word false else w.storeUe n kind word 0 false
  | .ceStore n kind word => w.storeCe n kind word false
  | .hbm k off => w.hbmUe k off src
  | .ceHbm k off lane => w.hbmCe k off lane src
  | .mesh at_ link _ _ =>
    let w := w.record 0x100C 4 (srcTile at_) link 0 0
    if fromHost src then w.poison (src - srcFn 0) 7 else w
  | _ => w

/-- Every error a host command meets. -/
def Work.meetsHost (w : Work) (src : Nat) (u : List Upset) : Work :=
  u.foldl (fun w e => w.meetHost src e) w

end Sys2Proof.Machine
end

