-- ==== Sys2Proof/Machine/Power.lean ====
section
/-! DEFINITION. Region power states, clocks and limits (R65–R67, R531–R541, R558) and the commands that carry them:
entry and wake completions, demand wakes, the voltage, current, power and thermal samples. -/

namespace Sys2Proof.Machine

/-- STATE of a power state (R46). -/
def Pwr.num : Pwr → Nat
  | .run => 0
  | .nap => 1
  | .sleep => 2
  | .off => 3

/-! ### Trace entries (R526–R528) -/

/-- The context's trace covers an event of a kind on a package logical tile. -/
def traces (s : State) (c n kind index : Nat) : Bool :=
  match s.traceDesc.get none c with
  | none => false
  | some d =>
    let x := s.ctx c
    let t := ctxTile x n
    let e := x.turn.num
    bit d.kinds kind && decide (d.firstTile ≤ t) && decide (t < d.firstTile + d.tileCount) &&
    (decide (2 < kind) || decide (index % 2 ^ d.sample = 0)) && decide (d.firstTurn ≤ e) &&
    (decide (d.turns = 0) || decide (e < d.firstTurn + d.turns))

/-- The iteration numbers of the enclosing loops: inner [15:0], outer [31:16] (R48, R527). -/
def iterOf (t : Tile) : Nat :=
  match t.loops with
  | [] => 0
  | [a] => lowBits 16 a.iter
  | a :: b :: _ => lowBits 16 a.iter + lowBits 16 b.iter * 2 ^ 16

/-- A trace entry (R527). -/
def traceEntry (s : State) (c n kind cls cause peer index : Nat) : List Byte :=
  let x := s.ctx c
  leBytes 8 s.now ++ leBytes 1 kind ++ leBytes 1 cls ++ leBytes 1 cause ++ leBytes 1 peer ++ leBytes 4 index ++
  leBytes 4 (iterOf (s.tile n)) ++ leBytes 1 x.turn.attempt ++ leBytes 3 0 ++ leBytes 4 x.turn.num ++ leBytes 4 0

/-- The descriptor holds issue rather than drop an entry (R526). -/
def traceLossless (s : State) (c : Nat) : Bool :=
  match s.traceDesc.get none c with
  | none => false
  | some d => bit d.mode 1

/-- A tile produces a trace entry: it waits in the tile's queue of 64, or is dropped and counted (R528). -/
def Work.trace (w : Work) (c n kind cls cause peer index : Nat) : Work :=
  if ¬ traces w.s c n kind index then w
  else
    w.modTile n (fun t =>
      if 64 ≤ t.traceq.length ∧ ¬ traceLossless w.s c then { t with traceDropped := t.traceDropped + 1 }
      else { t with traceq := t.traceq ++ [traceEntry w.s c n kind cls cause peer index] })

/-- Each tile of a context's regions traces an event of its own position. -/
def Work.traceTiles (w : Work) (c : Nat) (ts : List Nat) (kind cls : Nat) : Work :=
  w.each ts (fun w n => w.trace c n kind cls 0 0 (w.s.tile n).pos)

/-- GO, REPLAY or COMMIT as a context's tiles see it (R527): 0, 1, 2. -/
def Work.traceAttempt (w : Work) (c cls : Nat) : Work := w.traceTiles c (ctxTiles (w.s.ctx c)) 5 cls

/-- A change of a region's state as its tiles trace it (R527), in the context that holds it. -/
def Work.tracePower (w : Work) (r : Nat) : Work :=
  match (w.s.region r).holder with
  | none => w
  | some c => w.traceTiles c ((List.range 11).map (fun k => 11 * r + k)) 4 (w.s.region r).pwr.num

/-! ### Region states (R65, R66, R531, R532) -/

/-- The power state of a STATE value. -/
def Pwr.ofNum : Nat → Pwr
  | 0 => .run
  | 1 => .nap
  | 2 => .sleep
  | _ => .off

/-- The deeper state is the larger one. -/
def Pwr.deeper (a b : Pwr) : Bool := decide (b.num < a.num)

/-- Wake times in ns (R66, R531). -/
def wakeNs (src dst : Pwr) : Nat :=
  match src, dst with
  | .nap, .run => 200
  | .sleep, .run => 12000
  | .off, .run => 60000
  | .off, .sleep => 48000
  | .off, .nap => 60000
  | .sleep, .nap => 12000
  | _, _ => 0

/-- The region issues moves: it runs, with no request, entry or wake under way and no issue withheld (R65, R535). -/
def Region.runs? (g : Region) : Bool :=
  g.pwr = .run && g.want.isNone && g.entering.isNone && g.waking.isNone && !g.issueHeld

/-- A move issued by one of the region's tiles has not completed (R65). -/
def regionBusy (s : State) (r : Nat) : Bool := (List.range 11).any (fun k => !(s.tile (11 * r + k)).flights.isEmpty)

/-- The clock that every limit allows a region (R538). -/
def allowedMhz (s : State) (g : Region) : Nat := Nat.min 1800 (Nat.min g.thermMhz (Nat.min s.power.capMhz s.power.curMhz))

/-- A requested lower state takes effect once no issued move is left (R65). -/
def Work.tryEntry (w : Work) (r : Nat) : Work :=
  let g := w.s.region r
  match g.want with
  | some t => if g.pwr = .run ∧ g.waking.isNone ∧ ¬ regionBusy w.s r then w.setRegion r { g with want := none, entering := some t } else w
  | none => w

/-- A wake is counted where it was requested (R531, R558). -/
def Region.countWake (g : Region) (demand : Bool) : Region :=
  if demand then { g with demand := satAdd 32 g.demand 1 } else { g with wakes := satAdd 32 g.wakes 1 }

/-- A wake to run (R66, R531). -/
def Work.wakeRegion (w : Work) (r : Nat) (demand : Bool) (ramp : Nat) : Work :=
  let g := w.s.region r
  let g' := { g.countWake demand with ramp := ramp }
  if g.waking = some .run ∨ g.wakeNext = some .run then w
  else if g.entering.isSome ∨ g.waking.isSome then w.setRegion r { g' with wakeNext := some .run, nextDemand := demand }
  else if g.pwr = .run then (if g.want.isSome then w.setRegion r { g' with want := none } else w)
  else w.setRegion r { g' with waking := some .run, lead := wakeNs g.pwr .run }

/-- A request for a state below run: a lower state, or a partial wake to a shallower one (R65, R531). -/
def Work.lowerRegion (w : Work) (r : Nat) (t : Pwr) : Work :=
  let g := w.s.region r
  if g.entering = some t then w
  else if g.waking = some .run ∨ g.wakeNext = some .run then
    (if g.pwr.deeper t then w else w.setRegion r { g with want := some t })
  else
    match g.entering, g.waking with
    | some e, _ =>
      if e.deeper t then w.setRegion r { g.countWake false with wakeNext := some t }
      else w.setRegion r { g with wakeNext := some t }
    | none, some p => if t = p then w else w.setRegion r { g with wakeNext := some t }
    | none, none =>
      if g.pwr = .run then (w.setRegion r { g with want := some t }).tryEntry r
      else if t = g.pwr then w
      else if g.pwr.deeper t then w.setRegion r { g.countWake false with waking := some t, lead := wakeNs g.pwr t }
      else w.setRegion r { g with entering := some t }

/-- A power request for a region: a SEQ_POWER's, or the resting state of R532. -/
def Work.powerRequest (w : Work) (r : Nat) (t : Pwr) (ramp : Nat) : Work :=
  if t = .run then w.wakeRegion r false ramp else w.lowerRegion r t

/-- What a request that waited for an entry or a partial wake does when that ends. It was counted when it came. -/
def Work.nextRequest (w : Work) (r : Nat) : Work :=
  let g := w.s.region r
  match g.wakeNext with
  | none => w
  | some t =>
    let w := w.setRegion r { g with wakeNext := none, nextDemand := false }
    let g := w.s.region r
    if t = g.pwr then w
    else if g.pwr.deeper t then w.setRegion r { g with waking := some t, lead := wakeNs g.pwr t }
    else w.setRegion r { g with entering := some t }

/-- A region that no open context holds rests in IDLE_STATE (R532). -/
def Work.restRegion (w : Work) (r : Nat) : Work := if regionHeld w.s r then w else w.lowerRegion r w.s.power.idle

/-- Every resting region goes to IDLE_STATE (R532). -/
def Work.restAll (w : Work) : Work := w.each (List.range 12) (fun w r => w.restRegion r)

/-- The row caches of a region's tiles lose every line and count (R164, R172). -/
def Work.rcLost (w : Work) (r : Nat) : Work := w.each (List.range 12) (fun w i => w.modPh (meshOf r i) (fun p => { p with rc := [] }))

/-- REGION_ENTRY_DONE (R531): the region has entered the state; in off its row caches lose every line (R172). -/
def execRegionEntryDone (region : Nat) (s : State) : Host.Outcome State Fault Refusal :=
  run s (fun w =>
    let g := s.region region
    match g.entering with
    | none => w
    | some t =>
      let down := if g.pwr = .sleep ∨ g.pwr = .off then g.downSince else s.now
      let w := w.setRegion region { g with pwr := t, entering := none, mhz := 0, pendMhz := none, downSince := down }
      ((if t = .off then w.rcLost region else w).tracePower region).nextRequest region)

/-- The voltage that VCORE holds serves the highest region clock in use (R534). -/
def Work.settleVolt (w : Work) : Work :=
  let top := ((List.range 12).map (fun r => (w.s.region r).mhz)).foldl Nat.max 600
  { w with s.power.vcoreMhz := top }

/-- A region's clock takes one step of 50 MHz towards what the limits allow; a rise waits for the voltage
(R534, R535). -/
def Work.reclock (w : Work) (r : Nat) : Work :=
  let g := w.s.region r
  let top := allowedMhz w.s g
  if g.pwr ≠ .run ∨ g.mhz = 0 ∨ w.s.now < g.lastStep + 10000 then w
  else if top < g.mhz then
    (w.setRegion r { g with mhz := Nat.max 600 (g.mhz - 50), pendMhz := none, lastStep := w.s.now }).settleVolt
  else if g.mhz < top ∧ g.pendMhz.isNone then
    let m := g.mhz + 50
    if m ≤ w.s.power.vcoreMhz then w.setRegion r { g with mhz := m, lastStep := w.s.now }
    else w.setRegion r { g with pendMhz := some m }
  else w

/-- A woken region's clock ramps from stopped to the clock the limits allow over RAMP × 50 ns. Where another region's ramp is
under way, the limiter lengthens the ramp and delays issue by a time that the spec does not give: a free value (R67; log
entry 38). -/
def Work.startRamp (w : Work) (r : Nat) : Work :=
  let others := (List.range 12).any (fun q => decide (q ≠ r) && decide (w.s.now < (w.s.region q).rampEnd))
  let (v, w) := if others then w.draw else (0, w)
  w.modRegion r (fun g =>
    { g with rampFrom := w.s.now, rampEnd := w.s.now + g.ramp * 50 + v, holdUntil := if others then w.s.now + v else 0 })

/-- The region's clock as it is read (R67, R558): during a ramp a part of it that grows with time (log entry 38). -/
def Region.clock (g : Region) (now : Nat) : Nat :=
  if now < g.rampEnd then g.mhz * (now - g.rampFrom) / (g.rampEnd - g.rampFrom) else g.mhz

/-- PARTIAL_WAKE_DONE (R531): the region has reached the shallower state. -/
def execPartialWakeDone (region : Nat) (s : State) : Host.Outcome State Fault Refusal :=
  run s (fun w =>
    let g := s.region region
    match g.waking with
    | some .run => w
    | none => w
    | some t => ((w.setRegion region { g with pwr := t, waking := none, lead := 0 }).tracePower region).nextRequest region)

/-- VOLTAGE_SETTLED (R534): the waiting clock step proceeds. -/
def execVoltageSettled (region : Nat) (s : State) : Host.Outcome State Fault Refusal :=
  run s (fun w =>
    let g := s.region region
    match g.pendMhz with
    | none => w
    | some m =>
      let w := w.setRegion region { g with pendMhz := none, mhz := Nat.min m (allowedMhz s g), lastStep := s.now }
      { w with s.power.vcoreMhz := Nat.max s.power.vcoreMhz m })

/-- Regions that run, as a mask. -/
def runMask (s : State) : Nat := ((List.range 12).filter (fun r => (s.region r).pwr = .run)).foldl (fun m r => m + 2 ^ r) 0

/-- A limit that still holds a region at 600 MHz withholds its tiles' issue (R535). -/
def Work.holdIssue (w : Work) (above : Bool) (rs : List Nat) : Work :=
  w.each rs (fun w r =>
    w.modRegion r (fun g => { g with issueHeld := above && g.pwr = .run && decide (g.mhz = 600) }))

/-- Every running region steps towards its allowed clock. -/
def Work.reclockAll (w : Work) : Work := w.each (List.range 12) (fun w r => w.reclock r)

/-- A power trip (R540). -/
def Work.powerTrip (w : Work) : Work :=
  if w.s.power.tripped then w
  else
    let w := w.each (List.range 132) (fun w n => w.modTile n (fun t => { t with stopped := true }))
    let w := w.each (List.range 12) (fun w r =>
      w.modRegion r (fun g =>
        { g with
          pwr := .off, entering := none, waking := none, want := none, wakeNext := none, mhz := 0, pendMhz := none
          downSince := if g.pwr = .sleep ∨ g.pwr = .off then g.downSince else w.s.now }))
    let w := w.each (List.range 12) (fun w r => (w.rcLost r).tracePower r)
    let w := w.each (List.range 12) (fun w k => w.modStack k (fun g => if g.st = 1 then g.rest w.s.now else g))
    let w := w.each (List.range 12) (fun w k => w.setCore k { w.s.core k with released := false, asking := false })
    let w := w.each (List.range 6) (fun w p => w.modPort p (fun q => { q with st := 0, txW := 0, rxW := 0 }))
    { w with
      s.power.tripped := true
      s.pins.thermTrip := true
      s.boot.stage := 7
      s.boot.level := 1
      s.boot.fwReady := false
      s.boot.host := false
      s.boot.compute := false
      s.boot.system := false }

/-- CURRENT_SAMPLE (R536): the averages of VCORE current lower or raise every running region's clock; above 4,600 A for
5 µs the package trips. -/
def execCurrentSample (amps avg10 avg1 : Nat) (over5us : Bool) (mv : Nat) (s : State) : Host.Outcome State Fault Refusal :=
  run s (fun w =>
    let w := { w with s.power.amps := lowBits 13 avg1, s.power.mv := lowBits 11 mv }
    if over5us then (w.record 0x9004 6 srcPackage amps 0 0).powerTrip
    else
      let above := decide (3600 < avg10) || decide (4200 < avg1)
      let p := w.s.power
      let w :=
        if above ∧ p.lastCur + 10000 ≤ s.now then
          { w with s.power.curMhz := Nat.max 600 (p.curMhz - 50), s.power.curActive := true, s.power.lastCur := s.now }
        else if ¬ above ∧ p.curMhz < 1800 ∧ p.lastCur + 1000000 ≤ s.now then
          { w with
            s.power.curMhz := p.curMhz + 50, s.power.curActive := decide (p.curMhz + 50 < 1800), s.power.lastCur := s.now }
        else w
      (w.reclockAll).holdIssue above (List.range 12))

/-- POWER_CAP_CHECK (R537): package power against the cap. -/
def execPowerCapCheck (watts : Nat) (s : State) : Host.Outcome State Fault Refusal :=
  run s (fun w =>
    let p := s.power
    let w := { w with s.power.powerW := lowBits 12 watts }
    if p.capW < watts then
      let m := Nat.max 600 (p.capMhz - 50)
      let w := { w with s.power.capMhz := m, s.power.capActive := true }
      let w := w.reclockAll
      (w.record 0x9001 2 srcPackage (runMask s) m 0).holdIssue true (List.range 12)
    else
      let w := w.holdIssue false (List.range 12)
      if watts * 100 < p.capW * 97 ∧ p.capMhz < 1800 then
        ({ w with s.power.capMhz := p.capMhz + 50, s.power.capActive := decide (p.capMhz + 50 < 1800) }).reclockAll
      else w.reclockAll)

/-- A region's thermal clock falls while a sensor is hot and rises once it has cooled (R538). -/
def Work.thermalStep (w : Work) (r : Nat) (hot cool : Bool) : Work :=
  let g := w.s.region r
  if hot then
    if g.lastHot = 0 ∨ g.lastHot + 100000 ≤ w.s.now then
      ((w.setRegion r { g with thermMhz := Nat.max 600 (g.thermMhz - 50), lastHot := w.s.now + 1 }).reclock r).holdIssue true [r]
    else w
  else if cool ∧ g.thermMhz < 1800 ∧ g.lastCool + 1000000 ≤ w.s.now then
    ((w.setRegion r { g with thermMhz := g.thermMhz + 50, lastCool := w.s.now }).reclock r).holdIssue false [r]
  else w.holdIssue false [r]

/-- THERMAL_SAMPLE (R538–R540): sensor 0–11 is a region's, 12 the hub's, 13 + s stack s's (log entry 16). -/
def execThermalSample (sensor tenths : Nat) (s : State) : Host.Outcome State Fault Refusal :=
  run s (fun w =>
    let trip := if sensor ≤ 12 then decide (1150 ≤ tenths) else decide (1050 ≤ tenths)
    let w :=
      if sensor < 12 then w.modRegion sensor (fun g => { g with temp := lowBits 12 tenths })
      else if sensor = 12 then { w with s.power.hubTemp := lowBits 12 tenths }
      else
        let k := sensor - 13
        ({ w with s.power.stackTemp := w.s.power.stackTemp.put 0 k tenths }).modStack k
          (fun g => { g with hot := decide (850 < tenths) })
    if trip then (w.record 0x9003 6 srcPackage sensor tenths 0).powerTrip
    else if sensor < 12 then
      let stackHot := decide (950 < w.s.power.stackTemp.get 0 sensor)
      w.thermalStep sensor (decide (1000 ≤ tenths) || stackHot) (decide (tenths < 970))
    else if 13 ≤ sensor then
      let r := sensor - 13
      let t := (w.s.region r).temp
      w.thermalStep r (decide (950 < tenths) || decide (1000 ≤ t)) (decide (t < 970))
    else w)

end Sys2Proof.Machine
end

