-- ==== Sys2Proof/Machine/Context.lean ====
section
/-! DEFINITION. Contexts (chapter 15, R455–R473): access through the segment table, deferred effects, opening, closing
and shaping a context, and the memory commands. -/

namespace Sys2Proof.Machine

/-! ### Context memory (R350, R351) -/

/-- A range cut where either its context address or its other address meets a 4 KiB boundary: (offset, bytes). -/
def cuts (a b : Nat) : Nat → Nat → Nat → List (Nat × Nat)
  | 0, _, _ => []
  | _, _, 0 => []
  | fuel + 1, off, left =>
    let k := Nat.min left (Nat.min (4096 - (a + off) % 4096) (4096 - (b + off) % 4096))
    (off, k) :: cuts a b fuel (off + k) (left - k)

/-- The cuts of a whole range of `n` bytes. -/
def cutsOf (a b n : Nat) : List (Nat × Nat) := cuts a b (n / 2048 + 4) 0 n

/-- A context range as board ranges (offset, bytes, board address), up to the first access that fails. -/
def Work.spans (w : Work) (c a b n : Nat) (write : Bool) (ue : Option Bool) : List (Nat × Nat × Nat) × Option WalkErr :=
  (cutsOf a b n).foldl (fun (acc : List (Nat × Nat × Nat) × Option WalkErr) p =>
    match acc.2 with
    | some e => (acc.1, some e)
    | none =>
      match w.translate c (a + p.1) p.2 write ue with
      | .ok t => (acc.1 ++ [(p.1, p.2, t)], none)
      | .error e => (acc.1, some e)) ([], none)

/-- One access of a unit: a row, block, sector or descriptor read, or one write. A range that crosses its segment's end is a
fault, even where the next index is valid (R350). -/
def Work.access (w : Work) (c a n : Nat) (write : Bool) (ue : Option Bool) : List (Nat × Nat × Nat) × Option WalkErr :=
  match w.spans c a a n write ue with
  | (_, some e) => ([], some e)
  | (ss, none) => if 2 ^ 32 < lowBits 32 a + n then ([], some .translation) else (ss, none)

/-- Bytes of a list, from an offset. -/
def slice (bs : List Byte) (off n : Nat) : List Byte := (bs.drop off).take n

/-- A context range read: its bytes, this package's from memory and another's from the command's operands. -/
def Work.ctxRead (w : Work) (c a n : Nat) (u : List Upset) : Except WalkErr (List Byte) × Work :=
  match w.spans c a a n false (walkError u) with
  | (_, some e) => (.error e, w)
  | (ss, none) =>
    (.ok (ss.flatMap (fun p => w.rdBoard u p.2.2 p.2.1)),
      w.each ss (fun w p => if ownSlot w.s p.2.2 then w.count (pkgAddr p.2.2) p.2.1 false else w))

/-- A little-endian context value. -/
def Work.ctxLe (w : Work) (c a n : Nat) (u : List Upset) : Except WalkErr Nat :=
  match (w.ctxRead c a n u).1 with
  | .ok bs => .ok (ofLe bs)
  | .error e => .error e

/-- Bytes written by a unit of context `c` to a board address: here, or sent as acknowledged writes. -/
def Work.putBoard (w : Work) (c : Nat) (tag : Tag) (b : Nat) (vs : List Byte) (poison : Bool) (owner : Owner) : Work :=
  if ownSlot w.s b then w.storeBytes (pkgAddr b) vs poison else w.writeRemote c tag b vs poison owner

/-- A context range written. -/
def Work.ctxWrite (w : Work) (c : Nat) (tag : Tag) (a : Nat) (vs : List Byte) (poison : Bool) (owner : Owner) (u : List Upset) :
    Except WalkErr Unit × Work :=
  match w.spans c a a vs.length true (walkError u) with
  | (_, some e) => (.error e, w)
  | (ss, none) =>
    (.ok (), w.each ss (fun w p => w.putBoard c tag p.2.2 (slice vs p.1 p.2.1) poison owner))

/-- The host rewrites ranges that a lost page took (R337, row F). -/
def subtractRange (a n : Nat) (rs : List (Nat × Nat)) : List (Nat × Nat) :=
  rs.flatMap (fun r =>
    if a + n ≤ r.1 ∨ r.1 + r.2 ≤ a then [r]
    else (if r.1 < a then [(r.1, a - r.1)] else []) ++ (if a + n < r.1 + r.2 then [(a + n, r.1 + r.2 - (a + n))] else []))

/-- Host commands have written a context range. -/
def Work.paid (w : Work) (c a n : Nat) : Work :=
  if (w.s.ctx c).owed.isEmpty then w else w.modCtx c (fun x => { x with owed := subtractRange a n x.owed })

/-- Requests of a command that have no answer yet (R357). -/
def owing (s : State) (a : Active) : Bool :=
  s.requests.any (fun q => match q.owner with | .command r i => r = a.ring && i = a.index | _ => false)

/-- A command's reply, now or when other packages have answered (R357, R435). `bytes` is its PARAM1. -/
def Work.replyOrWait (w : Work) (a : Active) (bytes : Nat) : Work :=
  if owing w.s a then w.await a (.remote bytes) true else w.reply a stDone 0 0 bytes

/-- A command stops on a walk or translation fault: it replies, and its context stops (R351). `n` bytes were done. -/
def Work.walkReply (w : Work) (a : Active) (c addr n : Nat) (e : WalkErr) : Work :=
  (w.walkStop c addr (srcFn (a.ring / 4)) e).reply a e.status 0 0 n

/-! ### Segment entries (R349, R352, R353, R460) -/

/-- A range stays inside one window of R344 that a segment may target: the stack, tile or spread window. -/
def inOneWindow (a n : Nat) : Bool :=
  (decide (a + n ≤ stackWindowEnd)) || (decide (tileWindowBase ≤ a) && decide (a + n ≤ tileWindowEnd)) ||
  (decide (spreadBase ≤ a) && decide (a + n ≤ spreadEnd))

/-- A root entry without a leaf page gets one from the table stack's quota (R352). -/
def Work.needLeaf (w : Work) (c index : Nat) : Option Work :=
  let x := w.s.ctx c
  let at_ := x.root + 8 * (index / 256)
  if bit (w.rdLe at_ 8) 0 then some w
  else
    let s := x.tableStack
    if x.left s < 4096 then none
    else
      match w.takePages c s 4096 (.leaf (index / 256)) with
      | none => none
      | some (a, w) => some (w.wrLe at_ 8 (a + 1))

/-- A leaf page without a VALID entry goes back to the quota (R352). -/
def Work.dropLeaf (w : Work) (c i : Nat) : Work :=
  let at_ := (w.s.ctx c).root + 8 * i
  let root := w.rdLe at_ 8
  if ¬ bit root 0 then w
  else if (List.range 256).any (fun j => bit (w.rdLe (leafOf root + 16 * j) 1) 0) then w
  else (w.wrLe at_ 8 0).freePages c (fun u => u = .leaf i)

/-- Pages and granules that OP 1 or OP 2 took for an entry go back (R460). -/
def Work.freeSeg (w : Work) (c index : Nat) : Work :=
  (w.freePages c (fun u => u = .segment index)).modCtx c
    (fun x => { x with spread := x.spread.filter (fun g => g.index ≠ index) })

/-- Bytes of a context's spread granules in a stack (R324). -/
def Ctx.spreadIn (x : Ctx) (s : Nat) : Nat := (x.spread.map (fun g => (spreadPart g.off g.bytes s).2)).sum

/-- The outcome of a segment command: the entry's TARGET, or a refusal's reason. -/
abbrev SegResult := Except Nat Nat × Work

/-- A refused segment command leaves the work as it was. -/
def SegResult.orKeep (r : SegResult) (w : Work) : SegResult :=
  match r.1 with
  | .error e => (.error e, w)
  | .ok t => (.ok t, r.2)

/-- An entry is written. -/
def Work.fillSeg (w : Work) (c index : Nat) (wr : Bool) (limitM1 target : Nat) : SegResult :=
  match w.needLeaf c index with
  | none => (.error rsAllocation, w)
  | some w => (.ok target, w.setSegEntry c index { valid := true, write := wr, limitM1 := limitM1, target := target })

/-- The board address of a package address of this package (R29). -/
def boardOf (s : State) (a : Nat) : Nat := s.pins.slot * 2 ^ 44 + a

/-- OP 0 (R460). -/
def Work.segRelease (w : Work) (c index : Nat) : SegResult :=
  let e := w.segEntry c index
  let w := if e.valid then w.setSegEntry c index { e with valid := false } else w
  (.ok e.target, (w.freeSeg c index).dropLeaf c (index / 256))

/-- OP 1 (R460). -/
def Work.segStack (w : Work) (c index : Nat) (wr : Bool) (stack limitM1 : Nat) : SegResult :=
  let n := (limitM1 + 1) * 4096
  let w0 := w
  let w := w.freeSeg c index
  if (w.s.ctx c).left stack < n then (.error rsAllocation, w0)
  else
    match w.takePages c stack n (.segment index) with
    | none => (.error rsAllocation, w0)
    | some (a, w) =>
      (w.fillSeg c index wr limitM1 (boardOf w.s a)).orKeep w0

/-- OP 2 (R460). -/
def Work.segSpread (w : Work) (c index : Nat) (wr : Bool) (limitM1 : Nat) : SegResult :=
  let n := (limitM1 + 1) * 4096
  let w0 := w
  let w := w.freeSeg c index
  match findSpread w.s n with
  | none => (.error rsAllocation, w0)
  | some off =>
    let x := w.s.ctx c
    let fits := (List.range 12).all (fun s =>
      let p := (spreadPart off n s).2
      decide (p = 0) || decide (x.spreadIn s + p ≤ spreadShare x.spreadMib * mib))
    if ¬ fits then (.error rsAllocation, w0)
    else
      let w := w.setCtx c { x with spread := x.spread ++ [{ index := index, off := off, bytes := n }] }
      let w := w.each (List.range 12) (fun w s =>
        let p := spreadPart off n s
        if p.2 = 0 then w else w.zero (stackBase s + p.1) p.2)
      (w.fillSeg c index wr limitM1 (boardOf w.s (spreadBase + off))).orKeep w0

/-- OP 3 (R352, R460): the range crosses no window and lies in the context's allocation on the target package. -/
def Work.segBoard (w : Work) (c index : Nat) (wr : Bool) (limitM1 target : Nat) (there : Bool) : SegResult :=
  let n := (limitM1 + 1) * 4096
  let a := pkgAddr target
  if ¬ inOneWindow a n ∨ ¬ (if ownSlot w.s target then allocated (w.s.ctx c) a n else there) then (.error rsSegment, w)
  else
    ((w.freeSeg c index).fillSeg c index wr limitM1 target).orKeep w

/-- OP 4 (R458, R460): the tile window of one of the context's logical tiles. -/
def Work.segTile (w : Work) (c index : Nat) (wr : Bool) (limitM1 tile : Nat) : SegResult :=
  let x := w.s.ctx c
  if 11 * regionCount x ≤ tile ∨ 0x10000 ≤ limitM1 then (.error rsSegment, w)
  else
    ((w.freeSeg c index).fillSeg c index wr limitM1 (boardOf w.s (tileAddr (pkgTile x tile) 0))).orKeep w

/-! ### Deferred effects (R455, R490) -/

/-- A Turn of the context is under way: between the GO of its first attempt and its COMMIT or stop (R468, R490). -/
def underway (s : State) (c : Nat) : Bool := (s.ctx c).st = .running

/-- The reply of a segment command whose effect is in place or refused. -/
def Work.segReply (w : Work) (a : Active) (r : SegResult) : Work :=
  match r with
  | (.ok t, w') => w'.reply a stDone 0 0 t
  | (.error e, _) => w.refuse a e

/-- CHK_SELFTEST's test of every unit of the context's regions that the mask names (R485): PARAM0 counts failures. -/
def Work.selftest (w : Work) (c mask : Nat) (failing : List UnitId) : Nat × Work :=
  let rs := (setBits 12 mask).filter (fun r => bit (w.s.ctx c).mask r)
  let units := rs.flatMap (fun r =>
    (List.range 12).map (fun i => UnitId.tile (meshOf r i)) ++ [.spinner r, .update r])
  let units := units.filter (fun u => !isRetired w.s u)
  let bad := units.filter (fun u => failing.contains u)
  let good := units.filter (fun u => !failing.contains u)
  let w := w.each good (fun w u =>
    let w := w.modRegion u.region (fun g => { g with runs := satAdd 32 g.runs 1 })
    { w with s.flash.suspects := w.s.flash.suspects.map (fun x => if x.unit = u then { x with passed := x.passed + 1 } else x) })
  let w := w.each bad (fun w u =>
    let (v, w) := w.draw
    w.unitFailure u v)
  (bad.length, w)

/-- A deferred effect takes place, and its command replies (R455). -/
def Work.applyDeferred (w : Work) (a : Active) (d : Deferred) : Work :=
  let c := a.ctx
  let own : Owner := .command a.ring a.index
  match d with
  | .write ca bs u =>
    match w.ctxWrite c (freeTag w.s c) ca bs false own u with
    | (.error e, _) => w.walkReply a c ca 0 e
    | (.ok _, w) => (w.paid c ca bs.length).replyOrWait a bs.length
  | .patch es u =>
    let r := es.foldl (fun (acc : Option (Nat × WalkErr) × Work) p =>
      match acc.1 with
      | some _ => acc
      | none =>
        match acc.2.ctxWrite c (freeTag w.s c) p.1 (leBytes p.2.2 p.2.1) false own u with
        | (.error e, _) => (some (p.1, e), acc.2)
        | (.ok _, w) => (none, w.paid c p.1 p.2.2)) (none, w)
    match r with
    | (some (addr, e), w) => w.walkReply a c addr 0 e
    | (none, w) => w.replyOrWait a 0
  | .fraction f => (w.modCtx c (fun x => { x with fraction := f })).replyDone a
  | .selftest mask failing =>
    let (n, w) := w.selftest c mask failing
    w.reply a stDone 0 n 0
  | .segRelease i => w.segReply a (w.segRelease c i)
  | .segStack i wr s l => w.segReply a (w.segStack c i wr s l)
  | .segSpread i wr l => w.segReply a (w.segSpread c i wr l)
  | .segBoard i wr l t there => w.segReply a (w.segBoard c i wr l t there)
  | .segTile i wr l t => w.segReply a (w.segTile c i wr l t)

/-- An effect that R455 puts off while a Turn is under way. -/
def Work.defer (w : Work) (a : Active) (d : Deferred) : Work :=
  if underway w.s a.ctx then w.await a (.deferred d) false else w.applyDeferred a d

/-- Deferred effects of a context take place, in the order of their packet indices within each ring (R455). -/
def Work.applyAllDeferred (w : Work) (c : Nat) : Work :=
  let xs := w.s.actives.filter (fun a => a.ctx = c && (match a.wait with | .deferred _ => true | _ => false))
  w.each xs (fun w a => match a.wait with | .deferred d => w.applyDeferred a d | _ => w)

/-! ### Programs ending (R430, R433, R459) -/

/-- The key of a byte of a program's writable space. -/
def spaceKey (id off : Nat) : Nat := id * 2 ^ 32 + off

/-- Programs that run, by number. -/
def progsOf (s : State) (c : Nat) : List (Nat × Prog) :=
  s.progs.filterMap (fun p => match p.2 with | some q => if q.ctx = c then some (p.1, q) else none | none => none)

/-- A program's pages and space go back. -/
def Work.dropProg (w : Work) (id : Nat) : Work :=
  match w.s.prog id with
  | none => w
  | some q =>
    let w := w.freePages q.ctx (fun u => u = .program id)
    { (w.setProg id none) with sw := .zero (spaceKey id 0) (2 ^ 32) :: w.sw }

/-- The RUN_PROGRAM that waits for a program. -/
def programWaiter (s : State) (id : Nat) : Option Active :=
  s.actives.find? (fun a => match a.wait with | .program i => i = id | _ => false)

/-- A program whose last thread has ended: its command replies (R459). -/
def Work.progDone (w : Work) (id : Nat) : Work :=
  match w.s.prog id with
  | none => w
  | some q =>
    if q.ended < q.count then w
    else
      let w := w.dropProg id
      match programWaiter w.s id with
      | none => w
      | some a =>
        let (p0, w) := w.valueOr q.code0
        let st := if q.anyInvalid then stStack else if q.anyAborted then stAborted else stDone
        w.reply a st 0 (lowBits 32 p0) (lowBits 8 q.exits)

/-- The latch of a thread: the kernel saves and restores a core's latch with the thread on it (R6). -/
def threadReader (t : Nat) : Nat := 0x100 + t

/-- A thread leaves the scheduler: from its core, its ready list or its wait. -/
def Work.dropThread (w : Work) (t : Nat) : Work :=
  let w := w.each ((List.range 12).filter (fun k => (w.s.core k).thread = some t)) (fun w k => w.giveBack k)
  let w := { w with s.sched.ready := w.s.sched.ready.filter (fun x => x ≠ t) }
  let w := { w with s.latch := w.s.latch.put 0 (threadReader t) 0 }
  w.setThread t { lastCore := (w.s.thread t).lastCore, lastEnd := (w.s.thread t).lastEnd }

/-- How a program thread ends (R431, R433). -/
inductive ThreadEnd where
  | exited (code : Nat)
  | aborted
  | invalid
deriving DecidableEq, Repr

/-- A program thread ends (R431, R433, R434). -/
def Work.endThread (w : Work) (t : Nat) (e : ThreadEnd) : Work :=
  let th := w.s.thread t
  match th.prog with
  | none => w
  | some id =>
    let w := w.dropThread t
    match w.s.prog id with
    | none => w
    | some q =>
      let q := { q with ended := q.ended + 1 }
      let q := match e with
        | .exited v => { q with exits := q.exits + 1, code0 := if th.slot = 0 then some v else q.code0 }
        | .aborted => { q with anyAborted := true }
        | .invalid => { q with anyInvalid := true }
      (w.setProg id (some q)).progDone id

/-- Every thread of a program ends with ABORTED (R474). -/
def Work.abortProg (w : Work) (id : Nat) : Work :=
  let ts := (w.s.sched.threads.filter (fun p => p.2.prog = some id)).map (·.1)
  w.each ts (fun w t => w.endThread t .aborted)

/-- A program vanishes with its threads, with no reply (R469, R477). -/
def Work.killProg (w : Work) (id : Nat) : Work :=
  let ts := (w.s.sched.threads.filter (fun p => p.2.prog = some id)).map (·.1)
  (w.each ts (fun w t => w.dropThread t)).dropProg id

/-! ### Closing a context (R469, R477) -/

/-- What a context's tiles hold goes. -/
def Work.clearTiles (w : Work) (c : Nat) : Work :=
  w.each ((ctxTiles (w.s.ctx c)).filter (fun n => (w.s.region (n / 11)).holder = some c)) (fun w n => w.setTile n {})

/-- A started command of a closing context may still reply as it would have: it has claimed its outcome and is no
TURN_RUN (R469). -/
def keepsReply (a : Active) : Bool := a.claimed && (match a.wait with | .turnRun _ => false | _ => true)

/-- A context ends (R469): `silent` under a function-level reset; `self` is the CTX_CLOSE itself. -/
def Work.closeCtx (w : Work) (c : Nat) (silent : Bool) (self : Option Active) : Work :=
  let x := w.s.ctx c
  let mine := w.s.actives.filter (fun a => a.ring / 4 = c && (match self with | some b => !a.same b | none => true))
  let w :=
    if silent then { w with s.actives := w.s.actives.filter (fun a => a.ring / 4 ≠ c) }
    else w.each (mine.filter (fun a => !keepsReply a)) (fun w a =>
      match a.wait with
      | .program id => w.abortProg id
      | _ => w.reply a stAborted 0 0 0)
  let w := w.each ((progsOf w.s c).map (·.1)) (fun w id => w.killProg id)
  if x.st = .closed then w
  else
    let role := x.job ≠ 0xFFFF ∧ ¬ w.solo c
    let w := if role then w.send (.closing (.lost w.s.here 1 w.s.here)) else w
    let w := w.clearTiles c
    let mask := x.mask
    let w := { w with
      s.lanes := w.s.lanes.clear (c * 192) 192
      s.lanesNow := w.s.lanesNow.clear (c * 192) 192
      s.flips := w.s.flips.filter (fun f => f.ctx ≠ c)
      s.resident := w.s.resident.filter (fun q => q.ctx ≠ c)
      s.journal := w.s.journal.clear (c * 256) 256
      s.partials := w.s.partials.clear (c * 64) 64
      s.retierList := w.s.retierList.filter (fun k => k.1 ≠ c)
      s.retierDone := w.s.retierDone.filter (fun k => k.1 ≠ c)
      s.retierDue := w.s.retierDue.filter (fun k => k.1 ≠ c)
      s.idleNs := w.s.idleNs.clear (c * 132 * 16) (132 * 16)
      s.requests := w.s.requests.filter (fun q => q.ctx ≠ c || (match q.owner with | .command _ _ => !silent | _ => false))
      s.windows := w.s.windows.filter (fun v => match v.region with | some r => !bit mask r | none => true)
      s.traceDesc := w.s.traceDesc.put none c none
      s.traceNext := w.s.traceNext.put none c none
      s.jobs := w.s.jobs.put {} (0x10000 + c) {} }
    let w := w.setCtx c {}
    let w := w.each (setBits 12 mask) (fun w r =>
      w.modRegion r (fun g => if g.holder = some c then { g with holder := none } else g))
    let w := w.each (setBits 12 mask) (fun w r => w.restRegion r)
    w.settleRetiring

/-! ### CTX_OPEN and CTX_CLOSE (R456, R469, R473) -/

/-- Bytes of the save area of `n` regions (R473). -/
def saveBytes (n : Nat) : Nat := 0x1000 + 11 * n * 0x8601000

/-- A page run of the save area goes to the lowest stack of the quota with room for it (log entry 11). -/
def Work.takeSave (w : Work) (c n : Nat) : Option Work :=
  match (List.range 12).find? (fun s => decide (n ≤ (w.s.ctx c).left s) && (findRun w.s s n).isSome) with
  | none => none
  | some s => (w.takePages c s n .save).map (·.2)

/-- The whole save area: its first page, then a run for each tile record (R473). -/
def Work.takeSaves (w : Work) (c : Nat) : Nat → Option Work
  | 0 => w.takeSave c 0x1000
  | n + 1 => match w.takeSaves c n with | none => none | some w => w.takeSave c 0x8601000

/-- A region of the mask is not free for the context (R456). -/
def regionTaken (s : State) (mask slice : Nat) : Bool :=
  (List.range 16).any (fun d =>
    let x := s.ctx d
    decide (x.st ≠ .closed) && decide (x.mask &&& mask ≠ 0) && (decide (x.slice = 0) || decide (slice = 0)))

/-- The regions of a mask can host their tiles and have their stack running (R456, R552, R554). -/
def regionsOk (s : State) (mask : Nat) : Bool :=
  s.boot.compute && (setBits 12 mask).all (fun r => !(s.region r).lost)

/-- The class-B lane counter a context starts with (R216). -/
def laneStart (k : Nat) : Nat := k * 2 ^ 80

/-- CTX_OPEN (R456, R466): its checks in order, then the context with zeroed stores, its root table and save area. -/
def execCtxOpen (h : Hdr) (job mask slice : Nat) (quota : List Nat) (spread : Nat) (s : State) :
    Host.Outcome State Fault Refusal :=
  run s (fun w => w.command h 0x03 64 true .always (fun a w =>
    let c := h.context
    let mask := lowBits 12 mask
    let q : Table Nat := (List.range 12).foldl (fun t k => t.put 0 k (quota.getD k 0)) []
    if (w.s.ctx c).st ≠ .closed then w.refuse a rsState
    else if job ≠ 0xFFFF ∧ slice ≠ 0 then w.refuse a rsState
    else if q = [] ∨ ¬ regionsOk w.s mask ∨ regionTaken w.s mask slice ∨
        (List.range 12).any (fun k => decide (freeMib w.s k < q.get 0 k + spreadShare spread)) then
      w.refuse a rsAllocation
    else
      let x : Ctx :=
        { st := .opened, compat := (w.s.fn c).compat, job := job, mask := mask, slice := slice, quota := q, spreadMib := spread }
      let w := w.setCtx c x
      match w.takePages c x.tableStack 4096 .root with
      | none => ((w.setCtx c {})).refuse a rsAllocation
      | some (root, w) =>
        let w := w.modCtx c (fun x => { x with root := root })
        let saved := if slice = 0 then some w else w.takeSaves c (11 * regionCount x)
        match saved with
        | none => (w.setCtx c {}).refuse a rsAllocation
        | some w =>
          let mine := (setBits 12 mask).filter (fun r => (w.s.region r).holder.isNone)
          let w := w.each mine (fun w r => w.modRegion r (fun g => { g with holder := some c }))
          let w := w.each (mine.flatMap (fun r => (List.range 11).map (fun k => 11 * r + k))) (fun w n =>
            ((w.setTile n {}).zero (tileAddr n 0) 0x600000).zero (tileAddr n deepBase) 0x8000000)
          let w := w.each (List.range 192) (fun w k =>
            { w with
              s.lanes := w.s.lanes.put 0 (c * 192 + k) (laneStart k)
              s.lanesNow := w.s.lanesNow.put 0 (c * 192 + k) (laneStart k) })
          w.reply a stDone 0 0 (if slice = 0 then 0 else saveBytes (regionCount x))))

/-- CTX_CLOSE (R469). -/
def execCtxClose (h : Hdr) (s : State) : Host.Outcome State Fault Refusal :=
  run s (fun w => w.command h 0x04 0 true (.ctx h.context) (fun a w => (w.closeCtx h.context false (some a)).replyDone a))

/-! ### CTX_POLICY (R459, R468) -/

/-- The fields of CTX_POLICY whose SET bits are 1; none where SEED comes too late (R459). -/
def Work.setPolicy (w : Work) (c : Nat) (p : Policy) : Option Work :=
  if bit p.set 1 ∧ (w.s.ctx c).seedLocked then none
  else some (w.modCtx c (fun x =>
    { x with
      stealOff := if bit p.set 0 then bit p.flags 0 else x.stealOff
      keepAll := if bit p.set 0 then bit p.flags 1 else x.keepAll
      seed := if bit p.set 1 then lowBits 64 p.seed else x.seed
      threadLimit := if bit p.set 2 then p.threadLimit else x.threadLimit }))

/-- CTX_POLICY, OP 0 (R459). -/
def execCtxPolicySet (h : Hdr) (p : Policy) (s : State) : Host.Outcome State Fault Refusal :=
  run s (fun w => w.command h 0x05 24 false (.ctx h.fn) (fun a w =>
    match w.setPolicy h.fn p with
    | none => w.refuse a rsState
    | some w => w.replyDone a))

/-- CTX_POLICY, OP 2 RESUME (R455, R468): a STOPPED context is OPEN again, and effects that the stopped Turn put off take
place. -/
def execResume (h : Hdr) (p : Policy) (s : State) : Host.Outcome State Fault Refusal :=
  run s (fun w => w.command h 0x05 24 false (.ctx h.fn) (fun a w =>
    if (w.s.ctx h.fn).st ≠ .stopped then w.refuse a rsState
    else
      match w.setPolicy h.fn p with
      | none => w.refuse a rsState
      | some w =>
        ((w.modCtx h.fn (fun x => { x with st := .opened, turn := { x.turn with phase := 0 } })).applyAllDeferred h.fn).replyDone a))

/-! ### CTX_SEG (R460) -/

/-- A segment command: the index rule, then its effect at once or deferred when it changes a VALID entry (R455). -/
def Work.segCommand (w : Work) (a : Active) (index : Nat) (d : Deferred) : Work :=
  if 0xFFFC ≤ index ∧ index ≤ 0xFFFF then w.refuse a rsSegment
  else if (w.segEntry a.ctx index).valid then w.defer a d
  else w.applyDeferred a d

/-- The operand ranges of R454 for an entry. -/
def segRange (index limitM1 : Nat) : Bool := decide (index ≤ 0xFFFF) && decide (limitM1 < 2 ^ 20)

/-- CTX_SEG, OP 0. -/
def execCtxSegRelease (h : Hdr) (index : Nat) (s : State) : Host.Outcome State Fault Refusal :=
  run s (fun w => w.command h 0x06 24 false (.ctx h.fn) (fun a w =>
    if 0xFFFF < index then w.fail 466 else w.segCommand a index (.segRelease index)))

/-- CTX_SEG, OP 1. -/
def execCtxSegAllocStack (h : Hdr) (index : Nat) (write : Bool) (stack limitM1 : Nat) (s : State) :
    Host.Outcome State Fault Refusal :=
  run s (fun w => w.command h 0x06 24 false (.ctx h.fn) (fun a w =>
    if ¬ segRange index limitM1 ∨ 12 ≤ stack then w.fail 466
    else w.segCommand a index (.segStack index write stack limitM1)))

/-- CTX_SEG, OP 2. -/
def execCtxSegAllocSpread (h : Hdr) (index : Nat) (write : Bool) (limitM1 : Nat) (s : State) :
    Host.Outcome State Fault Refusal :=
  run s (fun w => w.command h 0x06 24 false (.ctx h.fn) (fun a w =>
    if ¬ segRange index limitM1 then w.fail 466 else w.segCommand a index (.segSpread index write limitM1)))

/-- CTX_SEG, OP 3. For a target on another package, `there` says whether the range lies in the context's allocation on it, which the
firmware asks that package (R352; log entry 41). -/
def execCtxSegMapBoard (h : Hdr) (index : Nat) (write : Bool) (limitM1 target : Nat) (there : Bool) (s : State) :
    Host.Outcome State Fault Refusal :=
  run s (fun w => w.command h 0x06 24 false (.ctx h.fn) (fun a w =>
    if ¬ segRange index limitM1 ∨ target % 4096 ≠ 0 ∨ 2 ^ 48 ≤ target then w.fail 466
    else w.segCommand a index (.segBoard index write limitM1 target there)))

/-- CTX_SEG, OP 4. -/
def execCtxSegMapTile (h : Hdr) (index : Nat) (write : Bool) (limitM1 tile : Nat) (s : State) :
    Host.Outcome State Fault Refusal :=
  run s (fun w => w.command h 0x06 24 false (.ctx h.fn) (fun a w =>
    if ¬ segRange index limitM1 then w.fail 466
    else w.segCommand a index (.segTile index write limitM1 (lowBits 8 tile))))

/-! ### Memory commands (R350, R454) -/

/-- Host data for a started command: the read goes out, and the command waits (R477). -/
def Work.fetchHost (w : Work) (a : Active) (addr len : Nat) (use : HostUse) : Work :=
  (w.await a (.hostData addr len use) false).send (.hostRead a.ring a.index addr len)

/-- BYTES of the memory commands: 1 to 2^40 (R454). -/
def bytesOk (n : Nat) : Bool := decide (1 ≤ n) && decide (n ≤ 2 ^ 40)

/-- MEM_WRITE (R454): the host data come with HOST_READ_DATA. -/
def execMemWrite (h : Hdr) (hostAddr ctxAddr bytes : Nat) (s : State) : Host.Outcome State Fault Refusal :=
  run s (fun w => w.command h 0x20 24 false (.ctx h.fn) (fun a w =>
    if ¬ bytesOk bytes then w.fail 466 else w.fetchHost a hostAddr bytes (.memWrite ctxAddr)))

/-- GRAPH_LOAD (R454, R455): as MEM_WRITE, its effect deferred. -/
def execGraphLoad (h : Hdr) (hostAddr ctxAddr bytes : Nat) (s : State) : Host.Outcome State Fault Refusal :=
  run s (fun w => w.command h 0x30 24 false (.ctx h.fn) (fun a w =>
    if ¬ bytesOk bytes then w.fail 466 else w.fetchHost a hostAddr bytes (.graphLoad ctxAddr)))

/-- GRAPH_PATCH (R454, R455). -/
def execGraphPatch (h : Hdr) (entries : List (Nat × Nat × Nat)) (u : List Upset) (s : State) : Host.Outcome State Fault Refusal :=
  run s (fun w => w.command h 0x31 (16 + 16 * entries.length) false (.ctx h.fn) (fun a w =>
    if entries = [] ∨ 254 < entries.length ∨
        entries.any (fun p => !(p.2.2 = 1 || p.2.2 = 2 || p.2.2 = 4) || decide (p.1 % p.2.2 ≠ 0)) then w.fail 466
    else w.defer a (.patch entries u)))

/-- An uncorrectable error lies in a byte range at a board address. -/
def Work.hitBoard (w : Work) (u : List Upset) (b n : Nat) : Bool :=
  if ownSlot w.s b then w.badRange u (pkgAddr b) n else remoteBad u b n

/-- An uncorrectable error lies in a context range that a host command reads (R332). -/
def Work.hitCtx (w : Work) (c a n : Nat) (u : List Upset) : Bool :=
  (w.spans c a a n false none).1.any (fun p => w.hitBoard u p.2.2 p.2.1)

/-- The pieces of a range up to the first byte that the host refuses, as (offset, bytes, address) (R465). -/
def cutPieces (refuse : Option Nat) (ss : List (Nat × Nat × Nat)) : List (Nat × Nat × Nat) :=
  match refuse with
  | none => ss
  | some k => (ss.filter (fun p => decide (p.1 < k))).map (fun p => (p.1, Nat.min p.2.1 (k - p.1), p.2.2))

/-- MEM_READ (R332, R454): context memory to host memory. -/
def execMemRead (h : Hdr) (ctxAddr hostAddr bytes : Nat) (refuse : Option Nat) (u : List Upset) (s : State) : Host.Outcome State Fault Refusal :=
  run s (fun w => w.command h 0x21 24 false (.ctx h.fn) (fun a w =>
    if ¬ bytesOk bytes then w.fail 466
    else
      let c := h.fn
      let (ss, err) := w.spans c ctxAddr hostAddr bytes false (walkError u)
      let good := cutPieces refuse (ss.takeWhile (fun p => !w.hitBoard u p.2.2 p.2.1))
      let done := (good.map (fun p => p.2.1)).sum
      let w := w.each good (fun w p =>
        if ownSlot w.s p.2.2 then
          let (bs, w) := w.load (pkgAddr p.2.2) p.2.1
          w.wrHost h.fn (hostAddr + p.1) bs
        else w.readRemote c (freeTag w.s c) p.2.2 p.2.1 (.command a.ring a.index) (.host h.fn (hostAddr + p.1)))
      let w := w.meetsHost (srcFn h.fn) u
      if refuse = some done ∧ done < bytes then w.reply a stMemory 2 0 done
      else if good.length < ss.length then w.reply a stMemory 1 0 done
      else
        match err with
        | some e => w.walkReply a c (ctxAddr + done) done e
        | none => w.replyOrWait a bytes))

/-- MEM_FILL (R454). -/
def execMemFill (h : Hdr) (ctxAddr bytes pattern : Nat) (u : List Upset) (s : State) : Host.Outcome State Fault Refusal :=
  run s (fun w => w.command h 0x22 20 false (.ctx h.fn) (fun a w =>
    if ¬ bytesOk bytes ∨ ctxAddr % 4 ≠ 0 ∨ bytes % 4 ≠ 0 then w.fail 466
    else
      let c := h.fn
      let (ss, err) := w.spans c ctxAddr ctxAddr bytes true (walkError u)
      let done := (ss.map (fun p => p.2.1)).sum
      let w := w.each ss (fun w p =>
        w.putBoard c (freeTag w.s c) p.2.2 ((List.range p.2.1).map (fun i => BitVec.ofNat 8 (pattern / 256 ^ (i % 4))))
          false (.command a.ring a.index))
      let w := w.paid c ctxAddr done
      match err with
      | some e => w.walkReply a c (ctxAddr + done) done e
      | none => w.replyOrWait a bytes))

/-- One piece of a MEM_COPY, from board address `x` to board address `y`. -/
def Work.copyPiece (w : Work) (a : Active) (x y n : Nat) : Work :=
  let c := a.ctx
  let own : Owner := .command a.ring a.index
  if ownSlot w.s x then
    let (bs, w) := w.load (pkgAddr x) n
    w.putBoard c (freeTag w.s c) y bs false own
  else if ownSlot w.s y then w.readRemote c (freeTag w.s c) x n own (.mem (pkgAddr y))
  else w.readRemote c (freeTag w.s c) x n own (.board y)

/-- MEM_COPY (R454). -/
def execMemCopy (h : Hdr) (src dst bytes : Nat) (u : List Upset) (s : State) : Host.Outcome State Fault Refusal :=
  run s (fun w => w.command h 0x23 24 false (.ctx h.fn) (fun a w =>
    if ¬ bytesOk bytes ∨ ¬ apart src bytes dst bytes then w.fail 466
    else
      let c := h.fn
      let (ss, err1) := w.spans c src dst bytes false (walkError u)
      let (ds, err2) := w.spans c dst src bytes true none
      let pairs := (ss.zip ds).takeWhile (fun p => !w.hitBoard u p.1.2.2 p.1.2.1)
      let done := (pairs.map (fun p => p.1.2.1)).sum
      let w := w.each pairs (fun w p => w.copyPiece a p.1.2.2 p.2.2.2 p.1.2.1)
      let w := (w.paid c dst done).meetsHost (srcFn h.fn) u
      if pairs.length < Nat.min ss.length ds.length then w.reply a stMemory 1 0 done
      else
        match err1, err2 with
        | none, none => w.replyOrWait a bytes
        | some e, none => w.walkReply a c (src + done) done e
        | none, some e => w.walkReply a c (dst + done) done e
        | some e, some f =>
          if ss.length ≤ ds.length then w.walkReply a c (src + done) done e else w.walkReply a c (dst + done) done f))

/-- CHK_FRACTION (R480): the fraction changes at a Turn boundary (R455). -/
def execChkFraction (h : Hdr) (fraction : Nat) (s : State) : Host.Outcome State Fault Refusal :=
  run s (fun w => w.command h 0x40 1 false (.ctx h.fn) (fun a w =>
    if 4 < fraction then w.fail 466 else w.defer a (.fraction fraction)))

/-- CHK_SELFTEST (R485): one self-test run for every unit of the named regions, between Turns. -/
def execChkSelftest (h : Hdr) (mask : Nat) (failing : List UnitId) (s : State) : Host.Outcome State Fault Refusal :=
  run s (fun w => w.command h 0x41 2 false (.ctx h.fn) (fun a w => w.defer a (.selftest mask failing)))

/-- FLT_QUERY (R463): the fault report goes to host memory. -/
def execFltQuery (h : Hdr) (hostAddr : Nat) (refuse : Option Nat) (s : State) : Host.Outcome State Fault Refusal :=
  run s (fun w => w.command h 0x42 8 false (.ctx h.fn) (fun a w =>
    let x := w.s.ctx h.fn
    let rs := x.lost.take 255
    let page := leBytes 1 x.stopStatus ++ leBytes 1 x.reason ++ leBytes 2 0 ++ leBytes 4 rs.length ++ leBytes 4 x.stopSeq ++
      leBytes 4 0 ++ rs.flatMap (fun r => leBytes 8 r.1 ++ leBytes 8 r.2)
    w.reportTo a hostAddr (padTo 4096 page) refuse rs.length 0 (fun w =>
      w.modCtx h.fn (fun x => { x with lost := x.lost.drop 255 }))))

end Sys2Proof.Machine
end

