-- ==== Sys2Proof/Machine/Programs.lean ====
section
/-! DEFINITION. Service programs, traps and core stops (chapter 14, R430–R438), and ABORT (R474, R475). Instructions
of the hub cores themselves are not commands: a program's calls, traps and stops are. -/

namespace Sys2Proof.Machine

/-! ### RUN_PROGRAM (R430, R431, R459) -/

/-- A service-program header (R430). -/
structure ProgHead where
  magic : Nat
  format : Nat
  threads : Nat
  prio : Nat
  size : Nat
  text : Nat
  data : Nat
  entry : Nat
  stack : Nat
  slot : Nat
deriving DecidableEq, Repr

/-- The header's bytes read. -/
def ProgHead.ofBytes (bs : List Byte) : ProgHead :=
  let f := fun o n => ofLe (slice bs o n)
  { magic := f 0 4, format := f 4 2, threads := f 6 1, prio := f 7 1, size := f 8 4, text := f 0xC 4, data := f 0x10 4
    entry := f 0x14 4, stack := f 0x18 4, slot := f 0x1C 1 }

/-- The sizes of an image (R430). -/
def ProgHead.sizesOk (p : ProgHead) : Bool :=
  decide (1 ≤ p.threads) && decide (p.threads ≤ 8) && decide (p.prio ≤ 15) && decide (p.size % 4096 = 0) &&
  decide (4096 ≤ p.size) && decide (p.size ≤ 0x400000) && decide (p.text % 4096 = 0) && decide (p.text ≤ p.size) &&
  decide (p.data % 4096 = 0) && decide (p.data ≤ 0x1000000) && decide (p.entry < p.text) && decide (p.stack % 4096 = 0) &&
  decide (p.threads * p.stack ≤ p.data)

/-- Free program threads, ascending (R431). -/
def freeThreads (s : State) : List Nat :=
  ((List.range 768).map (· + 256)).filter (fun t => (s.thread t).st = .free)

/-- Threads that the context's programs hold. -/
def heldThreads (s : State) (c : Nat) : Nat :=
  (s.sched.threads.filter (fun p => match p.2.prog with
    | some id => (match s.prog id with | some q => q.ctx = c | none => false)
    | none => false)).length

/-- The lowest program number not in use. -/
def freeProg (s : State) : Nat := ((List.range 1024).find? (fun i => (s.prog i).isNone)).getD 1024

/-- A program whose image passed every check starts: its threads become READY (R430, R431). -/
def Work.startProgram (w : Work) (a : Active) (p : ProgHead) (img : List Byte) (stack : Nat) : Work :=
  let id := freeProg w.s
  let q : Prog :=
    { ctx := a.ctx, count := p.threads, textSize := p.text, dataSize := p.data, stackSize := p.stack, entry := p.entry
      image := img, stack := stack, pages := p.size, exits := 0, anyInvalid := false, anyAborted := false, code0 := none
      ended := 0 }
  let ts := (freeThreads w.s).take p.threads
  let w := (w.setProg id (some q)).await a (.program id) false
  let w := w.each ((List.range ts.length).zip ts) (fun w k =>
    w.setThread k.2
      { prio := p.prio, elig := 1, prog := some id, slot := k.1, a0 := k.1, lastCore := (w.s.thread k.2).lastCore
        lastEnd := (w.s.thread k.2).lastEnd })
  w.wake ts

/-- The image is in the context's pages: the checks of R430 in order, then the start. -/
def Work.checkProgram (w : Work) (a : Active) (p : ProgHead) (img : List Byte) (stack : Nat) : Work :=
  let drop := fun (w : Work) => w.freePages a.ctx (fun u => u = .program (freeProg w.s))
  if p.magic ≠ 0x50565253 ∨ p.format ≠ 0x0100 ∨ ¬ p.sizesOk then (drop w).refuse a rsProgram
  else
    let key := w.s.flash.keySlots.get [] p.slot
    if key = [] ∨ ¬ verifyBlock key (img.drop (p.size - 128)) (img.take (p.size - 128)) then (drop w).reply a stAuth 0 0 0
    else if 4 ≤ (progsOf w.s a.ctx).length ∨ (w.s.ctx a.ctx).threadLimit < heldThreads w.s a.ctx + p.threads ∨
        (freeThreads w.s).length < p.threads then (drop w).refuse a rsThreads
    else w.startProgram a p img stack

/-- The image is copied, then checked (R430). A walk or translation fault stops the context (R351); an uncorrectable error in the
image ends the command (R332). -/
def Work.loadProgram (w : Work) (a : Active) (addr : Nat) (u : List Upset) : Work :=
  let c := a.ctx
  match w.ctxRead c addr 64 u with
  | (.error e, _) => w.walkReply a c addr 0 e
  | (.ok hb, w) =>
    let p := ProgHead.ofBytes hb
    let n := Nat.min p.size 0x400000
    let w := w.askSpans (freeTag w.s c) (w.spans c addr addr (Nat.max 64 n) false none).1
    if w.hitCtx c addr (Nat.max 64 n) u then (w.meetsHost (srcFn c) u).reply a stMemory 1 0 0
    else
    let w := w.meetsHost (srcFn c) u
    match w.ctxRead c addr n u with
    | (.error e, _) => w.walkReply a c addr 0 e
    | (.ok img, w) =>
      let bytes := roundUp (Nat.max n 1) 4096
      match (List.range 12).find? (fun s => decide (bytes ≤ (w.s.ctx c).left s) && (findRun w.s s bytes).isSome) with
      | none => w.refuse a rsAllocation
      | some s =>
        match w.takePages c s bytes (.program (freeProg w.s)) with
        | none => w.refuse a rsAllocation
        | some (at_, w) => (w.storeBytes at_ img false).checkProgram a p img s

/-- CTX_POLICY, OP 1 RUN_PROGRAM (R430, R459): refused whole where SEED comes too late; its fields take effect with it. -/
def execRunProgram (h : Hdr) (p : Policy) (program : Nat) (u : List Upset) (s : State) : Host.Outcome State Fault Refusal :=
  run s (fun w => w.command h 0x05 32 false (.ctx h.fn) (fun a w =>
    match w.setPolicy h.fn p with
    | none => w.refuse a rsState
    | some w' =>
      let done := w'.loadProgram a program u
      let started := (done.s.actives.any (fun b => a.same b && (match b.wait with | .program _ => true | _ => false)))
      if started then done
      else w.loadProgram a program u))

/-! ### Service calls (R431, R432) -/

/-- The program thread on a core, with its program's number and the program. -/
def callerOf (s : State) (core : Nat) : Option (Nat × Nat × Prog) :=
  match (s.core core).thread with
  | none => none
  | some t =>
    match (s.thread t).prog with
    | none => none
    | some id => (s.prog id).map (fun q => (t, id, q))

/-- A service call of the thread on a core; with no program thread there, nothing. -/
def Work.call (w : Work) (core : Nat) (f : Nat → Nat → Prog → Work → Work) : Work :=
  match callerOf w.s core with
  | none => w
  | some (t, id, q) => f t id q w

/-- What a service call returns in a0. -/
def Work.answer (w : Work) (core v : Nat) : Work := w.send (.value (16 + core) (lowBits 64 v))

/-- The value −1 of a call that does nothing. -/
def minusOne : Nat := 2 ^ 64 - 1

/-- An event of the context's PROGRAM range (R427). -/
def progEvent (c ev : Nat) : Bool := decide (0x800 + 128 * c ≤ ev) && decide (ev < 0x800 + 128 * c + 128)

/-- EXIT (R431). -/
def execSvcExit (core code : Nat) (s : State) : Host.Outcome State Fault Refusal :=
  run s (·.call core (fun t _ _ w => w.endThread t (.exited code)))

/-- YIELD (R431). -/
def execSvcYield (core : Nat) (s : State) : Host.Outcome State Fault Refusal :=
  run s (·.call core (fun _ _ _ w => w.yieldCore core))

/-- WAIT_EVENT (R431, R432). -/
def execSvcWaitEvent (core event : Nat) (s : State) : Host.Outcome State Fault Refusal :=
  run s (·.call core (fun _ _ q w => if progEvent q.ctx event then w.blockCore core event else w.answer core minusOne))

/-- SIGNAL (R431, R432). -/
def execSvcSignal (core event : Nat) (s : State) : Host.Outcome State Fault Refusal :=
  run s (·.call core (fun _ _ q w => if progEvent q.ctx event then w.signal event else w.answer core minusOne))

/-- SLEEP_UNTIL (R431): the thread blocks until the time, or goes on when it has passed. -/
def execSvcSleepUntil (core time : Nat) (s : State) : Host.Outcome State Fault Refusal :=
  run s (·.call core (fun t _ _ w =>
    if time ≤ s.now then w
    else
      let w := w.giveBack core
      w.setThread t { w.s.thread t with st := .blocked, event := none, deadline := some time }))

/-- SLEEP_UNTIL_EXPIRY (R431): fabric time has reached a sleeping thread's deadline. -/
def execSleepExpiry (thread : Nat) (s : State) : Host.Outcome State Fault Refusal :=
  run s (fun w =>
    match (s.thread thread).deadline with
    | none => w
    | some d => w.when (decide (d ≤ s.now) && (s.thread thread).st = .blocked) (·.wake [thread]))

/-- TIME_READ (R431). -/
def execSvcTimeRead (core : Nat) (s : State) : Host.Outcome State Fault Refusal :=
  run s (·.call core (fun _ _ _ w => let (t, w) := w.readTime; w.answer core t))

/-- A range of a program's writable space (R431; addresses are offsets in it, log entry 17). -/
def inSpace (q : Prog) (off n : Nat) : Bool := decide (off + n ≤ q.dataSize)

/-- Bytes of a program's writable space. -/
def Work.spaceBytes (w : Work) (id off n : Nat) : List Byte :=
  (List.range n).map (fun i => lookMem w.s.space w.sw (spaceKey id (off + i)))

/-- Bytes written to a program's writable space. -/
def Work.putSpace (w : Work) (id off : Nat) (bs : List Byte) : Work :=
  { w with
    sw := ((List.range bs.length).zip bs).reverse.map (fun p => .byte (spaceKey id (off + p.1)) p.2 false) ++ w.sw }

/-- CTX_READ (R350, R351, R431, R432): context memory into writable space. -/
def execSvcCtxRead (core addr len dst : Nat) (u : List Upset) (s : State) : Host.Outcome State Fault Refusal :=
  run s (·.call core (fun t id q w =>
    if 0x10000 < len ∨ ¬ inSpace q dst len then w.fail 431
    else
      match w.spans q.ctx addr addr len false (walkError u) with
      | (_, some e) => w.walkStop q.ctx addr (srcThread t) e
      | (ss, none) =>
        (w.each ss (fun w p =>
          if ownSlot w.s p.2.2 then
            let (bs, w) := w.load (pkgAddr p.2.2) p.2.1
            w.putSpace id (dst + p.1) bs
          else w.readRemote q.ctx (freeTag w.s q.ctx) p.2.2 p.2.1 (.core core) (.space id (dst + p.1)))).meetsHost
          (srcThread t) u))

/-- CTX_WRITE (R350, R351, R431, R432): writable space to context memory. -/
def execSvcCtxWrite (core addr len src : Nat) (u : List Upset) (s : State) : Host.Outcome State Fault Refusal :=
  run s (·.call core (fun t id q w =>
    if 0x10000 < len ∨ ¬ inSpace q src len then w.fail 431
    else
      match w.ctxWrite q.ctx (freeTag w.s q.ctx) addr (w.spaceBytes id src len) false (.core core) u with
      | (.error e, _) => w.walkStop q.ctx addr (srcThread t) e
      | (.ok _, w) => (w.paid q.ctx addr len).meetsHost (srcThread t) u))

/-- SP_WRITE (R431): EV_PROGRAM with severity INFO or NOTICE. -/
def execSvcSpWrite (core sev p0 p1 p2 : Nat) (s : State) : Host.Outcome State Fault Refusal :=
  run s (·.call core (fun t _ q w =>
    if sev ≠ 1 ∧ sev ≠ 2 then w.fail 431 else w.recordCtx 0xF001 sev (srcThread t) p0 p1 p2 (some q.ctx)))

/-- SET_HANDLER (R431). -/
def execSvcSetHandler (core handler : Nat) (s : State) : Host.Outcome State Fault Refusal :=
  run s (·.call core (fun t _ _ w => w.setThread t { w.s.thread t with handler := lowBits 64 handler }))

/-- A call number that R431 does not define returns −1 and does nothing. -/
def execSvcUnknown (core number : Nat) (s : State) : Host.Outcome State Fault Refusal :=
  run s (·.call core (fun _ _ _ w => if number ≤ 10 then w else w.answer core minusOne))

/-! ### Traps and stops (R433–R438) -/

/-- The frame that a handler receives: zero, x1–x31, pc, cause (R433). -/
def frameBytes (regs : List Nat) (pc cause : Nat) : List Byte :=
  leBytes 8 0 ++ ((List.range 31).flatMap (fun i => leBytes 8 (regs.getD i 0))) ++ leBytes 8 pc ++ leBytes 8 cause

/-- USER_TRAP (R433): `regs` holds x1 to x31. -/
def execUserTrap (core cause pc : Nat) (regs : List Nat) (s : State) : Host.Outcome State Fault Refusal :=
  run s (·.call core (fun t id q w =>
    let th := w.s.thread t
    let sp := regs.getD 1 0
    let at_ := (sp - 272) / 16 * 16
    let end_ := fun (w : Work) =>
      (w.recordCtx 0x6001 3 (srcThread t) cause (lowBits 32 pc) t (some q.ctx)).endThread t .aborted
    if th.handler = 0 ∨ th.inHandler then end_ w
    else if sp < 272 ∨ ¬ inSpace q at_ 272 then
      (w.recordCtx 0x6002 3 (srcThread t) t (lowBits 32 sp) cause (some q.ctx)).endThread t .invalid
    else
      let w := w.putSpace id at_ (frameBytes regs pc cause)
      w.setThread t { th with inHandler := true, a0 := at_ }))

/-- Cores of a kind that are not retired. -/
def coresLeft (s : State) (lo hi : Nat) : Bool :=
  (List.range 12).any (fun k => decide (lo ≤ k) && decide (k < hi) && !(s.core k).retired)

/-- A retired core's consequences (R436, R555). -/
def Work.coreGone (w : Work) : Work :=
  let w :=
    if coresLeft w.s 0 4 then w
    else { w with s.boot.host := false, s.boot.compute := false, s.boot.system := false, s.boot.level := Nat.min w.s.boot.level 1 }
  if coresLeft w.s 4 12 then w else w.packageLost 1 (fun x => decide (x.st ≠ .closed))

/-- A stopped core as the management processor handles it (R434–R436). -/
def Work.coreStopped (w : Work) (core cause : Nat) : Work :=
  let c := w.s.core core
  let (p1, w) := w.valueOr c.thread
  let w := w.record 0x6003 4 (srcCore core) core p1 cause
  let stops := c.stops.filter (fun t => decide (w.s.now < t + dayNs)) ++ [w.s.now]
  let gone := decide (3 ≤ stops.length)
  let w := w.giveBack core
  let w := match c.thread with
    | none => w
    | some t =>
      if (w.s.thread t).prog.isSome then w.endThread t .aborted
      else w.wake [t]
  let w := w.setCore core
    { w.s.core core with stops := stops, halted := false, retired := gone, preempt := false, asking := false, thread := none }
  if gone then (w.record 0x6004 5 (srcCore core) core 0 0).coreGone else w.ask core

/-- CORE_STOP (R434–R436); while the management processor is stopped the core waits for its restart (R438). -/
def execCoreStop (core cause : Nat) (s : State) : Host.Outcome State Fault Refusal :=
  run s (fun w =>
    if ¬ (s.core core).takes then w
    else if s.mgt.running then w.coreStopped core cause
    else w.setCore core { s.core core with halted := true, asking := false, dispatchReg := cause })

/-- MGT_WATCHDOG_RESET (R438): EV_MGT_RESTART; core stops that came during the restart are handled now. -/
def execMgtWatchdogReset (cause : Nat) (s : State) : Host.Outcome State Fault Refusal :=
  run s (fun w =>
    if s.boot.stage = 0 ∨ s.boot.stage = 6 then w
    else
      let w := ({ w with s.mgt.running := true }).record 0x0003 3 srcMgt cause 0 0
      w.each ((List.range 12).filter (fun k => (s.core k).halted)) (fun w k =>
        w.coreStopped k (s.core k).dispatchReg))

/-! ### ABORT (R474, R475) -/

/-- The READY of a context for a Turn is withdrawn (R470, R475). -/
def Work.withdraw (w : Work) (c turn : Nat) : Work :=
  let x := w.s.ctx c
  if x.turn.num ≠ turn ∨ x.st = .running then w
  else w.setCtx c { x with turn := { x.turn.rest with phase := if x.turn.phase = 5 then 5 else 0 } }

/-- An ABORT claims a TURN_RUN before the GO of its first attempt: the Turn does not start; in a job with a Banker it is
cancelled on every package (R475). -/
def Work.cancelRun (w : Work) (t : Active) : Work :=
  let c := t.ctx
  let x := w.s.ctx c
  let turn := x.turn.num + ((turnRuns w.s c).takeWhile (fun b => !b.same t)).length
  let w := w.withdraw c turn
  let w :=
    if x.job ≠ 0xFFFF then
      (w.modCtx c (fun x => { x with turn := { x.turn with ownCancels := x.turn.ownCancels ++ [turn] } })).send
        (.closing (.cancel true (keyOf x c) turn))
    else w.modJob (keyOf x c) (fun j => if j.turn = turn ∧ ¬ j.gone then { j with ready := [] } else j)
  w.reply t stAborted 0 0 0

/-- The target of an ABORT ends (R474). -/
def Work.abortTarget (w : Work) (t : Active) : Work :=
  match t.wait with
  | .turnRun _ => w.cancelRun t
  | .program id => w.abortProg id
  | _ => w.reply t stAborted 0 0 0

/-- ABORT (R474). `tOp`, `tTag` and `tIrq` are what the target packet's header holds, for the reply of a target that
has not started. -/
def execAbort (h : Hdr) (ring index tOp tTag : Nat) (tIrq : Bool) (s : State) : Host.Outcome State Fault Refusal :=
  run s (fun w => w.command h 0x15 8 false (.ctx h.fn) (fun a w =>
    let d := 4 * h.fn + ring % 4
    let r := w.s.ring d
    if 3 < ring then w.fail 466
    else if ¬ r.visible index ∨ (d = a.ring ∧ index = a.index) then
      w.reply a (if r.visible index then stTooLate else stNotFound) 0 0 0
    else
      match w.s.actives.find? (fun b => b.ring = d && b.index = index) with
      | some t => if t.claimed then w.reply a stTooLate 0 0 0 else (w.abortTarget t).replyDone a
      | none =>
        let ahead := modSub 32 index r.c
        if 2 ^ 31 ≤ ahead ∨ r.skip.contains index then w.reply a stTooLate 0 0 0
        else
          let t : Active :=
            { ring := d, index := index, op := tOp, irq := tIrq, tag := tTag, ctx := h.fn, claimed := true, wait := .fence }
          let skip := r.skip ++ [index]
          let c := if index = r.c then skipDone skip skip.length r.c else r.c
          let w := w.setRing d { r with c := c, skip := skip.filter (fun i => decide (modSub 32 i c < 2 ^ 31)) }
          (w.finish t stAborted 0 0 0).replyDone a))

end Sys2Proof.Machine
end

