-- ==== Sys2Proof/Machine/Operands.lean ====
section
/-! DEFINITION. Operands of moves: the common header (R42), the unit of each class, and how a move reads its tile's
stores, its descriptors and its reduction group (R59, R146, R345). -/

namespace Sys2Proof.Machine

/-! ### The common header (R42) -/

def mvClass (m : Nat) : Nat := bits m 5 0
def mvWaitA (m : Nat) : Nat := bits m 13 6
def mvWaitB (m : Nat) : Nat := bits m 21 14
def mvExpA (m : Nat) : Nat := bits m 37 22
def mvExpB (m : Nat) : Nat := bits m 53 38
def mvSignal (m : Nat) : Nat := bits m 61 54
def mvSlot (m : Nat) : Nat := bits m 77 62
def mvSigEn (m : Nat) : Bool := bit m 78
def mvKeepA (m : Nat) : Bool := bit m 79
def mvKeepB (m : Nat) : Bool := bit m 80
def mvSteal (m : Nat) : Bool := bit m 81

/-- The near-store address of the descriptor that DESC [98:82] names, in units of 64 bytes (R114, R133, R155, R181). -/
def mvDesc (m : Nat) : Nat := bits m 98 82 * 64

/-- The stream that a gather move names (R181). -/
def mvStream (m : Nat) : Nat := bits m 102 99

/-- The unit that a class runs on (R45, R111, R133, R155, R181, R207, R266, R303). -/
def unitOf (cls : Nat) : UnitKind :=
  if cls < 0x08 then .sequencer
  else if cls = 0x08 then .array
  else if cls < 0x18 then .vector
  else if cls < 0x20 then .store
  else if cls = 0x22 ∨ cls = 0x23 then .vector
  else if cls < 0x2C then .gather
  else if cls = 0x2C ∨ cls = 0x2D then .spinner
  else if cls < 0x30 then .prefetcher
  else .update

/-- A wait is met (R44): its expected count is zero, or its tally has exactly that count. -/
def waitMet (t : Tile) (tally expect : Nat) : Bool := expect = 0 || t.tallies.get 0 tally = expect

/-- Both waits of a move are met. -/
def waitsMet (t : Tile) (m : Nat) : Bool := waitMet t (mvWaitA m) (mvExpA m) && waitMet t (mvWaitB m) (mvExpB m)

/-- A wait of the head finds its tally above the expected count (R54): that tally. -/
def overWait (t : Tile) (m : Nat) : Option Nat :=
  if 0 < mvExpA m ∧ mvExpA m < t.tallies.get 0 (mvWaitA m) then some (mvWaitA m)
  else if 0 < mvExpB m ∧ mvExpB m < t.tallies.get 0 (mvWaitB m) then some (mvWaitB m)
  else none

/-- A move would consume a tally twice (R55). -/
def doubleUse (m : Nat) : Bool :=
  decide (0 < mvExpA m) && decide (0 < mvExpB m) && decide (mvWaitA m = mvWaitB m) && !(mvKeepA m && mvKeepB m)

/-- What a wait leaves in its tally (R50). -/
def consumeWait (ts : Table Nat) (tally expect : Nat) (keep : Bool) : Table Nat :=
  if 0 < expect ∧ ¬ keep then ts.put 0 tally 0 else ts

/-- The tallies after both waits of a move are consumed (R50). -/
def consumeWaits (t : Tile) (m : Nat) : Tile :=
  { t with
    tallies := consumeWait (consumeWait t.tallies (mvWaitA m) (mvExpA m) (mvKeepA m)) (mvWaitB m) (mvExpB m) (mvKeepB m) }

/-- The expected count of the head's wait on a tally (R71). -/
def expectOn (m tally : Nat) : Nat :=
  if 0 < mvExpA m ∧ mvWaitA m = tally then mvExpA m
  else if 0 < mvExpB m ∧ mvWaitB m = tally then mvExpB m
  else 0

/-! ### Tile addresses (R144, R345) -/

/-- A tile address exists: in the near store or in the deep store. -/
def tileAddrOk (t n : Nat) : Bool :=
  decide (t + n ≤ 0x600000) || (decide (deepBase ≤ t) && decide (t + n ≤ 0x10000000))

/-- Bytes at a tile address of a package logical tile. -/
def Work.tBytes (w : Work) (n t len : Nat) : List Byte := w.rdBytes (tileAddr n t) len

/-- A little-endian number at a tile address. -/
def Work.tLe (w : Work) (n t len : Nat) : Nat := w.rdLe (tileAddr n t) len

/-- A field of `len` bytes at offset `off` of the descriptor at near address `d`. -/
def Work.field (w : Work) (n d off len : Nat) : Nat := w.tLe n (d + off) len

/-! ### Reading for a move (R167, R332, R345, R350) -/

/-- A move reads bytes at a package address: they count, and a byte marked poisoned poisons the attempt. -/
def Work.read (w : Work) (m : Mover) (a n : Nat) : List Byte × Work :=
  let (bs, w') := w.load a n
  (bs, if w.rdPoison a n then w'.poison m.c (if inHbm a then 2 else 3) else w')

/-- Some byte of a context range reaches its reader poisoned (R332, R358). -/
def Work.ctxBad (w : Work) (c a n : Nat) (u : List Upset) : Bool :=
  (w.spans c a a n false none).1.any (fun p =>
    if ownSlot w.s p.2.2 then w.badRange u (pkgAddr p.2.2) p.2.1 else remoteBad u p.2.2 p.2.1)

/-- A move reads a context range by as many accesses as it takes: its bytes and whether they come poisoned. A walk or
translation fault stops the context, and the unit writes its own record where it has one (R186, R211, R351). -/
def Work.readRangeBy (w : Work) (m : Mover) (a n : Nat) (u : List Upset) (record : Work → Work) :
    Option (List Byte × Bool) × Work :=
  match w.ctxRead m.c a n u with
  | (.error e, _) => (none, (record w).walkStop m.c a m.src e)
  | (.ok bs, w') =>
    let bad := w.ctxBad m.c a n u
    let w' := w'.askSpans (ctxTag w.s m.c) (w.spans m.c a a n false none).1
    (some (bs, bad), if bad then w'.poison m.c 2 else w')

/-- A move reads a context range with no record of its own. -/
def Work.readRange (w : Work) (m : Mover) (a n : Nat) (u : List Upset) : Option (List Byte × Bool) × Work :=
  w.readRangeBy m a n u (fun w => w)

/-- A move reads a context range by one access (R350). -/
def Work.readCtxBy (w : Work) (m : Mover) (a n : Nat) (u : List Upset) (record : Work → Work) : Option (List Byte × Bool) × Work :=
  match (w.access m.c a n false (walkError u)).2 with
  | some e => (none, (record w).walkStop m.c a m.src e)
  | none => w.readRangeBy m a n u record

/-- A move reads a context range by one access, with no record of its own. -/
def Work.readCtx (w : Work) (m : Mover) (a n : Nat) (u : List Upset) : Option (List Byte × Bool) × Work :=
  w.readCtxBy m a n u (fun w => w)

/-- A move writes a context range by as many accesses as it takes; a walk or translation fault stops the context. -/
def Work.writeRange (w : Work) (m : Mover) (a : Nat) (bs : List Byte) (poison : Bool) (u : List Upset) : Bool × Work :=
  match w.ctxWrite m.c (ctxTag w.s m.c) a bs poison (.move m.n m.index) u with
  | (.error e, _) => (false, w.walkStop m.c a m.src e)
  | (.ok _, w) => (true, w)

/-- A move writes a context range by one access (R350). -/
def Work.writeCtx (w : Work) (m : Mover) (a : Nat) (bs : List Byte) (poison : Bool) (u : List Upset) : Bool × Work :=
  match (w.access m.c a bs.length true (walkError u)).2 with
  | some e => (false, w.walkStop m.c a m.src e)
  | none => w.writeRange m a bs poison u

/-- A move writes bytes at a tile address of a package logical tile. -/
def Work.put (w : Work) (n t : Nat) (bs : List Byte) (poison : Bool) : Work := w.storeBytes (tileAddr n t) bs poison

/-! ### Reduction groups (R59, R146, R391–R395) -/

/-- An entry of REDUCTION_GROUPS (R391). -/
structure Group where
  tile : Nat
  mode : Nat
  axis : Nat
  step : Nat
  base : Nat
  count : Nat
  addr : Nat
  pos : Nat
  root : Nat
deriving DecidableEq, Repr

/-- Group `g` of a book. -/
def Work.group (w : Work) (b : Book) (g : Nat) : Option Group :=
  match w.sect b 5 with
  | none => none
  | some e =>
    if w.bookLe b e.off 2 ≤ g then none
    else
      let f := fun o k => w.bookLe b (e.off + 16 + 32 * g + o) k
      some
        { tile := f 0 1, mode := f 1 1, axis := f 2 1, step := f 3 1, base := f 4 2, count := f 6 2, addr := f 8 4
          pos := f 0xC 4, root := f 0x10 1 }

/-- How many groups a book has. -/
def Work.groupCount (w : Work) (b : Book) : Nat :=
  match w.sect b 5 with
  | none => 0
  | some e => w.bookLe b e.off 2

/-- The group whose slots a SLOT falls in, where it falls in one (R59). -/
def Work.slotGroup (w : Work) (c slot : Nat) : Option Group :=
  if slot = 0xFFFF then none
  else
    match (w.s.ctx c).running with
    | none => none
    | some b =>
      (List.range (w.groupCount b)).findSome? (fun g =>
        match w.group b g with
        | some q => if q.base ≤ slot ∧ slot < q.base + q.count then some q else none
        | none => none)

/-- The tile address of a staging offset of a package logical tile (R146). -/
def Work.stagingAddr (w : Work) (c n off : Nat) : Nat := 0x600000 - (w.footInForce c n).staging + off

/-- A coordinate along an axis: 1 X, 2 Y, 3 Z. -/
def Xyz.along (r : Xyz) (axis : Nat) : Nat := match axis with | 1 => r.x | 2 => r.y | _ => r.z

/-- A coordinate replaced along an axis. -/
def Xyz.with (r : Xyz) (axis v : Nat) : Xyz :=
  match axis with
  | 1 => { r with x := v }
  | 2 => { r with y := v }
  | _ => { r with z := v }

/-- Where a job of the job table has the role of a rank (R390, R493). -/
def Job.at (j : Job) (r : Xyz) : Xyz :=
  match j.moved.find? (fun p => p.1 = r) with
  | some p => p.2
  | none => { x := j.origin.x + r.x, y := j.origin.y + r.y, z := j.origin.z + r.z }

/-- Where the role of a rank of the context's job stands (R390, R493; log entry 18). -/
def roleAt (s : State) (x : Ctx) (r : Xyz) : Xyz :=
  let own := rankXyz (rankOf x)
  let here := s.here
  if r = own then here
  else
    match s.bank.jobs.find? (fun j => j.job = x.job) with
    | some j => j.at r
    | none =>
      let at_ : Xyz := { x := here.x + r.x - own.x, y := here.y + r.y - own.y, z := here.z + r.z - own.z }
      if s.form.away ∨ s.form.missing.contains at_ then rankXyz (Config.roleCoord x.job (rankNum r)) else at_

/-- The ranks that receive a contribution (R392). -/
def Group.targets (g : Group) (own shape : Xyz) : List Xyz :=
  let n := shape.along g.axis
  match g.mode with
  | 0 => [own]
  | 1 => [own.with g.axis g.root]
  | 2 => (List.range n).map (fun i => own.with g.axis i)
  | _ =>
    let step := if g.step < 128 then g.step else n * 256 + g.step - 256
    [own.with g.axis ((own.along g.axis + step) % Nat.max n 1)]

/-- The position of slot BASE + p in TARGET: its tile address (R392). -/
def Work.posAddr (w : Work) (c : Nat) (g : Group) (p : Nat) : Nat :=
  let n := pkgTile (w.s.ctx c) g.tile
  let at_ := g.addr + p * g.pos
  if g.mode ≤ 1 then w.stagingAddr c n at_ else at_

/-- A contribution for another package: COLLECTIVE packets, the arrival in the last (R395). -/
def Work.sendCollective (w : Work) (m : Mover) (mv : Nat) (dst : Xyz) (n addr : Nat) (bs : List Byte) (poison : Bool) : Work :=
  let ps := pieces224 bs.length
  w.each ps (fun w p =>
    let last := decide (p.1 + p.2 = bs.length)
    let k := mkPacket w.s 6 p.2 dst (tileAddr n (addr + p.1)) 0 (slice bs p.1 p.2)
    let k := { k with poison := poison, sig := last && mvSigEn mv, sigTally := mvSignal mv, sigTile := n }
    w.send (.parcel { vc := 0, tag := ctxTag w.s m.c, pkt := k }))

/-- A position of a group lies inside its target's footprints (R396). -/
def Work.posOk (w : Work) (c : Nat) (g : Group) (p len : Nat) : Bool :=
  let x := w.s.ctx c
  let f := w.footInForce c (pkgTile x g.tile)
  let at_ := g.addr + p * g.pos
  decide (g.tile < 11 * regionCount x) &&
  (if g.mode ≤ 1 then decide (at_ + len ≤ f.staging)
    else decide (at_ + len ≤ f.near) || (decide (deepBase ≤ at_) && decide (at_ + len ≤ deepBase + f.deep)))

/-- A contribution goes to every place of its group (R392–R395): the tiles here that receive data, and the work. A position
outside its target's footprints is UNPREDICTABLE (R396), and writes no other context's tile (R5). -/
def Work.contribute (w : Work) (m : Mover) (mv : Nat) (g : Group) (bs : List Byte) (poison : Bool) : List Nat × Work :=
  let x := w.s.ctx m.c
  let own := rankXyz (rankOf x)
  let p := mvSlot mv - g.base
  let n := pkgTile x g.tile
  let addr := w.posAddr m.c g p
  if (g.mode = 1 ∨ g.mode = 2) ∧ own.along g.axis ≠ p then ([], w.fail 392)
  else if ¬ w.posOk m.c g p bs.length then ([], w.fail 396)
  else
    let to_ := g.targets own (w.shapeOf m.c)
    (if to_.contains own then [n] else [],
      w.each to_ (fun w r =>
        if r = own then w.put n addr bs poison else w.sendCollective m mv (roleAt w.s x r) n addr bs poison))

/-- A move's output: to its group where its SLOT falls in one, else by `own` to its own destination (R59, R393). -/
def Work.output (w : Work) (m : Mover) (mv : Nat) (bs : List Byte) (poison : Bool) (own : Work → Work) : List Nat × Work :=
  match w.slotGroup m.c (mvSlot mv) with
  | some g => w.contribute m mv g bs poison
  | none => ([m.n], own w)

end Sys2Proof.Machine
end

