-- ==== Sys2Proof/Machine/Sequencer.lean ====
section
/-! DEFINITION. The tile sequencer (chapter 02, R42–R71): heads, waits, issue, completion, arrivals, tally faults, the
sequencer moves, and the trace entries of a tile (R526–R528). -/

namespace Sys2Proof.Machine

/-! ### Idle and move counters (R523) -/

/-- The key of counter `i` of a context's idle block: 0–9 the causes, 10 ACTIVE, 11 MOVES. -/
def idleKey (c n i : Nat) : Nat := (c * 132 + n) * 16 + i

/-- A counter of an idle block moves on. -/
def Work.countIdle (w : Work) (c n i k : Nat) : Work :=
  { w with s.idleNs := w.s.idleNs.put 0 (idleKey c n i) (wrapAdd 64 (w.s.idleNs.get 0 (idleKey c n i)) k) }

/-! ### Heads (R44, R47, R54) -/

/-- The head move of a tile, once fetched. -/
def headOf (s : State) (n : Nat) : Option Nat := let t := s.tile n; t.buffer.get none t.pos

/-- The next position after the move at `pos`: loops whose body ends there start again or end (R47). -/
def stepPos : List Loop → Nat → Nat × List Loop
  | [], p => (p, [])
  | l :: ls, p =>
    if p ≠ l.start + l.len then (p, l :: ls)
    else if 0 < l.left then (l.start, { l with left := l.left - 1, iter := l.iter + 1 } :: ls)
    else stepPos ls p

/-- The stream moves past its head; one that has ended stays at its SEQ_END. -/
def Tile.advance (t : Tile) : Tile :=
  if t.ended then t
  else
    let (p, ls) := stepPos t.loops (t.pos + 1)
    { t with pos := p, loops := ls }

/-- A tally fault (R54–R57, R71): kind 1 overflow, 2 underflow, 3 stall. The record's and the register's layouts have no bits
for the loops' iteration numbers, which R48 reports with the move index: they are kept in `faultIter` (log entry 33). -/
def Work.tallyFault (w : Work) (c n kind tally count : Nat) : Work :=
  let t := w.s.tile n
  let exp := match headOf w.s n with | some m => expectOn m tally | none => 0
  let p := hostMesh w.s n
  let w := w.recordCtx (0x1000 + kind) 4 (srcTile p) (n + tally * 2 ^ 8) t.pos (lowBits 16 count + exp * 2 ^ 16) (some c)
  let w := w.modPh p (fun g =>
    { g with
      fault := kind + tally * 4 + (t.pos % 2 ^ 22) * 2 ^ 10, faultCnt := lowBits 16 count + exp * 2 ^ 16, faultIter := iterOf t })
  (w.poison c 1).stopTiles c

/-- A move becomes head: a count above its expected count is an overflow (R54), and a move that would consume one tally twice
is an underflow (R55; that the fault is raised here, before the waits are met, is log entry 34). -/
def Work.becomeHead (w : Work) (c n : Nat) : Work :=
  let t := w.s.tile n
  if t.ended ∨ t.stopped then w
  else
    match headOf w.s n with
    | none => w
    | some m =>
      match overWait t m with
      | none => if doubleUse m then w.tallyFault c n 2 (mvWaitA m) (t.tallies.get 0 (mvWaitA m)) else w
      | some k => w.tallyFault c n 1 k (t.tallies.get 0 k)

/-! ### Which unit can accept a move (R44, R45, R129, R205) -/

/-- Package logical tiles that a physical tile hosts, ascending. -/
def hostedTiles (s : State) (p : Nat) : List Nat :=
  let r := regionOfMesh p
  ((List.range 11).filter (fun k => decide ((s.region r).map.getD k 12 = indexOfMesh p))).map (fun k => 11 * r + k)

/-- The other logical tile of a tile in doubles. -/
def partnerOf (s : State) (n : Nat) : Option Nat :=
  let r := n / 11
  ((List.range 11).map (fun k => 11 * r + k)).find? (fun k => decide (k ≠ n) && decide (hostMesh s k = hostMesh s n))

/-- The logical tiles that share the tile's physical tile, itself among them (R68). -/
def sharers (s : State) (n : Nat) : List Nat := match partnerOf s n with | none => [n] | some k => [n, k]

/-- Moves of a tile's stream that hold a unit of their own tile. -/
def ownFlights (t : Tile) (u : UnitKind) : List Flight := t.flights.filter (fun f => f.unit = u && f.thief.isNone)

/-- No move of a tile's own streams holds its unit: each physical unit serves both streams of a tile in doubles (R45, R68). -/
def unitIdle (s : State) (n : Nat) (u : UnitKind) : Bool := (sharers s n).all (fun k => (ownFlights (s.tile k) u).isEmpty)

/-- A stolen move runs on the tile's unit (R205). -/
def guestOn (s : State) (n : Nat) (u : UnitKind) : Bool :=
  (List.range 132).any (fun k => (s.tile k).flights.any (fun f => (sharers s n).any (fun j => f.thief = some j) && f.unit = u))

/-- The unit can accept the move: it runs nothing, or only a move that is leaving through the drain buffer; a gather
move needs its stream; the prefetcher lets its moves overlap (R44, R129, R182, R209). -/
def unitFree (s : State) (n m : Nat) : Bool :=
  let u := unitOf (mvClass m)
  match u with
  | .sequencer => true
  | .prefetcher => true
  | .gather => (sharers s n).all (fun k => ((s.tile k).streams.get none (mvStream m)).isNone) && !guestOn s n u
  | .array =>
    (sharers s n).all (fun k => (ownFlights (s.tile k) u).all (fun f => f.out = 2 || (s.tile k).drain = some f.index)) &&
    !guestOn s n u
  | _ => unitIdle s n u && !guestOn s n u

/-- The reserve page, of 64 KiB, that holds the start of a move's descriptor: near-store pages come first (R69; log entry
15). -/
def descPage (m : Nat) : Nat := mvDesc m / 65536

/-- The page that a move of a tile in doubles reads first, its descriptor's, is resident (R69; log entry 35). Only the
higher of the two logical tiles keeps its contents in the reserve. -/
def pageHere (s : State) (n m : Nat) : Bool :=
  !(doubled (s.region (n / 11)).map).contains (n % 11) || decide (mvClass m < 0x08) || (s.tile n).pages.contains (descPage m)

/-- The tile could issue if its region ran: its stream runs in a live attempt of its region's context, and no full trace queue
holds it (R44, R57, R257, R471, R528). -/
def couldIssue (s : State) (c n : Nat) : Bool :=
  let t := s.tile n
  t.active && !t.ended && !t.stopped && (s.ctx c).turn.live && decide ((s.region (n / 11)).holder = some c) &&
  !(traceLossless s c && decide (64 ≤ t.traceq.length))

/-- The tile may issue at all: its region runs too, and no limiter holds it (R65, R67). -/
def mayIssue (s : State) (c n : Nat) : Bool :=
  let g := s.region (n / 11)
  couldIssue s c n && g.runs? && decide (g.holdUntil ≤ s.now)

/-- The head's waits are met, its unit is free and its page is resident (R44, R69). -/
def headFits (s : State) (n : Nat) : Bool :=
  match headOf s n with
  | none => false
  | some m => waitsMet (s.tile n) m && unitFree s n m && pageHere s n m

/-- The head has its waits met and its unit free, and the tile may issue. -/
def headReady (s : State) (c n : Nat) : Bool := mayIssue s c n && headFits s n

/-- In doubles, the ready head of the stream that issued less recently goes first (R68). -/
def yieldsTo (s : State) (c n : Nat) : Bool :=
  match partnerOf s n with
  | none => false
  | some k => decide ((s.tile n).lastIssue = 1) && headReady s c k

/-! ### Check units (R142, R203, R481) -/

/-- D of a check fraction (R480): 0 for none. -/
def checkEvery (f : Nat) : Nat := match f with | 1 => 64 | 2 => 16 | 3 => 4 | 4 => 1 | _ => 0

/-- A check unit is checked: its number selects it, or its physical tile is SUSPECT (R142, R481). -/
def unitChecked (s : State) (m : Mover) (k : Nat) : Bool :=
  let x := s.ctx m.c
  let d := checkEvery x.fraction
  (decide (0 < d) && decide ((k + x.turn.attempt) % d = 0)) || isSuspect s (.tile m.phys)

/-- The errors that a move's units can meet: a check fails only in a unit of the move that is checked, and the residue checker
covers only what R141 gives it (`residue`); the rest is checked by duplicate execution. -/
def metErrors (s : State) (m : Mover) (first units : Nat) (residue : Bool) (u : List Upset) : List Upset :=
  u.filter (fun e => match e with
    | .check k dup => (dup || residue) && decide (first ≤ k) && decide (k < first + units) && unitChecked s m k
    | _ => true)

/-! ### Issue (R44, R50, R51) -/

/-- What a move does at its issue beside its effect: tiles of this package that receive its data, whether it touches
HBM, its check units and whether the residue checker covers them (R141), the ONCE bit it sets, whether it drains output, whether it completes at issue, and whether
its class delivers no arrival here. `out` is as in Flight; `split`: its tiles get their arrivals each in its own time (R233). -/
structure Effect where
  tiles : List Nat := []
  hbm : Bool := false
  units : Nat := 0
  residue : Bool := false
  once : Option Nat := none
  out : Nat := 0
  done : Bool := false
  quiet : Bool := false
  split : Bool := false
deriving DecidableEq, Repr

/-- The arrivals of a move (R51): one for each tile that receives data, or one for its own tile. -/
def arrivalsOf (n m : Nat) (e : Effect) : List (Nat × Nat) :=
  if ¬ mvSigEn m ∨ e.quiet then []
  else ((if e.tiles.isEmpty then [n] else e.tiles).map (fun t => (t, mvSignal m)))

/-- A move leaves the head of tile `n`: its waits are consumed and the stream moves on (R50); the progress window starts
again (R56). -/
def Work.fire (w : Work) (c n m : Nat) : Work :=
  let t := w.s.tile n
  let w := w.trace c n 0 (mvClass m) 0 0 t.pos
  let w := w.countIdle c n 11 1
  let w := w.modCtx c (fun x => { x with turn := { x.turn with quietNs := 0 } })
  let w := match partnerOf w.s n with
    | none => w
    | some k => w.modTile k (fun q => { q with lastIssue := 0 })
  w.modTile n (fun t => { consumeWaits t m with lastIssue := 1, offers := [], ask := none })

/-- The stacks whose byte counts differ between two states: those that a command between them has read or written (R343). -/
def touched (a b : State) : List Nat :=
  (List.range 12).filter (fun k => decide ((a.stack k).rd ≠ (b.stack k).rd) || decide ((a.stack k).wr ≠ (b.stack k).wr))

/-- The drain buffer of the tile's physical tile is free (R68, R129). -/
def drainFree (s : State) (n : Nat) : Bool := (sharers s n).all (fun k => (s.tile k).drain.isNone)

/-- The flights of a move: one, or one for each tile whose arrival comes in its own time (R233). -/
def Flight.parts (f : Flight) (e : Effect) : List Flight :=
  if ¬ e.split ∨ e.tiles.isEmpty then [f]
  else e.tiles.map (fun o => { f with arrivals := f.arrivals.filter (fun a => a.1 = o), owner := some o })

/-- A move's effect is done: errors are met, its flight or its arrivals are noted. `before` is the state before the effect. -/
def Work.launch (w : Work) (mv : Mover) (m : Nat) (e : Effect) (u : List Upset) (thief : Option Nat) (before : State) : Work :=
  let t := w.s.tile mv.n
  let errs := metErrors w.s mv t.check e.units e.residue u
  let w := w.modTile mv.n (fun t => { t with check := t.check + e.units })
  let w := if e.out = 3 then w else w.meets mv errs
  let arr := arrivalsOf mv.n m e
  let w :=
    if e.done then { w with s.arrivals := w.s.arrivals ++ arr }
    else
      let f : Flight :=
        { index := mv.index, cls := mvClass m, unit := unitOf (mvClass m), arrivals := arr, thief := thief, once := e.once
          hbm := e.hbm, out := e.out, errs := if e.out = 3 then u else [], used := touched before w.s }
      let free := drainFree w.s mv.n
      w.modTile mv.n (fun t =>
        { t with
          flights := t.flights ++ f.parts e
          drain := if e.out = 1 ∧ free ∧ thief.isNone then some mv.index else t.drain })
  w

/-- The classes whose output may go to a reduction slot (R393). -/
def mayContribute (m : Nat) : Bool :=
  let k := mvClass m
  k = 0x08 || (decide (0x10 ≤ k) && decide (k ≤ 0x14)) || k = 0x18 || (k = 0x19 && !bit m 105)

/-- The source of the unit that runs a class: the tile, or the region for its Spinner, prefetcher and update unit
(R505). -/
def unitSource (n phys cls : Nat) : Nat :=
  match unitOf cls with
  | .spinner => srcRegion (n / 11)
  | .prefetcher => srcRegion (n / 11)
  | .update => srcRegion (n / 11)
  | _ => srcTile phys

/-- The head of tile `n` issues where it can: `fits` says the command is for its class, `f` is its class's effect. -/
def Work.issue (w : Work) (c n : Nat) (u : List Upset) (fits : Nat → Bool) (f : Mover → Nat → Work → Effect × Work) : Work :=
  match headOf w.s n with
  | none => w
  | some m =>
    if ¬ headReady w.s c n ∨ ¬ fits m ∨ yieldsTo w.s c n then w
    else if ¬ mayContribute m ∧ (w.slotGroup c (mvSlot m)).isSome then w.fail 393
    else if doubleUse m then w.tallyFault c n 2 (mvWaitA m) ((w.s.tile n).tallies.get 0 (mvWaitA m))
    else
      let mv : Mover := { c := c, n := n, phys := hostMesh w.s n, index := (w.s.tile n).pos, src := unitSource n (hostMesh w.s n) (mvClass m) }
      let w := w.fire c n m
      let before := w.s
      let (e, w) := f mv m w
      let w := w.launch mv m e u none before
      (w.modTile n (·.advance)).becomeHead c n

/-- The head issues where its class is the one named. -/
def Work.issueClass (w : Work) (c n cls : Nat) (u : List Upset) (f : Mover → Nat → Work → Effect × Work) : Work :=
  w.issue c n u (fun m => decide (mvClass m = cls)) f

/-! ### Arrivals and the end of an attempt (R49, R52, R54) -/

/-- Every stream of the package has issued SEQ_END, every issued move has completed and every arrival is counted: a
tally that is not zero is then an overflow (R54). Where several are, the record names the lowest such tally of the lowest such
tile: DESIGN CHOICE (log entry 36). -/
def Work.judgeEnd (w : Work) (c : Nat) : Work :=
  let ts := (ctxTiles (w.s.ctx c)).filter (fun n => (w.s.tile n).active)
  if (w.s.ctx c).turn.live ∧ ts.all (fun n => (w.s.tile n).ended && (w.s.tile n).flights.isEmpty) ∧
      ¬ w.s.arrivals.any (fun a => ts.contains a.1) then
    match ts.find? (fun n => !(w.s.tile n).tallies.isEmpty) with
    | none => w
    | some n =>
      match (w.s.tile n).tallies with
      | [] => w
      | (k, v) :: _ => w.tallyFault c n 1 k v
  else w

/-- An arrival is counted (R49, R54). -/
def Work.countArrival (w : Work) (c n tally : Nat) : Work :=
  let t := w.s.tile n
  let v := t.tallies.get 0 tally
  if v = 0xFFFF then w.tallyFault c n 1 tally v
  else
    let w := w.modTile n (fun t => { t with tallies := t.tallies.put 0 tally (v + 1) })
    match headOf w.s n with
    | none => w
    | some m =>
      let w := if waitsMet (w.s.tile n) m then w.modTile n (fun t => { t with offers := [] }) else w
      let above : Bool := match overWait (w.s.tile n) m with | some k => decide (k = tally) | none => false
      if above ∧ ¬ t.ended ∧ ¬ t.stopped then w.tallyFault c n 1 tally (v + 1) else w

/-- The list without its first element equal to `x`. -/
def dropOne (x : Nat × Nat) (xs : List (Nat × Nat)) : List (Nat × Nat) := dropFirst (fun y => y = x) xs

/-- ARRIVAL_COUNTED (R49, R52, R53): an arrival of the running attempt is counted at its tile. -/
def execArrivalCounted (c t tally : Nat) (s : State) : Host.Outcome State Fault Refusal :=
  run s (fun w =>
    if ¬ s.arrivals.contains (t, tally) then w
    else
      let w := { w with s.arrivals := dropOne (t, tally) s.arrivals }
      if ¬ (s.ctx c).turn.live ∨ ¬ (s.tile t).active ∨ (s.region (t / 11)).holder ≠ some c then w
      else (w.countArrival c t tally).judgeEnd c)

/-- A flight of a tile cannot complete yet: an earlier move of its unit has not, output or a record is awaited, packets or blocks
of its move are, or a stack it uses is in self refresh (R45, R129, R233, R281, R318, R357). -/
def Flight.blocked (f : Flight) (s : State) (c t : Nat) : Bool :=
  let x := s.tile t
  (x.flights.takeWhile (fun g => g ≠ f)).any (fun g => g.unit = f.unit && g.thief.isNone && f.unit ≠ .gather && f.unit ≠ .prefetcher) ||
  f.out = 1 || f.out = 3 ||
  s.requests.any (fun q => q.owner = .move t f.index) ||
  s.resident.any (fun q => q.ctx = c && q.tile = t && q.wanted = some f.index && (f.owner.isNone || f.owner = some q.owner)) ||
  f.used.any (fun k => decide ((s.stack k).st = 2))

/-- MOVE_COMPLETION (R45, R51, R65, R129, R162, R233, R318): the first flight of the index that nothing holds back completes; its
arrivals are due. -/
def execMoveCompletion (c t index : Nat) (s : State) : Host.Outcome State Fault Refusal :=
  run s (fun w =>
    match (s.tile t).flights.find? (fun f => f.index = index && f.thief.isNone && !f.blocked s c t) with
    | none => w
    | some f =>
      let w := w.modTile t (fun x =>
        { x with
          flights := dropFirst (fun g => g = f) x.flights
          once := match f.once with | some i => x.once ||| 2 ^ i | none => x.once
          streams := x.streams.filter (fun p => match p.2 with
            | some q => q.index ≠ index || f.unit ≠ .gather || q.guest
            | none => true) })
      let w := { w with s.arrivals := w.s.arrivals ++ f.arrivals }
      let w := if (w.s.tile t).flights.any (fun g => g.index = index && g.thief.isNone) then w else w.trace c t 1 f.cls 0 0 index
      (w.tryEntry (t / 11)).judgeEnd c)

/-- The next output that waits for the drain buffer, of the tile's own stream first. -/
def nextDrain (s : State) (n : Nat) : Option (Nat × Nat) :=
  (sharers s n).findSome? (fun k =>
    ((s.tile k).flights.find? (fun f => f.out = 1 && f.thief.isNone)).map (fun f => (k, f.index)))

/-- DRAIN_DONE (R129): the drain buffer is empty; the next output enters it. -/
def execDrainDone (c t : Nat) (s : State) : Host.Outcome State Fault Refusal :=
  run s (fun w =>
    let x := s.tile t
    match x.drain with
    | none => w
    | some i =>
      if (s.region (t / 11)).holder ≠ some c then w
      else
        let fs := x.flights.map (fun f => if f.index = i ∧ f.unit = .array ∧ f.thief.isNone then { f with out := 2 } else f)
        let w := w.setTile t { x with flights := fs, drain := none }
        match nextDrain w.s t with
        | none => w
        | some (k, i) => w.modTile k (fun y => { y with drain := some i }))

/-- The moves that the 32 KiB move buffer of a stream holds (R43). -/
def bufferMoves : Nat := 2048

/-- Move `n` enters the move buffer. A full buffer gives up the move with the lowest index but the head: which one is DESIGN
CHOICE, of time only (log entry 37). -/
def Tile.buffered (t : Tile) (n m : Nat) : Tile :=
  let old := if t.buffer.length < bufferMoves then t.buffer
    else match t.buffer.find? (fun p => p.1 ≠ t.pos) with
      | some p => t.buffer.put none p.1 none
      | none => t.buffer
  { t with buffer := old.put none n (some m) }

/-- MOVE_FETCH_DONE (R43, R168, R338): move `n` of the stream is in the move buffer. An error of the fetch is corrected, or
served from the store's second copy, and poisons nothing by itself. -/
def execMoveFetchDone (c t n : Nat) (u : List Upset) (s : State) : Host.Outcome State Fault Refusal :=
  run s (fun w =>
    let x := s.ctx c
    match x.running with
    | none => w
    | some b =>
      match w.stream b (ctxTile x t) with
      | none => w
      | some e =>
        if e.size / 16 ≤ n ∨ ¬ (s.tile t).active ∨ ((s.tile t).buffer.get none n).isSome then w
        else
          let m := w.bookLe b (e.off + 16 * n) 16
          let w := w.modTile t (·.buffered n m)
          let w := w.meetsHost (srcTile (hostMesh s t)) u
          if (s.tile t).pos = n then w.becomeHead c t else w)

/-! ### Sequencer moves (R46) -/

/-- SEQ_NOP. -/
def execSeqNop (c t : Nat) (s : State) : Host.Outcome State Fault Refusal :=
  run s (fun w => (w.issueClass c t 0x00 [] (fun _ _ w => ({ done := true }, w))))

/-- SEQ_END: the stream ends for this Turn (R46, R54). -/
def execSeqEnd (c t : Nat) (s : State) : Host.Outcome State Fault Refusal :=
  run s (fun w => (w.issueClass c t 0x01 [] (fun _ _ w =>
    ({ done := true }, w.modTile t (fun q => { q with ended := true })))).judgeEnd c)

/-- SEQ_LOOP (R46, R47): the trip count is taken at issue. -/
def execSeqLoop (c t : Nat) (s : State) : Host.Outcome State Fault Refusal :=
  run s (fun w => w.issueClass c t 0x02 [] (fun _ m w =>
    let len := bits m 93 82
    let trips := if bit m 94 then (w.s.tile t).trips.get 0 (bits m 97 95) else bits m 110 95
    ({ done := true }, w.modTile t (fun q =>
      if trips = 0 then { q with pos := q.pos + len }
      else { q with loops := { start := q.pos + 1, len := len, left := trips - 1, iter := 0 } :: q.loops }))))

/-- SEQ_TRIP (R46, R47): a trip register takes the low 16 bits of a near-store word. -/
def execSeqTrip (c t : Nat) (u : List Upset) (s : State) : Host.Outcome State Fault Refusal :=
  run s (fun w => w.issueClass c t 0x03 u (fun mv m w =>
    let at_ := 4 * bits m 105 85
    if ¬ tileAddrOk at_ 4 then ({}, w.fail 144)
    else
      let (bs, w) := w.read mv (tileAddr t at_) 4
      ({}, w.modTile t (fun q => { q with trips := q.trips.put 0 (bits m 84 82) (lowBits 16 (ofLe bs)) }))))

/-- SEQ_TALLY (R46, R49, R54, R55). -/
def execSeqTally (c t : Nat) (s : State) : Host.Outcome State Fault Refusal :=
  run s (fun w => (w.issueClass c t 0x04 [] (fun _ m w =>
    let k := bits m 89 82
    let n := bits m 106 91
    let v := (w.s.tile t).tallies.get 0 k
    let set := fun x => w.modTile t (fun q => { q with tallies := q.tallies.put 0 k x })
    if bit m 90 then
      (if v < n then ({ done := true }, w.tallyFault c t 2 k v) else ({ done := true }, set (v - n)))
    else if 0xFFFF < v + n then ({ done := true }, w.tallyFault c t 1 k v)
    else ({ done := true }, set (v + n)))).judgeEnd c)

/-- SEQ_SIGNAL (R46, R51): one arrival at SIGNAL on TARGET_TILE. -/
def execSeqSignal (c t : Nat) (s : State) : Host.Outcome State Fault Refusal :=
  run s (fun w => w.issueClass c t 0x05 [] (fun _ m w =>
    let x := w.s.ctx c
    let to_ := bits m 89 82
    if ¬ mvSigEn m then ({ done := true }, w.fail 46)
    else if 11 * regionCount x ≤ to_ then ({ done := true }, w.fail 46)
    else ({ done := true, tiles := [pkgTile x to_] }, w)))

/-- SEQ_POWER (R46, R65, R66, R531, R532): REGION is a context region; a state deeper than DEEPEST is DEEPEST. -/
def execSeqPower (c t : Nat) (s : State) : Host.Outcome State Fault Refusal :=
  run s (fun w => w.issueClass c t 0x06 [] (fun _ m w =>
    let x := w.s.ctx c
    let k := bits m 85 82
    if regionCount x ≤ k then ({ done := true }, w.fail 46)
    else
      let t := Pwr.ofNum (Nat.min (bits m 87 86) x.deepest.num)
      ({ done := true }, w.powerRequest (ctxRegion x k) t (bits m 95 88))))

/-- SEQ_WINDOW (R46, R63): SCOPE 1 is honoured only from T0, and KINDS bit 3 only at SCOPE 1. -/
def execSeqWindow (c t : Nat) (s : State) : Host.Outcome State Fault Refusal :=
  run s (fun w => w.issueClass c t 0x07 [] (fun _ m w =>
    let pkg := bit m 82 && decide (ctxTile (w.s.ctx c) t = 0)
    let len := bits m 102 83
    let kinds := bits m 106 103
    if len = 0 then ({ done := true }, w.fail 46)
    else
      let v : Window :=
        { region := if pkg then none else some (t / 11), kinds := if pkg then kinds else kinds % 8, start := w.s.now
          stop := w.s.now + len, ran := [] }
      ({ done := true }, { w with s.windows := w.s.windows ++ [v] })))

/-- WINDOW_END (R63): the windows of a scope whose time has passed close. -/
def execWindowEnd (region : Option Nat) (s : State) : Host.Outcome State Fault Refusal :=
  run s (fun w =>
    { w with s.windows := s.windows.filter (fun v => !(decide (v.region = region) && decide (v.stop ≤ s.now))) })

/-! ### Stalls and doubles (R56, R69) -/

/-- The progress window of the context's Rulebook, in ns (R33, R56). -/
def Work.progressNs (w : Work) (c : Nat) : Nat :=
  match (w.s.ctx c).running with
  | none => 0
  | some b => w.bookLe b 0x10 2 * 1000000

/-- A region of the context is waking (R56). -/
def waking (s : State) (x : Ctx) : Bool := (setBits 12 x.mask).any (fun r => (s.region r).waking.isSome)

/-- The tally that a stalled head waits on: the first of its waits that is not met, 0 where it has none or is not fetched.
R56 and R516 name one tally and no rule says which: DESIGN CHOICE (log entry 36). -/
def stallTally (s : State) (n : Nat) : Nat :=
  match headOf s n with
  | some m => if waitMet (s.tile n) (mvWaitA m) (mvExpA m) then (if waitMet (s.tile n) (mvWaitB m) (mvExpB m) then 0 else mvWaitB m) else mvWaitA m
  | none => 0

/-- TALLY_STALL (R56, R57): no move has issued for PROGRESS_MS; the record names the head of the lowest stalled tile. -/
def execTallyStall (c : Nat) (s : State) : Host.Outcome State Fault Refusal :=
  run s (fun w =>
    let x := s.ctx c
    if ¬ x.turn.live ∨ waking s x ∨ x.turn.quietNs < w.progressNs c then w
    else
      match (sortNat (ctxTiles x)).find? (fun n => (s.tile n).active && !(s.tile n).ended) with
      | none => w
      | some n => w.tallyFault c n 3 (stallTally s n) ((s.tile n).tallies.get 0 (stallTally s n)))

/-- The tile address of a reserve page's bytes, by its number: near store, then deep store (R69; log entry 15). -/
def pageAddr (page : Nat) : Nat := if page < 96 then page * 65536 else deepBase + (page - 96) * 65536

/-- The package address of a page's place in the doubles reserve (R69, R323; log entry 15). -/
def reserveAddr (s : State) (n page : Nat) : Nat :=
  let j := ((doubled (s.region (n / 11)).map).takeWhile (fun k => k ≠ n % 11)).length
  stackBase (n / 11) + reserveOff + j * doubleBytes + page * 65536

/-- DOUBLES_PAGE_IN (R69, R343): a 64 KiB page of a doubled tile becomes resident in the physical tile's stores in place of
another, whose bytes go to the reserve. The bytes of a page are the same wherever it is. -/
def execDoublesPageIn (t page evict : Nat) (s : State) : Host.Outcome State Fault Refusal :=
  run s (fun w =>
    if ¬ (doubled (s.region (t / 11)).map).contains (t % 11) ∨ 2144 ≤ page then w
    else
      let w := if (s.tile t).pages.contains evict then
          (w.copy (tileAddr t (pageAddr evict)) (reserveAddr s t evict) 65536).countHbm (reserveAddr s t evict) 65536 true
        else w
      let w := w.countHbm (reserveAddr s t page) 65536 false
      w.modTile t (fun q => { q with pages := insertNat page (q.pages.filter (fun p => p ≠ evict)) }))

/-! ### Lane steals and the row cache moves (R159, R172, R189) -/

/-- ST_RC, OP 0: every COUNT of the physical tile's row cache becomes 0 (R155, R172). -/
def execStRcClear (c t : Nat) (s : State) : Host.Outcome State Fault Refusal :=
  run s (fun w => w.issue c t [] (fun m => decide (mvClass m = 0x1D) && !bit m 82) (fun mv _ w =>
    ({ done := true }, w.modPh mv.phys (fun q =>
      { q with rc := q.rc.map (fun p => (p.1, { p.2 with ways := p.2.ways.map (fun y => { y with count := 0 }) })) }))))

/-- Every sector of a row cache becomes invalid (R172). -/
def Phys.ghost (q : Phys) : Phys :=
  { q with rc := q.rc.map (fun p => (p.1, { p.2 with ways := p.2.ways.map (fun y => { y with svalid := 0 }) })) }

/-- ST_RC, OP 1: ghosting (R155, R172). -/
def execStRcGhost (c t : Nat) (s : State) : Host.Outcome State Fault Refusal :=
  run s (fun w => w.issue c t [] (fun m => decide (mvClass m = 0x1D) && bit m 82) (fun mv _ w =>
    ({ done := true }, w.modPh mv.phys (·.ghost))))

/-- The streams as the world reports their progress: `left` gives untaken chunks, which only fall (R189). -/
def withLeft (ss : Table (Option GStream)) (left : List (Nat × Nat)) : Table (Option GStream) :=
  left.foldl (fun ss p =>
    match ss.get none p.1 with
    | some g => if g.helps.isNone then ss.put none p.1 (some { g with chunksLeft := Nat.min g.chunksLeft p.2 }) else ss
    | none => ss) ss

/-- The stream of a table with the most untaken chunks, the lowest of several; not `stream` itself (R189). -/
def busiest (ss : Table (Option GStream)) (stream : Nat) : Option (Nat × GStream) :=
  ((List.range 16).filterMap (fun k => match ss.get none k with
    | some g => if 0 < g.chunksLeft ∧ k ≠ stream then some (k, g) else none
    | none => none)).foldl (fun (b : Option (Nat × GStream)) p =>
      match b with
      | none => some p
      | some q => if q.2.chunksLeft < p.2.chunksLeft then some p else some q) none

/-- LANE_STEAL_CHUNK (R189, R206): a helping stream ends its chunk; one that holds nothing takes the last chunk of the busiest
stream, which counts on the tile. -/
def execLaneStealChunk (c t stream : Nat) (left : List (Nat × Nat)) (take : Bool) (s : State) : Host.Outcome State Fault Refusal :=
  run s (fun w =>
    let x := s.tile t
    if 16 ≤ stream ∨ (s.region (t / 11)).holder ≠ some c then w
    else
      let helping := match x.streams.get none stream with | some g => g.helps.isSome | none => false
      let ss := withLeft (if helping then x.streams.put none stream none else x.streams) left
      let w := w.setTile t { x with streams := ss }
      match (if take && (sharers s t).all (fun k => ((w.s.tile k).streams.get none stream).isNone) then busiest ss stream else none) with
      | none => w
      | some (k, g) =>
        let ss := ss.put none k (some { g with chunksLeft := g.chunksLeft - 1 })
        let w := w.setTile t { x with streams := ss.put none stream (some { index := g.index, chunksLeft := 0, helps := some k }) }
        w.modPh (hostMesh s t) (fun p => { p with laneSteals := satAdd 32 p.laneSteals 1 }))

/-! ### Offers (R200) -/

/-- A tile may offer for a unit (R200): what is not a matter of cycles. -/
def mayOffer (s : State) (c n : Nat) (u : UnitKind) : Bool :=
  mayIssue s c n && (partnerOf s n).isNone && unitIdle s n u && !guestOn s n u &&
  (u = .array || u = .vector || u = .gather) &&
  (match headOf s n with | some m => !waitsMet (s.tile n) m | none => false)

end Sys2Proof.Machine
end

