-- ==== Sys2Proof/Machine/Regs.lean ====
section
/-! DEFINITION. The register view (R6, R444): every 32-bit register and 64-bit counter that a function, a service
program or the management processor reads, and function control (R442). -/

namespace Sys2Proof.Machine

/-- Fields packed into a register: (value, lowest bit). -/
def pack (fs : List (Nat × Nat)) : Nat := (fs.map (fun f => f.1 * 2 ^ f.2)).sum

/-! ### Hub blocks (R416, R428, R498, R557) -/

/-- The package holds a role of a job (R33, R416). -/
def holdsRole (s : State) : Bool := decide (s.form.roleJob ≠ 0xFFF)

/-- Hub system block (R416, R498). -/
def sysReg (s : State) (off : Nat) : Nat :=
  let f := s.form
  match off with
  | 0x0 => pack [(f.form, 0), (b2n f.banker, 2), (b2n f.standby, 3), (b2n (decide (f.form = 2) && !holdsRole s), 4), (f.epoch, 16)]
  | 0x4 => pack [(f.coord.x, 0), (f.coord.y, 4), (f.coord.z, 8), (f.ext.x - 1, 12), (f.ext.y - 1, 16), (f.ext.z - 1, 20)]
  | 0x8 => f.missing.length
  | 0xC => pack [(f.roleJob, 0), (rankNum f.roleRank, 12), (b2n f.rehomed, 24)]
  | _ => 0

/-- A signed value as 32 bits. -/
def int32 (x : Int) : Nat := (x % 2 ^ 32).toNat

/-- Hub time block, but for the 64-bit TIME_NOW (R416). -/
def timeReg (s : State) (off : Nat) : Nat :=
  let t := s.time
  match off with
  | 0x8 => pack [(t.state, 0), (b2n t.root, 2), (t.parent, 3), (t.hops, 6)]
  | 0xC => int32 t.offset
  | 0x10 => int32 t.parentDelay
  | _ => 0

/-- Threads in a state that a test admits. -/
def threadCount (s : State) (f : Thread → Bool) : Nat := (s.sched.threads.filter (fun p => f p.2)).length

/-- HUB_CORE_STATE of a core (R428). -/
def coreState (s : State) (k : Nat) : Nat :=
  let c := s.core k
  let stops := Nat.min 3 (c.stops.filter (fun t => decide (s.now < t + dayNs))).length
  match c.thread with
  | some t =>
    let th := s.thread t
    pack [((if th.prog.isSome then 2 else 1), 0), (t, 3), (th.prio, 13), (stops, 18)]
  | none => pack [((if c.retired then 5 else if c.halted then 3 else if c.takes then 0 else 4), 0), (stops, 18)]

/-- Hub scheduler block (R428). -/
def schedReg (s : State) (off : Nat) : Nat :=
  let d := s.sched
  if off = 0 then
    pack [(d.ready.length, 0), (threadCount s (fun t => decide (t.st ≠ .free)), 11),
      (((List.range 12).filter (fun k => (s.core k).waits)).length, 22)]
  else if off = 4 then pack [(d.affinityUs, 0), (d.quantum, 16)]
  else if off = 8 then d.preempts
  else if 0x100 ≤ off ∧ off < 0x180 then
    let p := (off - 0x100) / 4
    pack [((d.ready.filter (fun t => (s.thread t).prio = p)).length, 0),
      (threadCount s (fun t => decide (t.st = .blocked) && decide (t.prio = p)), 11)]
  else if 0x180 ≤ off ∧ off < 0x200 then
    let x := d.waits.get {} ((off - 0x180) / 4)
    pack [(x.maxLast, 0), (x.cntLast, 16)]
  else if 0x200 ≤ off ∧ off < 0x230 then (s.core ((off - 0x200) / 4)).load
  else if 0x240 ≤ off ∧ off < 0x270 then coreState s ((off - 0x240) / 4)
  else 0

/-- The hottest region: (temperature, region), the lowest number among equals (R557). -/
def hottest (s : State) : Nat × Nat :=
  (List.range 12).foldl (fun b r => if b.1 < (s.region r).temp then ((s.region r).temp, r) else b) ((s.region 0).temp, 0)

/-- Hub power block (R557). -/
def powerReg (s : State) (off : Nat) : Nat :=
  let p := s.power
  let any := fun (f : Region → Bool) => b2n ((List.range 12).any (fun r => f (s.region r)))
  match off with
  | 0x0 => pack [(p.capW, 0), (p.idle.num, 14), (p.windowMs, 16)]
  | 0x4 => pack [(p.powerW, 0), (b2n p.capActive, 12), (b2n p.curActive, 13), (any (fun g => decide (g.thermMhz < 1800)), 14),
      (any (·.issueHeld), 15)]
  | 0x8 => pack [(p.mv, 0), (p.amps, 11)]
  | 0xC => let h := hottest s; pack [(p.hubTemp, 0), (h.1, 12), (h.2, 24)]
  | 0x10 => pack [(s.boot.stage, 0), (s.boot.level, 3), (s.boot.cause, 6), (s.boot.mgtCopy, 10), (s.boot.hubCopy, 11)]
  | _ => 0

/-- Turn block of a context (R291). -/
def turnReg (s : State) (c off : Nat) : Nat :=
  let x := s.ctx c
  let t := x.turn
  match off with
  | 0x0 => t.num
  | 0x4 => pack [(t.attempt, 0), (t.phase, 8), (b2n t.slot, 11), (t.lastAction, 12), (b2n t.keepForce, 14),
      (b2n (!x.mirror.todo.isEmpty), 15), (b2n t.noClose, 16)]
  | 0x10 => t.updSat
  | _ => 0

/-! ### Region, stack, port blocks (R16, R235, R317, R343, R388, R488, R558) -/

/-- Whether a tracked unit is SUSPECT or RETIRED, as RGN_HEALTH shows an engine. -/
def healthOf (s : State) (u : UnitId) : Nat := if isRetired s u then 2 else if isSuspect s u then 1 else 0

/-- A bit for each physical index of a region that a test admits. -/
def indexMask (f : Nat → Bool) : Nat := ((List.range 12).map (fun i => b2n (f i) * 2 ^ i)).sum

/-- A unit of a region's Spinner or prefetcher kind holds a move of its region's tiles. -/
def regionUnitBusy (s : State) (r : Nat) (u : UnitKind) : Bool :=
  (List.range 11).any (fun k => (s.tile (11 * r + k)).flights.any (fun f => f.unit = u))

/-- Region block, 32-bit registers. -/
def regionReg (s : State) (r off : Nat) : Nat :=
  let g := s.region r
  let phys := fun k => g.map.getD k 0
  match off with
  | 0x000 => pack [(r, 0), (r / 3, 4), (r % 3, 6)]
  | 0x004 => pack ((List.range 8).map (fun k => (phys k, 4 * k)))
  | 0x008 => pack ((List.range 3).map (fun k => (phys (8 + k), 4 * k)))
  | 0x00C => pack [(indexMask (fun i => !survives s r i), 0), (factorySpare s r, 12), (b2n g.spareUsed, 16),
      ((doubled g.map).length, 17), (b2n g.lost, 21)]
  | 0x100 => pack [(b2n (regionUnitBusy s r .spinner), 0),
      (b2n (regionUnitBusy s r .prefetcher || s.resident.any (fun q => q.tile / 11 = r && !q.here)), 1), (b2n g.spnOvf, 2)]
  | 0x10C => g.dropped
  | 0x110 => g.pfHit
  | 0x114 => g.pfMiss
  | 0x118 => g.pfWaste
  | 0x11C => g.pfRows
  | 0x200 => g.tblReads
  | 0x204 => g.tblWrites
  | 0x208 => g.tblRetiers
  | 0x20C => g.tblFence
  | 0x300 => pack [(indexMask (fun i => isSuspect s (.tile (meshOf r i))), 0), (healthOf s (.spinner r), 12),
      (healthOf s (.update r), 14), (g.spnHost.getD r, 16), (g.updHost.getD r, 20)]
  | 0x304 => g.fails
  | 0x308 => g.runs
  | 0x400 => pack [(g.pwr.num, 0), (b2n (g.entering.isSome || g.waking.isSome), 2), (g.clock s.now, 3), (b2n (decide (g.thermMhz < 1800)), 14),
      (b2n (decide (s.power.capMhz < 1800) || decide (s.power.curMhz < 1800)), 15), (g.temp, 16)]
  | 0x404 => g.wakes
  | 0x408 => g.demand
  | _ => 0

/-- HBM stack block, 32-bit registers (R343). -/
def stackReg (s : State) (k off : Nat) : Nat :=
  let g := s.stack k
  match off with
  | 0x0 => pack [(g.st, 0), (b2n g.slow, 2), (retiredPages s k, 3), (b2n g.hot, 16)]
  | 0x4 => g.lanes
  | 0x8 => g.ce
  | 0xC => g.ue
  | 0x10 => g.lastErr
  | 0x14 => g.late
  | _ => 0

/-- Port block, 32-bit registers (R388). -/
def portReg (s : State) (p off : Nat) : Nat :=
  let g := s.port p
  match off with
  | 0x0 => pack [(g.st, 0), (g.txW, 3), (g.rxW, 8), (g.rxLanes, 13), (b2n g.slotMismatch, 29)]
  | 0x4 => pack [(g.pPort, 0), (g.pSlot, 3), (b2n g.pValid, 7)]
  | 0x8 => g.replays
  | 0xC => g.crcErr
  | 0x10 => g.degrades
  | 0x14 => g.delay
  | _ => 0

/-! ### Tile blocks (R71, R140, R174, R206) -/

/-- STATE of TILE_SEQ_STATUS for a logical tile (R71). -/
def seqState (s : State) (n : Nat) : Nat :=
  let t := s.tile n
  if t.stopped then 3
  else if ¬ t.active ∨ t.ended then 0
  else
    match headOf s n with
    | none => 2
    | some m => if waitsMet t m && unitFree s n m then 1 else 2

/-- Registers of the physical tile at mesh number `p`, by offset from its block. Of a doubled tile's two streams STATE shows the
first logical tile's: R71 does not say which, DESIGN CHOICE (log entry 47). An offer that no longer holds stands no longer (R200). -/
def tileReg (s : State) (p off : Nat) : Nat :=
  let hs := hostedTiles s p
  let t1 := match hs[0]? with | some n => s.tile n | none => {}
  let t2 := match hs[1]? with | some n => s.tile n | none => {}
  let g := s.ph p
  match off with
  | 0x000 => pack [((match hs[0]? with | some n => seqState s n | none => 0), 0), (b2n (decide (2 ≤ hs.length)), 2), (hs.getD 0 0, 3), (hs.getD 1 0, 11)]
  | 0x004 => t1.pos % 2 ^ 22
  | 0x008 => t2.pos % 2 ^ 22
  | 0x00C => g.fault
  | 0x010 => g.faultCnt
  | 0x100 => t1.flags
  | 0x104 => t1.satCnt
  | 0x108 => t1.t2inv
  | 0x110 => t2.flags
  | 0x114 => t2.satCnt
  | 0x118 => t2.t2inv
  | 0x200 => g.ecc
  | 0x204 => g.eccUe
  | 0x208 => g.eccLast
  | 0x20C => lowBits 32 t1.once
  | 0x210 => bits t1.once 63 32
  | 0x214 => lowBits 32 t2.once
  | 0x218 => bits t2.once 63 32
  | 0x300 =>
    let busy := ((List.range 16).map (fun k => b2n (hs.any (fun n => ((s.tile n).streams.get none k).isSome)) * 2 ^ k)).sum
    let offer := fun (u : UnitKind) => b2n (hs.any (fun n => (s.tile n).offers.contains u && (match (s.region (n / 11)).holder with | some c => mayOffer s c n u | none => false)))
    let hold := (List.range 132).any (fun k => (s.tile k).flights.any (fun f => match f.thief with | some q => hs.contains q | none => false))
    pack [(busy, 0), (offer .array, 16), (offer .vector, 17), (offer .gather, 18), (b2n hold, 19)]
  | 0x304 => g.gthRows
  | 0x308 => g.laneSteals
  | 0x30C => g.stealOut
  | 0x310 => g.stealIn
  | _ => 0

/-- A context may see a physical tile's blocks: its mask holds the tile's region and it holds that region (R444). -/
def seesTile (s : State) (c p : Nat) : Bool :=
  let r := regionOfMesh p
  bit (s.ctx c).mask r && decide ((s.region r).holder = some c)

/-! ### Scorepad block (R515) -/

/-- Scorepad control block. -/
def padReg (s : State) (off : Nat) : Nat :=
  let p := s.pad
  match off with
  | 0x0 => p.seq
  | 0x4 => p.oldest
  | 0x8 => p.recs.length
  | 0xC => p.dropped
  | 0x10 => pack [(p.storeMin, 0), (p.pushMin, 3), (b2n s.flash.mgtKey.isSome, 6), (b2n s.flash.clearKey.isSome, 7)]
  | 0x14 => p.clears
  | _ => 0

/-! ### The whole view (R444) -/

/-- The 64-bit counter whose low half lies at an offset of the view, as context `c` sees it. -/
def counter64 (s : State) (c off : Nat) : Option Nat :=
  if off = 0x1000 then some s.now
  else if off = 0x3000 then some s.pkgBytes
  else if off = 0x10000 + 0x100 * c + 8 then some (s.ctx c).turn.replays
  else if 0x100000 ≤ off ∧ off < 0x10C000 then
    (if off % 0x1000 = 0x104 then some (s.region ((off - 0x100000) / 0x1000)).edges else none)
  else if 0x200000 ≤ off ∧ off < 0x20C000 then
    let k := s.stack ((off - 0x200000) / 0x1000)
    match off % 0x1000 with
    | 0x18 => some k.rd
    | 0x20 => some k.wr
    | 0x28 => some k.sectors
    | _ => none
  else if 0x300000 ≤ off ∧ off < 0x306000 then
    let k := s.port ((off - 0x300000) / 0x1000)
    match off % 0x1000 with
    | 0x18 => some k.txBytes
    | 0x20 => some k.rxBytes
    | _ => none
  else if off = 0x2010000 then some s.pcieRx
  else if off = 0x2010008 then some s.pcieTx
  else if 0x2100000 ≤ off ∧ off < 0x2100000 + 0x100 * 132 then
    let n := (off - 0x2100000) / 0x100
    let o := off % 0x100
    if ¬ (ctxTiles (s.ctx c)).contains n then none
    else if o = 0 then some (s.idleNs.get 0 (idleKey c n 10))
    else if o = 0x58 then some (s.idleNs.get 0 (idleKey c n 11))
    else if 8 ≤ o ∧ o < 0x58 ∧ o % 8 = 0 then some (s.idleNs.get 0 (idleKey c n (o / 8 - 1)))
    else none
  else if 0x2200000 ≤ off ∧ off < 0x2200000 + 0x100 * 144 then
    let p := (off - 0x2200000) / 0x100
    if ¬ seesTile s c p then none
    else
      match off % 0x100 with
      | 0x00 => some (s.ph p).near
      | 0x08 => some (s.ph p).deep
      | 0x10 => some (s.ph p).rcHit
      | 0x18 => some (s.ph p).rcMiss
      | _ => none
  else none

/-- A 32-bit register of the view that is no half of a 64-bit counter, as context `c` sees it; a reserved offset or a
block that the context may not see reads zero (R444). -/
def plainReg (s : State) (c off : Nat) : Nat :=
  if off < 0x1000 then sysReg s off
  else if off < 0x2000 then timeReg s (off - 0x1000)
  else if off < 0x3000 then schedReg s (off - 0x2000)
  else if off < 0x4000 then 0
  else if off < 0x5000 then powerReg s (off - 0x4000)
  else if 0x10000 ≤ off ∧ off < 0x11000 then
    (if (off - 0x10000) / 0x100 = c then turnReg s c (off % 0x100) else 0)
  else if 0x100000 ≤ off ∧ off < 0x10C000 then regionReg s ((off - 0x100000) / 0x1000) (off % 0x1000)
  else if 0x200000 ≤ off ∧ off < 0x20C000 then stackReg s ((off - 0x200000) / 0x1000) (off % 0x1000)
  else if 0x300000 ≤ off ∧ off < 0x306000 then portReg s ((off - 0x300000) / 0x1000) (off % 0x1000)
  else if 0x1000000 ≤ off ∧ off < 0x1000000 + 0x1000 * 144 then
    let p := (off - 0x1000000) / 0x1000
    if seesTile s c p then tileReg s p (off % 0x1000) else 0
  else if 0x2000000 ≤ off ∧ off < 0x2001000 then padReg s (off - 0x2000000)
  else 0

/-- A read of the register view at an offset by a reader, as context `c` sees it (R6): a low half latches the high half
for its reader, and a high half returns what is latched. -/
def Work.readReg (w : Work) (reader c off : Nat) : Nat × Work :=
  match counter64 w.s c off with
  | some v => (lowBits 32 v, { w with s.latch := w.s.latch.put 0 reader (bits v 63 32) })
  | none =>
    if (counter64 w.s c (off - 4)).isSome ∧ 4 ≤ off then (w.s.latch.get 0 reader, w)
    else (lowBits 32 (plainReg w.s c off), w)

/-! ### Function control (R442) -/

/-- CMD_READY (R442). -/
def readyReg (s : State) : Nat :=
  pack [(b2n s.boot.fwReady, 0), (b2n s.boot.host, 1), (b2n s.boot.compute, 2), (b2n s.boot.system, 3), (b2n (decide (s.form.form = 2)), 4)]

/-- The context holds all its regions (R442, R471). -/
def holdsAll (s : State) (c : Nat) : Bool :=
  let x := s.ctx c
  decide (x.st ≠ .closed) && (setBits 12 x.mask).all (fun r => decide ((s.region r).holder = some c))

/-- The number of a context state (R442). -/
def CtxSt.num : CtxSt → Nat
  | .closed => 0
  | .opened => 1
  | .running => 2
  | .stopped => 3

/-- CMD_CTX_STATE (R442): 0 while the context is closed; JOB 0xFFF for a context in no job. -/
def ctxStateReg (s : State) (c : Nat) : Nat :=
  let x := s.ctx c
  if x.st = .closed then 0
  else pack [(x.st.num, 0), (b2n (holdsAll s c), 2), (b2n x.compat, 3), (lowBits 12 x.job, 4), (x.stopStatus, 16)]

/-- A register of a ring's block (R442). -/
def ringReg (s : State) (d off : Nat) : Nat :=
  let r := s.ring d
  match off with
  | 0x00 => lowBits 32 r.sqBase
  | 0x04 => bits r.sqBase 63 32
  | 0x08 => pack [(r.log2Slots, 0), (b2n r.enabled, 4)]
  | 0x10 => r.c
  | 0x14 => lowBits 32 r.cqBase
  | 0x18 => bits r.cqBase 63 32
  | 0x1C => r.log2Entries
  | 0x24 => r.t
  | 0x2C => pack [(b2n r.enabled, 0), (b2n r.flushing, 1), (b2n (!r.waiting.isEmpty), 2)]
  | _ => 0

/-- A register of function control, but for CMD_TIME and the MSI-X structures (R442). -/
def bar0Reg (s : State) (fn off : Nat) : Nat :=
  if off = 0x00 then readyReg s
  else if off = 0x04 then pack [(fn, 0), (b2n (decide (fn = 0)), 4), (4 * fn, 5)]
  else if off = 0x08 then b2n (s.fn fn).compat
  else if off = 0x0C then ctxStateReg s fn
  else if off = 0x20 then (s.fn fn).intCtrl
  else if off = 0x24 then (s.fn fn).intStatus
  else if 0x100 ≤ off ∧ off < 0x200 then ringReg s (4 * fn + (off - 0x100) / 0x40) ((off - 0x100) % 0x40)
  else 0

/-! ### Readers (R6, R431, R518) -/

/-- The reader number of a core: the thread it holds where it holds one (R6; log entry 19). -/
def coreReader (s : State) (k : Nat) : Nat := match (s.core k).thread with | some t => threadReader t | none => 16 + k

/-- The context whose view a reader sees: its function's, its program's, or the PF's. -/
def viewOf (s : State) (reader : Nat) : Nat :=
  if reader < 16 then reader
  else if reader < 28 then (match callerOf s (reader - 16) with | some (_, _, q) => q.ctx | none => 0)
  else 0

/-- The latch number of a reader: functions 0–15, cores 16–27 by their threads, the management processor 28. -/
def latchOf (s : State) (reader : Nat) : Nat :=
  if 16 ≤ reader ∧ reader < 28 then coreReader s (reader - 16) else reader

/-- A 64-bit counter at an offset: of the view, or CMD_TIME at BAR0 offset 0x10, named 0x0400_0000 + 0x10 (log entry
19). -/
def anyCounter (s : State) (reader off : Nat) : Option Nat :=
  if off = 0x4000010 ∧ reader < 16 then some s.now else counter64 s (viewOf s reader) off

/-- COUNTER_LOW_READ (R6): the low half is returned and the high half latched for the reader. `size` is the access's bytes: an
access that is not of 32 bits, or not aligned, is UNPREDICTABLE. -/
def execCounterLowRead (reader offset size : Nat) (s : State) : Host.Outcome State Fault Refusal :=
  run s (fun w =>
    if size ≠ 4 ∨ offset % 4 ≠ 0 then w.fail 6
    else match anyCounter s reader offset with
    | none => w
    | some v =>
      let k := latchOf s reader
      ({ w with s.latch := w.s.latch.put 0 k (bits v 63 32) }).send (.value reader (lowBits 32 v)))

/-- COUNTER_HIGH_READ (R6): the reader's latch is returned, whichever counter latched it. -/
def execCounterHighRead (reader offset size : Nat) (s : State) : Host.Outcome State Fault Refusal :=
  run s (fun w =>
    if size ≠ 4 ∨ offset % 4 ≠ 0 then w.fail 6
    else if offset < 4 ∨ (anyCounter s reader (offset - 4)).isNone then w
    else w.send (.value reader (s.latch.get 0 (latchOf s reader))))

/-- REG_READ (R431, R444): a service program reads the register view of its context. -/
def execSvcRegRead (core offset : Nat) (s : State) : Host.Outcome State Fault Refusal :=
  run s (·.call core (fun t _ q w =>
    if offset % 4 ≠ 0 then w.fail 6
    else
      let (v, w) := w.readReg (threadReader t) q.ctx offset
      w.answer core v))

end Sys2Proof.Machine
end

