-- ==== Sys2Proof/Machine/Admin.lean ====
section
/-! DEFINITION. Commands that read or steer the package as a whole: device queries, the Scorepad and its clear, counter
snapshots, traces, power policy, the management port and SMBus (chapters 15, 17 and 18). -/

namespace Sys2Proof.Machine

/-! ### Plain commands (R448, R454, R462) -/

/-- NOP (R454). -/
def execNop (h : Hdr) (s : State) : Host.Outcome State Fault Refusal :=
  run s (·.command h 0x00 0 false .always (fun a w => w.replyDone a))

/-- FENCE (R448): it replies once every earlier packet of its ring has. -/
def execFence (h : Hdr) (s : State) : Host.Outcome State Fault Refusal :=
  run s (·.command h 0x01 0 false .always (fun a w => (w.await a .fence true).settleFences a.ring 1))

/-- An opcode that R454 does not list: UNSUPPORTED_OPCODE comes before every other check (R466). -/
def execUnsupportedOpcode (h : Hdr) (opcode : Nat) (s : State) : Host.Outcome State Fault Refusal :=
  run s (fun w =>
    if ¬ canStart s h then w
    else
      let a := h.active s opcode h.fn
      (w.begin a).reply a stUnsupported 0 0 0)

/-- The straps as the device page shows them (R462). -/
def strapWord (s : State) : Nat :=
  pack [(b2n s.pins.bankerEn, 0), (b2n s.pins.standbyEn, 1), (s.pins.slot, 2), (b2n s.pins.legacy, 6)]

/-- The device nonce (R512). -/
def nonce (s : State) : List Byte := leBytes 8 Config.serial ++ leBytes 4 s.flash.bootCount ++ leBytes 4 s.mgt.authCount

/-- Free space of all twelve stacks, in MiB (R456, R462). -/
def freeTotal (s : State) : Nat := ((List.range 12).map (fun k => freeMib s k)).sum

/-- "GWERON" and two zero bytes (R462). -/
def familyBytes : List Byte := [0x47#8, 0x57#8, 0x45#8, 0x52#8, 0x4F#8, 0x4E#8, 0#8, 0#8]

/-- The device page as function `fn` reads it (R462). -/
def devicePage (s : State) (fn : Nat) : List Byte :=
  padTo 256 (familyBytes ++ leBytes 4 (2 + lowBits 8 Config.stepping * 2 ^ 16) ++
    leBytes 4 (bar0Reg s fn 4) ++ leBytes 8 Config.serial ++ leBytes 4 Config.fwVersion ++ leBytes 4 Config.mgtFwVersion ++
    leBytes 4 (strapWord s) ++ leBytes 4 s.pad.seq ++ nonce s ++
    leBytes 2 (indexMask (fun r => !(s.region r).lost)) ++ leBytes 2 0 ++ leBytes 4 (freeTotal s))

/-- DEV_QUERY (R462). -/
def execDevQuery (h : Hdr) (hostAddr : Nat) (refuse : Option Nat) (s : State) : Host.Outcome State Fault Refusal :=
  run s (·.command h 0x02 8 false .always (fun a w =>
    w.reportTo a hostAddr (devicePage w.s h.fn) refuse 0 0 (fun w => w)))

/-! ### Reading the Scorepad (R511) -/

/-- Records that SP_READ starts from (R511). -/
def Pad.from_ (p : Pad) (first : Nat) : List Rec :=
  let d := modSub 32 first p.oldest
  if d ≤ modSub 32 p.seq p.oldest then p.recs.filter (fun r => decide (d ≤ modSub 32 r.seq p.oldest))
  else if 1 ≤ modSub 32 first p.seq ∧ modSub 32 first p.seq < 2 ^ 31 then []
  else p.recs

/-- The records read for a function and one past the last number examined (R511). -/
def Pad.read (p : Pad) (fn first count : Nat) : List Rec × Nat :=
  let mine := (p.from_ first).filter (fun r => decide (fn = 0) || decide (r.ctx = some fn))
  let rs := mine.take count
  (rs, if rs.length = count then (match rs.getLast? with | some r => wrapAdd 32 r.seq 1 | none => p.seq) else p.seq)

/-- SP_READ (R466, R511): the PF's is package-wide, a VF's needs its context open. -/
def execSpRead (h : Hdr) (first count hostAddr : Nat) (refuse : Option Nat) (s : State) : Host.Outcome State Fault Refusal :=
  run s (·.command h 0x50 16 false (if h.fn = 0 then .always else .ctx h.fn) (fun a w =>
    if count = 0 ∨ 65536 < count then w.fail 466
    else
      let (rs, next) := w.s.pad.read h.fn first count
      w.reportTo a hostAddr (rs.flatMap (·.bytes)) refuse rs.length next (fun w => w)))

/-! ### Clearing (R512, R513) -/

/-- The first 16 bytes of a keyed hash. -/
def mac16 (key msg : List Byte) : List Byte := (hmac256 key msg).take 16

/-- A clear is verified and carried out in one step: whether it succeeded, and the work (R512, R513). -/
def Work.clearPad (w : Work) (requester : Nat) (auth : List Byte) (seq : Nat) : Bool × Work :=
  match w.s.flash.clearKey with
  | none => (false, w.record 0xA002 3 srcMgt requester seq 0)
  | some key =>
    let p := w.s.pad
    let ok := decide (seq = p.seq) && decide (mac16 key (nonce w.s ++ leBytes 4 seq) = auth)
    let w := { w with s.mgt.authCount := wrapAdd 32 w.s.mgt.authCount 1 }
    if ¬ ok then (false, w.record 0xA002 3 srcMgt requester seq 0)
    else
      let last := match p.recs.getLast? with | some r => r.seq | none => 0
      let w := { w with s.pad := { p with recs := [], dropped := 0, clears := satAdd 32 p.clears 1 } }
      (true, (w.submit 0xA001 5 srcMgt p.recs.length last requester none true).cause 0 5)

/-- SP_CLEAR from the PF (R437, R512, R513). -/
def execSpClear (h : Hdr) (auth : List Byte) (seq : Nat) (s : State) : Host.Outcome State Fault Refusal :=
  run s (·.command h 0x51 20 true .always (fun a w =>
    let (ok, w) := w.clearPad 1 auth seq
    w.reply a (if ok then stDone else stAuth) 0 0 0))

/-! ### Counter snapshots (R524) -/

/-- A section of the snapshot: its header and its entries. -/
def section_ (type entry : Nat) (es : List (List Byte)) : List Byte :=
  leBytes 2 type ++ leBytes 2 es.length ++ leBytes 4 entry ++ leBytes 8 0 ++ es.flatten

/-- The Rulebook of lowest handle of a context. -/
def lowestBook (x : Ctx) : Option Book := (List.range 4).findSome? (fun h => x.book h)

/-- Variant groups of a book: the VARIANTS section's count (R106). -/
def Work.variantCount (w : Work) (b : Book) : Nat :=
  match w.sect b 0x14 with
  | none => 0
  | some e => w.bookLe b e.off 2

/-- The sections of a context's snapshot, in order (R524). -/
def Work.sectionsOf (w : Work) (c : Nat) : List (List Byte) :=
  let s := w.s
  let x := s.ctx c
  let tiles := sortNat (ctxTiles x)
  let phys := sortNat ((setBits 12 x.mask).flatMap (fun r => (List.range 12).map (fun i => meshOf r i)))
  [ section_ 1 32 [leBytes 8 s.pkgBytes ++ leBytes 8 s.pcieRx ++ leBytes 8 s.pcieTx ++ leBytes 4 s.pad.seq ++ leBytes 4 s.pad.dropped],
    section_ 2 32 ((List.range 12).map (fun k =>
      let g := s.stack k
      leBytes 8 g.rd ++ leBytes 8 g.wr ++ leBytes 8 g.sectors ++ leBytes 4 g.ce ++ leBytes 4 g.ue)),
    section_ 3 32 ((List.range 6).map (fun k =>
      let g := s.port k
      leBytes 8 g.txBytes ++ leBytes 8 g.rxBytes ++ leBytes 4 g.replays ++ leBytes 4 g.crcErr ++ leBytes 4 g.degrades ++
      leBytes 4 g.delay)),
    section_ 4 40 (phys.map (fun p =>
      let g := s.ph p
      leBytes 4 p ++ leBytes 4 0 ++ leBytes 8 g.near ++ leBytes 8 g.deep ++ leBytes 8 g.rcHit ++ leBytes 8 g.rcMiss)),
    section_ 5 96 (tiles.map (fun n =>
      (10 :: List.range 10 ++ [11]).flatMap (fun i => leBytes 8 (s.idleNs.get 0 (idleKey c n i))))),
    section_ 6 4 (match lowestBook x with
      | none => []
      | some b => (List.range (w.variantCount b)).map (fun g => leBytes 4 (b.variants.get {} g).amaxLast)) ]

/-- Whole sections that fit. -/
def takeFit (room : Nat) : List (List Byte) → List Byte
  | [] => []
  | x :: xs => if x.length ≤ room then x ++ takeFit (room - x.length) xs else []

/-- The context's last committed Turn as the snapshot's header carries it: one below HUB_TURN_NUM, modulo 2^32. -/
def lastTurn (x : Ctx) : Nat := modSub 32 x.turn.num 1

/-- CNT_SNAPSHOT (R524): T0 and T1 frame the reads. -/
def execCntSnapshot (h : Hdr) (hostAddr bytes : Nat) (refuse : Option Nat) (s : State) : Host.Outcome State Fault Refusal :=
  run s (·.command h 0x52 12 false (.ctx h.fn) (fun a w =>
    let (t0, w) := w.readTime
    let secs := w.sectionsOf h.fn
    let (t1, w) := w.readTime
    let head := leBytes 4 0x534E5443 ++ leBytes 2 0x0100 ++ leBytes 2 0 ++ leBytes 8 t0 ++ leBytes 8 t1 ++
      leBytes 4 (lastTurn (w.s.ctx h.fn)) ++ leBytes 36 0
    let out := takeFit bytes (head :: secs)
    w.reportTo a hostAddr out refuse out.length 0 (fun w => w)))

/-! ### Traces (R526, R528) -/

/-- TRACE_ARM with OP 1 (R526): the descriptor takes effect at the next GO. -/
def execTraceArm (h : Hdr) (d : TraceDesc) (s : State) : Host.Outcome State Fault Refusal :=
  run s (·.command h 0x53 32 false (.ctx h.fn) (fun a w =>
    if d.tileCount = 0 ∨ 132 < d.tileCount ∨ 15 < d.sample ∨ d.bytes % 4096 ≠ 0 then w.fail 466
    else ({ w with s.traceNext := w.s.traceNext.put none h.fn (some (some d)) }).replyDone a))

/-- TRACE_ARM with OP 0 (R526). -/
def execTraceDisarm (h : Hdr) (s : State) : Host.Outcome State Fault Refusal :=
  run s (·.command h 0x53 1 false (.ctx h.fn) (fun a w =>
    ({ w with s.traceNext := w.s.traceNext.put none h.fn (some none) }).replyDone a))

/-- Entries of a tile's part: after the header, as many as fit (R527). -/
def partCap (part : Nat) : Nat := (part - 64) / 32

/-- One entry of tile `n` goes to its part of the buffer, or is dropped and counted when the part is full (R527). -/
def Work.writeTrace (w : Work) (c n : Nat) (d : TraceDesc) (e : List Byte) : Work :=
  let x := w.s.ctx c
  let part := d.bytes / d.tileCount / 4096 * 4096
  let base := d.buffer + (ctxTile x n - d.firstTile) * part
  let cap := partCap part
  let k := (w.s.tile n).traceEntries
  if cap = 0 ∨ (¬ bit d.mode 0 ∧ cap ≤ k) then w.modTile n (fun t => { t with traceDropped := t.traceDropped + 1 })
  else
    let mv : Mover := { c := c, n := n, phys := hostMesh w.s n, index := 0, src := srcTile (hostMesh w.s n) }
    let (ok, w) := w.writeCtx mv (base + 64 + 32 * (k % cap)) e false []
    if ¬ ok then w else w.modTile n (fun t => { t with traceEntries := k + 1 })

/-- The header of a tile's part (R527). -/
def Work.writePart (w : Work) (c n : Nat) (d : TraceDesc) : Work :=
  let x := w.s.ctx c
  let t := w.s.tile n
  let part := d.bytes / d.tileCount / 4096 * 4096
  let base := d.buffer + (ctxTile x n - d.firstTile) * part
  let mv : Mover := { c := c, n := n, phys := hostMesh w.s n, index := 0, src := srcTile (hostMesh w.s n) }
  (w.writeCtx mv base (padTo 64 (leBytes 8 t.traceEntries ++ leBytes 8 t.traceDropped ++ leBytes 1 (ctxTile x n))) false []).2

/-- TRACE_QUEUE_DRAIN (R527, R528): the first `n` waiting entries of a tile are written. -/
def execTraceQueueDrain (t n : Nat) (s : State) : Host.Outcome State Fault Refusal :=
  run s (fun w =>
    match (s.region (t / 11)).holder with
    | none => w
    | some c =>
      match s.traceDesc.get none c with
      | none => w.modTile t (fun x => { x with traceq := x.traceq.drop n })
      | some d =>
        let es := (s.tile t).traceq.take n
        let w := w.modTile t (fun x => { x with traceq := x.traceq.drop n })
        (w.each es (fun w e => w.writeTrace c t d e)).writePart c t d)

/-! ### PWR_POLICY (R541) -/

/-- A value clamped into a range. -/
def clamp (lo hi x : Nat) : Nat := Nat.max lo (Nat.min hi x)

/-- PWR_POLICY (R466, R532, R541). -/
def execPwrPolicy (h : Hdr) (set deepest idle capW windowMs : Nat) (s : State) : Host.Outcome State Fault Refusal :=
  run s (·.command h 0x60 16 true (if bit set 2 then .ctx h.context else .always) (fun a w =>
    let c := h.context
    let old := w.s.power
    let w := w.when (bit set 2) (·.modCtx c (fun x => { x with deepest := Pwr.ofNum (clamp 1 3 deepest) }))
    let w := { w with s.power := { old with
      capW := if bit set 0 then clamp 800 3200 capW else old.capW
      windowMs := if bit set 1 then clamp 1 1000 windowMs else old.windowMs
      idle := if bit set 3 then Pwr.ofNum (clamp 1 3 idle) else old.idle } }
    let p := w.s.power
    let w := w.when (decide (p.capW ≠ old.capW)) (·.record 0x9002 2 srcPackage p.capW 0 0)
    let w := w.when (decide (p.idle ≠ old.idle)) (·.restAll)
    w.reply a stDone 0 p.capW (pack [((w.s.ctx c).deepest.num, 0), (p.idle.num, 2), (p.windowMs, 16)])))

/-! ### SYS_TIME (R412) -/

/-- SYS_TIME, OP 0 (R412). -/
def execSysTimeRead (h : Hdr) (s : State) : Host.Outcome State Fault Refusal :=
  run s (·.command h 0x73 1 true .always (fun a w =>
    let (t, w) := w.readTime
    w.reply a stDone 0 (timeReg w.s 8) t))

/-- What SYS_TIME, OP 1 does (R412, R465): only the Banker before formation sets fabric time. -/
def Work.timeSet (w : Work) (a : Active) (value : Nat) : Work :=
  if ¬ w.s.pins.bankerEn then w.refuse a rsNotBanker
  else if w.s.form.form = 1 ∨ w.s.form.form = 2 ∨ w.s.time.isSet then w.refuse a rsState
  else
    let w := { w with s.time := { w.s.time with count := lowBits 64 value, interp := 0 } }
    w.reply a stDone 0 (timeReg w.s 8) w.s.now

/-- SYS_TIME, OP 1 (R412). -/
def execSysTimeSet (h : Hdr) (value : Nat) (s : State) : Host.Outcome State Fault Refusal :=
  run s (·.command h 0x73 16 true .always (fun a w => w.timeSet a value))

/-! ### Records and buckets (R506–R509) -/

/-- SP_RECORD_SUBMIT (R504–R510, R519, R520): a unit submits a record to the arbiter. -/
def execSpSubmit (code sev src p0 p1 p2 : Nat) (ctx : Option Nat) (s : State) : Host.Outcome State Fault Refusal :=
  run s (fun w => w.when s.pins.aonN (·.recordCtx code sev src p0 p1 p2 ctx))

/-- TOKEN_REFILL (R509): a bucket below BURST gains a token; `none` is the package bucket. -/
def execTokenRefill (bucket : Option Nat) (s : State) : Host.Outcome State Fault Refusal :=
  run s (fun w =>
    match bucket with
    | none => { w with s.pad.pkgMissing := s.pad.pkgMissing - 1 }
    | some c =>
      let b := s.pad.buckets.get {} c
      { w with s.pad.buckets := s.pad.buckets.put {} c { b with missing := b.missing - 1 } })

/-! ### The management port (R512–R519) -/

/-- The body of a STATUS response: the device page as the PF reads it, CMD_READY, coordinates, fabric time (R518; log
entry 20). -/
def statusBody (s : State) : List Byte :=
  devicePage s 0 ++ leBytes 4 (readyReg s) ++ leBytes 4 (sysReg s 4) ++ leBytes 8 s.now

/-- At most 1,000 requests in a second are answered (R517). -/
def Work.mgtCounted (w : Work) (f : Work → Work) : Work :=
  let sec := w.s.now / secondNs
  let n := if w.s.mgt.reqSecond = sec then w.s.mgt.reqCount else 0
  if 1000 ≤ n then w else f { w with s.mgt := { w.s.mgt with reqSecond := sec, reqCount := n + 1 } }

/-- A request reaches the management processor (R517). -/
def Work.mgtRequest (w : Work) (f : Work → Work) : Work := if w.s.mgt.running then w.mgtCounted f else w

/-- STATUS and SP_READ are answered also by a boot ROM that has halted the boot (R548). -/
def Work.mgtBasic (w : Work) (f : Work → Work) : Work :=
  if w.s.mgt.running ∨ w.s.boot.stage = 6 then w.mgtCounted f else w

/-- A request's AUTH verifies under the management key (R518). -/
def mgtAuthOk (s : State) (m : MgtHdr) : Bool :=
  match s.flash.mgtKey, m.auth with
  | some key, some a => decide (mac16 key (nonce s ++ m.raw) = a)
  | _, _ => false

/-- An authorized request: it counts, and fails with AUTH_FAILED and EV_MGT_AUTH_FAIL or acts (R518). -/
def Work.mgtAuthorized (w : Work) (m : MgtHdr) (type : Nat) (f : Work → Work) : Work :=
  w.mgtRequest (fun w =>
    let ok := mgtAuthOk w.s m
    let w := { w with s.mgt.authCount := wrapAdd 32 w.s.mgt.authCount 1 }
    if ok then f w else (w.record 0x0005 3 srcMgt type 0 0).send (.mgt type m.reqId stAuth []))

/-- MGT STATUS (R518). -/
def execMgtStatus (m : MgtHdr) (s : State) : Host.Outcome State Fault Refusal :=
  run s (·.mgtBasic (fun w => w.send (.mgt 0x01 m.reqId stDone (statusBody w.s))))

/-- MGT SP_READ (R511, R518): up to 40 records as the PF sees them. -/
def execMgtSpRead (m : MgtHdr) (first count : Nat) (s : State) : Host.Outcome State Fault Refusal :=
  run s (·.mgtBasic (fun w =>
    if count = 0 ∨ 40 < count then w.fail 518
    else w.send (.mgt 0x02 m.reqId stDone ((w.s.pad.read 0 first count).1.flatMap (·.bytes)))))

/-- Registers read one after the other. -/
def Work.readRegs (w : Work) (off : Nat) : Nat → List Byte × Work
  | 0 => ([], w)
  | n + 1 =>
    let (bs, w) := w.readRegs off n
    let (v, w) := w.readReg 28 0 (off + 4 * n)
    (bs ++ leBytes 4 v, w)

/-- MGT REG_READ (R6, R444, R518): registers of the PF's view, through the management processor's latch. -/
def execMgtRegRead (m : MgtHdr) (offset count : Nat) (s : State) : Host.Outcome State Fault Refusal :=
  run s (·.mgtRequest (fun w =>
    if count = 0 ∨ 64 < count ∨ offset % 4 ≠ 0 then w.fail 518
    else
      let (bs, w) := w.readRegs offset count
      w.send (.mgt 0x04 m.reqId stDone bs)))

/-- FLASH_LOG_READ (R510, R518). -/
def execFlashLogRead (m : MgtHdr) (index count : Nat) (s : State) : Host.Outcome State Fault Refusal :=
  run s (·.mgtRequest (fun w =>
    if count = 0 ∨ 40 < count then w.fail 518
    else w.send (.mgt 0x05 m.reqId stDone (((w.s.flash.log.drop index).take count).flatMap (·.bytes)))))

/-- SP_CLEAR over the management port (R512, R513). -/
def execMgtSpClear (m : MgtHdr) (auth : List Byte) (seq : Nat) (s : State) : Host.Outcome State Fault Refusal :=
  run s (·.mgtRequest (fun w =>
    let (ok, w) := w.clearPad 0 auth seq
    w.send (.mgt 0x10 m.reqId (if ok then stDone else stAuth) [])))

/-- A key is installed (R514): key 0 management, key 1 clear. -/
def Work.installKey (w : Work) (m : MgtHdr) (key : Nat) (value : List Byte) : Work :=
  let old := if key = 0 then w.s.flash.mgtKey else w.s.flash.clearKey
  let w := { w with s.flash :=
    if key = 0 then { w.s.flash with mgtKey := some (padTo 32 value) } else { w.s.flash with clearKey := some (padTo 32 value) } }
  (w.record 0x0004 5 srcMgt key (b2n old.isSome) 0).send (.mgt 0x11 m.reqId stDone [])

/-- KEY_SET (R514, R518): the first management key needs no authorization. -/
def execKeySet (m : MgtHdr) (key : Nat) (value : List Byte) (s : State) : Host.Outcome State Fault Refusal :=
  run s (fun w =>
    if 1 < key then w.fail 518
    else if key = 0 ∧ s.flash.mgtKey.isNone then w.mgtRequest (·.installKey m key value)
    else w.mgtAuthorized m 0x11 (·.installKey m key value))

/-- KEY_SLOT (R39, R518): a Rulebook verification key is installed or revoked. -/
def execKeySlot (m : MgtHdr) (slot op : Nat) (point : List Byte) (s : State) : Host.Outcome State Fault Refusal :=
  run s (fun w =>
    if 7 < slot ∨ 1 < op then w.fail 518
    else
      w.mgtAuthorized m 0x12 (fun w =>
        ({ w with s.flash.keySlots := w.s.flash.keySlots.put [] slot (if op = 1 then padTo 97 point else []) }).send
          (.mgt 0x12 m.reqId stDone [])))

/-- COLLECTOR_SET (R515, R518, R519). -/
def execCollectorSet (m : MgtHdr) (addr port storeMin pushMin : Nat) (s : State) : Host.Outcome State Fault Refusal :=
  run s (·.mgtAuthorized m 0x13 (fun w =>
    if 6 < storeMin ∨ 6 < pushMin then w.fail 518
    else
      ({ w with s.mgt.collector := some (addr, port), s.pad.storeMin := storeMin, s.pad.pushMin := pushMin }).send
        (.mgt 0x13 m.reqId stDone [])))

/-- DEBUG (R418, R518): a debug halt stops the core; the transport's own traffic with a core is outside the model (log
entry 21). -/
def execDebugMsg (m : MgtHdr) (core : Nat) (halt : Bool) (_body : List Byte) (s : State) : Host.Outcome State Fault Refusal :=
  run s (·.mgtAuthorized m 0x14 (fun w =>
    let w := if halt ∧ (w.s.core core).takes then
        let (cause, w) := w.draw
        w.coreStopped core (lowBits 32 cause)
      else w
    w.send (.mgt 0x14 m.reqId stDone [])))

/-- ADDR_SET (R517, R518). -/
def execAddrSet (m : MgtHdr) (addr pfxLen : Nat) (s : State) : Host.Outcome State Fault Refusal :=
  run s (·.mgtAuthorized m 0x16 (fun w =>
    ({ w with s.mgt.globalAddr := some (addr, pfxLen) }).send (.mgt 0x16 m.reqId stDone [])))

/-- SP_PUSH_STATUS (R519): every second a push without records carries the STATUS body. -/
def execSpPushStatus (s : State) : Host.Outcome State Fault Refusal :=
  run s (fun w =>
    match s.mgt.collector with
    | none => w
    | some (a, p) => w.when s.mgt.running (·.send (.push a p (statusBody s))))

/-! ### SMBus (R520) -/

/-- The package hot spot: the hottest of the hub and region sensors, 0.1 °C. -/
def hotSpot (s : State) : Nat := Nat.max s.power.hubTemp (hottest s).1

/-- A PLDM sensor's reading (R520). -/
def sensorReading (s : State) (id : Nat) : Option Nat :=
  if id = 1 then some (hotSpot s)
  else if 2 ≤ id ∧ id ≤ 13 then some (s.power.stackTemp.get 0 (id - 2))
  else if id = 14 then some s.power.mv
  else if id = 15 then some s.power.amps
  else if id = 16 then some s.power.powerW
  else if id = 20 then some s.boot.level
  else if id = 21 then some s.form.form
  else none

/-- PLDM_REQUEST (R520). -/
def execPldmRequest (r : PldmReq) (s : State) : Host.Outcome State Fault Refusal :=
  run s (fun w =>
    if ¬ s.mgt.running then w
    else
      match r with
      | .setEndpoint eid => ({ w with s.mgt.endpointId := eid }).send (.pldm (leBytes 1 eid))
      | .getTypes => w.send (.pldm [0x00#8, 0x02#8, 0x04#8])
      | .reading id =>
        match sensorReading s id with
        | some v => w.send (.pldm (leBytes 4 v))
        | none => w
      | .fru => w.send (.pldm (familyBytes ++ leBytes 4 (2 + lowBits 8 Config.stepping * 2 ^ 16) ++ leBytes 8 Config.serial))
      | .events e => ({ w with s.mgt.pldmEvents := e }).send (.pldm []))

end Sys2Proof.Machine
end

