-- ==== Sys2Proof/Machine/Num.lean ====
section
/-! DEFINITION. Number formats (chapter 03, R72–R101): exact values, decoding, rounding to a grid, and the functions of
the vector unit (R135), computed exactly or to far more bits than the rounding needs. -/

namespace Sys2Proof.Machine

/-- An exact value: `num` is (−1)^neg · m · 2^e, so that zeros keep a sign. -/
inductive Val where
  | nan
  | inf (neg : Bool)
  | num (neg : Bool) (m : Nat) (e : Int)
deriving DecidableEq, Repr

/-- A finite exact value m · 2^e, without a signed zero. -/
structure Dy where
  m : Int
  e : Int
deriving DecidableEq, Repr

/-- How many bits a number has. -/
def bitLen (m : Nat) : Nat := if m = 0 then 0 else m.log2 + 1

/-- m · 2^k as a number, rounded down where k is negative. -/
def shiftBy (m : Nat) (k : Int) : Nat := if 0 ≤ k then m <<< k.toNat else m >>> (-k).toNat

/-! ### Exact arithmetic -/

/-- The smaller of two exponents. -/
def minExp (a b : Int) : Int := if a ≤ b then a else b

/-- An integer in units of 2^q, for q ≤ e. -/
def Dy.units (x : Dy) (q : Int) : Int := x.m * 2 ^ (x.e - q).toNat

/-- The exact sum. -/
def Dy.add (x y : Dy) : Dy := let q := minExp x.e y.e; { m := x.units q + y.units q, e := q }

/-- The exact product. -/
def Dy.mul (x y : Dy) : Dy := { m := x.m * y.m, e := x.e + y.e }

/-- The negative. -/
def Dy.neg (x : Dy) : Dy := { x with m := -x.m }

/-- The exact difference. -/
def Dy.sub (x y : Dy) : Dy := x.add y.neg

/-- Zero. -/
def Dy.zero : Dy := { m := 0, e := 0 }

/-- The finite value of a number, zero for a value that is not finite. -/
def Val.dy : Val → Dy
  | .num neg m e => { m := if neg then -(m : Int) else m, e := e }
  | _ => Dy.zero

/-- A finite exact value, its zero positive. -/
def Dy.val (x : Dy) : Val := .num (decide (x.m < 0)) x.m.natAbs x.e

/-- The value is zero. -/
def Val.isZero : Val → Bool
  | .num _ m _ => m = 0
  | _ => false

/-- The value is neither a NaN nor an infinity. -/
def Val.finite : Val → Bool
  | .num _ _ _ => true
  | _ => false

/-- The sign. -/
def Val.isNeg : Val → Bool
  | .num s _ _ => s
  | .inf s => s
  | .nan => false

/-- The negative; a NaN stays. -/
def Val.neg : Val → Val
  | .num s m e => .num (!s) m e
  | .inf s => .inf (!s)
  | .nan => .nan

/-- The magnitude. -/
def Val.abs : Val → Val
  | .num _ m e => .num false m e
  | .inf _ => .inf false
  | .nan => .nan

/-- Zero of a sign. -/
def Val.zero (neg : Bool) : Val := .num neg 0 0

/-- The exact sum; zeros as IEEE 754 gives them under round to nearest even. -/
def Val.add (x y : Val) : Val :=
  match x, y with
  | .nan, _ => .nan
  | _, .nan => .nan
  | .inf a, .inf b => if a = b then .inf a else .nan
  | .inf a, _ => .inf a
  | _, .inf b => .inf b
  | .num a m _, .num b n _ =>
    if m = 0 ∧ n = 0 then Val.zero (a && b)
    else (x.dy.add y.dy).val

/-- The exact product. -/
def Val.mul (x y : Val) : Val :=
  match x, y with
  | .nan, _ => .nan
  | _, .nan => .nan
  | .inf a, .inf b => .inf (a != b)
  | .inf a, .num b n _ => if n = 0 then .nan else .inf (a != b)
  | .num a m _, .inf b => if m = 0 then .nan else .inf (a != b)
  | .num a m e, .num b n f => .num (a != b) (m * n) (e + f)

/-- Exact comparison of magnitudes of finite values: m · 2^e < n · 2^f. -/
def magLt (m : Nat) (e : Int) (n : Nat) (f : Int) : Bool :=
  let q := minExp e f
  decide (m * 2 ^ (e - q).toNat < n * 2 ^ (f - q).toNat)

/-- The order of R133 and R137 on numbers: −0 is below +0. -/
def Val.lt (x y : Val) : Bool :=
  match x, y with
  | .inf a, .inf b => a && !b
  | .inf a, .num _ _ _ => a
  | .num _ _ _, .inf b => !b
  | .num a m _, .num b n _ =>
    if m = 0 ∧ n = 0 then a && !b
    else decide ((x.dy.sub y.dy).m < 0)
  | _, _ => false

/-! ### Grids and rounding (R97, R247, R248) -/

/-- How a value goes to its grid: to the nearest, ties to even (R97), or by its uniform, with 16 bits or by the TW1
selection (R247, R253). -/
inductive Rounding where
  | nearest
  | stochastic (tw1 : Bool) (u : Nat)
deriving DecidableEq, Repr

/-- The low part `rem` of `d` bits moves a magnitude up. `neg` is the sign, `odd` the parity of the units below. -/
def Rounding.up (r : Rounding) (neg odd : Bool) (rem d : Nat) : Bool :=
  match r with
  | .nearest => decide (2 ^ d < 2 * rem) || (decide (2 * rem = 2 ^ d) && odd)
  | .stochastic tw1 u =>
    let t := if neg then 2 ^ d - rem else rem
    let hi := if tw1 then decide (256 ≤ t * 2 ^ 8 / 2 ^ d + u / 256) else decide (65536 ≤ t * 2 ^ 16 / 2 ^ d + u)
    if rem = 0 then false else if neg then !hi else hi

/-- The magnitude m · 2^e in units of 2^q, rounded. -/
def unitsAt (r : Rounding) (neg : Bool) (m : Nat) (e q : Int) : Nat :=
  if q ≤ e then m * 2 ^ (e - q).toNat
  else
    let d := (q - e).toNat
    let k := m / 2 ^ d
    if r.up neg (k % 2 = 1) (m % 2 ^ d) d then k + 1 else k

/-- A floating format (R76–R79): exponent bits, mantissa bits, bias, largest finite code, codes of infinity and NaN. -/
structure FloatFmt where
  ew : Nat
  man : Nat
  bias : Nat
  max : Nat
  infCode : Option Nat
  nanCode : Nat
deriving DecidableEq, Repr

def fmtFp32 : FloatFmt := { ew := 8, man := 23, bias := 127, max := 0x7F7FFFFF, infCode := some 0x7F800000, nanCode := 0x7FC00000 }
def fmtBf16 : FloatFmt := { ew := 8, man := 7, bias := 127, max := 0x7F7F, infCode := some 0x7F80, nanCode := 0x7FC0 }
def fmtFp16 : FloatFmt := { ew := 5, man := 10, bias := 15, max := 0x7BFF, infCode := some 0x7C00, nanCode := 0x7E00 }
def fmtE4m3 : FloatFmt := { ew := 4, man := 3, bias := 7, max := 0x7E, infCode := none, nanCode := 0x7F }
def fmtE5m2 : FloatFmt := { ew := 5, man := 2, bias := 15, max := 0x7B, infCode := some 0x7C, nanCode := 0x7E }
def fmtE2m1 : FloatFmt := { ew := 2, man := 1, bias := 1, max := 0x7, infCode := none, nanCode := 0 }

/-- The exponent of the smallest subnormal. -/
def FloatFmt.emin (f : FloatFmt) : Int := 1 - (f.bias : Int) - f.man

/-- The exponent of the grid's spacing at a magnitude; the top spacing goes on upwards without limit (R97, R248). -/
def FloatFmt.spacing (f : FloatFmt) (m : Nat) (e : Int) : Int :=
  let q := e + bitLen m - 1 - f.man
  if m = 0 then f.emin
  else
    let top : Int := (2 ^ f.ew : Nat) - 1 - (if f.infCode.isSome then 1 else 0) - (f.bias : Int) - f.man
    let q := minExp q top
    if q < f.emin then f.emin else q

/-- The value on the unbounded grid. -/
def FloatFmt.round (f : FloatFmt) (r : Rounding) : Val → Val
  | .num s m e => let q := f.spacing m e; .num s (unitsAt r s m e q) q
  | v => v

/-- The exact value of a code. -/
def FloatFmt.decode (f : FloatFmt) (code : Nat) : Val :=
  let s := bit code (f.ew + f.man)
  let c := code % 2 ^ (f.ew + f.man)
  let field := c / 2 ^ f.man
  let mant := c % 2 ^ f.man
  if f.max < c then (if f.infCode = some c then .inf s else .nan)
  else if field = 0 then .num s mant f.emin
  else .num s (2 ^ f.man + mant) (f.emin + field - 1)

/-- The sign bit of a format. -/
def FloatFmt.signBit (f : FloatFmt) (s : Bool) : Nat := if s then 2 ^ (f.ew + f.man) else 0

/-- A value on the grid as a code without sign: past the largest finite value more than `max`. -/
def FloatFmt.gridCode (f : FloatFmt) (m : Nat) (e : Int) : Nat :=
  if m = 0 then 0
  else
    let q := f.spacing m e
    let k := shiftBy m (e - q)
    if k < 2 ^ (f.man + 1) then (q - f.emin).toNat * 2 ^ f.man + k else f.max + 1

/-- A value rounded to a code; a finite value past the largest saturates and says so (R98, R99). -/
def FloatFmt.encode (f : FloatFmt) (r : Rounding) (v : Val) : Nat × Bool :=
  match v with
  | .nan => (f.nanCode, false)
  | .inf s => (match f.infCode with | some c => c + f.signBit s | none => f.nanCode, false)
  | .num s m e =>
    let q := f.spacing m e
    let c := f.gridCode (unitsAt r s m e q) q
    if f.max < c then (f.max + f.signBit s, true) else (c + f.signBit s, false)

/-- rne() of R121: the nearest value on the unbounded FP32 grid. -/
def Dy.rne (x : Dy) : Dy := (fmtFp32.round .nearest x.val).dy

/-- |x| exceeds FMAX, for a value on the grid. -/
def Dy.over (x : Dy) : Bool := magLt (2 ^ 24 - 1) 104 x.m.natAbs x.e

/-- The FP32 code of a finite value on the FP32 grid; a zero is +0 (R122). -/
def Dy.code (x : Dy) : Nat := (fmtFp32.encode .nearest x.val).1

/-- The finite value of an FP32 code. -/
def fp32Dy (code : Nat) : Dy := (fmtFp32.decode code).dy

/-- The exact value of an FP32 code. -/
def fp32 (code : Nat) : Val := fmtFp32.decode code

/-- A value rounded once to FP32, saturating (R135): the code and whether it saturated. -/
def Val.fp32 (v : Val) : Nat × Bool := fmtFp32.encode .nearest v

/-! ### Formats by code (R72) -/

/-- Bits of an element. -/
def fmtBits (fmt : Nat) : Nat :=
  match fmt with
  | 0 | 1 => 16
  | 2 | 3 | 4 => 8
  | 5 | 6 => 4
  | 7 => 2
  | _ => 32

/-- The floating format of a code, where it is one. -/
def floatOf (fmt : Nat) : Option FloatFmt :=
  match fmt with
  | 0 => some fmtBf16
  | 1 => some fmtFp16
  | 2 => some fmtE4m3
  | 3 => some fmtE5m2
  | 5 => some fmtE2m1
  | 8 => some fmtFp32
  | _ => none

/-- Two's complement of `n` bits. -/
def signed (n x : Nat) : Int := if x % 2 ^ n < 2 ^ (n - 1) then (x % 2 ^ n : Nat) else (x % 2 ^ n : Nat) - (2 ^ n : Nat)

/-- An integer as `n` bits of two's complement. -/
def unsigned (n : Nat) (i : Int) : Nat := (i % (2 ^ n : Nat)).toNat

/-- An integer as a value. -/
def intVal (i : Int) : Val := .num (decide (i < 0)) i.natAbs 0

/-- The value of an element's code before its scale (R76–R82). -/
def decodeElem (fmt code : Nat) : Val :=
  match floatOf fmt with
  | some f => f.decode code
  | none =>
    match fmt with
    | 7 => intVal (match code % 4 with | 1 => 1 | 3 => -1 | _ => 0)
    | _ => intVal (signed (fmtBits fmt) code)

/-- A T2 code 10 (R82). -/
def t2Invalid (fmt code : Nat) : Bool := fmt = 7 && decide (code % 4 = 2)

/-- The least and the largest integer of an integer format (R98). -/
def intRange (fmt : Nat) : Int × Int :=
  match fmt with
  | 4 => (-128, 127)
  | 6 => (-8, 7)
  | 7 => (-1, 1)
  | _ => (-2147483648, 2147483647)

/-- A value rounded to an element code (R97–R99, R135, R247): the code and whether it saturated. -/
def encodeElem (fmt : Nat) (r : Rounding) (v : Val) : Nat × Bool :=
  match floatOf fmt with
  | some f => f.encode r v
  | none =>
    match v with
    | .num s m e =>
      let k : Int := unitsAt r s m e 0
      let i := if s then -k else k
      let (lo, hi) := intRange fmt
      let j := if i < lo then lo else if hi < i then hi else i
      (unsigned (fmtBits fmt) j, decide (i ≠ j))
    | _ => (0, false)

/-- EMAX of a target (R96). -/
def emaxOf (fmt : Nat) : Int :=
  match fmt with
  | 2 => 8
  | 3 => 15
  | 4 => 6
  | 5 => 2
  | 6 => 2
  | _ => 0

/-! ### The functions of VEC_FN (R135)

Every function is correctly rounded. RECIP, SQRT and RSQRT are computed with a sticky bit. The others are computed in
fixed point with 640 fraction bits: their values at FP32 arguments are no ties, and the error stays far below the
distance to one (log entry 22). -/

/-- Fraction bits of the fixed-point numbers. -/
def fxBits : Nat := 640

/-- One in fixed point. -/
def fxOne : Nat := 2 ^ fxBits

/-- The integer square root, bit by bit. -/
def isqrtFrom (x : Nat) : Nat → Nat → Nat
  | 0, r => r
  | k + 1, r => let c := r + 2 ^ k; if c * c ≤ x then isqrtFrom x k c else isqrtFrom x k r

/-- The largest r with r·r ≤ x. -/
def isqrt (x : Nat) : Nat := isqrtFrom x (bitLen x / 2 + 1) 0

/-- Σ x^i / i! in fixed point. -/
def fxExpSum (x : Nat) : Nat → Nat → Nat → Nat → Nat
  | 0, _, _, acc => acc
  | n + 1, i, term, acc => fxExpSum x n (i + 1) (term * x / fxOne / (i + 1)) (acc + term)

/-- e^x for a fixed-point x ≥ 0: the series at x / 2^12, squared twelve times. -/
def fxExp (x : Nat) : Nat :=
  (List.range 12).foldl (fun v _ => v * v / fxOne) (fxExpSum (x / 4096) 100 0 fxOne 0)

/-- Σ t^(2i+1) / (2i+1), signs alternating where `alt`, in fixed point. -/
def fxOddSum (alt : Bool) (tt : Nat) : Nat → Nat → Nat → Int → Int
  | 0, _, _, acc => acc
  | n + 1, i, p, acc =>
    let term : Int := (p / (2 * i + 1) : Nat)
    fxOddSum alt tt n (i + 1) (p * tt / fxOne) (if alt && i % 2 = 1 then acc - term else acc + term)

/-- 2·artanh t for 0 ≤ t ≤ 1/3. -/
def fxArtanh2 (t : Nat) : Int := 2 * fxOddSum false (t * t / fxOne) 220 0 t 0

/-- arctan (1 / n). -/
def fxArctanInv (n : Nat) : Int := let t := fxOne / n; fxOddSum true (t * t / fxOne) 220 0 t 0

/-- ln 2 and π in fixed point. -/
def fxLn2 : Int := fxArtanh2 (fxOne / 3)
def fxPi : Nat := (16 * fxArctanInv 5 - 4 * fxArctanInv 239).toNat

/-- A fixed-point integer as an exact value. -/
def fxVal (x : Int) : Val := .num (decide (x < 0)) x.natAbs (-(fxBits : Int))

/-- The magnitude of a finite value in fixed point; exact for |a| ≥ 2^-640. -/
def fxOf (m : Nat) (e : Int) : Nat := shiftBy m (e + fxBits)

/-- |a| is at least 2^k. -/
def magGe (m : Nat) (e k : Int) : Bool := decide (0 < m) && decide (k + 1 ≤ e + bitLen m)

/-- A quotient of fixed-point numbers. -/
def fxDiv (a b : Nat) : Nat := a * fxOne / b

/-- A value too small for FP32 of a sign: its rounding is the zero of that sign. -/
def tiny (neg : Bool) : Val := .num neg 1 (-400)

/-- A value too large for FP32 of a sign: its rounding saturates. -/
def huge (neg : Bool) : Val := .num neg 1 400

/-- e^a of a finite a. -/
def expVal (neg : Bool) (m : Nat) (e : Int) : Val :=
  if magGe m e 8 then (if neg then tiny false else huge false)
  else
    let x := fxExp (fxOf m e)
    fxVal (if neg then fxDiv fxOne x else x)

/-- The natural logarithm of a > 0. -/
def logVal (m : Nat) (e : Int) : Val :=
  let k := e + bitLen m - 1
  let f := shiftBy m (fxBits - (bitLen m - 1 : Nat))
  let t := fxDiv (f - fxOne) (f + fxOne)
  fxVal (k * fxLn2 + fxArtanh2 t)

/-- 1 / a of a non-zero a, with a sticky bit. -/
def recipVal (neg : Bool) (m : Nat) (e : Int) : Val :=
  let q := 2 ^ 200 / m
  .num neg (2 * q + (if 2 ^ 200 % m = 0 then 0 else 1)) (-e - 201)

/-- √a of a > 0, with a sticky bit. -/
def sqrtVal (m : Nat) (e : Int) : Val :=
  let (m, e) := if e % 2 = 0 then (m, e) else (2 * m, e - 1)
  let x := m * 2 ^ 200
  let r := isqrt x
  .num false (2 * r + (if r * r = x then 0 else 1)) (e / 2 - 101)

/-- 1 / √a of a > 0, with a sticky bit. -/
def rsqrtVal (m : Nat) (e : Int) : Val :=
  let (m, e) := if e % 2 = 0 then (m, e) else (2 * m, e - 1)
  let r := isqrt (2 ^ 400 / m)
  .num false (2 * r + (if r * r * m = 2 ^ 400 then 0 else 1)) (-(e / 2) - 201)

/-- 1 / (1 + e^-a) in fixed point, for |a| < 2^8. -/
def fxSigmoid (neg : Bool) (m : Nat) (e : Int) : Nat :=
  let x := fxExp (fxOf m e)
  if neg then fxDiv fxOne (fxOne + x) else fxDiv x (fxOne + x)

/-- tanh a of a finite a. -/
def tanhVal (neg : Bool) (m : Nat) (e : Int) : Val :=
  if magGe m e 6 then .num neg (2 ^ 100 - 1) (-100)
  else
    let x := fxExp (2 * fxOf m e)
    .num neg (fxDiv (x - fxOne) (x + fxOne)) (-(fxBits : Int))

/-- 1 / (1 + e^-a). -/
def sigmoidVal (neg : Bool) (m : Nat) (e : Int) : Val :=
  if magGe m e 8 then (if neg then tiny false else .num false (2 ^ 100 - 1) (-100))
  else fxVal (fxSigmoid neg m e)

/-- a / (1 + e^-a). -/
def siluVal (neg : Bool) (m : Nat) (e : Int) : Val :=
  if magGe m e 8 then (if neg then tiny true else .num false m e)
  else .num neg (m * fxSigmoid neg m e) (e - fxBits)

/-- Σ (−y)^i / (i! (2i+1)) in fixed point, y = a²/2. -/
def fxErfSum (y : Nat) : Nat → Nat → Nat → Int → Int
  | 0, _, _, acc => acc
  | n + 1, i, p, acc =>
    let term : Int := (p / (2 * i + 1) : Nat)
    fxErfSum y n (i + 1) (p * y / fxOne / (i + 1)) (if i % 2 = 1 then acc - term else acc + term)

/-- erf (a / √2) of a magnitude below 16: a · √(2/π) · Σ (−a²/2)^i / (i! (2i+1)). -/
def fxErf (m : Nat) (e : Int) : Int :=
  let a := fxOf m e
  let y := a * a / fxOne / 2
  let s := fxErfSum y 900 0 fxOne 0
  let c := isqrt (2 * fxOne * fxOne / fxPi * fxOne)
  s * (a * c / fxOne : Nat) / (fxOne : Nat)

/-- a · (1 + erf (a / √2)) / 2. -/
def geluVal (neg : Bool) (m : Nat) (e : Int) : Val :=
  if magGe m e 4 then (if neg then tiny true else .num false m e)
  else
    let r := fxErf m e
    let t : Int := if neg then (fxOne : Nat) - r else (fxOne : Nat) + r
    .num neg (m * t.toNat) (e - fxBits - 1)

/-- The exact result of a unary function of VEC_FN, before its rounding (R135). -/
def unary (op : Nat) (v : Val) : Val :=
  match v with
  | .nan => .nan
  | .inf s =>
    match op with
    | 0x20 => if s then Val.zero false else .inf false
    | 0x21 => if s then .nan else .inf false
    | 0x22 => Val.zero s
    | 0x23 => if s then .nan else Val.zero false
    | 0x24 => if s then .nan else .inf false
    | 0x25 => .num s 1 0
    | 0x26 => if s then Val.zero false else .num false 1 0
    | 0x27 => if s then Val.zero true else .inf false
    | 0x28 => if s then Val.zero true else .inf false
    | 0x29 => if s then Val.zero false else .inf false
    | 0x2A => .inf false
    | _ => .inf (!s)
  | .num s 0 _ =>
    match op with
    | 0x20 => .num false 1 0
    | 0x21 => .inf true
    | 0x22 => .inf s
    | 0x23 => .inf s
    | 0x26 => .num false 1 (-1)
    | 0x29 => Val.zero false
    | 0x2A => Val.zero false
    | 0x2B => Val.zero (!s)
    | _ => Val.zero s
  | .num s m e =>
    match op with
    | 0x20 => expVal s m e
    | 0x21 => if s then .nan else logVal m e
    | 0x22 => recipVal s m e
    | 0x23 => if s then .nan else rsqrtVal m e
    | 0x24 => if s then .nan else sqrtVal m e
    | 0x25 => tanhVal s m e
    | 0x26 => sigmoidVal s m e
    | 0x27 => siluVal s m e
    | 0x28 => geluVal s m e
    | 0x29 => if s then Val.zero false else .num s m e
    | 0x2A => .num false m e
    | _ => .num (!s) m e

/-- The exact result of an element-wise operation (R133, R135). MASKED stands apart. -/
def binary (op : Nat) (a b c : Val) : Val :=
  match op with
  | 0x00 => a.add b
  | 0x01 => a.add b.neg
  | 0x02 => a.mul b
  | 0x03 => (a.mul b).add c
  | 0x04 => if a = .nan ∨ b = .nan then .nan else if a.lt b then b else a
  | _ => if a = .nan ∨ b = .nan then .nan else if b.lt a then b else a

end Sys2Proof.Machine
end

