-- ==== Sys2Proof/Machine/Tensor.lean ====
section
/-! DEFINITION. Tensors in the tile stores: operand descriptors, scale and sidecar planes, decoding and the quantizer
(chapter 03, R72–R109), the safeguard events, and the Dice Cup (chapter 08, R236–R253). -/

namespace Sys2Proof.Machine

/-! ### The Dice Cup (R236–R245, R252) -/

/-- Rotation left of 64 bits. -/
def rotl64 (x n : Nat) : Nat := (x % 2 ^ 64 * 2 ^ n + x % 2 ^ 64 / 2 ^ (64 - n)) % 2 ^ 64

/-- One round (R236): x0, x1 and the round keys a0, a1. -/
def diceRound (v : Nat × Nat × Nat × Nat) (rot : Nat) : Nat × Nat × Nat × Nat :=
  let (x0, x1, a0, a1) := v
  let t := (x0 ^^^ a0) * 0x0100001000100001 % 2 ^ 64
  let y := rotl64 (x1 ^^^ t) rot ^^^ a1
  (y, t, (a0 + 0x9E3779B97F4A7C15) % 2 ^ 64, (a1 + 0xBB67AE8584CAA73B) % 2 ^ 64)

/-- The function of R236 on a key and a counter of 128 bits. -/
def dice (k c rounds : Nat) : Nat :=
  let (x0, x1, _, _) := ([24, 40, 12, 52, 28, 16, 44, 36].take rounds).foldl diceRound
    (c % 2 ^ 64, c / 2 ^ 64 % 2 ^ 64, k % 2 ^ 64, k / 2 ^ 64 % 2 ^ 64)
  x1 * 2 ^ 64 + x0

/-- The class-A uniform of a logical element (R238–R240, R252). -/
def uniformA (x : Ctx) (stream subUse e : Nat) : Nat :=
  let e := e % 2 ^ 64
  let k := x.seed + stream % 2 ^ 32 * 2 ^ 64
  let c := subUse % 2 ^ 32 + x.turn.num % 2 ^ 32 * 2 ^ 32 + (e - e % 8) * 2 ^ 64
  bits (dice k c (if x.compat then 6 else 8)) (16 * (e % 8) + 15) (16 * (e % 8))

/-- The class-B words of a lane counter (R216, R245). -/
def wordsB (x : Ctx) (counter : Nat) : List Nat :=
  let v := dice (x.seed + (2 ^ 63 + rankOf x) * 2 ^ 64) counter 8
  [bits v 31 0, bits v 63 32, bits v 95 64, bits v 127 96]

/-- A binding of DICE_STREAMS (R241). -/
structure Binding where
  stream : Nat
  subUse : Nat
  origin : Nat
  rowStride : Nat
  inner : Nat
  outer : Nat
deriving DecidableEq, Repr

/-- The binding of a move of a tile's stream (R242). -/
def Work.binding (w : Work) (m : Mover) : Option Binding :=
  let x := w.s.ctx m.c
  match x.running with
  | none => none
  | some b =>
    match w.sect b 0x15 with
    | none => none
    | some e =>
      let f := fun i o k => w.bookLe b (e.off + 16 + 48 * i + o) k
      ((List.range (w.bookLe b e.off 4)).find? (fun i => decide (f i 0 1 = ctxTile x m.n) && decide (f i 4 4 % 2 ^ 22 = m.index))).map
        (fun i =>
          { stream := f i 8 4, subUse := f i 0xC 4, origin := f i 0x10 8, rowStride := f i 0x18 8, inner := f i 0x20 8
            outer := f i 0x28 8 })

/-- The uniform of output element (i, j) of a move (R242). -/
def Work.uniform (w : Work) (m : Mover) (b : Binding) (i j : Nat) : Nat :=
  let it := fun k => match (w.s.tile m.n).loops[k]? with | some l => l.iter | none => 0
  uniformA (w.s.ctx m.c) b.stream b.subUse (b.origin + i * b.rowStride + j + it 0 * b.inner + it 1 * b.outer)

/-! ### Safeguard events (R102, R105, R139, R140) -/

/-- What a move counts: SAT and T2_INVALID events, its flags, and the largest magnitude its quantizers received as an
FP32 code. -/
structure Ev where
  sat : Nat := 0
  t2inv : Nat := 0
  nonfin : Bool := false
  fpSat : Bool := false
  intSat : Bool := false
  amax : Nat := 0
deriving DecidableEq, Repr

/-- Events of two parts of a move. -/
def Ev.add (a b : Ev) : Ev :=
  { sat := a.sat + b.sat, t2inv := a.t2inv + b.t2inv, nonfin := a.nonfin || b.nonfin, fpSat := a.fpSat || b.fpSat
    intSat := a.intSat || b.intSat, amax := Nat.max a.amax b.amax }

/-- Events of a list of parts. -/
def Ev.sum (es : List Ev) : Ev := es.foldl Ev.add {}

/-- The events of one saturated value. -/
def Ev.ofSat (s : Bool) : Ev := if s then { sat := 1, fpSat := true } else {}

/-- TILE_FLAGS bits of events. -/
def Ev.flags (e : Ev) : Nat := b2n e.nonfin + 2 * b2n e.fpSat + 4 * b2n e.intSat + 8 * b2n (decide (0 < e.t2inv))

/-- A variant group of the running Rulebook changed (R102, R105). -/
def Work.modVariant (w : Work) (c g : Nat) (f : Variant → Variant) : Work :=
  w.modCtx c (fun x =>
    match x.running with
    | none => x
    | some b => { x with books := x.books.put none x.turn.handle (some { b with variants := b.variants.upd {} g f }) })

/-- The events of a move on a logical tile, under variant group `vg` (R102, R105, R140). -/
def Work.events (w : Work) (c n vg : Nat) (e : Ev) : Work :=
  let w := w.modTile n (fun t =>
    { t with flags := t.flags ||| e.flags, satCnt := satAdd 32 t.satCnt e.sat, t2inv := satAdd 32 t.t2inv e.t2inv })
  if vg = 0xFF ∨ (e.sat = 0 ∧ e.amax = 0) then w
  else w.modVariant c vg (fun v => { v with sats := v.sats + e.sat, amaxNow := Nat.max v.amaxNow e.amax })

/-! ### Quantize control and blocks (R93–R99) -/

/-- A quantize control (R93). -/
structure QCtl where
  fmt : Nat
  scale : Nat
  side : Bool
  stoch : Bool
  shift : Nat
  vgroup : Nat
deriving DecidableEq, Repr

/-- The 24 bits of a quantize control. -/
def QCtl.ofNat (x : Nat) : QCtl :=
  { fmt := bits x 3 0, scale := bits x 5 4, side := bit x 6, stoch := bit x 7, shift := bits x 10 8, vgroup := bits x 19 12 }

/-- A format admits a scale mode (R74). -/
def admits (fmt scale : Nat) (side : Bool) : Bool :=
  match scale with
  | 0 => decide (fmt ≤ 9) && decide (fmt ≠ 5) && !side
  | 1 | 2 => decide (2 ≤ fmt) && decide (fmt ≤ 7)
  | _ => false

/-- A quantized block: its scale byte, its codes, its sidecar (position, BF16 code), its events. -/
structure QBlock where
  scale : Nat
  codes : List Nat
  side : List (Nat × Nat)
  ev : Ev
deriving DecidableEq, Repr

/-- The rounding of a value under its uniform (R97, R247). -/
def roundingOf (stoch tw1 : Bool) (u : Nat) : Rounding := if stoch then .stochastic tw1 u else .nearest

/-- One value magnitude below another. -/
def Val.magLt (x y : Val) : Bool := x.abs.lt y.abs

/-- The value scaled by a power of two. -/
def Val.scale (v : Val) (k : Int) : Val :=
  match v with
  | .num s m e => .num s m (e + k)
  | v => v

/-- floor(log2 |v|) of a non-zero finite value. -/
def Val.floorLog2 : Val → Int
  | .num _ m e => e + bitLen m - 1
  | _ => 0

/-- The largest finite magnitude of a list, as an FP32 code (R105). -/
def amaxCode (vs : List Val) : Nat :=
  (vs.filter (·.finite)).foldl (fun a v => Nat.max a (v.abs.fp32).1) 0

/-- Positions that move to the sidecar (R95), ascending. -/
def outliers (q : QCtl) (vs : List Val) : List Nat :=
  if ¬ q.side then []
  else
    let k := if q.scale = 1 then 2 else 4
    let sorted := sortBy (fun (a b : Nat × Val) => b.2.magLt a.2) ((List.range vs.length).zip vs)
    let base := match (sorted.drop k).head? with | some p => p.2.abs | none => Val.zero false
    sortNat (((sorted.take k).filter (fun p => (base.scale q.shift).magLt p.2)).map (·.1))

/-- One block through the quantizer (R94): `us` are the elements' uniforms. An all-zero block keeps the sign of a -0 input in its
code (R97) although R96 calls every code of the block zero: which of the two holds is DESIGN CHOICE (log entry 45). -/
def quantBlock (q : QCtl) (tw1 : Bool) (vs : List Val) (us : List Nat) : QBlock :=
  let amaxAll := amaxCode vs
  if q.scale = 0 then
    let rs := (vs.zip us).map (fun p => encodeElem q.fmt (roundingOf q.stoch tw1 p.2) p.1)
    { scale := 127, codes := rs.map (·.1), side := []
      ev := { Ev.sum (rs.map (fun r => Ev.ofSat r.2)) with nonfin := vs.any (fun v => !v.finite), amax := amaxAll } }
  else if vs.any (fun v => !v.finite) then
    { scale := 0xFF, codes := vs.map (fun _ => 0), side := [], ev := { nonfin := true, amax := amaxAll } }
  else
    let out := outliers q vs
    let iv := (List.range vs.length).zip (vs.zip us)
    let top := (iv.filter (fun p => !out.contains p.1)).foldl (fun (a : Val) p => if a.magLt p.2.1 then p.2.1.abs else a) (Val.zero false)
    let x : Int := if top.isZero then 0 else top.floorLog2 - emaxOf q.fmt
    let scale := (x + 127).toNat
    let scale := Nat.min scale 254
    let rs := iv.map (fun p =>
      if out.contains p.1 then (0, false)
      else encodeElem q.fmt (roundingOf q.stoch tw1 p.2.2) (p.2.1.scale (127 - (scale : Int))))
    let ss := out.map (fun i => (i, fmtBf16.encode .nearest (vs.getD i .nan)))
    { scale := scale, codes := rs.map (·.1), side := ss.map (fun p => (p.1, p.2.1))
      ev := { (Ev.sum (rs.map (fun r => Ev.ofSat r.2))).add (Ev.sum (ss.map (fun p => Ev.ofSat p.2.2))) with amax := amaxAll } }

/-- Element codes packed, least significant first (R75). -/
def packCodes (width : Nat) (cs : List Nat) : List Byte :=
  leBytes ((cs.length * width + 7) / 8) (cs.foldr (fun c a => a * 2 ^ width + c % 2 ^ width) 0)

/-- A sidecar record (R89, R90); the fields of entries it does not fill come from `fill`, with the reserved bits of a 1D record's
positions zero (R7, R89). -/
def sideBytes (scale : Nat) (side : List (Nat × Nat)) (fill : Nat → Byte) : List Byte :=
  let k := if scale = 1 then 2 else 4
  let v := (List.range k).flatMap (fun i =>
    match side[i]? with | some p => leBytes 2 p.2 | none => [fill (2 * i), fill (2 * i + 1)])
  let p := (List.range k).map (fun i => match side[i]? with | some p => BitVec.ofNat 8 p.1 | none => if scale = 1 then fill (8 + i) % 32#8 else fill (8 + i))
  v ++ p ++ leBytes (if k = 2 then 2 else 4) (2 ^ side.length - 1)

/-- A quantized tensor: the bytes of its element rows, of its scale rows and of its sidecar rows. -/
structure QTensor where
  rows : List (List Byte)
  scales : List (List Byte)
  sides : List (List Byte)
  ev : Ev
deriving DecidableEq, Repr

/-- A tensor of `rows` × `cols` FP32 values through the quantizer (R84, R85, R91, R94). -/
def quantTensor (q : QCtl) (tw1 : Bool) (rows cols : Nat) (v : Nat → Nat → Val) (u : Nat → Nat → Nat) : QTensor :=
  let bh := if q.scale = 2 then 16 else 1
  let bw := match q.scale with | 0 => Nat.max 1 cols | 1 => 32 | _ => 16
  let at_ := fun p k => (List.range bh).flatMap (fun i => (List.range bw).map (fun j => (p * bh + i, k * bw + j)))
  let block := fun p k => quantBlock q tw1 ((at_ p k).map (fun x => v x.1 x.2)) ((at_ p k).map (fun x => u x.1 x.2))
  let codes := fun p k => (at_ p k).map (fun x => (v x.1 x.2).fp32.1)
  let nb := cols / bw
  let blocks := (List.range (rows / bh)).map (fun p => (List.range nb).map (fun k => block p k))
  let width := fmtBits q.fmt
  { rows := blocks.flatMap (fun bs => (List.range bh).map (fun i =>
      packCodes width (bs.flatMap (fun b => (b.codes.drop (i * bw)).take bw))))
    scales := if q.scale = 0 then [] else blocks.map (fun bs => bs.map (fun b => BitVec.ofNat 8 b.scale))
    sides := if ¬ q.side then [] else
      ((List.range blocks.length).zip blocks).map (fun p =>
        ((List.range nb).zip p.2).flatMap (fun b => sideBytes q.scale b.2.side (Config.sideFill (codes p.1 b.1))))
    ev := Ev.sum (blocks.flatMap (fun bs => bs.map (·.ev))) }

/-- The bytes of a quantized tensor laid out as R134 says: elements, scale plane, sidecar plane at a multiple of 16. -/
def QTensor.flat (t : QTensor) : List Byte :=
  let e := t.rows.flatten ++ t.scales.flatten
  if t.sides = [] then e else padTo (roundUp e.length 16) e ++ t.sides.flatten

/-! ### Operands in a store (R73, R87–R92, R116, R134) -/

/-- An operand as it stands in a tile's stores, in its stored orientation. -/
structure View where
  addr : Nat
  pitch : Nat
  fmt : Nat
  scale : Nat
  side : Bool
  scaleAt : Nat
  sideAt : Nat
  rowLen : Nat
deriving DecidableEq, Repr

/-- Bits per element of a view. -/
def View.width (v : View) : Nat := fmtBits v.fmt

/-- The number of the block of stored element (r, c) (R84, R85, R116). -/
def View.block (v : View) (r c : Nat) : Nat :=
  if v.scale = 1 then r * (v.rowLen / 32) + c / 32 else r / 16 * (v.rowLen / 16) + c / 16

/-- Bytes of a sidecar record (R91). -/
def View.sideSize (v : View) : Nat := if v.scale = 1 then 8 else 16

/-- The code of stored element (r, c). -/
def Work.viewCode (w : Work) (n : Nat) (v : View) (r c : Nat) : Nat :=
  let b := c * v.width
  w.tLe n (v.addr + r * v.pitch + b / 8) ((v.width + 7) / 8) / 2 ^ (b % 8) % 2 ^ v.width

/-- The scale byte of stored element (r, c). -/
def Work.viewScale (w : Work) (n : Nat) (v : View) (r c : Nat) : Nat :=
  if v.scale = 0 then 127 else w.tLe n (v.scaleAt + v.block r c) 1

/-- The valid sidecar entries at stored element (r, c) (R89–R92). -/
def Work.viewSide (w : Work) (n : Nat) (v : View) (r c : Nat) : List Val :=
  if ¬ v.side then []
  else
    let at_ := v.sideAt + v.sideSize * v.block r c
    let k := if v.scale = 1 then 2 else 4
    let pos := if v.scale = 1 then c % 32 else r % 16 * 16 + c % 16
    let valid := w.tLe n (at_ + (if v.scale = 1 then 6 else 12)) 1
    (List.range k).filterMap (fun i =>
      let p := w.tLe n (at_ + (if v.scale = 1 then 4 else 8) + i) 1
      if bit valid i ∧ (if v.scale = 1 then p % 32 else p) = pos then some (fmtBf16.decode (w.tLe n (at_ + 2 * i) 2)) else none)

/-- The decoded value of stored element (r, c) (R87). -/
def Work.viewVal (w : Work) (n : Nat) (v : View) (r c : Nat) : Val :=
  let s := w.viewScale n v r c
  if s = 0xFF then .nan
  else (w.viewSide n v r c).foldl Val.add ((decodeElem v.fmt (w.viewCode n v r c)).scale ((s : Int) - 127))

/-- A move reads a view's elements, scale bytes and sidecar records, but those of absent 16-column groups (R131);
`present` is asked for the group of 16 rows and 16 columns. -/
def Work.touch (w : Work) (m : Mover) (v : View) (rows cols : Nat) (present : Nat → Nat → Bool) : Work :=
  let groups := (cols + 15) / 16
  let w := w.each (List.range rows) (fun w r =>
    w.each ((List.range groups).filter (fun g => present (r / 16) g)) (fun w g =>
      (w.read m (tileAddr m.n (v.addr + r * v.pitch + 16 * g * v.width / 8)) ((Nat.min 16 (cols - 16 * g) * v.width + 7) / 8)).2))
  if v.scale = 0 then w
  else
    let bw := if v.scale = 1 then 32 else 16
    let rs := if v.scale = 1 then List.range rows else (List.range ((rows + 15) / 16)).map (· * 16)
    w.each rs (fun w r =>
      w.each ((List.range ((cols + bw - 1) / bw)).filter (fun b =>
          present (r / 16) (b * bw / 16) || (decide (v.scale = 1) && present (r / 16) (2 * b + 1)))) (fun w b =>
        let w := (w.read m (tileAddr m.n (v.scaleAt + v.block r (b * bw))) 1).2
        if v.side then (w.read m (tileAddr m.n (v.sideAt + v.sideSize * v.block r (b * bw))) v.sideSize).2 else w))

/-- The last element of every row of a view lies at tile addresses that exist (R144). -/
def View.ok (v : View) (rows cols : Nat) : Bool :=
  rows = 0 || cols = 0 ||
  (tileAddrOk v.addr ((cols * v.width + 7) / 8) && tileAddrOk (v.addr + (rows - 1) * v.pitch) ((cols * v.width + 7) / 8))

/-- A source element converted to FP32 (R101): its code's value, with its events. -/
def Work.viewFp32 (w : Work) (n : Nat) (v : View) (r c : Nat) : Val × Ev :=
  let (code, sat) := (w.viewVal n v r c).fp32
  (fp32 code, { sat := b2n sat, t2inv := b2n (t2Invalid v.fmt (w.viewCode n v r c)) })

/-- Blocks of a linear operand of `count` elements (R134): 32 elements, or 16 × 16 squares of rows of `rowLen`. -/
def linearBlocks (scale count rowLen : Nat) : Nat :=
  if scale = 1 then (count + 31) / 32
  else
    let cols := Nat.min count rowLen
    ((count + rowLen - 1) / Nat.max 1 rowLen + 15) / 16 * ((cols + 15) / 16)

/-- A linear operand of the vector unit (R134): one row, or rows of `rowLen` elements for 2D squares. -/
def linearView (addr desc count rowLen : Nat) : View :=
  let fmt := bits desc 3 0
  let scale := bits desc 5 4
  let cols := if scale = 2 then rowLen else count
  let bytes := (count * fmtBits fmt + 7) / 8
  { addr := addr, pitch := (cols * fmtBits fmt + 7) / 8, fmt := fmt, scale := scale, side := bit desc 6
    scaleAt := addr + bytes, sideAt := roundUp (addr + bytes + linearBlocks scale count rowLen) 16, rowLen := cols }

/-- Element `k` of a linear operand as a stored position. -/
def View.at (v : View) (k : Nat) : Nat × Nat := if v.scale = 2 then (k / v.rowLen, k % v.rowLen) else (0, k)

/-- Bytes that a linear operand of `count` elements takes with its planes (R134). -/
def linearBytes (desc count rowLen : Nat) : Nat :=
  let fmt := bits desc 3 0
  let scale := bits desc 5 4
  let e := (count * fmtBits fmt + 7) / 8
  if scale = 0 then e
  else
    let blocks := linearBlocks scale count rowLen
    if bit desc 6 then roundUp (e + blocks) 16 + blocks * (if scale = 1 then 8 else 16) else e + blocks

end Sys2Proof.Machine
end

