-- ==== Sys2Proof/Machine/Array.lean ====
section
/-! DEFINITION. The array (chapter 04, R111–R131): accumulators, the fold, segments, the output of ARR_MMA. -/

namespace Sys2Proof.Machine

/-! ### Accumulators (R112, R121–R127) -/

/-- A saturated accumulator. -/
def Acc.saturate (a : Acc) (neg : Bool) : Acc := { a with kind := 1, st := 3, neg := neg }

/-- The sum rounded once, or a saturation with its sign (R121). -/
def addRne (s p : Dy) : Except Bool Dy :=
  let t := s.add p
  let r := t.rne
  if r.over then .error (decide (t.m < 0)) else .ok r

/-- The fold of a finite segment value (R121): the accumulator and whether it counts one SAT event (R124). -/
def Acc.fold (a : Acc) (x : Dy) : Acc × Bool :=
  if a.st ≠ 0 then (a, false)
  else
    let p := x.rne
    if p.over then (a.saturate (decide (x.m < 0)), true)
    else
      let r := (x.sub p).rne
      let s := fp32Dy a.s
      match addRne s p with
      | .error neg => (a.saturate neg, true)
      | .ok s1 =>
        let e1 := (s.add p).sub s1
        ({ a with kind := 1, s := s1.code, e := ((fp32Dy a.e).add (e1.add r).rne).rne.code }, false)

/-- What a segment or a pair is (R123, R136). -/
inductive Seg where
  | nan
  | inf (neg : Bool)
  | fin (p : Dy)
deriving DecidableEq, Repr

/-- A non-finite segment changes the accumulator (R123). -/
def Acc.nonfinite (a : Acc) : Seg → Acc
  | .nan => { a with kind := 1, st := 1 }
  | .inf neg =>
    if a.st = 1 then a
    else if a.st = 2 ∧ a.neg ≠ neg then { a with st := 1 }
    else { a with kind := 1, st := 2, neg := neg }
  | .fin _ => a

/-- A segment of either kind. -/
def Acc.take (a : Acc) (g : Seg) : Acc × Bool :=
  match g with
  | .fin p => a.fold p
  | g => (a.nonfinite g, false)

/-- The state of an (S, E) pair read from memory (R136). -/
def pairSeg (s e : Val) : Seg :=
  match s, e with
  | .nan, _ => .nan
  | _, .nan => .nan
  | .inf a, .inf b => if a = b then .inf a else .nan
  | .inf a, _ => .inf a
  | _, .inf b => .inf b
  | _, _ => .fin s.dy

/-- rne() of a finite value, its zero with its sign (R121, R135). -/
def Val.rne (v : Val) : Val := fmtFp32.round .nearest v

/-- An accumulator that starts from a pair (R136); the vector unit keeps the signs of zeros (R135). -/
def Acc.ofPair (s e : Val) : Acc :=
  match pairSeg s e with
  | .fin _ => { kind := 1, s := s.fp32.1, e := e.fp32.1 }
  | g => ({ kind := 1 } : Acc).nonfinite g

/-- fold_pair (R136): the accumulator and whether it counts one SAT event. -/
def Acc.foldPair (a : Acc) (s e : Val) : Acc × Bool :=
  match pairSeg s e with
  | .fin _ =>
    if a.st ≠ 0 then (a, false)
    else
      let t := (fp32 a.s).add s
      let s1 := t.rne
      if s1.dy.over then (a.saturate t.isNeg, true)
      else ({ a with kind := 1, s := s1.fp32.1, e := ((fp32 a.e).add (e.add (t.add s1.neg)).rne).rne.fp32.1 }, false)
  | g => (a.nonfinite g, false)

/-- The output value y of an accumulator (R125): its FP32 code and whether it counts one SAT event. The array's S and E are never
-0 (R122). -/
def Acc.out (a : Acc) : Nat × Bool :=
  let sign := if a.neg then 0x80000000 else 0
  match a.st with
  | 1 => (0x7FC00000, false)
  | 2 => (0x7F800000 + sign, false)
  | 3 => (0x7F7FFFFF + sign, false)
  | _ =>
    let t := (fp32 a.s).add (fp32 a.e)
    if t.rne.dy.over then (0x7F7FFFFF + (if t.isNeg then 0x80000000 else 0), true) else t.fp32

/-- S and E as PAIR writes them (R127): a value that is not finite writes its y and +0. -/
def Acc.pair (a : Acc) : (Nat × Nat) × Bool :=
  if a.st = 0 then ((a.s, a.e), false) else let y := a.out; ((y.1, 0), y.2)

/-- An FP32 code is a NaN or an infinity. -/
def nonfiniteCode (c : Nat) : Bool := decide (0x7F800000 ≤ c % 0x80000000)

/-- Pure-integer accumulation (R126). -/
def Acc.addInt (a : Acc) (t : Int) : Acc × Bool :=
  if a.st = 3 then (a, false)
  else
    let v := a.i + t
    if v < -2147483648 then ({ a with kind := 2, st := 3, i := -2147483648 }, true)
    else if 2147483647 < v then ({ a with kind := 2, st := 3, i := 2147483647 }, true)
    else ({ a with kind := 2, i := v }, false)

/-! ### Segments (R118–R120, R123) -/

/-- The largest exponent G of the non-zero products of a segment (R120). -/
def wideTop (ps : List Val) : Option Int :=
  (ps.filter (fun p => !p.isZero)).foldl (fun (g : Option Int) p =>
    let k := p.floorLog2 + 1
    match g with
    | none => some k
    | some j => some (if j < k then k else j)) none

/-- floor(v · 2^k). -/
def Dy.floorAt (x : Dy) (k : Int) : Int :=
  let e := x.e + k
  if 0 ≤ e then x.m * 2 ^ e.toNat else x.m / (2 ^ (-e).toNat : Nat)

/-- The segment of a list of products. -/
def segment (wide : Bool) (ps : List Val) : Seg :=
  let infs := ps.filterMap (fun p => match p with | .inf s => some s | _ => none)
  if ps.any (fun p => p = .nan) then .nan
  else
    match infs with
    | s :: rest => if rest.any (fun t => t ≠ s) then .nan else .inf s
    | [] =>
      if wide then
        match wideTop ps with
        | none => .fin Dy.zero
        | some g => .fin { m := (ps.map (fun p => p.dy.floorAt (280 - g))).sum, e := g - 280 }
      else .fin (ps.foldl (fun a p => a.add p.dy) Dy.zero)

/-! ### ARR_MMA (R113–R131) -/

/-- The mode of an operand's format (R111): 0 T2, 1 NARROW4, 2 NARROW8, 3 WIDE16, 4 not admitted. -/
def arrayRank (fmt : Nat) : Nat :=
  match fmt with
  | 0 | 1 => 3
  | 2 | 3 | 4 => 2
  | 5 | 6 => 1
  | 7 => 0
  | _ => 4

/-- An INT8 or I4B operand with SCALE 0 (R103). -/
def pureOperand (v : View) : Bool := (v.fmt = 4 || v.fmt = 6) && decide (v.scale = 0)

/-- An ARR_MMA descriptor (R115). -/
structure Mma where
  a : View
  b : View
  aTrans : Bool
  bTrans : Bool
  sparse : Bool
  m16 : Nat
  n16 : Nat
  k16 : Nat
  outAt : Nat
  outPitch : Nat
  outScale : Nat
  outSide : Nat
  bitmap : Nat
  q : QCtl
deriving DecidableEq, Repr

/-- An operand's view from its descriptor byte (R73, R116). -/
def mmaView (addr desc scaleAt sideAt pitch : Nat) : View :=
  let fmt := bits desc 3 0
  { addr := addr, pitch := pitch, fmt := fmt, scale := bits desc 5 4, side := bit desc 6, scaleAt := scaleAt, sideAt := sideAt
    rowLen := pitch * 8 / fmtBits fmt }

/-- The descriptor at near address `d` of a tile. -/
def Work.mma (w : Work) (n d : Nat) : Mma :=
  let f := w.field n d
  let flags := f 0x3A 1
  { a := mmaView (f 0 4) (f 0x34 1) (f 0x10 4) (f 0x18 4) (f 0x28 4)
    b := mmaView (f 4 4) (f 0x35 1) (f 0x14 4) (f 0x1C 4) (f 0x2C 4)
    aTrans := bit flags 0, bTrans := bit flags 1, sparse := bit flags 2
    m16 := f 0x36 1, n16 := f 0x37 1, k16 := f 0x38 2, outAt := f 8 4, outPitch := f 0x30 4, outScale := f 0x20 4
    outSide := f 0x24 4, bitmap := f 0xC 4, q := QCtl.ofNat (f 0x3C 3) }

/-- The mode of the pair. -/
def Mma.mode (x : Mma) : Nat := Nat.max (arrayRank x.a.fmt) (arrayRank x.b.fmt)

/-- Both operands are pure integer. -/
def Mma.pure (x : Mma) : Bool := pureOperand x.a && pureOperand x.b

/-- B stands in its store with a row for each output column: transposed, or with 1D blocks along K (R84, R115; log
entry 23). -/
def Mma.bByColumn (x : Mma) : Bool := x.bTrans || decide (x.b.scale = 1)

/-- The largest N16 of a mode (R115). -/
def maxN16 (mode : Nat) : Nat := match mode with | 0 => 64 | 1 => 32 | 2 => 16 | _ => 8

/-- The rule that a descriptor breaks, of those that can be seen (R72, R74, R111, R115, R117, R127, R144). -/
def Mma.broken (x : Mma) (start out : Nat) (steal : Bool) : Option Nat :=
  let rows := 16 * x.m16
  let cols := 16 * x.n16
  let k := 16 * x.k16
  let bad := fun (v : View) (t : Bool) => t && (decide (v.scale = 1) || decide (v.addr < deepBase))
  let (br, bc) := if x.bByColumn then (cols, k) else (k, cols)
  let (ar, ac) := if x.aTrans then (k, rows) else (rows, k)
  if x.mode = 4 then some 111
  else if ¬ admits x.a.fmt x.a.scale x.a.side ∨ ¬ admits x.b.fmt x.b.scale x.b.side then some 74
  else if x.m16 = 0 ∨ 8 < x.m16 ∨ x.n16 = 0 ∨ maxN16 x.mode < x.n16 ∨ x.k16 = 0 ∨ 4096 < x.k16 then some 115
  else if bad x.a x.aTrans ∨ bad x.b x.bTrans then some 117
  else if (x.a.scale = 1 ∨ x.b.scale = 1) ∧ x.k16 % 2 ≠ 0 then some 117
  else if steal ∧ (start = 0 ∨ out = 0) then some 117
  else if 5 ≤ out ∨ (x.pure ∧ out = 2) ∨ (¬ x.pure ∧ out = 4) then some 127
  else if out = 3 ∧ (7 < x.q.fmt ∨ ¬ admits x.q.fmt x.q.scale x.q.side) then some 74
  else if out = 3 ∧ x.q.scale = 1 ∧ x.n16 % 2 ≠ 0 then some 117
  else if ¬ x.a.ok ar ac ∨ ¬ x.b.ok br bc then some 144
  else none

/-- The residue checker covers the move's products: modes T2, NARROW4 and NARROW8, and pure-integer mode (R141). -/
def Mma.covered (x : Mma) : Bool := decide (x.mode ≤ 2) || x.pure

/-- The segments of a move: first step and steps of each (R118, R126). -/
def Mma.segments (x : Mma) : List (Nat × Nat) :=
  let blockLen := fun (v : View) => match v.scale with | 1 => 32 | 2 => 16 | _ => 32
  let l := if x.pure then 32 else if x.mode = 3 then 16 else Nat.min (blockLen x.a) (blockLen x.b)
  let k := 16 * x.k16
  (List.range ((k + l - 1) / l)).map (fun i => (i * l, Nat.min l (k - i * l)))

/-- The block of K slice `q` and column group `g` of B is present (R130). -/
def Work.present (w : Work) (n : Nat) (x : Mma) (q g : Nat) : Bool :=
  !x.sparse || (let i := q * x.n16 + g; bit (w.tLe n (x.bitmap + i / 8) 1) (i % 8))

/-- The decoded elements of A, by output row then step, and of B, by output column then step (R87, R88, R131). -/
def Work.mmaOperands (w : Work) (n : Nat) (x : Mma) : List (List Val) × List (List Val) :=
  let k := List.range (16 * x.k16)
  ((List.range (16 * x.m16)).map (fun i => k.map (fun s => if x.aTrans then w.viewVal n x.a s i else w.viewVal n x.a i s)),
    (List.range (16 * x.n16)).map (fun j => k.map (fun s =>
      if ¬ w.present n x (s / 16) (j / 16) then Val.zero false
      else if x.bByColumn then w.viewVal n x.b j s else w.viewVal n x.b s j)))

/-- T2 codes 10 that the move reads (R82, R131). -/
def Work.mmaInvalid (w : Work) (n : Nat) (x : Mma) : Nat :=
  let count := fun (v : View) (rows cols : Nat) (ok : Nat → Nat → Bool) =>
    if v.fmt ≠ 7 then 0
    else ((List.range rows).map (fun r =>
      ((List.range cols).filter (fun c => ok r c && t2Invalid 7 (w.viewCode n v r c))).length)).sum
  let k := 16 * x.k16
  let (ar, ac) := if x.aTrans then (k, 16 * x.m16) else (16 * x.m16, k)
  let (br, bc) := if x.bByColumn then (16 * x.n16, k) else (k, 16 * x.n16)
  count x.a ar ac (fun _ _ => true) +
  count x.b br bc (fun r c => if x.bByColumn then w.present n x (c / 16) (r / 16) else w.present n x (r / 16) (c / 16))

/-- The key of the accumulator of output element (i, j). -/
def accKey (i j : Nat) : Nat := i * 1024 + j

/-- Every accumulator of the output tile after the move's segments (R118, R121, R126), with its SAT events. -/
def mmaFold (x : Mma) (old : Nat → Nat → Acc) (a b : List (List Val)) : List (List Acc) × Nat :=
  let segs := x.segments
  let rows := a.zip (List.range a.length)
  let cols := b.zip (List.range b.length)
  let all := rows.map (fun r => cols.map (fun c =>
    segs.foldl (fun (acc : Acc × Nat) g =>
      let ps := (((r.1.drop g.1).take g.2).zip ((c.1.drop g.1).take g.2)).map (fun p => p.1.mul p.2)
      let (y, sat) :=
        if x.pure then acc.1.addInt ((ps.map (fun p => p.dy.m * 2 ^ p.dy.e.toNat)).sum)
        else acc.1.take (segment (x.mode = 3) ps)
      (y, acc.2 + b2n sat)) (old r.2 c.2, 0)))
  (all.map (fun r => r.map (·.1)), (all.map (fun r => (r.map (·.2)).sum)).sum)

/-- y of an accumulator in either kind of mode (R125, R127): its FP32 code and whether it counts a SAT event. -/
def Acc.y (a : Acc) (pure : Bool) : Nat × Bool := if pure then (intVal a.i).fp32 else a.out

/-- The output of a move in modes 1, 2 and 4: the bytes of each row (R127). -/
def plainRows (out : Nat) (pure : Bool) (accs : List (List Acc)) : List (List Byte) × Ev :=
  let one := fun (a : Acc) =>
    match out with
    | 1 => let y := a.y pure; (leBytes 4 y.1, { Ev.ofSat y.2 with nonfin := nonfiniteCode y.1 })
    | 2 => let y := a.pair; (leBytes 4 y.1.1 ++ leBytes 4 y.1.2, { Ev.ofSat y.2 with nonfin := nonfiniteCode y.1.1 })
    | _ => (leBytes 4 (unsigned 32 a.i), ({} : Ev))
  let rs := accs.map (fun r => r.map one)
  (rs.map (fun r => r.flatMap (·.1)), Ev.sum (rs.flatMap (fun r => r.map (·.2))))

/-- Rows of bytes written with a pitch. -/
def Work.putRows (w : Work) (n at_ pitch : Nat) (rows : List (List Byte)) (poison : Bool) : Work :=
  w.each ((List.range rows.length).zip rows) (fun w p => w.put n (at_ + p.1 * pitch) p.2 poison)

/-- Rows of bytes lie at tile addresses that exist. -/
def rowsOk (at_ pitch : Nat) (rows : List (List Byte)) : Bool :=
  ((List.range rows.length).zip rows).all (fun p => tileAddrOk (at_ + p.1 * pitch) p.2.length)

/-- The output tile is written: to its own place, or to its reduction slot (R128). -/
def Work.mmaWrite (w : Work) (mv : Mover) (m : Nat) (x : Mma) (t : QTensor) : List Nat × Work :=
  let width := fmtBits x.q.fmt
  let rowLen := x.outPitch * 8 / width
  let sp := if x.q.scale = 1 then rowLen / 32 else rowLen / 16
  let own := fun (w : Work) =>
    let w := if rowsOk x.outAt x.outPitch t.rows && rowsOk x.outScale sp t.scales &&
        rowsOk x.outSide (sp * (if x.q.scale = 1 then 8 else 16)) t.sides then w else w.fail 144
    let w := w.putRows mv.n x.outAt x.outPitch t.rows false
    let w := w.putRows mv.n x.outScale sp t.scales false
    w.putRows mv.n x.outSide (sp * (if x.q.scale = 1 then 8 else 16)) t.sides false
  w.output mv m t.flat false own

/-- The effect of an ARR_MMA (R114): folds every K step of A × B and writes the output in mode OUT. -/
def mmaEffect (mv : Mover) (m : Nat) (w : Work) : Effect × Work :=
  let n := mv.n
  let d := mvDesc m
  let start := bits m 99 99
  let out := bits m 102 100
  if ¬ tileAddrOk d 64 then ({}, w.fail 144)
  else
    let w := (w.read mv (tileAddr n d) 64).2
    let x := w.mma n d
    match x.broken start out (mvSteal m) with
    | some rule => ({}, w.fail rule)
    | none =>
      let rows := 16 * x.m16
      let cols := 16 * x.n16
      let k := 16 * x.k16
      let shape := 1 + x.m16 + 16 * x.n16 + 2048 * x.mode + 8192 * b2n x.pure
      let home := decide (mv.phys = hostMesh w.s n)
      let held := (w.s.tile n).accs
      let cont := home && start = 0 && held ≠ []
      if cont ∧ (w.s.tile n).accShape ≠ shape then ({}, w.fail 117)
      else
        let old := fun i j => if cont then held.get {} (accKey i j) else ({} : Acc)
        let w := if x.sparse then (w.read mv (tileAddr n x.bitmap) ((x.k16 * x.n16 + 7) / 8)).2 else w
        let w := if x.aTrans then w.touch mv x.a k rows (fun _ _ => true) else w.touch mv x.a rows k (fun _ _ => true)
        let w :=
          if x.bByColumn then w.touch mv x.b cols k (fun g q => w.present n x q g)
          else w.touch mv x.b k cols (fun q g => w.present n x q g)
        let (a, b) := w.mmaOperands n x
        let (accs, sats) := mmaFold x old a b
        let ev : Ev :=
          { sat := sats, t2inv := w.mmaInvalid n x, fpSat := !x.pure && decide (0 < sats), intSat := x.pure && decide (0 < sats) }
        let units := x.segments.length * x.m16 * x.n16
        if out = 0 then
          let tbl := (List.range rows).zip accs |>.foldl (fun (t : Table Acc) r =>
            (List.range cols).zip r.2 |>.foldl (fun t c => t.put {} (accKey r.1 c.1) c.2) t) []
          ({ units := units, residue := x.covered },
            (w.modTile n (fun t => { t with accs := tbl, accShape := shape })).events mv.c n x.q.vgroup ev)
        else
          let w := if home then w.modTile n (fun t => { t with accs := [], accShape := 0 }) else w
          let stoch : Bool := decide (out = 3) && x.q.stoch
          let bd := if stoch then w.binding mv else none
          if stoch ∧ bd.isNone then ({}, w.fail 243)
          else
            let u := fun i j => match bd with | some b => w.uniform mv b i j | none => 0
            let ys := accs.map (fun r => r.map (fun a => a.y x.pure))
            let yev := Ev.sum (ys.flatMap (fun r => r.map (fun y => Ev.ofSat y.2)))
            let (t, ev2, w) :=
              if out = 3 then
                let t := quantTensor x.q (w.s.ctx mv.c).compat rows cols
                  (fun i j => fp32 (((ys.getD i []).getD j (0, false)).1)) u
                (t, t.ev.add yev, w)
              else
                let (rs, e) := plainRows out x.pure accs
                ({ rows := rs, scales := [], sides := [], ev := {} }, e, w)
            let w := w.events mv.c n x.q.vgroup (ev.add ev2)
            let (tiles, w) := w.mmaWrite mv m x t
            ({ tiles := tiles, quiet := tiles.isEmpty, units := units, residue := x.covered, out := 1 }, w)

/-- ARR_MMA (R114). -/
def execArrMma (c t : Nat) (u : List Upset) (s : State) : Host.Outcome State Fault Refusal :=
  run s (fun w => w.issueClass c t 0x08 u mmaEffect)

end Sys2Proof.Machine
end

