-- ==== Sys2Proof/Machine/Vector.lean ====
section
/-! DEFINITION. The vector unit (chapter 04, R133–R139; R246): element-wise operations, functions, conversions, folds of
reduction groups, row reductions, Bernoulli masks and relative positions. -/

namespace Sys2Proof.Machine

/-- A vector descriptor (R134). -/
structure Vec where
  src : List Nat
  dst : Nat
  count : Nat
  rowLen : Nat
  d : List Nat
  dd : Nat
  q : QCtl
  op : Nat
  bcast : Bool
  rowBcast : Bool
  pair : Bool
deriving DecidableEq, Repr

/-- The descriptor at near address `a` of a tile. -/
def Work.vec (w : Work) (n a : Nat) : Vec :=
  let f := w.field n a
  let flags := f 0x1E 1
  { src := [f 0 4, f 4 4, f 8 4], dst := f 0xC 4, count := f 0x10 4, rowLen := f 0x14 2, d := [f 0x16 1, f 0x17 1, f 0x18 1]
    dd := f 0x19 1, q := QCtl.ofNat (f 0x1A 3), op := f 0x1D 1, bcast := bit flags 0, rowBcast := bit flags 1
    pair := bit flags 2 }

/-- OP of the descriptor that a vector move names. -/
def Work.vecOp (w : Work) (n m : Nat) : Nat := w.field n (mvDesc m) 0x1D 1

/-- A range of the near store, the only store the vector unit touches (R134). -/
def nearOk (a n : Nat) : Bool := decide (a + n ≤ 0x600000)

/-- DD or QCTL lays `count` elements out as R134 asks. -/
def layoutOk (fmt scale : Nat) (side : Bool) (count rowLen : Nat) : Bool :=
  admits fmt scale side && (decide (scale ≠ 1) || decide (count % 32 = 0)) &&
  (decide (scale ≠ 2) || (decide (rowLen % 16 = 0) && decide (0 < rowLen) && decide (count % (16 * rowLen) = 0)))

/-- The first `n` elements of an operand of `k` elements at `addr` under operand descriptor `desc`, converted to FP32 (R101, R134),
in a move whose COUNT is `count`. -/
def Work.vecPart (w : Work) (mv : Mover) (addr desc count rowLen k n : Nat) : List (Val × Ev) × Work :=
  if ¬ layoutOk (bits desc 3 0) (bits desc 5 4) (bit desc 6) count rowLen ∨ ¬ nearOk addr (linearBytes desc k rowLen) then
    ([], w.fail 134)
  else
    let v := linearView addr desc k rowLen
    let w := if v.scale = 2 then w.touch mv v ((n + rowLen - 1) / rowLen) (Nat.min n rowLen) (fun _ _ => true)
      else w.touch mv v 1 n (fun _ _ => true)
    ((List.range n).map (fun k => let (r, c) := v.at k; w.viewFp32 mv.n v r c), w)

/-- `count` source elements from `addr` under operand descriptor `desc`, converted to FP32 (R101, R134). -/
def Work.vecSrc (w : Work) (mv : Mover) (addr desc count rowLen : Nat) : List (Val × Ev) × Work :=
  w.vecPart mv addr desc count rowLen count count

/-- `count` (S, E) pairs of FP32 from an address (R134, PAIR). -/
def Work.pairSrc (w : Work) (mv : Mover) (addr count : Nat) : List (Val × Val) × Work :=
  if ¬ nearOk addr (8 * count) then ([], w.fail 134)
  else
    let w := (w.read mv (tileAddr mv.n addr) (8 * count)).2
    ((List.range count).map (fun k => (fp32 (w.tLe mv.n (addr + 8 * k) 4), fp32 (w.tLe mv.n (addr + 8 * k + 4) 4))), w)

/-- A result rounded once to FP32 (R135), with its events. -/
def roundResult (v : Val) (e : Ev) : Nat × Ev := let (c, sat) := v.fp32; (c, e.add (Ev.ofSat sat))

/-- The uniforms that a move draws for its destination, where it draws any (R242); none where it has no binding. -/
def Work.drawsFor (w : Work) (mv : Mover) (draws : Bool) : Option (Nat → Nat) :=
  if ¬ draws then some (fun _ => 0)
  else (w.binding mv).map (fun b => fun j => w.uniform mv b 0 j)

/-- Bytes go to the move's own destination, or to its reduction slot (R59). -/
def Work.vecPut (w : Work) (mv : Mover) (m dst : Nat) (main side : List Byte) : List Nat × Work :=
  let at_ := roundUp (dst + main.length) 16
  let flat := if side = [] then main else padTo (roundUp main.length 16) main ++ side
  w.output mv m flat false (fun w =>
    if ¬ nearOk dst main.length ∨ (side ≠ [] ∧ ¬ nearOk at_ side.length) then w.fail 134
    else
      let w := w.put mv.n dst main false
      if side = [] then w else w.put mv.n at_ side false)

/-- Results as FP32 codes go to the destination that DD and QCTL name (R135), with the events of the move. -/
def Work.vecWrite (w : Work) (mv : Mover) (m : Nat) (x : Vec) (ys : List Nat) (e : Ev) : List Nat × Work :=
  let fmt := bits x.dd 3 0
  let n := ys.length
  if fmt = 8 then
    if bits x.dd 6 4 ≠ 0 then ([], w.fail 135)
    else
      let e := e.add { nonfin := ys.any nonfiniteCode }
      (w.events mv.c mv.n 0xFF e).vecPut mv m x.dst (ys.flatMap (leBytes 4)) []
  else
    match w.drawsFor mv x.q.stoch with
    | none => ([], w.fail 243)
    | some u =>
      let tw1 := (w.s.ctx mv.c).compat
      if fmt = 9 then
        let rs := ((List.range n).zip ys).map (fun p => encodeElem 9 (roundingOf x.q.stoch tw1 (u p.1)) (fp32 p.2))
        let e := (Ev.sum (rs.map (fun r => if r.2 then ({ sat := 1, intSat := true } : Ev) else {}))).add e
        let e := e.add { nonfin := ys.any nonfiniteCode }
        (w.events mv.c mv.n x.q.vgroup e).vecPut mv m x.dst (rs.flatMap (fun r => leBytes 4 r.1)) []
      else if 7 < x.q.fmt ∨ ¬ layoutOk x.q.fmt x.q.scale x.q.side n x.rowLen then ([], w.fail 134)
      else
        let cols := if x.q.scale = 2 then x.rowLen else n
        let t := quantTensor x.q tw1 (n / Nat.max 1 cols) cols (fun i j => fp32 (ys.getD (i * cols + j) 0)) (fun i j => u (i * cols + j))
        (w.events mv.c mv.n x.q.vgroup (e.add t.ev)).vecPut mv m x.dst (t.rows.flatten ++ t.scales.flatten) t.sides.flatten

/-- Integer results, written as they are (R137, R138). -/
def Work.vecInts (w : Work) (mv : Mover) (m : Nat) (x : Vec) (is : List Int) (e : Ev) : List Nat × Work :=
  (w.events mv.c mv.n 0xFF e).vecPut mv m x.dst (is.flatMap (fun i => leBytes 4 (unsigned 32 i))) []

/-- The vector move's descriptor, read at issue; `elems` is how many elements its lanes take, 64 in an issue. How many issues a
VEC_FOLD, a VEC_RED or a VEC_FN makes is not said: DESIGN CHOICE, a fold takes COUNT for each contribution and the others COUNT
(R142; log entry 46). -/
def vecEffect (mv : Mover) (m : Nat) (w : Work) (f : Vec → Work → List Nat × Work) (elems : Vec → Work → Nat) : Effect × Work :=
  let d := mvDesc m
  if ¬ nearOk d 32 then ({}, w.fail 134)
  else
    let w := (w.read mv (tileAddr mv.n d) 32).2
    let x := w.vec mv.n d
    let units := (elems x w + 63) / 64
    let (tiles, w) := f x w
    ({ tiles := tiles, quiet := tiles.isEmpty, units := units }, w)

/-- Elements of one operation over COUNT elements. -/
def countElems (x : Vec) (_ : Work) : Nat := x.count

/-- VEC_EW (R133, R135). The spec does not say what PAIR means here, nor which holds where BCAST and ROW_BCAST are both 1: DESIGN
CHOICE, PAIR is ignored, as on VEC_FN and VEC_CVT, and BCAST wins (log entry 46). -/
def vecEwEffect (mv : Mover) (m : Nat) (w : Work) : Effect × Work :=
  vecEffect mv m w (fun x w =>
    let src := fun i => x.src.getD i 0
    let d := fun i => x.d.getD i 0
    let (a, w) := w.vecSrc mv (src 0) (d 0) x.count x.rowLen
    if 6 < x.op then ([], w.fail 135)
    else if x.op = 6 then
      let bytes := (x.count + 7) / 8
      let (c, w) := w.vecPart mv (src 2) (d 2) x.count x.rowLen x.count (Nat.min 1 x.count)
      if ¬ nearOk (src 1) bytes then ([], w.fail 134)
      else
        let w := (w.read mv (tileAddr mv.n (src 1)) bytes).2
        let (cv, ce) := c.getD 0 (.nan, {})
        let rs := ((List.range a.length).zip a).map (fun p =>
          if bit (w.tLe mv.n (src 1 + p.1 / 8) 1) (p.1 % 8) then roundResult (p.2.1.mul cv) p.2.2 else (0, p.2.2))
        w.vecWrite mv m x (rs.map (·.1)) ((Ev.sum (rs.map (·.2))).add ce)
    else if x.rowBcast ∧ x.rowLen = 0 ∧ ¬ x.bcast then ([], w.fail 134)
    else
      let nb := if x.bcast then 1 else if x.rowBcast then x.rowLen else x.count
      let (b, w) := w.vecPart mv (src 1) (d 1) x.count x.rowLen nb nb
      let (c, w) := if x.op = 3 then w.vecSrc mv (src 2) (d 2) x.count x.rowLen else ([], w)
      let rs := ((List.range a.length).zip a).map (fun p =>
        let bv := b.getD (p.1 % Nat.max 1 nb) (.nan, {})
        let cv := c.getD p.1 (.nan, {})
        roundResult (binary x.op p.2.1 bv.1 cv.1) (p.2.2.add cv.2))
      w.vecWrite mv m x (rs.map (·.1)) ((Ev.sum (rs.map (·.2))).add (Ev.sum (b.map (·.2))))) countElems

/-- A function of VEC_FN with OP 0x20–0x2B (R133, R135). -/
def vecFunction (mv : Mover) (m : Nat) (x : Vec) (w : Work) : List Nat × Work :=
  if x.op < 0x20 ∨ 0x2B < x.op then ([], w.fail 135)
  else
    let (a, w) := w.vecSrc mv (x.src.getD 0 0) (x.d.getD 0 0) x.count x.rowLen
    let rs := a.map (fun p => roundResult (unary x.op p.1) p.2)
    w.vecWrite mv m x (rs.map (·.1)) (Ev.sum (rs.map (·.2)))

/-- BERNOULLI (R246): mask bits of the class-A uniforms. -/
def vecBernoulli (mv : Mover) (m : Nat) (x : Vec) (w : Work) : List Nat × Work :=
  if x.count % 8 ≠ 0 then ([], w.fail 246)
  else
    match w.drawsFor mv true with
    | none => ([], w.fail 243)
    | some u =>
      let p := lowBits 16 (x.src.getD 0 0)
      w.vecPut mv m x.dst (packCodes 1 ((List.range x.count).map (fun k => b2n (decide (u k < p))))) []

/-- RELPOS (R138): relative positions of a block of query tokens against a block of key tokens. The spec gives a DD that is neither
FP32 nor INT32 no result: DESIGN CHOICE, it is UNPREDICTABLE like the conditions that R138 lists (log entry 46). -/
def vecRelpos (mv : Mover) (m : Nat) (x : Vec) (w : Work) : List Nat × Work :=
  let fmt := bits x.dd 3 0
  if x.rowLen = 0 ∨ x.count % Nat.max 1 x.rowLen ≠ 0 ∨ (fmt ≠ 8 ∧ fmt ≠ 9) then ([], w.fail 138)
  else if ¬ nearOk (x.src.getD 0 0) 4 ∨ ¬ nearOk (x.src.getD 1 0) 4 then ([], w.fail 134)
  else
    let (q, w) := w.read mv (tileAddr mv.n (x.src.getD 0 0)) 4
    let (k, w) := w.read mv (tileAddr mv.n (x.src.getD 1 0)) 4
    let q0 := lowBits 24 (ofLe q)
    let k0 := lowBits 24 (ofLe k)
    if 0 < x.count ∧ (2 ^ 23 ≤ q0 + (x.count - 1) / x.rowLen ∨ 2 ^ 23 ≤ k0 + (x.rowLen - 1)) then ([], w.fail 138)
    else
      let ds := (List.range x.count).map (fun i => ((q0 + i / x.rowLen : Nat) : Int) - ((k0 + i % x.rowLen : Nat) : Int))
      if fmt = 9 then w.vecInts mv m x ds {}
      else w.vecPut mv m x.dst (ds.flatMap (fun d => leBytes 4 ((intVal d).fp32).1)) []

/-- VEC_FN of any OP: what a thief runs too. -/
def vecFnEffect (mv : Mover) (m : Nat) (w : Work) : Effect × Work :=
  vecEffect mv m w (fun x w =>
    if x.op = 0x30 then vecBernoulli mv m x w
    else if x.op = 0x31 then vecRelpos mv m x w
    else vecFunction mv m x w) countElems

/-- VEC_CVT (R133): from D0 to DD. -/
def vecCvtEffect (mv : Mover) (m : Nat) (w : Work) : Effect × Work :=
  vecEffect mv m w (fun x w =>
    let (a, w) := w.vecSrc mv (x.src.getD 0 0) (x.d.getD 0 0) x.count x.rowLen
    w.vecWrite mv m x (a.map (fun p => (p.1.fp32).1)) (Ev.sum (a.map (·.2)))) countElems

/-- The (S, E) pairs of `count` elements, or the values with +0 (R136). -/
def Work.foldSrc (w : Work) (mv : Mover) (x : Vec) (addr count : Nat) : List (Val × Val) × Ev × Work :=
  if x.pair then
    let (ps, w) := w.pairSrc mv addr count
    (ps, {}, w)
  else
    let (a, w) := w.vecSrc mv addr (x.d.getD 0 0) count x.rowLen
    (a.map (fun p => (p.1, Val.zero false)), Ev.sum (a.map (·.2)), w)

/-- A list of accumulators folds a contribution each (R136): the accumulators and the SAT events. -/
def foldPairs (accs : List Acc) (ps : List (Val × Val)) : List Acc × Nat :=
  let rs := (accs.zip ps).map (fun p => p.1.foldPair p.2.1 p.2.2)
  (rs.map (·.1), (rs.filter (·.2)).length)

/-- Accumulators go to the destination: pairs where DD is FP32 and PAIR is 1, else y (R136). -/
def Work.accWrite (w : Work) (mv : Mover) (m : Nat) (x : Vec) (accs : List Acc) (e : Ev) : List Nat × Work :=
  if x.pair ∧ bits x.dd 3 0 = 8 then
    let ps := accs.map (·.pair)
    let e := e.add { nonfin := ps.any (fun p => nonfiniteCode p.1.1) }
    (w.events mv.c mv.n 0xFF e).vecPut mv m x.dst (ps.flatMap (fun p => leBytes 4 p.1.1 ++ leBytes 4 p.1.2)) []
  else
    let ys := accs.map (·.out)
    w.vecWrite mv m x (ys.map (·.1)) (e.add (Ev.sum (ys.map (fun y => Ev.ofSat y.2))))

/-- SAT events of a fold. -/
def Ev.sats (n : Nat) : Ev := { sat := n, fpSat := decide (0 < n) }

/-- The group that a VEC_FOLD names (R133). -/
def Work.foldGroup (w : Work) (mv : Mover) (m : Nat) : Option Group :=
  match (w.s.ctx mv.c).running with
  | none => none
  | some b => w.group b (bits m 110 99)

/-- VEC_FOLD (R136): the group's contributions in ascending slot order. -/
def vecFoldEffect (mv : Mover) (m : Nat) (w : Work) : Effect × Work :=
  vecEffect mv m w (fun x w =>
    match w.foldGroup mv m with
    | none => ([], w.fail 133)
    | some g =>
      if pkgTile (w.s.ctx mv.c) g.tile ≠ mv.n ∨ g.count = 0 then ([], w.fail 136)
      else
        let (first, e0, w) := w.foldSrc mv x (w.posAddr mv.c g 0) x.count
        let accs := first.map (fun p => Acc.ofPair p.1 p.2)
        let (accs, e, w) := (List.range (g.count - 1)).foldl (fun (acc : List Acc × Ev × Work) i =>
          let (ps, e, w) := acc.2.2.foldSrc mv x (acc.2.2.posAddr mv.c g (i + 1)) x.count
          let (as', n) := foldPairs acc.1 ps
          (as', (acc.2.1.add e).add (Ev.sats n), w)) (accs, e0, w)
        w.accWrite mv m x accs e)
    (fun x w => match w.foldGroup mv m with | none => 0 | some g => x.count * g.count)

/-- The order of R137: a NaN above every number. -/
def redLt (x y : Val) : Bool := if x = .nan then false else if y = .nan then true else x.lt y

/-- The lowest index of the largest value, and the value (R137). -/
def redMax (xs : List Val) : Nat × Val :=
  ((List.range xs.length).zip xs).foldl (fun (b : Nat × Val) p => if redLt b.2 p.2 then p else b) (0, xs.headD .nan)

/-- VEC_RED (R137). With PAIR = 1, SUM folds the pairs and MAX and ARGMAX compare S alone, which is DESIGN CHOICE (log entry 46). -/
def vecRedEffect (mv : Mover) (m : Nat) (w : Work) : Effect × Work :=
  vecEffect mv m w (fun x w =>
    if x.rowLen = 0 ∨ x.count % Nat.max 1 x.rowLen ≠ 0 ∨ x.op < 0x40 ∨ 0x42 < x.op then ([], w.fail 137)
    else
      let (ps, e, w) := w.foldSrc mv x (x.src.getD 0 0) x.count
      let rows := (List.range (x.count / x.rowLen)).map (fun r => (ps.drop (r * x.rowLen)).take x.rowLen)
      if x.op = 0x40 then
        let rs := rows.map (fun r => r.foldl (fun (a : Acc × Nat) p =>
          let (y, sat) := a.1.foldPair p.1 p.2
          (y, a.2 + b2n sat)) (({ kind := 1 } : Acc), 0))
        let ys := rs.map (fun r => r.1.out)
        w.vecWrite mv m x (ys.map (·.1))
          ((e.add (Ev.sats (rs.map (·.2)).sum)).add (Ev.sum (ys.map (fun y => Ev.ofSat y.2))))
      else
        let best := rows.map (fun r => redMax (r.map (·.1)))
        if x.op = 0x41 then w.vecWrite mv m x (best.map (fun b => (b.2.fp32).1)) e
        else w.vecInts mv m x (best.map (fun b => (b.1 : Int))) e) countElems

/-- VEC_EW. -/
def execVecEw (c t : Nat) (u : List Upset) (s : State) : Host.Outcome State Fault Refusal :=
  run s (fun w => w.issueClass c t 0x10 u vecEwEffect)

/-- VEC_FN with a function of R133. -/
def execVecFn (c t : Nat) (u : List Upset) (s : State) : Host.Outcome State Fault Refusal :=
  run s (fun w => w.issue c t u (fun m => decide (mvClass m = 0x11) && decide (w.vecOp t m ≠ 0x30) && decide (w.vecOp t m ≠ 0x31))
    vecFnEffect)

/-- VEC_FN with OP 0x30, BERNOULLI (R246). -/
def execBernoulli (c t : Nat) (u : List Upset) (s : State) : Host.Outcome State Fault Refusal :=
  run s (fun w => w.issue c t u (fun m => decide (mvClass m = 0x11) && decide (w.vecOp t m = 0x30)) vecFnEffect)

/-- VEC_FN with OP 0x31, RELPOS (R138). -/
def execRelpos (c t : Nat) (u : List Upset) (s : State) : Host.Outcome State Fault Refusal :=
  run s (fun w => w.issue c t u (fun m => decide (mvClass m = 0x11) && decide (w.vecOp t m = 0x31)) vecFnEffect)

/-- VEC_CVT. -/
def execVecCvt (c t : Nat) (u : List Upset) (s : State) : Host.Outcome State Fault Refusal :=
  run s (fun w => w.issueClass c t 0x12 u vecCvtEffect)

/-- VEC_FOLD. -/
def execVecFold (c t : Nat) (u : List Upset) (s : State) : Host.Outcome State Fault Refusal :=
  run s (fun w => w.issueClass c t 0x13 u vecFoldEffect)

/-- VEC_RED. -/
def execVecRed (c t : Nat) (u : List Upset) (s : State) : Host.Outcome State Fault Refusal :=
  run s (fun w => w.issueClass c t 0x14 u vecRedEffect)

end Sys2Proof.Machine
end

