-- ==== Sys2Proof/Machine/Store.lean ====
section
/-! DEFINITION. The store moves (chapter 05, R155–R162): copies within a tile, loads and saves of context memory, fills
and sends to another tile of the role. -/

namespace Sys2Proof.Machine

/-- A store descriptor (R156). -/
structure StoreDesc where
  src : Nat
  dst : Nat
  rows : Nat
  bytes : Nat
  srcPitch : Nat
  dstPitch : Nat
deriving DecidableEq, Repr

/-- The descriptor at near address `d` of a tile. -/
def Work.storeDesc (w : Work) (n d : Nat) : StoreDesc :=
  let f := w.field n d
  { src := f 0 8, dst := f 8 8, rows := f 0x10 4, bytes := f 0x14 4, srcPitch := f 0x18 4, dstPitch := f 0x1C 4 }

/-- The tile address of a descriptor's field (R156). -/
def tileField (x : Nat) : Nat := lowBits 32 x

/-- The ranges of R156. -/
def StoreDesc.ok (d : StoreDesc) : Bool :=
  decide (1 ≤ d.rows) && decide (d.rows ≤ 65535) && decide (4 ≤ d.bytes) && decide (d.bytes ≤ 1048576) && decide (d.bytes % 4 = 0)

/-- Rows of a tile range: multiples of 4 (R157) at tile addresses that exist (R144). -/
def tileRowsOk (at_ pitch rows bytes : Nat) : Bool :=
  decide (at_ % 4 = 0) && decide (pitch % 4 = 0) && tileAddrOk at_ bytes && tileAddrOk (at_ + (rows - 1) * pitch) bytes

/-- Rows of two ranges of one tile do not meet (R157). -/
def rowsApart (a ap an b bp bn : Nat) (rows rowsB : Nat) : Bool :=
  apart a ((rows - 1) * ap + an) b ((rowsB - 1) * bp + bn) ||
  (List.range rows).all (fun i => (List.range rowsB).all (fun j => apart (a + i * ap) an (b + j * bp) bn))

/-- A store move's descriptor is read at issue; `f` is the move's effect. -/
def storeEffect (mv : Mover) (m : Nat) (w : Work) (f : StoreDesc → Work → Effect × Work) : Effect × Work :=
  let d := mvDesc m
  if ¬ nearOk d 32 then ({}, w.fail 144)
  else
    let w := (w.read mv (tileAddr mv.n d) 32).2
    let x := w.storeDesc mv.n d
    if ¬ x.ok then ({}, w.fail 156) else f x w

/-- Rows of a tile range, each with whether it comes poisoned. -/
def Work.tileRows (w : Work) (mv : Mover) (at_ pitch rows bytes : Nat) (u : List Upset) : List (List Byte × Bool) × Work :=
  (List.range rows).foldl (fun (acc : List (List Byte × Bool) × Work) r =>
    let a := tileAddr mv.n (at_ + r * pitch)
    let bad := acc.2.badRange u a bytes
    let (bs, w) := acc.2.read mv a bytes
    (acc.1 ++ [(bs, bad)], w)) ([], w)

/-- Rows written to a tile, with their marks. -/
def Work.putMarked (w : Work) (n at_ pitch : Nat) (rows : List (List Byte × Bool)) : Work :=
  w.each ((List.range rows.length).zip rows) (fun w p => w.put n (at_ + p.1 * pitch) p.2.1 p.2.2)

/-- Rows go to the tile's own destination, or to the move's reduction slot (R393). -/
def Work.putOrContribute (w : Work) (mv : Mover) (m at_ pitch : Nat) (rows : List (List Byte × Bool)) : List Nat × Work :=
  w.output mv m (rows.flatMap (·.1)) (rows.any (·.2)) (fun w =>
    if tileRowsOk at_ pitch rows.length ((rows.headD ([], false)).1.length) then w.putMarked mv.n at_ pitch rows else w.fail 144)

/-- The transpose of a stored element array (R88, R153, R155): a row for each column. -/
def transposeRows (width : Nat) (rows : List (List Byte)) (cols : Nat) : List (List Byte) :=
  let code := fun (r : List Byte) c => ofLe (slice r (c * width / 8) ((width + 7) / 8)) / 2 ^ (c * width % 8) % 2 ^ width
  (List.range cols).map (fun c => packCodes width (rows.map (fun r => code r c)))

/-- ST_COPY copies rows of the tile, transposed where TRANS is 1 (R155, R157). -/
def copyRows (u : List Upset) (mv : Mover) (m : Nat) (d : StoreDesc) (w : Work) : Effect × Work :=
  let src := tileField d.src
  let dst := tileField d.dst
  let trans := bit m 99
  let edesc := bits m 107 100
  let width := fmtBits (bits edesc 3 0)
  let cols := d.bytes * 8 / width
  let (outRows, outBytes) := if trans then (cols, d.rows * width / 8) else (d.rows, d.bytes)
  if ¬ tileRowsOk src d.srcPitch d.rows d.bytes then ({}, w.fail 144)
  else if trans ∧ (src < deepBase ∨ ¬ admits (bits edesc 3 0) 0 false ∨ bits edesc 6 4 ≠ 0) then ({}, w.fail 157)
  else if trans ∧ (d.rows % 16 ≠ 0 ∨ cols % 16 ≠ 0) then ({}, w.fail 156)
  else if (w.slotGroup mv.c (mvSlot m)).isNone ∧ ¬ rowsApart src d.srcPitch d.bytes dst d.dstPitch outBytes d.rows outRows then
    ({}, w.fail 157)
  else
    let (rows, w) := w.tileRows mv src d.srcPitch d.rows d.bytes u
    let out :=
      if trans then (transposeRows width (rows.map (·.1)) cols).map (fun r => (r, rows.any (·.2))) else rows
    let (tiles, w) := w.putOrContribute mv m dst d.dstPitch out
    ({ tiles := tiles, quiet := tiles.isEmpty }, w)

/-- ST_COPY. -/
def execStCopy (c t : Nat) (u : List Upset) (s : State) : Host.Outcome State Fault Refusal :=
  run s (fun w => w.issueClass c t 0x18 u (fun mv m w => storeEffect mv m w (copyRows u mv m)))

/-- Rows of a context range; none where a fault has stopped the context. -/
def Work.ctxRows (w : Work) (mv : Mover) (at_ pitch rows bytes : Nat) (u : List Upset) : Option (List (List Byte × Bool)) × Work :=
  (List.range rows).foldl (fun (acc : Option (List (List Byte × Bool)) × Work) r =>
    match acc.1 with
    | none => acc
    | some rs =>
      match acc.2.readCtx mv (at_ + r * pitch) bytes u with
      | (none, w) => (none, w)
      | (some b, w) => (some (rs ++ [b]), w)) (some [], w)

/-- ST_LOAD loads rows of context memory; with ONCE, only where its bit is clear (R155, R158, R162). -/
def loadRows (u : List Upset) (mv : Mover) (m : Nat) (d : StoreDesc) (w : Work) : Effect × Work :=
  let dst := tileField d.dst
  let once := bit m 105
  let id := bits m 104 99
  if once ∧ bit (w.s.tile mv.n).once id then ({ tiles := [mv.n] }, w)
  else
    match w.ctxRows mv d.src d.srcPitch d.rows d.bytes u with
    | (none, w) => ({ quiet := true, hbm := true }, w)
    | (some rows, w) =>
      let (tiles, w) := w.putOrContribute mv m dst d.dstPitch rows
      ({ tiles := tiles, quiet := tiles.isEmpty, hbm := true, once := if once then some id else none }, w)

/-- ST_LOAD. -/
def execStLoad (c t : Nat) (u : List Upset) (s : State) : Host.Outcome State Fault Refusal :=
  run s (fun w => w.issueClass c t 0x19 u (fun mv m w => storeEffect mv m w (loadRows u mv m)))

/-- ST_SAVE saves rows to context memory (R155, R158, R159). -/
def saveRows (u : List Upset) (mv : Mover) (d : StoreDesc) (w : Work) : Effect × Work :=
  let src := tileField d.src
  if ¬ tileRowsOk src d.srcPitch d.rows d.bytes then ({}, w.fail 144)
  else
    let (rows, w) := w.tileRows mv src d.srcPitch d.rows d.bytes u
    let (ok, w) := ((List.range d.rows).zip rows).foldl (fun (acc : Bool × Work) p =>
      if acc.1 then acc.2.writeCtx mv (d.dst + p.1 * d.dstPitch) p.2.1 p.2.2 u else acc) (true, w)
    ({ hbm := true, quiet := !ok }, w)

/-- ST_SAVE. -/
def execStSave (c t : Nat) (u : List Upset) (s : State) : Host.Outcome State Fault Refusal :=
  run s (fun w => w.issueClass c t 0x1A u (fun mv m w => storeEffect mv m w (saveRows u mv)))

/-- ST_FILL writes the pattern to every word of the destination rows (R155). -/
def fillRows (mv : Mover) (d : StoreDesc) (w : Work) : Effect × Work :=
  let dst := tileField d.dst
  if ¬ tileRowsOk dst d.dstPitch d.rows d.bytes then ({}, w.fail 144)
  else
    let row := (List.range (d.bytes / 4)).flatMap (fun _ => leBytes 4 (lowBits 32 d.src))
    ({}, w.putMarked mv.n dst d.dstPitch (List.replicate d.rows (row, false)))

/-- ST_FILL. -/
def execStFill (c t : Nat) (u : List Upset) (s : State) : Host.Outcome State Fault Refusal :=
  run s (fun w => w.issueClass c t 0x1B u (fun mv m w => storeEffect mv m w (fillRows mv)))

/-- ST_SEND sends rows to tile addresses of logical tile TARGET_TILE of the role (R155, R159). -/
def sendRows (u : List Upset) (mv : Mover) (m : Nat) (d : StoreDesc) (w : Work) : Effect × Work :=
  let src := tileField d.src
  let dst := tileField d.dst
  let x := w.s.ctx mv.c
  let to_ := bits m 106 99
  if 11 * regionCount x ≤ to_ then ({}, w.fail 155)
  else if ¬ tileRowsOk src d.srcPitch d.rows d.bytes ∨ ¬ tileRowsOk dst d.dstPitch d.rows d.bytes then ({}, w.fail 144)
  else
    let n := pkgTile x to_
    let (rows, w) := w.tileRows mv src d.srcPitch d.rows d.bytes u
    ({ tiles := [n] }, w.putMarked n dst d.dstPitch rows)

/-- ST_SEND. -/
def execStSend (c t : Nat) (u : List Upset) (s : State) : Host.Outcome State Fault Refusal :=
  run s (fun w => w.issueClass c t 0x1C u (fun mv m w => storeEffect mv m w (sendRows u mv m)))

end Sys2Proof.Machine
end

