-- ==== Sys2Proof/Machine/Rows.lean ====
section
/-! DEFINITION. Rows read by the gather engine and the prefetcher: the row cache (R171, R172), requests of 32 and 128
bytes (R186, R187, R327), directory entries and table rows (R296–R300). -/

namespace Sys2Proof.Machine

/-! ### The row cache (R145, R147, R171, R172) -/

/-- The enabled ways of a physical tile: the larger F_c in force of the logical tiles it hosts (R147). -/
def Work.rcWays (w : Work) (c p : Nat) : Nat :=
  let r := regionOfMesh p
  (((List.range 11).map (fun k => 11 * r + k)).filter (fun n => decide (hostMesh w.s n = p))).foldl
    (fun m n => Nat.max m ((w.footInForce c n).cache / 0x20000)) 0

/-- The lowest of the ways by a measure, ties to the lower way. -/
def leastWay : List RcWay → Option RcWay
  | [] => none
  | y :: ys => match leastWay ys with | none => some y | some z => some (if z.count < y.count then z else y)

/-- A line's bytes with one sector filled. -/
def fillSector (data : List Byte) (sector : Nat) (got : List Byte) : List Byte :=
  (padTo 128 data).take (32 * sector) ++ got ++ (padTo 128 data).drop (32 * sector + 32)

/-- One access of a set (R172): whether it hits, the sector's bytes (the line's, or `got`, which a miss fetches), and the set
after it. -/
def RcSet.access (x : RcSet) (ways tag sector : Nat) (got : List Byte) : Bool × List Byte × RcSet :=
  let (hit, bs, ys) : Bool × List Byte × List RcWay :=
    match x.ways.find? (fun y => y.used && decide (y.tag = tag)) with
    | some y =>
      let hit := bit y.svalid sector
      let z := { y with
        svalid := y.svalid ||| 2 ^ sector, count := Nat.min 15 (y.count + 1)
        data := if hit then y.data else fillSector y.data sector got }
      (hit, if hit then slice y.data (32 * sector) 32 else got, x.ways.map (fun v => if v.way = y.way then z else v))
    | none =>
      let free := (List.range ways).find? (fun k => !x.ways.any (fun y => y.used && decide (y.way = k)))
      let way := match free with
        | some k => some k
        | none => (leastWay (x.ways.filter (fun y => decide (y.way < ways)))).map (·.way)
      match way with
      | none => (false, got, x.ways)
      | some k =>
        let z : RcWay := { way := k, tag := tag, svalid := 2 ^ sector, count := 1, used := true, data := fillSector [] sector got }
        (false, got, sortBy (fun a b => decide (a.way < b.way)) (z :: x.ways.filter (fun y => y.way ≠ k)))
  let n := x.accesses + 1
  (hit, bs, if n = 256 then { ways := ys.map (fun y => { y with count := y.count / 2 }), accesses := 0 } else { ways := ys, accesses := n })

/-- A parity error of a row-cache line, in the command's operands: kind 2, with word (set × 16 + way) × 4 + sector. The line
holds no data then, so that the access is a miss and refetches it (R168). -/
def RcSet.parity (x : RcSet) (u : List Upset) (s : State) (phys set tag : Nat) : RcSet :=
  { x with
    ways := x.ways.map (fun y =>
      if y.tag = tag ∧ u.any (fun e => match e with
        | .ceStore n 2 word => decide (hostMesh s n = phys) && decide (word / 4 = set * 16 + y.way)
        | _ => false) then { y with svalid := 0 } else y) }

/-- The number of a row cache's enabled ways is brought up to date; a change resets it (R147, R172). -/
def Work.syncWays (w : Work) (c n : Nat) : Work :=
  let k := w.rcWays c (hostMesh w.s n)
  w.modPh (hostMesh w.s n) (fun p => if p.rcWays = k then p else { p with rc := [], rcWays := k })

/-! ### Requests (R187, R327, R343) -/

/-- Aligned pieces of `g` bytes that a range of a board address touches. -/
def alignedPieces (b n g : Nat) : List Nat := (List.range ((b + n + g - 1) / g - b / g)).map (fun i => (b / g + i) * g)

/-- One request of `g` bytes is served: it counts at this package's HBM or tile store, or goes to another package as a READ
(R343, R358, R521). -/
def Work.serve (w : Work) (c b g : Nat) (sector : Bool) : Work :=
  if ¬ ownSlot w.s b then w.askRemote (ctxTag w.s c) b g
  else
    let a := pkgAddr b
    let w := w.count a g false
    if sector ∧ inHbm a then w.modStack (stackOf a) (fun k => { k with sectors := wrapAdd 64 k.sectors 1 }) else w

/-- The sector-path requests by which an update unit reads or writes a context range of a table count, one to each aligned sector
(R327, R343). -/
def Work.countSectors (w : Work) (c a n : Nat) : Work :=
  w.each (w.spans c a a n false none).1 (fun w p =>
    if ownSlot w.s p.2.2 ∧ inHbm (pkgAddr p.2.2) then
      w.modStack (stackOf (pkgAddr p.2.2)) (fun k => { k with sectors := wrapAdd 64 k.sectors (alignedPieces p.2.2 p.2.1 32).length })
    else w)

/-- An access of a physical tile's row cache to the sector at an aligned board address: the sector's bytes (R168, R172,
R521). -/
def Work.rcAccess (w : Work) (m : Mover) (u : List Upset) (b : Nat) (sector : Bool) : List Byte × Work :=
  let set := bits b 16 7
  let p := w.s.ph m.phys
  let old := (p.rc.get {} set).parity u w.s m.phys set (bits b 47 17)
  let (hit, bs, x) := old.access (w.rcWays m.c m.phys) (bits b 47 17) (bits b 6 5) (w.rdBoard u b 32)
  let w := w.setPh m.phys
    { p with
      rc := p.rc.put {} set x, rcHit := if hit then wrapAdd 64 p.rcHit 32 else p.rcHit
      rcMiss := if hit then p.rcMiss else wrapAdd 64 p.rcMiss 32 }
  (bs, if hit then w else w.serve m.c b 32 sector)

/-- The bytes of a range by the requests that fetch them: the sectors that miss in the row cache, or all (R171, R187). -/
def Work.fetchRange (w : Work) (m : Mover) (u : List Upset) (b n : Nat) (sector cache : Bool) : List Byte × Work :=
  if cache then
    let (bs, w) := (alignedPieces b n 32).foldl (fun (acc : List Byte × Work) x =>
      let (d, w) := acc.2.rcAccess m u x sector
      (acc.1 ++ d, w)) ([], w)
    (slice bs (b % 32) n, w)
  else
    let g := if sector then 32 else 128
    (w.rdBoard u b n, w.each (alignedPieces b n g) (fun w x => w.serve m.c x g sector))

/-- A range of context memory read by requests of 32 or 128 bytes (R186, R211): its bytes and whether they come
poisoned; none where a fault has stopped the context. -/
def Work.rowRead (w : Work) (m : Mover) (a n : Nat) (sector cache : Bool) (u : List Upset) (record : Nat → Work → Work) :
    Option (List Byte × Bool) × Work :=
  match w.access m.c a n false (walkError u) with
  | (_, some e) => (none, (record a w).walkStop m.c a m.src e)
  | (ss, none) =>
    let bad := ss.any (fun p => if ownSlot w.s p.2.2 then w.badRange u (pkgAddr p.2.2) p.2.1 else remoteBad u p.2.2 p.2.1)
    let (bs, w) := ss.foldl (fun (acc : List Byte × Work) p =>
      let (d, w) := acc.2.fetchRange m u p.2.2 p.2.1 sector cache
      (acc.1 ++ d, w)) ([], w)
    (some (bs, bad), if bad then w.poison m.c 2 else w)

/-! ### Directory entries (R297, R298) -/

/-- A directory entry (R297). -/
structure Entry where
  curPair : Nat
  curTier : Nat
  curCopy : Nat
  pendPair : Nat
  pendTier : Nat
  pendCopy : Nat
  pendTurn : Nat
  heat : Nat
  pendG : Bool
deriving DecidableEq, Repr

/-- The 16 bytes of an entry, read. -/
def Entry.ofNat (x : Nat) : Entry :=
  { curPair := bits x 27 0, curTier := bits x 29 28, curCopy := bits x 30 30, pendPair := bits x 59 32
    pendTier := bits x 61 60, pendCopy := bits x 62 62, pendTurn := bits x 95 64, heat := bits x 111 96, pendG := bit x 112 }

/-- The 16 bytes of an entry. -/
def Entry.toNat (e : Entry) : Nat :=
  e.curPair + e.curTier * 2 ^ 28 + e.curCopy * 2 ^ 30 + e.pendPair * 2 ^ 32 + e.pendTier * 2 ^ 60 + e.pendCopy * 2 ^ 62 +
  e.pendTurn * 2 ^ 64 + e.heat * 2 ^ 96 + b2n e.pendG * 2 ^ 112

/-- The entry without its pending copy. -/
def Entry.dropPend (e : Entry) : Entry := { e with pendTier := 3, pendTurn := 0, pendG := false }

/-- The entry resolved for Turn `t` (R298). -/
def Entry.resolve (e : Entry) (t : Nat) : Entry :=
  if e.pendTier ≠ 3 ∧ e.pendTurn < t then
    { e with
      curPair := e.pendPair, curTier := e.pendTier, curCopy := e.pendCopy
      heat := satAdd 16 e.heat (b2n e.pendG) }.dropPend
  else e

/-- The context address of the copy of a pair of a tier (R296). -/
def TableRec.copyAddr (t : TableRec) (tier pair copy : Nat) : Nat := t.pools.getD tier 0 + (2 * pair + copy) * t.copyBytes tier

/-- The element format of a tier (R295). -/
def tierFmt (tier : Nat) : Nat := match tier with | 0 => 0 | 1 => 2 | _ => 5

/-- Bytes of a copy's elements, and the offset of STATE behind the scale plane (R296). -/
def TableRec.elemBytes (t : TableRec) (tier : Nat) : Nat := t.len * fmtBits (tierFmt tier) / 8
def TableRec.stateOff (t : TableRec) (tier : Nat) : Nat := t.elemBytes tier + (if tier = 0 then 0 else t.len / 32)

/-- The decoded elements of a copy's bytes (R87, R295). -/
def TableRec.decode (t : TableRec) (tier : Nat) (bs : List Byte) : List Val :=
  let width := fmtBits (tierFmt tier)
  (List.range t.len).map (fun k =>
    let code := ofLe (slice bs (k * width / 8) ((width + 7) / 8)) / 2 ^ (k * width % 8) % 2 ^ width
    let s := if tier = 0 then 127 else ofLe (slice bs (t.elemBytes tier + k / 32) 1)
    if s = 0xFF then .nan else (decodeElem (tierFmt tier) code).scale ((s : Int) - 127))

/-- The table of a handle of a context's running Rulebook (R292). -/
def Work.runningTable (w : Work) (c h : Nat) : Option TableRec :=
  match (w.s.ctx c).running with
  | none => none
  | some b => w.table b h

/-- The package region whose stack and update unit serve a table (R292, R458). -/
def TableRec.pkgRegion (t : TableRec) (x : Ctx) : Nat := ctxRegion x t.region

/-- A row of a table as L BF16 elements (R298–R300); it counts at the table's region (R317). -/
def Work.tableRow (w : Work) (m : Mover) (t : TableRec) (i : Nat) (cache : Bool) (u : List Upset) (record : Nat → Work → Work) :
    Option (List Byte × Bool) × Work :=
  let x := w.s.ctx m.c
  match w.rowRead m (t.dir + 16 * i) 16 true false u record with
  | (none, w) => (none, w)
  | (some (eb, bad1), w) =>
    let e := (Entry.ofNat (ofLe eb)).resolve x.turn.num
    match w.rowRead m (t.copyAddr e.curTier e.curPair e.curCopy) (t.copyBytes e.curTier) true cache u record with
    | (none, w) => (none, w)
    | (some (cb, bad2), w) =>
      let w := w.modRegion (t.pkgRegion x) (fun g => { g with tblReads := satAdd 32 g.tblReads 1 })
      (some ((t.decode e.curTier cb).flatMap (fun v => leBytes 2 (fmtBf16.encode .nearest v).1), bad1 || bad2), w)

/-! ### Row sources (R184) -/

/-- A row source (R183, R227): SOURCE, the base, the pitch, bytes per row, CACHE. -/
structure RowSource where
  kind : Nat
  base : Nat
  pitch : Nat
  bytes : Nat
  cache : Bool
deriving DecidableEq, Repr

/-- The rule that a source breaks (R183, R292, R299). -/
def Work.sourceBroken (w : Work) (c : Nat) (q : RowSource) : Option Nat :=
  if 3 < q.kind then some 183
  else if q.bytes % 4 ≠ 0 ∨ q.bytes < 4 ∨ 65536 < q.bytes then some 183
  else if q.kind = 3 then
    match w.runningTable c q.base with
    | none => some 292
    | some t => if q.bytes ≠ 2 * t.len then some 299 else none
  else none

/-- The table that a source of SOURCE 3 names. -/
def Work.sourceTable (w : Work) (c : Nat) (q : RowSource) : Option TableRec := if q.kind = 3 then w.runningTable c q.base else none

/-- Row `i` of a source (R184); `tbl` is its table. -/
def Work.rowOf (w : Work) (m : Mover) (q : RowSource) (tbl : Option TableRec) (i : Nat) (u : List Upset) (record : Nat → Work → Work) :
    Option (List Byte × Bool) × Work :=
  match q.kind with
  | 0 =>
    let t := tileField q.base + i * q.pitch
    if ¬ tileAddrOk t q.bytes then (none, w.fail 185)
    else
      let a := tileAddr m.n t
      let bad := w.badRange u a q.bytes
      let (bs, w) := w.read m a q.bytes
      (some (bs, bad), w)
  | 1 => w.rowRead m (q.base + i * q.pitch) q.bytes false q.cache u record
  | 2 => w.rowRead m (q.base + i * q.pitch) q.bytes true q.cache u record
  | _ =>
    match tbl with
    | none => (none, w.fail 292)
    | some t => if t.rows ≤ i then (none, w.fail 293) else w.tableRow m t i q.cache u record

end Sys2Proof.Machine
end

