-- ==== Sys2Proof/Machine/Gather.lean ====
section
/-! DEFINITION. Edge lists and the gather classes (chapter 06, R175–R198), and work stealing between tiles (R199–R205). -/

namespace Sys2Proof.Machine

/-! ### Edge lists (R175–R180) -/

/-- An edge record (R175). -/
structure Edge where
  dst : Nat
  src : Nat
  eidx : Nat
  weight : Nat
  attr : Nat
deriving DecidableEq, Repr

/-- PAD (R176). -/
def Edge.pad (e : Edge) : Bool := bit e.attr 15

/-- The 16 bytes of a record, read. -/
def Edge.ofNat (x : Nat) : Edge :=
  { dst := bits x 31 0, src := bits x 63 32, eidx := bits x 95 64, weight := bits x 111 96, attr := bits x 127 112 }

/-- The 16 bytes of a record. -/
def Edge.bytes (e : Edge) : List Byte := leBytes 4 e.dst ++ leBytes 4 e.src ++ leBytes 4 e.eidx ++ leBytes 2 e.weight ++ leBytes 2 e.attr

/-- A padding record as the TW2 writes it (R176). -/
def padEdge : Edge := { dst := 0, src := 0, eidx := 0, weight := 0, attr := 0x8000 }

/-- A slot header (R177). -/
structure SlotHead where
  count : Nat
  cap : Nat
  first : Nat
  stop : Nat
  mb : Nat
  cont : Nat
  order : Nat
  kind : Nat
deriving DecidableEq, Repr

/-- The 64 bytes of a header. -/
def SlotHead.bytes (h : SlotHead) : List Byte :=
  leBytes 4 h.count ++ leBytes 4 h.cap ++ leBytes 4 h.first ++ leBytes 4 h.stop ++ leBytes 4 h.mb ++ leBytes 2 h.cont ++
  leBytes 1 h.order ++ leBytes 1 h.kind ++ List.replicate 40 0

/-- The header at a tile address. -/
def Work.slotHead (w : Work) (n a : Nat) : SlotHead :=
  let f := fun o k => w.tLe n (a + o) k
  { count := f 0 4, cap := f 4 4, first := f 8 4, stop := f 0xC 4, mb := f 0x10 4, cont := f 0x14 2, order := f 0x16 1
    kind := f 0x17 1 }

/-- Record `i` of the slot at a tile address. -/
def Work.edge (w : Work) (n a i : Nat) : Edge := Edge.ofNat (w.tLe n (a + 64 + 16 * i) 16)

/-- A move reads records of a slot. -/
def Work.touchEdges (w : Work) (m : Mover) (a first count : Nat) : Work :=
  ((w.read m (tileAddr m.n a) 64).2.read m (tileAddr m.n (a + 64 + 16 * first)) (16 * count)).2

/-- The order of records by a key and EIDX (R178). -/
def edgeLt (key : Edge → Nat) (a b : Edge) : Bool :=
  decide (key a < key b) || (decide (key a = key b) && decide (a.eidx < b.eidx))

/-- A slot written: header, records in use and padding (R178). -/
def Work.putSlot (w : Work) (n a : Nat) (h : SlotHead) (es : List Edge) : Work :=
  w.put n a (h.bytes ++ (es ++ List.replicate (h.cap - es.length) padEdge).flatMap (·.bytes)) false

/-! ### GTH_ROWS (R181–R190) -/

/-- A GTH_ROWS descriptor (R183). -/
structure Gth where
  el : Nat
  first : Nat
  count : Nat
  key : Nat
  src : RowSource
  pad16 : Bool
  dst : Nat
  dstPitch : Nat
deriving DecidableEq, Repr

/-- The descriptor at near address `d`. -/
def Work.gth (w : Work) (n d : Nat) : Gth :=
  let f := w.field n d
  let flags := f 0xE 1
  { el := f 0 4, first := f 4 4, count := f 8 4, key := f 0xC 1, pad16 := bit flags 1, dst := f 0x20 4, dstPitch := f 0x24 4
    src := { kind := f 0xD 1, base := f 0x10 8, pitch := f 0x18 4, bytes := f 0x1C 4, cache := bit flags 0 } }

/-- The row index that a record gives (R183). -/
def Edge.keyField (e : Edge) (key : Nat) : Nat := match key with | 0 => e.src | 1 => e.dst | _ => e.eidx

/-- The effect of a GTH_ROWS (R184): a row for each record, zeros for padding. -/
def gthEffect (u : List Upset) (mv : Mover) (m : Nat) (w : Work) : Effect × Work :=
  let d := mvDesc m
  if ¬ nearOk d 64 then ({}, w.fail 144)
  else
    let w := (w.read mv (tileAddr mv.n d) 64).2
    let x := w.gth mv.n d
    let rows := if x.pad16 then roundUp x.count 16 else x.count
    if x.count = 0 ∨ 65536 < x.count ∨ 2 < x.key ∨ x.dstPitch % 4 ≠ 0 then ({}, w.fail 183)
    else if ¬ tileAddrOk x.el (64 + 16 * (x.first + x.count)) then ({}, w.fail 144)
    else if (w.slotHead mv.n x.el).cap < x.first + x.count then ({}, w.fail 185)
    else if ¬ nearOk (x.dst + (rows - 1) * x.dstPitch) x.src.bytes ∨ ¬ nearOk x.dst x.src.bytes then ({}, w.fail 185)
    else
      match w.sourceBroken mv.c x.src with
      | some rule => ({}, w.fail rule)
      | none =>
        let w := w.touchEdges mv x.el x.first x.count
        let es := (List.range x.count).map (fun r => w.edge mv.n x.el (x.first + r))
        let tbl := w.sourceTable mv.c x.src
        let (ok, done, w) := (List.range rows).foldl (fun (acc : Bool × Nat × Work) r =>
          if ¬ acc.1 then acc
          else
            let w := acc.2.2
            let dst := x.dst + r * x.dstPitch
            let e := es.getD r padEdge
            if e.pad then (true, r + 1, w.put mv.n dst (List.replicate x.src.bytes 0) false)
            else
              let record := fun (a : Nat) (w : Work) =>
                w.recordCtx 0x1008 4 (srcTile mv.phys) (mv.n + mvStream m * 2 ^ 8) (x.first + r) (lowBits 32 a) (some mv.c)
              match w.rowOf mv x.src tbl (e.keyField x.key) u record with
              | (none, w) => (false, r, w)
              | (some (bs, bad), w) => (true, r + 1, w.put mv.n dst bs bad)) (true, 0, w)
        let w := w.modPh mv.phys (fun p => { p with gthRows := satAdd 32 p.gthRows done })
        let home := decide (mv.phys = hostMesh w.s mv.n)
        let at_ := if home then mv.n else (hostedTiles w.s mv.phys).headD mv.n
        let g : GStream := { index := mv.index, chunksLeft := (rows + 15) / 16 - 1, guest := !home }
        let w := w.modTile at_ (fun t => { t with streams := t.streams.put none (mvStream m) (some g) })
        ({ hbm := x.src.kind ≠ 0, quiet := !ok }, w)

/-- GTH_ROWS. -/
def execGthRows (c t : Nat) (u : List Upset) (s : State) : Host.Outcome State Fault Refusal :=
  run s (fun w => w.issueClass c t 0x20 u (gthEffect u))

/-! ### EL_SORT (R191, R192) -/

/-- Distinct keys of a sorted list with the position of the first record of each. -/
def keyRuns (key : Edge → Nat) : List Edge → Nat → Option Nat → List (Nat × Nat)
  | [], _, _ => []
  | e :: es, i, prev =>
    if prev = some (key e) then keyRuns key es (i + 1) prev else (key e, i) :: keyRuns key es (i + 1) (some (key e))

/-- The effect of an EL_SORT (R192). -/
def elSortEffect (mv : Mover) (m : Nat) (w : Work) : Effect × Work :=
  let d := mvDesc m
  if ¬ nearOk d 32 then ({}, w.fail 144)
  else
    let w := (w.read mv (tileAddr mv.n d) 32).2
    let f := w.field mv.n d
    let src := f 0 4
    let dst := f 4 4
    let seg := f 8 4
    let segCap := f 0xC 4
    let byDst := f 0x10 1
    let h := w.slotHead mv.n src
    let bytes := 64 + 16 * h.cap
    if 1 < byDst ∨ (seg ≠ 0xFFFFFFFF ∧ 65536 < segCap) then ({}, w.fail 191)
    else if ¬ tileAddrOk src bytes ∨ ¬ tileAddrOk dst bytes then ({}, w.fail 144)
    else if ¬ apart src bytes dst bytes then ({}, w.fail 191)
    else if h.cap < h.count ∨ h.cap % 16 ≠ 0 ∨ 65536 < h.cap then ({}, w.fail 180)
    else
      let w := w.touchEdges mv src 0 h.count
      let key := fun (e : Edge) => if byDst = 1 then e.dst else e.src
      let es := sortBy (edgeLt key) ((List.range h.count).map (fun i => w.edge mv.n src i))
      let w := w.putSlot mv.n dst { h with order := 1 - byDst } es
      let runs := keyRuns key es 0 none
      let w := w.modTile mv.n (fun q => { q with streams := q.streams.put none (mvStream m) (some { index := mv.index, chunksLeft := 0 }) })
      if seg = 0xFFFFFFFF then ({}, w)
      else if ¬ nearOk seg (16 + 8 * Nat.min segCap runs.length) then ({}, w.fail 144)
      else
        let w := w.put mv.n seg (leBytes 4 runs.length) false
        ({}, w.put mv.n (seg + 16) ((runs.take segCap).flatMap (fun r => leBytes 4 r.1 ++ leBytes 4 r.2)) false)

/-- EL_SORT. -/
def execElSort (c t : Nat) (u : List Upset) (s : State) : Host.Outcome State Fault Refusal :=
  run s (fun w => w.issueClass c t 0x21 u elSortEffect)

/-! ### SEG_REDUCE and SEG_ADD (R193–R197) -/

/-- A run of records of equal key: the key and its positions (R194). -/
structure SegRun where
  key : Nat
  rows : List Nat
deriving DecidableEq, Repr

/-- Runs of equal key up to the first padding record (R194). -/
def segRuns (key : Edge → Nat) : List Edge → Nat → List SegRun
  | [], _ => []
  | e :: es, i =>
    if e.pad then []
    else
      match segRuns key es (i + 1) with
      | [] => [{ key := key e, rows := [i] }]
      | r :: rs => if r.key = key e then { r with rows := i :: r.rows } :: rs else { key := key e, rows := [i] } :: r :: rs

/-- One column of a run, folded (R194): the accumulator and the events. -/
def segColumn (terms : List (Nat × Ev)) : Acc × Ev :=
  match terms with
  | [] => ({}, {})
  | x :: xs =>
    xs.foldl (fun (a : Acc × Ev) y =>
      let (z, sat) := a.1.foldPair (fp32 y.1) (Val.zero false)
      (z, (a.2.add y.2).add (Ev.sats (b2n sat)))) (Acc.ofPair (fp32 x.1) (Val.zero false), x.2)

/-- The effect of a SEG_REDUCE (R194). -/
def segReduceEffect (mv : Mover) (m : Nat) (w : Work) : Effect × Work :=
  let d := mvDesc m
  let n := mv.n
  if ¬ nearOk d 64 then ({}, w.fail 144)
  else
    let w := (w.read mv (tileAddr n d) 64).2
    let f := w.field n d
    let el := f 0 4
    let first := f 4 4
    let count := f 8 4
    let byDst := f 0xC 1
    let weighted := bit (f 0xD 1) 0
    let din := f 0xE 1
    let fmt := bits din 3 0
    let rowsAt := f 0x10 4
    let rowsPitch := f 0x14 4
    let width := f 0x18 2
    let outAt := f 0x1C 4
    let outPitch := f 0x20 4
    let keysAt := f 0x24 4
    let cntAt := f 0x28 4
    if count = 0 ∨ 65536 < count ∨ 1 < byDst ∨ width = 0 ∨ ¬ (fmt = 0 ∨ fmt = 1 ∨ fmt = 8) ∨ bits din 6 4 ≠ 0 ∨ outPitch < 8 * width then
      ({}, w.fail 193)
    else if ¬ tileAddrOk el (64 + 16 * (first + count)) ∨ ¬ nearOk (rowsAt + (count - 1) * rowsPitch) (width * fmtBits fmt / 8) then
      ({}, w.fail 144)
    else
      let w := w.touchEdges mv el first count
      let es := (List.range count).map (fun i => w.edge n el (first + i))
      let runs := segRuns (fun e => if byDst = 1 then e.dst else e.src) es 0
      let used := (runs.map (fun r => r.rows.length)).sum
      let v : View :=
        { addr := rowsAt, pitch := rowsPitch, fmt := fmt, scale := 0, side := false, scaleAt := 0, sideAt := 0, rowLen := width }
      let w := w.touch mv v used width (fun _ _ => true)
      let term := fun r j =>
        let (x, e) := w.viewFp32 n v r j
        if weighted then roundResult ((fmtBf16.decode (es.getD r padEdge).weight).mul x) e else ((x.fp32).1, e)
      let outs := runs.map (fun r => (List.range width).map (fun j =>
        let (a, e) := segColumn (r.rows.map (fun i => term i j))
        let p := a.pair
        (p.1, (e.add (Ev.ofSat p.2)).add { nonfin := nonfiniteCode p.1.1 })))
      let ev := Ev.sum (outs.flatMap (fun r => r.map (·.2)))
      let ok := nearOk cntAt 4 && (runs.isEmpty || nearOk (outAt + (runs.length - 1) * outPitch) (8 * width)) &&
        (decide (keysAt = 0xFFFFFFFF) || nearOk keysAt (4 * runs.length))
      if ¬ ok then ({}, w.fail 195)
      else
        let w := w.events mv.c n 0xFF ev
        let w := w.putRows n outAt outPitch (outs.map (fun r => r.flatMap (fun p => leBytes 4 p.1.1 ++ leBytes 4 p.1.2))) false
        let w := if keysAt = 0xFFFFFFFF then w else w.put n keysAt (runs.flatMap (fun r => leBytes 4 r.key)) false
        ({ units := (used * width + 63) / 64 }, w.put n cntAt (leBytes 4 runs.length) false)

/-- SEG_REDUCE. -/
def execSegReduce (c t : Nat) (u : List Upset) (s : State) : Host.Outcome State Fault Refusal :=
  run s (fun w => w.issueClass c t 0x22 u segReduceEffect)

/-- One segment row folds into its accumulation row (R197). -/
def Work.segAddRow (w : Work) (mv : Mover) (inAt accAt width : Nat) : Ev × Work :=
  let n := mv.n
  if ¬ nearOk inAt (8 * width) ∨ ¬ tileAddrOk accAt (8 * width) then ({}, w.fail 197)
  else
    let w := (w.read mv (tileAddr n inAt) (8 * width)).2
    let w := (w.read mv (tileAddr n accAt) (8 * width)).2
    let pairAt := fun a j => (fp32 (w.tLe n (a + 8 * j) 4), fp32 (w.tLe n (a + 8 * j + 4) 4))
    let outs := (List.range width).map (fun j =>
      let a := pairAt accAt j
      let x := pairAt inAt j
      let (y, sat) := (Acc.ofPair a.1 a.2).foldPair x.1 x.2
      let p := y.pair
      (leBytes 4 p.1.1 ++ leBytes 4 p.1.2, ((Ev.sats (b2n sat)).add (Ev.ofSat p.2)).add { nonfin := nonfiniteCode p.1.1 }))
    (Ev.sum (outs.map (·.2)), w.put n accAt (outs.flatMap (·.1)) false)

/-- The effect of a SEG_ADD (R196, R197). -/
def segAddEffect (mv : Mover) (m : Nat) (w : Work) : Effect × Work :=
  let d := mvDesc m
  if ¬ nearOk d 32 then ({}, w.fail 144)
  else
    let w := (w.read mv (tileAddr mv.n d) 32).2
    let f := w.field mv.n d
    let inAt := f 0 4
    let inPitch := f 4 4
    let keysAt := f 8 4
    let cntAt := f 0xC 4
    let accAt := f 0x10 4
    let accPitch := f 0x14 4
    let base := f 0x18 4
    let width := f 0x1C 2
    if width = 0 then ({}, w.fail 196)
    else if ¬ nearOk cntAt 4 then ({}, w.fail 197)
    else
      let (cb, w) := w.read mv (tileAddr mv.n cntAt) 4
      let count := ofLe cb
      if ¬ nearOk keysAt (4 * count) then ({}, w.fail 197)
      else
        let w := (w.read mv (tileAddr mv.n keysAt) (4 * count)).2
        let keys := (List.range count).map (fun i => w.tLe mv.n (keysAt + 4 * i) 4)
        let (ev, w) := ((List.range count).zip keys).foldl (fun (acc : Ev × Work) p =>
          if p.2 < base then (acc.1, acc.2.fail 197)
          else
            let (e, w) := acc.2.segAddRow mv (inAt + p.1 * inPitch) (accAt + (p.2 - base) * accPitch) width
            (acc.1.add e, w)) ({}, w)
        ({ units := (count * width + 63) / 64 }, w.events mv.c mv.n 0xFF ev)

/-- SEG_ADD. -/
def execSegAdd (c t : Nat) (u : List Upset) (s : State) : Host.Outcome State Fault Refusal :=
  run s (fun w => w.issueClass c t 0x23 u segAddEffect)

/-! ### Work stealing (R199–R205) -/

/-- STEAL is honoured on a move of a context (R199). -/
def stealHonoured (x : Ctx) (m : Nat) : Bool :=
  mvSteal m && !x.stealOff && [0x08, 0x10, 0x11, 0x12, 0x20, 0x22].contains (mvClass m)

/-- Two tiles stand at one mesh hop (R10, R200). -/
def neighbours (s : State) (a b : Nat) : Bool := decide (hops (hostMesh s a) (hostMesh s b) = 1)

/-- STEAL_OFFER (R200): the unit has been idle for 64 cycles. -/
def execStealOffer (c t : Nat) (unit : UnitKind) (s : State) : Host.Outcome State Fault Refusal :=
  run s (fun w =>
    if ¬ mayOffer s c t unit ∨ (s.tile t).offers.contains unit then w
    else w.modTile t (fun q => { q with offers := q.offers ++ [unit] }))

/-- Tiles of the context beside a tile whose offer for a unit stands, ascending (R200, R201). -/
def offering (s : State) (c n : Nat) (u : UnitKind) : List Nat :=
  (sortNat (ctxTiles (s.ctx c))).filter (fun k => neighbours s n k && (s.tile k).offers.contains u && mayOffer s c k u)

/-- The head may be handed off (R201): the move, where it may. -/
def handOff (s : State) (c n : Nat) : Option Nat :=
  match headOf s n with
  | none => none
  | some m =>
    if mayIssue s c n && stealHonoured (s.ctx c) m && waitsMet (s.tile n) m && !unitFree s n m then some m else none

/-- STEAL_REQUEST (R201): 32 refusals have passed while an offer stood; the tile asks the neighbour with the lowest id. -/
def execStealRequest (c t : Nat) (s : State) : Host.Outcome State Fault Refusal :=
  run s (fun w =>
    match handOff s c t with
    | none => w
    | some m =>
      match offering s c t (unitOf (mvClass m)) with
      | [] => w
      | k :: _ =>
        if (s.tile t).ask.isSome then w
        else (w.modTile t (fun q => { q with ask := some k })).send (.steal t k))

/-- The effect of a move that a thief may run (R199, R202). -/
def stolenEffect (u : List Upset) (mv : Mover) (m : Nat) (w : Work) : Effect × Work :=
  match mvClass m with
  | 0x08 => mmaEffect mv m w
  | 0x10 => vecEwEffect mv m w
  | 0x11 => vecFnEffect mv m w
  | 0x12 => vecCvtEffect mv m w
  | 0x20 => gthEffect u mv m w
  | _ => segReduceEffect mv m w

/-- A stolen move as both tiles trace it (R527): PEER names the other tile, with bit 7 set for a move stolen in (log entry 44). -/
def Work.traceSteal (w : Work) (c home thief m index : Nat) : Work :=
  let x := w.s.ctx c
  (w.trace c home 2 (mvClass m) 0 (ctxTile x thief) index).trace c thief 2 (mvClass m) 0 (ctxTile x home % 128 + 128) index

/-- STEAL_GRANT (R61, R201–R203, R206): the move issues from its home tile to the thief. A request whose home unit
accepts the move by then is withdrawn. -/
def execStealGrant (c t thief : Nat) (u : List Upset) (s : State) : Host.Outcome State Fault Refusal :=
  run s (fun w =>
    if (s.tile t).ask ≠ some thief then w
    else
      match handOff s c t with
      | none => w.modTile t (fun q => { q with ask := none })
      | some m =>
        if ¬ (offering s c t (unitOf (mvClass m))).contains thief then w.modTile t (fun q => { q with ask := none })
        else if doubleUse m then w.tallyFault c t 2 (mvWaitA m) ((s.tile t).tallies.get 0 (mvWaitA m))
        else
          let mv : Mover := { c := c, n := t, phys := hostMesh s thief, index := (s.tile t).pos, src := srcTile (hostMesh s thief) }
          let w := w.fire c t m
          let w := w.traceSteal c t thief m mv.index
          let before := w.s
          let (e, w) := stolenEffect u mv m w
          let w := w.launch mv m { e with out := 0 } u (some thief) before
          let w := w.modPh (hostMesh s t) (fun p => { p with stealOut := satAdd 32 p.stealOut 1 })
          let w := w.modPh mv.phys (fun p => { p with stealIn := satAdd 32 p.stealIn 1 })
          let w := w.modTile thief (fun q => { q with offers := q.offers.filter (fun x => x ≠ unitOf (mvClass m)) })
          (w.modTile t (·.advance)).becomeHead c t)

/-- STOLEN_MOVE_DONE (R61): a stolen move completes on its thief; its arrivals go where the home tile's move says. -/
def execStolenMoveDone (c t index : Nat) (s : State) : Host.Outcome State Fault Refusal :=
  run s (fun w =>
    let x := s.tile t
    match x.flights.find? (fun f => f.index = index && f.thief.isSome) with
    | none => w
    | some f =>
      let w := w.modTile t (fun x => { x with flights := dropFirst (fun g => g = f) x.flights })
      let w := match f.thief with
        | some k => w.modTile k (fun y => { y with streams := y.streams.filter (fun p => match p.2 with | some q => !q.guest | none => true) })
        | none => w
      let w := { w with s.arrivals := w.s.arrivals ++ f.arrivals }
      let w := w.trace c t 1 f.cls 0 0 index
      (w.tryEntry (t / 11)).judgeEnd c)

end Sys2Proof.Machine
end

