-- ==== Sys2Proof/Machine/Spinner.lean ====
section
/-! DEFINITION. The Spinner and the region prefetcher (chapter 07, R207–R235): sampling, routing, staging and the fetch
of predicted and demanded weight blocks. -/

namespace Sys2Proof.Machine

/-! ### Where and how these moves read (R207, R209, R211) -/

/-- The effect of a move of this chapter: its descriptor of 64 bytes is read; any tile but the Spinner tile breaks
R207. `d` is the descriptor's near address. -/
def spinnerEffect (mv : Mover) (m : Nat) (w : Work) (f : Nat → Work → Effect × Work) : Effect × Work :=
  let d := mvDesc m
  if mv.n % 11 ≠ 0 then ({}, w.fail 207)
  else if ¬ nearOk d 64 then ({}, w.fail 144)
  else f d (w.read mv (tileAddr mv.n d) 64).2

/-- EV_SPN_FAULT of a move at a context address (R211, R228, R234). -/
def Work.spnFault (w : Work) (mv : Mover) (a : Nat) : Work :=
  w.recordCtx 0x2001 4 (srcRegion (mv.n / 11)) mv.index (lowBits 32 a) (a / 2 ^ 32) (some mv.c)

/-- A field of a graph array or of a weight table read through the segment table: a number, or nothing after a fault. -/
def Work.spnRead (w : Work) (mv : Mover) (a n : Nat) (u : List Upset) : Option Nat × Work :=
  match w.readCtxBy mv a n u (fun w => w.spnFault mv a) with
  | (none, w) => (none, w)
  | (some (bs, _), w) => (some (ofLe bs), w)

/-- The package logical tile that a descriptor's TARGET names, where it is one of the Spinner's region (R209). -/
def Work.regionTile (w : Work) (mv : Mover) (k : Nat) : Option Nat :=
  let x := w.s.ctx mv.c
  let n := pkgTile x k
  if k < 11 * regionCount x ∧ n / 11 = mv.n / 11 then some n else none

/-- The ids of a node list, read by the move (R213); none where the list leaves its store. -/
def Work.nodeList (w : Work) (mv : Mover) (n a : Nat) : Option (List Nat) × Work :=
  let count := w.tLe n a 4
  if a % 64 ≠ 0 ∨ ¬ tileAddrOk a 16 ∨ ¬ tileAddrOk a (16 + 4 * count) then (none, w.fail 213)
  else
    let w := (w.read mv (tileAddr n a) (16 + 4 * count)).2
    (some ((List.range count).map (fun i => w.tLe n (a + 16 + 4 * i) 4)), w)

/-! ### Sampling (R210–R223) -/

/-- A graph descriptor (R210). -/
structure Graph where
  nodes : Nat
  flags : Nat
  offsets : Nat
  columns : Nat
  weights : Nat
  etypes : Nat
  ntypes : Nat
  edges : Nat
deriving DecidableEq, Repr

/-- The 64 bytes of a graph descriptor, read. -/
def Graph.ofNat (x : Nat) : Graph :=
  { nodes := bits x 31 0, flags := bits x 63 32, offsets := bits x 127 64, columns := bits x 191 128, weights := bits x 255 192
    etypes := bits x 319 256, ntypes := bits x 383 320, edges := bits x 447 384 }

/-- A FANOUT_POLICY entry (R214). -/
structure Fanout where
  mode : Nat
  weight : Nat
  fan : Nat
deriving DecidableEq, Repr

/-- Entry `n` of the running Rulebook's FANOUT_POLICY. -/
def Work.fanout (w : Work) (c n : Nat) : Option Fanout :=
  match (w.s.ctx c).running with
  | none => none
  | some b =>
    match w.sect b 0x10 with
    | none => none
    | some e =>
      let f := fun o k => w.bookLe b (e.off + 16 + 16 * n + o) k
      if w.bookLe b e.off 2 ≤ n ∨ 2 < f 0 1 ∨ 2 < f 1 1 then none else some { mode := f 0 1, weight := f 1 1, fan := f 4 8 }

/-- FANOUT of a node type. -/
def Fanout.of (p : Fanout) (type : Nat) : Nat := bits p.fan (16 * type + 15) (16 * type)

/-- Selection without replacement (R215). -/
def pickUniform (d f : Nat) (ws : List Nat) : List Nat :=
  ((List.range f).zip ws).foldl (fun set p =>
    let j := d - f + p.1
    let t := p.2 * (j + 1) / 2 ^ 32
    insertNat (if set.contains t then j else t) set) []

/-- Selection with replacement (R215). -/
def pickReplace (d : Nat) (ws : List Nat) : List Nat :=
  sortBy (fun a b => decide (a < b)) (ws.map (fun x => x * d / 2 ^ 32))

/-- How many words a node draws (R215). -/
def drawsOf (mode d f : Nat) : Nat :=
  if f = 0 ∨ d = 0 then 0
  else if mode = 0 ∨ (mode = 1 ∧ d ≤ f) then 0
  else f

/-- The neighbour positions selected for a node of degree `d` (R215). -/
def selectPositions (mode d f : Nat) (ws : List Nat) : List Nat :=
  if f = 0 ∨ d = 0 then []
  else if mode = 0 ∨ (mode = 1 ∧ d ≤ f) then List.range d
  else if mode = 1 then pickUniform d f ws
  else pickReplace d ws

/-- The key of sampling lane `j` of a tile's region, within its context (R216, R458). -/
def laneKey (x : Ctx) (c n j : Nat) : Nat := c * 192 + 16 * (ctxTile x n / 11) + j

/-- A node's words, and its lane's counter past them (R216, R245). -/
def Work.drawWords (w : Work) (mv : Mover) (j n : Nat) : List Nat × Work :=
  let x := w.s.ctx mv.c
  let key := laneKey x mv.c mv.n j
  let at_ := w.s.lanesNow.get 0 key
  let k := (n + 3) / 4
  (((List.range k).flatMap (fun i => wordsB x (at_ + i))).take n,
    { w with s.lanesNow := w.s.lanesNow.put 0 key (wrapAdd 128 at_ k) })

/-- WEIGHT as a BF16 code, of one edge of `k` (R214). -/
def edgeWeight (p : Fanout) (graph : Option Nat) (k : Nat) : Nat :=
  match p.weight with
  | 0 => 0x3F80
  | 1 => graph.getD 0x3F80
  | _ => (fmtBf16.encode .nearest (recipVal false k 0)).1

/-- An optional field of the graph: nothing read and `none` where the flag is clear. -/
def Work.optRead (w : Work) (mv : Mover) (on : Bool) (a n : Nat) (u : List Upset) : Option (Option Nat) × Work :=
  if on then
    match w.spnRead mv a n u with
    | (none, w) => (none, w)
    | (some v, w) => (some (some v), w)
  else (some none, w)

/-- One emitted edge: neighbour position `p` of node `v`, whose edges start at `base` (R215). -/
def Work.sampleEdge (w : Work) (mv : Mover) (g : Graph) (pol : Fanout) (hop v base p k : Nat) (u : List Upset) :
    Option Edge × Work :=
  match w.spnRead mv (g.columns + 4 * (base + p)) 4 u with
  | (none, w) => (none, w)
  | (some src, w) =>
    if g.nodes ≤ src then (none, w.fail 211)
    else
      match w.optRead mv (bit g.flags 0) (g.weights + 2 * (base + p)) 2 u with
      | (none, w) => (none, w)
      | (some wt, w) =>
        match w.optRead mv (bit g.flags 1) (g.etypes + 2 * (base + p)) 2 u with
        | (none, w) => (none, w)
        | (some et, w) =>
          (some { dst := v, src := src, eidx := 0, weight := edgeWeight pol wt k, attr := lowBits 12 (et.getD 0) + hop * 2 ^ 12 }, w)

/-- Edges of a list of positions, in order; none once a fault has stopped the context. -/
def Work.sampleEdges (w : Work) (mv : Mover) (g : Graph) (pol : Fanout) (hop v base k : Nat) (u : List Upset) (ps : List Nat) :
    Option (List Edge) × Work :=
  ps.foldl (fun (acc : Option (List Edge) × Work) p =>
    match acc.1 with
    | none => acc
    | some es =>
      match acc.2.sampleEdge mv g pol hop v base p k u with
      | (none, w) => (none, w)
      | (some e, w) => (some (es ++ [e]), w)) (some [], w)

/-- The edges of the node at frontier position `i` (R215, R216). -/
def Work.sampleNode (w : Work) (mv : Mover) (g : Graph) (pol : Fanout) (hop i v : Nat) (u : List Upset) :
    Option (List Edge) × Work :=
  if g.nodes ≤ v then (none, w.fail 211)
  else
    match w.spnRead mv (g.offsets + 8 * v) 16 u with
    | (none, w) => (none, w)
    | (some o, w) =>
      let lo := bits o 63 0
      let hi := bits o 127 64
      if hi < lo ∨ g.edges < hi then (none, w.fail 211)
      else
        match w.optRead mv (bit g.flags 2) (g.ntypes + v) 1 u with
        | (none, w) => (none, w)
        | (some ty, w) =>
          let f := pol.of (ty.getD 0 % 4)
          let (ws, w) := w.drawWords mv (i % 16) (drawsOf pol.mode (hi - lo) f)
          let ps := selectPositions pol.mode (hi - lo) f ws
          w.sampleEdges mv g pol hop v lo ps.length u ps

/-- An SPN_SAMPLE descriptor (R219). -/
structure Sample where
  graph : Nat
  frontier : Nat
  next : Nat
  nextCap : Nat
  slot : Nat
  pitch : Nat
  cap : Nat
  maxCont : Nat
  policy : Nat
  hop : Nat
  target : Nat
  relabel : Bool
  mb : Nat
  cnt : Nat
  first : Nat
deriving DecidableEq, Repr

/-- The descriptor at near address `d`. -/
def Work.sample (w : Work) (n d : Nat) : Sample :=
  let f := w.field n d
  { graph := f 0 8, frontier := f 8 4, next := f 0xC 4, nextCap := f 0x10 4, slot := f 0x14 4, pitch := f 0x18 4, cap := f 0x1C 4
    maxCont := f 0x20 2, policy := f 0x22 2, hop := f 0x24 1, target := f 0x25 1, relabel := bit (f 0x26 1) 0, mb := f 0x28 4
    cnt := f 0x2C 4, first := f 0x30 4 }

/-- A hop has a next frontier. -/
def Sample.hasNext (x : Sample) : Bool := decide (x.next ≠ 0xFFFFFFFF)

/-- The rule that a descriptor breaks (R219, R221, R223). -/
def Sample.broken (x : Sample) : Option Nat :=
  if x.cap % 16 ≠ 0 ∨ x.cap < 16 ∨ 65536 < x.cap ∨ x.pitch % 64 ≠ 0 ∨ x.pitch < 64 + 16 * x.cap ∨ x.maxCont = 0 ∨
      4096 < x.maxCont ∨ 7 < x.hop ∨ x.slot % 64 ≠ 0 then some 219
  else if x.relabel ∧ ¬ x.hasNext then some 221
  else if x.hasNext ∧ x.nextCap < x.maxCont * x.cap then some 223
  else if ¬ nearOk x.cnt 12 ∨ (x.hasNext ∧ (x.next % 64 ≠ 0 ∨ ¬ tileAddrOk x.next 16)) then some 223
  else none

/-- The edges of every frontier position with that position, in emission order. -/
def Work.sampleAll (w : Work) (mv : Mover) (g : Graph) (pol : Fanout) (hop : Nat) (vs : List Nat) (u : List Upset) :
    Option (List (Nat × Edge)) × Work :=
  ((List.range vs.length).zip vs).foldl (fun (acc : Option (List (Nat × Edge)) × Work) p =>
    match acc.1 with
    | none => acc
    | some es =>
      match acc.2.sampleNode mv g pol hop p.1 p.2 u with
      | (none, w) => (none, w)
      | (some more, w) => (some (es ++ more.map (fun e => (p.1, e))), w)) (some [], w)

/-- A record with its logical edge index, relabelled where RELABEL is 1 (R218, R221). -/
def Sample.label (x : Sample) (next : List Nat) (k pos : Nat) (e : Edge) : Edge :=
  let e := { e with eidx := lowBits 32 (x.first + k) }
  if x.relabel then { e with dst := pos, src := (next.takeWhile (fun v => decide (v < e.src))).length } else e

/-- Slot pair `c` of a hop (R218, R220). -/
def Work.putPair (w : Work) (n : Nat) (x : Sample) (es : List Edge) (c : Nat) : Work :=
  let mine := (es.drop (c * x.cap)).take x.cap
  let h : SlotHead :=
    { count := mine.length, cap := x.cap, first := lowBits 32 (x.first + c * x.cap)
      stop := lowBits 32 (x.first + c * x.cap + mine.length), mb := x.mb, cont := c, order := 0, kind := 0 }
  let w := w.putSlot n (x.slot + 2 * c * x.pitch) h (sortBy (edgeLt (·.dst)) mine)
  w.putSlot n (x.slot + (2 * c + 1) * x.pitch) { h with order := 1 } (sortBy (edgeLt (·.src)) mine)

/-- Edges that find no place: counted, marked and recorded (R222, R235). -/
def Work.spnDropped (w : Work) (r dropped : Nat) : Work :=
  if dropped = 0 then w
  else w.modRegion r (fun g => { g with dropped := satAdd 32 g.dropped dropped, spnOvf := true })

/-- What a hop writes, once its edges are drawn (R218–R223). -/
def Work.writeHop (w : Work) (mv : Mover) (n : Nat) (x : Sample) (all : List (Nat × Edge)) : Work :=
  let kept := all.take (x.maxCont * x.cap)
  let dropped := all.length - kept.length
  let next := sortNat (kept.map (fun p => p.2.src))
  let es := ((List.range kept.length).zip kept).map (fun p => x.label next p.1 p.2.1 p.2.2)
  let pairs := Nat.max 1 ((kept.length + x.cap - 1) / x.cap)
  if ¬ tileAddrOk x.slot ((2 * pairs - 1) * x.pitch + 64 + 16 * x.cap) ∨
      (x.hasNext ∧ ¬ tileAddrOk x.next (16 + 4 * next.length)) then w.fail 223
  else
    let w := w.each (List.range pairs) (fun w c => w.putPair n x es c)
    let w := if x.hasNext then w.put n x.next (leBytes 4 next.length ++ leBytes 12 0 ++ next.flatMap (leBytes 4)) false else w
    let w := w.put n x.cnt (leBytes 4 kept.length ++ leBytes 4 pairs ++ leBytes 4 dropped) false
    let w := w.modRegion (mv.n / 11) (fun g => { g with edges := wrapAdd 64 g.edges kept.length })
    let w := w.spnDropped (mv.n / 11) dropped
    if dropped = 0 then w else w.recordCtx 0x2002 3 (srcRegion (mv.n / 11)) mv.index dropped 0 (some mv.c)

/-- EDGE_COUNT differs from the last offset, where that stands in this package's memory (R211). -/
def Work.edgeCountWrong (w : Work) (c : Nat) (g : Graph) : Bool :=
  let at_ := g.offsets + 8 * g.nodes
  (w.spans c at_ at_ 8 false none).1.all (fun p => ownSlot w.s p.2.2) &&
  (match w.ctxLe c at_ 8 [] with
  | .ok last => decide (last ≠ g.edges)
  | .error _ => false)

/-- The effect of an SPN_SAMPLE (R215–R223). -/
def spnSampleEffect (u : List Upset) (mv : Mover) (m : Nat) (w : Work) : Effect × Work :=
  spinnerEffect mv m w (fun d w =>
    let x := w.sample mv.n d
    match x.broken, w.regionTile mv x.target, w.fanout mv.c x.policy with
    | some rule, _, _ => ({}, w.fail rule)
    | none, none, _ => ({}, w.fail 209)
    | none, some _, none => ({}, w.fail 214)
    | none, some n, some pol =>
      match w.spnRead mv x.graph 64 u with
      | (none, w) => ({ quiet := true }, w)
      | (some gb, w) =>
        let g := Graph.ofNat gb
        if g.nodes = 0 ∨ x.graph % 64 ≠ 0 then ({}, w.fail 210)
        else if w.edgeCountWrong mv.c g then ({}, w.fail 211)
        else
          match w.nodeList mv n x.frontier with
          | (none, w) => ({}, w)
          | (some vs, w) =>
            match w.sampleAll mv g pol x.hop vs u with
            | (none, w) => ({ quiet := true }, w)
            | (some all, w) => ({ tiles := [n], hbm := true }, w.writeHop mv n x all))

/-- SPN_SAMPLE. -/
def execSpnSample (c t : Nat) (u : List Upset) (s : State) : Host.Outcome State Fault Refusal :=
  run s (fun w => w.issueClass c t 0x2C u (spnSampleEffect u))

/-! ### Routing (R225, R226) -/

/-- Score `a` ranks before score `b`: the higher first, a NaN below every number; the two zeros are equal scores (R226, R232). -/
def ranksBefore (a b : Val) : Bool :=
  if a = .nan then false else if b = .nan then true else if a.isZero && b.isZero then false else b.lt a

/-- Indices of scores from the first rank down; equal scores stand in ascending index. -/
def ranked (vs : List Val) : List Nat :=
  (sortBy (fun (a b : Nat × Val) => ranksBefore a.2 b.2) ((List.range vs.length).zip vs)).map (·.1)

/-- An SPN_ROUTE descriptor (R225). -/
structure Route where
  scores : Nat
  pitch : Nat
  tokens : Nat
  experts : Nat
  topk : Nat
  expertCap : Nat
  base : Nat
  slot : Nat
  cap : Nat
  counts : Nat
  mb : Nat
  target : Nat
deriving DecidableEq, Repr

/-- The descriptor at near address `d`. -/
def Work.route (w : Work) (n d : Nat) : Route :=
  let f := w.field n d
  { scores := f 0 4, pitch := f 4 4, tokens := f 8 4, experts := f 0xC 2, topk := f 0xE 1, expertCap := f 0x10 4
    base := f 0x14 4, slot := f 0x18 4, cap := f 0x1C 4, counts := f 0x20 4, mb := f 0x24 4, target := f 0x28 1 }

/-- The ranges of R225. -/
def Route.ok (x : Route) : Bool :=
  decide (1 ≤ x.tokens) && decide (x.tokens ≤ 65536) && decide (2 ≤ x.experts) && decide (x.experts ≤ 1024) &&
  decide (1 ≤ x.topk) && decide (x.topk ≤ 8) && decide (x.topk ≤ x.experts) && decide (1 ≤ x.expertCap) &&
  decide (x.expertCap ≤ 65536) && decide (x.cap % 16 = 0) && decide (x.tokens * x.topk ≤ x.cap) && decide (x.cap ≤ 65536) &&
  decide (x.slot % 64 = 0) && tileAddrOk x.slot (64 + 16 * x.cap) && nearOk x.counts (4 * x.experts + 4) &&
  nearOk (x.scores + (x.tokens - 1) * x.pitch) (4 * x.experts)

/-- Progress of the routing loop: records, counts per expert, dropped, saturations. -/
structure Routed where
  recs : List Edge := []
  counts : Table Nat := []
  dropped : Nat := 0
  sats : Nat := 0
deriving DecidableEq, Repr

/-- One token and rank of the loop of R226. -/
def Routed.step (x : Route) (y : Routed) (t j e score : Nat) : Routed :=
  let k := y.counts.get 0 e
  if k < x.expertCap then
    let (wt, sat) := fmtBf16.encode .nearest (fp32 score)
    let r : Edge :=
      { dst := e * x.expertCap + k, src := lowBits 32 (x.base + t), eidx := y.recs.length, weight := wt, attr := j }
    { y with recs := y.recs ++ [r], counts := y.counts.put 0 e (k + 1), sats := y.sats + b2n sat }
  else { y with dropped := y.dropped + 1 }

/-- One token of the loop, from its scores' codes. -/
def Routed.token (x : Route) (y : Routed) (t : Nat) (scores : List Nat) : Routed :=
  let best := (ranked (scores.map fp32)).take x.topk
  ((List.range best.length).zip best).foldl (fun y p => y.step x t p.1 p.2 (scores.getD p.2 0)) y

/-- The effect of an SPN_ROUTE (R226). -/
def spnRouteEffect (mv : Mover) (m : Nat) (w : Work) : Effect × Work :=
  spinnerEffect mv m w (fun d w =>
    let x := w.route mv.n d
    match w.regionTile mv x.target with
    | none => ({}, w.fail 209)
    | some n =>
      if ¬ x.ok then ({}, w.fail 225)
      else
        let rows := (List.range x.tokens).map (fun t => (List.range x.experts).map (fun e => w.tLe n (x.scores + t * x.pitch + 4 * e) 4))
        let w := w.each (List.range x.tokens) (fun w t => (w.read mv (tileAddr n (x.scores + t * x.pitch)) (4 * x.experts)).2)
        let y := ((List.range x.tokens).zip rows).foldl (fun y p => Routed.token x y p.1 p.2) {}
        let nan := rows.any (fun r => r.any (fun c => decide (fp32 c = .nan)))
        let h : SlotHead :=
          { count := y.recs.length, cap := x.cap, first := 0, stop := y.recs.length, mb := x.mb, cont := 0, order := 1, kind := 1 }
        let w := w.putSlot n x.slot h y.recs
        let w := w.put n x.counts ((List.range x.experts).flatMap (fun e => leBytes 4 (y.counts.get 0 e)) ++ leBytes 4 y.dropped) false
        let w := w.events mv.c mv.n 0xFF { sat := y.sats, fpSat := decide (0 < y.sats), nonfin := nan }
        let w := w.modRegion (mv.n / 11) (fun g => { g with edges := wrapAdd 64 g.edges y.recs.length })
        ({ tiles := [n] }, w.spnDropped (mv.n / 11) y.dropped))

/-- SPN_ROUTE. -/
def execSpnRoute (c t : Nat) (u : List Upset) (s : State) : Host.Outcome State Fault Refusal :=
  run s (fun w => w.issueClass c t 0x2D u spnRouteEffect)

/-! ### Staging (R227, R228) -/

/-- The effect of a PF_STAGE (R228). -/
def pfStageEffect (u : List Upset) (mv : Mover) (m : Nat) (w : Work) : Effect × Work :=
  spinnerEffect mv m w (fun d w =>
    let f := w.field mv.n d
    let list := f 0 4
    let first := f 4 4
    let count := f 8 4
    let kind := f 0xC 1
    let src : RowSource := { kind := kind, base := f 0x10 8, pitch := f 0x18 4, bytes := f 0x1C 4, cache := bit (f 0xD 1) 0 }
    let dst := f 0x20 4
    let pitch := f 0x24 4
    match w.regionTile mv (f 0xE 1), w.regionTile mv (f 0xF 1) with
    | some dn, some tn =>
      if count = 0 ∨ 16777216 < count ∨ kind = 0 ∨ pitch % 4 ≠ 0 ∨ dst < deepBase then ({}, w.fail 227)
      else
        match w.sourceBroken mv.c src with
        | some rule => ({}, w.fail rule)
        | none =>
          match w.nodeList mv tn list with
          | (none, w) => ({}, w)
          | (some ids, w) =>
            let mine := (ids.drop first).take count
            let tbl := w.sourceTable mv.c src
            if ¬ mine.isEmpty ∧ ¬ tileAddrOk (dst + (mine.length - 1) * pitch) src.bytes then ({}, w.fail 228)
            else
              let (ok, w) := ((List.range mine.length).zip mine).foldl (fun (acc : Bool × Work) p =>
                if ¬ acc.1 then acc
                else
                  match acc.2.rowOf mv src tbl p.2 u (fun a w => w.spnFault mv a) with
                  | (none, w) => (false, w)
                  | (some (bs, bad), w) =>
                    (true, (w.put dn (dst + p.1 * pitch) bs bad).modRegion (mv.n / 11)
                      (fun g => { g with pfRows := satAdd 32 g.pfRows 1 }))) (true, w)
              ({ tiles := [dn], hbm := true, quiet := !ok }, w)
    | _, _ => ({}, w.fail 209))

/-- PF_STAGE. -/
def execPfStage (c t : Nat) (u : List Upset) (s : State) : Host.Outcome State Fault Refusal :=
  run s (fun w => w.issueClass c t 0x2E u (pfStageEffect u))

/-! ### Weight blocks (R229–R234) -/

/-- A PREDICTOR layer entry (R229), with the section it stands in. -/
structure Layer where
  sect : Nat
  index : Nat
  units : Nat
  blocks : Nat
  blockBytes : Nat
  base : Nat
  stride : Nat
  owners : Nat
  slots : Nat
  active : Nat
deriving DecidableEq, Repr

/-- Layer `n` of the running Rulebook. -/
def Work.layer (w : Work) (c n : Nat) : Option (Book × Layer) :=
  match (w.s.ctx c).running with
  | none => none
  | some b =>
    match w.sect b 0x11 with
    | none => none
    | some e =>
      let f := fun o k => w.bookLe b (e.off + 16 + 32 * n + o) k
      if w.bookLe b e.off 2 ≤ n ∨ f 0 2 = 0 ∨ 4096 < f 0 2 ∨ f 2 2 = 0 ∨ 256 < f 2 2 ∨ f 4 4 % 128 ≠ 0 then none
      else
        some (b,
          { sect := e.off, index := n, units := f 0 2, blocks := f 2 2, blockBytes := f 4 4, base := f 8 8, stride := f 0x10 4
            owners := f 0x14 4, slots := f 0x18 4, active := f 0x1C 4 })

/-- The package logical tile that computes a unit. -/
def Work.ownerOf (w : Work) (c : Nat) (b : Book) (l : Layer) (k : Nat) : Nat :=
  pkgTile (w.s.ctx c) (w.bookLe b (l.sect + l.owners + k) 1)

/-- The deep-store tile address of a unit's block 0. -/
def Work.slotOf (w : Work) (b : Book) (l : Layer) (k : Nat) : Nat := w.bookLe b (l.sect + l.slots + 4 * k) 4

/-- Where the blocks of every unit of a layer go: the tile that computes it and its slot. -/
def Work.places (w : Work) (c : Nat) (b : Book) (l : Layer) : List (Nat × Nat) :=
  (List.range l.units).map (fun k => (w.ownerOf c b l k, w.slotOf b l k))

/-- Every block of a unit fetched into its slot (R232, R233); false after a fault. -/
def Work.fetchUnit (w : Work) (mv : Mover) (l : Layer) (at_ : Nat × Nat) (k : Nat) (u : List Upset) : Bool × Work :=
  let n := at_.1
  let slot := at_.2
  if slot < deepBase ∨ ¬ tileAddrOk slot (l.blocks * l.blockBytes) then (false, w.fail 229)
  else
    (List.range l.blocks).foldl (fun (acc : Bool × Work) i =>
      if ¬ acc.1 then acc
      else
        let a := l.base + (k * l.blocks + i) * l.stride
        match acc.2.readCtxBy mv a l.blockBytes u (fun w => w.spnFault mv a) with
        | (none, w) => (false, w)
        | (some (bs, bad), w) => (true, w.put n (slot + i * l.blockBytes) bs bad)) (true, w)

/-- The mark of a unit of a layer in a Spinner tile's region. -/
def markOf (s : State) (mv : Mover) (layer k : Nat) : Option Resident :=
  s.resident.find? (fun q => q.ctx = mv.c && q.tile = mv.n && q.layer = layer && q.unit = k)

/-- The layer's descriptor and entry for a PF_BLOCKS, and its target's package tile (R231). -/
def blocksEffect (mv : Mover) (m : Nat) (w : Work) (f : Nat → Nat → Book → Layer → Work → Effect × Work) : Effect × Work :=
  spinnerEffect mv m w (fun d w =>
    match w.regionTile mv (w.field mv.n d 0xC 1), w.layer mv.c (w.field mv.n d 0 2) with
    | some n, some (b, l) => f d n b l w
    | none, _ => ({}, w.fail 209)
    | _, none => ({}, w.fail 231))

/-- The effect of a PREDICT (R232). The blocks are written at issue; PREDICT_FETCH_DONE marks the unit resident. -/
def predictEffect (u : List Upset) (mv : Mover) (m : Nat) (w : Work) : Effect × Work :=
  blocksEffect mv m w (fun d n b l w =>
    let most := w.field mv.n d 2 2
    let scores := w.field mv.n d 4 4
    if most = 0 ∨ 4096 < most then ({}, w.fail 231)
    else if ¬ nearOk scores (4 * l.units) then ({}, w.fail 144)
    else
      let w := (w.read mv (tileAddr n scores) (4 * l.units)).2
      let vs := (List.range l.units).map (fun k => fp32 (w.tLe n (scores + 4 * k) 4))
      let at_ := w.places mv.c b l
      let w := { w with
        s.resident := w.s.resident.filter (fun q => !(q.ctx = mv.c && q.tile = mv.n && q.layer = l.index)) }
      let (_, w) := ((ranked vs).take most).foldl (fun (acc : Bool × Work) k =>
        if ¬ acc.1 then acc
        else
          let (ok, w) := acc.2.fetchUnit mv l (at_.getD k (132, 0)) k u
          let q : Resident :=
            { ctx := mv.c, tile := mv.n, layer := l.index, unit := k, owner := (at_.getD k (132, 0)).1, here := false, predicted := true
              wanted := none }
          (ok, if ok then { w with s.resident := w.s.resident ++ [q] } else w)) (true, w)
      ({ done := true }, w))

/-- PF_BLOCKS with MODE 0. -/
def execPredict (c t : Nat) (u : List Upset) (s : State) : Host.Outcome State Fault Refusal :=
  run s (fun w => w.issue c t u (fun m => decide (mvClass m = 0x2F) && !bit m 99) (predictEffect u))

/-- PREDICT_FETCH_DONE (R232): the blocks of a unit of a layer are written; it is resident, and no DEMAND waits for it any more. -/
def execPredictFetchDone (c t unit layer : Nat) (s : State) : Host.Outcome State Fault Refusal :=
  run s (fun w =>
    { w with
      s.resident := s.resident.map (fun q =>
        if q.ctx = c ∧ q.tile = t ∧ q.unit = unit ∧ q.layer = layer then { q with here := true, wanted := none } else q) })

/-- DEMAND judges a unit: active or not, resident, in flight or fetched now (R233, R235). -/
def Work.demandUnit (w : Work) (mv : Mover) (l : Layer) (at_ : Nat × Nat) (active : Bool) (k : Nat) (u : List Upset) : Bool × Work :=
  let r := mv.n / 11
  let note := fun (w : Work) (f : Resident → Resident) =>
    { w with
      s.resident := w.s.resident.map (fun q =>
        if q.ctx = mv.c ∧ q.tile = mv.n ∧ q.layer = l.index ∧ q.unit = k then { f q with predicted := false } else q) }
  match markOf w.s mv l.index k with
  | some q =>
    if active then
      (true, note (w.modRegion r (fun g => { g with pfHit := satAdd 32 g.pfHit 1 }))
        (fun q => if q.here then q else { q with wanted := some mv.index }))
    else
      let w := if q.predicted then w.modRegion r (fun g => { g with pfWaste := satAdd 32 g.pfWaste 1 }) else w
      (true, note w (fun q => q))
  | none =>
    if ¬ active then (true, w)
    else
      let w := w.modRegion r (fun g => { g with pfMiss := satAdd 32 g.pfMiss 1 })
      let (ok, w) := w.fetchUnit mv l at_ k u
      let q : Resident :=
        { ctx := mv.c, tile := mv.n, layer := l.index, unit := k, owner := at_.1, here := true, predicted := false, wanted := none }
      (ok, if ok then { w with s.resident := w.s.resident ++ [q] } else w)

/-- The effect of a DEMAND (R233). -/
def demandEffect (u : List Upset) (mv : Mover) (m : Nat) (w : Work) : Effect × Work :=
  blocksEffect mv m w (fun d n b l w =>
    let counts := w.field mv.n d 8 4
    if ¬ nearOk counts (4 * l.units) then ({}, w.fail 144)
    else
      let w := (w.read mv (tileAddr n counts) (4 * l.units)).2
      let active := (List.range l.units).map (fun k => decide (w.tLe n (counts + 4 * k) 4 ≠ 0))
      let at_ := w.places mv.c b l
      let (ok, w) := (List.range l.units).foldl (fun (acc : Bool × Work) k =>
        if ¬ acc.1 then acc else acc.2.demandUnit mv l (at_.getD k (132, 0)) (active.getD k false) k u) (true, w)
      let owners := at_.map (·.1)
      let own := sortNat owners
      if ¬ own.all (fun o => nearOk l.active (4 * (owners.filter (fun x => x = o)).length)) then ({}, w.fail 229)
      else
        let w := w.each own (fun w o =>
          let mine := (List.range l.units).filter (fun k => owners.getD k 132 = o)
          w.put o l.active (mine.flatMap (fun k => leBytes 4 (b2n (active.getD k false)))) false)
        ({ tiles := own, hbm := true, quiet := !ok, split := ok }, w))

/-- PF_BLOCKS with MODE 1. -/
def execDemand (c t : Nat) (u : List Upset) (s : State) : Host.Outcome State Fault Refusal :=
  run s (fun w => w.issue c t u (fun m => decide (mvClass m = 0x2F) && bit m 99) (demandEffect u))

end Sys2Proof.Machine
end

