-- ==== Sys2Proof/Machine/Recipe.lean ====
section
/-! DEFINITION. The arithmetic of the update units (chapters 09 and 10): clip scales, recipes, the epoch layout of a
piece and the copies of a table row (R262, R263, R274–R280, R295, R296, R306). -/

namespace Sys2Proof.Machine

/-! ### FP32 steps (R279) -/

/-- The exact quotient of two numbers, with a sticky bit below 64 more bits than FP32 keeps. -/
def Val.div (a b : Val) : Val :=
  match a, b with
  | .nan, _ => .nan
  | _, .nan => .nan
  | .inf _, .inf _ => .nan
  | .inf s, .num t _ _ => .inf (s != t)
  | .num s _ _, .inf t => Val.zero (s != t)
  | .num s m e, .num t n f =>
    if n = 0 then (if m = 0 then .nan else .inf (s != t))
    else
      let k := 64 + bitLen n
      let q := m * 2 ^ k / n
      .num (s != t) (2 * q + (if m * 2 ^ k % n = 0 then 0 else 1)) (e - f - k - 1)

/-- One rounding to FP32, which counts when it saturates (R135, R279). -/
def f32 (v : Val) : StateM Nat Val := do
  let (c, sat) := v.fp32
  modify (· + b2n sat)
  pure (fp32 c)

/-- 1.0. -/
def one : Val := .num false 1 0

/-- The value is above zero. -/
def Val.positive (v : Val) : Bool := match v with | .nan => false | .inf s => !s | .num s m _ => !s && decide (0 < m)

/-- What a Turn derives from a recipe and its state of epoch e (R277, R278). -/
structure Rates where
  kind : Nat
  bias : Bool
  b1 : Val
  omb1 : Val
  b2 : Val
  omb2 : Val
  eps : Val
  lr : Val
  dfac : Val
  c1 : Val
  sc2 : Val
deriving DecidableEq, Repr

/-- One rounding whose saturation nobody counts. -/
def rne (v : Val) : Val := fp32 v.fp32.1

/-- The values of R278 from a recipe, its state and the learning rate's code. -/
def Recipe.rates (r : Recipe) (st : RecipeState) (lr : Nat) : Rates :=
  let b1 := fp32 r.beta1
  let b2 := fp32 r.beta2
  let l := fp32 lr
  { kind := r.kind, bias := r.bias, b1 := b1, omb1 := one.add b1.neg, b2 := b2, omb2 := one.add b2.neg, eps := fp32 r.eps
    lr := l
    dfac := rne (one.add (rne (l.mul (fp32 r.wd))).neg)
    c1 := rne (one.add (rne ((fp32 st.b1p).mul b1)).neg)
    sc2 := rne (unary 0x24 (rne (one.add (rne ((fp32 st.b2p).mul b2)).neg))) }

/-- The recipe state after a commit that updates (R278). -/
def Recipe.next (r : Recipe) (st : RecipeState) : RecipeState :=
  { step := satAdd 32 st.step 1
    b1p := ((fp32 st.b1p).mul (fp32 r.beta1)).fp32.1
    b2p := ((fp32 st.b2p).mul (fp32 r.beta2)).fp32.1 }

/-- 1.0 multiplied `n` times by a factor, rounded each time (R278). -/
def powerOf (beta : Val) : Nat → Nat
  | 0 => 0x3F800000
  | n + 1 => ((fp32 (powerOf beta n)).mul beta).fp32.1

/-- The recipe state at the first TURN_RUN after RB_LOAD (R278). -/
def Recipe.init (r : Recipe) : RecipeState :=
  { step := r.initStep, b1p := powerOf (fp32 r.beta1) r.initStep, b2p := powerOf (fp32 r.beta2) r.initStep }

/-- The last line of every recipe (R279). -/
def Rates.weight (r : Rates) (w u : Val) : StateM Nat Val := do
  let a ← f32 (w.mul r.dfac)
  let b ← f32 (r.lr.mul u)
  f32 (a.add b.neg)

/-- β1 · m + (1 − β1) · g (R279). -/
def Rates.moment (r : Rates) (m g : Val) : StateM Nat Val := do
  let a ← f32 (r.b1.mul m)
  let b ← f32 (r.omb1.mul g)
  f32 (a.add b)

/-- One element under ADAMW, SGDM or SIGNM (R279): the new weight and the moments m1 and q1. -/
def Rates.element (r : Rates) (g w m q : Val) : StateM Nat (Val × Val × Val) := do
  match r.kind with
  | 0 =>
    let m1 ← r.moment m g
    let qq ← f32 (q.mul q)
    let gg ← f32 (g.mul g)
    let a ← f32 (r.b2.mul qq)
    let b ← f32 (r.omb2.mul gg)
    let v1 ← f32 (a.add b)
    let q1 ← f32 (unary 0x24 v1)
    let mh ← if r.bias then f32 (m1.div r.c1) else pure m1
    let qh ← if r.bias then f32 (q1.div r.sc2) else pure q1
    let d ← f32 (qh.add r.eps)
    let u ← f32 (mh.div d)
    let w1 ← r.weight w u
    pure (w1, m1, q1)
  | 1 =>
    let a ← f32 (r.b1.mul m)
    let m1 ← f32 (a.add g)
    let w1 ← r.weight w m1
    pure (w1, m1, Val.zero false)
  | _ =>
    let m1 ← r.moment m g
    let u := if m1.positive then one else if m1.neg.positive then one.neg else Val.zero false
    let w1 ← r.weight w u
    pure (w1, m1, Val.zero false)

/-- The clipped gradient (R275); `c` is the clip scale's code. -/
def clipped (c : Nat) (g : Val) : StateM Nat Val := if c = 0x3F800000 then pure g else f32 (g.mul (fp32 c))

/-! ### Pieces (R263, R280) -/

/-- The FP32 value at index `i` of a list of codes. -/
def gradAt (grad : List Byte) (i : Nat) : Val := fp32 (ofLe (slice grad (4 * i) 4))

/-- An E4M3 code under a scale byte (R83, R87). -/
def scaledE4m3 (scale code : Nat) : Val := if scale = 0xFF then .nan else (decodeElem 2 code).scale ((scale : Int) - 127)

/-- The moment quantizer of R280 and R306. -/
def momentQ : QCtl := { fmt := 2, scale := 1, side := false, stoch := true, shift := 0, vgroup := 0xFF }

/-- The new epoch layout of an updated piece and its SAT and NONFINITE events (R99, R102, R263, R275, R279, R280). -/
def updatePiece (x : Ctx) (r : Rates) (p : Piece) (stream clip : Nat) (cur grad : List Byte) : List Byte × Ev :=
  let n := p.n
  let sc := if r.kind = 0 then 4 * n else 3 * n
  let at_ := fun o k => ofLe (slice cur o k)
  let elem := fun i =>
    (do
      let g ← clipped clip (gradAt grad i)
      let q := if r.kind = 0 then scaledE4m3 (at_ (sc + 2 * (i / 32) + 1) 1) (at_ (3 * n + i) 1) else Val.zero false
      r.element g (fmtBf16.decode (at_ (2 * i) 2)) (scaledE4m3 (at_ (sc + 2 * (i / 32)) 1) (at_ (2 * n + i) 1)) q : StateM Nat _).run 0
  let es := (List.range n).map elem
  let sats := (es.map (·.2)).sum
  let uni := fun sub i => uniformA x stream sub (p.first + i)
  let ws := ((List.range n).zip es).map (fun e =>
    encodeElem 0 (.stochastic x.compat (uni 0xFFFFFF00 e.1)) e.2.1.1)
  let blocks := fun (sub : Nat) (f : Val × Val × Val → Val) => (List.range (n / 32)).map (fun b =>
    quantBlock momentQ x.compat (((es.drop (32 * b)).take 32).map (fun e => f e.1))
      ((List.range 32).map (fun i => uni sub (32 * b + i))))
  let ms := blocks 0xFFFFFF01 (fun e => e.2.1)
  let qs := if r.kind = 0 then blocks 0xFFFFFF02 (fun e => e.2.2) else []
  let bytes := ws.flatMap (fun w => leBytes 2 w.1) ++ ms.flatMap (fun b => packCodes 8 b.codes) ++
    qs.flatMap (fun b => packCodes 8 b.codes) ++
    (List.range (n / 32)).flatMap (fun b =>
      leBytes 1 ((ms.map (·.scale)).getD b 0) ++ leBytes 1 ((qs.map (·.scale)).getD b 0))
  let e := Ev.sum ((ms ++ qs).map (·.ev))
  (bytes, { sat := sats + (ws.map (fun w => b2n w.2)).sum + e.sat, nonfin := e.nonfin })

/-! ### Table rows (R279, R295, R296, R306) -/

/-- ROWADA on one row (R279): the new weights and the new state. -/
def Rates.row (r : Rates) (gs ws : List Val) (q : Val) : StateM Nat (List Val × Val) := do
  let sq ← gs.mapM (fun g => f32 (g.mul g))
  let (acc, sat) := sq.foldl (fun (a : Acc × Nat) v =>
    let (z, s) := a.1.foldPair v (Val.zero false)
    (z, a.2 + b2n s)) (({ kind := 1 } : Acc), 0)
  let (y, s) := acc.out
  modify (· + sat + b2n s)
  let ms ← f32 ((fp32 y).div (intVal gs.length))
  let qq ← f32 (q.mul q)
  let a ← f32 (r.b2.mul qq)
  let v1 ← f32 (a.add ms)
  let q1 ← f32 (unary 0x24 v1)
  let d ← f32 (q1.add r.eps)
  let w1 ← (ws.zip gs).mapM (fun p => do
    let u ← f32 (p.2.div d)
    r.weight p.1 u)
  pure (w1, q1)

/-- STATE of a TRAIN table's copy, decoded (R296). -/
def TableRec.stateOf (t : TableRec) (tier : Nat) (bs : List Byte) : Val :=
  let o := t.stateOff tier
  scaledE4m3 (ofLe (slice bs o 1)) (ofLe (slice bs (o + 1) 1))

/-- A copy's bytes from elements and state (R296, R306, R313): stochastic under `us` and `uq`, or to nearest even. Its
SAT and NONFINITE events come with it (R99, R102). -/
def TableRec.encode (t : TableRec) (tw1 : Bool) (tier : Nat) (vs : List Val) (q : Val) (us : Option (Nat → Nat)) (uq : Nat) :
    List Byte × Ev :=
  let u := fun i => match us with | some f => f i | none => 0
  let stoch := us.isSome
  let width := fmtBits (tierFmt tier)
  let (elems, scales, ev) : List Byte × List Byte × Ev :=
    if tier = 0 then
      let cs := ((List.range vs.length).zip vs).map (fun p => encodeElem 0 (roundingOf stoch tw1 (u p.1)) p.2)
      (cs.flatMap (fun c => leBytes 2 c.1), [], { sat := (cs.map (fun c => b2n c.2)).sum })
    else
      let ctl : QCtl := { fmt := tierFmt tier, scale := 1, side := false, stoch := stoch, shift := 0, vgroup := 0xFF }
      let bs := (List.range (vs.length / 32)).map (fun b =>
        quantBlock ctl tw1 ((vs.drop (32 * b)).take 32) ((List.range 32).map (fun i => u (32 * b + i))))
      (bs.flatMap (fun b => packCodes width b.codes), bs.map (fun b => BitVec.ofNat 8 b.scale), Ev.sum (bs.map (·.ev)))
  let st := quantBlock { momentQ with stoch := stoch } tw1 [q] [uq]
  let tail := if t.train then leBytes 1 st.scale ++ leBytes 1 (st.codes.headD 0) else []
  (padTo (t.copyBytes tier) (elems ++ scales ++ tail), if t.train then ev.add st.ev else ev)

/-! ### The record and its scales (R271, R272, R274, R276) -/

/-- A little-endian field of the closing-tally record. -/
def recLe (r : List Byte) (off n : Nat) : Nat := ofLe (slice r off n)

/-- ACTION of a record. -/
def recAction (r : List Byte) : Nat := recLe r 6 1

/-- NORM[t] of a record. -/
def recNorm (r : List Byte) (t : Nat) : Nat × Nat := (recLe r (0x440 + 8 * t) 4, recLe r (0x440 + 8 * t + 4) 4)

/-- SCALE[t] of a record. -/
def recScale (r : List Byte) (t : Nat) : Nat := recLe r (0x440 + 8 * recLe r 8 4 + 4 * t) 4

/-- The job-wide norm is in state NAN or INF (R271, R276). -/
def badNorm (p : Nat × Nat) : Bool := nonfiniteCode p.1

/-- Pairs folded in order, from the first (R268, R270, R274). -/
def foldNorms (ps : List (Nat × Nat)) : Acc :=
  match ps with
  | [] => { kind := 1 }
  | p :: rest => rest.foldl (fun a q => (a.foldPair (fp32 q.1) (fp32 q.2)).1) (Acc.ofPair (fp32 p.1) (fp32 p.2))

/-- SCALE[t] (R274). -/
def clipScale (f : Reader) (tensors : Nat) (norms : List (Nat × Nat)) (t : Nat) : Nat :=
  let k := TensorRec.read f t
  if k.clip = 0xFFFF then 0x3F800000
  else
    let us := (List.range tensors).filter (fun u => decide ((TensorRec.read f u).clip = k.clip))
    let acc := foldNorms (us.map (fun u => norms.getD u (0, 0)))
    if acc.st = 1 ∨ acc.st = 2 then 0x7FC00000
    else
      let n := rne (unary 0x24 (fp32 acc.out.1))
      let tau := fp32 k.threshold
      if tau.lt n then (tau.div n).fp32.1 else 0x3F800000

/-- The record as a role keeps it (R271, R274, R276): what the Banker sends, with the role's TENSOR_COUNT, its ACTION
and the scales. `f` reads the TENSOR_TABLE of a role that has one. -/
def ownRecord (f : Option Reader) (sent : List Byte) : List Byte :=
  let flags := recLe sent 5 1
  let tensors := match f with | some f => f 0 4 | none => 0
  let policy := match f with | some f => (TensorHead.read f).policy | none => 0
  let action := if bit flags 0 then policy + 1 else 0
  let norms := (List.range tensors).map (fun t => recNorm sent t)
  slice sent 0 6 ++ leBytes 1 action ++ leBytes 1 0 ++ leBytes 4 tensors ++ slice sent 0xC 0x434 ++
  norms.flatMap (fun p => leBytes 4 p.1 ++ leBytes 4 p.2) ++
  (match f with | some f => (List.range tensors).flatMap (fun t => leBytes 4 (clipScale f tensors norms t)) | none => [])

end Sys2Proof.Machine
end

