-- ==== Sys2Proof/Machine/Update.lean ====
section
/-! DEFINITION. The update units and the closing tally (chapters 09 and 10, R265–R282, R286, R290, R302–R307, R482): the
moves UPD_NORM, CT_CLOSE, UPD_APPLY, TBL_NORM and TBL_UPDATE, the fold at the Banker and the record. -/

namespace Sys2Proof.Machine

/-! ### Partials (R267, R304, R323) -/

/-- The address of a piece's norm partial: the last 8 MiB of its region's doubles reserve. -/
def partialAddr (r entry : Nat) : Nat := stackBase r + 0xFFF800000 + 8 * entry

/-- The key of a context's table partial. -/
def tablePartial (c n : Nat) : Nat := c * 64 + n

/-- A fold of rne(g · g) from (+0, +0), with its SAT events (R267, R304). -/
def foldSquares (gs : List Val) : Acc × Nat :=
  gs.foldl (fun (a : Acc × Nat) g =>
    let (code, s1) := (g.mul g).fp32
    let (z, s2) := a.1.foldPair (fp32 code) (Val.zero false)
    (z, a.2 + b2n s1 + b2n s2)) (({ kind := 1 } : Acc), 0)

/-- SAT events of the package's update units (R280, R291). -/
def Work.countUpdSat (w : Work) (c n : Nat) : Work :=
  w.modCtx c (fun x => { x with turn := { x.turn with updSat := satAdd 32 x.turn.updSat n } })

/-- FP32 values of a list of codes. -/
def fp32List (bs : List Byte) (n : Nat) : List Val := (List.range n).map (gradAt bs)

/-! ### Piece moves (R266) -/

/-- The pieces that a move names and that belong to its region, ascending (R266); entries beyond PIECE_COUNT are none. -/
def Work.namedPieces (w : Work) (mv : Mover) (m : Nat) (b : Book) : List Piece :=
  match w.tensorHead b with
  | none => []
  | some h =>
    let f := w.reader b 0x12
    let k := ctxTile (w.s.ctx mv.c) mv.n / 11
    ((List.range (bits m 122 102)).map (fun i => Piece.read f (bits m 101 82 + i))).filter (fun p =>
      decide (p.entry < h.pieces) && decide (p.region = k))

/-- The effect of a piece move: its issuer, its range and its pieces are as R262 and R266 ask. -/
def pieceEffect (mv : Mover) (m : Nat) (w : Work) (f : Book → List Piece → Work → Effect × Work) : Effect × Work :=
  match (w.s.ctx mv.c).running with
  | none => ({}, w)
  | some b =>
    let ps := w.namedPieces mv m b
    if mv.n % 11 ≠ 0 ∨ bits m 122 102 = 0 ∨ 1048576 < bits m 122 102 then ({}, w.fail 266)
    else if ps.any (fun p => decide (p.n % 32 ≠ 0) || decide (p.n = 0) || decide (2 ^ 31 < p.n)) then ({}, w.fail 262)
    else f b ps w

/-- The events of the update unit's work for a move: SAT counts in HUB_UPD_SAT, and a non-finite input of its quantizers sets the
issuing tile's flag (R99, R102, R291). -/
def Work.updEvents (w : Work) (mv : Mover) (e : Ev) : Work :=
  (w.countUpdSat mv.c e.sat).events mv.c mv.n 0xFF { nonfin := e.nonfin }

/-- `f` for every element until one fails. -/
def Work.steps {α : Type} (w : Work) (xs : List α) (f : Work → α → Bool × Work) : Bool × Work :=
  xs.foldl (fun (acc : Bool × Work) x => if acc.1 then f acc.2 x else acc) (true, w)

/-- The partial of one piece (R267). -/
def Work.normPiece (w : Work) (mv : Mover) (p : Piece) (u : List Upset) : Bool × Work :=
  match w.readRange mv p.grad (4 * p.n) u with
  | (none, w) => (false, w)
  | (some (bs, _), w) =>
    let (a, sats) := foldSquares (fp32List bs p.n)
    let ((s, e), _) := a.pair
    (true, (w.storeBytes (partialAddr (mv.n / 11) p.entry) (leBytes 4 s ++ leBytes 4 e) false).countUpdSat mv.c sats)

/-- The effect of UPD_NORM (R267). -/
def updNormEffect (u : List Upset) (mv : Mover) (m : Nat) (w : Work) : Effect × Work :=
  pieceEffect mv m w (fun _ ps w =>
    let (ok, w) := w.steps ps (fun w p => w.normPiece mv p u)
    ({ hbm := true, quiet := !ok }, w))

/-- UPD_NORM. -/
def execUpdNorm (c t : Nat) (u : List Upset) (s : State) : Host.Outcome State Fault Refusal :=
  run s (fun w => w.issueClass c t 0x30 u (updNormEffect u))

/-! ### Gradient lists (R302–R304) -/

/-- The offset of the gradient rows behind GRAD (R302). -/
def TableRec.gradRows (t : TableRec) : Nat := roundUp (t.grad + 16 + 4 * t.gradCap) 64 - t.grad

/-- Ids rise strictly. -/
def rising : List Nat → Bool
  | [] => true
  | x :: xs => xs.all (fun y => decide (x < y)) && rising xs

/-- A gradient list: each row id with its gradient's bytes, read by a move (R302). -/
def Work.gradList (w : Work) (mv : Mover) (t : TableRec) (u : List Upset) : Option (List (Nat × List Byte)) × Work :=
  match w.readCtx mv t.grad 16 u with
  | (none, w) => (none, w)
  | (some (hb, _), w) =>
    let n := ofLe (hb.take 4)
    if t.gradCap < n then (none, w.fail 302)
    else if n = 0 then (some [], w)
    else
      match w.readRange mv (t.grad + 16) (4 * n) u with
      | (none, w) => (none, w)
      | (some (ib, _), w) =>
        let ids := (List.range n).map (fun k => ofLe (slice ib (4 * k) 4))
        if ¬ rising ids ∨ ids.any (fun i => decide (t.rows ≤ i)) then (none, w.fail 302)
        else
          match w.readRange mv (t.grad + t.gradRows) (4 * t.len * n) u with
          | (none, w) => (none, w)
          | (some (gb, _), w) =>
            (some (((List.range n).zip ids).map (fun p => (p.2, slice gb (4 * t.len * p.1) (4 * t.len)))), w)

/-- The effect of a table move on its table (R292, R303). -/
def tableEffect (mv : Mover) (m : Nat) (w : Work) (f : Book → TableRec → Work → Effect × Work) : Effect × Work :=
  match (w.s.ctx mv.c).running with
  | none => ({}, w)
  | some b =>
    match w.table b (bits m 87 82) with
    | none => ({}, w.fail 292)
    | some t =>
      if ¬ t.train ∨ ctxTile (w.s.ctx mv.c) mv.n ≠ 11 * t.region then ({}, w.fail 303) else f b t w

/-- The effect of TBL_NORM (R304). -/
def tblNormEffect (u : List Upset) (mv : Mover) (m : Nat) (w : Work) : Effect × Work :=
  tableEffect mv m w (fun _ t w =>
    match w.gradList mv t u with
    | (none, w) => ({ quiet := true }, w)
    | (some gs, w) =>
      let (a, sats) := foldSquares (gs.flatMap (fun g => fp32List g.2 t.len))
      let w := { w with s.partials := w.s.partials.put (0, 0) (tablePartial mv.c t.index) a.pair.1 }
      ({ hbm := true }, w.countUpdSat mv.c sats))

/-- TBL_NORM. -/
def execTblNorm (c t : Nat) (u : List Upset) (s : State) : Host.Outcome State Fault Refusal :=
  run s (fun w => w.issueClass c t 0x38 u (tblNormEffect u))

/-! ### The contribution (R268, R304) -/

/-- The norms of a contribution. -/
def Work.norms (w : Work) (c : Nat) (b : Book) : List (Nat × Nat) :=
  match w.tensorHead b with
  | none => []
  | some h =>
    let x := w.s.ctx c
    let f := w.reader b 0x12
    let ps := (List.range h.pieces).map (Piece.read f)
    let ts := (w.tables b).filter (·.train)
    (List.range h.tensors).map (fun t =>
      let mine := (ps.filter (fun p => p.tensor = t)).map (fun p =>
        let a := partialAddr (ctxRegion x p.region) p.entry
        (w.rdLe a 4, w.rdLe (a + 4) 4))
      let rows := (ts.filter (fun r => r.tensor = t)).map (fun r => w.s.partials.get (0, 0) (tablePartial c r.index))
      (foldNorms (mine ++ rows)).pair.1)

/-- A package's contribution, as its flags and counts stand (R268). -/
def Work.contribution (w : Work) (c : Nat) (b : Book) : Contribution :=
  let ts := ctxTiles (w.s.ctx c)
  { norms := w.norms c b
    nonfinite := ts.any (fun n => bit (w.s.tile n).flags 0)
    vsat := (List.range 255).map (fun g => satAdd 32 0 (b.variants.get {} g).sats)
    satTotal := (ts.map (fun n => (w.s.tile n).satCnt)).sum }

/-- The effect of CT_CLOSE (R266, R268, R285). -/
def ctCloseEffect (mv : Mover) (m : Nat) (w : Work) : Effect × Work :=
  let x := w.s.ctx mv.c
  if ctxTile x mv.n ≠ 0 then ({}, w.fail 266)
  else if x.turn.closed then ({}, w.fail 285)
  else
    match x.running with
    | none => ({}, w)
    | some b =>
      let w := w.send (.closing (.contribution (keyOf x mv.c) (rankOf x) x.turn.num x.turn.attempt (w.contribution mv.c b)))
      ({ done := true, quiet := true },
        w.setCtx mv.c
          { x with turn := { x.turn with closed := true, closeSig := if mvSigEn m then some (mvSignal m) else none } })

/-- CT_CLOSE. -/
def execCtClose (c t : Nat) (s : State) : Host.Outcome State Fault Refusal :=
  run s (fun w => w.issueClass c t 0x31 [] ctCloseEffect)

/-! ### The fold at the Banker (R270–R273) -/

/-- This package decides for a key: it is the Banker, or the key is of a job of this package alone (R257, R457). -/
def decidesFor (s : State) (key : Nat) : Bool := decide (0x10000 ≤ key) || s.form.banker

/-- The shape of a key's job (R408, R457). -/
def jobShape (s : State) (key : Nat) : Xyz :=
  match s.bank.jobs.find? (fun j => j.job = key) with
  | some j => j.shape
  | none => { x := 1, y := 1, z := 1 }

/-- The ranks of a shape, as numbers. -/
def ranksOf (shape : Xyz) : List Nat :=
  (List.range shape.z).flatMap (fun z => (List.range shape.y).flatMap (fun y => (List.range shape.x).map (fun x => x + 16 * y + 256 * z)))

/-- One fold of contributions in order (R270); a role without tensors brings no norms. -/
def foldContributions (ks : List Contribution) : Contribution :=
  let tensors := (ks.map (fun k => k.norms.length)).foldl Nat.max 0
  { norms := (List.range tensors).map (fun t => (foldNorms (ks.filterMap (fun k => k.norms[t]?))).pair.1)
    nonfinite := ks.any (·.nonfinite)
    vsat := (List.range 255).map (fun g => satAdd 32 0 ((ks.map (fun k => k.vsat.getD g 0)).sum))
    satTotal := satAdd 64 0 ((ks.map (·.satTotal)).sum) }

/-- The closing tally of a job: along X, then along Y, then along Z (R270). -/
def foldJob (shape : Xyz) (k : Nat → Contribution) : Contribution :=
  foldContributions ((List.range shape.z).map (fun z =>
    foldContributions ((List.range shape.y).map (fun y =>
      foldContributions ((List.range shape.x).map (fun x => k (x + 16 * y + 256 * z)))))))

/-- The record as the Banker sends it: ACTION and SCALE are each role's own (R271, R272, R276). -/
def recordBytes (turn attempt : Nat) (k : Contribution) : List Byte :=
  let bad := (k.norms.filter badNorm).length
  leBytes 4 turn ++ leBytes 1 attempt ++ leBytes 1 (b2n (k.nonfinite || decide (0 < bad))) ++ leBytes 2 0 ++
  leBytes 4 k.norms.length ++ leBytes 4 bad ++ leBytes 8 k.satTotal ++ List.replicate 40 0 ++
  (List.range 255).flatMap (fun g => leBytes 4 (k.vsat.getD g 0)) ++ leBytes 4 0 ++
  k.norms.flatMap (fun p => leBytes 4 p.1 ++ leBytes 4 p.2)

/-- CT_CONTRIBUTION (R270, R273): the last contribution of the attempt closes the tally; a poisoned attempt has none. -/
def execCtContribution (key rank turn attempt : Nat) (k : Contribution) (s : State) : Host.Outcome State Fault Refusal :=
  run s (fun w =>
    let j := s.job key
    if ¬ decidesFor s key ∨ j.turn ≠ turn ∨ j.attempt ≠ attempt ∨ ¬ j.gone ∨ j.poisoned then w
    else
      let j := { j with contribs := j.contribs.put none rank (some k) }
      let w := w.setJob key j
      let shape := jobShape s key
      if (ranksOf shape).all (fun r => (j.contribs.get none r).isSome) then
        let none_ : Contribution := { norms := [], nonfinite := false, vsat := [], satTotal := 0 }
        w.send (.closing (.record key turn attempt
          (recordBytes turn attempt (foldJob shape (fun r => (j.contribs.get none r).getD none_)))))
      else w)

/-! ### Buddies (R286, R288, R290) -/

/-- The next rank along the first axis longer than 1 (R286). -/
def buddyRank (own shape : Xyz) : Xyz :=
  if 1 < shape.x then { own with x := (own.x + 1) % shape.x }
  else if 1 < shape.y then { own with y := (own.y + 1) % shape.y }
  else { own with z := (own.z + 1) % Nat.max 1 shape.z }

/-- The role whose buddy a rank is (R286). -/
def predecessorRank (own shape : Xyz) : Xyz :=
  if 1 < shape.x then { own with x := (own.x + shape.x - 1) % shape.x }
  else if 1 < shape.y then { own with y := (own.y + shape.y - 1) % shape.y }
  else { own with z := (own.z + Nat.max 1 shape.z - 1) % Nat.max 1 shape.z }

/-- The coordinates of a context's buddy. -/
def Work.buddyAt (w : Work) (c : Nat) : Xyz :=
  let x := w.s.ctx c
  roleAt w.s x (buddyRank (rankXyz (rankOf x)) (w.shapeOf c))

/-- An acknowledged write of a unit of the context to its buddy (R281, R290). -/
def Work.writeBuddy (w : Work) (c : Nat) (tag : Tag) (area off : Nat) (bs : List Byte) (owner : Owner) : Work :=
  let x := w.s.ctx c
  let dst := w.buddyAt c
  w.each (pieces224 bs.length) (fun w p =>
    let t := w.s.nextTag
    let a := Config.mirrorAddr area (keyOf x c) (rankOf x) (off + p.1)
    let q : Request :=
      { tag := t, write := true, ctx := c, untagged := tag.untagged, to_ := dst, owner := owner, dest := .none }
    let w := { w with s.nextTag := wrapAdd 16 t 1, s.requests := w.s.requests ++ [q] }
    w.send (.parcel { vc := 0, tag := tag, pkt := mkPacket w.s 1 p.2 dst a t (slice bs p.1 p.2) }))

/-- Staging values go to the buddy's mirror staging; a job of one package has no buddy (R281, R286). -/
def Work.sendStaging (w : Work) (mv : Mover) (off : Nat) (bs : List Byte) : Work :=
  if w.solo mv.c then w else w.writeBuddy mv.c (ctxTag w.s mv.c) 1 off bs (.move mv.n mv.index)

/-! ### UPD_APPLY (R276, R281, R290) -/

/-- The record of the running attempt, once an update move may act on it: written here and, where gradients will be
sent, with the buddy's mirror at the Turn's epoch (R281, R290). -/
def Work.readyRecord (w : Work) (c : Nat) : Option (List Byte) :=
  let t := (w.s.ctx c).turn
  match t.record with
  | none => none
  | some r =>
    if recAction r = 1 ∨ recAction r = 3 ∨ w.solo c ∨ t.buddyEpoch = some t.num then some r else none

/-- A recipe's values for the Turn: the learning rate is read from its table (R278). -/
def Work.ratesOf (w : Work) (mv : Mover) (b : Book) (k : Nat) (u : List Upset) : Option Rates × Work :=
  let rc := Recipe.read (w.reader b 0x13) k
  let st := b.recipes.get { step := 0, b1p := 0, b2p := 0 } k
  match w.readCtx mv (rc.lrTable + 4 * Nat.min st.step (rc.lrCount - 1)) 4 u with
  | (none, w) => (none, w)
  | (some (bs, _), w) => (some (rc.rates st (ofLe bs)), w)

/-- RECIPE_COUNT of a book. -/
def Work.recipeCount (w : Work) (b : Book) : Nat := match w.sect b 0x13 with | none => 0 | some e => w.bookLe b e.off 2

/-- The unit's duplicate differs on an item: the unit marks itself SUSPECT and the attempt is poisoned (R482). -/
def Work.updMismatch (w : Work) (mv : Mover) (item : Nat) : Work := w.engineFailed mv.c false (mv.n / 11) 0x2004 item

/-- The new layout of a piece is written, unless the unit's duplicate differs (R482). -/
def Work.writePiece (w : Work) (mv : Mover) (p : Piece) (at_ : Nat) (bs : List Byte) (u : List Upset) (f : Work → Work) :
    Bool × Work :=
  if u.contains (.update p.entry) then (true, w.updMismatch mv p.entry)
  else
    let (ok, w) := w.writeRange mv at_ bs false u
    (ok, if ok then f w else w)

/-- A piece names a tensor and a recipe that exist, and the recipe is one for pieces (R264). -/
def Work.pieceLawful (w : Work) (b : Book) (h : TensorHead) (p : Piece) : Bool :=
  let tr := TensorRec.read (w.reader b 0x12) p.tensor
  decide (p.tensor < h.tensors) && decide (tr.recipe < w.recipeCount b) && decide ((Recipe.read (w.reader b 0x13) tr.recipe).kind ≤ 2)

/-- One piece under UPDATE or ZERO (R276, R281). -/
def Work.applyPiece (w : Work) (mv : Mover) (b : Book) (h : TensorHead) (r : List Byte) (p : Piece) (u : List Upset) : Bool × Work :=
  let tr := TensorRec.read (w.reader b 0x12) p.tensor
  let kind := (Recipe.read (w.reader b 0x13) tr.recipe).kind
  let cur := h.curSeg * 2 ^ 32 + p.stateOff
  let next := h.nextSeg * 2 ^ 32 + p.stateOff
  match w.readRange mv cur (layoutBytes kind p.n) u with
  | (none, w) => (false, w)
  | (some (cb, _), w) =>
    if recAction r = 2 ∧ badNorm (recNorm r p.tensor) then w.writePiece mv p next cb u id
    else
      match w.readRange mv p.grad (4 * p.n) u with
      | (none, w) => (false, w)
      | (some (gb, _), w) =>
        match w.ratesOf mv b tr.recipe u with
        | (none, w) => (false, w)
        | (some rates, w) =>
          let (bs, e) := updatePiece (w.s.ctx mv.c) rates p tr.stream (recScale r p.tensor) cb gb
          w.writePiece mv p next bs u (fun w => (w.updEvents mv e).sendStaging mv p.mstageOff gb)

/-- The effect of UPD_APPLY: it waits in the unit for the record and the buddy (R281, R290). -/
def updApplyEffect (u : List Upset) (mv : Mover) (m : Nat) (w : Work) : Effect × Work :=
  pieceEffect mv m w (fun b ps w =>
    match w.readyRecord mv.c with
    | none => ({ hbm := true, out := 3 }, w)
    | some r =>
      if recAction r = 1 ∨ recAction r = 3 then ({}, w)
      else
        match w.tensorHead b with
        | none => ({}, w)
        | some h =>
          if ¬ ps.all (w.pieceLawful b h) then ({}, w.fail 264)
          else
            let (ok, w) := w.steps ps (fun w p => w.applyPiece mv b h r p u)
            ({ hbm := true, quiet := !ok }, w))

/-- UPD_APPLY. -/
def execUpdApply (c t : Nat) (u : List Upset) (s : State) : Host.Outcome State Fault Refusal :=
  run s (fun w => w.issueClass c t 0x32 u (updApplyEffect u))

/-! ### TBL_UPDATE (R305–R307, R311) -/

/-- The key of a table's journal count. -/
def journalKey (c h n : Nat) : Nat := c * 256 + h * 64 + n

/-- The re-tier list in force of a table, as (row, tier, pair) (R311). -/
def Work.retierItems (w : Work) (mv : Mover) (h : Nat) (t : TableRec) (u : List Upset) : Option (List (Nat × Nat × Nat)) × Work :=
  if ¬ w.s.retierList.contains (mv.c, h, t.index) then (some [], w)
  else
    match w.readCtx mv t.retier 16 u with
    | (none, w) => (none, w)
    | (some (hb, _), w) =>
      let n := ofLe (hb.take 4)
      if n = 0 then (some [], w)
      else
        match w.readRange mv (t.retier + 16) (8 * n) u with
        | (none, w) => (none, w)
        | (some (ib, _), w) =>
          (some ((List.range n).map (fun k =>
            let d := ofLe (slice ib (8 * k + 4) 4)
            (ofLe (slice ib (8 * k) 4), bits d 29 28, bits d 27 0))), w)

/-- The new copy of a row: bytes and events (R102, R305, R306). `g` is the row's gradient, `clip` its scale's code. -/
def TableRec.newCopy (t : TableRec) (x : Ctx) (r : Rates) (stream clip tier i : Nat) (vs : List Val) (q : Val) (g : Option (List Byte)) :
    List Byte × Ev :=
  let ((w1, q1), sats) : (List Val × Val) × Nat :=
    match g with
    | none => ((vs, q), 0)
    | some gb =>
      (do
        let gs ← (fp32List gb t.len).mapM (clipped clip)
        r.row gs vs q : StateM Nat _).run 0
  let (bs, e) := t.encode x.compat tier w1 q1 (some (fun j => uniformA x stream 0xFFFFFF10 (i * t.len + j)))
    (uniformA x stream 0xFFFFFF12 (i * t.len))
  (bs, { e with sat := sats + e.sat })

/-- A copy of a row was written, in the same tier or another (R317). -/
def Work.countCopy (w : Work) (r : Nat) (moved : Bool) : Work :=
  w.modRegion r (fun g =>
    { g with tblWrites := satAdd 32 g.tblWrites 1, tblRetiers := satAdd 32 g.tblRetiers (b2n moved) })

/-- A row's id joins the journal (R307). -/
def Work.journalRow (w : Work) (mv : Mover) (h : Nat) (t : TableRec) (i : Nat) (u : List Upset) : Bool × Work :=
  let k := journalKey mv.c h t.index
  let n := w.s.journal.get 0 k
  let (ok, w) := w.writeCtx mv (t.journal + 4 * n) (leBytes 4 i) false u
  (ok, { w with s.journal := w.s.journal.put 0 k (n + 1) })

/-- One row of TBL_UPDATE (R305); `item` is its tier and pair in the re-tier list. -/
def Work.updateRow (w : Work) (mv : Mover) (h : Nat) (t : TableRec) (r : Rates) (stream clip : Nat) (u : List Upset) (i : Nat)
    (g : Option (List Byte)) (item : Option (Nat × Nat)) : Bool × Work :=
  let x := w.s.ctx mv.c
  match (w.countSectors mv.c (t.dir + 16 * i) 16).readCtx mv (t.dir + 16 * i) 16 u with
  | (none, w) => (false, w)
  | (some (eb, _), w) =>
    let e := (Entry.ofNat (ofLe eb)).resolve x.turn.num
    let from_ := t.copyAddr e.curTier e.curPair e.curCopy
    match (w.countSectors mv.c from_ (t.copyBytes e.curTier)).readCtx mv from_ (t.copyBytes e.curTier) u with
    | (none, w) => (false, w)
    | (some (cb, _), w) =>
      let (tier, pair, copy) := match item with
        | some d => (d.1, d.2, 0)
        | none => (e.curTier, e.curPair, 1 - e.curCopy)
      let (bs, ev) := t.newCopy x r stream clip tier i (t.decode e.curTier cb) (t.stateOf e.curTier cb) g
      let e' := { e with
        pendPair := pair, pendTier := tier, pendCopy := copy, pendTurn := x.turn.num, pendG := g.isSome }
      if u.contains (.update i) then (true, w.updMismatch mv t.index)
      else
        let to_ := t.copyAddr tier pair copy
        let (ok1, w) := (w.countSectors mv.c to_ bs.length).writeCtx mv to_ bs false u
        if ¬ ok1 then (false, w)
        else
          let (ok2, w) := (w.countSectors mv.c (t.dir + 16 * i) 16).writeCtx mv (t.dir + 16 * i) (leBytes 16 e'.toNat) false u
          if ¬ ok2 then (false, w)
          else ((w.updEvents mv ev).countCopy (mv.n / 11) (decide (tier ≠ e.curTier))).journalRow mv h t i u

/-- The gradient list as it goes to the buddy: header and ids, and the rows at their offset (R305). -/
def Work.sendGradList (w : Work) (mv : Mover) (t : TableRec) (gs : List (Nat × List Byte)) : Work :=
  let w := w.sendStaging mv t.mstageOff (leBytes 4 gs.length ++ leBytes 12 0 ++ gs.flatMap (fun g => leBytes 4 g.1))
  w.sendStaging mv (t.mstageOff + t.gradRows) (gs.flatMap (·.2))

/-- TBL_UPDATE under UPDATE or ZERO, for a table whose norm is good (R305). -/
def Work.updateTable (w : Work) (mv : Mover) (b : Book) (t : TableRec) (r : List Byte) (u : List Upset) : Bool × Work :=
  let h := (w.s.ctx mv.c).turn.handle
  let tr := TensorRec.read (w.reader b 0x12) t.tensor
  if (Recipe.read (w.reader b 0x13) t.recipe).kind ≠ 3 ∨ w.recipeCount b ≤ t.recipe then (false, w.fail 292)
  else
    match w.gradList mv t u with
    | (none, w) => (false, w)
    | (some gs, w) =>
      match w.retierItems mv h t u with
      | (none, w) => (false, w)
      | (some items, w) =>
        match w.ratesOf mv b t.recipe u with
        | (none, w) => (false, w)
        | (some rates, w) =>
          let ids := sortNat (gs.map (·.1) ++ items.map (·.1))
          let (ok, w) := w.steps ids (fun w i =>
            w.updateRow mv h t rates tr.stream (recScale r t.tensor) u i ((gs.find? (fun g => g.1 = i)).map (·.2))
              ((items.find? (fun k => k.1 = i)).map (·.2)))
          if ¬ ok then (false, w)
          else
            let w := w.sendGradList mv t gs
            let key := (mv.c, h, t.index)
            (true,
              if w.s.retierList.contains key then { w with s.retierDone := w.s.retierDone ++ [key] } else w)

/-- The effect of TBL_UPDATE: it waits as UPD_APPLY does (R281, R305). -/
def tblUpdateEffect (u : List Upset) (mv : Mover) (m : Nat) (w : Work) : Effect × Work :=
  tableEffect mv m w (fun b t w =>
    match w.readyRecord mv.c with
    | none => ({ hbm := true, out := 3 }, w)
    | some r =>
      if recAction r = 1 ∨ recAction r = 3 ∨ (recAction r = 2 ∧ badNorm (recNorm r t.tensor)) then ({}, w)
      else
        let (ok, w) := w.updateTable mv b t r u
        ({ hbm := true, quiet := !ok }, w))

/-- TBL_UPDATE. -/
def execTblUpdate (c t : Nat) (u : List Upset) (s : State) : Host.Outcome State Fault Refusal :=
  run s (fun w => w.issueClass c t 0x39 u (tblUpdateEffect u))

/-! ### Update moves that waited (R281, R290) -/

/-- A waiting update move acts once it may. -/
def Work.resumeMove (w : Work) (c n : Nat) (f : Flight) : Work :=
  match (w.s.tile n).buffer.get none f.index with
  | none => w
  | some m =>
    let mv : Mover := { c := c, n := n, phys := hostMesh w.s n, index := f.index, src := srcRegion (n / 11) }
    let (e, w') := if f.cls = 0x32 then updApplyEffect f.errs mv m w else tblUpdateEffect f.errs mv m w
    if e.out = 3 then w
    else
      (w'.modTile n (fun t =>
        { t with
          flights := t.flights.map (fun g =>
            if g = f then { g with out := 0, errs := [], arrivals := if e.quiet then [] else g.arrivals } else g) })).meets mv f.errs

/-- Every waiting update move of a context. -/
def Work.resumeUpdates (w : Work) (c : Nat) : Work :=
  w.each (ctxTiles (w.s.ctx c)) (fun w n =>
    w.each ((w.s.tile n).flights.filter (fun f => f.out = 3)) (fun w f => w.resumeMove c n f))

/-! ### CT_RECORD (R270, R271, R276) -/

/-- The reader of a book's TENSOR_TABLE, where it has one. -/
def Work.tensorReader (w : Work) (b : Book) : Option Reader := (w.sect b 0x12).map (fun _ => w.reader b 0x12)

/-- The record is written at CT_ADDR (R270); true unless a fault stopped the context. -/
def Work.writeRecord (w : Work) (c : Nat) (b : Book) (r : List Byte) (u : List Upset) : Bool × Work :=
  match w.tensorHead b with
  | none => (true, w)
  | some h =>
    match w.ctxWrite c (ctxTag w.s c) h.ctAddr r false (.mirror c) u with
    | (.error e, _) => (false, w.walkStop c h.ctAddr (srcCtx c) e)
    | (.ok _, w) => (true, w)

/-- CT_RECORD (R273): where the package has not poisoned the attempt, the record is kept and written, the arrivals of CT_CLOSE are due, STOP stops the context, and waiting
update moves act. -/
def execCtRecord (c turn attempt : Nat) (bytes : List Byte) (u : List Upset) (s : State) : Host.Outcome State Fault Refusal :=
  run s (fun w =>
    let x := s.ctx c
    let t := x.turn
    match x.running with
    | none => w
    | some b =>
      if ¬ t.live ∨ t.num ≠ turn ∨ t.attempt ≠ attempt ∨ ¬ t.closed ∨ t.recordHere ∨ t.poison then w
      else
        let r := ownRecord (w.tensorReader b) bytes
        let w := w.setCtx c { x with turn := { t with record := some r, recordHere := true, phase := 3 } }
        let (ok, w) := w.writeRecord c b r u
        if ¬ ok then w
        else if recAction r = 3 then w.stopTurn c stFlagged 3 3
        else
          let arr := match t.closeSig with
            | none => []
            | some k => (setBits 12 (w.regionMask b)).map (fun q => (pkgTile x (11 * q), k))
          ({ w with s.arrivals := w.s.arrivals ++ arr }).resumeUpdates c)

end Sys2Proof.Machine
end

