-- ==== Sys2Proof/Machine/Banker.lean ====
section
/-! DEFINITION. What the Banker decides and how a decision takes effect (chapters 09, 13 and 16): records at the standby
Banker, COMMIT and CANCEL, jobs, missing coordinates, lost packages and re-homes (R283, R370, R405, R408–R410, R475, R492,
R493, R495, R497). -/

namespace Sys2Proof.Machine

/-! ### Places (R370, R390, R493) -/

/-- The difference of two numbers. -/
def gap (a b : Nat) : Nat := Nat.max a b - Nat.min a b

/-- |Δx| + |Δy| + |Δz| (R493). -/
def Xyz.steps (a b : Xyz) : Nat := gap a.x b.x + gap a.y b.y + gap a.z b.z

/-- Chebyshev distance (R370). -/
def Xyz.cheb (a b : Xyz) : Nat := Nat.max (gap a.x b.x) (Nat.max (gap a.y b.y) (gap a.z b.z))

/-- The step of a port: its axis, 1 X, 2 Y, 3 Z, and whether it leads upwards (R383). -/
def portAxis (port : Nat) : Nat := port / 2 + 1
def portUp (port : Nat) : Bool := port % 2 = 0

/-- The coordinates one step out of a port (R368, R383); none below 0. -/
def Xyz.step (h : Xyz) (port : Nat) : Option Xyz :=
  let v := h.along (portAxis port)
  if portUp port then some (h.with (portAxis port) (v + 1)) else if v = 0 then none else some (h.with (portAxis port) (v - 1))

/-- The ranks of a job. -/
def Job.ranks (j : Job) : List Xyz := (ranksOf j.shape).map rankXyz

/-- The coordinates lie in a job's placement box (R390). -/
def Job.inBox (j : Job) (p : Xyz) : Bool :=
  decide (j.origin.x ≤ p.x ∧ p.x < j.origin.x + j.shape.x) && decide (j.origin.y ≤ p.y ∧ p.y < j.origin.y + j.shape.y) &&
  decide (j.origin.z ≤ p.z ∧ p.z < j.origin.z + j.shape.z)

/-- The role that a package holds, by the job table: its job and rank. -/
def Bank.roleOf (b : Bank) (p : Xyz) : Option (Nat × Xyz) :=
  b.jobs.findSome? (fun j => (j.ranks.find? (fun r => decide (j.at r = p))).map (fun r => (j.job, r)))

/-- The missing list as the Banker has it, whether or not a Turn boundary has let it take effect here (R410). -/
def State.missingNow (s : State) : List Xyz := s.form.nextMissing.getD s.form.missing

/-- A package that the Banker has placed and that is not missing. -/
def State.present (s : State) (p : Xyz) : Bool := s.bank.placed.any (fun q => decide (q.at_ = p)) && !s.missingNow.contains p

/-- A reserve package: present, without a role (R33). -/
def State.reserve (s : State) (p : Xyz) : Bool := s.present p && (s.bank.roleOf p).isNone

/-- The ports that a report shows as LOST (R370). -/
def PkgReport.lostPorts (r : PkgReport) : List Nat :=
  (List.range 6).filter (fun k => match r.ports[k]? with | some p => decide (p.1 = 4) | none => false)

/-- Links in state LOST between two packages that are not missing, by their ends (R370). -/
def lostLinks (ps : List Placed) (missing : List Xyz) : List (List Xyz) :=
  (ps.flatMap (fun p => p.lost.filterMap (fun k =>
    match p.at_.step k with
    | some n =>
      if (ps.any (fun q => decide (q.at_ = n)) && !missing.contains n && !missing.contains p.at_) = true then
        some (if portUp k then [p.at_, n] else [n, p.at_])
      else none
    | none => none))).eraseDups

/-- The faults of a system, each the list of its ends: its missing packages and its lost links (R370). -/
def faults (ps : List Placed) (missing : List Xyz) : List (List Xyz) := missing.map (fun c => [c]) ++ lostLinks ps missing

/-- What the Banker holds of the port by which `by_` faces `at_`: LOST, or trained again (R370, R386). -/
def Bank.setLost (b : Bank) (by_ at_ : Xyz) (lost : Bool) : Bank :=
  { b with placed := b.placed.map (fun p =>
      if p.at_ = by_ then
        let rest := p.lost.filter (fun k => p.at_.step k ≠ some at_)
        { p with lost := if lost then rest ++ (List.range 6).filter (fun k => p.at_.step k = some at_) else rest }
      else p) }

/-- Every two faults are at least 3 apart (R370); a fault is the list of its ends. -/
def spaced : List (List Xyz) → Bool
  | [] => true
  | f :: fs => fs.all (fun g => f.all (fun a => g.all (fun b => decide (3 ≤ a.cheb b)))) && spaced fs

/-! ### The missing list (R386, R410) -/

/-- Open contexts of a key on this package. -/
def contextsOf (s : State) (key : Nat) : List Nat :=
  (List.range 16).filter (fun c => decide ((s.ctx c).st ≠ .closed) && decide (keyOf (s.ctx c) c = key))

/-- A context gets a new buddy: the committed state of each of its Rulebooks goes whole to it before that Rulebook's next attempt
(R288). -/
def Work.newBuddy (w : Work) (c : Nat) : Work :=
  w.modCtx c (fun x => { x with books := x.books.map (fun p => (p.1, p.2.map (fun b => { b with mirrored := false }))) })

/-- A role of the context's job stands at one of the coordinates. -/
def roleAmong (w : Work) (c : Nat) (l : List Xyz) : Bool :=
  !w.solo c && (ranksOf (w.shapeOf c)).any (fun k => l.contains (roleAt w.s (w.s.ctx c) (rankXyz k)))

/-- A Turn boundary: a new missing list takes effect, and ports trained again become reachable (R386, R410). -/
def Work.applyBoundary (w : Work) : Work :=
  let w := w.each (List.range 6) (fun w p =>
    if (w.s.port p).barred ∧ (w.s.port p).st = 2 then w.modPort p (fun q => { q with barred := false }) else w)
  match w.s.form.nextMissing with
  | none => w
  | some l =>
    let old := w.s.form.missing
    let cs := (List.range 16).filter (fun c =>
      decide ((w.s.ctx c).st ≠ .closed) && !w.solo c && l.contains (w.buddyAt c) && !old.contains (w.buddyAt c))
    let lost := (List.range 16).filter (fun c =>
      decide ((w.s.ctx c).st ≠ .closed) && roleAmong w c (l.filter (fun p => !old.contains p)))
    let w := w.each lost (fun w c => w.modCtx c (fun x => { x with turn := { x.turn with recover := true } }))
    (({ w with s.form := { w.s.form with missing := l, nextMissing := none } }).each cs (fun w c => w.newBuddy c)).signal 0x052

/-- Some context is between its GO and its COMMIT. -/
def midTurn (s : State) : Bool :=
  (List.range 16).any (fun c => (s.ctx c).turn.started && decide (2 ≤ (s.ctx c).turn.phase) && decide ((s.ctx c).turn.phase ≤ 4))

/-- A new missing list arrives; between Turns it takes effect at once (R410). -/
def Work.setMissing (w : Work) (l : List Xyz) : Work :=
  let w := { w with s.form.nextMissing := some l }
  if midTurn w.s then w else w.applyBoundary

/-- The Banker changes the missing list and distributes it (R409, R410, R493). -/
def Work.changeMissing (w : Work) (l : List Xyz) : Work :=
  (w.send (.control (.missing w.s.form.epoch l))).setMissing l

/-! ### Decisions (R283, R405) -/

/-- A decision on a job's Turn: recorded at the standby Banker first, or carried out at once by `act` where there is no
standby or the job is this package's own (R283, R405, R457). -/
def Work.decideTurn (w : Work) (key : Nat) (d : Decision) (act : Work → Work) : Work :=
  match w.s.form.standbyAt with
  | none => act w
  | some _ =>
    if 0x10000 ≤ key then act w
    else
      let n := w.s.bank.nextSeq
      ({ w with s.bank.nextSeq := n + 1, s.bank.waiting := w.s.bank.waiting ++ [(n, d)] }).send
        (.control (.standbyRecord w.s.form.epoch n d))

/-- A change of the formation state. -/
def Work.decideBy (w : Work) (d : Decision) (act : Work → Work) : Work := w.decideTurn 0 d act

/-- Started commands that wait for a condition reply. -/
def Work.answerAll (w : Work) (f : Await → Bool) (status reason p0 : Nat) : Work :=
  w.each (w.s.actives.filter (fun a => f a.wait)) (fun w a => w.reply a status reason p0 0)

/-- A job stops with FAULT_REHOME (R493). -/
def Work.stopJob (w : Work) (job : Nat) : Work :=
  let w := w.send (.closing (.stopJob job stRehome))
  w.each (contextsOf w.s job) (fun w c => w.faultStop c stRehome 0)

/-! ### Re-homes (R493, R495, R497, R499) -/

/-- This package takes over a role (R493, R498). -/
def Work.takeRole (w : Work) (job : Nat) (rank : Xyz) : Work :=
  let w := { w with s.form := { w.s.form with roleJob := job, roleRank := rank, rehomed := true, away := true } }
  (w.cause 0 5).signal 0x052

/-- The re-home is assigned: the job's map changes, the reserve is told, its READY is awaited anew, and SYS_REHOME replies
(R493, R497). -/
def Work.enactAssign (w : Work) (job : Nat) (rank to_ : Xyz) : Work :=
  match w.s.bank.jobs.find? (fun j => j.job = job) with
  | none => w
  | some j =>
    let src := j.at rank
    let b := w.s.bank
    let same := fun (p : Nat × Xyz × Xyz) => decide (p.1 = job) && decide (p.2.1 = rank)
    let w := { w with s.bank := { b with
      jobs := b.jobs.map (fun (k : Job) =>
        if k.job = job then { k with moved := k.moved.filter (fun (p : Xyz × Xyz) => p.1 ≠ rank) ++ [(rank, to_)] } else k)
      rehomes := b.rehomes.filter (fun p => !same p) ++ [(job, rank, to_)]
      rehomeCount := b.rehomeCount.put 0 job (b.rehomeCount.get 0 job + 1) } }
    let w := w.modJob job (fun t => if t.gone then t else { t with ready := t.ready.filter (fun r => r ≠ rankNum rank) })
    let w := w.record 0x5005 3 srcSystem job (rankNum rank) (rankNum to_)
    let w := w.send (.control (.rehome w.s.form.epoch to_ job rank))
    let w := w.each (contextsOf w.s job) (fun w c =>
      if buddyRank (rankXyz (rankOf (w.s.ctx c))) j.shape = rank then w.newBuddy c else w)
    let w := if to_ = w.s.here then w.takeRole job rank else w
    w.answerAll (fun v => decide (v = Await.rehome src)) stDone 0 (rankNum to_)

/-- Packages that may be chosen for a lost role (R493). -/
def reserves (s : State) : List Placed :=
  s.bank.placed.filter (fun p =>
    s.reserve p.at_ && !s.bank.jobs.any (fun j => j.inBox p.at_) && !s.bank.excluded.contains p.at_)

/-- The nearest of them, ties to the lowest SERIAL (R493). -/
def nearestReserve (s : State) (src : Xyz) : Option Xyz :=
  ((reserves s).foldl (fun (best : Option Placed) p =>
    match best with
    | none => some p
    | some b =>
      let (d, e) := (p.at_.steps src, b.at_.steps src)
      if d < e ∨ (d = e ∧ p.serial < b.serial) then some p else some b) none).map (·.at_)

/-- The role's successor or predecessor is itself being re-homed, so that a copy it needs is not complete (R290, R495). -/
def copyBroken (b : Bank) (j : Job) (rank : Xyz) : Bool :=
  b.rehomes.any (fun p =>
    decide (p.1 = j.job) && (decide (p.2.1 = buddyRank rank j.shape) || decide (p.2.1 = predecessorRank rank j.shape)))

/-- A package is lost: it joins the missing list, and its role is re-homed or its job stops (R493, R499). -/
def Work.enactLost (w : Work) (src : Xyz) : Work :=
  let b := w.s.bank
  let chosen := (b.moves.find? (fun m => m.1 = src)).bind (·.2)
  let missing := w.s.missingNow ++ [src]
  let role := b.roleOf src
  let w := ({ w with s.bank := { b with moves := b.moves.filter (fun m => m.1 ≠ src) } }).changeMissing missing
  let failed := fun (w : Work) job => (w.stopJob job).answerAll (fun v => decide (v = Await.rehome src)) stRehome 0 0
  match role with
  | none =>
    let (v, w) := w.draw
    w.answerAll (fun x => decide (x = Await.rehome src)) stDone 0 (lowBits 32 v)
  | some (job, rank) =>
    match b.jobs.find? (fun j => j.job = job) with
    | none => w
    | some j =>
      if ¬ spaced (faults b.placed missing) ∨ j.shape = { x := 1, y := 1, z := 1 } ∨ copyBroken b j rank ∨
          4 ≤ b.rehomeCount.get 0 job then failed w job
      else
        match (match chosen with | some t => if w.s.reserve t then some t else nearestReserve w.s src | none => nearestReserve w.s src) with
        | none => failed w job
        | some t => w.decideBy (.assign job rank t) (fun w => w.enactAssign job rank t)

/-- The Banker declares a package lost (R283, R492, R493): an attempt in which its role has not voted is replayed. -/
def Work.declareLost (w : Work) (src : Xyz) (cause : Nat) : Work :=
  if ¬ w.s.present src then w
  else
    let w := w.record 0x5003 5 srcSystem (rankNum src) cause 0
    let w := match w.s.bank.roleOf src with
      | none => w
      | some (job, r) =>
        let j := w.s.job job
        if j.gone ∧ ¬ j.poisoned ∧ ¬ j.deciding ∧ ¬ j.committed ∧ ¬ j.yes.contains (rankNum r) then
          (w.setJob job { j with poisoned := true }).send (.closing (.replay job j.turn j.attempt 6))
        else w
    w.decideBy (.lost src) (fun w => w.enactLost src)

/-! ### COMMIT and CANCEL (R283, R475, R497) -/

/-- COMMIT is broadcast (R283); moves of roles that waited for it go on (R497). -/
def Work.broadcastCommit (w : Work) (key turn attempt : Nat) : Work :=
  let w := (w.modJob key (fun j => { j with deciding := false, committed := true })).send (.closing (.commit key turn attempt))
  let w := { w with s.bank.rehomeCount := w.s.bank.rehomeCount.put 0 key 0 }
  w.each w.s.bank.moves (fun w m =>
    match w.s.bank.roleOf m.1 with
    | some (job, _) =>
      if job = key then
        let (v, w) := w.draw
        w.declareLost m.1 (lowBits 32 v)
      else w
    | none => w)

/-- CANCEL is broadcast, and no GO goes out for the Turn (R475). -/
def Work.broadcastCancel (w : Work) (key turn : Nat) : Work :=
  (w.modJob key (fun j => if j.turn = turn ∧ ¬ j.gone then { j with ready := [] } else j)).send
    (.closing (.cancel false key turn))

/-! ### Formation and jobs (R406, R408, R409, R412, R415) -/

/-- The package takes its place in the formed system (R406, R412, R415). -/
def Work.placed (w : Work) (a : Assign) : Work :=
  let banker := decide (a.banker = a.coord)
  let w := { w with
    s.form := { w.s.form with
      form := 2, banker := banker, standby := decide (a.standby = some a.coord), coord := a.coord, ext := a.ext
      missing := a.missing, nextMissing := none, bankerAt := a.banker, standbyAt := a.standby, epoch := a.epoch
      lastBeat := w.s.now }
    s.time := { w.s.time with state := 1, root := banker, lastReply := w.s.now, goodSince := if banker then some w.s.now else none } }
  w.signal 0x052

/-- FORM_ASSIGN of one package, as the Banker sends it (R406). -/
def assignOf (s : State) (ext : Xyz) (missing : List Xyz) (p : Placed) : Assign :=
  { epoch := s.form.epoch, serial := p.serial, coord := p.at_, ext := ext, missing := missing, banker := s.form.bankerAt
    standby := s.form.standbyAt, time := s.now, delay := p.delaySum }

/-- The extent of a set of coordinates that starts at (0, 0, 0). -/
def extentOf (ps : List Xyz) : Xyz :=
  { x := (ps.map (·.x)).foldl Nat.max 0 + 1, y := (ps.map (·.y)).foldl Nat.max 0 + 1, z := (ps.map (·.z)).foldl Nat.max 0 + 1 }

/-- The packages whose straps fit `f`, lowest SERIAL (R404). -/
def lowestSerial (ps : List Placed) (f : Placed → Bool) : Option Placed :=
  (ps.filter f).foldl (fun (best : Option Placed) p =>
    match best with
    | none => some p
    | some b => if p.serial < b.serial then some p else some b) none

/-- A new standby Banker under R404, without the packages `not_`; EV_NO_STANDBY where none qualifies. -/
def Work.nameStandby (w : Work) (not_ : List Xyz) : Work :=
  let at_ := (lowestSerial w.s.bank.placed (fun p =>
    (p.bankerEn || p.standbyEn) && w.s.present p.at_ && !not_.contains p.at_)).map (·.at_)
  let w := { w with s.form.standbyAt := at_ }
  if at_.isNone then w.record 0x5002 3 srcSystem 0 0 0 else w

/-- The formation state goes to the standby Banker (R405, R411). -/
def Work.copyFormation (w : Work) : Work :=
  let b := w.s.bank
  let ds := Decision.formed b.placed w.s.missingNow :: (b.jobs.map Decision.place ++ b.excluded.map (fun p => Decision.exclude p true))
  match w.s.form.standbyAt with
  | none => w
  | some _ =>
    w.each ds (fun w d =>
      let n := w.s.bank.nextSeq
      ({ w with s.bank.nextSeq := n + 1 }).send (.control (.standbyRecord w.s.form.epoch n d)))

/-- Every package has acknowledged: SYS_FORM completes (R406). -/
def Work.formDone (w : Work) : Work :=
  if w.s.bank.acks.length < w.s.bank.placed.length ∨ ¬ w.s.actives.any (fun a => a.wait = .form) then w
  else w.copyFormation.answerAll (fun v => decide (v = Await.form)) stDone 0 0

/-- The placement stands: every package gets FORM_ASSIGN, this one takes its own place (R406). -/
def Work.enactFormed (w : Work) (ps : List Placed) (missing : List Xyz) : Work :=
  let banker := (lowestSerial ps (fun p => p.bankerEn)).map (·.at_)
  let t := w.s.now
  let w := { w with
    s.bank := { w.s.bank with
      placed := ps, acks := [], reports := [], alive := ps.foldl (fun (m : Table Nat) (p : Placed) => m.put 0 (rankNum p.at_) t) [] }
    s.form := { w.s.form with bankerAt := banker.getD {}, nextMissing := some missing } }
  let w := w.nameStandby banker.toList
  let ext := extentOf (ps.map (·.at_))
  let w := w.each ps (fun w p =>
    let a := assignOf w.s ext missing p
    if p.serial = Config.serial then ({ w with s.bank.acks := w.s.bank.acks ++ [p.serial] }).placed a
    else w.send (.control (.assign a)))
  w.formDone

/-- A job is placed: every package of its box learns its JOB and rank (R408). -/
def Work.enactPlace (w : Work) (j : Job) : Work :=
  let w := ({ w with s.bank.jobs := w.s.bank.jobs ++ [j] }).setJob j.job {}
  let w := w.each j.ranks (fun w r =>
    if j.at r = w.s.here then
      ({ w with s.form := { w.s.form with roleJob := j.job, roleRank := r, rehomed := false, away := false } }).signal 0x052
    else w.send (.control (.role (j.at r) j.job r)))
  w.answerAll (fun v => decide (v = Await.place j.job)) stDone 0 j.job

/-- A job leaves the job table (R454). -/
def Work.enactRemove (w : Work) (job : Nat) : Work :=
  let noRank : Xyz := { x := 15, y := 15, z := 15 }
  match w.s.bank.jobs.find? (fun j => j.job = job) with
  | none => w
  | some j =>
    let w := { w with s.bank := { w.s.bank with
      jobs := w.s.bank.jobs.filter (fun k => k.job ≠ job), rehomes := w.s.bank.rehomes.filter (fun p => p.1 ≠ job) } }
    let w := w.setJob job {}
    let w := w.each j.ranks (fun w r =>
      if j.at r = w.s.here then
        ({ w with s.form := { w.s.form with roleJob := 0xFFF, roleRank := noRank, rehomed := false, away := false } }).signal 0x052
      else w.send (.control (.role (j.at r) 0xFFF noRank)))
    w.answerAll (fun v => decide (v = Await.place job)) stDone 0 0

/-- A package joins (R409): it leaves the missing list and is told its place; SYS_JOIN replies at its acknowledgement. -/
def Work.enactJoined (w : Work) (p : Placed) : Work :=
  let missing := w.s.missingNow.filter (fun m => m ≠ p.at_)
  let b := w.s.bank
  let w := { w with s.bank := { b with
    placed := b.placed.filter (fun (q : Placed) => q.at_ ≠ p.at_) ++ [p], candidates := b.candidates.filter (fun c => c.1 ≠ p.at_)
    lostPorts := b.lostPorts.filter (fun q => q.1 ≠ p.at_), alive := b.alive.put 0 (rankNum p.at_) w.s.now } }
  (w.send (.control (.assign (assignOf w.s w.s.form.ext missing p)))).changeMissing missing

/-- SYS_REHOME OP 3 takes effect (R497). -/
def Work.enactExclude (w : Work) (at_ : Xyz) (out : Bool) : Work :=
  let rest := w.s.bank.excluded.filter (fun p => p ≠ at_)
  ({ w with s.bank.excluded := if out then rest ++ [at_] else rest }).answerAll (fun v => decide (v = Await.exclude at_)) stDone 0 0

/-- A decision takes effect (R283, R405). -/
def Work.enact (w : Work) : Decision → Work
  | .formed ps missing => w.enactFormed ps missing
  | .commit key turn attempt => w.broadcastCommit key turn attempt
  | .cancel key turn => w.broadcastCancel key turn
  | .place j => w.enactPlace j
  | .remove job => w.enactRemove job
  | .joined p => w.enactJoined p
  | .lost at_ => w.enactLost at_
  | .assign job rank to_ => w.enactAssign job rank to_
  | .exclude at_ out => w.enactExclude at_ out

end Sys2Proof.Machine
end

