-- ==== Sys2Proof/Machine/Turn.lean ====
section
/-! DEFINITION. Rulebook handles and the attempts of a Turn (chapters 02, 09, 15 and 16): RB_LOAD and RB_UNLOAD, TURN_RUN,
TURN_STOP and TURN_STATUS, READY, GO, poison, REPLAY, the vote, and what the Banker decides of them (R40, R255–R257,
R282–R284, R461, R470, R475, R486, R499, R578, R580). -/

namespace Sys2Proof.Machine

/-! ### RB_LOAD and RB_UNLOAD (R40, R162, R461, R578) -/

/-- Where an image stands while it is checked, before it has pages: no package address. -/
def scratch : Nat := 0x100000000000

/-- Both copies of a store get their pages (R578); none where two stacks cannot hold them. -/
def Work.placeStore (w : Work) (c h n : Nat) : Option (Nat × Nat × Work) :=
  let (s0, s1) := copyStacks (w.s.ctx c)
  if (w.s.ctx c).room s0 < n ∨ (w.s.ctx c).room s1 < n then none
  else
    match w.takePages c s0 n (.store h 0) with
    | none => none
    | some (a, w) =>
      match w.takePages c s1 n (.store h 1) with
      | none => none
      | some (b, w) => some (a, b, w)

/-- Checks 1–3 on the header (R36, R40). -/
def headerChecks (x : Ctx) (hdr : List Byte) (bytes : Nat) : Option (Nat × Nat) :=
  let size := ofLe (slice hdr 8 4)
  if ofLe (slice hdr 0 4) ≠ 0x32425754 ∨ ofLe (slice hdr 4 2) ≠ 0x0200 then some (stRefusedBook, 1)
  else if size % 4096 ≠ 0 ∨ size < 4096 ∨ 0x40000000 < size ∨ bytes < size then some (stRefusedBook, 2)
  else if (List.range 4).all (fun h => (x.book h).isSome) then some (stRefusedBook, 0xA)
  else none

/-- Checks 4–11 on an image, with the room for both copies judged at check 9 (R40, R578). -/
def Work.imageChecks (w : Work) (x : Ctx) (placed : Bool) (img : List Byte) : Option (Nat × Nat) :=
  let b : Book := { addr := scratch, copy := scratch, bytes := img.length }
  match (w.wrBytes scratch img).loaderChecks x b with
  | none => if placed then none else some (stRefusedBook, 6)
  | some (st, r) => if ¬ placed ∧ st = stRefusedBook ∧ (r = 7 ∨ r = 8) then some (stRefusedBook, 6) else some (st, r)

/-- A refused Rulebook: the record and the reply (R40). -/
def Work.refuseBook (w : Work) (a : Active) (status reason : Nat) : Work :=
  (w.recordCtx 0x7001 2 (srcCtx a.ctx) status reason 0 (some a.ctx)).reply a status reason 0 0

/-- The lowest handle that no loaded Rulebook holds. -/
def freeHandle (x : Ctx) : Nat := ((List.range 4).find? (fun h => (x.book h).isNone)).getD 0

/-- The rank that a Rulebook's ROLE names (R36). -/
def Work.roleOf (w : Work) (b : Book) : Nat :=
  w.bookLe b 0x1C 1 % 16 + w.bookLe b 0x1D 1 % 16 * 16 + w.bookLe b 0x1E 1 % 16 * 256

/-- Pages of a context's save area, in the order in which they were taken: the header, then a record per tile (R473). -/
def saveRuns (x : Ctx) : List Alloc := x.allocs.filter (fun g => g.use = .save)

/-- The address of a tile's record. -/
def saveRecord (x : Ctx) (k : Nat) : Nat := ((saveRuns x).map (·.addr)).getD (k + 1) 0

/-- The ONCE bits that the save area holds for a context's tiles of regions it does not hold are clear (R162, R473). -/
def Work.clearSavedOnce (w : Work) (c : Nat) : Work :=
  let x := w.s.ctx c
  let away := (ctxTiles x).filter (fun n =>
    decide ((w.s.region (n / 11)).holder ≠ some c) && decide (ctxTile x n + 1 < (saveRuns x).length))
  w.each away (fun w n => w.wrLe (saveRecord x (ctxTile x n) + 16) 8 0)

/-- An accepted Rulebook is stored twice and mapped; ONCE bits go at the next attempt, and the tally-fault registers
clear (R71, R162, R338, R461). -/
def Work.storeBook (w : Work) (c h : Nat) (img : List Byte) (p q : Nat) : Option Work :=
  match w.needLeaf c (0xFFFC + h) with
  | none => none
  | some w =>
    let w := w.setSegEntry c (0xFFFC + h)
      { valid := true, write := false, limitM1 := img.length / 4096 - 1, target := boardOf w.s p }
    let w := (w.storeBytes p img false).storeBytes q img false
    let b : Book := { addr := p, copy := q, bytes := img.length }
    let w := w.modCtx c (fun x => { x with books := x.books.put none h (some b) })
    let w := if (w.s.ctx c).turn.started then w else w.modCtx c (fun x => { x with rank := w.roleOf b })
    let mine := (ctxTiles (w.s.ctx c)).filter (fun n => decide ((w.s.region (n / 11)).holder = some c))
    let w := w.each mine (fun w n =>
      (w.modTile n (fun t => { t with onceNext := 1 })).modPh (hostMesh w.s n) (fun p => { p with fault := 0, faultCnt := 0, faultIter := 0 }))
    some (w.clearSavedOnce c)

/-- RB_LOAD (R40). -/
def execRbLoad (h : Hdr) (ctxAddr bytes : Nat) (u : List Upset) (s : State) : Host.Outcome State Fault Refusal :=
  run s (fun w => w.command h 0x10 16 false (.ctx h.fn) (fun a w =>
    let c := h.fn
    let n := Nat.min bytes 256
    match w.ctxRead c ctxAddr n u with
    | (.error e, _) => w.walkReply a c ctxAddr 0 e
    | (.ok hb, w) =>
      if w.hitCtx c ctxAddr n u then (w.meetsHost (srcFn h.fn) u).reply a stMemory 1 0 0
      else
        match headerChecks (w.s.ctx c) (padTo 256 hb) bytes with
        | some (st, r) => w.refuseBook a st r
        | none =>
          let size := ofLe (slice hb 8 4)
          match w.ctxRead c ctxAddr size u with
          | (.error e, _) => w.walkReply a c ctxAddr 0 e
          | (.ok img, w) =>
            let w := w.askSpans (freeTag w.s c) (w.spans c ctxAddr ctxAddr size false none).1
            if w.hitCtx c ctxAddr size u then (w.meetsHost (srcFn h.fn) u).reply a stMemory 1 0 0
            else
              let w := w.meetsHost (srcFn h.fn) u
              let k := freeHandle (w.s.ctx c)
              let placed := w.placeStore c k size
              let x := match placed with | some (_, _, w') => w'.s.ctx c | none => w.s.ctx c
              match w.imageChecks x placed.isSome img, placed with
              | some (st, r), _ => w.refuseBook a st r
              | none, none => w.refuseBook a stRefusedBook 6
              | none, some (p, q, w') =>
                match w'.storeBook c k img p q with
                | none => w.refuseBook a stRefusedBook 6
                | some w => w.reply a stDone 0 k (storeAddr k)))

/-- Some TURN_RUN of the context names a handle and has not replied. -/
def bookInUse (s : State) (c h : Nat) : Bool := (turnRuns s c).any (fun a => a.wait = .turnRun h)

/-- The counts of an unloaded Rulebook's journals stay with the context's Turn (R307). -/
def Work.keepJournals (w : Work) (c h : Nat) (b : Book) : Work :=
  let js := ((w.tables b).filter (·.train)).filterMap (fun t =>
    let n := w.s.journal.get 0 (journalKey c h t.index)
    if n = 0 then none else some (t.journal, t.dir, n))
  w.modCtx c (fun x => { x with turn := { x.turn with left := x.turn.left ++ js } })

/-- RB_UNLOAD (R461). -/
def execRbUnload (h : Hdr) (handle : Nat) (s : State) : Host.Outcome State Fault Refusal :=
  run s (fun w => w.command h 0x11 1 false (.ctx h.fn) (fun a w =>
    let c := h.fn
    match (w.s.ctx c).book handle with
    | none => w.reply a stNotFound 0 0 0
    | some b =>
      if bookInUse w.s c handle then w.refuse a rsState
      else
        let w := w.keepJournals c handle b
        let w := w.setSegEntry c (0xFFFC + handle) { w.segEntry c (0xFFFC + handle) with valid := false }
        let w := w.freePages c (fun v => v = .store handle 0 || v = .store handle 1)
        let w := w.modCtx c (fun x => { x with books := x.books.put none handle none })
        let gone := fun (k : Nat × Nat × Nat) => decide (k.1 = c) && decide (k.2.1 = handle)
        let w := { w with
          s.flips := w.s.flips.filter (fun f => !(f.ctx = c && f.handle = handle))
          s.journal := w.s.journal.clear (journalKey c handle 0) 64
          s.retierList := w.s.retierList.filter (fun k => !gone k)
          s.retierDone := w.s.retierDone.filter (fun k => !gone k)
          s.retierDue := w.s.retierDue.filter (fun k => !gone k) }
        (w.dropLeaf c 255).replyDone a))

/-! ### TURN_RUN (R254–R256, R260, R278, R288, R468, R470) -/

/-- Committed state that a Rulebook's first TURN_RUN makes: recipe states and variant selections (R106, R278). R106 makes INITIAL
the selection in the context's first Turn and says nothing of a Rulebook that first runs in a later one: DESIGN CHOICE, it
starts at INITIAL too, with clean 0 (log entry 42). -/
def Work.startBook (w : Work) (b : Book) : Book :=
  let rf := w.reader b 0x13
  let vf := w.reader b 0x14
  let groups := match w.sect b 0x14 with | none => 0 | some e => w.bookLe b e.off 2
  { b with
    named := true, started := true
    recipes := (List.range (w.recipeCount b)).foldl (fun t k => t.put { step := 0, b1p := 0, b2p := 0 } k (Recipe.read rf k).init) []
    variants := (List.range groups).foldl (fun t g => t.put {} g { sel := vf (16 + 16 * g + 1) 1 }) [] }

/-- A context's committed small state (R287). -/
def smallOf (s : State) (c : Nat) : Small :=
  let x := s.ctx c
  let b := x.running
  { turn := x.turn.num, handle := x.turn.handle
    recipes := match b with | some b => b.recipes | none => []
    variants := match b with | some b => b.variants | none => []
    lanes := (List.range 192).map (fun k => (k, s.lanes.get 0 (c * 192 + k))) }

/-- The bytes of a book's section; none where it has no such section. -/
def Work.sectBytes (w : Work) (b : Book) (type : Nat) : List (Nat × List Byte) :=
  match w.sect b type with
  | none => []
  | some e => [(type, w.bookBytes b e.off e.size)]

/-- Tables of a handle in a list of (context, handle, table). -/
def tablesIn (ks : List (Nat × Nat × Nat)) (c h : Nat) : List Nat :=
  (ks.filter (fun k => decide (k.1 = c) && decide (k.2.1 = h))).map (·.2.2)

/-- The arrays of a TRAIN table's committed state: (address, bytes, offset from MIRROR_OFF) (R308). -/
def TableRec.arrays (t : TableRec) : List (Nat × Nat × Nat) :=
  let rs : List (Nat × Nat) :=
    (t.dir, 16 * t.rows) :: (List.range 3).map (fun k => (t.pools.getD k 0, 2 * t.pairs.getD k 0 * t.copyBytes k)) ++
    [(t.retier, 16 + 8 * t.retierCap)]
  (rs.foldl (fun (acc : List (Nat × Nat × Nat) × Nat) r =>
    (acc.1 ++ [(r.1, r.2, acc.2)], roundUp (acc.2 + r.2) 4096)) ([], 0)).1

/-- A context range goes to the buddy's mirror image at an offset. -/
def Work.mirrorRange (w : Work) (c a n off : Nat) : Work :=
  match w.ctxRead c a n [] with
  | (.error _, w') => w'
  | (.ok bs, w) => w.writeBuddy c (freeTag w.s c) 0 off bs (.mirror c)

/-- The role's committed state goes whole to the buddy's mirror (R288, R308). -/
def Work.copyToBuddy (w : Work) (c : Nat) : Work :=
  let x := w.s.ctx c
  match x.running with
  | none => w
  | some b =>
    let h := x.turn.handle
    let w := match w.tensorHead b with
      | none => w
      | some t =>
        let f := w.reader b 0x12
        w.each (List.range t.pieces) (fun w i =>
          let p := Piece.read f i
          let kind := (Recipe.read (w.reader b 0x13) (TensorRec.read f p.tensor).recipe).kind
          w.mirrorRange c (t.curSeg * 2 ^ 32 + p.stateOff) (layoutBytes kind p.n) p.mirrorOff)
    let w := w.each ((w.tables b).filter (·.train)) (fun w t =>
      w.each t.arrays (fun w r => w.mirrorRange c r.1 r.2.1 (t.mirrorOff + r.2.2)))
    let m : MirrorCopy :=
      { rank := rankOf x, small := smallOf w.s c
        sections := w.sectBytes b 0x12 ++ w.sectBytes b 0x13 ++ w.sectBytes b 0x16
        retier := tablesIn w.s.retierList c h, due := tablesIn w.s.retierDue c h }
    (w.modCtx c (fun x => { x with turn := { x.turn with awaitCopy := true } })).send (.closing (.mirrorWhole (keyOf x c) m))

/-- The context's role came to this package by a re-home and is not yet restored (R495). -/
def restoring (s : State) (c : Nat) : Bool := s.form.rehomed && decide ((s.ctx c).job = s.form.roleJob)

/-- The first TURN_RUN of a Rulebook (R278); a re-homed role's state comes from its successor's mirror instead (R495). -/
def Work.firstRun (w : Work) (c h : Nat) (b : Book) : Work :=
  if b.started then w
  else if restoring w.s c then
    w.modCtx c (fun x =>
      { x with
        books := x.books.put none h (some { b with named := true })
        turn := { x.turn with handle := h, awaitCopy := true }, mirror := { x.mirror with wanted := true } })
  else w.modCtx c (fun x => { x with books := x.books.put none h (some (w.startBook b)) })

/-- TURN_RUN (R468, R470, R475): it waits for its Turn. -/
def execTurnRun (h : Hdr) (handle : Nat) (s : State) : Host.Outcome State Fault Refusal :=
  run s (fun w => w.command h 0x12 1 false (.ctx h.fn) (fun a w =>
    let c := h.fn
    let x := w.s.ctx c
    let t := x.turn
    match x.book handle with
    | none => if x.st = .stopped then w.refuse a rsState else w.reply a stNotFound 0 0 0
    | some b =>
      if x.st = .stopped ∨ (t.ran ∧ ¬ t.started ∧ 256 ≤ t.after) then w.refuse a rsState
      else
        let turn := t.num + (turnRuns w.s c).length
        if t.cancelled.contains turn then
          (w.setCtx c { x with turn := { t with cancelled := t.cancelled.filter (fun k => k ≠ turn) } }).reply a stAborted 0 0 0
        else
        let w := w.setCtx c
          { x with seedLocked := true, turn := { t with keepForce := if x.seedLocked then t.keepForce else x.keepAll } }
        (w.firstRun c handle b).await a (.turnRun handle) false))

/-! ### The start of an attempt (R257) -/

/-- The TURN_RUN that runs or runs next. -/
def headRun (s : State) (c : Nat) : Option Active := (turnRuns s c).head?

/-- The context holds every region of its mask (R470, R471). -/
def holdsRegions (s : State) (c : Nat) : Bool := (setBits 12 (s.ctx c).mask).all (fun r => decide ((s.region r).holder = some c))

/-- An attempt may be prepared: a TURN_RUN is pending, its regions are held, owed bytes are written, copies are complete
(R288, R337, R470, R495). -/
def mayStart (s : State) (c : Nat) : Bool :=
  let x := s.ctx c
  (x.st = .opened || x.st = .running) && (headRun s c).isSome && (!x.turn.started || x.turn.phase = 0) && holdsRegions s c &&
  x.owed.isEmpty && !x.turn.awaitCopy && !x.mirror.wanted &&
  (setBits 12 x.mask).all (fun r => (s.stack r).retrainNow.isEmpty)

/-- The entries of one table over a range of another. -/
def Table.overlay {α : Type} [DecidableEq α] (dst src : Table α) (d : α) (lo n : Nat) : Table α :=
  (src.filter (fun e => decide (lo ≤ e.1) && decide (e.1 < lo + n))).foldl (fun t e => t.put d e.1 e.2) (dst.clear lo n)

/-- A tile at the start of an attempt (R47, R49, R127, R140, R162, R172). -/
def Tile.fresh (t : Tile) (active : Bool) : Tile :=
  { t with
    active := active, pos := 0, loops := [], trips := [], tallies := [], ended := false, stopped := false, buffer := []
    flights := [], accs := [], accShape := 0, check := 0, once := if t.onceNext = 1 then 0 else t.once, onceNext := 0
    streams := [], drain := none, ask := none, offers := [], bad := [], flags := 0, satCnt := 0, t2inv := 0, lastIssue := 0 }

/-- A tile's start: lost words are zero before the GO, its row cache is ghosted, and reset where its enabled ways change
(R147, R170, R172). -/
def Work.freshTile (w : Work) (c n : Nat) (active : Bool) : Work :=
  let w := w.each (w.s.tile n).bad (fun w r => w.zero (tileAddr n r.1) r.2)
  ((w.modTile n (·.fresh active)).modPh (hostMesh w.s n) (·.ghost)).syncWays c n

/-- A word that the TW2 writes into a tile before an attempt; a place outside the tile's stores is UNPREDICTABLE and reaches
no other context's tile (R5). -/
def Work.putWord (w : Work) (n at_ : Nat) (bs : List Byte) : Work :=
  if tileAddrOk at_ bs.length then w.put n at_ bs false else w.fail 107

/-- The selection words of one tile (R107). -/
def Work.selectionWords (w : Work) (b : Book) (n : Nat) : Work :=
  match w.sect b 0x14 with
  | none => w
  | some e =>
    w.each (List.range (w.bookLe b e.off 2)) (fun w g =>
      let sel := (b.variants.get {} g).sel
      w.putWord n (w.bookLe b (e.off + 16 + 16 * g + 8) 4) ((List.range 4).flatMap (fun j => leBytes 4 (b2n (decide (j = sel))))))

/-- The keep-all word of one tile (R260). -/
def Work.keepWord (w : Work) (c : Nat) (b : Book) (n : Nat) : Work :=
  match w.tensorHead b with
  | none => w
  | some h => if h.keepWord = 0xFFFFFFFF then w else w.putWord n h.keepWord (leBytes 4 (b2n (w.s.ctx c).turn.keepForce))

/-- `n` rows listed in a journal at `list` lose what earlier attempts of this Turn left pending in the directory `dir`; a walk
fault stops the context (R307, R351). -/
def Work.cleanRows (w : Work) (c list dir n : Nat) : Work :=
  let e := (w.s.ctx c).turn.num
  (w.steps (List.range n) (fun w j =>
    match w.ctxLe c (list + 4 * j) 4 [] with
    | .error x => (false, w.walkStop c (list + 4 * j) (srcCtx c) x)
    | .ok i =>
      match w.ctxLe c (dir + 16 * i) 16 [] with
      | .error x => (false, w.walkStop c (dir + 16 * i) (srcCtx c) x)
      | .ok v =>
        let d := Entry.ofNat v
        if d.pendTurn ≠ e ∨ d.pendTier = 3 then (true, w)
        else
          match w.ctxWrite c (freeTag w.s c) (dir + 16 * i) (leBytes 16 d.dropPend.toNat) false (.mirror c) [] with
          | (.error x, _) => (false, w.walkStop c (dir + 16 * i) (srcCtx c) x)
          | (.ok _, w) => (true, w))).2

/-- The journals that a context's loaded Rulebooks keep: handle and table. -/
def Work.journals (w : Work) (c : Nat) : List (Nat × TableRec) :=
  (w.s.ctx c).books.flatMap (fun p =>
    match p.2 with
    | some b => ((w.tables b).filter (·.train)).map (fun t => (p.1, t))
    | none => [])

/-- Every journal of the context is worked off where earlier attempts of the Turn ran, and its count is zero (R307). -/
def Work.cleanJournals (w : Work) (c : Nat) : Work :=
  let js := w.journals c
  let t := (w.s.ctx c).turn
  let w :=
    if t.attempt = 0 then w
    else
      let w := w.each js (fun w j => w.cleanRows c j.2.journal j.2.dir (w.s.journal.get 0 (journalKey c j.1 j.2.index)))
      w.each t.left (fun w j => w.cleanRows c j.1 j.2.1 j.2.2)
  if (w.s.ctx c).st = .stopped then w
  else
    let w := w.modCtx c (fun x => { x with turn := { x.turn with left := [] } })
    { w with s.journal := w.s.journal.clear (c * 256) 256 }

/-- Retirements decided outside an attempt poison the first attempt before READY (R486). -/
def mustPoison (s : State) (c : Nat) : Bool := s.retiring.any (fun u => bit (s.ctx c).mask u.region)

/-- The turn block of an attempt that starts; a Turn that has run continues its attempt numbers (R256), and so does one whose
REPLAY came before this package's TURN_RUN (R284). -/
def Turn.begin (t : Turn) (h : Nat) : Turn :=
  let first := !t.started
  { t with
    handle := h, started := true, phase := 1, poison := false, cause := 0, closed := false, closeSig := none, record := none
    recordHere := false
    attempt := if first then t.next else t.attempt
    causes := if first then [] else t.causes, quietNs := 0 }

/-- The start-of-attempt work of a context (R257). -/
def Work.prepare (w : Work) (c h : Nat) (b : Book) : Work :=
  let x := w.s.ctx c
  let tiles := ctxTiles x
  let w := w.setCtx c { x with rank := w.roleOf b, turn := x.turn.begin h }
  let count := w.tileCount b
  let w := w.each tiles (fun w n => w.freshTile c n (decide (ctxTile x n < count)))
  let w := w.each (setBits 12 x.mask) (fun w r =>
    (w.modRegion r (fun g => { g with spnOvf := false })).zero (partialAddr r 0) 0x800000)
  let w := { w with
    s.arrivals := w.s.arrivals.filter (fun a => !tiles.contains a.1)
    s.resident := w.s.resident.filter (fun q => q.ctx ≠ c)
    s.partials := w.s.partials.clear (tablePartial c 0) 64
    s.retierDone := w.s.retierDone.filter (fun k => k.1 ≠ c)
    s.lanesNow := w.s.lanesNow.overlay w.s.lanes 0 (c * 192) 192 }
  let b := { b with variants := b.variants.map (fun v => (v.1, { v.2 with sats := 0, amaxNow := 0 })) }
  let w := w.modCtx c (fun x => { x with books := x.books.put none h (some b) })
  let w := w.each (tiles.filter (fun n => decide (ctxTile x n < count))) (fun w n => (w.selectionWords b n).keepWord c b n)
  w.cleanJournals c

/-- The package reports READY, or poisons the attempt that a retirement must abandon (R257, R470, R486). -/
def Work.report (w : Work) (c : Nat) : Work :=
  let x := w.s.ctx c
  let t := x.turn
  if mustPoison w.s c then
    (w.setCtx c { x with turn := { t with poison := true, cause := 4 } }).send
      (.closing (.poison (keyOf x c) (rankOf x) t.num t.attempt 4))
  else
    let w := if restoring w.s c then
        ({ w with s.form.rehomed := false }).modCtx c (fun x => { x with turn := { x.turn with recover := true } })
      else w
    w.send (.closing (.ready (keyOf x c) (rankOf x) t.num t.attempt))

/-- Before the first attempt after RB_LOAD the committed state goes whole to the buddy, and READY waits (R288). -/
def Work.startCopy (w : Work) (c h : Nat) (b : Book) : Work :=
  (w.modCtx c (fun x =>
    { x with
      rank := w.roleOf b, books := x.books.put none h (some { b with mirrored := true })
      turn := { x.turn with handle := h } })).copyToBuddy c

/-- ATTEMPT_START (R257, R410): before it, a new missing list takes effect. -/
def execAttemptStart (c : Nat) (s : State) : Host.Outcome State Fault Refusal :=
  run s (fun w =>
    let w := if midTurn s then w else w.applyBoundary
    match headRun s c with
    | none => w
    | some a =>
      match a.wait with
      | .turnRun h =>
        match (w.s.ctx c).book h with
        | none => w
        | some b =>
          if ¬ mayStart w.s c then w
          else if ¬ b.mirrored ∧ ¬ w.solo c then w.startCopy c h b
          else
            let w := w.prepare c h b
            if (w.s.ctx c).st = .stopped then w else w.report c
      | _ => w)

/-! ### READY and GO (R257, R468, R474) -/

/-- One attempt comes before another. -/
def olderAttempt (turn attempt turn' attempt' : Nat) : Bool :=
  decide (turn < turn') || (decide (turn = turn') && decide (attempt < attempt'))

/-- The Banker's view of a job at an attempt; a newer attempt begins a new view. -/
def JobTurn.at (j : JobTurn) (turn attempt : Nat) : JobTurn :=
  if j.turn = turn ∧ j.attempt = attempt then j else { turn := turn, attempt := attempt }

/-- READY at the Banker: with every role ready, one GO releases the attempt (R257). The reserve of a re-home has heard of
no attempt: its READY counts for the attempt that is being prepared (R495; log entry 26). -/
def execReady (key rank turn attempt : Nat) (s : State) : Host.Outcome State Fault Refusal :=
  run s (fun w =>
    let old := s.job key
    let moved := fun (p : Nat × Xyz × Xyz) => decide (p.1 = key) && decide (rankNum p.2.1 = rank)
    let attempt :=
      if turn = old.turn ∧ attempt < old.attempt + b2n old.poisoned ∧ s.bank.rehomes.any moved then old.attempt + b2n old.poisoned
      else attempt
    if ¬ decidesFor s key ∨ olderAttempt turn attempt old.turn old.attempt then w
    else
      let j := old.at turn attempt
      if j.gone ∨ j.poisoned then w
      else
        let w := { w with s.bank.rehomes := s.bank.rehomes.filter (fun p => !moved p) }
        let j := { j with ready := insertNat rank j.ready }
        if (ranksOf (jobShape s key)).all (fun r => j.ready.contains r) then
          (w.setJob key { j with gone := true }).send (.closing (.go key turn attempt))
        else w.setJob key j)

/-- A context that a re-home restored and that no GO has reached takes its attempt from the GO (R495; log entry 26). -/
def adopts (s : State) (c : Nat) : Bool := s.form.away && decide ((s.ctx c).job = s.form.roleJob) && !(s.ctx c).turn.ran

/-- GO (R257, R468, R474, R526): the attempt starts issuing, and at its first GO the TURN_RUN claims its outcome. -/
def execGo (c turn attempt : Nat) (s : State) : Host.Outcome State Fault Refusal :=
  run s (fun w =>
    let x := s.ctx c
    let t := x.turn
    match headRun s c with
    | none => w
    | some a =>
      if ¬ t.started ∨ t.phase ≠ 1 ∨ t.num ≠ turn ∨ (t.attempt ≠ attempt ∧ ¬ adopts s c) ∨ t.poison then w
      else
        let w := w.setCtx c { x with st := .running, turn := { t with
          attempt := attempt, phase := 2, ran := true, next := attempt + 1, after := attempt + 1, recover := false } }
        let w := w.await a a.wait true
        let w := match s.traceNext.get none c with
          | none => w
          | some d => { w with s.traceDesc := s.traceDesc.put none c d, s.traceNext := s.traceNext.put none c none }
        (w.traceAttempt c 0).each ((ctxTiles x).filter (fun n => (s.tile n).active)) (fun w n => w.becomeHead c n))

/-! ### Poison and REPLAY (R53, R58, R256, R273, R283, R284, R427, R486, R499, R580) -/

/-- POISON_RECEIVED at the Banker: REPLAY is broadcast for the attempt, and again for a tally fault that comes after another
cause, since every package counts it (R58). -/
def execPoisonReceived (key _rank turn attempt cause : Nat) (s : State) : Host.Outcome State Fault Refusal :=
  run s (fun w =>
    let old := s.job key
    if ¬ decidesFor s key ∨ olderAttempt turn attempt old.turn old.attempt then w
    else
      let j := old.at turn attempt
      if j.deciding ∨ j.committed then w
      else if j.poisoned then (if cause = 1 then w.send (.closing (.replay key turn attempt 1)) else w)
      else (w.setJob key { j with poisoned := true }).send (.closing (.replay key turn attempt cause)))

/-- The attempt's moves, arrivals and packets are gone (R53, R284). -/
def Work.abandon (w : Work) (c : Nat) : Work :=
  let ts := ctxTiles (w.s.ctx c)
  let w := w.each ts (fun w n => w.modTile n (fun t => { t with stopped := true, active := false, flights := [], drain := none }))
  let w := { w with
    s.arrivals := w.s.arrivals.filter (fun a => !ts.contains a.1)
    s.requests := w.s.requests.filter (fun q => q.ctx ≠ c || q.untagged || (match q.owner with | .move _ _ => false | _ => true))
    s.resident := w.s.resident.filter (fun q => q.ctx ≠ c) }
  w.each (setBits 12 (w.s.ctx c).mask) (fun w r => w.tryEntry r)

/-- A limit of R499 is reached, so that the package is lost (R493). -/
def Work.limitLost (w : Work) (c : Nat) : Work :=
  if w.solo c then w.faultStop c stRehome 0 else w.send (.closing (.lost w.s.here 1 w.s.here))

/-- A tally-fault replay of an attempt is counted, once; the second of a TURN_RUN stops the context (R58, R499). -/
def Work.countTallyReplay (w : Work) (c attempt : Nat) : Work :=
  let t := (w.s.ctx c).turn
  if t.tallied = attempt + 1 then w
  else
    let n := t.causes.get 0 1 + 1
    let w := w.modCtx c (fun x => { x with turn := { x.turn with tallied := attempt + 1, causes := t.causes.put 0 1 n } })
    if 2 ≤ n then w.faultStop c stTally 0 else w

/-- The running attempt is abandoned: what a retirement waits for takes place, and the limits of R499 count (R256, R284). -/
def Work.replayRunning (w : Work) (c attempt cause : Nat) : Work :=
  let t := (w.s.ctx c).turn
  let own := if t.poison then t.cause else cause
  let w := (w.traceAttempt c 1).abandon c
  let w := w.modCtx c (fun x => { x with turn := { x.turn with phase := 0, poison := false } })
  let w := if cause = 1 ∨ own = 1 then w.countTallyReplay c attempt else w
  if (w.s.ctx c).st = .stopped then w
  else
    let n := t.causes.get 0 own + 1
    let counts := t.poison && decide (own ≠ 1)
    let w := if counts then w.modCtx c (fun x => { x with turn := { x.turn with causes := x.turn.causes.put 0 own n } }) else w
    let w := (w.retireFor c).retirePages c false
    if counts && decide (8 ≤ n) && decide (own ≠ 5) && decide (own ≠ 6) then w.limitLost c else w

/-- The attempt that a package runs, or starts next. -/
def Turn.current (t : Turn) : Nat := if t.started then t.attempt else t.next

/-- REPLAY (R58, R256, R284): the next attempt is prepared, unless a limit ends the Turn; a package that has not started the
abandoned attempt starts with the one after it. A second REPLAY of an attempt, for a tally fault, only counts that fault. -/
def execReplay (c turn attempt cause : Nat) (s : State) : Host.Outcome State Fault Refusal :=
  run s (fun w =>
    let t := (s.ctx c).turn
    if (s.ctx c).st = .closed ∨ t.phase = 5 ∨ t.num ≠ turn then w
    else if t.started ∧ t.phase ≤ 1 ∧ t.attempt = attempt + 1 ∧ cause = 1 then w.countTallyReplay c attempt
    else if t.current ≠ attempt then w
    else if attempt = 255 then
      let (status, reason) := causeStatus (if t.poison then t.cause else cause)
      (w.abandon c).faultStop c status reason
    else
      let w := if t.started ∧ t.phase ≠ 0 then w.replayRunning c attempt cause else w
      if (w.s.ctx c).st = .stopped then w
      else
        let w := w.recordCtx 0x5006 2 (srcCtx c) (s.ctx c).job turn attempt (some c)
        (w.modCtx c (fun x => { x with turn := { x.turn with
          attempt := if t.started then attempt + 1 else x.turn.attempt, next := attempt + 1, recover := true
          replays := wrapAdd 64 t.replays 1 } })).signal 0x051)

/-! ### The vote and the decision (R105, R108, R278, R282, R283, R405) -/

/-- R108 on one variant group: `s` its job-wide SAT count, `f` the reader of VARIANTS. -/
def Variant.next (v : Variant) (f : Reader) (g s : Nat) : Variant :=
  let o := 16 + 16 * g
  let count := f o 1
  let down := f (o + 2) 2
  if f (o + 4) 4 < s then { v with sel := Nat.min (v.sel + 1) (count - 1), clean := 0 }
  else if s = 0 then
    let clean := satAdd 16 v.clean 1
    if down ≠ 0 ∧ down ≤ clean ∧ 0 < v.sel then { v with sel := v.sel - 1, clean := 0 } else { v with clean := clean }
  else { v with clean := 0 }

/-- A book's committed state once the Turn commits: `r` the record, where a closing tally was formed (R105, R108, R278,
R285). -/
def Work.nextBook (w : Work) (b : Book) (r : Option (List Byte)) : Book :=
  match r with
  | none => { b with variants := b.variants.map (fun v => (v.1, { v.2 with amaxLast := v.2.amaxNow })) }
  | some r =>
    let rf := w.reader b 0x13
    let vf := w.reader b 0x14
    { b with
      recipes := if recAction r = 0 ∨ recAction r = 2 then b.recipes.map (fun p => (p.1, (Recipe.read rf p.1).next p.2)) else b.recipes
      variants := (List.range (vf 0 2)).foldl (fun t g =>
        t.upd {} g (fun v => { v.next vf g (recLe r (0x40 + 4 * g) 4) with amaxLast := v.amaxNow })) b.variants }

/-- The small state as it will be once the Turn commits: it travels with the vote (R289). -/
def Work.nextSmall (w : Work) (c : Nat) : Small :=
  let x := w.s.ctx c
  let b := x.running.map (fun b => w.nextBook b x.turn.record)
  { turn := wrapAdd 32 x.turn.num 1, handle := x.turn.handle
    recipes := match b with | some b => b.recipes | none => []
    variants := match b with | some b => b.variants | none => []
    lanes := (List.range 192).map (fun k => (k, w.s.lanesNow.get 0 (c * 192 + k))) }

/-- The package can vote YES (R282). -/
def mayVote (s : State) (c : Nat) : Bool :=
  let x := s.ctx c
  let ts := ctxTiles x
  x.turn.live && !x.turn.poison && (!x.turn.closed || x.turn.recordHere) &&
  ts.all (fun n => (!(s.tile n).active || (s.tile n).ended) && (s.tile n).flights.isEmpty) &&
  !s.arrivals.any (fun a => ts.contains a.1) && !s.requests.any (fun q => decide (q.ctx = c) && !q.untagged)

/-- VOTE (R282). -/
def execVote (c : Nat) (s : State) : Host.Outcome State Fault Refusal :=
  run s (fun w =>
    let x := s.ctx c
    if ¬ mayVote s c then w
    else
      (w.setCtx c { x with turn := { x.turn with phase := 4 } }).send
        (.closing (.yes (keyOf x c) (rankOf x) x.turn.num x.turn.attempt (w.nextSmall c))))

/-- YES_RECEIVED at the Banker (R283). -/
def execYesReceived (key rank turn attempt : Nat) (s : State) : Host.Outcome State Fault Refusal :=
  run s (fun w =>
    let j := s.job key
    if ¬ decidesFor s key ∨ j.turn ≠ turn ∨ j.attempt ≠ attempt ∨ ¬ j.gone ∨ j.poisoned ∨ j.deciding ∨ j.committed then w
    else
      let j := { j with yes := insertNat rank j.yes }
      if (ranksOf (jobShape s key)).all (fun r => j.yes.contains r) then
        (w.setJob key { j with deciding := true }).decideTurn key (.commit key turn attempt) (fun w => w.broadcastCommit key turn attempt)
      else w.setJob key j)

/-! ### TURN_STOP and CANCEL (R470, R475) -/

/-- TURN_RUNs that have not started reply ABORTED (R470); one that is ready withdraws. -/
def Work.abortQueued (w : Work) (c : Nat) : Work :=
  let runs := (turnRuns w.s c).filter (fun a => !a.claimed)
  let w := if (w.s.ctx c).st = .running then w
    else w.modCtx c (fun x => { x with turn := { x.turn.rest with phase := if x.turn.phase = 5 then 5 else 0 } })
  w.each runs (fun w a => w.reply a stAborted 0 0 0)

/-- TURN_STOP on one context; `now`: the running attempt is abandoned too (R470). -/
def Work.stopRuns (w : Work) (c : Nat) (now : Bool) : Work :=
  let x := w.s.ctx c
  if ¬ now ∨ x.st ≠ .running then w.abortQueued c
  else
    let runs := turnRuns w.s c
    let w := w.abandon c
    let w := w.modCtx c (fun x => { x with st := .opened, turn := { x.turn.rest with phase := 0 } })
    let w := w.each ((List.range runs.length).zip runs) (fun w p =>
      if p.1 = 0 then w.reply p.2 stAborted 0 x.turn.num (turnParam x.turn.attempt 0 false) else w.reply p.2 stAborted 0 0 0)
    ((w.retireFor c).retirePages c false).applyAllDeferred c

/-- TURN_STOP at the Banker: MODE 1 comes in time before COMMIT is recorded (R470). -/
def Work.bankerStop (w : Work) (key mode : Nat) : Work :=
  let j := w.s.job key
  let now := decide (mode = 1) && !j.deciding && !j.committed
  let w := if now then w.setJob key { turn := j.turn, attempt := j.attempt, poisoned := j.gone }
    else if j.gone then w else w.setJob key { j with ready := [] }
  let w := w.send (.closing (.stopAll key (b2n now)))
  w.each (contextsOf w.s key) (fun w c => w.stopRuns c now)

/-- TURN_STOP, of a mode: to the Banker, or applied here where this package decides. -/
def Work.turnStop (w : Work) (c mode : Nat) : Work :=
  let x := w.s.ctx c
  if decidesFor w.s (keyOf x c) then w.bankerStop (keyOf x c) mode else w.send (.closing (.turnStop (keyOf x c) mode))

/-- TURN_STOP with MODE 0. -/
def execTurnStopAfter (h : Hdr) (s : State) : Host.Outcome State Fault Refusal :=
  run s (fun w => w.command h 0x13 1 false (.ctx h.fn) (fun a w => (w.turnStop h.fn 0).replyDone a))

/-- TURN_STOP with MODE 1. -/
def execTurnStopNow (h : Hdr) (s : State) : Host.Outcome State Fault Refusal :=
  run s (fun w => w.command h 0x13 1 false (.ctx h.fn) (fun a w => (w.turnStop h.fn 1).replyDone a))

/-- TURN_STOP_AT_BANKER (R470): the Banker applies it on every package; on another package it is the Banker's order. -/
def execTurnStopAtBanker (key mode : Nat) (s : State) : Host.Outcome State Fault Refusal :=
  run s (fun w =>
    if decidesFor s key then w.bankerStop key mode
    else w.each (contextsOf s key) (fun w c => w.stopRuns c (decide (mode = 1))))

/-- TURN_STATUS (R291, R454, R500). -/
def execTurnStatus (h : Hdr) (s : State) : Host.Outcome State Fault Refusal :=
  run s (fun w => w.command h 0x14 0 false (.ctx h.fn) (fun a w =>
    let x := w.s.ctx h.fn
    w.reply a (if x.st = .running ∧ 0 < x.turn.attempt then stReplayed else stDone) 0 (turnReg w.s h.fn 0) (turnReg w.s h.fn 4)))

/-- CANCEL at a package: its TURN_RUN for the Turn replies ABORTED, or the first that comes will (R475). -/
def Work.cancelTurn (w : Work) (c turn : Nat) : Work :=
  let x := w.s.ctx c
  let t := x.turn
  if turn < t.num then w
  else if t.ownCancels.contains turn then
    w.setCtx c { x with turn := { t with ownCancels := t.ownCancels.filter (fun k => k ≠ turn) } }
  else
    match (turnRuns w.s c)[turn - t.num]? with
    | none => w.setCtx c { x with turn := { t with cancelled := t.cancelled ++ [turn] } }
    | some a => if a.claimed then w else (w.withdraw c turn).reply a stAborted 0 0 0

/-- CANCEL (R475): at the Banker (`banker`), or at a package of the job. -/
def execCancel (banker : Bool) (key turn : Nat) (s : State) : Host.Outcome State Fault Refusal :=
  run s (fun w =>
    if banker then
      let j := s.job key
      if ¬ decidesFor s key ∨ (j.turn = turn ∧ j.gone) ∨ turn < j.turn then w
      else w.decideTurn key (.cancel key turn) (fun w => w.broadcastCancel key turn)
    else w.each (contextsOf s key) (fun w c => w.cancelTurn c turn))

end Sys2Proof.Machine
end

