-- ==== Sys2Proof/Machine/Commit.lean ====
section
/-! DEFINITION. COMMIT and what follows it (chapters 09, 10 and 15): the commit steps, re-tier passes, the mirror of the
predecessor, and context switches (R265, R285–R290, R308–R311, R165, R471–R473, R482). -/

namespace Sys2Proof.Machine

/-! ### Re-tier passes (R309–R311) -/

/-- Progress of a re-tier pass: its list of (row, tier, pair) and the pairs handed out, by tier. -/
structure Pass where
  items : List (Nat × Nat × Nat)
  taken : List (Nat × Nat)
deriving DecidableEq, Repr

/-- The lowest pair of a tier that no entry names as current and the pass has not handed out. -/
def freePair (t : TableRec) (es : List Entry) (taken : List (Nat × Nat)) (tier : Nat) : Option Nat :=
  (List.range (t.pairs.getD tier 0)).find? (fun p =>
    !taken.contains (tier, p) && !es.any (fun e => e.curTier = tier && e.curPair = p))

/-- The tier a row belongs in, by its heat. -/
def TableRec.want (t : TableRec) (e : Entry) : Nat := if t.hotMin ≤ e.heat then 0 else if t.warmMin ≤ e.heat then 1 else 2

/-- One row of a pass (R310). -/
def Pass.row (p : Pass) (t : TableRec) (es : List Entry) (i tier : Nat) : Pass :=
  match freePair t es p.taken tier with
  | none => p
  | some q =>
    if p.items.length < t.retierCap then { items := p.items ++ [(i, tier, q)], taken := (tier, q) :: p.taken } else p

/-- The list of a pass over resolved entries: demotions in ascending row, promotions by descending heat (R310). -/
def passList (t : TableRec) (es : List Entry) : List (Nat × Nat × Nat) :=
  let rows := (List.range es.length).zip es
  let down := rows.filter (fun r => decide (r.2.curTier < t.want r.2))
  let up := sortBy (fun (a b : Nat × Entry) => decide (b.2.heat < a.2.heat))
    (rows.filter (fun r => decide (t.want r.2 < r.2.curTier)))
  let p := (down ++ up).foldl (fun p r => Pass.row p t es r.1 (t.want r.2)) ({ items := [], taken := [] } : Pass)
  sortBy (fun a b => decide (a.1 < b.1)) p.items

/-- The bytes of a re-tier list (R311). -/
def listBytes (items : List (Nat × Nat × Nat)) : List Byte :=
  leBytes 4 items.length ++ leBytes 12 0 ++ items.flatMap (fun k => leBytes 4 k.1 ++ leBytes 4 (k.2.2 + k.2.1 * 2 ^ 28))

/-- A re-tier pass over a table, its entries resolved for Turn `turn` (R310). -/
def Work.retierPass (w : Work) (c : Nat) (t : TableRec) (turn : Nat) : Work :=
  match w.ctxRead c t.dir (16 * t.rows) [] with
  | (.error e, _) => w.walkStop c t.dir (srcCtx c) e
  | (.ok bs, w) =>
    let es := (List.range t.rows).map (fun i => (Entry.ofNat (ofLe (slice bs (16 * i) 16))).resolve turn)
    let out := es.flatMap (fun e => leBytes 16 { e with heat := e.heat / 2 }.toNat)
    let items := passList t es
    match w.ctxWrite c (freeTag w.s c) t.dir out false (.mirror c) [] with
    | (.error e, _) => w.walkStop c t.dir (srcCtx c) e
    | (.ok _, w) =>
      match w.ctxWrite c (freeTag w.s c) t.retier (listBytes items) false (.mirror c) [] with
      | (.error e, _) => w.walkStop c t.retier (srcCtx c) e
      | (.ok _, w) => w

/-- A pass is due after the commit of Turn `e` (R309). -/
def TableRec.passDue (t : TableRec) (e : Nat) : Bool :=
  t.train && decide (t.retierTurns ≠ 0) && decide ((e + 1) % Nat.max 1 t.retierTurns = 0)

/-- The passes that the commit of Turn `e` brings: a table whose list is still in force waits (R309). -/
def Work.retierPasses (w : Work) (c e : Nat) : Work :=
  let x := w.s.ctx c
  match x.running with
  | none => w
  | some b =>
    w.each (w.tables b) (fun w t =>
      let key := (c, x.turn.handle, t.index)
      if t.passDue e ∨ w.s.retierDue.contains key then
        (if w.s.retierList.contains key then
          { w with s.retierDue := w.s.retierDue.filter (fun k => k ≠ key) ++ [key] }
        else
          { w with
            s.retierDue := w.s.retierDue.filter (fun k => k ≠ key)
            s.retierList := w.s.retierList ++ [key] }.retierPass c t (e + 1))
      else w)

/-! ### COMMIT (R285) -/

/-- Two segment entries exchange their targets, and with them the pages behind them (R265, R460). -/
def Work.exchange (w : Work) (c i j : Nat) : Work :=
  let a := w.segEntry c i
  let b := w.segEntry c j
  let w := (w.setSegEntry c i { a with target := b.target }).setSegEntry c j { b with target := a.target }
  let swap := fun k => if k = i then j else if k = j then i else k
  w.modCtx c (fun x =>
    { x with
      allocs := x.allocs.map (fun g => match g.use with | .segment k => { g with use := .segment (swap k) } | _ => g)
      spread := x.spread.map (fun g => { g with index := swap g.index }) })

/-- Step 1 of R285. -/
def Work.flipWindows (w : Work) (c : Nat) (b : Book) (r : Option (List Byte)) : Work :=
  match r, w.tensorHead b with
  | some r, some h =>
    if recAction r = 0 ∨ recAction r = 2 then
      (w.exchange c h.curSeg h.nextSeg).modCtx c (fun x => { x with turn := { x.turn with slot := !x.turn.slot } })
    else w
  | _, _ => w

/-- The status and reason of a committed TURN_RUN (R276, R285). -/
def commitStatus (action : Nat) : Nat × Nat := if action = 1 ∨ action = 2 then (stFlagged, action) else (stDone, 0)

/-- The channels of a context's stacks that a lane has marked begin to retrain, before the next GO (R321). -/
def Work.startRetrain (w : Work) (c : Nat) : Work :=
  w.each (setBits 12 (w.s.ctx c).mask) (fun w k =>
    w.modStack k (fun g => { g with retrain := [], retrainNow := g.retrain.foldl (fun l x => insertNat x l) g.retrainNow }))

/-- A Turn commits on the package: steps 1–6 of R285, and the work that waits for a commit (R260, R309, R334, R455,
R289). -/
def Work.commitTurn (w : Work) (c : Nat) (a : Active) (b : Book) : Work :=
  let x := w.s.ctx c
  let t := x.turn
  let r := t.record
  let action := match r with | some r => recAction r | none => 0
  let b' := w.nextBook b r
  let w := (w.traceAttempt c 2).flipWindows c b r
  let ts := ctxTiles x
  let w := { w with
    s.lanes := w.s.lanes.overlay w.s.lanesNow 0 (c * 192) 192
    s.retierList := w.s.retierList.filter (fun k => !(decide (k.1 = c) && w.s.retierDone.contains k))
    s.retierDone := w.s.retierDone.filter (fun k => k.1 ≠ c) }
  let w := w.each ts (fun w n => w.modTile n (fun t => { t with active := false }))
  let w := w.modCtx c (fun x =>
    { x with
      st := .opened
      books := x.books.put none t.handle (some b')
      mirror := { x.mirror with todo := if x.mirror.valid then x.mirror.todo ++ [(t.num, r.getD [])] else x.mirror.todo }
      turn := { x.turn with
        num := wrapAdd 32 t.num 1, buddyEpoch := if x.turn.buddyEpoch = some (wrapAdd 32 t.num 1) then x.turn.buddyEpoch else none
        phase := 0, started := false, ran := false, next := 0, after := 0, tallied := 0, recover := false, left := []
        lastAction := action, noClose := r.isNone
        keepForce := x.keepAll, sinceSwitch := t.sinceSwitch + 1 } })
  let (st, reason) := commitStatus action
  let w := w.reply a st reason t.num (turnParam t.attempt action r.isNone)
  let w := (((w.signal 0x050).retierPasses c t.num).retireFor c).retirePages c true
  (w.startRetrain c).applyAllDeferred c

/-- COMMIT (R283, R285); for a Turn already committed it is ignored. -/
def execCommit (c turn attempt : Nat) (s : State) : Host.Outcome State Fault Refusal :=
  run s (fun w =>
    let x := s.ctx c
    let t := x.turn
    match headRun s c, x.running with
    | some a, some b =>
      if ¬ t.started ∨ t.phase ≠ 4 ∨ t.num ≠ turn ∨ t.attempt ≠ attempt then w else w.commitTurn c a b
    | _, _ => w)

/-! ### The mirror of the predecessor (R287–R290, R308, R482) -/

/-- The fields of a section held as bytes. -/
def bytesReader (ss : List (Nat × List Byte)) (type : Nat) : Reader :=
  match ss.find? (fun s => s.1 = type) with
  | none => fun _ _ => 0
  | some s => fun o n => ofLe (slice s.2 o n)

/-- A table of the predecessor as it stands in the mirror: the arrays of R308, and the gradient list's copy. -/
def TableRec.mirrored (t : TableRec) (base stage : Nat) : TableRec :=
  let at_ := fun k => base + t.mirrorOff + ((t.arrays.getD k (0, 0, 0)).2.2)
  { t with dir := at_ 0, pools := [at_ 1, at_ 2, at_ 3], retier := at_ 4, grad := stage + t.mstageOff }

/-- The mirror is invalid, and the predecessor copies its committed state whole (R482). -/
def Work.mirrorLost (w : Work) (c : Nat) : Work :=
  let x := w.s.ctx c
  (w.setCtx c { x with mirror := { x.mirror with valid := false, held := [] } }).send (.closing (.mirrorCopy (keyOf x c) (rankOf x)))

/-- A mismatch of the update unit of a region in a mirror apply (R482, R486). -/
def Work.mirrorMismatch (w : Work) (c r item : Nat) : Work :=
  let w := w.recordCtx 0x2004 4 (srcRegion r) item 1 0 (some c)
  (w.unitFailure (engineOf false ((engineHost (w.s.region r) false).getD r)) 0x2004).mirrorLost c

/-- A context range of the mirror, read; none after a walk fault, or with the mirror lost to an error. -/
def Work.mirrorRead (w : Work) (c a n : Nat) (u : List Upset) : Option (List Byte) × Work :=
  match w.ctxRead c a n u with
  | (.error e, _) => (none, w.walkStop c a (srcCtx c) e)
  | (.ok bs, w) => if w.ctxBad c a n u then (none, w.mirrorLost c) else (some bs, w)

/-- A context range of the mirror, written. -/
def Work.mirrorWrite (w : Work) (c a : Nat) (bs : List Byte) : Bool × Work :=
  match w.ctxWrite c (freeTag w.s c) a bs false (.mirror c) [] with
  | (.error e, _) => (false, w.walkStop c a (srcCtx c) e)
  | (.ok _, w) => (true, w)

/-- What one apply works from: the context with the Turn's number, the record, the predecessor's copy, the bases. -/
structure Apply where
  c : Nat
  x : Ctx
  r : List Byte
  held : MirrorCopy
  base : Nat
  stage : Nat
deriving DecidableEq, Repr

/-- The rates of a recipe of the predecessor, from its state of epoch e (R278, R289). -/
def Work.mirrorRates (w : Work) (k : Apply) (n : Nat) (u : List Upset) : Option Rates × Work :=
  let rc := Recipe.read (bytesReader k.held.sections 0x13) n
  let st := ((k.held.small.recipes.find? (fun p => p.1 = n)).map (·.2)).getD { step := 0, b1p := 0, b2p := 0 }
  match w.mirrorRead k.c (rc.lrTable + 4 * Nat.min st.step (rc.lrCount - 1)) 4 u with
  | (none, w) => (none, w)
  | (some bs, w) => (some (rc.rates st (ofLe bs)), w)

/-- One mirrored piece (R289). -/
def Work.mirrorPiece (w : Work) (k : Apply) (p : Piece) (u : List Upset) : Bool × Work :=
  let tr := TensorRec.read (bytesReader k.held.sections 0x12) p.tensor
  let kind := (Recipe.read (bytesReader k.held.sections 0x13) tr.recipe).kind
  if recAction k.r = 2 ∧ badNorm (recNorm k.r p.tensor) then (true, w)
  else
    match w.mirrorRead k.c (k.base + p.mirrorOff) (layoutBytes kind p.n) u with
    | (none, w) => (false, w)
    | (some cb, w) =>
      match w.mirrorRead k.c (k.stage + p.mstageOff) (4 * p.n) u with
      | (none, w) => (false, w)
      | (some gb, w) =>
        match w.mirrorRates k tr.recipe u with
        | (none, w) => (false, w)
        | (some rates, w) =>
          let (bs, _) := updatePiece k.x rates p tr.stream (recScale k.r p.tensor) cb gb
          if u.contains (.update p.entry) then (false, w.mirrorMismatch k.c (ctxRegion k.x p.region) p.entry)
          else
            w.mirrorWrite k.c (k.base + p.mirrorOff) bs

/-- A mirrored gradient list; none after an error. -/
def Work.mirrorGrads (w : Work) (k : Apply) (t : TableRec) (rows : Nat) (u : List Upset) : Option (List (Nat × List Byte)) × Work :=
  match w.mirrorRead k.c t.grad 16 u with
  | (none, w) => (none, w)
  | (some hb, w) =>
    let n := ofLe (hb.take 4)
    if n = 0 then (some [], w)
    else
      match w.mirrorRead k.c (t.grad + 16) (4 * n) u with
      | (none, w) => (none, w)
      | (some ib, w) =>
        match w.mirrorRead k.c (t.grad + rows) (4 * t.len * n) u with
        | (none, w) => (none, w)
        | (some gb, w) =>
          (some ((List.range n).map (fun i => (ofLe (slice ib (4 * i) 4), slice gb (4 * t.len * i) (4 * t.len)))), w)

/-- The items of a mirrored re-tier list. -/
def Work.mirrorItems (w : Work) (k : Apply) (t : TableRec) (u : List Upset) : Option (List (Nat × Nat × Nat)) × Work :=
  if ¬ k.held.retier.contains t.index then (some [], w)
  else
    match w.mirrorRead k.c t.retier (16 + 8 * t.retierCap) u with
    | (none, w) => (none, w)
    | (some bs, w) =>
      (some ((List.range (ofLe (bs.take 4))).map (fun i =>
        let d := ofLe (slice bs (16 + 8 * i + 4) 4)
        (ofLe (slice bs (16 + 8 * i) 4), bits d 29 28, bits d 27 0))), w)

/-- One row of a mirrored table (R305, R308). -/
def Work.mirrorRow (w : Work) (k : Apply) (t : TableRec) (r : Rates) (stream clip : Nat) (u : List Upset) (i : Nat)
    (g : Option (List Byte)) (item : Option (Nat × Nat)) : Bool × Work :=
  match (w.countSectors k.c (t.dir + 16 * i) 16).mirrorRead k.c (t.dir + 16 * i) 16 u with
  | (none, w) => (false, w)
  | (some eb, w) =>
    let e := (Entry.ofNat (ofLe eb)).resolve k.x.turn.num
    let from_ := t.copyAddr e.curTier e.curPair e.curCopy
    match (w.countSectors k.c from_ (t.copyBytes e.curTier)).mirrorRead k.c from_ (t.copyBytes e.curTier) u with
    | (none, w) => (false, w)
    | (some cb, w) =>
      let (tier, pair, copy) := match item with
        | some d => (d.1, d.2, 0)
        | none => (e.curTier, e.curPair, 1 - e.curCopy)
      let (bs, _) := t.newCopy k.x r stream clip tier i (t.decode e.curTier cb) (t.stateOf e.curTier cb) g
      let e' := { e with
        pendPair := pair, pendTier := tier, pendCopy := copy, pendTurn := k.x.turn.num, pendG := g.isSome }
      if u.contains (.update i) then (false, w.mirrorMismatch k.c (t.pkgRegion k.x) t.index)
      else
        let to_ := t.copyAddr tier pair copy
        let (ok, w) := (w.countSectors k.c to_ bs.length).mirrorWrite k.c to_ bs
        if ¬ ok then (false, w) else (w.countSectors k.c (t.dir + 16 * i) 16).mirrorWrite k.c (t.dir + 16 * i) (leBytes 16 e'.toNat)

/-- TBL_UPDATE on a mirrored table (R308). -/
def Work.mirrorTable (w : Work) (k : Apply) (t0 : TableRec) (u : List Upset) : Bool × Work :=
  let t := t0.mirrored k.base k.stage
  if recAction k.r = 2 ∧ badNorm (recNorm k.r t.tensor) then (true, w)
  else
    let tr := TensorRec.read (bytesReader k.held.sections 0x12) t.tensor
    match w.mirrorGrads k t t0.gradRows u with
    | (none, w) => (false, w)
    | (some gs, w) =>
      match w.mirrorItems k t u with
      | (none, w) => (false, w)
      | (some items, w) =>
        match w.mirrorRates k t.recipe u with
        | (none, w) => (false, w)
        | (some rates, w) =>
          w.steps (sortNat (gs.map (·.1) ++ items.map (·.1))) (fun w i =>
            w.mirrorRow k t rates tr.stream (recScale k.r t.tensor) u i ((gs.find? (fun g => g.1 = i)).map (·.2))
              ((items.find? (fun j => j.1 = i)).map (·.2)))

/-- The predecessor's TRAIN tables. -/
def MirrorCopy.tables (m : MirrorCopy) : List TableRec :=
  let f := bytesReader m.sections 0x16
  ((List.range (f 0 2)).map (TableRec.read f)).filter (·.train)

/-- The Turn's updates applied to the mirror in place (R289, R308): true when every item is done. -/
def Work.applyMirror (w : Work) (k : Apply) (u : List Upset) : Bool × Work :=
  if k.r = [] ∨ recAction k.r = 1 then (true, w)
  else
    let f := bytesReader k.held.sections 0x12
    let h := TensorHead.read f
    let (ok, w) := w.steps ((List.range h.pieces).map (Piece.read f)) (fun w p => w.mirrorPiece k p u)
    if ¬ ok then (false, w) else w.steps k.held.tables (fun w t => w.mirrorTable k t u)

/-- A mirrored table was updated in the Turn, so that its list is applied (R305). -/
def Apply.updated (k : Apply) (t : TableRec) : Bool :=
  !k.r.isEmpty && decide (recAction k.r ≠ 1) && !(decide (recAction k.r = 2) && badNorm (recNorm k.r t.tensor))

/-- The re-tier passes that the predecessor runs after the Turn (R308, R309): the lists in force and the passes due. -/
def Work.mirrorPasses (w : Work) (k : Apply) : MirrorCopy × Work :=
  let e := k.x.turn.num
  k.held.tables.foldl (fun (acc : MirrorCopy × Work) t =>
    let m := acc.1
    let inForce := m.retier.filter (fun i => !(i = t.index && k.updated t))
    if t.passDue e ∨ m.due.contains t.index then
      (if inForce.contains t.index then
        ({ m with retier := inForce, due := m.due.filter (fun i => i ≠ t.index) ++ [t.index] }, acc.2)
      else
        ({ m with retier := inForce ++ [t.index], due := m.due.filter (fun i => i ≠ t.index) },
          acc.2.retierPass k.c (t.mirrored k.base k.stage) (e + 1)))
    else ({ m with retier := inForce }, acc.2)) (k.held, w)

/-- The copy of the predecessor's Rulebook that ran the Turn: the one that the small state of its vote names (R289). -/
def Mirror.copyOf (m : Mirror) (small : Option Small) : Option MirrorCopy :=
  match small with
  | none => m.held.head?
  | some k => m.held.find? (fun h => h.small.handle = k.handle)

/-- A copy takes the place of the one for the same Rulebook. -/
def Mirror.keep (m : Mirror) (k : MirrorCopy) : List MirrorCopy := k :: m.held.filter (fun h => h.small.handle ≠ k.small.handle)

/-- The mirror reaches the next epoch and reports it (R289, R290). -/
def Work.mirrorStep (w : Work) (c : Nat) (small : Option Small) (u : List Upset) : Work :=
  let x := w.s.ctx c
  match x.mirror.todo, x.mirror.copyOf small, x.running with
  | (turn, r) :: rest, some held, some b =>
    let h := (w.tensorHead b).getD (TensorHead.read (fun _ _ => 0))
    let k : Apply :=
      { c := c, x := { x with turn := { x.turn with num := turn } }, r := r, held := held, base := h.mirrorBase, stage := h.mstageBase }
    let w := w.meetsHost (srcCtx c) u
    let (ok, w) := w.applyMirror k u
    let w := w.modCtx c (fun x => { x with mirror := { x.mirror with todo := rest } })
    if ¬ ok then w
    else
      let (m, w) := w.mirrorPasses k
      let m := { m with small := small.getD m.small }
      (w.modCtx c (fun x => { x with mirror := { x.mirror with epoch := wrapAdd 32 turn 1, held := x.mirror.keep m } })).send
        (.closing (.mirrorAt (keyOf x c) held.rank (wrapAdd 32 turn 1)))
  | _, _, _ => w

/-- MIRROR_APPLY_DONE (R289, R290): `here`, this package has applied a Turn to its mirror, whose predecessor's small state
came with its vote; else the buddy reports the epoch that its mirror of this role has reached. -/
def execMirrorApplyDone (c : Nat) (here : Bool) (epoch : Nat) (small : Option Small) (u : List Upset) (s : State) :
    Host.Outcome State Fault Refusal :=
  run s (fun w =>
    let x := s.ctx c
    if here then (if x.mirror.valid then w.mirrorStep c small u else w)
    else if x.st = .closed then w
    else (w.setCtx c { x with turn := { x.turn with buddyEpoch := some epoch } }).resumeUpdates c)

/-- MIRROR_COPY_DONE (R288, R337): a whole copy ends. `incoming` is the predecessor's copy into this package's mirror;
without it, the copy from this role to its buddy, or of lost pages from the buddy, is complete. -/
def execMirrorCopyDone (c : Nat) (image : List (Nat × List Byte)) (incoming : Option MirrorCopy) (s : State) :
    Host.Outcome State Fault Refusal :=
  run s (fun w =>
    let x := s.ctx c
    if x.st = .closed then w
    else
      match incoming with
      | some m =>
        (w.setCtx c
          { x with mirror :=
            { valid := true, epoch := m.small.turn, held := x.mirror.keep m, wanted := false
              todo := x.mirror.todo.filter (fun t => decide (m.small.turn ≤ t.1)) } }).send
          (.closing (.mirrorAt (keyOf x c) m.rank m.small.turn))
      | none =>
        if ¬ x.turn.awaitCopy ∨ s.requests.any (fun q => q.owner = .mirror c) then w
        else
          let w := w.each image (fun w p => if inHbm p.1 then w.storeBytes p.1 p.2 false else w)
          (w.modCtx c (fun x => { x with turn := { x.turn with awaitCopy := false, buddyEpoch := some x.turn.num } })))

/-! ### Context switches (R165, R471–R473) -/

/-- The largest footprints of a tile over the loaded Rulebooks (R147). -/
def Work.savedFoot (w : Work) (c n : Nat) : Foot :=
  let x := w.s.ctx c
  (List.range 4).foldl (fun (f : Foot) h =>
    match x.book h with
    | none => f
    | some b =>
      let g := w.foot b (ctxTile x n)
      { near := Nat.max f.near g.near, deep := Nat.max f.deep g.deep, cache := f.cache, staging := Nat.max f.staging g.staging }) {}

/-- A tile record's ranges: (tile address, offset in the record, bytes) (R147, R473). -/
def savedRanges (near staging deep : Nat) : List (Nat × Nat × Nat) :=
  let nearParts := if 0x600000 ≤ near + staging then [(0, 0x1000, 0x600000)]
    else [(0, 0x1000, near), (0x600000 - staging, 0x1000 + 0x600000 - staging, staging)]
  nearParts ++ [(deepBase, 0x601000, deep)]

/-- The outgoing context's tile goes to its record (R165, R472). -/
def Work.saveTile (w : Work) (c n : Nat) : Work :=
  let x := w.s.ctx c
  let a := saveRecord x (ctxTile x n)
  let f := w.savedFoot c n
  let t := w.s.tile n
  let once := if t.onceNext = 1 then 0 else t.once
  let w := w.each t.bad (fun w r => w.zero (tileAddr n r.1) r.2)
  let w := w.each (savedRanges f.near f.staging f.deep) (fun w r =>
    ((w.copy (tileAddr n r.1) (a + r.2.1) r.2.2).count (a + r.2.1) r.2.2 true).countTile n r.1 r.2.2)
  w.wrBytes a (padTo 4096 (leBytes 4 f.near ++ leBytes 4 f.staging ++ leBytes 4 f.deep ++ leBytes 4 0 ++ leBytes 8 once))

/-- Both stores of a tile are zero, and nothing of a context is left on it but trace entries on their way (R165, R172). -/
def Work.emptyTile (w : Work) (n once : Nat) : Work :=
  let t := w.s.tile n
  ((w.zero (tileAddr n 0) 0x600000).zero (tileAddr n deepBase) 0x8000000).setTile n
    { once := once, traceq := t.traceq, traceEntries := t.traceEntries, traceDropped := t.traceDropped }

/-- The incoming context's tile comes from its record (R165). -/
def Work.restoreTile (w : Work) (d n : Nat) : Work :=
  let y := w.s.ctx d
  let a := saveRecord y (ctxTile y n)
  let near := w.rdLe a 4
  let staging := w.rdLe (a + 4) 4
  let deep := w.rdLe (a + 8) 4
  let w := w.emptyTile n (w.rdLe (a + 16) 8)
  w.each (savedRanges near staging deep) (fun w r =>
    ((w.copy (a + r.2.1) (tileAddr n r.1) r.2.2).count (a + r.2.1) r.2.2 false).countTile n r.1 r.2.2)

/-- The header of a context's save area (R473). -/
def Work.saveHeader (w : Work) (c : Nat) : Work :=
  let x := w.s.ctx c
  let a := ((saveRuns x).map (·.addr)).getD 0 0
  w.wrBytes a (leBytes 4 x.turn.num ++ leBytes 2 x.mask ++ leBytes 10 0 ++
    (List.range 192).flatMap (fun k => leBytes 16 (w.s.lanes.get 0 (c * 192 + k))))

/-- A region passes to a context, from the one that held it (R472). -/
def Work.switchRegion (w : Work) (d r : Nat) : Work :=
  let w := match (w.s.region r).holder with
    | none => w
    | some c => w.each (List.range 11) (fun w k => w.saveTile c (11 * r + k))
  let w := w.each (List.range 11) (fun w k => w.restoreTile d (11 * r + k))
  let w := w.rcLost r
  w.modRegion r (fun g => { g with holder := some d })

/-- A context waits for regions: it has a TURN_RUN pending and does not hold its whole mask (R471). -/
def waitsForRegions (s : State) (d : Nat) : Bool :=
  decide ((s.ctx d).st = .opened) && !(turnRuns s d).isEmpty && !holdsRegions s d

/-- Regions of a context that it holds and another context's mask needs. -/
def contested (s : State) (c d : Nat) : List Nat :=
  (setBits 12 (s.ctx c).mask).filter (fun r => bit (s.ctx d).mask r && decide ((s.region r).holder = some c))

/-- The waiting context that gets the outgoing context's regions: the lowest number above it, wrapping (R471). -/
def nextWaiting (s : State) (c : Nat) : Option Nat :=
  ((List.range 15).map (fun i => (c + 1 + i) % 16)).find? (fun d => waitsForRegions s d && !(contested s c d).isEmpty)

/-- The context is at a Turn boundary at which it gives regions up (R471). -/
def mayYield (s : State) (c : Nat) : Bool :=
  let x := s.ctx c
  decide (x.st ≠ .closed) && decide (x.st ≠ .running) && !x.turn.started &&
  (decide (x.slice ≤ x.turn.sinceSwitch) || (turnRuns s c).isEmpty || decide (x.st = .stopped))

/-- CONTEXT_SWITCH (R471, R472): context `c` takes regions of its mask that no context holds, or gives regions up to the
next waiting context. `u`: errors that its reads of the stores and the save area meet (R166, R331, R332). -/
def execContextSwitch (c : Nat) (u : List Upset) (s : State) : Host.Outcome State Fault Refusal :=
  run s (fun w =>
    let free := (setBits 12 (s.ctx c).mask).filter (fun r => (s.region r).holder.isNone)
    if waitsForRegions s c ∧ ¬ free.isEmpty then
      ((w.meetsHost srcPackage u).each free (fun w r => w.switchRegion c r)).modCtx c (fun x => { x with turn := { x.turn with sinceSwitch := 0 } })
    else if ¬ mayYield s c then w
    else
      match nextWaiting s c with
      | none => w
      | some d =>
        let w := (w.meetsHost srcPackage u).saveHeader c
        let w := w.each (contested s c d) (fun w r => w.switchRegion d r)
        (w.modCtx c (fun x => { x with turn := { x.turn with sinceSwitch := 0 } })).modCtx d
          (fun x => { x with turn := { x.turn with sinceSwitch := 0 } }))

end Sys2Proof.Machine
end

