-- ==== Sys2Proof/Machine/Tables.lean ====
section
/-! DEFINITION. The host's table commands and the publish fence (R312–R316), host data that arrive, and the
function-level reset (R469, R477). -/

namespace Sys2Proof.Machine

/-! ### Rows of a table, as a host command's update unit handles them (R313, R314) -/

/-- The table of a handle of a context. -/
def Work.tableOf (w : Work) (c h n : Nat) : Option TableRec :=
  match (w.s.ctx c).book h with
  | none => none
  | some b => w.table b n

/-- A TRAIN table that a TURN_RUN has begun to train: the host may no longer write it (R312). -/
def trained (s : State) (c h : Nat) (t : TableRec) : Bool :=
  t.train && (match (s.ctx c).book h with | some b => b.named | none => false)

/-- A host command stands for a table: NOT_FOUND without an entry, STATE for a TRAIN table under training (R312). -/
def Work.withTable (w : Work) (a : Active) (h n : Nat) (f : TableRec → Work → Work) : Work :=
  match w.tableOf a.ctx h n with
  | none => w.reply a stNotFound 0 0 0
  | some t => if trained w.s a.ctx h t then w.refuse a rsState else f t w

/-- Where the descriptor of a class has its SOURCE field, for the classes that read rows (R183, R227). -/
def sourceField (cls : Nat) : Option Nat :=
  if unitOf cls = .gather then some 0xD else if cls = 0x2E then some 0xC else none

/-- A move in flight on a logical tile reads rows of a table of the running book through SOURCE 3 (R227, R299). -/
def Work.readsTable (w : Work) (c n table : Nat) : Bool :=
  match (w.s.ctx c).running with
  | none => false
  | some b =>
    (w.s.tile n).flights.any (fun f =>
      match sourceField f.cls, w.stream b (ctxTile (w.s.ctx c) n) with
      | some o, some e =>
        let d := mvDesc (w.bookLe b (e.off + 16 * f.index) 16)
        w.field n d o 1 = 3 && w.field n d 0x10 8 = table
      | _, _ => false)

/-- Row reads of a table of a handle that have begun and not delivered (R315). -/
def Work.readers (w : Work) (c h table : Nat) : Bool :=
  decide ((w.s.ctx c).turn.handle = h) && (ctxTiles (w.s.ctx c)).any (fun n => w.readsTable c n table)

/-- Every row cache of a context is ghosted (R172). -/
def Work.ghostAll (w : Work) (c : Nat) : Work :=
  w.each (ctxTiles (w.s.ctx c)) (fun w n => w.modPh (hostMesh w.s n) (·.ghost))

/-- A publish of a table completes (R315). -/
def Work.published (w : Work) (c h table : Nat) : Work :=
  { w with s.flips := w.s.flips.filter (fun f => !(f.ctx = c && f.handle = h && f.table = table)) }.ghostAll c

/-- A publish that finds reads in flight waits for them (R317). -/
def Work.countFence (w : Work) (c h : Nat) (t : TableRec) : Work :=
  w.when (w.readers c h t.index) (fun w =>
    w.modRegion (t.pkgRegion (w.s.ctx c)) (fun g => { g with tblFence := satAdd 32 g.tblFence 1 }))

/-- A table command that has come before a command still has flips of the table to write (R315). -/
def owesFlips (s : State) (a : Active) (h table : Nat) : Bool :=
  (s.actives.takeWhile (fun b => !a.same b)).any (fun b =>
    decide (b.ctx = a.ctx) &&
    (match b.wait with
      | .hostData _ _ (.tableRows k n _) => decide (k = h) && decide (n = table)
      | .rows k n _ _ _ => decide (k = h) && decide (n = table)
      | _ => false))

/-- A row that has been flipped since its table's last publish waits for one, which completes at once where nothing is in
flight (R313, R315): whether the row may be handled. -/
def Work.publishFor (w : Work) (a : Active) (h : Nat) (t : TableRec) (i : Nat) : Bool × Work :=
  let c := a.ctx
  if ¬ w.s.flips.any (fun f => f.ctx = c && f.handle = h && f.table = t.index && f.row = i) then (true, w)
  else if w.readers c h t.index ∨ owesFlips w.s a h t.index then (false, w.countFence c h t)
  else (true, w.published c h t.index)

/-- How one row of a table command ends: handled; held back by a mismatch of the update unit (R482); waiting for an implicit
publish (R313); or the command ends at it, on a translation or walk fault, an uncorrectable error, or for want of a free
pair. -/
inductive RowEnd where
  | handled
  | mismatch
  | wait
  | walk (addr : Nat) (e : WalkErr)
  | memory
  | noPair
deriving DecidableEq, Repr

/-- A mismatch of the update unit on a row of a host command: nothing is written for the row (R482). -/
def Work.rowMismatch (w : Work) (c : Nat) (t : TableRec) : Work :=
  let r := t.pkgRegion (w.s.ctx c)
  let w := w.recordCtx 0x2004 4 (srcRegion r) t.index 0 0 (some c)
  w.unitFailure (engineOf false ((engineHost (w.s.region r) false).getD r)) 0x2004

/-- A context range that a table command reads through the sector path (R327, R332, R351). -/
def Work.rowBytes (w : Work) (c a n : Nat) (u : List Upset) : Except RowEnd (List Byte) × Work :=
  match (w.access c a n false (walkError u)).2 with
  | some e => (.error (.walk a e), w)
  | none =>
  match (w.countSectors c a n).ctxRead c a n u with
  | (.error e, w) => (.error (.walk a e), w)
  | (.ok bs, w) => if w.ctxBad c a n u then (.error .memory, w) else (.ok bs, w)

/-- A row's new copy and its entry are written through the sector path, in that order; they are the host's writes, and pay what
a lost page owes (R313, R314, R327, R337). -/
def Work.putRow (w : Work) (a : Active) (t : TableRec) (i at_ : Nat) (bs : List Byte) (e : Entry) (moved : Bool) : RowEnd × Work :=
  let c := a.ctx
  let own : Owner := .command a.ring a.index
  match (w.access c at_ bs.length true none).2 with
  | some x => (.walk at_ x, w)
  | none =>
  match (w.countSectors c at_ bs.length).ctxWrite c (freeTag w.s c) at_ bs false own [] with
  | (.error x, w) => (.walk at_ x, w)
  | (.ok _, w) =>
    let w := w.paid c at_ bs.length
    match (w.countSectors c (t.dir + 16 * i) 16).ctxWrite c (freeTag w.s c) (t.dir + 16 * i) (leBytes 16 e.toNat) false own [] with
    | (.error x, w) => (.walk (t.dir + 16 * i) x, w)
    | (.ok _, w) => (.handled, (w.paid c (t.dir + 16 * i) 16).countCopy (t.pkgRegion (w.s.ctx c)) moved)

/-- A flip is noted until its table's next publish, with the tier and pair it left. -/
def Work.noteFlip (w : Work) (c h : Nat) (t : TableRec) (i : Nat) (e : Entry) : Work :=
  { w with
    s.flips := w.s.flips ++ [{ ctx := c, handle := h, table := t.index, row := i, old := e.curTier * 2 ^ 28 + e.curPair }] }

/-- A host row in its tier's layout: BF16 unchanged, else quantized to nearest even; STATE encodes q = 0 (R313). -/
def TableRec.hostCopy (t : TableRec) (tw1 : Bool) (tier : Nat) (row : List Byte) : List Byte :=
  let body :=
    if tier = 0 then padTo (2 * t.len) row
    else
      let vs := (List.range t.len).map (fun k => decodeElem 0 (ofLe (slice row (2 * k) 2)))
      (t.encode tw1 tier vs (decodeElem 0 0) none 0).1.take (t.stateOff tier)
  padTo (t.copyBytes tier) (body ++ (if t.train then [0x7F#8, 0#8] else []))

/-- One row of TBL_ROWS_WRITE (R313). -/
def Work.flipRow (w : Work) (a : Active) (h : Nat) (t : TableRec) (i : Nat) (row : List Byte) (u : List Upset) : RowEnd × Work :=
  let c := a.ctx
  match w.publishFor a h t i with
  | (false, w) => (.wait, w)
  | (true, w) =>
  match w.rowBytes c (t.dir + 16 * i) 16 u with
  | (.error e, w) => (e, w)
  | (.ok eb, w) =>
    let e := (Entry.ofNat (ofLe eb)).resolve (w.s.ctx c).turn.num
    if u.contains (.update i) then (.mismatch, w.rowMismatch c t)
    else
      let copy := 1 - e.curCopy
      let bs := t.hostCopy (w.s.ctx c).compat e.curTier row
      let (r, w) := w.putRow a t i (t.copyAddr e.curTier e.curPair copy) bs { e with curCopy := copy } false
      (r, if r = .handled then w.noteFlip c h t i e else w)

/-- Every directory entry of a table, as it stands. -/
def Work.entries (w : Work) (c : Nat) (t : TableRec) : List Entry :=
  (List.range t.rows).map (fun j =>
    match w.ctxLe c (t.dir + 16 * j) 16 [] with
    | .ok x => (Entry.ofNat x).resolve (w.s.ctx c).turn.num
    | .error _ => Entry.ofNat 0)

/-- One item of TBL_RETIER (R314). -/
def Work.retierRow (w : Work) (a : Active) (h : Nat) (t : TableRec) (i tier : Nat) (u : List Upset) : RowEnd × Work :=
  let c := a.ctx
  match w.publishFor a h t i with
  | (false, w) => (.wait, w)
  | (true, w) =>
  match w.rowBytes c (t.dir + 16 * i) 16 u with
  | (.error e, w) => (e, w)
  | (.ok eb, w) =>
    let e := (Entry.ofNat (ofLe eb)).resolve (w.s.ctx c).turn.num
    if e.curTier = tier then (.handled, w)
    else
      let taken := (w.s.flips.filter (fun f => f.ctx = c && f.handle = h && f.table = t.index)).map
        (fun f => (f.old / 2 ^ 28, f.old % 2 ^ 28))
      match freePair t (w.entries c t) taken tier with
      | none => (.noPair, w)
      | some p =>
        match w.rowBytes c (t.copyAddr e.curTier e.curPair e.curCopy) (t.copyBytes e.curTier) u with
        | (.error x, w) => (x, w)
        | (.ok cb, w) =>
          if u.contains (.update i) then (.mismatch, w.rowMismatch c t)
          else
            let (bs, _) := t.encode (w.s.ctx c).compat tier (t.decode e.curTier cb) (t.stateOf e.curTier cb) none 0
            let (r, w) := w.putRow a t i (t.copyAddr tier p 0) bs { e with curPair := p, curTier := tier, curCopy := 0 } true
            (r, if r = .handled then w.noteFlip c h t i e else w)

/-- The rows of a table command so far: how many were handled, how many of this run's rows are done with, whether a row was held
back, and what ended it. -/
structure RowRun where
  count : Nat := 0
  seen : Nat := 0
  missed : Bool := false
  stop : Option RowEnd := none
deriving DecidableEq, Repr

/-- Rows handled one after another, up to the first that ends the command. -/
def Work.rows {α : Type} (w : Work) (r : RowRun) (xs : List α) (f : Work → α → RowEnd × Work) : RowRun × Work :=
  xs.foldl (fun (acc : RowRun × Work) x =>
    match acc.1.stop with
    | some _ => acc
    | none =>
      match f acc.2 x with
      | (.handled, w) => ({ acc.1 with count := acc.1.count + 1, seen := acc.1.seen + 1 }, w)
      | (.mismatch, w) => ({ acc.1 with missed := true, seen := acc.1.seen + 1 }, w)
      | (r, w) => ({ acc.1 with stop := some r }, w)) (r, w)

/-- The reply of a table command (R313, R314, R332, R351). Where the update unit held a row back, the spec states no
status: it is a free value (log entry 25). -/
def Work.rowsReply (w : Work) (a : Active) (r : RowRun) : Work :=
  match r.stop with
  | some (.walk addr e) => (w.walkStop a.ctx addr (srcFn (a.ring / 4)) e).reply a e.status 0 r.count 0
  | some .memory => w.reply a stMemory 1 r.count 0
  | some .noPair => w.reply a stFlagged 0x10 r.count 0
  | _ =>
    if r.missed then
      let (v, w) := w.draw
      w.reply a (lowBits 8 v) 0 r.count 0
    else w.reply a stDone 0 r.count 0

/-- Rows of TBL_ROWS_WRITE or TBL_RETIER, from the first or from where an implicit publish held them (R313, R314). -/
def Work.runRows (w : Work) (a : Active) (h : Nat) (t : TableRec) (r : RowRun) (todo : List (Nat × RowJob)) (u : List Upset) : Work :=
  let (r, w) := w.rows r todo (fun w p =>
    match p.2 with
    | .flip row => w.flipRow a h t p.1 row u
    | .move tier => w.retierRow a h t p.1 tier u)
  let w := w.meetsHost (srcFn (a.ring / 4)) u
  if r.stop = some .wait then w.await a (.rows h t.index r.count r.missed (todo.drop r.seen)) true else w.rowsReply a r

/-- TBL_CREATE (R312). -/
def execTblCreate (h : Hdr) (handle table tier : Nat) (u : List Upset) (s : State) : Host.Outcome State Fault Refusal :=
  run s (fun w => w.command h 0x32 3 false (.ctx h.fn) (fun a w =>
    w.withTable a handle table (fun t w =>
      if 2 < tier then w.fail 466
      else if t.pairs.getD tier 0 < t.rows then w.fail 312
      else
        let bytes := fun i =>
          Entry.toNat
            { curPair := i, curTier := tier, curCopy := 0, pendPair := 0, pendTier := 3, pendCopy := 0, pendTurn := 0, heat := 0
              pendG := false }
        let own : Owner := .command a.ring a.index
        let (r, w) := w.rows {} (List.range t.rows) (fun w i =>
          let put := fun (w : Work) at_ (bs : List Byte) =>
            (w.paid a.ctx at_ bs.length).ctxWrite a.ctx (freeTag w.s a.ctx) at_ bs false own u
          match put w (t.dir + 16 * i) (leBytes 16 (bytes i)) with
          | (.error e, w) => (.walk (t.dir + 16 * i) e, w)
          | (.ok _, w) =>
            match put w (t.copyAddr tier i 0) (List.replicate (t.copyBytes tier) 0) with
            | (.error e, w) => (.walk (t.copyAddr tier i 0) e, w)
            | (.ok _, w) => (.handled, w))
        w.rowsReply a { r with count := 0 })))

/-- TBL_ROWS_WRITE (R313): the rows come from host memory with HOST_READ_DATA. -/
def execTblRowsWrite (h : Hdr) (handle table rowsHost : Nat) (ids : List Nat) (s : State) : Host.Outcome State Fault Refusal :=
  run s (fun w => w.command h 0x33 (16 + 4 * ids.length) false (.ctx h.fn) (fun a w =>
    if ids = [] ∨ 1012 < ids.length then w.fail 466
    else
      w.withTable a handle table (fun t w =>
        if ids.any (fun i => decide (t.rows ≤ i)) then w.fail 466
        else w.fetchHost a rowsHost (ids.length * 2 * t.len) (.tableRows handle table ids))))

/-- TBL_PUBLISH (R315): the publish begins; PUBLISH_COMPLETE ends it. -/
def execTblPublish (h : Hdr) (handle table : Nat) (s : State) : Host.Outcome State Fault Refusal :=
  run s (fun w => w.command h 0x34 2 false (.ctx h.fn) (fun a w =>
    match w.tableOf a.ctx handle table with
    | none => w.reply a stNotFound 0 0 0
    | some t => (w.countFence a.ctx handle t).await a (.publish handle table) false))

/-- TBL_RETIER (R314). -/
def execTblRetier (h : Hdr) (handle table : Nat) (items : List (Nat × Nat)) (u : List Upset) (s : State) :
    Host.Outcome State Fault Refusal :=
  run s (fun w => w.command h 0x35 (8 + 8 * items.length) false (.ctx h.fn) (fun a w =>
    if items = [] ∨ 509 < items.length ∨ items.any (fun p => decide (2 < p.2)) then w.fail 466
    else
      w.withTable a handle table (fun t w =>
        if items.any (fun p => decide (t.rows ≤ p.1)) then w.fail 466
        else
          w.runRows a handle t {} (items.map (fun p => (p.1, .move p.2))) u)))

/-- A command that a publish of a table has held up goes on: TBL_PUBLISH completes, and a table command handles the rows it has
left (R313, R315). -/
def Work.afterPublish (w : Work) (handle table : Nat) (u : List Upset) (a : Active) : Work :=
  match a.wait with
  | .rows _ _ count missed todo =>
    match w.tableOf a.ctx handle table with
    | none => w.reply a stNotFound 0 0 0
    | some t => w.runRows a handle t { count := count, missed := missed } todo u
  | _ => w.replyDone a

/-- A command waits for a publish of a table, explicit or implicit. -/
def Await.publishes (handle table : Nat) : Await → Bool
  | .publish h n => decide (h = handle) && decide (n = table)
  | .rows h n _ _ _ => decide (h = handle) && decide (n = table)
  | _ => false

/-- PUBLISH_COMPLETE (R313, R315): no row read that began before the last flip is in flight, and every flip that was posted before
has been written. -/
def execPublishComplete (c handle table : Nat) (u : List Upset) (s : State) : Host.Outcome State Fault Refusal :=
  run s (fun w =>
    let waiting := s.actives.filter (fun a => a.ctx = c && a.wait.publishes handle table && !owesFlips s a handle table)
    if waiting = [] ∨ w.readers c handle table then w
    else (w.published c handle table).each waiting (fun w a => w.afterPublish handle table u a))

/-! ### Host data (R454, R477) -/

/-- Host bytes go to a context range, as far as its addresses translate (R351, R454). -/
def Work.hostWrite (w : Work) (a : Active) (addr : Nat) (bs : List Byte) (u : List Upset) : Work :=
  let c := a.ctx
  let (ss, err) := w.spans c addr addr bs.length true (walkError u)
  let done := (ss.map (fun p => p.2.1)).sum
  let w := w.each ss (fun w p =>
    w.putBoard c (freeTag w.s c) p.2.2 (slice bs p.1 p.2.1) false (.command a.ring a.index))
  let w := w.paid c addr done
  match err with
  | some e => w.walkReply a c (addr + done) done e
  | none => w.replyOrWait a bs.length

/-- The data of a started command's host reads are all here (R454, R455, R313). -/
def Work.hostArrived (w : Work) (a : Active) (use : HostUse) (bs : List Byte) (u : List Upset) : Work :=
  match use with
  | .memWrite addr => w.hostWrite a addr bs u
  | .graphLoad addr => w.defer a (.write addr bs u)
  | .tableRows handle table ids =>
    match w.tableOf a.ctx handle table with
    | none => w.reply a stNotFound 0 0 0
    | some t =>
      w.runRows a handle t {} (((List.range ids.length).zip ids).map (fun p => (p.2, .flip (slice bs (p.1 * 2 * t.len) (2 * t.len))))) u

/-- HOST_READ_DATA (R465, R477): the answer to a command's host reads, or the host's refusal. Data for a command that has
ended are dropped. -/
def execHostReadData (ring index : Nat) (data : Option (List Byte)) (u : List Upset) (s : State) :
    Host.Outcome State Fault Refusal :=
  run s (fun w =>
    match s.actives.find? (fun a => a.ring = ring && a.index = index) with
    | none => w
    | some a =>
      match a.wait, data with
      | .hostData _ _ _, none => w.reply a stMemory 2 0 0
      | .hostData _ len use, some bs =>
        if bs.length ≠ len then w
        else { w with s.pcieRx := wrapAdd 64 w.s.pcieRx len }.hostArrived a use bs u
      | _, _ => w)

/-! ### Function-level reset (R469, R477) -/

/-- A function's rings, context and BAR0 return to reset, and nothing is replied (R477). -/
def Work.resetFunction (w : Work) (f : Nat) : Work :=
  let w := w.closeCtx f true none
  let w := w.each (List.range 4) (fun w k => w.setRing (4 * f + k) {})
  let w := { w with s.latch := w.s.latch.put 0 f 0 }
  w.setFn f { compat := w.s.pins.legacy }

/-- FLR (R477). A reset of the PF clears VF Enable, which resets every VF. -/
def execFlr (fn : Nat) (s : State) : Host.Outcome State Fault Refusal :=
  run s (fun w =>
    if 16 ≤ fn ∨ ¬ s.boot.host then w
    else
      let w := w.resetFunction fn
      let w := if fn = 0 then { w.each ((List.range 15).map (· + 1)) (·.resetFunction) with s.vfEnable := false } else w
      w.record 0x7005 3 (srcFn fn) fn 0 0)

end Sys2Proof.Machine
end

