-- ==== Sys2Proof/Machine/Hbm.lean ====
section
/-! DEFINITION. The HBM stacks (chapter 11): requests on the sector path and the block queue, refresh, calibration, patrol
scrub, self refresh and channel retraining; the tile scrubber (R169); and the self-test runs of suspect units (R483,
R484). -/

namespace Sys2Proof.Machine

/-! ### Windows (R63, R340) -/

/-- A maintenance window of a kind is open for a region (R63). -/
def windowOpen (s : State) (r kind : Nat) : Bool :=
  s.windows.any (fun v =>
    (v.region.isNone || v.region = some r) && bit v.kinds kind && decide (v.start ≤ s.now) && decide (s.now < v.stop))

/-! ### Requests (R325–R332) -/

/-- Where a byte stands in its stack (R325). -/
structure Location where
  pseudo : Nat
  bank : Nat
  row : Nat
  block : Nat
  sector : Nat
  byte : Nat
deriving DecidableEq, Repr

/-- The location of a stack offset that has passed the remap table (R325). -/
def locationOf (o : Nat) : Location :=
  { pseudo := bits o 12 7 ^^^ bits o 27 22, bank := bits o 21 16 ^^^ bits o 33 28, row := bits o 35 22, block := bits o 15 13
    sector := bits o 6 5, byte := bits o 4 0 }

/-- A stack offset behind the remap table: an access to a retired page goes to its spare page (R335). -/
def remapped (s : State) (k off : Nat) : Nat :=
  match (s.stack k).remap.find? (fun e => e.1 = off / 4096) with
  | none => off
  | some e => (spareFirst + e.2) * 4096 + off % 4096

/-- The channel that serves a stack offset: two pseudo-channels make one (R318, R325). -/
def channelAt (s : State) (k off : Nat) : Nat := (locationOf (remapped s k off)).pseudo / 2

/-- A channel retrains, and its requests are held (R321). -/
def retraining (s : State) (k ch : Nat) : Bool := (s.stack k).retrainNow.any (fun lane => lane / 64 = ch)

/-- The request names bytes of its stack that its path serves: one sector or half of one on the sector path, any range on
the block queue; a write carries its bytes (R328, R329). -/
def HbmReq.ok (q : HbmReq) (sector : Bool) : Bool :=
  decide (q.stack < 12) && decide (0 < q.len) && decide (q.off + q.len ≤ 2 ^ 36) && (!q.write || decide (q.data.length = q.len)) &&
  (!sector || decide (q.off / 32 = (q.off + q.len - 1) / 32)) &&
  (!sector || q.write || (q.len = 32 && decide (q.off % 32 = 0)) || (q.len = 16 && decide (q.off % 16 = 0)))

/-- A request takes part in a read: a read, or a write that covers only part of a sector (R329). -/
def HbmReq.reads (q : HbmReq) : Bool := !q.write || decide (q.off % 32 ≠ 0) || decide (q.len % 32 ≠ 0)

/-- An error that a request's read meets (R331, R332). -/
def Work.hbmFound (w : Work) (k off lane src : Nat) (e : ErrKind) : Work :=
  match e with
  | .none => w
  | .corrected => w.hbmCe k off lane src
  | .uncorrectable => w.hbmUe k off src

/-- A request is served: its bytes count and are written or delivered, with the mark of an uncorrectable error
(R327–R332, R343). -/
def Work.serveHbm (w : Work) (q : HbmReq) (sector : Bool) : Work :=
  let a := stackBase q.stack + q.off
  let data := w.rdBytes a q.len
  let bad := w.rdPoison a q.len || decide (q.err = .uncorrectable)
  let w := if sector then w.modStack q.stack (fun k => { k with sectors := wrapAdd 64 k.sectors 1 }) else w
  let w := if q.reads then w.hbmFound q.stack q.off q.lane q.src q.err else w
  if q.write then w.storeBytes a q.data false
  else
    let w := if sector then w.count a q.len false else w.each (alignedPieces a q.len 128) (fun w x => w.count x 128 false)
    w.send (.hbmData q.src q.stack q.off bad data)

/-- A request is held: a channel of its bytes retrains (R321). -/
def HbmReq.held (s : State) (q : HbmReq) : Bool :=
  (alignedPieces q.off q.len 128).any (fun o => retraining s q.stack (channelAt s q.stack o))

/-- A request of the same requester to the same sector has come before it and waits (R328). -/
def HbmReq.follows (k : Stack) (q : HbmReq) : Bool :=
  k.waiting.any (fun p => decide (p.1.src = q.src) && !apart (p.1.off / 32) ((p.1.off + p.1.len + 31) / 32 - p.1.off / 32)
    (q.off / 32) ((q.off + q.len + 31) / 32 - q.off / 32))

/-- A request waits while its stack is in self refresh or its channel retrains, and behind an older one of its requester for the
same sector; a stack that is untrained or lost serves none (R318, R321, R328, R343). -/
def Work.hbmRequest (w : Work) (q : HbmReq) (sector : Bool) : Work :=
  let k := w.s.stack q.stack
  if ¬ q.ok sector then w
  else if k.st = 2 ∨ (k.st = 1 ∧ (q.held w.s || q.follows k)) then
    w.setStack q.stack { k with waiting := k.waiting ++ [(q, sector)] }
  else if k.st = 1 then w.serveHbm q sector
  else w

/-- SECTOR_REQUEST (R327–R332). -/
def execSectorRequest (q : HbmReq) (s : State) : Host.Outcome State Fault Refusal := run s (·.hbmRequest q true)

/-- HBM_BLOCK_REQUEST (R327, R329–R332). -/
def execHbmBlockRequest (q : HbmReq) (s : State) : Host.Outcome State Fault Refusal := run s (·.hbmRequest q false)

/-- Requests that waited and now need not are served, in arrival order (R318, R321, R328). -/
def Work.serveWaiting (w : Work) (stack : Nat) : Work :=
  let k := w.s.stack stack
  if k.st ≠ 1 then w
  else
    let go := k.waiting.filter (fun p => !p.1.held w.s)
    let w := w.setStack stack { k with waiting := k.waiting.filter (fun p => p.1.held w.s) }
    w.each go (fun w p => w.serveHbm p.1 p.2)

/-! ### Background work (R318, R321, R340, R342) -/

/-- Background work outside a window takes `ns` of the stack, in which it delays moves (R64, R340). -/
def Work.holdStack (w : Work) (k ns : Nat) : Work :=
  w.modStack k (fun g => { g with heldUntil := Nat.max g.heldUntil (w.s.now + ns) })

/-- HBM_REFRESH (R64, R340): a bank's interval falls due. In a window that admits refresh everything owed is paid; outside one a
bank that owes 8 intervals is refreshed, which counts as late and delays moves for a time that the spec does not give. Self
refresh goes on by itself. -/
def execHbmRefresh (stack bank : Nat) (s : State) : Host.Outcome State Fault Refusal :=
  run s (fun w =>
    let k := s.stack stack
    let n := k.owed.get 0 bank + 1
    if 12 ≤ stack ∨ k.st ≠ 1 then w
    else if windowOpen s stack 0 then w.setStack stack { k with owed := k.owed.put 0 bank 0 }
    else if n < 8 then w.setStack stack { k with owed := k.owed.put 0 bank n }
    else
      let (v, w) := w.draw
      (w.setStack stack { k with owed := k.owed.put 0 bank 7, late := satAdd 32 k.late 1 }).holdStack stack v)

/-- HBM_CALIBRATION (R64, R340): a channel's 1 ms are over. Outside a window it waits for the next; after 2 ms it runs, for 150 ns. -/
def execHbmCalibration (stack channel : Nat) (s : State) : Host.Outcome State Fault Refusal :=
  run s (fun w =>
    let k := s.stack stack
    if 12 ≤ stack ∨ k.st ≠ 1 then w
    else if windowOpen s stack 0 then w.setStack stack { k with calDue := k.calDue.filter (fun x => x ≠ channel) }
    else if k.calDue.contains channel then
      (w.setStack stack { k with calDue := k.calDue.filter (fun x => x ≠ channel) }).holdStack stack 150
    else w.setStack stack { k with calDue := insertNat channel k.calDue })

/-- The patrol scrub of a stack is more than an hour behind its pace of every sector once per 24 hours of running time (R340). -/
def Stack.behind (g : Stack) (now : Nat) : Bool :=
  decide (g.patrolled * dayNs + 3600 * secondNs * 2 ^ 31 < (g.ran + (now - g.since)) * 2 ^ 31)

/-- HBM_PATROL_SCRUB (R64, R331, R332, R340, R342): in a window that admits scrub, or more than an hour behind, the scrub reads one
sector of a running stack that no waiting request claims; the region in off keeps it waiting. -/
def execHbmPatrolScrub (stack sector : Nat) (err : ErrKind) (lane : Nat) (s : State) : Host.Outcome State Fault Refusal :=
  run s (fun w =>
    let off := sector * 32
    let k := s.stack stack
    let in_ := windowOpen s stack 1
    if 12 ≤ stack ∨ k.st ≠ 1 ∨ (s.region stack).pwr = .off ∨ 2 ^ 36 ≤ off ∨ ¬ (in_ || k.behind s.now) ∨
      k.waiting.any (fun p => !apart p.1.off p.1.len off 32) then w
    else
      let w := { w with s.pkgBytes := wrapAdd 64 w.s.pkgBytes 32 }
      let w := w.modStack stack (fun k => { k with rd := wrapAdd 64 k.rd 32, patrolled := k.patrolled + 1 })
      let (v, w) := if in_ then (0, w) else w.draw
      let w := if in_ then w else w.holdStack stack v
      w.hbmFound stack off lane (srcStack stack) err)

/-- SELF_REFRESH_ENTRY (R318): the region is in off and 10 µs have passed since the last request. -/
def execSelfRefreshEntry (stack : Nat) (s : State) : Host.Outcome State Fault Refusal :=
  run s (fun w =>
    let k := s.stack stack
    if 12 ≤ stack ∨ k.st ≠ 1 ∨ (s.region stack).pwr ≠ .off ∨ s.now < k.lastReq + 10000 ∨ ¬ k.waiting.isEmpty then w
    else w.setStack stack (k.rest s.now))

/-- SELF_REFRESH_EXIT (R318): the stack runs again and the requests that waited are served. -/
def execSelfRefreshExit (stack : Nat) (s : State) : Host.Outcome State Fault Refusal :=
  run s (fun w =>
    if (s.stack stack).st ≠ 2 then w
    else (w.modStack stack (·.resume w.s.now)).serveWaiting stack)

/-- HBM_RETRAIN_DONE (R321, R343): the channel's retraining, after a COMMIT and before the next GO, is over, its lanes are repaired,
and the requests that it held are served. -/
def execHbmRetrainDone (stack channel : Nat) (s : State) : Host.Outcome State Fault Refusal :=
  run s (fun w =>
    if ¬ retraining s stack channel then w
    else
      (w.modStack stack (fun k =>
        { k with
          retrainNow := k.retrainNow.filter (fun lane => lane / 64 ≠ channel)
          lanes := Nat.min 255 (k.lanes + (k.retrainNow.filter (fun lane => lane / 64 = channel)).length) })).serveWaiting stack)

/-! ### The tile scrubber (R166, R169, R170) -/

/-- Words of a tile's two stores. -/
def tileWords : Nat := 0xC0000 + 0x800000

/-- The scrub of a physical tile's stores is behind its pace of every word once per hour, counted from the start of the pass
(R169; log entry 39). -/
def Phys.behind (x : Phys) (now : Nat) : Bool := decide (x.scrubbed * (3600 * secondNs) < tileWords * (now - x.scrubStart))

/-- A word has been scrubbed; with the last word a new pass begins. -/
def Phys.scrubbedOne (x : Phys) (now : Nat) : Phys :=
  if x.scrubbed + 1 < tileWords then { x with scrubbed := x.scrubbed + 1 } else { x with scrubbed := 0, scrubStart := now }

/-- A region that was brought to nap for its scrub goes back once every tile of it has been scrubbed since (R169). -/
def Work.endScrubNap (w : Work) (r : Nat) : Work :=
  let g := w.s.region r
  match g.scrubNap with
  | none => w
  | some (old, since) =>
    if (List.range 12).all (fun i => decide (since < (w.s.ph (meshOf r i)).scrubStart)) then
      let w := w.setRegion r { g with scrubNap := none }
      if g.pwr = .nap ∧ g.waking.isNone ∧ g.entering.isNone then w.lowerRegion r old else w
    else w

/-- An error that the scrubber finds in a word of a physical tile: of the logical tile `n`, or of none, which the records name
0xFF (R166, R170; log entry 39). -/
def Work.scrubError (w : Work) (p : Nat) (n : Option Nat) (kind word : Nat) (err : ErrKind) : Work :=
  match err, n with
  | .none, _ => w
  | .corrected, some n => w.storeCe n kind word true
  | .uncorrectable, some n => w.storeUe n kind word 0 true
  | .corrected, none => (w.eccError p kind word false true false).record 0x1006 2 (srcTile p) (0xFF + kind * 2 ^ 8) word 0
  | .uncorrectable, none => (w.eccError p kind word true true false).record 0x1007 4 (srcTile p) (0xFF + kind * 2 ^ 8) word 0

/-- TILE_SCRUB (R64, R166, R169, R170, R174, R521): in a window that admits scrub, or behind its pace, a word of a physical tile's
near or deep store is read, corrected and written back. An uncorrectable word is marked for zeroing. In doubles `second`
says that the word holds the second hosted tile's contents (R69). -/
def execTileScrub (p : Nat) (deep : Bool) (word : Nat) (err : ErrKind) (second : Bool) (s : State) : Host.Outcome State Fault Refusal :=
  run s (fun w =>
    let kind := b2n deep
    let r := regionOfMesh p
    let g := s.region r
    let in_ := windowOpen s r 1
    if 144 ≤ p ∨ (g.pwr ≠ .run ∧ g.pwr ≠ .nap) ∨ (if deep then 0x800000 else 0xC0000) ≤ word ∨ ¬ (in_ || (s.ph p).behind s.now) then w
    else
      let size := if deep then 16 else 8
      let moved := if err = .uncorrectable then size else 2 * size
      let (v, w) := if in_ then (0, w) else w.draw
      let w := w.modPh p (fun x =>
        let x := if in_ then x else { x with heldUntil := Nat.max x.heldUntil (s.now + v) }
        (if deep then { x with deep := wrapAdd 64 x.deep moved } else { x with near := wrapAdd 64 x.near moved }).scrubbedOne s.now)
      let tiles := hostedTiles s p
      let n := match tiles[b2n second]? with | some n => some n | none => tiles.head?
      (w.scrubError p n kind word err).endScrubNap r)

/-- SCRUB_NAP_WAKE (R169, R342): a region that has been in sleep or off for an hour comes to nap, and goes back once it is
scrubbed; no demand wake. -/
def execScrubNapWake (region : Nat) (s : State) : Host.Outcome State Fault Refusal :=
  run s (fun w =>
    let g := s.region region
    if (g.pwr ≠ .sleep ∧ g.pwr ≠ .off) ∨ s.now ≤ g.downSince + 3600 * secondNs then w
    else (w.lowerRegion region .nap).modRegion region (fun h => { h with scrubNap := some (g.pwr, s.now) }))

/-! ### Self-test runs (R483, R484) -/

/-- How long a run takes, in ns (R484). -/
def runNs (u : UnitId) : Nat := match u with | .tile _ => 20000 | _ => 4000

/-- The unit's own start conditions hold: a tile's array keeps no accumulators and its vector unit is idle (R484). -/
def mayTest (s : State) (u : UnitId) : Bool :=
  match u with
  | .tile p => (hostedTiles s p).all (fun n => (s.tile n).accs.isEmpty && (s.tile n).flights.all (fun f => f.unit ≠ .vector))
  | _ => true

/-- SELFTEST_RUN_START (R484): a suspect unit starts its run in the first window that admits it and has room. -/
def execSelftestRunStart (unit : UnitId) (s : State) : Host.Outcome State Fault Refusal :=
  run s (fun w =>
    let fits := fun (v : Window) =>
      (v.region.isNone || v.region = some unit.region) && bit v.kinds 2 && decide (v.start ≤ s.now) &&
      decide (s.now + runNs unit ≤ v.stop) && !v.ran.contains unit
    if ¬ isSuspect s unit ∨ isRetired s unit ∨ s.tests.any (fun t => t.unit = unit) ∨ ¬ mayTest s unit then w
    else
      match s.windows.find? fits with
      | none => w
      | some v =>
        { w with
          s.tests := s.tests ++ [{ unit := unit, start := s.now }]
          s.windows := s.windows.map (fun x => if x = v then { x with ran := x.ran ++ [unit] } else x) })

/-- SELFTEST_RUN_END (R483, R484): a pass counts; a failure enters the suspect states and poisons the attempt that runs in
the unit's region. -/
def execSelftestRunEnd (unit : UnitId) (pass : Bool) (s : State) : Host.Outcome State Fault Refusal :=
  run s (fun w =>
    match s.tests.find? (fun t => t.unit = unit) with
    | none => w
    | some t =>
      if s.now < t.start + runNs unit then w
      else
        let w := { w with s.tests := s.tests.filter (fun x => x ≠ t) }
        if pass then
          let w := w.modRegion unit.region (fun g => { g with runs := satAdd 32 g.runs 1 })
          { w with
            s.flash.suspects := w.s.flash.suspects.map (fun x => if x.unit = unit then { x with passed := x.passed + 1 } else x) }
        else
          let (v, w) := w.draw
          let w := w.unitFailure unit v
          match (w.s.region unit.region).holder with
          | none => w
          | some c => w.poison c 4)

/-- OBSERVATION_PERIOD_END (R483): 24 hours without a failure, with 16 runs passed, make the unit HEALTHY. -/
def execObservationEnd (unit : UnitId) (s : State) : Host.Outcome State Fault Refusal :=
  run s (fun w =>
    match suspectOf s unit with
    | none => w
    | some x =>
      if isRetired s unit ∨ s.retiring.contains unit ∨ (s.now : Int) < x.since + dayNs ∨ x.passed < 16 then w
      else
        let w := { w with s.flash.suspects := s.flash.suspects.filter (fun y => y.unit ≠ unit) }
        w.record 0x100B 2 unit.source unit.kind x.passed 0)

end Sys2Proof.Machine
end

