-- ==== Sys2Proof/Machine/Links.lean ====
section
/-! DEFINITION. The six ports (chapter 12, R354, R356, R359–R388): flits and their CRC, routing, sequence numbers and
replay, credits, width changes, loss, recalibration, training; and the service levels that wait for the ports (R549,
R554). -/

namespace Sys2Proof.Machine

/-! ### Flits (R354, R356, R373) -/

/-- The eight bits of a byte, least significant first. -/
def byteBits (b : Byte) : List Bool := (List.range 8).map (fun i => b.toNat.testBit i)

/-- CRC-20 over bits, from its initial value (R373). -/
def crc20 (bs : List Bool) : Nat :=
  bs.foldl (fun c b =>
    let top := c.testBit 19
    let c := c * 2 % 2 ^ 20
    if top == b then c else c ^^^ 0x85B4B) 0xFFFFF

/-- The 28 trailer bits that the CRC covers: SEQ, ACK, VC, CTL (R373). -/
def trailerLow (seq ack vc : Nat) (ctl : Bool) : Nat := seq % 4096 + ack % 4096 * 2 ^ 12 + vc % 8 * 2 ^ 24 + b2n ctl * 2 ^ 27

/-- The CRC of a body with its trailer's low bits. -/
def flitCrc (body : List Byte) (low : Nat) : Nat :=
  crc20 (body.flatMap byteBits ++ (List.range 28).map (fun i => low.testBit i))

/-- A packet's header as a number (R356). -/
def Packet.header (p : Packet) : Nat :=
  p.type % 16 + p.len % 256 * 2 ^ 4 + b2n p.sig * 2 ^ 12 + b2n p.poison * 2 ^ 13 + b2n p.detour * 2 ^ 14 +
  p.holdAxis % 4 * 2 ^ 15 + p.hold % 4 * 2 ^ 17 + rankNum p.dst % 4096 * 2 ^ 20 + p.addr % 2 ^ 44 * 2 ^ 32 +
  p.sigTally % 256 * 2 ^ 76 + p.sigTile % 256 * 2 ^ 84 + rankNum p.src % 4096 * 2 ^ 92 + p.tag % 65536 * 2 ^ 104

/-- A packet's bytes: header, data, zeros to a multiple of 4 (R356). -/
def Packet.bytes (p : Packet) : List Byte := leBytes 16 p.header ++ padTo (roundUp p.data.length 4) p.data

/-- A flit header (R354). -/
def Tag.header (t : Tag) (count : Nat) : Nat :=
  t.turn % 2 ^ 32 + t.attempt % 256 * 2 ^ 32 + b2n t.untagged * 2 ^ 40 + t.job % 4096 * 2 ^ 41 + count % 16 * 2 ^ 53

/-- The 256 bytes of a data flit that carries one packet. -/
def flitBytes (p : Parcel) (seq ack : Nat) : List Byte :=
  let body := padTo 250 (leBytes 8 (p.tag.header 1) ++ p.pkt.bytes)
  let low := trailerLow seq ack p.vc false
  body ++ leBytes 6 (low + flitCrc body low * 2 ^ 28)

/-- A packet read from its header (R356). -/
def Packet.read (h : Nat) (data : List Byte) : Packet :=
  { type := bits h 3 0, len := bits h 11 4, sig := bit h 12, poison := bit h 13, detour := bit h 14, holdAxis := bits h 16 15
    hold := bits h 18 17, dst := rankXyz (bits h 31 20), addr := bits h 75 32, sigTally := bits h 83 76
    sigTile := bits h 91 84, src := rankXyz (bits h 103 92), tag := bits h 119 104, data := data }

/-- The packets of a packet area, `n` of them (R356). A READ's LEN counts bytes it asks for. -/
def packets : Nat → List Byte → List Packet
  | 0, _ => []
  | n + 1, bs =>
    let h := ofLe (bs.take 16)
    let len := if bits h 3 0 = 2 then 0 else bits h 11 4
    Packet.read h (slice bs 16 len) :: packets n (bs.drop (16 + roundUp len 4))

/-- The parcels of a data flit's 256 bytes (R354). -/
def flitParcels (flit : List Byte) : List Parcel :=
  let h := ofLe (flit.take 8)
  let tag : Tag := { turn := bits h 31 0, attempt := bits h 39 32, untagged := bit h 40, job := bits h 52 41 }
  let vc := bits (ofLe (slice flit 250 6)) 26 24
  (packets (bits h 56 53) ((flit.take 250).drop 8)).map (fun p => { vc := vc, tag := tag, pkt := p })

/-! ### Sending (R360, R362, R374, R376, R378) -/

/-- Buffer space of a receiver by VC (R360). -/
def reservation (vc : Nat) : Nat := match vc with | 0 => 64 | 1 => 64 | _ => 16

/-- The credits a transmitter holds for a VC (R378). -/
def Port.credit (q : Port) (vc : Nat) : Nat := modSub 16 (reservation vc + q.freed.get 0 vc) (q.sent.get 0 vc)

/-- ACK of the flits a port sends: the last data flit accepted in order (R376). -/
def Port.ack (q : Port) : Nat := modSub 12 q.x 1

/-- The VCs of a class: CTL, responses, requests (R362). -/
def vcPair (k : Nat) : List Nat := match k with | 0 => [2] | 1 => [1, 4] | _ => [0, 3]

/-- The class of a VC. -/
def vcClass (vc : Nat) : Nat := if vc = 2 then 0 else if vc = 1 ∨ vc = 4 then 1 else 2

/-- A VC has a parcel to send and holds a credit. -/
def Port.ready (q : Port) (vc : Nat) : Bool := q.txq.any (fun p => p.vc = vc) && decide (0 < q.credit vc)

/-- The VC of a class that is served next: its two members in turn (R362). -/
def Port.pick (q : Port) (k : Nat) : Option Nat :=
  match (vcPair k).filter q.ready with
  | [] => none
  | [v] => some v
  | v :: u :: _ => some (if q.lastVc.get 7 k = v then u else v)

/-- The VC a port serves next: one that has waited 64 flit times, else CTL, RSP and RSP_D, REQ and REQ_D in this order (R362). -/
def Port.nextVc (q : Port) : Option Nat :=
  match (List.range 5).find? (fun v => q.ready v && decide (64 ≤ q.waited.get 0 v)) with
  | some v => some v
  | none => (List.range 3).findSome? q.pick

/-- The parcel a port sends next: the oldest of the VC that is served. -/
def Port.next (q : Port) : Option Parcel := q.nextVc.bind (fun v => q.txq.find? (fun p => p.vc = v))

/-- A VC has been served: it is the last of its pair, and the other VCs that could send have waited one flit time more (R362). -/
def Port.served (q : Port) (vc : Nat) : Port :=
  { q with
    lastVc := q.lastVc.put 7 (vcClass vc) vc
    waited := (List.range 5).foldl (fun t v =>
      t.put 0 v (if v = vc ∨ ¬ q.ready v then 0 else t.get 0 v + 1)) q.waited }

/-! ### Frames (R372) -/

/-- A product in GF(2^8) modulo x^8 + x^4 + x^3 + x^2 + 1 (log entry 40). -/
def gfMul (a b : Nat) : Nat :=
  ((List.range 8).foldl (fun (acc : Nat × Nat) i =>
    let (r, x) := acc
    (if b.testBit i then r ^^^ x else r, if 128 ≤ x then (2 * x) % 256 ^^^ 0x1D else 2 * x)) (0, a)).1

/-- A polynomial times x plus a constant, both over GF(2^8); coefficients from the highest. -/
def gfTimes (g : List Nat) (r : Nat) : List Nat :=
  (List.range (g.length + 1)).map (fun i => g.getD i 0 ^^^ (if i = 0 then 0 else gfMul r (g.getD (i - 1) 0)))

/-- The generator polynomial of RS(140, 128), with the roots 2^0 to 2^11, without its leading 1 (R372; log entry 40). -/
def rsGenerator : List Nat :=
  (((List.range 12).foldl (fun (acc : List Nat × Nat) _ => (gfTimes acc.1 acc.2, gfMul 2 acc.2)) ([1], 1)).1).drop 1

/-- The 12 parity bytes of a codeword of 128 bytes (R372). -/
def rsParity (bs : List Byte) : List Byte :=
  (bs.foldl (fun (r : List Nat) b =>
    let f := b.toNat ^^^ r.getD 0 0
    (List.range 12).map (fun i => r.getD (i + 1) 0 ^^^ gfMul f (rsGenerator.getD i 0))) (List.replicate 12 0)).map (BitVec.ofNat 8)

/-- The bytes at even (`k` = 0) or odd places (`k` = 1). -/
def codeword (bs : List Byte) (k : Nat) : List Byte := (List.range (bs.length / 2)).map (fun i => bs.getD (2 * i + k) 0)

/-- The 280-byte frame of a flit: its 256 bytes, and the parity of its even-numbered and of its odd-numbered bytes, interleaved as
they are (R372). -/
def frameOf (flit : List Byte) : List Byte :=
  flit ++ ((rsParity (codeword flit 0)).zip (rsParity (codeword flit 1))).flatMap (fun p => [p.1, p.2])

/-- The lane in use that carries frame bit `k`, where the lanes in use are a mask (R372). -/
def laneOf (lanes k : Nat) : Nat := (setBits 16 lanes).getD (k % Nat.max 1 (popCount 16 lanes)) 0

/-- Errors of a frame on the line: the place of a byte in the frame, and the bits that differ. -/
abbrev LineErrors := List (Nat × Byte)

/-- The places of a codeword that differ (R372). -/
def LineErrors.inWord (es : LineErrors) (k : Nat) : List Nat :=
  sortNat ((es.filter (fun e => decide (e.1 < 280) && decide (e.1 % 2 = k) && decide (e.2 ≠ 0))).map (·.1))

/-- What FEC makes of a frame: the flit as it was sent, where each codeword has at most 6 bytes wrong, else nothing (R372). -/
def LineErrors.corrects (es : LineErrors) : Bool := decide ((es.inWord 0).length ≤ 6) && decide ((es.inWord 1).length ≤ 6)

/-- Corrected symbols by lane: a wrong byte counts on each lane that carried a wrong bit of it (R379). -/
def Port.countErrors (q : Port) (es : LineErrors) : Port :=
  { q with
    corrected := es.foldl (fun t e =>
      (sortNat (((List.range 8).filter (fun i => e.2.toNat.testBit i)).map (fun i => laneOf q.rxLanes (8 * e.1 + i)))).foldl
        (fun t l => t.upd 0 l (· + 1)) t) q.corrected }

/-- New data flits may go out: UP, no width change or pause, fewer than 1,024 kept (R374, R379, R385). -/
def Port.maySend (q : Port) : Bool :=
  q.st = 2 && q.txChange.isNone && !q.pause && decide (q.kept.length < 1024)

/-- Data flits go out while they may (R360, R374). -/
def Work.pump (w : Work) (port : Nat) : Nat → Work
  | 0 => w
  | n + 1 =>
    let q := w.s.port port
    match if q.maySend then q.next else none with
    | none => w
    | some p =>
      let w := w.setPort port
        { q with
          txq := q.txq.erase p, lastVc := (q.served p.vc).lastVc, waited := (q.served p.vc).waited, kept := q.kept ++ [{ seq := q.seqNext, parcel := p }], seqNext := wrapAdd 12 q.seqNext 1
          sent := q.sent.put 0 p.vc (wrapAdd 16 (q.sent.get 0 p.vc) 1), txBytes := wrapAdd 64 q.txBytes 250, unacked := false }
      (w.send (.flit port q.seqNext q.ack (frameOf (flitBytes p q.seqNext q.ack)))).pump port n

/-- Everything a port may send goes out. -/
def Work.pumpPort (w : Work) (port : Nat) : Work := w.pump port (w.s.port port).txq.length

/-- A parcel joins a port's queue. -/
def Work.sendPort (w : Work) (port : Nat) (p : Parcel) : Work :=
  (w.modPort port (fun q => { q with txq := q.txq ++ [p] })).pumpPort port

/-- Kept flits go out again, with the present ACK (R376). -/
def Work.resend (w : Work) (port : Nat) : Work :=
  let q := w.s.port port
  w.each q.kept (fun w k => w.send (.flit port k.seq q.ack (frameOf (flitBytes k.parcel k.seq q.ack))))

/-- The FREED counts of the five VCs (R377, R378). -/
def Port.freedBytes (q : Port) : List Byte := (List.range 5).flatMap (fun vc => leBytes 2 (q.released.get 0 vc))

/-- A CTL flit that reports FREED: IDLE or NAK (R376–R378). -/
def Work.sendReport (w : Work) (port code : Nat) : Work :=
  let q := w.s.port port
  (w.setPort port { q with told := q.released, unacked := false }).send (.ctl port code q.ack ([0#8] ++ q.freedBytes))

/-- An ACK frees kept flits, and lets new ones go (R376). -/
def Work.acked (w : Work) (port ack : Nat) : Work :=
  (w.modPort port (fun q => { q with kept := q.kept.filter (fun k => decide (1024 ≤ modSub 12 ack k.seq)) })).pumpPort port

/-- FREED counts arrive (R378). -/
def Work.credited (w : Work) (port : Nat) (freed : List Nat) : Work :=
  (w.modPort port (fun q =>
    { q with freed := (List.range 5).foldl (fun t vc => t.put 0 vc (lowBits 16 (freed.getD vc 0))) q.freed })).pumpPort port

/-- The number of lanes of a port, and its widths, widest first (R372). -/
def laneCount (port : Nat) : Nat := if port < 4 then 16 else 8
def widths (port : Nat) : List Nat := if port < 4 then [16, 14, 10, 8, 4] else [8, 7, 5, 4, 2]

/-- The widest step that a mask of good lanes allows; 0 when too few are good (R379, R382). -/
def widthFor (port mask : Nat) : Nat := ((widths port).find? (fun k => decide (k ≤ popCount 16 mask))).getD 0

/-- The lanes in use: the lowest good ones (R379). -/
def lanesFor (port mask : Nat) : Nat := (((setBits 16 mask).take (widthFor port mask)).map (fun i => 2 ^ i)).sum

/-! ### Service levels (R549, R550, R554) -/

/-- A region can host its tiles and its stack runs (R554). -/
def regionReady (s : State) (r : Nat) : Bool :=
  !(s.region r).lost && (decide ((s.stack r).st = 1) || decide ((s.stack r).st = 2))

/-- A mesh port meets the system level: UP with at least 4 lanes, or EDGE (R554). -/
def portReady (q : Port) : Bool := q.st = 3 || (q.st = 2 && decide (4 ≤ q.txW) && decide (4 ≤ q.rxW))

/-- Training that has ended raises the service levels, once firmware runs (R549, R554). -/
def Work.raiseLevels (w : Work) : Work :=
  let b := w.s.boot
  if ¬ b.fwReady ∨ b.stage < 3 ∨ 5 < b.stage then w
  else
    let trained := (List.range 12).all (fun k => decide ((w.s.stack k).st ≠ 0))
    let ports := (List.range 6).all (fun p => decide ((w.s.port p).st ≠ 1))
    let service := (List.range 8).any (fun k => !(w.s.core (k + 4)).retired)
    let compute := b.compute || (trained && b.host && service && (List.range 12).any (regionReady w.s))
    let system := b.system || (compute && ports && (List.range 4).all (fun p => portReady (w.s.port p)))
    { w with
      s.boot := { b with
        stage := if trained ∧ ports then 5 else Nat.max b.stage 4, listsApplied := b.listsApplied || trained
        compute := compute, system := system, level := if system then 4 else if compute then 3 else b.level } }

/-! ### Between packages (R368, R369) -/

/-- The coordinates behind a port of this package. -/
def behind (s : State) (port : Nat) : Option Xyz := s.here.step port

/-- What becomes of a packet at a package. -/
inductive Way where
  | deliver (p : Parcel)
  | out (port : Nat) (p : Parcel)
  | drop
deriving DecidableEq, Repr

/-- The port of a step along an axis (R368, R383). -/
def portOf (axis : Nat) (up : Bool) : Nat := 2 * (axis - 1) + b2n (!up)

/-- A step is reachable: its port is UP, not waiting to be re-admitted, and its neighbour not missing (R369, R386). -/
def reachable (s : State) (port : Nat) : Bool :=
  let q := s.port port
  q.st = 2 && !q.barred && (match behind s port with | some n => !s.form.missing.contains n | none => false)

/-- The VC of a packet that has left dimension order (R359, R369). -/
def detourVc (vc : Nat) : Nat := match vc with | 0 => 3 | 1 => 4 | v => v

/-- `route` of R369. -/
def wayOf (s : State) (p : Parcel) : Way :=
  let here := s.here
  let dst := p.pkt.dst
  let towards := fun ax => decide (here.along ax < dst.along ax)
  if 0 < p.pkt.hold ∧ here.along p.pkt.holdAxis ≠ dst.along p.pkt.holdAxis then
    .out (portOf p.pkt.holdAxis (towards p.pkt.holdAxis)) { p with pkt := { p.pkt with hold := p.pkt.hold - 1 } }
  else
    let p := { p with pkt := { p.pkt with hold := 0, holdAxis := 0 } }
    match [1, 2, 3].find? (fun ax => decide (here.along ax ≠ dst.along ax)) with
    | none => .deliver p
    | some ax =>
      let port := portOf ax (towards ax)
      if reachable s port then .out port p
      else if behind s port = some dst ∧ s.form.missing.contains dst then .drop
      else
        let side := if ax = 1 then 2 else 1
        let up := !decide ((s.port (portOf side true)).st = 3)
        let up := if reachable s (portOf side up) then up else !up
        let p := if p.pkt.detour then p else { p with vc := detourVc p.vc, pkt := { p.pkt with detour := true } }
        let p := if ax = 1 then p else { p with pkt := { p.pkt with holdAxis := ax, hold := 2 } }
        .out (portOf side up) p

/-! ### Inside the package (R364–R367) -/

/-- The attach index of a far package (R366). -/
def attachIndex (far : Xyz) : Nat := (far.x + 2 * far.y + 3 * far.z) % 6

/-- The attach router of a mesh port (R366). -/
def attachRouter (port : Nat) (far : Xyz) : Nat × Nat :=
  let a := attachIndex far
  match port with
  | 0 => (11, 6 + a)
  | 1 => (0, a)
  | 2 => (a, 11)
  | _ => (6 + a, 0)

/-- The hub link router of a die, by a router on it (R366, R367). -/
def hubRouter (at_ : Nat × Nat) : Nat × Nat := (if at_.1 < 6 then 5 else 6, if at_.2 < 6 then 5 else 6)

/-- The router that follows `a` on the way to `b`: along mx until mx is reached, then along my (R365). -/
def meshNext (a b : Nat × Nat) : Nat × Nat :=
  if a.1 < b.1 then (a.1 + 1, a.2) else if b.1 < a.1 then (a.1 - 1, a.2)
  else if a.2 < b.2 then (a.1, a.2 + 1) else (a.1, a.2 - 1)

/-- The links of the way from `a` to `b`, at most as many as the first argument says. -/
def meshWay : Nat → Nat × Nat → Nat × Nat → List ((Nat × Nat) × (Nat × Nat))
  | 0, _, _ => []
  | n + 1, a, b => if a = b then [] else (a, meshNext a b) :: meshWay n (meshNext a b) b

/-- The die of a router (R9, R10). -/
def dieOfRouter (a : Nat × Nat) : Nat := a.1 / 6 + 2 * (a.2 / 6)

/-- A packet moves from router `a` to router `b`, each link in turn; a link between two dies crosses their edge, which joins
only dies side by side, one link in each row or column (R24, R364, R365). The mesh has 12 × 12 routers, so 22 links reach
every one. -/
def Work.travel (w : Work) (a b : Nat × Nat) (p : Parcel) : Work :=
  w.each (meshWay 22 a b) (fun w l =>
    w.send (.mesh l.1.1 l.1.2 l.2.1 l.2.2 (decide (dieOfRouter l.1 ≠ dieOfRouter l.2)) p))

/-- Where a packet for this package ends: at a tile's router, in the hub, or at a stack, for which the spec gives no
router. -/
inductive Place where
  | tile (x y : Nat)
  | hub
  | stack
deriving DecidableEq, Repr

/-- The place that a packet for this package addresses: the tile of its tile window or of its arrival, the unit that waits
for a response, the stack of an HBM address (R345, R357, R366). -/
def placeOf (s : State) (p : Packet) : Place :=
  let at_ := fun n => Place.tile (hostMesh s n % 12) (hostMesh s n / 12)
  if p.type = 5 then at_ p.sigTile
  else if p.type ≤ 2 ∨ p.type = 6 then
    if inTiles p.addr then at_ ((p.addr - tileWindowBase) / 0x10000000) else if inHbm p.addr then .stack else .hub
  else if p.type = 7 then .hub
  else
    match s.requests.find? (fun q => q.tag = p.tag) with
    | some q => match q.owner with | .move n _ => at_ n | _ => .hub
    | none => .hub

/-- A packet in the hub, or just in from a Z port, which belongs to the hub (R26). -/
def Stand.inHub : Stand → Bool
  | .port i => decide (4 ≤ i)
  | .router _ => false
  | .hub => true

/-- The router at which a packet outside the hub stands: a port's attach router, by its source package (R366). -/
def Stand.at_ (e : Stand) (p : Packet) : Nat × Nat :=
  match e with
  | .port i => attachRouter i p.src
  | .router m => (m % 12, m / 12)
  | .hub => (0, 0)

/-- A packet crosses the package to a router, or to the hub where `to_` is none. Between the mesh and the hub it takes the hub
link of the die where it starts or ends in the mesh (R26, R365–R367). -/
def Work.across (w : Work) (from_ : Stand) (to_ : Option (Nat × Nat)) (p : Parcel) : Work :=
  match from_.inHub, to_ with
  | true, none => w
  | true, some t => (w.send (.hubLink (dieOfRouter t) false p)).travel (hubRouter t) t p
  | false, some t => w.travel (from_.at_ p.pkt) t p
  | false, none =>
    let f := from_.at_ p.pkt
    (w.travel f (hubRouter f) p).send (.hubLink (dieOfRouter f) true p)

/-- The attach router through which a packet leaves by a port; none for a Z port, which leaves from the hub (R26, R366). -/
def exitRouter (port : Nat) (p : Packet) : Option (Nat × Nat) := if port < 4 then some (attachRouter port p.dst) else none

/-- A packet takes its way through this package, from a port or from a unit here: it goes to a tile, to the hub or a stack,
out through a port, or is dropped (R365–R371). -/
def Work.arrive (w : Work) (from_ : Stand) (p : Parcel) : Work :=
  match wayOf w.s p with
  | .deliver p =>
    let w := match placeOf w.s p.pkt with
      | .tile x y => w.across from_ (some (x, y)) p
      | .hub => w.across from_ none p
      | .stack => w
    w.send (.toTile p)
  | .out o p => (w.across from_ (exitRouter o p.pkt) p).sendPort o p
  | .drop =>
    let w := { w with s.routeDrops := w.s.routeDrops + 1 }
    let w := w.record 0x4004 3 srcPackage (rankNum p.pkt.dst) p.pkt.type 0
    if p.tag.untagged ∧ (p.pkt.type = 1 ∨ p.pkt.type = 2) then
      w.send (.parcel { vc := 1, tag := p.tag, pkt := mkPacket w.s 8 0 p.pkt.src 0 p.pkt.tag [] })
    else w

/-- Where a packet waits for a port: at its attach router, or in the hub. -/
def waitsAt (port : Nat) (p : Packet) : Stand :=
  match exitRouter port p with
  | some r => .router (12 * r.2 + r.1)
  | none => .hub

/-- Packets that wait for a port that is lost are routed afresh (R369, R381). -/
def Work.reroute (w : Work) (port : Nat) : Work :=
  let q := w.s.port port
  if q.st = 4 ∧ q.txq ≠ [] then (w.setPort port { q with txq := [] }).each q.txq (fun w p => w.arrive (waitsAt port p.pkt) p) else w

/-! ### Loss (R381) -/

/-- The packets of this package to a place leave by a port, as R369 routes them. -/
def leavesBy (s : State) (dst : Xyz) (port : Nat) : Bool :=
  match wayOf s { vc := 0, tag := { turn := 0, attempt := 0, untagged := true, job := 0 }, pkt := mkPacket s 0 0 dst 0 0 [] } with
  | .out o _ => decide (o = port)
  | _ => false

/-- A role's job uses a port (R381, R390): its box has a role behind it, its packets to some role leave by it, a moved role or a detour
included, or the port holds flits of the job. -/
def Work.usesPort (w : Work) (c port : Nat) : Bool :=
  let x := w.s.ctx c
  let own := rankXyz (rankOf x)
  let shape := w.shapeOf c
  let q := w.s.port port
  let r := own.along (portAxis port)
  let box := !w.s.form.away &&
    (if portUp port then decide (r + 1 < shape.along (portAxis port)) else decide (0 < r))
  let routes := (ranksOf shape).any (fun k => decide (rankXyz k ≠ own) && leavesBy w.s (roleAt w.s x (rankXyz k)) port)
  let held := (q.kept.map (·.parcel) ++ q.txq).any (fun p => decide (p.tag.job = lowBits 12 x.job))
  !w.solo c && (box || routes || held)

/-- A host command one of whose packets is lost completes with FAULT_LINK_LOST (R371, R381). -/
def Work.requestLost (w : Work) (q : Request) : Work :=
  let w := { w with s.requests := w.s.requests.filter (fun r => r.tag ≠ q.tag) }
  match q.owner with
  | .command ring index =>
    match w.s.actives.find? (fun a => a.ring = ring && a.index = index) with
    | some a =>
      ({ w with s.requests := w.s.requests.filter (fun r => r.owner ≠ q.owner) }).reply a stLink 0 0 0
    | none => w
  | _ => w

/-- The request of a parcel of this package that will be answered. -/
def requestOf (s : State) (p : Parcel) : Option Request :=
  if p.tag.untagged && decide (p.pkt.src = s.here) && (p.pkt.type = 1 || p.pkt.type = 2) then
    s.requests.find? (fun q => q.tag = p.pkt.tag)
  else none

/-- A port becomes LOST (R381): causes 1 lanes, 2 re-framing, 3 no ACK, 4 no signal, 5 HELLO while UP. -/
def Work.portLost (w : Work) (port cause : Nat) : Work :=
  let q := w.s.port port
  if q.st ≠ 2 then w
  else
    let hit := (List.range 16).filter (fun c => w.usesPort c port)
    let w := w.setPort port
      { q with
        st := 4, kept := [], txW := 0, rxW := 0, txLanes := 0, rxLanes := 0, txChange := none, rxChange := none
        heldNak := none, heldChange := [], resendOwed := false, pause := false, forced := false, nakFor := none, naks := 0
        barred := true, quiet := false }
    let w := w.record 0x4002 4 (srcPort port) cause 0 0
    let w := w.each (q.kept.filterMap (fun k => requestOf w.s k.parcel)) (fun w r => w.requestLost r)
    let w := w.each hit (fun w c => w.poison c 5)
    let w := w.reroute port
    match behind w.s port with
    | some at_ => if w.s.form.form = 2 then w.send (.closing (.lost at_ 0 w.s.here)) else w
    | none => w

/-! ### Receiving (R373, R375, R376, R378) -/

/-- LANE_CHANGE is sent: the mask, the width it allows, proposal or answer (R377). -/
def Work.sendChange (w : Work) (port mask : Nat) (answer : Bool) : Work :=
  w.send (.ctl port 2 (w.s.port port).ack
    ([0#8] ++ leBytes 2 mask ++ leBytes 1 (widthFor port mask) ++ leBytes 1 (b2n answer)))

/-- The receiver marks a lane bad: it stops accepting data flits and proposes; too few lanes lose the port (R379, R381). -/
def Work.markLane (w : Work) (port lane : Nat) : Work :=
  let q := w.s.port port
  let good := q.goodRx - (q.goodRx &&& 2 ^ lane)
  if q.st ≠ 2 ∨ laneCount port ≤ lane ∨ ¬ bit q.goodRx lane then w
  else
    let mask := good &&& (match q.rxChange with | some k => k.mask | none => good)
    let w := w.setPort port { q with goodRx := good, rxChange := some { mask := mask, both := false }, naks := 0 }
    if widthFor port mask = 0 then w.portLost port 1 else w.sendChange port mask false

/-- The lane in use with the most corrected symbols, the lowest of equals (R379). -/
def Port.worstLane (q : Port) : Nat :=
  ((setBits 16 q.rxLanes).foldl (fun (best : Option Nat) l =>
    match best with
    | none => some l
    | some b => if q.corrected.get 0 b < q.corrected.get 0 l then some l else some b) none).getD 0

/-- NAK is sent for the expected number. The eighth for one number, each of which makes the flit go out again, marks the lane with the
most corrected symbols bad (R375, R379; log entry 40). -/
def Work.sendNak (w : Work) (port : Nat) : Work :=
  let w := (w.modPort port (fun q => { q with nakFor := some q.x, naks := q.naks + 1 })).sendReport port 1
  let q := w.s.port port
  if q.naks < 8 then w else w.markLane port q.worstLane

/-- NAK for the expected number, once for each (R375). -/
def Work.nak (w : Work) (port : Nat) : Work :=
  let q := w.s.port port
  if q.nakFor = some q.x then w else w.sendNak port

/-- A report of released flits is due: 32 of some VC since the last (R378). -/
def Port.reportDue (q : Port) : Bool :=
  (List.range 5).any (fun vc => decide (32 ≤ modSub 16 (q.released.get 0 vc) (q.told.get 0 vc)))

/-- A data flit is accepted in order: x advances, its buffer is released as its packets go on (R375, R378). -/
def Work.acceptFlit (w : Work) (port vc : Nat) : Work :=
  let w := w.modPort port (fun q =>
    { q with
      x := wrapAdd 12 q.x 1, nakFor := none, naks := 0, corrected := [], rxBytes := wrapAdd 64 q.rxBytes 250, unacked := true
      released := q.released.put 0 vc (wrapAdd 16 (q.released.get 0 vc) 1) })
  w.when (w.s.port port).reportDue (·.sendReport port 0)

/-- IDLE (R376, R378). -/
def execCtlIdle (port ack : Nat) (freed : List Nat) (s : State) : Host.Outcome State Fault Refusal :=
  run s (fun w => w.when ((s.port port).st = 2) (fun w => (w.acked port ack).credited port freed))

/-- NAK_RETRY_TIMEOUT (R375): no flit numbered x has come since the NAK. -/
def execNakRetry (port : Nat) (s : State) : Host.Outcome State Fault Refusal :=
  run s (fun w =>
    let q := s.port port
    w.when (q.st = 2 && q.nakFor = some q.x && q.rxChange.isNone) (·.sendNak port))

/-- A NAK is served: every kept flit after its ACK goes out again, then new ones (R376). -/
def Work.serveNak (w : Work) (port ack : Nat) : Work :=
  let w := w.modPort port (fun q =>
    { q with kept := q.kept.filter (fun k => decide (1024 ≤ modSub 12 ack k.seq)), replays := satAdd 32 q.replays 1 })
  (w.resend port).pumpPort port

/-- NAK (R376, R380, R385): at once, after the pause, or covered by the resend of a width change. -/
def execCtlNak (port ack : Nat) (freed : List Nat) (s : State) : Host.Outcome State Fault Refusal :=
  run s (fun w =>
    let q := s.port port
    if q.st ≠ 2 then w
    else
      let w := w.credited port freed
      if q.pause then w.modPort port (fun q => { q with heldNak := some ack })
      else if q.txChange.isSome then w.acked port ack
      else w.serveNak port ack)

/-- ACK_TIMEOUT (R376): the oldest kept flit has waited 4 µs. -/
def execAckTimeout (port : Nat) (s : State) : Host.Outcome State Fault Refusal :=
  run s (fun w =>
    let q := s.port port
    if q.st ≠ 2 ∨ q.kept = [] ∨ q.txChange.isSome ∨ q.pause then w
    else (w.setPort port { q with replays := satAdd 32 q.replays 1 }).resend port)

/-- IDLE_TIMER (R376, R378): 128 ns with accepted flits unacknowledged or released ones unreported. -/
def execIdleTimer (port : Nat) (s : State) : Host.Outcome State Fault Refusal :=
  run s (fun w =>
    let q := s.port port
    w.when (q.st = 2 && (q.unacked || decide (q.released ≠ q.told))) (·.sendReport port 0))

/-! ### Width changes (R379, R380) -/

/-- LANE_BAD (R379, R381): a lane has lost lock or exceeded its error ratio. -/
def execLaneBad (port lane : Nat) (s : State) : Host.Outcome State Fault Refusal := run s (·.markLane port lane)

/-- A LANE_CHANGE is handled: a proposal is answered, an answer ends the exchange (R379, R380). -/
def Work.laneChange (w : Work) (port mask : Nat) (answer : Bool) : Work :=
  let q := w.s.port port
  if answer then
    match q.rxChange with
    | none => w
    | some k =>
      let m := k.mask &&& mask
      let w := w.setPort port { q with rxChange := some { mask := m, both := true } }
      if widthFor port m = 0 then w.portLost port 1 else w
  else
    let m := mask &&& (match q.txChange with | some k => k.mask | none => q.goodTx)
    let w := w.setPort port { q with txChange := some { mask := m, both := true } }
    if widthFor port m = 0 then w.portLost port 1 else w.sendChange port m true

/-- LANE_CHANGE (R379, R380, R385). The width that the message names follows from the masks. -/
def execLaneChange (port ack mask _width : Nat) (answer : Bool) (s : State) : Host.Outcome State Fault Refusal :=
  run s (fun w =>
    let q := s.port port
    if q.st ≠ 2 then w
    else
      let w := w.acked port ack
      if q.pause then w.modPort port (fun q => { q with heldChange := q.heldChange ++ [(mask, answer)] })
      else w.laneChange port mask answer)

/-- One direction takes its new width (R379, R380). -/
def Work.reframe (w : Work) (port : Nat) (tx : Bool) (k : LaneChange) : Work :=
  let wd := widthFor port k.mask
  let w := w.modPort port (fun q =>
    let changed := decide ((if tx then q.txW else q.rxW) ≠ wd)
    let q := { q with degrades := satAdd 32 q.degrades (b2n changed) }
    if tx then { q with txW := wd, txLanes := lanesFor port k.mask, goodTx := k.mask, txChange := none }
    else { q with rxW := wd, rxLanes := lanesFor port k.mask, goodRx := k.mask, rxChange := none })
  w.record 0x4001 3 (srcPort port) (if tx then 0 else 1) wd k.mask

/-- REFRAME_DONE (R379, R380): the directions whose exchange is over run on their new lanes; the transmitter resends from
its oldest kept flit, once a pause is over (R385). -/
def execReframeDone (port : Nat) (s : State) : Host.Outcome State Fault Refusal :=
  run s (fun w =>
    let q := s.port port
    if q.st ≠ 2 then w
    else
      let w := match q.rxChange with
        | some k => if k.both then w.reframe port false k else w
        | none => w
      match q.txChange with
      | some k =>
        let w := w.reframe port true k
        if q.pause then w.modPort port (fun q => { q with resendOwed := true }) else (w.resend port).pumpPort port
      | none => w)

/-- REFRAME_TIMEOUT (R381). -/
def execReframeTimeout (port : Nat) (s : State) : Host.Outcome State Fault Refusal :=
  run s (fun w =>
    let q := s.port port
    w.when (q.rxChange.isSome || q.txChange.isSome) (·.portLost port 2))

/-- ACK_STALL_TIMEOUT (R381). -/
def execAckStall (port : Nat) (s : State) : Host.Outcome State Fault Refusal :=
  run s (fun w => w.when (!(s.port port).kept.isEmpty) (·.portLost port 3))

/-- SIGNAL_LOSS (R381). -/
def execSignalLoss (port : Nat) (s : State) : Host.Outcome State Fault Refusal :=
  run s (fun w => w.portLost port 4)

/-! ### Recalibration (R385) -/

/-- RECAL (R377, R385): the partner's pause; only time passes. Its ACK counts as any other. -/
def execRecal (port ack _pause : Nat) (s : State) : Host.Outcome State Fault Refusal :=
  run s (fun w => w.when ((s.port port).st = 2) (·.acked port ack))

/-- RECAL_DUE (R385): 20 ms have passed. The refresh runs in a window that admits it, while no Turn runs, or when 40 ms have
passed, when it may delay moves; the direction announces at most 1.5 µs and pauses. -/
def execRecalDue (port : Nat) (s : State) : Host.Outcome State Fault Refusal :=
  run s (fun w =>
    let q := s.port port
    let free := s.windows.any (fun v => v.region.isNone && bit v.kinds 3 && decide (v.start ≤ s.now) && decide (s.now < v.stop))
    if q.st ≠ 2 ∨ q.pause then w
    else if free ∨ ¬ anyTurn s ∨ q.recalOwed then
      (w.setPort port { q with pause := true, forced := !free && anyTurn s, recalOwed := false }).send (.ctl port 6 q.ack ([0#8] ++ leBytes 2 1500))
    else w.setPort port { q with recalOwed := true })

/-- RECAL_PAUSE_END (R385): the refresh has measured the delay; what came in the pause is handled, and data flits go on. -/
def execRecalPauseEnd (port delay : Nat) (s : State) : Host.Outcome State Fault Refusal :=
  run s (fun w =>
    let q := s.port port
    if ¬ q.pause then w
    else
      let w := w.setPort port
        { q with pause := false, forced := false, delay := lowBits 32 delay, heldNak := none, heldChange := [], resendOwed := false }
      let w := w.each q.heldChange (fun w h => w.laneChange port h.1 h.2)
      let w := if q.resendOwed ∧ (w.s.port port).txChange.isNone then w.resend port else w
      let w := match q.heldNak with
        | some a => if (w.s.port port).txChange.isSome then w.acked port a else w.serveNak port a
        | none => w
      w.pumpPort port)

/-! ### Training (R382–R384, R386) -/

/-- HELLO is sent (R383). -/
def Work.sendHello (w : Work) (port : Nat) : Work :=
  let q := w.s.port port
  w.send (.ctl port 3 q.ack
    ([0#8] ++ leBytes 1 port ++ leBytes 1 w.s.pins.slot ++ leBytes 1 (b2n w.s.pins.bankerEn + 2 * b2n w.s.pins.standbyEn) ++
      leBytes 4 (2 + lowBits 8 Config.stepping * 2 ^ 16) ++ leBytes 8 Config.serial ++ leBytes 2 0x0200 ++ leBytes 2 q.goodRx))

/-- A training that fails: the port returns to the state it had, or at reset takes `st` (R382, R386). -/
def Work.trainFail (w : Work) (port st : Nat) : Work :=
  (w.modPort port (fun q => { q with st := q.prior.getD st, prior := none, step := 0, quiet := false })).raiseLevels

/-- What a package reports of itself, or of a partner that has joined (R406, R409). -/
def ownReport (s : State) (delaySum : Nat) : PkgReport :=
  { serial := Config.serial, bankerEn := s.pins.bankerEn, standbyEn := s.pins.standbyEn, slot := s.pins.slot
    ports := (List.range 6).map (fun p => ((s.port p).st, (s.port p).pSerial, (s.port p).pPort)), delaySum := delaySum }

/-- The partner's slot fits the board wiring (R384): one further in the port's direction in the same row or column, or the
opposite end of it across a board edge. -/
def slotFits (own port slot : Nat) : Bool :=
  let (a, b, c, d) := if port < 2 then (own % 4, slot % 4, own / 4, slot / 4) else (own / 4, slot / 4, own % 4, slot % 4)
  decide (c = d) && (if portUp port then decide (b = (a + 1) % 4) else decide (a = (b + 1) % 4))

/-- Step 7 (R382): the port is UP with its numbers at 0. A partner found again is reported to the Banker (R386, R409). -/
def Work.portUpNow (w : Work) (port : Nat) : Work :=
  let q := w.s.port port
  let again := q.prior.isSome
  let misfit := decide (port < 4) && !slotFits w.s.pins.slot port q.pSlot
  let w := w.setPort port
    { q with
      st := 2, prior := none, step := 0, seqNext := 0, x := 0, kept := [], sent := [], freed := [], released := [], told := []
      unacked := false, nakFor := none, naks := 0, corrected := [], lastVc := [], waited := [], slotMismatch := q.slotMismatch || misfit
      barred := q.barred && anyTurn w.s }
  let w := if misfit then w.record 0x4003 3 (srcPort port) q.pPort q.pSlot 0 else w
  let w := if again ∧ w.s.form.form = 2 then
      let r : PkgReport :=
        { serial := q.pSerial, bankerEn := bit q.pStraps 0, standbyEn := bit q.pStraps 1, slot := q.pSlot, ports := []
          delaySum := q.delay }
      w.send (.control (.joined w.s.here port r))
    else w
  w.raiseLevels.pumpPort port

/-- TRAINING_STEP_DONE (R382, R386). Steps 4 and 7 take no time of their own. -/
def execTrainStepDone (port : Nat) (r : TrainResult) (s : State) : Host.Outcome State Fault Refusal :=
  run s (fun w =>
    let q := s.port port
    if q.st ≠ 1 then w
    else match q.step with
    | 1 => if r.signal then w.setPort port { q with step := 2 } else w.trainFail port 3
    | 2 => w.setPort port { q with step := 3 }
    | 3 =>
      let mask := lowBits (laneCount port) r.good
      let wd := widthFor port mask
      if wd = 0 then w.trainFail port 0
      else
        (w.setPort port
          { q with
            step := 5, txW := wd, rxW := wd, txLanes := lanesFor port mask, rxLanes := lanesFor port mask, goodTx := mask
            goodRx := mask, pValid := false }).sendHello port
    | 5 => if q.pValid then w.setPort port { q with step := 6 } else w
    | 6 => (w.setPort port { q with delay := r.delay }).portUpNow port
    | _ => w)

/-- TRAINING_STEP_TIMEOUT (R382, R386): a step that exceeds its limit fails; no signal on any lane means EDGE. -/
def execTrainTimeout (port : Nat) (s : State) : Host.Outcome State Fault Refusal :=
  run s (fun w => w.when ((s.port port).st = 1) (fun w => w.trainFail port (if (s.port port).step ≤ 1 then 3 else 0)))

/-- SIGNAL_QUIET_TIMEOUT (R386). -/
def execSignalQuiet (port : Nat) (s : State) : Host.Outcome State Fault Refusal :=
  run s (fun w =>
    let q := s.port port
    w.when (q.st = 3 || q.st = 4) (·.setPort port { q with quiet := true }))

/-- SIGNAL_DETECT (R386): signal on enough lanes after the quiet; the port trains again. -/
def execSignalDetect (port lanes : Nat) (s : State) : Host.Outcome State Fault Refusal :=
  run s (fun w =>
    let q := s.port port
    if (q.st = 3 ∨ q.st = 4) ∧ q.quiet ∧ (if port < 4 then 4 else 2) ≤ lanes then
      w.setPort port { q with prior := some q.st, st := 1, step := 1, quiet := false }
    else w)

/-- HELLO (R381–R384): it pairs the port, whose width is then what the lanes good on both sides allow, or loses a port that was UP. A
partner that is not the opposite port makes the port DOWN, also in a training anew. SLOT_MISMATCH is set when the port comes
UP, and a later training with a partner that fits leaves it set (DESIGN CHOICE, log entry 40: R30 and R384 do not say that it
clears). -/
def execHello (port : Nat) (ident : HelloBody) (s : State) : Host.Outcome State Fault Refusal :=
  run s (fun w =>
    let q := s.port port
    if q.st = 2 then w.portLost port 5
    else if q.st ≠ 1 ∨ q.step ≠ 5 then w
    else
      let opposite := if portUp port then port + 1 else port - 1
      let mask := q.goodRx &&& ident.goodLanes
      let wd := widthFor port mask
      let w := w.setPort port
        { q with
          pPort := ident.port, pSlot := ident.slot, pValid := true, pSerial := ident.serial, pStraps := ident.straps
          txW := wd, rxW := wd, txLanes := lanesFor port mask, rxLanes := lanesFor port mask, goodTx := mask, goodRx := mask }
      if ident.port ≠ opposite then
        ((w.modPort port (fun q => { q with prior := none })).record 0x4003 3 (srcPort port) ident.port ident.slot 0).trainFail port 0
      else if wd = 0 then w.trainFail port 0
      else w.modPort port (fun q => { q with step := 6 }))

end Sys2Proof.Machine
end

