-- ==== Sys2Proof/Machine/Packets.lean ====
section
/-! DEFINITION. Hops of a packet through this package (R364–R371), data flits from a port (R375), and the packets that
arrive for this package: ingress checks, writes, reads, arrivals, collectives and responses (R52, R53, R348,
R357, R358, R361, R371, R395). -/

namespace Sys2Proof.Machine

/-! ### Hops and frames (R364, R373, R375) -/

/-- The context that a flit's JOB names here (R348, R354). -/
def jobCtx (s : State) (job : Nat) : Option Nat :=
  (List.range 16).find? (fun c =>
    decide ((s.ctx c).st ≠ .closed) && decide ((s.ctx c).job ≠ 0xFFFF) && decide (lowBits 12 (s.ctx c).job = job))

/-- An uncorrectable flit at a router is recorded and poisons its context's attempt (R364). -/
def Work.meshError (w : Work) (p : Parcel) (meshUe : Option Nat) : Work :=
  match meshUe with
  | none => w
  | some k =>
    let c := jobCtx w.s p.tag.job
    let w := w.recordCtx 0x100C 4 (srcTile (k / 4)) (k % 4) p.tag.turn p.tag.attempt c
    match c with
    | some c => w.poison c 7
    | none => w

/-- ROUTE_HOP (R364–R371): a packet at a router, in the hub or just in from a port takes its way through this package, link
by link. `meshUe` is 4 × mesh number + link of a router that found its flit uncorrectable: the packet is marked and the
attempt poisoned. -/
def execRouteHop (p : Parcel) (from_ : Stand) (meshUe : Option Nat) (s : State) :
    Host.Outcome State Fault Refusal :=
  run s (fun w =>
    let w := w.meshError p meshUe
    w.arrive from_ { p with pkt := { p.pkt with poison := p.pkt.poison || meshUe.isSome } })

/-- DATA_FRAME (R372, R373, R375, R379): the frame of a flit from the line, with the bytes that differ from it as it was sent. -/
def execDataFrame (port : Nat) (flit : List Byte) (line : LineErrors) (s : State) : Host.Outcome State Fault Refusal :=
  run s (fun w =>
    let q := s.port port
    let bad := fun (w : Work) =>
      let w := w.modPort port (fun q => { q with crcErr := satAdd 32 q.crcErr 1 })
      if q.rxChange.isSome then w else w.nak port
    if q.st ≠ 2 then w
    else if ¬ line.corrects then bad w
    else
      let bs := flit
      let w := w.modPort port (·.countErrors line)
      let tr := ofLe (slice bs 250 6)
      if flitCrc (bs.take 250) (tr % 2 ^ 28) ≠ bits tr 47 28 then bad w
      else if bit tr 27 then w
      else
        let w := w.acked port (bits tr 23 12)
        let d := modSub 12 (bits tr 11 0) q.x
        if q.rxChange.isSome then w
        else if d = 0 then (w.acceptFlit port (bits tr 26 24)).each (flitParcels bs) (fun w p => w.arrive (.port port) p)
        else if d < 1024 then w.nak port
        else w)

/-! ### Packets for this package (R52, R53, R348, R357, R358) -/

/-- The tag is that of the attempt the context runs, or the packet belongs to none (R53, R355). -/
def current (s : State) (c : Nat) (t : Tag) : Bool :=
  let u := (s.ctx c).turn
  t.untagged || (u.started && decide (1 ≤ u.phase) && decide (u.phase ≤ 4) && decide (t.turn = u.num) && decide (t.attempt = u.attempt))

/-- The bytes of a packet. -/
def Packet.payload (p : Packet) : List Byte := padTo p.len p.data

/-- A response to a packet's source (R356, R357). -/
def Work.respond (w : Work) (p : Parcel) (type len : Nat) (data : List Byte) (poison : Bool) : Work :=
  w.send (.parcel { vc := 1, tag := p.tag, pkt := { mkPacket w.s type len p.pkt.src 0 p.pkt.tag data with poison := poison } })

/-- A packet fails the ingress check (R348). -/
def Work.deny (w : Work) (p : Parcel) (answer : Bool) : Work :=
  let w := w.record 0x4005 4 srcPackage (rankNum p.pkt.src) p.tag.job (p.pkt.addr / 4096)
  if answer then w.respond p 8 0 [] false else w

/-- The ingress check, and the epoch tag: `f` acts on a packet that passes both (R53, R348). -/
def Work.ingress (w : Work) (p : Parcel) (answer : Bool) (f : Nat → Work → Work) : Work :=
  match jobCtx w.s p.tag.job with
  | none => w.deny p answer
  | some c =>
    if ¬ allocated (w.s.ctx c) p.pkt.addr (Nat.max 1 p.pkt.len) then w.deny p answer
    else if ¬ current w.s c p.tag then w
    else f c w

/-- A packet's data are written, then its arrival is on its way (R52, R358). -/
def Work.landWrite (w : Work) (p : Packet) : Work :=
  let w := w.storeBytes p.addr p.payload p.poison
  if p.sig then { w with s.arrivals := w.s.arrivals ++ [(p.sigTile, p.sigTally)] } else w

/-- The region that a packet of a type is for: that of its arrival's tile, or of its tile window (R66). -/
def targetRegion (type : Nat) (p : Packet) : Option Nat :=
  if type = 5 then some (p.sigTile / 11)
  else if inTiles p.addr then some ((p.addr - tileWindowBase) / 0x10000000 / 11)
  else none

/-- A region that does not run keeps packets for it waiting (R66). -/
def Region.keepsOut (g : Region) : Bool := g.pwr ≠ .run || g.entering.isSome || g.waking.isSome

/-- A packet acts by `f`, or wakes its region and waits in the die fabric's ingress buffers (R66). -/
def Work.atRegion (w : Work) (type : Nat) (p : Parcel) (u : List Upset) (f : Work → Work) : Work :=
  match targetRegion type p.pkt with
  | none => f w
  | some r =>
    if ¬ (w.s.region r).keepsOut then f w
    else
      (w.modRegion r (fun g => { g with ingress := g.ingress ++ [({ p with pkt := { p.pkt with type := type } }, u)] })).wakeRegion
        r true 20

/-- An ARRIVAL's arrival is on its way (R52, R53, R357). -/
def Work.takeArrival (w : Work) (p : Parcel) : Work :=
  match jobCtx w.s p.tag.job with
  | none => w
  | some c =>
    if ¬ current w.s c p.tag ∨ ¬ (ctxTiles (w.s.ctx c)).contains p.pkt.sigTile then w
    else w.atRegion 5 p [] (fun w => { w with s.arrivals := w.s.arrivals ++ [(p.pkt.sigTile, p.pkt.sigTally)] })

/-- A READ's data go back (R332, R357). -/
def Work.takeRead (w : Work) (p : Parcel) (u : List Upset) : Work :=
  let a := p.pkt.addr
  let bad := w.badRange u a p.pkt.len
  let (bs, w) := w.load a p.pkt.len
  (w.meetsHost srcPackage u).respond p 3 p.pkt.len bs bad

/-- A packet for this package's memory, by its type: checked, held where its region does not run, carried out (R66, R348,
R357). -/
def Work.packet (w : Work) (type : Nat) (p : Parcel) (u : List Upset) : Work :=
  match type with
  | 1 => w.ingress p true (fun _ w => w.atRegion 1 p u (fun w => (w.landWrite p.pkt).respond p 4 4 (leBytes 4 1) false))
  | 2 => w.ingress p true (fun _ w => w.atRegion 2 p u (fun w => w.takeRead p u))
  | 5 => w.takeArrival p
  | k => w.ingress p false (fun _ w => w.atRegion k p u (fun w => w.landWrite p.pkt))

/-- WRITE (R348, R357, R358). -/
def execPktWrite (p : Parcel) (s : State) : Host.Outcome State Fault Refusal := run s (·.packet 0 p [])

/-- WRITE_ACKED (R348, R357, R361): written, then acknowledged. -/
def execPktWriteAcked (p : Parcel) (s : State) : Host.Outcome State Fault Refusal := run s (·.packet 1 p [])

/-- COLLECTIVE (R395): checked as a WRITE is. -/
def execPktCollective (p : Parcel) (s : State) : Host.Outcome State Fault Refusal := run s (·.packet 6 p [])

/-- READ (R332, R348, R357): the data go back, poisoned where a word or sector fails. -/
def execPktRead (p : Parcel) (u : List Upset) (s : State) : Host.Outcome State Fault Refusal := run s (·.packet 2 p u)

/-- ARRIVAL (R52, R53, R357). -/
def execPktArrival (p : Parcel) (s : State) : Host.Outcome State Fault Refusal := run s (·.packet 5 p [])

/-! ### Wakes that packets wait for (R66, R67) -/

/-- A tile of the region has a head move that could issue if the region ran (R66). -/
def wantsWake (s : State) (r : Nat) : Bool :=
  match (s.region r).holder with
  | none => false
  | some c => (List.range 11).any (fun k => couldIssue s c (11 * r + k) && headFits s (11 * r + k))

/-- DEMAND_WAKE (R66): a head move that could issue, or a packet, wakes the region; the ramp is 1 µs (R531). -/
def execDemandWake (region : Nat) (s : State) : Host.Outcome State Fault Refusal :=
  run s (fun w =>
    let g := s.region region
    w.when ((g.pwr ≠ .run || g.want.isSome || g.entering.isSome) && (wantsWake s region || !g.ingress.isEmpty))
      (·.wakeRegion region true 20))

/-- REGION_WAKE_DONE (R66, R67): the region runs again and its clock ramps up; the packets that waited for it go in. -/
def execRegionWakeDone (region : Nat) (s : State) : Host.Outcome State Fault Refusal :=
  run s (fun w =>
    let g := s.region region
    if g.waking ≠ some .run then w
    else
      let w := w.setRegion region
        { g with pwr := .run, waking := none, lead := 0, mhz := allowedMhz s g, lastStep := s.now, ingress := [] }
      let w := (w.tracePower region).startRamp region
      let top := Nat.max s.power.vcoreMhz (allowedMhz s g)
      let w := { w with s.power.vcoreMhz := top }
      (w.each g.ingress (fun w q => w.packet q.1.pkt.type q.1 q.2)).tryEntry region)

/-! ### Responses (R348, R357, R371) -/

/-- A request of this package by the tag of a response of its kind. -/
def answered (s : State) (p : Parcel) (write : Bool) : Option Request :=
  s.requests.find? (fun q => q.tag = p.pkt.tag && q.write == write && q.untagged == p.tag.untagged)

/-- Requests that need no answer any more go; a command with none left replies (R357, R435). -/
def Work.settle (w : Work) (qs : List Request) (owner : Owner) : Work :=
  let w := { w with s.requests := w.s.requests.filter (fun q => !qs.contains q) }
  match owner with
  | .command ring index =>
    match w.s.actives.find? (fun a => a.ring = ring && a.index = index) with
    | some a =>
      match a.wait with
      | .remote bytes => if owing w.s a then w else w.reply a stDone 0 0 bytes
      | _ => w
    | none => w
  | _ => w

/-- Read data go where their request says (R357, R358). -/
def Work.deliver (w : Work) (q : Request) (bs : List Byte) (poison : Bool) : Work :=
  match q.dest with
  | .host fn a => w.wrHost fn a bs
  | .mem a => w.storeBytes a bs poison
  | .space id off => w.putSpace id off bs
  | .board b => w.writeRemote q.ctx (freeTag w.s q.ctx) b bs poison q.owner
  | .none => w

/-- READ_RESP (R332, R357, R358): a host command whose data come poisoned completes with FAULT_MEMORY. -/
def execPktReadResp (p : Parcel) (s : State) : Host.Outcome State Fault Refusal :=
  run s (fun w =>
    match answered s p false with
    | none => w
    | some q =>
      match p.pkt.poison, q.owner with
      | true, .command ring index =>
        let w := { w with s.requests := w.s.requests.filter (fun r => r.owner ≠ q.owner) }
        match w.s.actives.find? (fun a => a.ring = ring && a.index = index) with
        | some a => w.reply a stMemory 1 0 0
        | none => w
      | _, _ => (w.deliver q p.pkt.payload p.pkt.poison).settle [q] q.owner)

/-- WRITE_ACK (R357): the writes of one requester to the package that answers, up to the one that TAG names, as many as the
count says. -/
def execPktWriteAck (p : Parcel) (s : State) : Host.Outcome State Fault Refusal :=
  run s (fun w =>
    match answered s p true with
    | none => w
    | some q =>
      let mine := s.requests.filter (fun r => r.write && r.owner = q.owner && r.to_ = q.to_)
      let upTo := mine.filter (fun r => decide (modSub 16 q.tag r.tag < 2 ^ 15))
      let n := Nat.max 1 (ofLe (p.pkt.payload.take 4))
      w.settle (upTo.drop (upTo.length - n)) q.owner)

/-- ERROR_RESP (R348, R371): from the package that was asked, an ingress refusal, which stops the context; from another, a
destination that is missing. -/
def execPktErrorResp (p : Parcel) (s : State) : Host.Outcome State Fault Refusal :=
  run s (fun w =>
    match s.requests.find? (fun q => q.tag = p.pkt.tag && q.untagged == p.tag.untagged) with
    | none => w
    | some q =>
      if p.pkt.src ≠ q.to_ then w.requestLost q
      else
        let w := { w with s.requests := w.s.requests.filter (fun r => r.owner ≠ q.owner) }
        let w := w.faultStop q.ctx stTranslation 0
        match q.owner with
        | .command ring index =>
          match w.s.actives.find? (fun a => a.ring = ring && a.index = index) with
          | some a => w.reply a stTranslation 0 0 0
          | none => w
        | _ => w)

end Sys2Proof.Machine
end

