-- ==== Sys2Proof/Machine/Form.lean ====
section
/-! DEFINITION. Forming the system, jobs, joining and the Banker (chapter 13, R404–R411), lost packages and re-homes as the
Banker and the reserve package see them (chapter 16, R492–R498). A SYS command acts the same from a ring and from the
management port: each has one function over the started command. -/

namespace Sys2Proof.Machine

/-! ### Probes and reports (R406, R551) -/

/-- FORM_PROBE goes out through every UP port but one (R406). -/
def Work.sendProbes (w : Work) (except : Option Nat) (epoch delaySum : Nat) : Work :=
  w.each ((List.range 6).filter (fun p => decide ((w.s.port p).st = 2) && decide (except ≠ some p)))
    (fun w p => w.send (.control (.probe p epoch delaySum)))

/-- SYS_FORM, OP 0 (R404–R407, R465, R551): an extent of 0xFF in all three fields is none. -/
def Work.formSystem (w : Work) (a : Active) (ex ey ez : Nat) : Work :=
  let f := w.s.form
  if (if f.form = 2 then ¬ f.banker else ¬ w.s.pins.bankerEn) then w.refuse a rsNotBanker
  else if w.s.boot.level < 4 ∨ f.form = 1 ∨ f.form = 2 then w.refuse a rsState
  else
    let expect : Option Xyz :=
      if ex = 0xFF ∧ ey = 0xFF ∧ ez = 0xFF then none else some { x := ex + 1, y := ey + 1, z := ez + 1 }
    let epoch := if f.epoch = 0 then 1 else wrapAdd 16 f.epoch 1
    let w := { w with
      s.form := { f with form := 1, epoch := epoch, probeEpoch := some epoch, parent := none }
      s.bank := { expect := expect, reports := [ownReport w.s 0] } }
    ((w.await a .form true).signal 0x052).sendProbes none epoch 0

/-- SYS_FORM, OP 0. -/
def execSysFormForm (h : Hdr) (ex ey ez : Nat) (s : State) : Host.Outcome State Fault Refusal :=
  run s (·.command h 0x71 14 true .always (fun a w => w.formSystem a ex ey ez))

/-- FORM_PROBE (R406, R551): the first of an epoch is sent on and answered; below the system level there is no answer. -/
def execFormProbe (port epoch delaySum : Nat) (s : State) : Host.Outcome State Fault Refusal :=
  run s (fun w =>
    if s.boot.level < 4 ∨ s.form.form = 2 ∨ s.form.probeEpoch = some epoch then w
    else
      let sum := delaySum + (s.port port).delay
      let w := { w with s.form := { s.form with form := 1, epoch := epoch, probeEpoch := some epoch, parent := some port } }
      ((w.signal 0x052).sendProbes (some port) epoch sum).send (.control (.report (some port) (ownReport w.s sum))))

/-- The SYS_FORM that forms the system from this package. -/
def forming (s : State) : Option Active := s.actives.find? (fun a => a.wait = Await.form)

/-- FORM_REPORT (R406): noted by the Banker, sent on towards it by any other package. -/
def execFormReport (r : PkgReport) (s : State) : Host.Outcome State Fault Refusal :=
  run s (fun w =>
    if s.form.form ≠ 1 then w
    else if (forming s).isSome then
      { w with s.bank.reports := s.bank.reports.filter (fun q => q.serial ≠ r.serial) ++ [r] }
    else w.send (.control (.report s.form.parent r)))

/-! ### Placement (R404, R406, R407) -/

/-- The port that faces a port (R383). -/
def opposite (port : Nat) : Nat := if portUp port then port + 1 else port - 1

/-- The report of a SERIAL. -/
def reportOf (rs : List PkgReport) (serial : Nat) : Option PkgReport := rs.find? (fun r => r.serial = serial)

/-- The UP ports of a report: port, partner's SERIAL, partner's port. -/
def PkgReport.links (r : PkgReport) : List (Nat × Nat × Nat) :=
  (List.range 6).filterMap (fun p => match r.ports[p]? with | some (2, s, q) => some (p, s, q) | _ => none)

/-- The state of a port in a report. -/
def PkgReport.portSt (r : PkgReport) (port : Nat) : Nat := (r.ports.getD port (0, 0, 0)).1

/-- The coordinates of a SERIAL in a placement under way. -/
def spotOf (ps : List (Nat × Xyz)) (serial : Nat) : Option Xyz := (ps.find? (fun q => q.1 = serial)).map (·.2)

/-- One round: the reported partners of placed packages get their coordinates. -/
def spread (rs : List PkgReport) (ps : List (Nat × Xyz)) : List (Nat × Xyz) :=
  rs.foldl (fun ps r =>
    match spotOf ps r.serial with
    | none => ps
    | some at_ =>
      r.links.foldl (fun ps k =>
        match at_.step k.1 with
        | some n => if (reportOf rs k.2.1).isSome ∧ (spotOf ps k.2.1).isNone then ps ++ [(k.2.1, n)] else ps
        | none => ps) ps) ps

/-- Every reported package with its coordinates, from the one whose XN, YN and ZN ports are EDGE at (0, 0, 0); none where
the adjacency does not give one place to each (R406, R407, SHAPE). -/
def layout (rs : List PkgReport) : Option (List (PkgReport × Xyz)) :=
  match rs.filter (fun r => [1, 3, 5].all (fun p => decide (r.portSt p = 3))) with
  | [o] =>
    let ps := (List.range rs.length).foldl (fun ps _ => spread rs ps) [(o.serial, {})]
    let ok := rs.all (fun r =>
      match spotOf ps r.serial with
      | none => false
      | some at_ =>
        r.links.all (fun k => decide (k.2.2 = opposite k.1) &&
          (match reportOf rs k.2.1 with
          | none => true
          | some _ => spotOf ps k.2.1 = at_.step k.1)))
    let spots := ps.map (·.2)
    if ok ∧ pairwise (fun a b => decide (a ≠ b)) spots then
      some (rs.filterMap (fun r => (spotOf ps r.serial).map (fun at_ => (r, at_))))
    else none
  | _ => none

/-- The coordinates lie in a box that starts at (0, 0, 0). -/
def within (ext : Xyz) (p : Xyz) : Bool := decide (p.x < ext.x) && decide (p.y < ext.y) && decide (p.z < ext.z)

/-- Every coordinate of a box. -/
def boxOf (ext : Xyz) : List Xyz :=
  (List.range ext.z).flatMap (fun z => (List.range ext.y).flatMap (fun y => (List.range ext.x).map (fun x => { x := x, y := y, z := z })))

/-- The port leads into the box. -/
def leadsIn (ext : Xyz) (at_ : Xyz) (port : Nat) : Bool := match at_.step port with | some n => within ext n | none => false

/-- The placement of the reported packages, or the lowest refusal reason of R407 that applies. -/
def placement (rs : List PkgReport) (expect : Option Xyz) : Except Nat (List Placed × List Xyz) :=
  match layout rs with
  | none => .error 1
  | some ps =>
    let ext := extentOf (ps.map (·.2))
    let missing := (boxOf ext).filter (fun c => !ps.any (fun p => decide (p.2 = c)))
    let edge := ps.all (fun p => (List.range 6).all (fun k => leadsIn ext p.2 k != decide (p.1.portSt k = 3)))
    let slot := ps.all (fun p => decide (p.1.slot = p.2.x % 4 + 4 * (p.2.y % 4)))
    if ¬ edge then .error 2
    else if ¬ slot then .error 3
    else if 16 < ext.x ∨ 16 < ext.y ∨ 16 < ext.z ∨ (expect.getD ext) ≠ ext then .error 4
    else
      let placed : List Placed := ps.map (fun p =>
        { at_ := p.2, serial := p.1.serial, bankerEn := p.1.bankerEn, standbyEn := p.1.standbyEn, slot := p.1.slot
          delaySum := p.1.delaySum, lost := p.1.lostPorts })
      if ¬ spaced (faults placed missing) then .error 5 else .ok (placed, missing)

/-- FORM_QUIET_TIMEOUT (R404–R407): the reports are placed and checked. A package that is not of lowest SERIAL among those
strapped BANKER_EN is not the Banker. -/
def execFormQuiet (s : State) : Host.Outcome State Fault Refusal :=
  run s (fun w =>
    match forming s with
    | none => w
    | some a =>
      if s.form.form ≠ 1 then w
      else match placement s.bank.reports s.bank.expect with
      | .error r =>
        ((({ w with s.form.form := 3 }).record 0x5001 4 srcSystem r 0 0).signal 0x052).reply a stFlagged r 0 0
      | .ok (ps, missing) =>
        if (lowestSerial ps (fun p => p.bankerEn)).map (·.serial) = some Config.serial then w.enactFormed ps missing
        else (({ w with s.form.form := 0 }).signal 0x052).refuse a rsNotBanker)

/-! ### Epochs (R411, R496) -/

/-- Epoch `a` is higher than `b` (R411). -/
def epochAbove (a b : Nat) : Bool := let d := modSub 16 a b; decide (1 ≤ d) && decide (d ≤ 32767)

/-- Contexts of this package that hold a role in a job of several packages. -/
def roleContexts (w : Work) : List Nat :=
  (List.range 16).filter (fun c => decide ((w.s.ctx c).st ≠ .closed) && !w.solo c)

/-- A higher epoch than the package's own: it is followed, and a former Banker becomes an ordinary package that has lost its
formation state (R411, R496). -/
def Work.follow (w : Work) (epoch : Nat) : Work :=
  if ¬ epochAbove epoch w.s.form.epoch then w
  else
    let was := w.s.form.banker
    let w := { w with s.form := { w.s.form with epoch := epoch, banker := false } }
    if ¬ was then w
    else
      let sys := w.s.actives.filter (fun a => match a.wait with
        | .join _ | .place _ | .rehome _ | .exclude _ => true
        | _ => false)
      let w := { w with s.bank := {}, s.time := { w.s.time with root := false, state := 1, goodSince := none } }
      let w := (w.each sys (fun w a => w.refuse a rsNotBanker)).signal 0x052
      match roleContexts w with
      | [] => w
      | cs => (w.each cs (fun w c => w.faultStop c stLink 0)).send (.closing (.lost w.s.here 1 w.s.here))

/-- A CONTROL message of the formed system: one of a lower epoch is ignored (R411). -/
def Work.control (w : Work) (epoch : Nat) (f : Work → Work) : Work :=
  if w.s.form.form ≠ 2 ∨ epochAbove w.s.form.epoch epoch then w else f (w.follow epoch)

/-! ### Assignment, acknowledgement, joining (R406, R409, R412) -/

/-- FORM_ASSIGN (R406, R409, R412): this package's sets its place and, once, its fabric time; another's is sent on. -/
def execFormAssign (a : Assign) (s : State) : Host.Outcome State Fault Refusal :=
  run s (fun w =>
    if a.serial ≠ Config.serial then w.send (.control (.assign a))
    else if s.form.form = 2 ∨ s.boot.level < 4 ∨ epochAbove s.form.epoch a.epoch then w
    else
      let w := { w with
        s.time := { s.time with count := lowBits 64 (a.time + a.delay), interp := 0, slew := 0, slewTicks := 0, isSet := true } }
      (w.placed a).send (.control (.ack a.serial)))

/-- FORM_ACK (R406, R409): at the Banker it may complete SYS_FORM or a SYS_JOIN; elsewhere it is sent on. -/
def execFormAck (serial : Nat) (s : State) : Host.Outcome State Fault Refusal :=
  run s (fun w =>
    if ¬ s.form.banker then w.send (.control (.ack serial))
    else
      match s.bank.placed.find? (fun p => p.serial = serial) with
      | none => w
      | some p =>
        let w := { w with s.bank.acks := insertNat serial s.bank.acks }
        w.formDone.answerAll (fun v => decide (v = Await.join p.at_)) stDone 0 0)

/-- A SYS command that needs the Banker of a formed system (R465). -/
def Work.asBanker (w : Work) (a : Active) (f : Work → Work) : Work :=
  if w.s.form.form = 2 then (if w.s.form.banker then f w else w.refuse a rsNotBanker)
  else w.refuse a (if w.s.pins.bankerEn then rsState else rsNotBanker)

/-- SYS_JOIN (R409): a reported package whose coordinate is missing and whose slot fits is admitted. -/
def Work.joinPackage (w : Work) (a : Active) (at_ : Xyz) : Work :=
  w.asBanker a (fun w =>
    match w.s.bank.candidates.find? (fun c => c.1 = at_) with
    | none => w.refuse a rsState
    | some (_, r) =>
      if ¬ w.s.missingNow.contains at_ ∨ r.slot ≠ at_.x % 4 + 4 * (at_.y % 4) then w.refuse a rsState
      else
        let p : Placed :=
          { at_ := at_, serial := r.serial, bankerEn := r.bankerEn, standbyEn := r.standbyEn, slot := r.slot
            delaySum := r.delaySum, lost := r.lostPorts }
        (w.await a (.join at_) true).decideBy (.joined p) (fun w => w.enactJoined p))

/-- SYS_JOIN. -/
def execSysJoin (h : Hdr) (x y z : Nat) (s : State) : Host.Outcome State Fault Refusal :=
  run s (·.command h 0x70 3 true .always (fun a w => w.joinPackage a { x := x, y := y, z := z }))

/-- JOIN_REPORT (R370, R386, R409): a neighbour of the new package names its port; the newest report of a coordinate counts.
The link is no longer LOST. -/
def execJoinReport (neighbour : Xyz) (port : Nat) (r : PkgReport) (s : State) : Host.Outcome State Fault Refusal :=
  run s (fun w =>
    match s.bank.placed.find? (fun p => p.at_ = neighbour), neighbour.step port with
    | some p, some at_ =>
      if ¬ s.form.banker then w
      else
        let b := s.bank.setLost neighbour at_ false
        if s.missingNow.contains at_ then
          let cs := b.candidates.filter (fun c => c.1 ≠ at_) ++ [(at_, { r with delaySum := p.delaySum + r.delaySum })]
          { w with s.bank := { b with candidates := cs } }
        else { w with s.bank := b.setLost at_ neighbour false }
    | _, _ => w)

/-- MISSING_LIST (R410). -/
def execMissingList (epoch : Nat) (list : List Xyz) (s : State) : Host.Outcome State Fault Refusal :=
  run s (·.control epoch (fun w => w.setMissing list))

/-! ### Jobs (R390, R408, R454) -/

/-- Jobs that the table holds or will hold. -/
def allJobs (b : Bank) : List Job := b.jobs ++ b.waiting.filterMap (fun p => match p.2 with | .place j => some j | _ => none)

/-- SYS_FORM, OP 1 (R408). -/
def Work.placeJob (w : Work) (a : Active) (origin shape : Xyz) : Work :=
  w.asBanker a (fun w =>
    let js := allJobs w.s.bank
    let box : Job := { job := 0, origin := origin, shape := shape, moved := [] }
    let cells := box.ranks.map box.at
    let free := (List.range 4095).find? (fun k => !js.any (fun j => decide (j.job = k)))
    let fits := decide (0 < shape.x) && decide (0 < shape.y) && decide (0 < shape.z) &&
      decide (origin.x + shape.x ≤ w.s.form.ext.x) && decide (origin.y + shape.y ≤ w.s.form.ext.y) &&
      decide (origin.z + shape.z ≤ w.s.form.ext.z)
    let taken := cells.any (fun p => w.s.missingNow.contains p || js.any (fun j => j.inBox p) || (w.s.bank.roleOf p).isSome)
    match free with
    | some k =>
      if ¬ fits ∨ taken then w.reply a stFlagged 6 0 0
      else
        let j := { box with job := k }
        (w.await a (.place k) true).decideBy (.place j) (fun w => w.enactPlace j)
    | none => w.reply a stFlagged 6 0 0)

/-- SYS_FORM, OP 1. -/
def execSysFormPlace (h : Hdr) (origin shape : Xyz) (s : State) : Host.Outcome State Fault Refusal :=
  run s (·.command h 0x71 14 true .always (fun a w => w.placeJob a origin shape))

/-- SYS_FORM, OP 2 (R454). The spec gives no reply for a job that does not exist: its status is free. -/
def Work.removeJob (w : Work) (a : Active) (job : Nat) : Work :=
  w.asBanker a (fun w =>
    if w.s.bank.jobs.any (fun j => decide (j.job = job)) then
      (w.await a (.place job) true).decideBy (.remove job) (fun w => w.enactRemove job)
    else
      let (v, w) := w.draw
      w.reply a (lowBits 8 v) 0 0 0)

/-- SYS_FORM, OP 2. -/
def execSysFormRemove (h : Hdr) (job : Nat) (s : State) : Host.Outcome State Fault Refusal :=
  run s (·.command h 0x71 14 true .always (fun a w => w.removeJob a job))

/-! ### Banker and standby (R283, R404, R405, R411) -/

/-- STANDBY_RECORD (R405): recorded and acknowledged. Of the COMMITs of one job the newest counts. -/
def execStandbyRecord (epoch seq : Nat) (d : Decision) (s : State) : Host.Outcome State Fault Refusal :=
  run s (·.control epoch (fun w =>
    let keep := fun (e : Decision) => match e, d with
      | .commit k _ _, .commit k' _ _ => decide (k ≠ k')
      | _, .formed _ _ => false
      | _, _ => true
    if w.s.form.banker then w
    else
      ({ w with s.form := { w.s.form with standby := true, recorded := w.s.form.recorded.filter keep ++ [d] } }).send
        (.control (.standbyAck epoch seq))))

/-- STANDBY_ACK (R283, R405): the decision takes effect. -/
def execStandbyAck (epoch seq : Nat) (s : State) : Host.Outcome State Fault Refusal :=
  run s (fun w =>
    if ¬ s.form.banker ∨ epoch ≠ s.form.epoch then w
    else
      match s.bank.waiting.find? (fun p => p.1 = seq) with
      | none => w
      | some (_, d) => ({ w with s.bank.waiting := s.bank.waiting.filter (fun p => p.1 ≠ seq) }).enact d)

/-- BANKER_HEARTBEAT (R411). -/
def execBankerHeartbeat (s : State) : Host.Outcome State Fault Refusal :=
  run s (fun w => w.when (s.form.form = 2 && s.form.banker) (·.send (.control (.heartbeat s.form.epoch s.here))))

/-- HEARTBEAT_RECEIVED (R411, R496): the highest epoch is followed, and the heartbeat goes on down the parent tree. -/
def execHeartbeat (epoch : Nat) (banker : Xyz) (s : State) : Host.Outcome State Fault Refusal :=
  run s (·.control epoch (fun w =>
    if w.s.form.banker then w
    else
      ({ w with s.form := { w.s.form with bankerAt := banker, lastBeat := w.s.now } }).send (.control (.heartbeat epoch banker))))

/-- The formation state with one recorded decision taken into it (R405, R411). -/
def relive (f : Bank × List Xyz) : Decision → Bank × List Xyz
  | .formed ps missing => ({ f.1 with placed := ps }, missing)
  | .place j => ({ f.1 with jobs := f.1.jobs ++ [j] }, f.2)
  | .remove job => ({ f.1 with jobs := f.1.jobs.filter (fun j => j.job ≠ job) }, f.2)
  | .joined p => ({ f.1 with placed := f.1.placed.filter (fun q => q.at_ ≠ p.at_) ++ [p] }, f.2.filter (fun m => m ≠ p.at_))
  | .lost at_ => (f.1, f.2 ++ [at_])
  | .assign job rank to_ =>
    ({ f.1 with jobs := f.1.jobs.map (fun j =>
        if j.job = job then { j with moved := j.moved.filter (fun p => p.1 ≠ rank) ++ [(rank, to_)] } else j) }, f.2)
  | .exclude at_ out =>
    ({ f.1 with excluded := let rest := f.1.excluded.filter (fun p => p ≠ at_); if out then rest ++ [at_] else rest }, f.2)
  | .commit _ _ _ => f
  | .cancel _ _ => f

/-- The recorded COMMIT of a job. -/
def lastCommit (ds : List Decision) (key : Nat) : Option (Nat × Nat) :=
  ds.findSome? (fun d => match d with | .commit k turn attempt => if k = key then some (turn, attempt) else none | _ => none)

/-- An attempt under way of this package has no recorded COMMIT: REPLAY (R283, R411). -/
def Work.replayOwn (w : Work) (c : Nat) : Work :=
  let x := w.s.ctx c
  let t := x.turn
  if ¬ t.started ∨ t.phase < 1 ∨ 4 < t.phase ∨
      w.s.form.recorded.contains (.commit (keyOf x c) t.num t.attempt) then w
  else
    (w.setJob (keyOf x c) { turn := t.num, attempt := t.attempt, gone := true, poisoned := true }).send
      (.closing (.replay (keyOf x c) t.num t.attempt 6))

/-- HEARTBEAT_TIMEOUT (R283, R404, R411): 100 µs without a heartbeat. The standby takes over; in a system without one every job
stops. It holds no Turn of a job in which it has no role: its REPLAY names the attempt under way there, unless the recorded
COMMIT settles it (log entry 43). -/
def execHeartbeatTimeout (s : State) : Host.Outcome State Fault Refusal :=
  run s (fun w =>
    if s.form.form ≠ 2 ∨ s.form.banker ∨ s.now < s.form.lastBeat + 100000 then w
    else if ¬ s.form.standby then
      if s.form.standbyAt.isSome then w else w.each (roleContexts w) (fun w c => w.faultStop c stRehome 0)
    else
      let epoch := wrapAdd 16 s.form.epoch 1
      let old := s.form.bankerAt
      let (b, missing) := s.form.recorded.foldl relive ({}, s.form.missing)
      let t := s.now
      let w := { w with
        s.form := { s.form with
          epoch := epoch, banker := true, standby := false, bankerAt := s.here, standbyAt := none
          nextMissing := if missing = s.form.missing then s.form.nextMissing else some missing }
        s.bank := { b with alive := b.placed.foldl (fun (m : Table Nat) (p : Placed) => m.put 0 (rankNum p.at_) t) [] }
        s.time := { s.time with
          root := true, parent := 7, hops := 0, offset := 0, slew := 0, parentDelay := 0
          goodSince := some (s.time.goodSince.getD t), state := if s.time.state = 2 then 2 else 1 } }
      let w := (w.record 0x5004 5 srcSystem epoch 0 0).signal 0x052
      let w := w.send (.control (.heartbeat epoch s.here))
      let w := w.each s.form.recorded (fun w d => match d with
        | .commit key turn attempt => w.send (.closing (.commit key turn attempt))
        | _ => w)
      let w := w.each (roleContexts w) (fun w c => w.replayOwn c)
      let others := b.jobs.filter (fun j => (contextsOf w.s j.job).isEmpty)
      let w := w.each others (fun w j => w.send (.closing (.replayJob j.job (lastCommit s.form.recorded j.job) 6)))
      (w.nameStandby [old, s.here]).copyFormation)

/-! ### Lost packages (R492, R493) -/

/-- ALIVE (R492). -/
def execAlive (src : Xyz) (s : State) : Host.Outcome State Fault Refusal :=
  run s (fun w => w.when (s.form.banker && s.present src) (fun w => { w with s.bank.alive := s.bank.alive.put 0 (rankNum src) s.now }))

/-- ALIVE_TIMEOUT (R492): no ALIVE for 1 ms. -/
def execAliveTimeout (src : Xyz) (s : State) : Host.Outcome State Fault Refusal :=
  run s (fun w =>
    if ¬ s.form.banker ∨ s.now < s.bank.alive.get 0 (rankNum src) + 1000000 then w else w.declareLost src 2)

/-- The present packages one step away. -/
def facing (s : State) (p : Xyz) : Nat :=
  ((List.range 6).filter (fun k => match p.step k with | some n => s.present n | none => false)).length

/-- A port that faced a package is LOST; once all of them are within 1 ms of the first, so is the package (R492). -/
def Work.portReport (w : Work) (src by_ : Xyz) : Work :=
  let now := w.s.now
  let w := { w with s.bank := w.s.bank.setLost by_ src true }
  let (n, first) := match w.s.bank.lostPorts.find? (fun p => p.1 = src) with
    | some (_, n, first) => if now ≤ first + 1000000 then (n + 1, first) else (1, now)
    | none => (1, now)
  let w := { w with s.bank.lostPorts := w.s.bank.lostPorts.filter (fun p => p.1 ≠ src) ++ [(src, n, first)] }
  if facing w.s src ≤ n then w.declareLost src 0 else w

/-- LOST (R370, R492): cause 0 is the report of a port of `by_` that faced the package, any other the package's own message. -/
def execLost (src : Xyz) (cause : Nat) (by_ : Xyz) (s : State) : Host.Outcome State Fault Refusal :=
  run s (fun w =>
    if ¬ s.form.banker then w else if cause = 0 then w.portReport src by_ else w.declareLost src 1)

/-! ### SYS_REHOME (R497) -/

/-- SYS_REHOME, OP 0. -/
def Work.rehomeQuery (w : Work) (a : Active) : Work :=
  w.asBanker a (fun w => w.reply a stDone 0 w.s.bank.rehomes.length 0)

/-- SYS_REHOME, OP 0 (R497). -/
def execSysRehomeQuery (h : Hdr) (s : State) : Host.Outcome State Fault Refusal :=
  run s (·.command h 0x72 16 true .always (fun a w => w.rehomeQuery a))

/-- A Turn of the job runs: an attempt has had its GO, or is between two, and no COMMIT has come. -/
def turnRuns? (j : JobTurn) : Bool := (j.gone || j.poisoned || decide (0 < j.attempt)) && !j.committed

/-- SYS_REHOME, OP 1: the role moves after the running Turn's COMMIT. -/
def Work.rehomeMove (w : Work) (a : Active) (src dst : Xyz) : Work :=
  w.asBanker a (fun w =>
    let choice := decide (dst = { x := 0xFF, y := 0xFF, z := 0xFF })
    match w.s.bank.roleOf src with
    | none => w.refuse a rsState
    | some (job, _) =>
      if ¬ w.s.present src ∨ (¬ choice ∧ ¬ w.s.reserve dst) then w.refuse a rsState
      else
        let w := w.await a (.rehome src) true
        let w := { w with s.bank.moves :=
            w.s.bank.moves.filter (fun m => m.1 ≠ src) ++ [(src, if choice then none else some dst)] }
        if turnRuns? (w.s.job job) then w
        else
          let (v, w) := w.draw
          w.declareLost src (lowBits 32 v))

/-- SYS_REHOME, OP 1 (R497). -/
def execSysRehomeMove (h : Hdr) (src dst : Xyz) (s : State) : Host.Outcome State Fault Refusal :=
  run s (·.command h 0x72 16 true .always (fun a w => w.rehomeMove a src dst))

/-- SYS_REHOME, OP 2: the package is lost at once. -/
def Work.rehomeLost (w : Work) (a : Active) (src : Xyz) : Work :=
  w.asBanker a (fun w =>
    if ¬ w.s.present src then w.refuse a rsState
    else
      let w := w.await a (.rehome src) true
      let (v, w) := w.draw
      w.declareLost src (lowBits 32 v))

/-- SYS_REHOME, OP 2 (R493, R497). -/
def execSysRehomeDeclareLost (h : Hdr) (src : Xyz) (s : State) : Host.Outcome State Fault Refusal :=
  run s (·.command h 0x72 16 true .always (fun a w => w.rehomeLost a src))

/-- SYS_REHOME, OP 3. -/
def Work.rehomeExclude (w : Work) (a : Active) (flags : Nat) (src : Xyz) : Work :=
  w.asBanker a (fun w =>
    (w.await a (.exclude src) true).decideBy (.exclude src (bit flags 0)) (fun w => w.enactExclude src (bit flags 0)))

/-- SYS_REHOME, OP 3 (R497). -/
def execSysRehomeExclude (h : Hdr) (flags : Nat) (src : Xyz) (s : State) : Host.Outcome State Fault Refusal :=
  run s (·.command h 0x72 16 true .always (fun a w => w.rehomeExclude a flags src))

/-! ### The reserve package (R493, R495, R498) -/

/-- REHOME_ASSIGN (R493, R498): a package without a role takes one over. -/
def execRehomeAssign (epoch job : Nat) (rank : Xyz) (s : State) : Host.Outcome State Fault Refusal :=
  run s (·.control epoch (fun w => if holdsRole w.s ∨ ¬ (roleContexts w).isEmpty then w else w.takeRole job rank))

/-- REHOME_COPY_DONE (R109, R160, R495): the successor's mirror of the lost role is here: each piece and table block in
`image`, by package address, and the small state. The role then reports READY at its next ATTEMPT_START. -/
def execRehomeCopyDone (c : Nat) (small : Small) (image : List (Nat × List Byte)) (s : State) :
    Host.Outcome State Fault Refusal :=
  run s (fun w =>
    let x := s.ctx c
    match x.running with
    | none => w
    | some b =>
      if x.st = .closed ∨ ¬ restoring s c ∨ ¬ x.turn.awaitCopy then w
      else
        let w := w.each image (fun w p => if inHbm p.1 then w.storeBytes p.1 p.2 false else w)
        let b := { b with
          started := true, mirrored := true
          recipes := small.recipes.foldl (fun (t : Table RecipeState) (p : Nat × RecipeState) => t.put { step := 0, b1p := 0, b2p := 0 } p.1 p.2) []
          variants := small.variants.foldl (fun (t : Table Variant) (p : Nat × Variant) => t.put {} p.1 p.2) [] }
        let lanes := small.lanes.foldl (fun (t : Table Nat) (p : Nat × Nat) => t.put 0 (c * 192 + p.1) p.2) (s.lanes.clear (c * 192) 192)
        let w := { w with s.lanes := lanes }
        w.modCtx c (fun x =>
          { x with
            books := x.books.put none x.turn.handle (some b)
            turn := { x.turn with num := small.turn, awaitCopy := false, buddyEpoch := some small.turn } }))

end Sys2Proof.Machine
end

