-- ==== Sys2Proof/Machine/Time.lean ====
section
/-! DEFINITION. Fabric time (chapter 13, R412–R415): the reference clock's tick with the idle counters it drives (R402,
R523), the exchange with the time parent, and the synchronisation state. -/

namespace Sys2Proof.Machine

/-! ### Idle time (R402, R523) -/

/-- Some port that the context uses is replaying, changing width, paused for RECAL, or at its limit of kept flits (R402). -/
def linkBusy (w : Work) (c : Nat) : Bool :=
  (List.range 6).any (fun p =>
    let q := w.s.port p
    w.usesPort c p && q.st = 2 &&
    (q.nakFor.isSome || q.txChange.isSome || q.rxChange.isSome || q.pause || decide (1024 ≤ q.kept.length)))

/-- The context waits between a REPLAY or a re-home and the next GO (R402). -/
def recovering (s : State) (c : Nat) : Bool := (s.ctx c).turn.recover || restoring s c

/-- A flight stands still: an update move that waits for its record or its buddy (R281), or a move whose stack is in self refresh
(R318) or held by background work outside a window (R64). -/
def Flight.waits (s : State) (f : Flight) : Bool :=
  decide (f.out = 3) || f.used.any (fun k => decide ((s.stack k).st = 2) || decide (s.now < (s.stack k).heldUntil))

/-- A tile is idle: none of its own units runs a move of its stream (R402). The region's Spinner, prefetcher and update unit
are no units of the tile (R45). -/
def idleTile (s : State) (n : Nat) : Bool :=
  (s.tile n).flights.all (fun f =>
    f.waits s || f.unit = .sequencer || f.unit = .spinner || f.unit = .prefetcher || f.unit = .update)

/-- The tallies that the head of a tile in a live attempt waits on. -/
def unmet (s : State) (c n : Nat) : List Nat :=
  let t := s.tile n
  match (if (s.ctx c).turn.live && t.active && !t.ended then headOf s n else none) with
  | none => []
  | some m => (if waitMet t (mvWaitA m) (mvExpA m) then [] else [mvWaitA m]) ++
      (if waitMet t (mvWaitB m) (mvExpB m) then [] else [mvWaitB m])

/-- A flight of this package will signal one of the tallies on a tile. -/
def Flight.feeds (f : Flight) (n : Nat) (ks : List Nat) : Bool := f.arrivals.any (fun a => decide (a.1 = n) && ks.contains a.2)

/-- The head of a tile waits on tallies that no move of this package will signal, and `f` holds of a port that the context
uses (R380, R385). -/
def linkWait (w : Work) (c n : Nat) (f : Port → Bool) : Bool :=
  let ks := unmet w.s c n
  !ks.isEmpty && !(ctxTiles (w.s.ctx c)).any (fun k => (w.s.tile k).flights.any (fun g => g.feeds n ks)) &&
  (List.range 6).any (fun p => w.usesPort c p && decide ((w.s.port p).st = 2) && f (w.s.port p))

/-- The head could issue but for the work that holds its tile's stores, or its region's stack, outside a window (R64). -/
def heldHead (s : State) (c n : Nat) : Bool :=
  couldIssue s c n && headFits s n &&
  (decide (s.now < (s.ph (hostMesh s n)).heldUntil) || decide (s.now < (s.stack (n / 11)).heldUntil))

/-- The cause that an earlier rule names for a wait, by its index (R402, R523): R43, R64, R66, R67, R69, R224, R281, R288, R318,
R321, R337, R380 and R385. In what order they go where several hold is DESIGN CHOICE (log entry 44). -/
def namedCause (w : Work) (c n : Nat) : Option Nat :=
  let s := w.s
  let t := s.tile n
  let x := s.ctx c
  let g := s.region (n / 11)
  let live := x.turn.live && t.active && !t.ended
  let due := (headRun s c).isSome && !x.turn.live
  let ks := unmet s c n
  if t.flights.any (fun f => f.used.any (fun k => decide ((s.stack k).st = 2))) then some 8
  else if t.flights.any (fun f => f.used.any (fun k => decide (s.now < (s.stack k).heldUntil))) || heldHead s c n then some 5
  else if live && g.wakeNext.isSome then some 8
  else if live && g.runs? && decide (s.now < g.holdUntil) then some 6
  else if live && (headOf s n).isNone then some 1
  else if live && (match headOf s n with | some m => waitsMet t m && !pageHere s n m | none => false) then some 1
  else if (ctxTiles x).any (fun k => (s.tile k).flights.any (fun f => f.unit = .spinner && f.feeds n ks)) then some 0
  else if due && !restoring s c && (x.mirror.wanted || (x.turn.awaitCopy && s.requests.any (fun q => q.owner = .mirror c))) then some 0
  else if due && (setBits 12 x.mask).any (fun k => !(s.stack k).retrainNow.isEmpty) then some 5
  else if due && !x.owed.isEmpty then some 3
  else if t.flights.any (fun f => f.out = 3 && (ks.isEmpty || f.feeds n ks)) then some 0
  else if linkWait w c n (fun q => q.txChange.isSome || q.rxChange.isSome) then some 2
  else if linkWait w c n (·.forced) then some 5
  else none

/-- The first cause of R402's table that applies, by its index. -/
def tableCause (w : Work) (c n : Nat) : Nat :=
  let s := w.s
  let t := s.tile n
  let x := s.ctx c
  let g := s.region (n / 11)
  let ks := unmet s c n
  if recovering s c then 7
  else if g.pwr ≠ .run ∨ g.waking.isSome then 8
  else if g.issueHeld then 6
  else if decide (64 ≤ t.traceq.length) && traceLossless s c then 9
  else if (headRun s c).isNone then 3
  else if x.turn.live ∧ (t.pos = 0 ∨ t.ended) then 4
  else if t.flights.any (fun f => f.hbm && f.feeds n ks) then 1
  else if !ks.isEmpty && linkBusy w c then 2
  else 0

/-- The cause that one idle nanosecond of a tile is charged to, by its index (R402, R523). -/
def idleCause (w : Work) (c n : Nat) : Nat := (namedCause w c n).getD (tableCause w c n)

/-- A tile's time goes to a cause, or to ACTIVE: the start of an idle cause is traced (R527). -/
def Work.setIdle (w : Work) (c n i : Nat) : Work :=
  if (w.s.tile n).idleNow = i then w
  else
    let w := w.modTile n (fun t => { t with idleNow := i })
    if i < 10 then w.trace c n 3 0 i 0 (w.s.tile n).pos else w

/-- One tick of a tile's idle block: 40 ns go to ACTIVE or to a cause, and the share that a limited clock takes to THROTTLE
(R402, R523). Counter 12 keeps that share's fraction, in 1/1800 ns. -/
def Work.countTick (w : Work) (c n : Nat) : Work :=
  let g := w.s.region (n / 11)
  let i := if idleTile w.s n then idleCause w c n else 10
  let w := (w.setIdle c n i).countIdle c n i 40
  if g.pwr ≠ .run then w
  else
    let f := w.s.idleNs.get 0 (idleKey c n 12) + 40 * (1800 - allowedMhz w.s g)
    let w := { w with s.idleNs := w.s.idleNs.put 0 (idleKey c n 12) (f % 1800) }
    if f < 1800 then w else w.countIdle c n 6 (f / 1800)

/-- 40 ns more without an issue, where R56 counts them: in a live attempt with no region waking and no recovery under way. -/
def Work.quietTick (w : Work) (c : Nat) : Work :=
  let x := w.s.ctx c
  if x.turn.live && !waking w.s x && !recovering w.s c then
    w.modCtx c (fun x => { x with turn := { x.turn with quietNs := x.turn.quietNs + 40 } })
  else w

/-! ### The clock (R412, R413, R492) -/

/-- The always-on domain is out of reset (R412, R542, R565). -/
def clockRuns (s : State) : Bool := s.pins.aonN && s.pins.vaon && s.pins.vio18

/-- The count after one tick: 40, and 1 ns of slew every 250 ticks, which is 100 ns in 1 ms (R412, R413). -/
def FTime.tick (t : FTime) : FTime :=
  let due := t.slew ≠ 0 ∧ 249 ≤ t.slewTicks
  let step : Nat := if ¬ due then 40 else if 0 < t.slew then 41 else 39
  { t with
    count := wrapAdd 64 t.count step, interp := 0, slewTicks := if due ∨ t.slew = 0 then 0 else t.slewTicks + 1
    slew := if ¬ due then t.slew else if 0 < t.slew then t.slew - 1 else t.slew + 1 }

/-- REFCLK_TICK (R56, R334, R402, R412, R413, R492, R523): fabric time advances, open contexts' idle blocks and progress windows
run, marked pages are retired once no Turn runs, and a formed package sends ALIVE every 100 µs. -/
def execRefclkTick (s : State) : Host.Outcome State Fault Refusal :=
  run s (fun w =>
    if ¬ clockRuns s then w
    else
      let w := { w with s.time := s.time.tick }
      let open_ := (List.range 16).filter (fun c => decide ((s.ctx c).st ≠ .closed))
      let w := w.each open_ (fun w c => (w.each (ctxTiles (s.ctx c)) (fun w n => w.countTick c n)).quietTick c)
      let w := w.settlePages
      if s.form.form = 2 ∧ w.s.time.count / 100000 ≠ s.time.count / 100000 then w.send (.closing (.alive s.here)) else w)

/-! ### The time parent (R413, R415) -/

/-- The port of the first hop towards the root (R368, R369, R413). -/
def parentPort (s : State) : Option Nat :=
  let p := mkPacket s 7 0 s.form.bankerAt 0 0 []
  match wayOf s { vc := 2, tag := freeTag s 0, pkt := p } with
  | .out port _ => some port
  | _ => none

/-- The body of DELAY_PROBE and DELAY_REPLY, from byte 1 (R413). -/
def delayBody (epoch t1 t2 t3 hops : Nat) : List Byte :=
  [0#8] ++ leBytes 2 epoch ++ leBytes 8 t1 ++ leBytes 8 t2 ++ leBytes 8 t3 ++ leBytes 1 hops

/-- DELAY_PROBE_TIMER (R413, R415): every 1 ms the package probes its time parent; a change of parent is ACQUIRING. -/
def execDelayProbeTimer (s : State) : Host.Outcome State Fault Refusal :=
  run s (fun w =>
    match (if s.form.form = 2 ∧ ¬ s.time.root then parentPort s else none) with
    | none => w
    | some port =>
      let w := if s.time.parent = port then w
        else { w with s.time := { s.time with parent := port, state := 1, goodSince := none } }
      let (t1, w) := w.readTime
      w.send (.ctl port 4 (s.port port).ack (delayBody s.form.epoch t1 0 0 0)))

/-- DELAY_PROBE (R376, R411, R413): its ACK counts as any other; it is answered with the times of receipt and reply; a lower epoch is ignored. -/
def execDelayProbe (port epoch t1 ack : Nat) (s : State) : Host.Outcome State Fault Refusal :=
  run s (fun w =>
    let w := w.when ((s.port port).st = 2) (·.acked port ack)
    if (s.port port).st ≠ 2 ∨ epochAbove s.form.epoch epoch then w
    else
      let (t2, w) := w.readTime
      let (t3, w) := w.readTime
      w.send (.ctl port 5 (w.s.port port).ack (delayBody s.form.epoch t1 t2 t3 s.time.hops)))

/-- A difference of two 64-bit times. -/
def timeDiff (a b : Nat) : Int := let d := modSub 64 a b; if d < 2 ^ 63 then d else (d : Int) - 2 ^ 64

/-- DELAY_REPLY (R376, R413, R415): delay and offset; the rate is steered to remove the offset. -/
def execDelayReply (port epoch t1 t2 t3 hops ack : Nat) (s : State) : Host.Outcome State Fault Refusal :=
  run s (fun w =>
    let w := w.when ((s.port port).st = 2) (·.acked port ack)
    if s.form.form ≠ 2 ∨ s.time.root ∨ s.time.parent ≠ port ∨ epochAbove s.form.epoch epoch then w
    else
      let (t4, w) := w.readTime
      let delay := (timeDiff t4 t1 - timeDiff t3 t2).tdiv 2
      let offset := (timeDiff t2 t1 - timeDiff t4 t3).tdiv 2
      let good := decide (-4 ≤ offset) && decide (offset ≤ 4)
      let t := w.s.time
      { w with s.time := { t with
          parentDelay := delay, offset := offset, slew := offset, hops := hops + 1, lastReply := w.s.now
          goodSince := if good then some (t.goodSince.getD w.s.now) else none, state := if t.state = 3 then 1 else t.state } })

/-- TIME_HOLDOVER_TIMEOUT (R415): no reply for 10 ms. -/
def execTimeHoldover (s : State) : Host.Outcome State Fault Refusal :=
  run s (fun w =>
    let t := s.time
    if s.form.form ≠ 2 ∨ t.root ∨ (t.state ≠ 1 ∧ t.state ≠ 2) ∨ s.now < t.lastReply + 10000000 then w
    else ({ w with s.time := { t with state := 3, goodSince := none, slew := 0 } }).record 0x4006 3 srcPackage t.parent 0 0)

/-- TIME_LOCK_TIMER (R415): the offset has stayed within 4 ns for 1 s. -/
def execTimeLock (s : State) : Host.Outcome State Fault Refusal :=
  run s (fun w =>
    match s.time.goodSince with
    | some t => if s.time.state = 1 ∧ t + secondNs ≤ s.now then { w with s.time.state := 2 } else w
    | none => w)

end Sys2Proof.Machine
end

