-- ==== Sys2Proof/Machine/Boot.lean ====
section
/-! DEFINITION. Resets, boot and service levels (chapters 18 and 19, R540–R557, R565, R569, with R14, R23, R319, R320, R336,
R382, R477, R503, R507), and SYS commands over the management port (R518). A pin's level in the state is its effective one:
a supply that fails holds the reset inputs as if they were low. -/

namespace Sys2Proof.Machine

/-! ### Reset states (R542) -/

/-- Hub processors after reset: the kernel thread of each submission ring waits for its doorbell (R419, R443). -/
def ringThreads : Table Thread :=
  (List.range 64).foldl (fun t k => t.put {} k { prio := 24, elig := 0, st := .blocked, event := some k }) []

/-- CMD_COMPAT of the sixteen functions takes the LEGACY_TW1 strap (R442, R545). -/
def freshFns (legacy : Bool) : Table Fn :=
  (List.range 16).foldl (fun t f => t.put {} f { compat := legacy }) []

/-- What a stack shows from reset on: the spare pages known to be bad, which are retired pages of the list in SPI flash, and the
lane repairs of the repair list (R319, R336, R343). -/
def keptStacks (s : State) : Table Stack :=
  (List.range 12).foldl (fun t k => t.put {} k
    { badSpares := (s.stack k).badSpares, lanes := Nat.min 255 (s.flash.hbmLanes.filter (fun e => e.1 = k)).length }) []

/-- The state of a part in which only the always-on domain is out of reset (R542, R543). -/
def State.packageReset (s : State) : State :=
  { State.reset with
    pending := s.pending, sent := s.sent, free := s.free, mem := s.mem, poison := s.poison, host := s.host, pad := s.pad
    flash := s.flash, mgt := s.mgt, hbm := keptStacks s
    pins := { s.pins with thermTrip := false }
    time := { count := s.time.count, interp := s.time.interp }
    boot := { s.boot with
      stage := if s.mgt.running then 1 else s.boot.stage, level := if s.mgt.running then 1 else 0, hubCopy := 0
      fwReady := false, host := false, compute := false, system := false, pcieTraining := false, linkUp := false
      listsApplied := false } }

/-- The state while AON_RESET_N is low (R503, R542): SPI flash is kept, in which a suspect unit's observation time is
counted on over the restart of fabric time (R483). -/
def State.fullReset (s : State) : State :=
  { State.reset with
    pending := s.pending, sent := s.sent, free := s.free, mem := s.mem, poison := s.poison, host := s.host
    flash := { s.flash with suspects := s.flash.suspects.map (fun x => { x with since := x.since - (s.now : Int) }) }
    hbm := keptStacks s, pins := { s.pins with aonN := false, thermTrip := false }
    boot := { nextCause := s.boot.nextCause } }

/-- The work in a reset: HBM and the tile stores hold nothing that can be read again (R160, R460, R543). -/
def Work.toReset (w : Work) (s : State) (cause : Nat) : Work :=
  { w with s := { s with boot := { s.boot with nextCause := s.boot.nextCause ||| cause } } }.zero 0 (2 ^ 45)

/-- The package reset, where the always-on domain runs (R543). -/
def Work.packageReset (w : Work) (cause : Nat) : Work :=
  if ¬ w.s.pins.aonN then w else w.toReset w.s.packageReset cause

/-- AON_RESET_N (R503, R542). -/
def execAonResetN (s : State) : Host.Outcome State Fault Refusal :=
  run s (fun w => if ¬ s.pins.aonN then w else w.toReset s.fullReset 2)

/-- PWR_GOOD_LOW (R542, R543). -/
def execPwrGoodLow (s : State) : Host.Outcome State Fault Refusal :=
  run s (fun w => if ¬ s.pins.pwrGood then w else { (w.packageReset 1) with s.pins.pwrGood := false })

/-- PKG_RESET_N (R542, R543). -/
def execPkgResetN (s : State) : Host.Outcome State Fault Refusal :=
  run s (fun w => if ¬ s.pins.pkgN then w else { (w.packageReset 4) with s.pins.pkgN := false })

/-- VCORE_UNDERVOLTAGE (R569): as PWR_GOOD low. -/
def execVcoreUnder (s : State) : Host.Outcome State Fault Refusal :=
  run s (fun w => if ¬ s.pins.pwrGood then w else { (w.packageReset 1) with s.pins.pwrGood := false })

/-- VAON_FALL (R565, R569): AON_RESET_N and PWR_GOOD low together. -/
def execVaonFall (s : State) : Host.Outcome State Fault Refusal :=
  run s (fun w =>
    if ¬ s.pins.vaon then w
    else
      let w := w.toReset s.fullReset 1
      { w with s.pins.vaon := false, s.pins.pwrGood := false })

/-- VIO18_LOSS (R565): the part holds itself as if AON_RESET_N were low. -/
def execVio18Loss (s : State) : Host.Outcome State Fault Refusal :=
  run s (fun w =>
    if ¬ s.pins.vio18 then w
    else
      let w := if s.pins.aonN then w.toReset s.fullReset 2 else w
      { w with s.pins.vio18 := false })

/-- VIO18_RETURN (R565): the hold ends, and the release of AON_RESET_N can follow. -/
def execVio18Return (s : State) : Host.Outcome State Fault Refusal :=
  run s (fun w => { w with s.pins.vio18 := true })

/-! ### The always-on stage (R507, R545–R549) -/

/-- The straps are latched (R545). -/
def Pins.latch (p : Pins) (x : Straps) : Pins :=
  { p with bankerEn := x.bankerEn, standbyEn := x.standbyEn, slot := x.slot % 16, legacy := x.legacy, raMode := x.raMode % 4 }

/-- EV_BOOT, with the cause of the last reset (R507, R516, R543). -/
def Work.bootRecord (w : Work) : Work :=
  let c := w.s.boot.nextCause
  let w := { w with s.boot := { w.s.boot with cause := c, nextCause := 0 } }
  w.record 0x0001 1 srcMgt w.s.flash.bootCount c Config.mgtFwVersion

/-- Two copies of an image are tried in turn; `i` is the image index of copy 0 (R547). -/
def Work.imageTries (w : Work) (i : Nat) (ok0 ok1 : Bool) : Work :=
  let w := if ok0 then w else w.record 0x0002 6 srcMgt i 0 0
  if ok0 || ok1 then w else w.record 0x0002 6 srcMgt (i + 1) 0 0

/-- AON_RESET_RELEASE (R507, R545–R549): the straps are latched, fabric time starts at 0, and the boot ROM starts the
management firmware from the first copy that verifies. -/
def execAonRelease (straps : Straps) (ok0 ok1 : Bool) (s : State) : Host.Outcome State Fault Refusal :=
  run s (fun w =>
    if s.pins.aonN ∨ ¬ s.pins.vio18 then w
    else
      let w := { w with
        s.pins := { s.pins.latch straps with aonN := true, vaon := true }
        s.time := {}
        s.flash.bootCount := wrapAdd 32 s.flash.bootCount 1 }
      if w.s.pins.raMode ≠ 0 then w
      else
        let seq := match s.flash.seqSaved with | some n => wrapAdd 32 n 4096 | none => 0
        let w := { w with s.pad.seq := seq, s.flash.seqSaved := if seq % 4096 = 0 then some seq else s.flash.seqSaved }
        let w := w.imageTries 0 ok0 ok1
        if ¬ ok0 ∧ ¬ ok1 then { w with s.boot := { w.s.boot with stage := 6, level := 0 } }
        else
          ({ w with
            s.mgt.running := true
            s.boot := { w.s.boot with stage := 1, level := 1, mgtCopy := b2n (!ok0) } }).bootRecord)

/-! ### The hub stage (R14, R16, R23, R319, R320, R336, R382, R549, R554) -/

/-- The map of a region from its fuses: the eleven indices other than the factory spare, ascending (R14). -/
def fusedMap (s : State) (r : Nat) : List Nat := (List.range 12).filter (fun i => i ≠ factorySpare s r)

/-- A region's tile map as the fuses and the retirement list give it (R14, R18–R23): the indices whose tiles failed at
manufacture are placed first, in ascending logical index, so that the first of them takes the factory spare; then those of the
retirement list, all in one pass in ascending logical index, which is not the order of the list (DESIGN CHOICE, log entry
31: R23 does not say in which order a boot applies several entries). -/
def Work.bootRegion (w : Work) (r : Nat) : Work :=
  let list := w.s.flash.retired
  let w := { w with s.flash.retired := [] }
  let w := w.modRegion r (fun g => { g with map := fusedMap w.s r, spare := factorySpare w.s r, spareUsed := false })
  let w := w.placeRegion r
  ({ w with s.flash.retired := list }).placeRegion r

/-- The engines of a region that are retired get their hosts (R487). -/
def Work.bootEngines (w : Work) (r : Nat) : Work :=
  let w := if isRetired w.s (.spinner r) then w.placeEngine true r false else w
  if isRetired w.s (.update r) then w.placeEngine false r false else w

/-- The remapped pages of a stack, from the retirement list (R336). -/
def remapsOf (s : State) (k : Nat) : List (Nat × Nat) :=
  (s.flash.hbmPages.filter (fun e => e.stack = k)).map (fun e => (e.page, e.spare))

/-- HUB_STAGE_START (R545, R549): PKG_RESET_N is high with PWR_GOOD, and the management firmware runs. -/
def execHubStageStart (straps : Straps) (s : State) : Host.Outcome State Fault Refusal :=
  run s (fun w =>
    if ¬ s.mgt.running ∨ s.boot.stage ≠ 1 then w
    else
      let w := { w with
        s.pins := { s.pins.latch straps with pwrGood := true, pkgN := true }
        s.fns := freshFns straps.legacy
        s.sched := { s.sched with threads := ringThreads }
        s.boot := { s.boot with stage := 2, pcieTraining := s.pins.perstN } }
      let w := if s.boot.nextCause = 0 then w else w.bootRecord
      let w := w.each (List.range 12) (fun w r => w.bootRegion r)
      let w := w.each (List.range 12) (fun w r => w.bootEngines r)
      let w := w.each (List.range 12) (fun w k => w.modStack k (fun g => { g with remap := remapsOf s k }))
      w.each (List.range 6) (fun w p => w.setPort p { st := 1, step := 1 }))

/-- The host service level (R552, R554): firmware runs on some command processor, and the PCIe endpoint is out of reset. -/
def Work.hostLevel (w : Work) : Work :=
  if ¬ w.s.boot.fwReady ∨ ¬ w.s.pins.perstN ∨ w.s.boot.host ∨ ¬ (List.range 4).any (fun k => !(w.s.core k).retired) then w
  else ({ w with s.boot := { w.s.boot with host := true, level := Nat.max 2 w.s.boot.level } }).raiseLevels

/-- HUB_FIRMWARE_VERIFIED (R547–R549, R554): with a good copy, cores 0–11 are released; without one the package stays at the
first service level. -/
def execHubFirmwareVerified (ok0 ok1 : Bool) (s : State) : Host.Outcome State Fault Refusal :=
  run s (fun w =>
    if s.boot.stage ≠ 2 then w
    else
      let w := w.imageTries 2 ok0 ok1
      if ¬ ok0 ∧ ¬ ok1 then w
      else
        let w := w.each (List.range 12) (fun w k => w.setCore k { w.s.core k with released := true })
        ({ w with s.boot := { w.s.boot with stage := 3, hubCopy := b2n (!ok0), fwReady := true } }).hostLevel)

/-- HBM_TRAINING_DONE (R22, R319, R320, R554). -/
def execHbmTrainingDone (stack : Nat) (r : HbmTrain) (s : State) : Host.Outcome State Fault Refusal :=
  run s (fun w =>
    let g := s.stack stack
    if 12 ≤ stack ∨ g.st ≠ 0 ∨ s.boot.stage < 2 ∨ 5 < s.boot.stage then w
    else
      let known := s.flash.hbmLanes.filter (fun e => e.1 = stack)
      let new := (r.repaired.map (fun e => (stack, e.1))).filter (fun e => !known.contains e)
      let w := { w with s.flash.hbmLanes := s.flash.hbmLanes ++ new }
      let lanes := Nat.min 255 (known.length + new.length)
      let w :=
        if r.outcome = 0 then w.setStack stack { g.resume s.now with slow := false, lanes := lanes }
        else
          let w := w.record 0x3006 3 (srcStack stack) r.channel 0 0
          if r.outcome = 1 then w.setStack stack { g.resume s.now with slow := true, lanes := lanes }
          else (w.setStack stack { g with st := 3, lanes := lanes }).regionLost stack 1
      w.raiseLevels)

/-! ### PCIe (R442, R469, R477, R542, R552) -/

/-- PERST_N (R442, R469, R542): the endpoint and every function are in reset, and every context ends. -/
def execPerstN (s : State) : Host.Outcome State Fault Refusal :=
  run s (fun w =>
    if ¬ s.pins.perstN then w
    else
      let w := w.each (List.range 16) (fun w f => w.resetFunction f)
      { w with
        s.pins.perstN := false, s.vfEnable := false
        s.boot := { w.s.boot with pcieTraining := false, linkUp := false } })

/-- PERST_RELEASE (R552, R554): link training begins once the hub stage has. -/
def execPerstRelease (s : State) : Host.Outcome State Fault Refusal :=
  run s (fun w =>
    if s.pins.perstN then w
    else
      ({ w with
        s.pins.perstN := true
        s.boot := { s.boot with pcieTraining := decide (2 ≤ s.boot.stage) && decide (s.boot.stage ≤ 5) } }).hostLevel)

/-- PCIE_LINK_UP (R552, R553). -/
def execPcieLinkUp (s : State) : Host.Outcome State Fault Refusal :=
  run s (fun w => w.when s.boot.pcieTraining (fun w => { w with s.boot := { s.boot with pcieTraining := false, linkUp := true } }))

/-! ### SYS over the management port (R454, R497, R518) -/

/-- Coordinates in three bytes of a body. -/
def bodyXyz (body : List Byte) (o : Nat) : Xyz :=
  { x := ofLe (slice body o 1), y := ofLe (slice body (o + 1) 1), z := ofLe (slice body (o + 2) 1) }

/-- A SYS command by its opcode and body (R454, R497). -/
def Work.sysCommand (w : Work) (a : Active) (opcode : Nat) (body : List Byte) : Work :=
  let f := fun o n => ofLe (slice body o n)
  if opcode = 0x70 then w.joinPackage a (bodyXyz body 0)
  else if opcode = 0x71 then
    match f 0 1 with
    | 0 => w.formSystem a (f 1 1) (f 2 1) (f 3 1)
    | 1 => w.placeJob a (bodyXyz body 4) (bodyXyz body 8)
    | 2 => w.removeJob a (f 0xC 2)
    | _ => w.fail 466
  else if opcode = 0x72 then
    match f 0 1 with
    | 0 => w.rehomeQuery a
    | 1 => w.rehomeMove a (bodyXyz body 4) (bodyXyz body 8)
    | 2 => w.rehomeLost a (bodyXyz body 4)
    | 3 => w.rehomeExclude a (f 1 1) (bodyXyz body 4)
    | _ => w.fail 466
  else
    match f 0 1 with
    | 0 =>
      let (t, w) := w.readTime
      w.reply a stDone 0 (timeReg w.s 8) t
    | 1 => w.timeSet a (f 8 8)
    | _ => w.fail 466

/-- MGT_SYS (R518): an authorized request that carries a SYS command; its reply is the response. -/
def execMgtSys (m : MgtHdr) (opcode : Nat) (body : List Byte) (s : State) : Host.Outcome State Fault Refusal :=
  run s (fun w =>
    if opcode < 0x70 ∨ 0x73 < opcode then w.fail 518
    else
      w.mgtAuthorized m 0x15 (fun w =>
        let a : Active :=
          { ring := mgtRing, index := m.reqId, op := opcode, irq := false, tag := 0, ctx := 0, claimed := true, wait := .fence }
        ({ w with s.actives := w.s.actives ++ [a] }).sysCommand a opcode (padTo 16 body)))

end Sys2Proof.Machine
end

