-- ==== Sys2Proof/Machine/Dispatch.lean ====
section
/-! DEFINITION. Which meaning each command has: one arm per constructor of Instr, each one direct call. -/

namespace Sys2Proof.Machine

/-- The effect of one command on everything but the queue. -/
def exec (i : Instr) (s : State) : Host.Outcome State Fault Refusal :=
  match i with
  | .nop h => Sys2Proof.Machine.execNop h s
  | .fence h => Sys2Proof.Machine.execFence h s
  | .devQuery h hostAddr refuse => Sys2Proof.Machine.execDevQuery h hostAddr refuse s
  | .ctxOpen h job mask slice quota spread => Sys2Proof.Machine.execCtxOpen h job mask slice quota spread s
  | .ctxClose h => Sys2Proof.Machine.execCtxClose h s
  | .ctxPolicySet h p => Sys2Proof.Machine.execCtxPolicySet h p s
  | .runProgram h p program u => Sys2Proof.Machine.execRunProgram h p program u s
  | .resume h p => Sys2Proof.Machine.execResume h p s
  | .ctxSegRelease h index => Sys2Proof.Machine.execCtxSegRelease h index s
  | .ctxSegAllocStack h index write stack limitM1 => Sys2Proof.Machine.execCtxSegAllocStack h index write stack limitM1 s
  | .ctxSegAllocSpread h index write limitM1 => Sys2Proof.Machine.execCtxSegAllocSpread h index write limitM1 s
  | .ctxSegMapBoard h index write limitM1 target there => Sys2Proof.Machine.execCtxSegMapBoard h index write limitM1 target there s
  | .ctxSegMapTile h index write limitM1 tile => Sys2Proof.Machine.execCtxSegMapTile h index write limitM1 tile s
  | .rbLoad h ctxAddr bytes u => Sys2Proof.Machine.execRbLoad h ctxAddr bytes u s
  | .rbUnload h handle => Sys2Proof.Machine.execRbUnload h handle s
  | .turnRun h handle => Sys2Proof.Machine.execTurnRun h handle s
  | .turnStopAfter h => Sys2Proof.Machine.execTurnStopAfter h s
  | .turnStopNow h => Sys2Proof.Machine.execTurnStopNow h s
  | .turnStatus h => Sys2Proof.Machine.execTurnStatus h s
  | .abort h ring index tOp tTag tIrq => Sys2Proof.Machine.execAbort h ring index tOp tTag tIrq s
  | .memWrite h hostAddr ctxAddr bytes => Sys2Proof.Machine.execMemWrite h hostAddr ctxAddr bytes s
  | .memRead h ctxAddr hostAddr bytes refuse u => Sys2Proof.Machine.execMemRead h ctxAddr hostAddr bytes refuse u s
  | .memFill h ctxAddr bytes pattern u => Sys2Proof.Machine.execMemFill h ctxAddr bytes pattern u s
  | .memCopy h src dst bytes u => Sys2Proof.Machine.execMemCopy h src dst bytes u s
  | .graphLoad h hostAddr ctxAddr bytes => Sys2Proof.Machine.execGraphLoad h hostAddr ctxAddr bytes s
  | .graphPatch h entries u => Sys2Proof.Machine.execGraphPatch h entries u s
  | .tblCreate h handle table tier u => Sys2Proof.Machine.execTblCreate h handle table tier u s
  | .tblRowsWrite h handle table rowsHost ids => Sys2Proof.Machine.execTblRowsWrite h handle table rowsHost ids s
  | .tblPublish h handle table => Sys2Proof.Machine.execTblPublish h handle table s
  | .tblRetier h handle table items u => Sys2Proof.Machine.execTblRetier h handle table items u s
  | .chkFraction h fraction => Sys2Proof.Machine.execChkFraction h fraction s
  | .chkSelftest h mask failing => Sys2Proof.Machine.execChkSelftest h mask failing s
  | .fltQuery h hostAddr refuse => Sys2Proof.Machine.execFltQuery h hostAddr refuse s
  | .spRead h first count hostAddr refuse => Sys2Proof.Machine.execSpRead h first count hostAddr refuse s
  | .spClear h auth seq => Sys2Proof.Machine.execSpClear h auth seq s
  | .cntSnapshot h hostAddr bytes refuse => Sys2Proof.Machine.execCntSnapshot h hostAddr bytes refuse s
  | .traceArm h d => Sys2Proof.Machine.execTraceArm h d s
  | .traceDisarm h => Sys2Proof.Machine.execTraceDisarm h s
  | .pwrPolicy h set deepest idle capW windowMs => Sys2Proof.Machine.execPwrPolicy h set deepest idle capW windowMs s
  | .sysJoin h x y z => Sys2Proof.Machine.execSysJoin h x y z s
  | .sysFormForm h ex ey ez => Sys2Proof.Machine.execSysFormForm h ex ey ez s
  | .sysFormPlace h origin shape => Sys2Proof.Machine.execSysFormPlace h origin shape s
  | .sysFormRemove h job => Sys2Proof.Machine.execSysFormRemove h job s
  | .sysRehomeQuery h => Sys2Proof.Machine.execSysRehomeQuery h s
  | .sysRehomeMove h src dst => Sys2Proof.Machine.execSysRehomeMove h src dst s
  | .sysRehomeDeclareLost h src => Sys2Proof.Machine.execSysRehomeDeclareLost h src s
  | .sysRehomeExclude h flags src => Sys2Proof.Machine.execSysRehomeExclude h flags src s
  | .sysTimeRead h => Sys2Proof.Machine.execSysTimeRead h s
  | .sysTimeSet h value => Sys2Proof.Machine.execSysTimeSet h value s
  | .unsupportedOpcode h opcode => Sys2Proof.Machine.execUnsupportedOpcode h opcode s
  | .sqDoorbell fn ring value => Sys2Proof.Machine.execSqDoorbell fn ring value s
  | .cqDoorbell fn ring value => Sys2Proof.Machine.execCqDoorbell fn ring value s
  | .flush fn ring => Sys2Proof.Machine.execFlush fn ring s
  | .ringEnable fn ring log2Slots => Sys2Proof.Machine.execRingEnable fn ring log2Slots s
  | .ringDisable fn ring => Sys2Proof.Machine.execRingDisable fn ring s
  | .intStatusClear fn mask => Sys2Proof.Machine.execIntStatusClear fn mask s
  | .registerWrite fn bar offset size value => Sys2Proof.Machine.execRegisterWrite fn bar offset size value s
  | .counterLowRead reader offset size => Sys2Proof.Machine.execCounterLowRead reader offset size s
  | .counterHighRead reader offset size => Sys2Proof.Machine.execCounterHighRead reader offset size s
  | .msixExpiry fn vec => Sys2Proof.Machine.execMsixExpiry fn vec s
  | .coreDispatch core => Sys2Proof.Machine.execCoreDispatch core s
  | .coreReleaseYield core => Sys2Proof.Machine.execCoreReleaseYield core s
  | .coreReleaseBlock core event => Sys2Proof.Machine.execCoreReleaseBlock core event s
  | .coreReleaseExit core => Sys2Proof.Machine.execCoreReleaseExit core s
  | .coreSignal core event => Sys2Proof.Machine.execCoreSignal core event s
  | .corePreemptClear core value => Sys2Proof.Machine.execCorePreemptClear core value s
  | .quantumExpiry core => Sys2Proof.Machine.execQuantumExpiry core s
  | .svcExit core code => Sys2Proof.Machine.execSvcExit core code s
  | .svcYield core => Sys2Proof.Machine.execSvcYield core s
  | .svcWaitEvent core event => Sys2Proof.Machine.execSvcWaitEvent core event s
  | .svcSignal core event => Sys2Proof.Machine.execSvcSignal core event s
  | .svcSleepUntil core time => Sys2Proof.Machine.execSvcSleepUntil core time s
  | .sleepExpiry thread => Sys2Proof.Machine.execSleepExpiry thread s
  | .svcTimeRead core => Sys2Proof.Machine.execSvcTimeRead core s
  | .svcCtxRead core addr len dst u => Sys2Proof.Machine.execSvcCtxRead core addr len dst u s
  | .svcCtxWrite core addr len src u => Sys2Proof.Machine.execSvcCtxWrite core addr len src u s
  | .svcRegRead core offset => Sys2Proof.Machine.execSvcRegRead core offset s
  | .svcSpWrite core sev p0 p1 p2 => Sys2Proof.Machine.execSvcSpWrite core sev p0 p1 p2 s
  | .svcSetHandler core handler => Sys2Proof.Machine.execSvcSetHandler core handler s
  | .svcUnknown core number => Sys2Proof.Machine.execSvcUnknown core number s
  | .userTrap core cause pc regs => Sys2Proof.Machine.execUserTrap core cause pc regs s
  | .coreStop core cause => Sys2Proof.Machine.execCoreStop core cause s
  | .mgtWatchdogReset cause => Sys2Proof.Machine.execMgtWatchdogReset cause s
  | .moveFetchDone c t n u => Sys2Proof.Machine.execMoveFetchDone c t n u s
  | .seqNop c t => Sys2Proof.Machine.execSeqNop c t s
  | .seqEnd c t => Sys2Proof.Machine.execSeqEnd c t s
  | .seqLoop c t => Sys2Proof.Machine.execSeqLoop c t s
  | .seqTrip c t u => Sys2Proof.Machine.execSeqTrip c t u s
  | .seqTally c t => Sys2Proof.Machine.execSeqTally c t s
  | .seqSignal c t => Sys2Proof.Machine.execSeqSignal c t s
  | .seqPower c t => Sys2Proof.Machine.execSeqPower c t s
  | .seqWindow c t => Sys2Proof.Machine.execSeqWindow c t s
  | .windowEnd region => Sys2Proof.Machine.execWindowEnd region s
  | .arrMma c t u => Sys2Proof.Machine.execArrMma c t u s
  | .drainDone c t => Sys2Proof.Machine.execDrainDone c t s
  | .vecEw c t u => Sys2Proof.Machine.execVecEw c t u s
  | .vecFn c t u => Sys2Proof.Machine.execVecFn c t u s
  | .bernoulli c t u => Sys2Proof.Machine.execBernoulli c t u s
  | .relpos c t u => Sys2Proof.Machine.execRelpos c t u s
  | .vecCvt c t u => Sys2Proof.Machine.execVecCvt c t u s
  | .vecFold c t u => Sys2Proof.Machine.execVecFold c t u s
  | .vecRed c t u => Sys2Proof.Machine.execVecRed c t u s
  | .stCopy c t u => Sys2Proof.Machine.execStCopy c t u s
  | .stLoad c t u => Sys2Proof.Machine.execStLoad c t u s
  | .stSave c t u => Sys2Proof.Machine.execStSave c t u s
  | .stFill c t u => Sys2Proof.Machine.execStFill c t u s
  | .stSend c t u => Sys2Proof.Machine.execStSend c t u s
  | .stRcClear c t => Sys2Proof.Machine.execStRcClear c t s
  | .stRcGhost c t => Sys2Proof.Machine.execStRcGhost c t s
  | .gthRows c t u => Sys2Proof.Machine.execGthRows c t u s
  | .laneStealChunk c t stream left take => Sys2Proof.Machine.execLaneStealChunk c t stream left take s
  | .elSort c t u => Sys2Proof.Machine.execElSort c t u s
  | .segReduce c t u => Sys2Proof.Machine.execSegReduce c t u s
  | .segAdd c t u => Sys2Proof.Machine.execSegAdd c t u s
  | .stealOffer c t unit => Sys2Proof.Machine.execStealOffer c t unit s
  | .stealRequest c t => Sys2Proof.Machine.execStealRequest c t s
  | .stealGrant c t thief u => Sys2Proof.Machine.execStealGrant c t thief u s
  | .stolenMoveDone c t index => Sys2Proof.Machine.execStolenMoveDone c t index s
  | .moveCompletion c t index => Sys2Proof.Machine.execMoveCompletion c t index s
  | .arrivalCounted c t tally => Sys2Proof.Machine.execArrivalCounted c t tally s
  | .tallyStall c => Sys2Proof.Machine.execTallyStall c s
  | .doublesPageIn t page evict => Sys2Proof.Machine.execDoublesPageIn t page evict s
  | .spnSample c t u => Sys2Proof.Machine.execSpnSample c t u s
  | .spnRoute c t u => Sys2Proof.Machine.execSpnRoute c t u s
  | .pfStage c t u => Sys2Proof.Machine.execPfStage c t u s
  | .predict c t u => Sys2Proof.Machine.execPredict c t u s
  | .predictFetchDone c t unit layer => Sys2Proof.Machine.execPredictFetchDone c t unit layer s
  | .demand c t u => Sys2Proof.Machine.execDemand c t u s
  | .updNorm c t u => Sys2Proof.Machine.execUpdNorm c t u s
  | .tblNorm c t u => Sys2Proof.Machine.execTblNorm c t u s
  | .ctClose c t => Sys2Proof.Machine.execCtClose c t s
  | .ctContribution key rank turn attempt k => Sys2Proof.Machine.execCtContribution key rank turn attempt k s
  | .ctRecord c turn attempt bytes u => Sys2Proof.Machine.execCtRecord c turn attempt bytes u s
  | .updApply c t u => Sys2Proof.Machine.execUpdApply c t u s
  | .tblUpdate c t u => Sys2Proof.Machine.execTblUpdate c t u s
  | .attemptStart c => Sys2Proof.Machine.execAttemptStart c s
  | .ready key rank turn attempt => Sys2Proof.Machine.execReady key rank turn attempt s
  | .go c turn attempt => Sys2Proof.Machine.execGo c turn attempt s
  | .poisonReceived key rank turn attempt cause => Sys2Proof.Machine.execPoisonReceived key rank turn attempt cause s
  | .replay c turn attempt cause => Sys2Proof.Machine.execReplay c turn attempt cause s
  | .vote c => Sys2Proof.Machine.execVote c s
  | .yesReceived key rank turn attempt => Sys2Proof.Machine.execYesReceived key rank turn attempt s
  | .standbyRecord epoch seq d => Sys2Proof.Machine.execStandbyRecord epoch seq d s
  | .standbyAck epoch seq => Sys2Proof.Machine.execStandbyAck epoch seq s
  | .commit c turn attempt => Sys2Proof.Machine.execCommit c turn attempt s
  | .mirrorApplyDone c here epoch small u => Sys2Proof.Machine.execMirrorApplyDone c here epoch small u s
  | .mirrorCopyDone c image incoming => Sys2Proof.Machine.execMirrorCopyDone c image incoming s
  | .contextSwitch c u => Sys2Proof.Machine.execContextSwitch c u s
  | .publishComplete c handle table u => Sys2Proof.Machine.execPublishComplete c handle table u s
  | .cancel banker key turn => Sys2Proof.Machine.execCancel banker key turn s
  | .turnStopAtBanker key mode => Sys2Proof.Machine.execTurnStopAtBanker key mode s
  | .selftestRunStart unit => Sys2Proof.Machine.execSelftestRunStart unit s
  | .selftestRunEnd unit pass => Sys2Proof.Machine.execSelftestRunEnd unit pass s
  | .observationEnd unit => Sys2Proof.Machine.execObservationEnd unit s
  | .tileScrub p deep word err second => Sys2Proof.Machine.execTileScrub p deep word err second s
  | .scrubNapWake region => Sys2Proof.Machine.execScrubNapWake region s
  | .sectorRequest q => Sys2Proof.Machine.execSectorRequest q s
  | .hbmRefresh stack bank => Sys2Proof.Machine.execHbmRefresh stack bank s
  | .hbmCalibration stack channel => Sys2Proof.Machine.execHbmCalibration stack channel s
  | .hbmPatrolScrub stack sector err lane => Sys2Proof.Machine.execHbmPatrolScrub stack sector err lane s
  | .selfRefreshEntry stack => Sys2Proof.Machine.execSelfRefreshEntry stack s
  | .pktWrite p => Sys2Proof.Machine.execPktWrite p s
  | .pktWriteAcked p => Sys2Proof.Machine.execPktWriteAcked p s
  | .pktRead p u => Sys2Proof.Machine.execPktRead p u s
  | .pktReadResp p => Sys2Proof.Machine.execPktReadResp p s
  | .pktWriteAck p => Sys2Proof.Machine.execPktWriteAck p s
  | .pktArrival p => Sys2Proof.Machine.execPktArrival p s
  | .pktCollective p => Sys2Proof.Machine.execPktCollective p s
  | .pktErrorResp p => Sys2Proof.Machine.execPktErrorResp p s
  | .routeHop p from_ meshUe => Sys2Proof.Machine.execRouteHop p from_ meshUe s
  | .dataFrame port flit line => Sys2Proof.Machine.execDataFrame port flit line s
  | .ctlIdle port ack freed => Sys2Proof.Machine.execCtlIdle port ack freed s
  | .ctlNak port ack freed => Sys2Proof.Machine.execCtlNak port ack freed s
  | .nakRetry port => Sys2Proof.Machine.execNakRetry port s
  | .ackTimeout port => Sys2Proof.Machine.execAckTimeout port s
  | .idleTimer port => Sys2Proof.Machine.execIdleTimer port s
  | .laneBad port lane => Sys2Proof.Machine.execLaneBad port lane s
  | .laneChange port ack mask width answer => Sys2Proof.Machine.execLaneChange port ack mask width answer s
  | .reframeDone port => Sys2Proof.Machine.execReframeDone port s
  | .reframeTimeout port => Sys2Proof.Machine.execReframeTimeout port s
  | .ackStall port => Sys2Proof.Machine.execAckStall port s
  | .signalLoss port => Sys2Proof.Machine.execSignalLoss port s
  | .hello port ident => Sys2Proof.Machine.execHello port ident s
  | .recal port ack pause => Sys2Proof.Machine.execRecal port ack pause s
  | .recalDue port => Sys2Proof.Machine.execRecalDue port s
  | .recalPauseEnd port delay => Sys2Proof.Machine.execRecalPauseEnd port delay s
  | .trainStepDone port r => Sys2Proof.Machine.execTrainStepDone port r s
  | .trainTimeout port => Sys2Proof.Machine.execTrainTimeout port s
  | .signalQuiet port => Sys2Proof.Machine.execSignalQuiet port s
  | .signalDetect port lanes => Sys2Proof.Machine.execSignalDetect port lanes s
  | .delayProbeTimer => Sys2Proof.Machine.execDelayProbeTimer s
  | .delayProbe port epoch t1 ack => Sys2Proof.Machine.execDelayProbe port epoch t1 ack s
  | .delayReply port epoch t1 t2 t3 hops ack => Sys2Proof.Machine.execDelayReply port epoch t1 t2 t3 hops ack s
  | .timeHoldover => Sys2Proof.Machine.execTimeHoldover s
  | .timeLock => Sys2Proof.Machine.execTimeLock s
  | .refclkTick => Sys2Proof.Machine.execRefclkTick s
  | .formProbe port epoch delaySum => Sys2Proof.Machine.execFormProbe port epoch delaySum s
  | .formReport r => Sys2Proof.Machine.execFormReport r s
  | .formQuiet => Sys2Proof.Machine.execFormQuiet s
  | .formAssign a => Sys2Proof.Machine.execFormAssign a s
  | .formAck serial => Sys2Proof.Machine.execFormAck serial s
  | .joinReport neighbour port r => Sys2Proof.Machine.execJoinReport neighbour port r s
  | .missingList epoch list => Sys2Proof.Machine.execMissingList epoch list s
  | .bankerHeartbeat => Sys2Proof.Machine.execBankerHeartbeat s
  | .heartbeat epoch banker => Sys2Proof.Machine.execHeartbeat epoch banker s
  | .heartbeatTimeout => Sys2Proof.Machine.execHeartbeatTimeout s
  | .alive src => Sys2Proof.Machine.execAlive src s
  | .aliveTimeout src => Sys2Proof.Machine.execAliveTimeout src s
  | .lost src cause by_ => Sys2Proof.Machine.execLost src cause by_ s
  | .rehomeAssign epoch job rank => Sys2Proof.Machine.execRehomeAssign epoch job rank s
  | .rehomeCopyDone c small image => Sys2Proof.Machine.execRehomeCopyDone c small image s
  | .regionEntryDone region => Sys2Proof.Machine.execRegionEntryDone region s
  | .demandWake region => Sys2Proof.Machine.execDemandWake region s
  | .regionWakeDone region => Sys2Proof.Machine.execRegionWakeDone region s
  | .partialWakeDone region => Sys2Proof.Machine.execPartialWakeDone region s
  | .voltageSettled region => Sys2Proof.Machine.execVoltageSettled region s
  | .currentSample amps avg10 avg1 over5us mv => Sys2Proof.Machine.execCurrentSample amps avg10 avg1 over5us mv s
  | .powerCapCheck watts => Sys2Proof.Machine.execPowerCapCheck watts s
  | .thermalSample sensor tenths => Sys2Proof.Machine.execThermalSample sensor tenths s
  | .aonResetN => Sys2Proof.Machine.execAonResetN s
  | .aonRelease straps ok0 ok1 => Sys2Proof.Machine.execAonRelease straps ok0 ok1 s
  | .pwrGoodLow => Sys2Proof.Machine.execPwrGoodLow s
  | .pkgResetN => Sys2Proof.Machine.execPkgResetN s
  | .hubStageStart straps => Sys2Proof.Machine.execHubStageStart straps s
  | .hbmTrainingDone stack r => Sys2Proof.Machine.execHbmTrainingDone stack r s
  | .perstN => Sys2Proof.Machine.execPerstN s
  | .perstRelease => Sys2Proof.Machine.execPerstRelease s
  | .pcieLinkUp => Sys2Proof.Machine.execPcieLinkUp s
  | .flr fn => Sys2Proof.Machine.execFlr fn s
  | .vcoreUnder => Sys2Proof.Machine.execVcoreUnder s
  | .vaonFall => Sys2Proof.Machine.execVaonFall s
  | .spSubmit code sev src p0 p1 p2 ctx => Sys2Proof.Machine.execSpSubmit code sev src p0 p1 p2 ctx s
  | .tokenRefill bucket => Sys2Proof.Machine.execTokenRefill bucket s
  | .spPushStatus => Sys2Proof.Machine.execSpPushStatus s
  | .pldmRequest r => Sys2Proof.Machine.execPldmRequest r s
  | .mgtStatus m => Sys2Proof.Machine.execMgtStatus m s
  | .mgtSpRead m first count => Sys2Proof.Machine.execMgtSpRead m first count s
  | .mgtRegRead m offset count => Sys2Proof.Machine.execMgtRegRead m offset count s
  | .flashLogRead m index count => Sys2Proof.Machine.execFlashLogRead m index count s
  | .mgtSpClear m auth seq => Sys2Proof.Machine.execMgtSpClear m auth seq s
  | .keySet m key value => Sys2Proof.Machine.execKeySet m key value s
  | .keySlot m slot op point => Sys2Proof.Machine.execKeySlot m slot op point s
  | .collectorSet m addr port storeMin pushMin => Sys2Proof.Machine.execCollectorSet m addr port storeMin pushMin s
  | .debugMsg m core halt body => Sys2Proof.Machine.execDebugMsg m core halt body s
  | .mgtSys m opcode body => Sys2Proof.Machine.execMgtSys m opcode body s
  | .addrSet m addr pfxLen => Sys2Proof.Machine.execAddrSet m addr pfxLen s
  | .traceQueueDrain t n => Sys2Proof.Machine.execTraceQueueDrain t n s
  | .selfRefreshExit stack => Sys2Proof.Machine.execSelfRefreshExit stack s
  | .hbmRetrainDone stack channel => Sys2Proof.Machine.execHbmRetrainDone stack channel s
  | .hbmBlockRequest q => Sys2Proof.Machine.execHbmBlockRequest q s
  | .hostReadData ring index data u => Sys2Proof.Machine.execHostReadData ring index data u s
  | .schedulerWindowEnd => Sys2Proof.Machine.execSchedulerWindowEnd s
  | .hubFirmwareVerified ok0 ok1 => Sys2Proof.Machine.execHubFirmwareVerified ok0 ok1 s
  | .vio18Loss => Sys2Proof.Machine.execVio18Loss s
  | .vio18Return => Sys2Proof.Machine.execVio18Return s

end Sys2Proof.Machine
end

