-- ==== Sys2Proof/Safety.lean ====
section
/-! DEFINITION. What a safe state and a safe run are, and the other terms that claims use: when a host command is accepted
and can be answered, what its answer is, and when a move of a tile issues. -/

namespace Sys2Proof.Machine

/-- The memories are in their canonical form: package memory, the marks of its poisoned bytes, host memory as the block
has written it, and the programs' writable space. -/
def State.memOk (s : State) : Bool := s.mem.wf 0 && s.poison.wf false && s.host.wf 0 && s.space.wf 0

/-- A command runs in a state: it answers a next state, so that neither a broken contract of the spec nor a missing meaning
stops the block. -/
def Runs (c : Instr) (s : State) : Prop := ∃ t, exec c s = .next t

/-- The commands whose effect no rule of the spec stops in any state (R3 with the rule of each): the block's own events, what its
firmware, pins, links, packets and management port bring, and the program calls. -/
def neverStops : Instr → Bool
  | .unsupportedOpcode .. | .cqDoorbell .. | .flush .. | .ringDisable .. | .msixExpiry .. | .coreDispatch .. | .coreReleaseYield ..
  | .coreReleaseBlock .. | .coreReleaseExit .. | .coreSignal .. | .corePreemptClear .. | .quantumExpiry .. | .svcExit .. | .svcYield ..
  | .svcWaitEvent .. | .svcSignal .. | .svcSleepUntil .. | .sleepExpiry .. | .svcTimeRead .. | .svcSetHandler .. | .svcUnknown .. | .userTrap ..
  | .coreStop .. | .mgtWatchdogReset .. | .moveFetchDone .. | .windowEnd .. | .drainDone .. | .laneStealChunk .. | .stealOffer ..
  | .stealRequest .. | .stolenMoveDone .. | .moveCompletion .. | .arrivalCounted .. | .tallyStall .. | .doublesPageIn .. | .predictFetchDone ..
  | .ctContribution .. | .ready .. | .go .. | .poisonReceived .. | .replay .. | .vote .. | .yesReceived .. | .standbyRecord .. | .standbyAck ..
  | .commit .. | .mirrorCopyDone .. | .contextSwitch .. | .publishComplete .. | .cancel .. | .turnStopAtBanker .. | .selftestRunStart ..
  | .selftestRunEnd .. | .observationEnd .. | .tileScrub .. | .scrubNapWake .. | .sectorRequest .. | .hbmRefresh .. | .hbmCalibration ..
  | .hbmPatrolScrub .. | .selfRefreshEntry .. | .pktWrite .. | .pktWriteAcked .. | .pktRead .. | .pktReadResp .. | .pktWriteAck ..
  | .pktArrival .. | .pktCollective .. | .pktErrorResp .. | .routeHop .. | .dataFrame .. | .ctlIdle .. | .ctlNak .. | .nakRetry ..
  | .ackTimeout .. | .idleTimer .. | .laneBad .. | .laneChange .. | .reframeDone .. | .reframeTimeout .. | .ackStall .. | .signalLoss ..
  | .hello .. | .recal .. | .recalDue .. | .recalPauseEnd .. | .trainStepDone .. | .trainTimeout .. | .signalQuiet .. | .signalDetect ..
  | .delayProbeTimer .. | .delayProbe .. | .delayReply .. | .timeHoldover .. | .timeLock .. | .refclkTick .. | .formProbe .. | .formReport ..
  | .formQuiet .. | .formAssign .. | .formAck .. | .joinReport .. | .missingList .. | .bankerHeartbeat .. | .heartbeat .. | .heartbeatTimeout ..
  | .alive .. | .aliveTimeout .. | .lost .. | .rehomeAssign .. | .rehomeCopyDone .. | .regionEntryDone .. | .demandWake .. | .regionWakeDone ..
  | .partialWakeDone .. | .voltageSettled .. | .currentSample .. | .powerCapCheck .. | .thermalSample .. | .aonResetN .. | .aonRelease ..
  | .pwrGoodLow .. | .pkgResetN .. | .hubStageStart .. | .hbmTrainingDone .. | .perstN .. | .perstRelease .. | .pcieLinkUp .. | .flr ..
  | .vcoreUnder .. | .vaonFall .. | .spSubmit .. | .tokenRefill .. | .spPushStatus .. | .pldmRequest .. | .mgtStatus .. | .mgtSpClear ..
  | .debugMsg .. | .addrSet .. | .traceQueueDrain .. | .selfRefreshExit .. | .hbmRetrainDone .. | .hbmBlockRequest .. | .hostReadData ..
  | .schedulerWindowEnd .. | .hubFirmwareVerified .. | .vio18Loss .. | .vio18Return .. => true
  | _ => false

/-- A step of the block. -/
def Steps (s t : State) : Prop := step s = .next t

/-- The state once a unit has submitted one record to the arbiter (R506–R509): the Scorepad, its flash log, what is announced,
and the PF's DEV cause may change. -/
def State.recorded (s : State) (code sev src p0 p1 p2 : Nat) (ctx : Option Nat) : State :=
  ((Work.start s).recordCtx code sev src p0 p1 p2 ctx).s

/-! ### Host commands (R446–R450, R466, R467) -/

/-- The packet at the ring's consumer index starts and passes every check of R466: its body is long enough, a PF command
stands in the PF's ring and any other in its context's, and the context it needs is open. -/
structure Accepts (s : State) (h : Hdr) (need : Nat) (pf : Bool) (adm : Admit) : Prop where
  start : canStart s h = true
  length : need ≤ h.length * 16
  owner : if pf then h.fn = 0 else h.context = h.fn
  opened : admitted s adm = true

/-- The reply of the ring's only started packet can be written as soon as it is made (R449): no reply waits and the
completion ring has room. -/
structure CanAnswer (s : State) (h : Hdr) : Prop where
  none_waits : (s.ring h.dev).waiting = []
  room : (s.ring h.dev).room = true
  alone : ∀ a ∈ s.actives, a.ring ≠ h.dev

/-- The address in host memory of byte `i` of the completion entry that the next reply of `h`'s ring takes (R445). -/
def entryAddr (s t : State) (h : Hdr) (i : Nat) : Nat :=
  (s.ring h.dev).cqBase + (s.ring h.dev).t % (s.ring h.dev).entries * entrySize t h.dev + i

/-- The packet at the consumer index of `h`'s ring in `s` has started and replied in `t` (R449, R450, R452, R453): the
consumer index has moved on, the reply's bytes stand in the next entry of the completion ring, and its interrupt cause
is set where the packet asks for one. -/
structure Replied (s t : State) (h : Hdr) (op status reason p0 p1 time : Nat) : Prop where
  ring : t.ring h.dev = { (s.ring h.dev).advance with t := wrapAdd 32 (s.ring h.dev).t 1 }
  gone : ∀ a ∈ t.actives, a.ring ≠ h.dev
  bytes : ∀ i, i < (replyBytes (t.ctx h.fn).compat status reason op h.dev (s.ring h.dev).c h.tag p0 p1 time).length →
    t.hostByte h.fn (entryAddr s t h i) =
      (replyBytes (t.ctx h.fn).compat status reason op h.dev (s.ring h.dev).c h.tag p0 p1 time).getD i 0
  interrupt : h.irq = true → bit (t.fn h.fn).intStatus h.ring = true

/-- `t` is `u`, but for what the start and the reply of one packet of `h`'s ring change: that ring, its function's interrupt
state, the started packets of the ring, 32 bytes of host memory, the count of bytes sent, and messages sent. -/
structure ReplyFrame (s u t : State) (h : Hdr) : Prop where
  rest : t = { u with
    rings := t.rings, actives := t.actives, host := t.host, pcieTx := t.pcieTx, fns := t.fns, sent := t.sent }
  rings : ∀ d, d ≠ h.dev → t.ring d = u.ring d
  fns : ∀ f, f ≠ h.fn → t.fn f = u.fn f
  others : t.actives = u.actives.filter (fun a => decide (a.ring ≠ h.dev))
  host : ∀ f a, (∀ i, i < 32 → hostKey f a ≠ hostKey h.fn (entryAddr s t h i)) → t.hostByte f a = u.hostByte f a
  sent : ∃ xs, t.sent = u.sent ++ xs

/-- A host command is answered: from `s` it leads to `t`, its reply is written, and everything else is as in `u`, the state
that its own effect makes of `s`. -/
structure Answered (s u t : State) (h : Hdr) (op status reason p0 p1 : Nat) : Prop where
  reply : Replied s t h op status reason p0 p1 u.now
  frame : ReplyFrame s u t h

/-- The command is answered, and its own effect makes of `s` a state of which `P` holds. -/
def Answers (c : Instr) (s : State) (h : Hdr) (op status reason p0 p1 : Nat) (P : State → Prop) : Prop :=
  ∃ u t, exec c s = .next t ∧ Answered s u t h op status reason p0 p1 ∧ P u

/-- The 16 bytes of a VALID segment entry (R349). -/
def segBytes (wr : Bool) (limitM1 target : Nat) : List Byte :=
  leBytes 16 (SegEntry.toNat { valid := true, write := wr, limitM1 := limitM1, target := target })

/-- No started command has the ring and index of the packet at the consumer index. -/
def Fresh (s : State) (h : Hdr) : Prop := ∀ a ∈ s.actives, a.ring = h.dev → a.index ≠ (s.ring h.dev).c

/-- No response of another package is owed to the packet at the consumer index (R357). -/
def OwesNothing (s : State) (h : Hdr) : Prop := ∀ q ∈ s.requests, q.owner ≠ .command h.dev (s.ring h.dev).c

/-- The packet has started in `t` and waits for `x`, having claimed its outcome or not (R449, R474). -/
structure Waits (s t : State) (h : Hdr) (op : Nat) (x : Await) (claimed : Bool) : Prop where
  ring : t.ring h.dev = (s.ring h.dev).advance
  rings : ∀ d, d ≠ h.dev → t.ring d = s.ring d
  actives : t.actives = s.actives ++ [{ h.active s op h.fn with wait := x, claimed := claimed }]

/-- The reply of started command `a` can be written as soon as it is made, and no other command of its ring is started. -/
structure CanPost (s : State) (a : Active) : Prop where
  ring : a.ring ≠ mgtRing
  none_waits : (s.ring a.ring).waiting = []
  room : (s.ring a.ring).room = true
  alone : ∀ b ∈ s.actives, b.ring = a.ring → a.same b = true

/-- Started command `a` has replied (R449, R452, R453): it is gone, and its reply stands at the tail of its completion ring. -/
structure Posted (s t : State) (a : Active) (status reason p0 p1 time : Nat) : Prop where
  gone : ∀ b ∈ t.actives, a.same b = false
  tail : (t.ring a.ring).t = wrapAdd 32 (s.ring a.ring).t 1
  bytes : ∀ i, i < (replyBytes (t.ctx (a.ring / 4)).compat status reason a.op a.ring a.index a.tag p0 p1 time).length →
    t.hostByte (a.ring / 4) ((s.ring a.ring).cqBase + (s.ring a.ring).t % (s.ring a.ring).entries * entrySize t a.ring + i) =
      (replyBytes (t.ctx (a.ring / 4)).compat status reason a.op a.ring a.index a.tag p0 p1 time).getD i 0

/-- The state with bytes written into a function's host memory (R441, R522). -/
def State.withHost (s : State) (f a : Nat) (bs : List Byte) : State :=
  { s with
    host := ((List.range bs.length).zip bs).foldl (fun m p => m.put 0 (hostKey f (a + p.1)) p.2) s.host
    pcieTx := wrapAdd 64 s.pcieTx bs.length }

/-- How a host command stands in the command table (R454): its header, its opcode, how many bytes of body it reads, whether it is a PF
command, and which context must be open for it (R466). An undefined opcode has no row. -/
def hostForm : Instr → Option (Hdr × Nat × Nat × Bool × Admit)
  | .nop h => some (h, 0x00, 0, false, .always)
  | .fence h => some (h, 0x01, 0, false, .always)
  | .devQuery h _ _ => some (h, 0x02, 8, false, .always)
  | .ctxOpen h _ _ _ _ _ => some (h, 0x03, 64, true, .always)
  | .ctxClose h => some (h, 0x04, 0, true, (.ctx h.context))
  | .ctxPolicySet h _ => some (h, 0x05, 24, false, (.ctx h.fn))
  | .runProgram h _ _ _ => some (h, 0x05, 32, false, (.ctx h.fn))
  | .resume h _ => some (h, 0x05, 24, false, (.ctx h.fn))
  | .ctxSegRelease h _ => some (h, 0x06, 24, false, (.ctx h.fn))
  | .ctxSegAllocStack h _ _ _ _ => some (h, 0x06, 24, false, (.ctx h.fn))
  | .ctxSegAllocSpread h _ _ _ => some (h, 0x06, 24, false, (.ctx h.fn))
  | .ctxSegMapBoard h _ _ _ _ _ => some (h, 0x06, 24, false, (.ctx h.fn))
  | .ctxSegMapTile h _ _ _ _ => some (h, 0x06, 24, false, (.ctx h.fn))
  | .rbLoad h _ _ _ => some (h, 0x10, 16, false, (.ctx h.fn))
  | .rbUnload h _ => some (h, 0x11, 1, false, (.ctx h.fn))
  | .turnRun h _ => some (h, 0x12, 1, false, (.ctx h.fn))
  | .turnStopAfter h => some (h, 0x13, 1, false, (.ctx h.fn))
  | .turnStopNow h => some (h, 0x13, 1, false, (.ctx h.fn))
  | .turnStatus h => some (h, 0x14, 0, false, (.ctx h.fn))
  | .abort h _ _ _ _ _ => some (h, 0x15, 8, false, (.ctx h.fn))
  | .memWrite h _ _ _ => some (h, 0x20, 24, false, (.ctx h.fn))
  | .memRead h _ _ _ _ _ => some (h, 0x21, 24, false, (.ctx h.fn))
  | .memFill h _ _ _ _ => some (h, 0x22, 20, false, (.ctx h.fn))
  | .memCopy h _ _ _ _ => some (h, 0x23, 24, false, (.ctx h.fn))
  | .graphLoad h _ _ _ => some (h, 0x30, 24, false, (.ctx h.fn))
  | .graphPatch h entries _ => some (h, 0x31, 16 + 16 * entries.length, false, (.ctx h.fn))
  | .tblCreate h _ _ _ _ => some (h, 0x32, 3, false, (.ctx h.fn))
  | .tblRowsWrite h _ _ _ ids => some (h, 0x33, 16 + 4 * ids.length, false, (.ctx h.fn))
  | .tblPublish h _ _ => some (h, 0x34, 2, false, (.ctx h.fn))
  | .tblRetier h _ _ items _ => some (h, 0x35, 8 + 8 * items.length, false, (.ctx h.fn))
  | .chkFraction h _ => some (h, 0x40, 1, false, (.ctx h.fn))
  | .chkSelftest h _ _ => some (h, 0x41, 2, false, (.ctx h.fn))
  | .fltQuery h _ _ => some (h, 0x42, 8, false, (.ctx h.fn))
  | .spRead h _ _ _ _ => some (h, 0x50, 16, false, (if h.fn = 0 then .always else .ctx h.fn))
  | .spClear h _ _ => some (h, 0x51, 20, true, .always)
  | .cntSnapshot h _ _ _ => some (h, 0x52, 12, false, (.ctx h.fn))
  | .traceArm h _ => some (h, 0x53, 32, false, (.ctx h.fn))
  | .traceDisarm h => some (h, 0x53, 1, false, (.ctx h.fn))
  | .pwrPolicy h set _ _ _ _ => some (h, 0x60, 16, true, (if bit set 2 then .ctx h.context else .always))
  | .sysJoin h _ _ _ => some (h, 0x70, 3, true, .always)
  | .sysFormForm h _ _ _ => some (h, 0x71, 14, true, .always)
  | .sysFormPlace h _ _ => some (h, 0x71, 14, true, .always)
  | .sysFormRemove h _ => some (h, 0x71, 14, true, .always)
  | .sysRehomeQuery h => some (h, 0x72, 16, true, .always)
  | .sysRehomeMove h _ _ => some (h, 0x72, 16, true, .always)
  | .sysRehomeDeclareLost h _ => some (h, 0x72, 16, true, .always)
  | .sysRehomeExclude h _ _ => some (h, 0x72, 16, true, .always)
  | .sysTimeRead h => some (h, 0x73, 1, true, .always)
  | .sysTimeSet h _ => some (h, 0x73, 16, true, .always)
  | _ => none

/-- A table command's operands suit the table it names, where that is found and the command may act on it (R312). -/
def tableLegal (s : State) (h : Hdr) (handle table : Nat) (f : TableRec → Bool) : Bool :=
  match (Work.start s).tableOf h.fn handle table with
  | none => true
  | some t => trained s h.fn handle t || f t

/-- The operands of a host command lie in the ranges that the command table gives them (R312, R454, R460, R466): a packet whose
operands do not is UNPREDICTABLE (R466). The commands not listed take any operands. -/
def operandsLegal (s : State) : Instr → Bool
  | .ctxSegRelease _ index => decide (index ≤ 0xFFFF)
  | .ctxSegAllocStack _ index _ stack limitM1 => segRange index limitM1 && decide (stack < 12)
  | .ctxSegAllocSpread _ index _ limitM1 => segRange index limitM1
  | .ctxSegMapBoard _ index _ limitM1 target _ => segRange index limitM1 && decide (target % 4096 = 0) && decide (target < 2 ^ 48)
  | .ctxSegMapTile _ index _ limitM1 _ => segRange index limitM1
  | .abort _ ring _ _ _ _ => decide (ring ≤ 3)
  | .memWrite _ _ _ bytes => bytesOk bytes
  | .memRead _ _ _ bytes _ _ => bytesOk bytes
  | .memFill _ ctxAddr bytes _ _ => bytesOk bytes && decide (ctxAddr % 4 = 0) && decide (bytes % 4 = 0)
  | .memCopy _ src dst bytes _ => bytesOk bytes && apart src bytes dst bytes
  | .graphLoad _ _ _ bytes => bytesOk bytes
  | .graphPatch _ entries _ =>
    decide (entries ≠ []) && decide (entries.length ≤ 254) &&
    entries.all (fun p => (p.2.2 = 1 || p.2.2 = 2 || p.2.2 = 4) && decide (p.1 % p.2.2 = 0))
  | .tblCreate h handle table tier _ =>
    tableLegal s h handle table (fun t => decide (tier ≤ 2) && decide (t.rows ≤ t.pairs.getD tier 0))
  | .tblRowsWrite h handle table _ ids =>
    decide (ids ≠ []) && decide (ids.length ≤ 1012) && tableLegal s h handle table (fun t => ids.all (fun i => decide (i < t.rows)))
  | .tblRetier h handle table items _ =>
    decide (items ≠ []) && decide (items.length ≤ 509) && items.all (fun p => decide (p.2 ≤ 2)) &&
    tableLegal s h handle table (fun t => items.all (fun p => decide (p.1 < t.rows)))
  | .chkFraction _ fraction => decide (fraction ≤ 4)
  | .spRead _ _ count _ _ => decide (1 ≤ count) && decide (count ≤ 65536)
  | .traceArm _ d => decide (1 ≤ d.tileCount) && decide (d.tileCount ≤ 132) && decide (d.sample ≤ 15) && decide (d.bytes % 4096 = 0)
  | _ => true

/-- What a unit of context `c` reads at a range of this package (R332, R350): its bytes, where every access of the range translates and meets
no poisoned byte. -/
def State.reads (s : State) (c a n : Nat) : Option (List Byte) :=
  match (Work.start s).spans c a a n false none with
  | (_, some _) => none
  | (ss, none) =>
    if ss.all (fun p => ownSlot s p.2.2 && !(Work.start s).rdPoison (pkgAddr p.2.2) p.2.1) then
      some (ss.flatMap (fun p => (Work.start s).rdBytes (pkgAddr p.2.2) p.2.1))
    else none

/-- RB_LOAD is refused: the reply carries a status and a reason, EV_RULEBOOK_REFUSED is submitted, and neither memory nor a context
changes (R40). -/
def RefusesBook (c : Instr) (s : State) (h : Hdr) (status reason : Nat) : Prop :=
  Answers c s h 0x10 status reason 0 0 (fun u =>
    u.pad = (s.recorded 0x7001 2 (0xC60 + h.fn) status reason 0 (some h.fn)).pad ∧
    u.ctxs = s.ctxs ∧ u.mem = s.mem ∧ u.poison = s.poison ∧ u.tiles = s.tiles ∧ u.sched = s.sched)

/-! ### The start of an attempt (R107, R257, R260) -/

/-- The words that the TW2 writes into a tile before an attempt, the selections of the variant groups and the keep-all word, lie inside its
stores. -/
def WordsFit (s : State) (b : Book) : Prop :=
  (∀ e, (Work.start s).sect b 0x14 = some e → ∀ g, g < (Work.start s).bookLe b e.off 2 →
    tileAddrOk ((Work.start s).bookLe b (e.off + 16 + 16 * g + 8) 4) 16 = true) ∧
  ∀ h, (Work.start s).tensorHead b = some h → h.keepWord ≠ 0xFFFFFFFF → tileAddrOk h.keepWord 4 = true

/-- Rulebook `b` is stored apart from all that the start of an attempt of context `c` clears: its tiles' stores, with the words lost in
them, and the partial norms of its regions. -/
def ApartFrom (s : State) (c : Nat) (b : Book) : Prop :=
  (∀ n ∈ ctxTiles (s.ctx c), ∀ r ∈ (s.tile n).bad, r.1 + r.2 ≤ 0x10000000) ∧
  ∀ o, o < 2 ^ 34 →
    (normAddr (b.addr + o) < tileWindowBase ∨ tileWindowBase + 132 * 0x10000000 ≤ normAddr (b.addr + o)) ∧
    ∀ r, r < 12 → normAddr (b.addr + o) < partialAddr r 0 ∨ partialAddr r 0 + 0x800000 ≤ normAddr (b.addr + o)

/-! ### The Banker's decisions (R283, R405) -/

/-- Something leaves the package or a unit. -/
def State.sending (s : State) (m : Sent) : State := { s with sent := s.sent ++ [m] }

/-- The state once the Banker has sent a decision to its standby, on whose acknowledgement it waits (R405). -/
def State.recordsAt (s : State) (d : Decision) : State :=
  { s with bank := { s.bank with
      nextSeq := s.bank.nextSeq + 1
      waiting := s.bank.waiting ++ [(s.bank.nextSeq, d)] } }.sending
    (.control (.standbyRecord s.form.epoch s.bank.nextSeq d))

/-- The command has started and waits for `x` while `d` is recorded at the standby; its own effect before that makes `u` of `s`. -/
def DecidesLater (c : Instr) (s : State) (h : Hdr) (op : Nat) (x : Await) (u : State) (d : Decision) : Prop :=
  ∃ t, exec c s = .next t ∧ Waits s t h op x true ∧ t = { u.recordsAt d with rings := t.rings, actives := t.actives }

/-- This package is the Banker of a formed system and has a standby (R404, R405). -/
structure Banks (s : State) : Prop where
  formed : s.form.form = 2
  banker : s.form.banker = true
  standby : s.form.standbyAt ≠ none

/-! ### Ways through the package (R26, R364–R367) -/

/-- The links that a packet takes from router to router. -/
def linksOf (a b : Nat × Nat) (p : Parcel) : List Sent :=
  (meshWay 22 a b).map (fun l => .mesh l.1.1 l.1.2 l.2.1 l.2.2 (decide (dieOfRouter l.1 ≠ dieOfRouter l.2)) p)

/-- The links that a packet takes through the package to a router, or to the hub. -/
def pathOf (from_ : Stand) (to_ : Option (Nat × Nat)) (p : Parcel) : List Sent :=
  match from_.inHub, to_ with
  | true, none => []
  | true, some t => .hubLink (dieOfRouter t) false p :: linksOf (hubRouter t) t p
  | false, none => linksOf (from_.at_ p.pkt) (hubRouter (from_.at_ p.pkt)) p ++ [.hubLink (dieOfRouter (from_.at_ p.pkt)) true p]
  | false, some t => linksOf (from_.at_ p.pkt) t p

/-! ### Requests of the management port (R517, R518) -/

/-- Requests already answered in the running second. -/
def State.mgtUsed (s : State) : Nat := if s.mgt.reqSecond = s.now / secondNs then s.mgt.reqCount else 0

/-- The management processor runs and answers one more request in this second (R517). -/
def MgtOpen (s : State) : Prop := s.mgt.running = true ∧ s.mgtUsed < 1000

/-- The request has been counted (R517). -/
def State.mgtCounted (s : State) : State :=
  { s with mgt := { s.mgt with reqSecond := s.now / secondNs, reqCount := s.mgtUsed + 1 } }

/-- A request with authorization has been counted too (R518). -/
def State.mgtTried (s : State) : State :=
  { s.mgtCounted with mgt := { s.mgtCounted.mgt with authCount := wrapAdd 32 s.mgt.authCount 1 } }

/-! ### Tiles -/

/-- What of a tile its stream is made of: position, loops, trip registers, tallies, move buffer and flights. -/
def Tile.skel (t : Tile) : Tile :=
  { active := t.active, pos := t.pos, loops := t.loops, trips := t.trips, tallies := t.tallies, ended := t.ended
    buffer := t.buffer, flights := t.flights }

/-! ### Moves (R42–R51) -/

/-- Move `m`, of a kind, is the head of tile `n` of context `c` and issues now (R44, R55, R68, R393): its waits are met and its unit is free,
no stream in doubles goes first, a SLOT inside a reduction group stands on a class that may contribute, and no tally is used twice. -/
structure Issues (s : State) (c n m : Nat) (kind : Nat → Bool) : Prop where
  head : headOf s n = some m
  ready : headReady s c n = true
  fits : kind m = true
  first : yieldsTo s c n = false
  slot : mayContribute m = true ∨ (Work.start s).slotGroup c (mvSlot m) = none
  single : doubleUse m = false

/-- The class of a move is the one named. -/
def ofClass (k : Nat) (m : Nat) : Bool := decide (mvClass m = k)

/-- `t` is `u` but for what every issue changes: the issuing tile's stream has moved past its head and is that of `q`, arrivals are due, no
other tile's stream changes; and what the trace, the idle counters and a tally fault of the next head change. -/
structure Issued (u t : State) (n : Nat) (q : Tile) (arr : List (Nat × Nat)) : Prop where
  here : (t.tile n).skel = q.advance.skel
  others : ∀ k, k ≠ n → (t.tile k).skel = (u.tile k).skel
  rest : t = { u with
    tiles := t.tiles, phys := t.phys, ctxs := t.ctxs, pad := t.pad, flash := t.flash, fns := t.fns, sent := t.sent
    idleNs := t.idleNs, arrivals := u.arrivals ++ arr }

/-- A move of a unit: whose tile it is for, which heads it fits, the errors its unit meets, and its effect (R45). -/
structure MoveForm where
  ctx : Nat
  tile : Nat
  upsets : List Upset
  kind : Nat → Bool
  effect : Mover → Nat → Work → Effect × Work

/-- The moves of the array, vector, store, gather, Spinner, prefetcher and update units (R111, R133, R155, R181, R207, R266, R303). -/
def moveForm (s : State) : Instr → Option MoveForm
  | .arrMma c t u => some ⟨c, t, u, ofClass 0x08, mmaEffect⟩
  | .vecEw c t u => some ⟨c, t, u, ofClass 0x10, vecEwEffect⟩
  | .vecFn c t u =>
    some ⟨c, t, u, fun m => ofClass 0x11 m && decide ((Work.start s).vecOp t m ≠ 0x30) && decide ((Work.start s).vecOp t m ≠ 0x31),
      vecFnEffect⟩
  | .bernoulli c t u => some ⟨c, t, u, fun m => ofClass 0x11 m && decide ((Work.start s).vecOp t m = 0x30), vecFnEffect⟩
  | .relpos c t u => some ⟨c, t, u, fun m => ofClass 0x11 m && decide ((Work.start s).vecOp t m = 0x31), vecFnEffect⟩
  | .vecCvt c t u => some ⟨c, t, u, ofClass 0x12, vecCvtEffect⟩
  | .vecFold c t u => some ⟨c, t, u, ofClass 0x13, vecFoldEffect⟩
  | .vecRed c t u => some ⟨c, t, u, ofClass 0x14, vecRedEffect⟩
  | .stCopy c t u => some ⟨c, t, u, ofClass 0x18, fun mv m w => storeEffect mv m w (copyRows u mv m)⟩
  | .stLoad c t u => some ⟨c, t, u, ofClass 0x19, fun mv m w => storeEffect mv m w (loadRows u mv m)⟩
  | .stSave c t u => some ⟨c, t, u, ofClass 0x1A, fun mv m w => storeEffect mv m w (saveRows u mv)⟩
  | .stFill c t u => some ⟨c, t, u, ofClass 0x1B, fun mv m w => storeEffect mv m w (fillRows mv)⟩
  | .stSend c t u => some ⟨c, t, u, ofClass 0x1C, fun mv m w => storeEffect mv m w (sendRows u mv m)⟩
  | .gthRows c t u => some ⟨c, t, u, ofClass 0x20, gthEffect u⟩
  | .elSort c t u => some ⟨c, t, u, ofClass 0x21, elSortEffect⟩
  | .segReduce c t u => some ⟨c, t, u, ofClass 0x22, segReduceEffect⟩
  | .segAdd c t u => some ⟨c, t, u, ofClass 0x23, segAddEffect⟩
  | .spnSample c t u => some ⟨c, t, u, ofClass 0x2C, spnSampleEffect u⟩
  | .spnRoute c t u => some ⟨c, t, u, ofClass 0x2D, spnRouteEffect⟩
  | .pfStage c t u => some ⟨c, t, u, ofClass 0x2E, pfStageEffect u⟩
  | .predict c t u => some ⟨c, t, u, fun m => ofClass 0x2F m && !bit m 99, predictEffect u⟩
  | .demand c t u => some ⟨c, t, u, fun m => ofClass 0x2F m && bit m 99, demandEffect u⟩
  | .updNorm c t u => some ⟨c, t, u, ofClass 0x30, updNormEffect u⟩
  | .ctClose c t => some ⟨c, t, [], ofClass 0x31, ctCloseEffect⟩
  | .updApply c t u => some ⟨c, t, u, ofClass 0x32, updApplyEffect u⟩
  | .tblNorm c t u => some ⟨c, t, u, ofClass 0x38, tblNormEffect u⟩
  | .tblUpdate c t u => some ⟨c, t, u, ofClass 0x39, tblUpdateEffect u⟩
  | _ => none

/-- Who executes the head of a tile (R505). -/
def moverOf (s : State) (c n m : Nat) : Mover :=
  { c := c, n := n, phys := hostMesh s n, index := (s.tile n).pos, src := unitSource n (hostMesh s n) (mvClass m) }

/-- The flight of a move that has issued in `s` and not completed, when its effect has left `r`: the stacks it uses are those that have counted
bytes (R45, R51, R318). -/
def flightOf (s r : State) (n m : Nat) (e : Effect) : Flight :=
  { index := (s.tile n).pos, cls := mvClass m, unit := unitOf (mvClass m), arrivals := arrivalsOf n m e, thief := none, once := e.once
    hbm := e.hbm, out := e.out, errs := [], used := touched s r }

/-! ### Moves that keep their contracts

What a move's descriptor and its operands must be for the move to execute normally; nothing else can stop it. Each condition is that of the
rule that calls its breach UNPREDICTABLE. -/

/-- An output of `len` bytes has its place: in the reduction group of the move's SLOT (R392, R396), else as `own` says (R59). -/
def outputFits (s : State) (mv : Mover) (m len : Nat) (own : Bool) : Bool :=
  match (Work.start s).slotGroup mv.c (mvSlot m) with
  | none => own
  | some g =>
    let p := mvSlot m - g.base
    ((g.mode ≠ 1 && g.mode ≠ 2) || decide ((rankXyz (rankOf (s.ctx mv.c))).along g.axis = p)) && (Work.start s).posOk mv.c g p len

/-- The uniforms that a move draws have their binding (R243). -/
def drawsOk (s : State) (mv : Mover) (stoch : Bool) : Bool := !stoch || ((Work.start s).binding mv).isSome

/-- The planes of a quantized tensor, which take the same room whatever its values (R88, R98). -/
def quantShape (q : QCtl) (tw1 : Bool) (rows cols : Nat) : QTensor :=
  quantTensor q tw1 rows cols (fun _ _ => Val.zero false) (fun _ _ => 0)

/-- What an ARR_MMA writes, with its values left out (R127). -/
def mmaShape (x : Mma) (out : Nat) (tw1 : Bool) : QTensor :=
  if out = 3 then quantShape x.q tw1 (16 * x.m16) (16 * x.n16)
  else
    { rows := List.replicate (16 * x.m16) (List.replicate ((if out = 2 then 8 else 4) * (16 * x.n16)) 0)
      scales := [], sides := [], ev := {} }

/-- ARR_MMA (R72, R74, R111, R115, R117, R127, R128, R144, R243). -/
def lawfulMma (s : State) (mv : Mover) (m : Nat) : Bool :=
  let d := mvDesc m
  let start := bits m 99 99
  let out := bits m 102 100
  let x := (Work.start s).mma mv.n d
  let t := mmaShape x out (s.ctx mv.c).compat
  let sp := x.outPitch * 8 / fmtBits x.q.fmt / (if x.q.scale = 1 then 32 else 16)
  let goesOn := decide (mv.phys = hostMesh s mv.n) && decide (start = 0) && decide ((s.tile mv.n).accs ≠ [])
  tileAddrOk d 64 && decide (x.broken start out (mvSteal m) = none) &&
  (!goesOn || decide ((s.tile mv.n).accShape = 1 + x.m16 + 16 * x.n16 + 2048 * x.mode + 8192 * b2n x.pure)) &&
  (decide (out = 0) ||
    (drawsOk s mv (decide (out = 3) && x.q.stoch) &&
      outputFits s mv m t.flat.length
        (rowsOk x.outAt x.outPitch t.rows && rowsOk x.outScale sp t.scales &&
          rowsOk x.outSide (sp * (if x.q.scale = 1 then 8 else 16)) t.sides)))

/-- A vector operand of `k` elements (R134). -/
def vecSrcOk (x : Vec) (addr desc k : Nat) : Bool :=
  layoutOk (bits desc 3 0) (bits desc 5 4) (bit desc 6) x.count x.rowLen && nearOk addr (linearBytes desc k x.rowLen)

/-- Bytes of a vector move's result have their place, with those of its sidecars behind them (R134). -/
def vecPutFits (s : State) (mv : Mover) (m dst main side : Nat) : Bool :=
  outputFits s mv m (if side = 0 then main else roundUp main 16 + side)
    (nearOk dst main && (decide (side = 0) || nearOk (roundUp (dst + main) 16) side))

/-- `n` results of a vector move have their place in the format that DD and QCTL name (R134, R135, R243). -/
def vecOutOk (s : State) (mv : Mover) (m : Nat) (x : Vec) (n : Nat) : Bool :=
  let fmt := bits x.dd 3 0
  if fmt = 8 then decide (bits x.dd 6 4 = 0) && vecPutFits s mv m x.dst (4 * n) 0
  else
    drawsOk s mv x.q.stoch &&
    (if fmt = 9 then vecPutFits s mv m x.dst (4 * n) 0
    else
      let cols := if x.q.scale = 2 then x.rowLen else n
      let t := quantShape x.q (s.ctx mv.c).compat (n / Nat.max 1 cols) cols
      decide (x.q.fmt ≤ 7) && layoutOk x.q.fmt x.q.scale x.q.side n x.rowLen &&
      vecPutFits s mv m x.dst (t.rows.flatten ++ t.scales.flatten).length t.sides.flatten.length)

/-- Pairs, or values under D0, that a fold reads (R134, R136). -/
def foldSrcOk (x : Vec) (addr : Nat) : Bool := if x.pair then nearOk addr (8 * x.count) else vecSrcOk x addr (x.d.getD 0 0) x.count

/-- VEC_EW, VEC_FN, VEC_CVT, VEC_FOLD and VEC_RED (R133–R138, R243, R246). -/
def lawfulVec (s : State) (mv : Mover) (m : Nat) : Bool :=
  let w := Work.start s
  let x := w.vec mv.n (mvDesc m)
  let src := fun i => x.src.getD i 0
  let d := fun i => x.d.getD i 0
  let whole := decide (x.rowLen ≠ 0) && decide (x.count % Nat.max 1 x.rowLen = 0)
  nearOk (mvDesc m) 32 &&
  (match mvClass m with
  | 0x10 =>
    let nb := if x.bcast then 1 else if x.rowBcast then x.rowLen else x.count
    decide (x.op ≤ 6) && vecSrcOk x (src 0) (d 0) x.count &&
    (if x.op = 6 then vecSrcOk x (src 2) (d 2) x.count && nearOk (src 1) ((x.count + 7) / 8)
     else (!x.rowBcast || x.bcast || decide (x.rowLen ≠ 0)) && vecSrcOk x (src 1) (d 1) nb &&
      (decide (x.op ≠ 3) || vecSrcOk x (src 2) (d 2) x.count)) &&
    vecOutOk s mv m x x.count
  | 0x11 =>
    if x.op = 0x30 then decide (x.count % 8 = 0) && drawsOk s mv true && vecPutFits s mv m x.dst ((x.count + 7) / 8) 0
    else if x.op = 0x31 then
      let q0 := lowBits 24 (w.tLe mv.n (src 0) 4)
      let k0 := lowBits 24 (w.tLe mv.n (src 1) 4)
      whole && (bits x.dd 3 0 = 8 || bits x.dd 3 0 = 9) && nearOk (src 0) 4 && nearOk (src 1) 4 &&
      (decide (x.count = 0) || (decide (q0 + (x.count - 1) / x.rowLen < 2 ^ 23) && decide (k0 + (x.rowLen - 1) < 2 ^ 23))) &&
      vecPutFits s mv m x.dst (4 * x.count) 0
    else decide (0x20 ≤ x.op) && decide (x.op ≤ 0x2B) && vecSrcOk x (src 0) (d 0) x.count && vecOutOk s mv m x x.count
  | 0x12 => vecSrcOk x (src 0) (d 0) x.count && vecOutOk s mv m x x.count
  | 0x13 =>
    (match w.foldGroup mv m with
    | none => false
    | some g =>
      decide (pkgTile (s.ctx mv.c) g.tile = mv.n) && decide (g.count ≠ 0) &&
      (List.range g.count).all (fun i => foldSrcOk x (w.posAddr mv.c g i)) &&
      (if x.pair ∧ bits x.dd 3 0 = 8 then vecPutFits s mv m x.dst (8 * x.count) 0 else vecOutOk s mv m x x.count))
  | _ =>
    whole && decide (0x40 ≤ x.op) && decide (x.op ≤ 0x42) && foldSrcOk x (src 0) &&
    (if x.op = 0x42 then vecPutFits s mv m x.dst (4 * (x.count / x.rowLen)) 0 else vecOutOk s mv m x (x.count / x.rowLen)))

/-- ST_COPY, ST_LOAD, ST_SAVE, ST_FILL and ST_SEND (R144, R153, R155–R158). -/
def lawfulStore (s : State) (mv : Mover) (m : Nat) : Bool :=
  let x := (Work.start s).storeDesc mv.n (mvDesc m)
  let src := tileField x.src
  let dst := tileField x.dst
  let srcOk := tileRowsOk src x.srcPitch x.rows x.bytes
  nearOk (mvDesc m) 32 && x.ok &&
  (match mvClass m with
  | 0x18 =>
    let trans := bit m 99
    let edesc := bits m 107 100
    let width := fmtBits (bits edesc 3 0)
    let rows := if trans then x.bytes * 8 / width else x.rows
    let bytes := if trans then x.rows * width / 8 else x.bytes
    srcOk &&
    (!trans || (decide (deepBase ≤ src) && admits (bits edesc 3 0) 0 false && decide (bits edesc 6 4 = 0) && decide (x.rows % 16 = 0) &&
      decide (rows % 16 = 0))) &&
    (((Work.start s).slotGroup mv.c (mvSlot m)).isSome ||
      rowsApart src x.srcPitch x.bytes dst x.dstPitch bytes x.rows rows) &&
    outputFits s mv m (rows * bytes) (tileRowsOk dst x.dstPitch rows bytes)
  | 0x19 =>
    (bit m 105 && bit (s.tile mv.n).once (bits m 104 99)) ||
    outputFits s mv m (x.rows * x.bytes) (tileRowsOk dst x.dstPitch x.rows x.bytes)
  | 0x1A => srcOk
  | 0x1B => tileRowsOk dst x.dstPitch x.rows x.bytes
  | _ => decide (bits m 106 99 < 11 * regionCount (s.ctx mv.c)) && srcOk && tileRowsOk dst x.dstPitch x.rows x.bytes)

/-- Row `i` of a source exists (R185, R292, R293). -/
def rowExists (q : RowSource) (tbl : Option TableRec) (i : Nat) : Bool :=
  match q.kind with
  | 0 => tileAddrOk (tileField q.base + i * q.pitch) q.bytes
  | 1 | 2 => true
  | _ => (match tbl with | none => false | some t => decide (i < t.rows))

/-- GTH_ROWS and EL_SORT (R144, R180, R183, R185, R191, R292, R293, R299). -/
def lawfulGather (s : State) (mv : Mover) (m : Nat) : Bool :=
  let w := Work.start s
  let d := mvDesc m
  if mvClass m = 0x20 then
    let x := w.gth mv.n d
    let rows := if x.pad16 then roundUp x.count 16 else x.count
    nearOk d 64 && decide (x.count ≠ 0) && decide (x.count ≤ 65536) && decide (x.key ≤ 2) && decide (x.dstPitch % 4 = 0) &&
    tileAddrOk x.el (64 + 16 * (x.first + x.count)) && decide (x.first + x.count ≤ (w.slotHead mv.n x.el).cap) &&
    nearOk (x.dst + (rows - 1) * x.dstPitch) x.src.bytes && nearOk x.dst x.src.bytes && (w.sourceBroken mv.c x.src).isNone &&
    (List.range x.count).all (fun r =>
      let e := w.edge mv.n x.el (x.first + r)
      e.pad || rowExists x.src (w.sourceTable mv.c x.src) (e.keyField x.key))
  else
    let f := w.field mv.n d
    let h := w.slotHead mv.n (f 0 4)
    let bytes := 64 + 16 * h.cap
    let key := fun (e : Edge) => if f 0x10 1 = 1 then e.dst else e.src
    let runs := keyRuns key (sortBy (edgeLt key) ((List.range h.count).map (fun i => w.edge mv.n (f 0 4) i))) 0 none
    nearOk d 32 && decide (f 0x10 1 ≤ 1) && (decide (f 8 4 = 0xFFFFFFFF) || decide (f 0xC 4 ≤ 65536)) &&
    tileAddrOk (f 0 4) bytes && tileAddrOk (f 4 4) bytes && apart (f 0 4) bytes (f 4 4) bytes &&
    decide (h.count ≤ h.cap) && decide (h.cap % 16 = 0) && decide (h.cap ≤ 65536) &&
    (decide (f 8 4 = 0xFFFFFFFF) || nearOk (f 8 4) (16 + 8 * Nat.min (f 0xC 4) runs.length))

/-- SEG_REDUCE and SEG_ADD (R144, R193, R195–R197). -/
def lawfulSeg (s : State) (mv : Mover) (m : Nat) : Bool :=
  let w := Work.start s
  let d := mvDesc m
  let f := w.field mv.n d
  if mvClass m = 0x22 then
    let count := f 8 4
    let width := f 0x18 2
    let fmt := bits (f 0xE 1) 3 0
    let runs := segRuns (fun e => if f 0xC 1 = 1 then e.dst else e.src) ((List.range count).map (fun i => w.edge mv.n (f 0 4) (f 4 4 + i))) 0
    nearOk d 64 && decide (count ≠ 0) && decide (count ≤ 65536) && decide (f 0xC 1 ≤ 1) && decide (width ≠ 0) &&
    (fmt = 0 || fmt = 1 || fmt = 8) && decide (bits (f 0xE 1) 6 4 = 0) && decide (8 * width ≤ f 0x20 4) &&
    tileAddrOk (f 0 4) (64 + 16 * (f 4 4 + count)) && nearOk (f 0x10 4 + (count - 1) * f 0x14 4) (width * fmtBits fmt / 8) &&
    nearOk (f 0x28 4) 4 && (runs.isEmpty || nearOk (f 0x1C 4 + (runs.length - 1) * f 0x20 4) (8 * width)) &&
    (decide (f 0x24 4 = 0xFFFFFFFF) || nearOk (f 0x24 4) (4 * runs.length))
  else
    let width := f 0x1C 2
    let count := w.tLe mv.n (f 0xC 4) 4
    nearOk d 32 && decide (width ≠ 0) && nearOk (f 0xC 4) 4 && nearOk (f 8 4) (4 * count) &&
    (List.range count).all (fun i =>
      let k := w.tLe mv.n (f 8 4 + 4 * i) 4
      decide (f 0x18 4 ≤ k) && nearOk (f 0 4 + i * f 4 4) (8 * width) &&
      tileAddrOk (f 0x10 4 + (k - f 0x18 4) * f 0x14 4) (8 * width))

/-- What a unit reads at a context range, where its walk and translation succeed. -/
def whereRead (s : State) (c a n : Nat) (f : List Byte → Bool) : Bool :=
  match ((Work.start s).ctxRead c a n []).1 with
  | .ok bs => f bs
  | .error _ => true

/-- A node list lies in its store (R213). -/
def nodeListOk (s : State) (n a : Nat) : Bool :=
  decide (a % 64 = 0) && tileAddrOk a 16 && tileAddrOk a (16 + 4 * (Work.start s).tLe n a 4)

/-- The ids of a node list. -/
def nodesAt (s : State) (n a : Nat) : List Nat :=
  (List.range ((Work.start s).tLe n a 4)).map (fun i => (Work.start s).tLe n (a + 16 + 4 * i) 4)

/-- A node of a graph and its edges lie inside the graph (R211). -/
def nodeOk (s : State) (c : Nat) (g : Graph) (v : Nat) : Bool :=
  decide (v < g.nodes) && whereRead s c (g.offsets + 8 * v) 16 (fun bs =>
    let lo := bits (ofLe bs) 63 0
    let hi := bits (ofLe bs) 127 64
    decide (lo ≤ hi) && decide (hi ≤ g.edges) &&
    (List.range (hi - lo)).all (fun j => whereRead s c (g.columns + 4 * (lo + j)) 4 (fun bs => decide (ofLe bs < g.nodes))))

/-- SPN_SAMPLE, SPN_ROUTE, PF_STAGE and PF_BLOCKS (R144, R207, R209–R211, R213, R214, R219–R223, R225, R227–R229, R231, R292, R293, R299). -/
def lawfulSpinner (s : State) (mv : Mover) (m : Nat) : Bool :=
  let w := Work.start s
  let d := mvDesc m
  let f := w.field mv.n d
  decide (mv.n % 11 = 0) && nearOk d 64 &&
  (match mvClass m with
  | 0x2C =>
    let x := w.sample mv.n d
    (match x.broken, w.regionTile mv x.target, w.fanout mv.c x.policy with
    | none, some n, some _ =>
      tileAddrOk x.slot ((2 * x.maxCont - 1) * x.pitch + 64 + 16 * x.cap) && (!x.hasNext || tileAddrOk x.next (16 + 4 * x.nextCap)) &&
      whereRead s mv.c x.graph 64 (fun gb =>
        let g := Graph.ofNat (ofLe gb)
        decide (g.nodes ≠ 0) && decide (x.graph % 64 = 0) && !w.edgeCountWrong mv.c g && nodeListOk s n x.frontier &&
        (nodesAt s n x.frontier).all (nodeOk s mv.c g))
    | _, _, _ => false)
  | 0x2D => let x := w.route mv.n d; (w.regionTile mv x.target).isSome && x.ok
  | 0x2E =>
    let src : RowSource := { kind := f 0xC 1, base := f 0x10 8, pitch := f 0x18 4, bytes := f 0x1C 4, cache := bit (f 0xD 1) 0 }
    (match w.regionTile mv (f 0xE 1), w.regionTile mv (f 0xF 1) with
    | some _, some tn =>
      let mine := ((nodesAt s tn (f 0 4)).drop (f 4 4)).take (f 8 4)
      decide (f 8 4 ≠ 0) && decide (f 8 4 ≤ 16777216) && decide (src.kind ≠ 0) && decide (f 0x24 4 % 4 = 0) &&
      decide (deepBase ≤ f 0x20 4) && (w.sourceBroken mv.c src).isNone && nodeListOk s tn (f 0 4) &&
      (mine.isEmpty || tileAddrOk (f 0x20 4 + (mine.length - 1) * f 0x24 4) src.bytes) &&
      mine.all (rowExists src (w.sourceTable mv.c src))
    | _, _ => false)
  | _ =>
    (match w.regionTile mv (f 0xC 1), w.layer mv.c (f 0 2) with
    | some _, some (b, l) =>
      let at_ := w.places mv.c b l
      let owners := at_.map (·.1)
      at_.all (fun p => decide (deepBase ≤ p.2) && tileAddrOk p.2 (l.blocks * l.blockBytes)) &&
      (if bit m 99 then
        nearOk (f 8 4) (4 * l.units) && owners.all (fun o => nearOk l.active (4 * (owners.filter (fun x => x = o)).length))
      else decide (f 2 2 ≠ 0) && decide (f 2 2 ≤ 4096) && nearOk (f 4 4) (4 * l.units))
    | _, _ => false))

/-- A table's gradient list has room for its rows, which rise and exist (R302). -/
def gradListOk (s : State) (c : Nat) (t : TableRec) : Bool :=
  whereRead s c t.grad 16 (fun hb =>
    let n := ofLe (hb.take 4)
    decide (n ≤ t.gradCap) && whereRead s c (t.grad + 16) (4 * n) (fun ib =>
      let ids := (List.range n).map (fun k => ofLe (slice ib (4 * k) 4))
      decide (n = 0) || (rising ids && ids.all (fun i => decide (i < t.rows)))))

/-- UPD_NORM, CT_CLOSE, UPD_APPLY, TBL_NORM and TBL_UPDATE (R262, R264, R266, R285, R292, R302, R303). -/
def lawfulUpdate (s : State) (mv : Mover) (m : Nat) : Bool :=
  let w := Work.start s
  let x := s.ctx mv.c
  match x.running with
  | none => decide (mvClass m ≠ 0x31) || (decide (ctxTile x mv.n = 0) && !x.turn.closed)
  | some b =>
    let ps := w.namedPieces mv m b
    let pieces := decide (mv.n % 11 = 0) && decide (bits m 122 102 ≠ 0) && decide (bits m 122 102 ≤ 1048576) &&
      ps.all (fun p => decide (p.n % 32 = 0) && decide (p.n ≠ 0) && decide (p.n ≤ 2 ^ 31))
    let table := fun (f : TableRec → Bool) => match w.table b (bits m 87 82) with
      | none => false
      | some t => t.train && decide (ctxTile x mv.n = 11 * t.region) && f t
    match mvClass m with
    | 0x30 => pieces
    | 0x31 => decide (ctxTile x mv.n = 0) && !x.turn.closed
    | 0x32 => pieces && (match w.tensorHead b with | none => true | some h => ps.all (w.pieceLawful b h))
    | 0x38 => table (fun t => gradListOk s mv.c t)
    | _ => table (fun t =>
        decide ((Recipe.read (w.reader b 0x13) t.recipe).kind = 3) && decide (t.recipe < w.recipeCount b) && gradListOk s mv.c t)

/-- The classes whose units read no context memory: what they do at issue does not depend on the errors that their reads meet. -/
def tileOnly (k : Nat) : Bool := [0x08, 0x10, 0x11, 0x12, 0x13, 0x14, 0x1B, 0x21, 0x22, 0x23, 0x2D, 0x31].contains k

/-- The move's descriptor and operands are as their rules ask, and a unit that reads context memory meets no error there. -/
def lawful (s : State) (mv : Mover) (m : Nat) (u : List Upset) : Bool :=
  let k := mvClass m
  (u.isEmpty || tileOnly k) &&
  (if k = 0x08 then lawfulMma s mv m
  else if k < 0x18 then lawfulVec s mv m
  else if k < 0x20 then lawfulStore s mv m
  else if k = 0x20 ∨ k = 0x21 then lawfulGather s mv m
  else if k < 0x2C then lawfulSeg s mv m
  else if k < 0x30 then lawfulSpinner s mv m
  else lawfulUpdate s mv m)

end Sys2Proof.Machine
end

