-- ==== Sys2Proof/WellFormed.lean ====
section
/-! DEFINITION. Well-formed commands: operands that name something the block has, each within the width of its field. -/

namespace Sys2Proof

open Sys2Proof.Machine

/-- A header of R451 or R453: its function and ring exist, and each field fits its width. -/
def Machine.Hdr.wf (h : Hdr) : Bool :=
  decide (h.fn < 16) && decide (h.ring < 4) && decide (h.length < 256) && decide (h.context < 16) && decide (h.tag < 2 ^ 32)

/-- A management request's id fits its field, and its AUTH has 16 bytes (R517, R518). -/
def Machine.MgtHdr.wf (m : MgtHdr) : Bool :=
  decide (m.reqId < 2 ^ 32) && (match m.auth with | some a => decide (a.length = 16) | none => true)

/-- A tracked unit that the package has (R10, R483). -/
def Machine.UnitId.wf (u : UnitId) : Bool :=
  match u with
  | .tile p => decide (p < 144)
  | .spinner r => decide (r < 12)
  | .update r => decide (r < 12)

/-- Coordinates or a rank: each part 0 to 15 (R32, R389). -/
def Machine.Xyz.wf (p : Xyz) : Bool := decide (p.x < 16) && decide (p.y < 16) && decide (p.z < 16)

/-- A packet with its virtual channel: fields within their widths (R354, R356). -/
def Machine.Parcel.wf (p : Parcel) : Bool :=
  decide (p.vc < 5) && decide (p.pkt.type < 16) && decide (p.pkt.len ≤ 224) && p.pkt.dst.wf && p.pkt.src.wf &&
  decide (p.pkt.addr < 2 ^ 44) && decide (p.pkt.tag < 2 ^ 16)

/-- A well-formed command. -/
def Instr.wf (i : Instr) : Bool :=
  match i with
  | .nop h => h.wf
  | .fence h => h.wf
  | .devQuery h _ _ => h.wf
  | .ctxOpen h _ _ _ _ _ => h.wf
  | .ctxClose h => h.wf
  | .ctxPolicySet h _ => h.wf
  | .runProgram h _ _ _ => h.wf
  | .resume h _ => h.wf
  | .ctxSegRelease h _ => h.wf
  | .ctxSegAllocStack h _ _ stack _ => h.wf && decide (stack < 12)
  | .ctxSegAllocSpread h _ _ _ => h.wf
  | .ctxSegMapBoard h _ _ _ _ _ => h.wf
  | .ctxSegMapTile h _ _ _ _ => h.wf
  | .rbLoad h _ _ _ => h.wf
  | .rbUnload h _ => h.wf
  | .turnRun h _ => h.wf
  | .turnStopAfter h => h.wf
  | .turnStopNow h => h.wf
  | .turnStatus h => h.wf
  | .abort h ring _ _ _ _ => h.wf && decide (ring < 4)
  | .memWrite h _ _ _ => h.wf
  | .memRead h _ _ _ _ _ => h.wf
  | .memFill h _ _ _ _ => h.wf
  | .memCopy h _ _ _ _ => h.wf
  | .graphLoad h _ _ _ => h.wf
  | .graphPatch h _ _ => h.wf
  | .tblCreate h _ _ _ _ => h.wf
  | .tblRowsWrite h _ _ _ _ => h.wf
  | .tblPublish h _ _ => h.wf
  | .tblRetier h _ _ _ _ => h.wf
  | .chkFraction h _ => h.wf
  | .chkSelftest h _ _ => h.wf
  | .fltQuery h _ _ => h.wf
  | .spRead h _ _ _ _ => h.wf
  | .spClear h _ _ => h.wf
  | .cntSnapshot h _ _ _ => h.wf
  | .traceArm h _ => h.wf
  | .traceDisarm h => h.wf
  | .pwrPolicy h _ _ _ _ _ => h.wf
  | .sysJoin h _ _ _ => h.wf
  | .sysFormForm h _ _ _ => h.wf
  | .sysFormPlace h _ _ => h.wf
  | .sysFormRemove h _ => h.wf
  | .sysRehomeQuery h => h.wf
  | .sysRehomeMove h _ _ => h.wf
  | .sysRehomeDeclareLost h _ => h.wf
  | .sysRehomeExclude h _ _ => h.wf
  | .sysTimeRead h => h.wf
  | .sysTimeSet h _ => h.wf
  | .unsupportedOpcode h _ => h.wf
  | .sqDoorbell fn ring _ => decide (fn < 16) && decide (ring < 4)
  | .cqDoorbell fn ring _ => decide (fn < 16) && decide (ring < 4)
  | .flush fn ring => decide (fn < 16) && decide (ring < 4)
  | .ringEnable fn ring _ => decide (fn < 16) && decide (ring < 4)
  | .ringDisable fn ring => decide (fn < 16) && decide (ring < 4)
  | .intStatusClear fn _ => decide (fn < 16)
  | .registerWrite fn _ _ _ _ => decide (fn < 16)
  | .counterLowRead _ _ _ => true
  | .counterHighRead _ _ _ => true
  | .msixExpiry fn _ => decide (fn < 16)
  | .coreDispatch core => decide (core < 12)
  | .coreReleaseYield core => decide (core < 12)
  | .coreReleaseBlock core _ => decide (core < 12)
  | .coreReleaseExit core => decide (core < 12)
  | .coreSignal core _ => decide (core < 12)
  | .corePreemptClear core _ => decide (core < 12)
  | .quantumExpiry core => decide (core < 12)
  | .svcExit core _ => decide (core < 12)
  | .svcYield core => decide (core < 12)
  | .svcWaitEvent core _ => decide (core < 12)
  | .svcSignal core _ => decide (core < 12)
  | .svcSleepUntil core _ => decide (core < 12)
  | .sleepExpiry _ => true
  | .svcTimeRead core => decide (core < 12)
  | .svcCtxRead core _ _ _ _ => decide (core < 12)
  | .svcCtxWrite core _ _ _ _ => decide (core < 12)
  | .svcRegRead core _ => decide (core < 12)
  | .svcSpWrite core _ _ _ _ => decide (core < 12)
  | .svcSetHandler core _ => decide (core < 12)
  | .svcUnknown core _ => decide (core < 12)
  | .userTrap core _ _ _ => decide (core < 12)
  | .coreStop core _ => decide (core < 12)
  | .mgtWatchdogReset _ => true
  | .moveFetchDone c t _ _ => decide (c < 16) && decide (t < 132)
  | .seqNop c t => decide (c < 16) && decide (t < 132)
  | .seqEnd c t => decide (c < 16) && decide (t < 132)
  | .seqLoop c t => decide (c < 16) && decide (t < 132)
  | .seqTrip c t _ => decide (c < 16) && decide (t < 132)
  | .seqTally c t => decide (c < 16) && decide (t < 132)
  | .seqSignal c t => decide (c < 16) && decide (t < 132)
  | .seqPower c t => decide (c < 16) && decide (t < 132)
  | .seqWindow c t => decide (c < 16) && decide (t < 132)
  | .windowEnd region => (match region with | some i => decide (i < 12) | none => true)
  | .arrMma c t _ => decide (c < 16) && decide (t < 132)
  | .drainDone c t => decide (c < 16) && decide (t < 132)
  | .vecEw c t _ => decide (c < 16) && decide (t < 132)
  | .vecFn c t _ => decide (c < 16) && decide (t < 132)
  | .bernoulli c t _ => decide (c < 16) && decide (t < 132)
  | .relpos c t _ => decide (c < 16) && decide (t < 132)
  | .vecCvt c t _ => decide (c < 16) && decide (t < 132)
  | .vecFold c t _ => decide (c < 16) && decide (t < 132)
  | .vecRed c t _ => decide (c < 16) && decide (t < 132)
  | .stCopy c t _ => decide (c < 16) && decide (t < 132)
  | .stLoad c t _ => decide (c < 16) && decide (t < 132)
  | .stSave c t _ => decide (c < 16) && decide (t < 132)
  | .stFill c t _ => decide (c < 16) && decide (t < 132)
  | .stSend c t _ => decide (c < 16) && decide (t < 132)
  | .stRcClear c t => decide (c < 16) && decide (t < 132)
  | .stRcGhost c t => decide (c < 16) && decide (t < 132)
  | .gthRows c t _ => decide (c < 16) && decide (t < 132)
  | .laneStealChunk c t _ _ _ => decide (c < 16) && decide (t < 132)
  | .elSort c t _ => decide (c < 16) && decide (t < 132)
  | .segReduce c t _ => decide (c < 16) && decide (t < 132)
  | .segAdd c t _ => decide (c < 16) && decide (t < 132)
  | .stealOffer c t _ => decide (c < 16) && decide (t < 132)
  | .stealRequest c t => decide (c < 16) && decide (t < 132)
  | .stealGrant c t _ _ => decide (c < 16) && decide (t < 132)
  | .stolenMoveDone c t _ => decide (c < 16) && decide (t < 132)
  | .moveCompletion c t _ => decide (c < 16) && decide (t < 132)
  | .arrivalCounted c t _ => decide (c < 16) && decide (t < 132)
  | .tallyStall c => decide (c < 16)
  | .doublesPageIn t _ _ => decide (t < 132)
  | .spnSample c t _ => decide (c < 16) && decide (t < 132)
  | .spnRoute c t _ => decide (c < 16) && decide (t < 132)
  | .pfStage c t _ => decide (c < 16) && decide (t < 132)
  | .predict c t _ => decide (c < 16) && decide (t < 132)
  | .predictFetchDone c t _ _ => decide (c < 16) && decide (t < 132)
  | .demand c t _ => decide (c < 16) && decide (t < 132)
  | .updNorm c t _ => decide (c < 16) && decide (t < 132)
  | .tblNorm c t _ => decide (c < 16) && decide (t < 132)
  | .ctClose c t => decide (c < 16) && decide (t < 132)
  | .ctContribution _ rank turn attempt _ => decide (rank < 4096) && decide (turn < 2 ^ 32) && decide (attempt < 256)
  | .ctRecord c turn attempt _ _ => decide (c < 16) && decide (turn < 2 ^ 32) && decide (attempt < 256)
  | .updApply c t _ => decide (c < 16) && decide (t < 132)
  | .tblUpdate c t _ => decide (c < 16) && decide (t < 132)
  | .attemptStart c => decide (c < 16)
  | .ready _ rank turn attempt => decide (rank < 4096) && decide (turn < 2 ^ 32) && decide (attempt < 256)
  | .go c turn attempt => decide (c < 16) && decide (turn < 2 ^ 32) && decide (attempt < 256)
  | .poisonReceived _ rank turn attempt _ => decide (rank < 4096) && decide (turn < 2 ^ 32) && decide (attempt < 256)
  | .replay c turn attempt _ => decide (c < 16) && decide (turn < 2 ^ 32) && decide (attempt < 256)
  | .vote c => decide (c < 16)
  | .yesReceived _ rank turn attempt => decide (rank < 4096) && decide (turn < 2 ^ 32) && decide (attempt < 256)
  | .standbyRecord epoch _ _ => decide (epoch < 65536)
  | .standbyAck epoch _ => decide (epoch < 65536)
  | .commit c turn attempt => decide (c < 16) && decide (turn < 2 ^ 32) && decide (attempt < 256)
  | .mirrorApplyDone c _ epoch _ _ => decide (c < 16) && decide (epoch < 65536)
  | .mirrorCopyDone c _ _ => decide (c < 16)
  | .contextSwitch c _ => decide (c < 16)
  | .publishComplete c handle _ _ => decide (c < 16) && decide (handle < 4)
  | .cancel _ _ turn => decide (turn < 2 ^ 32)
  | .turnStopAtBanker _ _ => true
  | .selftestRunStart unit => unit.wf
  | .selftestRunEnd unit _ => unit.wf
  | .observationEnd unit => unit.wf
  | .tileScrub _ _ _ _ _ => true
  | .scrubNapWake region => decide (region < 12)
  | .sectorRequest q => decide (q.stack < 12)
  | .hbmRefresh stack _ => decide (stack < 12)
  | .hbmCalibration stack _ => decide (stack < 12)
  | .hbmPatrolScrub stack _ _ _ => decide (stack < 12)
  | .selfRefreshEntry stack => decide (stack < 12)
  | .pktWrite p => p.wf
  | .pktWriteAcked p => p.wf
  | .pktRead p _ => p.wf
  | .pktReadResp p => p.wf
  | .pktWriteAck p => p.wf
  | .pktArrival p => p.wf
  | .pktCollective p => p.wf
  | .pktErrorResp p => p.wf
  | .routeHop p from_ _ =>
    p.wf && (match from_ with | .port i => decide (i < 6) | .router m => decide (m < 144) | .hub => true)
  | .dataFrame port flit line => decide (port < 6) && decide (flit.length = 256) && line.all (fun e => decide (e.1 < 280))
  | .ctlIdle port _ _ => decide (port < 6)
  | .ctlNak port _ _ => decide (port < 6)
  | .nakRetry port => decide (port < 6)
  | .ackTimeout port => decide (port < 6)
  | .idleTimer port => decide (port < 6)
  | .laneBad port _ => decide (port < 6)
  | .laneChange port _ _ _ _ => decide (port < 6)
  | .reframeDone port => decide (port < 6)
  | .reframeTimeout port => decide (port < 6)
  | .ackStall port => decide (port < 6)
  | .signalLoss port => decide (port < 6)
  | .hello port _ => decide (port < 6)
  | .recal port _ _ => decide (port < 6)
  | .recalDue port => decide (port < 6)
  | .recalPauseEnd port _ => decide (port < 6)
  | .trainStepDone port _ => decide (port < 6)
  | .trainTimeout port => decide (port < 6)
  | .signalQuiet port => decide (port < 6)
  | .signalDetect port _ => decide (port < 6)
  | .delayProbeTimer => true
  | .delayProbe port epoch _ _ => decide (port < 6) && decide (epoch < 65536)
  | .delayReply port epoch _ _ _ _ _ => decide (port < 6) && decide (epoch < 65536)
  | .timeHoldover => true
  | .timeLock => true
  | .refclkTick => true
  | .formProbe port epoch _ => decide (port < 6) && decide (epoch < 65536)
  | .formReport _ => true
  | .formQuiet => true
  | .formAssign _ => true
  | .formAck _ => true
  | .joinReport neighbour port _ => neighbour.wf && decide (port < 6)
  | .missingList epoch _ => decide (epoch < 65536)
  | .bankerHeartbeat => true
  | .heartbeat epoch banker => decide (epoch < 65536) && banker.wf
  | .heartbeatTimeout => true
  | .alive src => src.wf
  | .aliveTimeout src => src.wf
  | .lost src _ by_ => src.wf && by_.wf
  | .rehomeAssign epoch _ rank => decide (epoch < 65536) && rank.wf
  | .rehomeCopyDone c _ _ => decide (c < 16)
  | .regionEntryDone region => decide (region < 12)
  | .demandWake region => decide (region < 12)
  | .regionWakeDone region => decide (region < 12)
  | .partialWakeDone region => decide (region < 12)
  | .voltageSettled region => decide (region < 12)
  | .currentSample _ _ _ _ _ => true
  | .powerCapCheck _ => true
  | .thermalSample _ _ => true
  | .aonResetN => true
  | .aonRelease _ _ _ => true
  | .pwrGoodLow => true
  | .pkgResetN => true
  | .hubStageStart _ => true
  | .hbmTrainingDone stack _ => decide (stack < 12)
  | .perstN => true
  | .perstRelease => true
  | .pcieLinkUp => true
  | .flr fn => decide (fn < 16)
  | .vcoreUnder => true
  | .vaonFall => true
  | .spSubmit _ _ _ _ _ _ _ => true
  | .tokenRefill _ => true
  | .spPushStatus => true
  | .pldmRequest _ => true
  | .mgtStatus m => m.wf
  | .mgtSpRead m _ _ => m.wf
  | .mgtRegRead m _ _ => m.wf
  | .flashLogRead m _ _ => m.wf
  | .mgtSpClear m _ _ => m.wf
  | .keySet m _ _ => m.wf
  | .keySlot m _ _ _ => m.wf
  | .collectorSet m _ port _ _ => m.wf && decide (port < 6)
  | .debugMsg m core _ _ => m.wf && decide (core < 12)
  | .mgtSys m _ _ => m.wf
  | .addrSet m _ _ => m.wf
  | .traceQueueDrain t _ => decide (t < 132)
  | .selfRefreshExit stack => decide (stack < 12)
  | .hbmRetrainDone stack _ => decide (stack < 12)
  | .hbmBlockRequest q => decide (q.stack < 12)
  | .hostReadData ring _ _ _ => decide (ring < 65)
  | .schedulerWindowEnd => true
  | .hubFirmwareVerified _ _ => true
  | .vio18Loss => true
  | .vio18Return => true

end Sys2Proof
end

