-- ==== Sys2Proof/Certificates/Slice0/Obligations.lean ====
section
/-! DEFINITION. The statements for the provers. Each says in its docstring which rules of spec/ it formalises; where it rests on a
choice of the model it names the log entry. A frame is written as an update: `t = { s with f := t.f }` says that `t` is `s` in every
field but `f`. -/

open Sys2Proof Sys2Proof.Machine

/-! ### The step, the queue and reset -/

/-- A step takes the command at the front of the queue and runs it over the queue's rest; with nothing waiting the block idles
(the model's choice, log entry 2). -/
def Obligations.StepRunsFront : Prop :=
  (∀ (c : Instr) (rest : List Instr) (s : State), s.pending = c :: rest → step s = exec c { s with pending := rest }) ∧
  ∀ s : State, s.pending = [] → step s = .next s

/-- No command touches the queue, and none is refused: a command answers a next state with the queue it met, or stops where
the spec leaves the behaviour UNPREDICTABLE (R3, R4). The commands of `neverStops`, for which no rule does, answer a next state in every
state and with every operand. -/
def Obligations.CommandsLeaveQueue : Prop :=
  (∀ (c : Instr) (s : State),
    (∃ t, exec c s = .next t ∧ t.pending = s.pending) ∨ ∃ rule, exec c s = .fault (.unpredictable rule)) ∧
  ∀ (c : Instr) (s : State), neverStops c = true → ∃ t, exec c s = .next t

/-- Every step keeps the four memories in canonical form: package memory, the poison marks, host memory as the block has written it,
and the programs' writable space. -/
def Obligations.StepKeepsMemories : Prop :=
  ∀ s t : State, s.memOk = true → step s = .next t → t.memOk = true

/-- What no step does to the records (R508, R510): at most 65,536 are stored, of which at most 64,512 below FATAL; every CRITICAL or FATAL
record that a step stores is copied into the flash log, which keeps the last 4,096 and is never cleared. A unit that is retired
stays so. -/
def Obligations.RecordStoresStayInBounds : Prop :=
  ∀ s t : State, step s = .next t → s.pad.recs.length ≤ 65536 → (s.pad.recs.filter (fun r => decide (r.sev ≠ 6))).length ≤ 64512 →
    s.flash.log.length ≤ 4096 →
    t.pad.recs.length ≤ 65536 ∧ (t.pad.recs.filter (fun r => decide (r.sev ≠ 6))).length ≤ 64512 ∧
    (∃ rs : List Rec, (∀ r ∈ rs, 5 ≤ r.sev) ∧ (∀ r ∈ t.pad.recs, 5 ≤ r.sev → r ∉ s.pad.recs → r ∈ rs) ∧
      t.flash.log = (s.flash.log ++ rs).drop ((s.flash.log ++ rs).length - 4096)) ∧
    ∀ u ∈ s.flash.retired, u ∈ t.flash.retired

/-! ### The hub processors' scheduler (R419–R428) -/

/-- The scheduler's choice (R421). A thread is warm on a core where the core was the last to run it and its last run ended less than
AFFINITY_US (20 at reset) before now. The choice is the first in ready order of a class of the READY threads of the highest priority that
the core may run: those warm on the core when there are any, else those warm on no core when there are any, else all; with no
READY thread for it the core waits. -/
def Obligations.SelectPicksByPriority : Prop :=
  (∀ (s : State) (th : Thread) (core : Nat),
    warm s th core = true ↔ th.lastCore = some core ∧ s.now < th.lastEnd + s.sched.affinityUs * 1000) ∧
  State.reset.sched.affinityUs = 20 ∧
  ∀ (s : State) (core : Nat),
    (select s core = none ↔ ∀ n ∈ s.sched.ready, eligible (s.thread n) core = false) ∧
    (select s core = none → (s.core core).takes = true → (s.core core).thread = none →
      ∃ t, exec (.coreDispatch core) s = .next t ∧ (t.core core).waits = true) ∧
    ∀ m, select s core = some m →
      eligible (s.thread m) core = true ∧
      (∀ n ∈ s.sched.ready, eligible (s.thread n) core = true → (s.thread n).prio ≤ (s.thread m).prio) ∧
      (∀ n ∈ s.sched.ready, eligible (s.thread n) core = true → (s.thread n).prio = (s.thread m).prio →
        warm s (s.thread n) core = true → warm s (s.thread m) core = true) ∧
      (warm s (s.thread m) core = false → ∀ n ∈ s.sched.ready, eligible (s.thread n) core = true →
        (s.thread n).prio = (s.thread m).prio → (∀ k, k < 12 → warm s (s.thread n) k = false) →
        ∀ k, k < 12 → warm s (s.thread m) k = false) ∧
      ∃ before after, s.sched.ready = before ++ m :: after ∧
        ∀ n ∈ before, eligible (s.thread n) core = true → (s.thread n).prio = (s.thread m).prio →
          (warm s (s.thread m) core = true → warm s (s.thread n) core = false) ∧
          (warm s (s.thread m) core = true ∨ ((∀ k, k < 12 → warm s (s.thread m) k = false) ∧ ∃ k, k < 12 ∧ warm s (s.thread n) k = true))

/-- A thread that becomes READY while an eligible core waits is assigned at once (R422): to the waiting core it is warm on, else to the
lowest-numbered one; and of two that become READY in one cycle with one core waiting, the first in ready order gets it. -/
def Obligations.ReadyThreadsGoToWaitingCores : Prop :=
  (∀ (s : State) (m d k : Nat), (s.thread m).deadline = some d → (s.thread m).st = .blocked → d ≤ s.now → k < 12 →
    (s.core k).waits = true → eligible (s.thread m) k = true →
    (warm s (s.thread m) k = true ∨
      (∀ j, j < 12 → (s.core j).waits = true → eligible (s.thread m) j = true → warm s (s.thread m) j = false ∧ k ≤ j)) →
    ∃ t, exec (.sleepExpiry m) s = .next t ∧ t = { s with sched := t.sched, sent := t.sent } ∧ (t.core k).thread = some m ∧
      (t.core k).asking = false ∧ (t.thread m).st = .running ∧ t.sched.ready = s.sched.ready.filter (fun x => x ≠ m) ∧
      t.sent = s.sent ++ [.value (16 + k) (dispatchWord s m k)] ∧ ∀ j, j ≠ k → t.core j = s.core j) ∧
  ∀ (s : State) (core ev m n k : Nat), (s.core core).takes = true → blockedOn s ev = [m, n] → m < n → k < 12 → (s.core k).waits = true →
    eligible (s.thread m) k = true → eligible (s.thread n) k = true → (∀ j, j < 12 → (s.core j).waits = true → j = k) →
    ∃ t, exec (.coreSignal core ev) s = .next t ∧ (t.core k).thread = some m ∧ (t.thread m).st = .running ∧ (t.thread n).st = .ready ∧
      t.sched.ready = (s.sched.ready.filter (fun x => x ≠ m)).filter (fun x => x ≠ n) ++ [n]

/-- CORE_DISPATCH of a core that takes work, holds no thread and does not wait yet: it gets the scheduler's choice, which
leaves its ready list and runs, and the read answers the dispatch word; or the core waits. Nothing outside the scheduler
changes. A core that is stopped, holds a thread or waits already gains nothing.
What a core's three releases do to the thread it holds (R425, R426). YIELD and a quantum that ends with an equal waiting put it
at the tail of the ready list (where no core waits to take it at once), BLOCK leaves it BLOCKED on the event or, when the event is
pending, READY with the bit cleared, EXIT leaves it FREE; in each case the core is free, and nothing outside the scheduler and what is
sent changes. -/
def Obligations.CoresTakeAndReleaseThreads : Prop :=
  (∀ (core : Nat) (s : State),
     ((s.core core).takes = true → (s.core core).thread = none → (s.core core).asking = false →
       ∃ t, exec (.coreDispatch core) s = .next t ∧ t = { s with sched := t.sched, sent := t.sent } ∧
         (select s core = none →
           t.core core = { s.core core with asking := true } ∧ t.sched.ready = s.sched.ready ∧ t.sent = s.sent) ∧
         ∀ m, select s core = some m →
           (t.core core).thread = some m ∧ (t.core core).dispatchReg = dispatchWord s m core ∧ (t.thread m).st = .running ∧
           t.sched.ready = s.sched.ready.filter (fun x => x ≠ m) ∧
           t.sent = s.sent ++ [.value (16 + core) (dispatchWord s m core)]) ∧
     ((s.core core).takes = false ∨ (s.core core).thread.isSome = true ∨ (s.core core).asking = true →
       exec (.coreDispatch core) s = .next s)) ∧
  (∀ (core m : Nat) (s : State), (s.core core).thread = some m →
     (∃ t, exec (.coreReleaseYield core) s = .next t ∧ t = { s with sched := t.sched, sent := t.sent } ∧
       t.sched.pendingEv = s.sched.pendingEv ∧
       ((∀ k, (s.core k).asking = false) →
         (t.core core).thread = none ∧ (t.thread m).st = .ready ∧ t.sent = s.sent ∧
         t.sched.ready = s.sched.ready.filter (fun x => x ≠ m) ++ [m])) ∧
     (∃ t, exec (.coreReleaseExit core) s = .next t ∧ t = { s with sched := t.sched } ∧
       (t.core core).thread = none ∧ (t.thread m).st = .free ∧ t.sched.ready = s.sched.ready ∧
       (∀ k, k ≠ core → t.core k = s.core k) ∧ ∀ n, n ≠ m → t.thread n = s.thread n) ∧
     (∀ ev, ev ∉ s.sched.pendingEv →
       ∃ t, exec (.coreReleaseBlock core ev) s = .next t ∧ t = { s with sched := t.sched } ∧
         (t.core core).thread = none ∧ (t.thread m).st = .blocked ∧ (t.thread m).event = some ev ∧
         t.sched.ready = s.sched.ready ∧ t.sched.pendingEv = s.sched.pendingEv ∧
         (∀ k, k ≠ core → t.core k = s.core k) ∧ ∀ n, n ≠ m → t.thread n = s.thread n) ∧
     (∀ ev, ev ∈ s.sched.pendingEv →
       ∃ t, exec (.coreReleaseBlock core ev) s = .next t ∧ t = { s with sched := t.sched, sent := t.sent } ∧
         ev ∉ t.sched.pendingEv ∧
         ((∀ k, (s.core k).asking = false) →
           (t.core core).thread = none ∧ (t.thread m).st = .ready ∧
           t.sched.ready = s.sched.ready.filter (fun x => x ≠ m) ++ [m])) ∧
     ((s.sched.ready.any (fun u => decide ((s.thread u).prio = (s.thread m).prio) && eligible (s.thread u) core)) = true →
       exec (.quantumExpiry core) s = exec (.coreReleaseYield core) s) ∧
     ((s.sched.ready.any (fun u => decide ((s.thread u).prio = (s.thread m).prio) && eligible (s.thread u) core)) = false →
       ∃ t, exec (.quantumExpiry core) s = .next t ∧ t = { s with sched := t.sched } ∧
         t.core core = { s.core core with runSince := s.now } ∧ (∀ k, k ≠ core → t.core k = s.core k) ∧
         t.sched.ready = s.sched.ready))

/-- A signal from a core that takes work (R426): with no thread blocked on the event it sets the pending bit and nothing else;
otherwise it sets no bit, and when just one thread is blocked on it and no core waits, that thread joins the tail of the ready
list. CORE_PREEMPT is write one to clear (R425). A window's end empties the running window's figures into the register fields
(R428). -/
def Obligations.SignalsAndWindows : Prop :=
  (∀ (core ev : Nat) (s : State), (s.core core).takes = true → blockedOn s ev = [] →
    exec (.coreSignal core ev) s = .next { s with sched := { s.sched with pendingEv := insertNat ev s.sched.pendingEv } }) ∧
  (∀ (core ev : Nat) (s : State), (s.core core).takes = true → blockedOn s ev ≠ [] →
    ∃ t, exec (.coreSignal core ev) s = .next t ∧ t = { s with sched := t.sched, sent := t.sent } ∧
      t.sched.pendingEv = s.sched.pendingEv ∧
      ∀ m, blockedOn s ev = [m] → (∀ k, (s.core k).asking = false) →
        (t.thread m).st = .ready ∧ t.sched.ready = s.sched.ready.filter (fun x => x ≠ m) ++ [m] ∧ t.sent = s.sent) ∧
  (∀ (core v : Nat) (s : State),
    ∃ t, exec (.corePreemptClear core v) s = .next t ∧ t = { s with sched := t.sched } ∧
      t.core core = { s.core core with preempt := if bit v 0 then false else (s.core core).preempt } ∧
      ∀ k, k ≠ core → t.core k = s.core k) ∧
  ∀ s : State, ∃ t, exec .schedulerWindowEnd s = .next t ∧ t = { s with sched := t.sched } ∧
    t.sched.windowStart = s.now ∧ t.sched.ready = s.sched.ready ∧ t.sched.threads = s.sched.threads ∧
    ∀ k, k < 12 → (t.core k).heldNs = 0 ∧ (t.core k).load ≤ 1024 ∧ (t.core k).thread = (s.core k).thread

/-! ### Service programs: calls, traps and core stops (R430–R438) -/

/-- The service calls on events (R431, R432), for a thread whose program belongs to `q.ctx`: with an event of that context's PROGRAM
range WAIT_EVENT blocks as CORE_RELEASE does and SIGNAL signals as CORE_SIGNAL does; with any other they answer −1 and do nothing, as
does an undefined call. YIELD releases the core.
Sleeping and time (R431): SLEEP_UNTIL of a time still to come blocks the thread until that deadline, of a passed one does
nothing; the expiry of a deadline that has come makes the thread READY; TIME_READ answers fabric time, which within a tick of the
reference clock has moved on by a free amount (log entry 4).
EXIT (R431): the thread leaves the scheduler and is FREE; its program counts the exit, keeps the code of thread 0, and while
threads of it are left goes on; with its last thread it is gone, and no RUN_PROGRAM waits for it any more (R459). -/
def Obligations.ProgramThreadsWaitAndExit : Prop :=
  (∀ (core m id ev : Nat) (q : Prog) (s : State), callerOf s core = some (m, id, q) →
     (∃ t, exec (.svcYield core) s = .next t ∧ exec (.coreReleaseYield core) s = .next t) ∧
     (0x800 + 128 * q.ctx ≤ ev → ev ≤ 0x87F + 128 * q.ctx →
       (∃ t, exec (.svcWaitEvent core ev) s = .next t ∧ exec (.coreReleaseBlock core ev) s = .next t) ∧
       ((s.core core).takes = true → ∃ t, exec (.svcSignal core ev) s = .next t ∧ exec (.coreSignal core ev) s = .next t)) ∧
     (ev < 0x800 + 128 * q.ctx ∨ 0x87F + 128 * q.ctx < ev →
       exec (.svcWaitEvent core ev) s = .next (s.sending (.value (16 + core) (2 ^ 64 - 1))) ∧
       exec (.svcSignal core ev) s = .next (s.sending (.value (16 + core) (2 ^ 64 - 1)))) ∧
     ∀ n, 10 < n → exec (.svcUnknown core n) s = .next (s.sending (.value (16 + core) (2 ^ 64 - 1)))) ∧
  (((∀ (core m id time : Nat) (q : Prog) (s : State), callerOf s core = some (m, id, q) →
      (time ≤ s.now → exec (.svcSleepUntil core time) s = .next s) ∧
      (s.now < time → ∃ t, exec (.svcSleepUntil core time) s = .next t ∧ t = { s with sched := t.sched } ∧
        (t.core core).thread = none ∧ (t.thread m).st = .blocked ∧ (t.thread m).event = none ∧
        (t.thread m).deadline = some time ∧ t.sched.ready = s.sched.ready ∧ ∀ n, n ≠ m → t.thread n = s.thread n) ∧
      (∃ i, i ≤ 39 ∧ (s.time.interp ≤ 39 → s.time.interp ≤ i) ∧
        exec (.svcTimeRead core) s = .next ({ s with free := s.free + 1, time := { s.time with interp := i } }.sending
          (.value (16 + core) ((s.time.count + i) % 2 ^ 64))))) ∧
    ∀ (m d : Nat) (s : State), (s.thread m).deadline = some d → (s.thread m).st = .blocked →
      (d ≤ s.now → ∃ t, exec (.sleepExpiry m) s = .next t ∧ t = { s with sched := t.sched, sent := t.sent } ∧
        t.sched.pendingEv = s.sched.pendingEv ∧
        ((∀ k, (s.core k).asking = false) →
          (t.thread m).st = .ready ∧ t.sched.ready = s.sched.ready.filter (fun x => x ≠ m) ++ [m] ∧ t.sent = s.sent)) ∧
      (s.now < d → exec (.sleepExpiry m) s = .next s)) ∧
   (∀ (core m id code : Nat) (q : Prog) (s : State), core < 12 → callerOf s core = some (m, id, q) →
      (q.ended + 1 < q.count →
        ∃ t, exec (.svcExit core code) s = .next t ∧
          t = { s with sched := t.sched, latch := t.latch, progs := t.progs } ∧
          (t.core core).thread = none ∧ (t.thread m).st = .free ∧ (t.thread m).prog = none ∧
          t.sched.ready = s.sched.ready.filter (fun x => x ≠ m) ∧
          t.prog id = some { q with
            ended := q.ended + 1, exits := q.exits + 1, code0 := if (s.thread m).slot = 0 then some code else q.code0 } ∧
          ∀ j, j ≠ id → t.prog j = s.prog j) ∧
      (q.count ≤ q.ended + 1 →
        ∃ t, exec (.svcExit core code) s = .next t ∧ t.prog id = none ∧ (t.thread m).st = .free ∧ t.mem = s.mem ∧
          ∀ a, programWaiter s id = some a → ∀ b ∈ t.actives, b ∈ s.actives ∧ a.same b = false)))

/-- CTX_READ and CTX_WRITE (R350, R431, R432) of a range inside one page of this package: the bytes pass between the program's
writable space and context memory, and nothing else of either changes. A translation that fails moves nothing.
SP_WRITE writes one EV_PROGRAM record of the thread's context, SET_HANDLER sets the thread's handler and nothing else
(R431). -/
def Obligations.ProgramCallsAct : Prop :=
  (∀ (core m id addr len off b : Nat) (q : Prog) (s : State), callerOf s core = some (m, id, q) → s.memOk = true →
     1 ≤ len → addr % 4096 + len ≤ 4096 → off + len ≤ q.dataSize →
     ((Work.start s).translate q.ctx addr len false none = .ok b → ownSlot s b = true →
       ∃ t, exec (.svcCtxRead core addr len off []) s = .next t ∧
         t = { s with space := t.space, hbm := t.hbm, pkgBytes := t.pkgBytes, phys := t.phys } ∧
         (∀ i, i < len → t.space.get 0 (spaceKey id (off + i)) = s.byteAt (pkgAddr b + i)) ∧
         ∀ k, (∀ i, i < len → spaceKey id (off + i) ≠ k) → t.space.get 0 k = s.space.get 0 k) ∧
     ((Work.start s).translate q.ctx addr len true none = .ok b → ownSlot s b = true → inOneWindow (pkgAddr b) len = true →
       ∃ t, exec (.svcCtxWrite core addr len off []) s = .next t ∧
         t = { s with mem := t.mem, poison := t.poison, hbm := t.hbm, pkgBytes := t.pkgBytes, phys := t.phys, ctxs := t.ctxs } ∧
         (∀ i, i < len → t.byteAt (pkgAddr b + i) = s.space.get 0 (spaceKey id (off + i))) ∧
         ∀ x, (∀ i, i < len → normAddr (pkgAddr b + i) ≠ normAddr x) → t.byteAt x = s.byteAt x)) ∧
  (∀ (core m id : Nat) (q : Prog) (s : State), callerOf s core = some (m, id, q) →
     (∀ sev p0 p1 p2, sev = 1 ∨ sev = 2 →
       exec (.svcSpWrite core sev p0 p1 p2) s = .next (s.recorded 0xF001 sev (0x1400 + m) p0 p1 p2 (some q.ctx))) ∧
     ∀ v, ∃ t, exec (.svcSetHandler core v) s = .next t ∧ t = { s with sched := t.sched } ∧
       t.thread m = { s.thread m with handler := v % 2 ^ 64 } ∧ (∀ n, n ≠ m → t.thread n = s.thread n) ∧
       t.sched.cores = s.sched.cores ∧ t.sched.ready = s.sched.ready)

/-- A trap of a program thread from user mode (R433). With no handler, or inside it, the thread ends ABORTED after an
EV_THREAD_TRAP record. With a handler and a valid stack pointer the 272 bytes of the frame (zero, x1 to x31, pc, cause) stand in the
program's writable space at the next lower multiple of 16, and the thread is in its handler with a0 at the frame. With an invalid one the thread
ends with an EV_STACK_INVALID record. -/
def Obligations.TrapsReachHandlers : Prop :=
  ∀ (core m id cause pc : Nat) (regs : List Nat) (q : Prog) (s : State), core < 12 → callerOf s core = some (m, id, q) →
    s.memOk = true →
    ((s.thread m).handler = 0 ∨ (s.thread m).inHandler = true →
      ∃ t, exec (.userTrap core cause pc regs) s = .next t ∧ (t.thread m).st = .free ∧ (t.core core).thread = none ∧
        t.pad = (s.recorded 0x6001 3 (0x1400 + m) cause (pc % 2 ^ 32) m (some q.ctx)).pad ∧ t.mem = s.mem ∧
        (q.ended + 1 < q.count → t.prog id = some { q with ended := q.ended + 1, anyAborted := true })) ∧
    ((s.thread m).handler ≠ 0 → (s.thread m).inHandler = false → 272 ≤ regs.getD 1 0 →
      (regs.getD 1 0 - 272) / 16 * 16 + 272 ≤ q.dataSize →
      ∃ t, exec (.userTrap core cause pc regs) s = .next t ∧ t = { s with space := t.space, sched := t.sched } ∧
        t.thread m = { s.thread m with inHandler := true, a0 := (regs.getD 1 0 - 272) / 16 * 16 } ∧
        (∀ n, n ≠ m → t.thread n = s.thread n) ∧
        (∀ i, i < 272 → t.space.get 0 (spaceKey id ((regs.getD 1 0 - 272) / 16 * 16 + i)) = (frameBytes regs pc cause).getD i 0) ∧
        ∀ k, (∀ i, i < 272 → spaceKey id ((regs.getD 1 0 - 272) / 16 * 16 + i) ≠ k) → t.space.get 0 k = s.space.get 0 k) ∧
    ((s.thread m).handler ≠ 0 → (s.thread m).inHandler = false →
      regs.getD 1 0 < 272 ∨ q.dataSize < (regs.getD 1 0 - 272) / 16 * 16 + 272 →
      ∃ t, exec (.userTrap core cause pc regs) s = .next t ∧ (t.thread m).st = .free ∧ (t.core core).thread = none ∧
        t.pad = (s.recorded 0x6002 3 (0x1400 + m) m (regs.getD 1 0 % 2 ^ 32) cause (some q.ctx)).pad ∧ t.mem = s.mem ∧
        (q.ended + 1 < q.count → t.prog id = some { q with ended := q.ended + 1, anyInvalid := true }))

/-- A core that stops (R434–R436, R438): while the management processor runs, the stop is recorded and counted with those of the last
24 hours, and with the third the core is retired; a core that holds no thread and is not retired asks for work again. While it is
stopped the core waits for its restart with the cause kept. The watchdog's restart is recorded (R438) and, with no core waiting,
changes nothing else. -/
def Obligations.CoreStopsAreCounted : Prop :=
  (∀ (core cause : Nat) (s : State), (s.core core).takes = true → s.mgt.running = true → (s.core core).thread = none →
    (∃ t, exec (.coreStop core cause) s = .next t ∧
      (((s.core core).stops.filter (fun x => decide (s.now < x + dayNs))).length < 2 →
        (t.core core).retired = false ∧ (t.core core).halted = false ∧ (t.core core).preempt = false ∧
        (t.core core).stops = (s.core core).stops.filter (fun x => decide (s.now < x + dayNs)) ++ [s.now] ∧
        t = { s with sched := t.sched, free := t.free, pad := t.pad, flash := t.flash, fns := t.fns, sent := t.sent }) ∧
      (2 ≤ ((s.core core).stops.filter (fun x => decide (s.now < x + dayNs))).length →
        (∃ k, k < 4 ∧ k ≠ core ∧ (s.core k).retired = false) → (∃ k, 4 ≤ k ∧ k < 12 ∧ k ≠ core ∧ (s.core k).retired = false) →
        (t.core core).retired = true ∧ (t.core core).thread = none ∧ (t.core core).takes = false))) ∧
  (∀ (core cause : Nat) (s : State), (s.core core).takes = true → s.mgt.running = false →
    ∃ t, exec (.coreStop core cause) s = .next t ∧ t = { s with sched := t.sched } ∧
      t.core core = { s.core core with halted := true, asking := false, dispatchReg := cause } ∧
      ∀ k, k ≠ core → t.core k = s.core k) ∧
  (∀ (core cause : Nat) (s : State), (s.core core).takes = false → exec (.coreStop core cause) s = .next s) ∧
  ∀ (cause : Nat) (s : State), s.boot.stage ≠ 0 → s.boot.stage ≠ 6 →
    ∃ t, exec (.mgtWatchdogReset cause) s = .next t ∧
      t.mgt = { s.mgt with running := true } ∧ t.mem = s.mem ∧
      ((∀ k, k < 12 → (s.core k).halted = false) →
        t = { s with mgt := { s.mgt with running := true } }.recorded 0x0003 3 0xC40 cause 0 0 none)

/-! ### Rings, registers and counters (R6, R442–R449, R476) -/

/-- The doorbells (R443, R446, R447, R449): once firmware is ready a submission doorbell sets P, signals the ring's event and
changes no other ring; a value more than the ring's slots ahead of C breaks R447, and a ring that flushes ignores it. A completion
doorbell frees entries: with no reply waiting it changes the ring's host index alone; a waiting reply for which there is now room is written
at the tail. -/
def Obligations.DoorbellsMoveIndices : Prop :=
  ∀ (fn ring v : Nat) (s : State), ring < 4 →
    (s.boot.fwReady = true → (s.ring (4 * fn + ring)).flushing = false →
      modSub 32 v (s.ring (4 * fn + ring)).c ≤ (s.ring (4 * fn + ring)).slots →
      ∃ t, exec (.sqDoorbell fn ring v) s = .next t ∧
        t = { s with rings := t.rings, sched := t.sched, sent := t.sent } ∧
        t.ring (4 * fn + ring) = { s.ring (4 * fn + ring) with p := v % 2 ^ 32 } ∧
        (∀ d, d ≠ 4 * fn + ring → t.ring d = s.ring d) ∧
        (blockedOn s (4 * fn + ring) = [] → t.sched.pendingEv = insertNat (4 * fn + ring) s.sched.pendingEv)) ∧
    (s.boot.fwReady = true → (s.ring (4 * fn + ring)).flushing = false →
      (s.ring (4 * fn + ring)).slots < modSub 32 v (s.ring (4 * fn + ring)).c →
      exec (.sqDoorbell fn ring v) s = .fault (.unpredictable 447)) ∧
    (s.boot.fwReady = false ∨ (s.ring (4 * fn + ring)).flushing = true → exec (.sqDoorbell fn ring v) s = .next s) ∧
    (s.boot.fwReady = false → exec (.cqDoorbell fn ring v) s = .next s) ∧
    (s.boot.fwReady = true → (s.ring (4 * fn + ring)).waiting = [] →
      ∃ t, exec (.cqDoorbell fn ring v) s = .next t ∧ t = { s with rings := t.rings } ∧
        t.ring (4 * fn + ring) = { s.ring (4 * fn + ring) with cqHost := v % 2 ^ 32 } ∧
        ∀ d, d ≠ 4 * fn + ring → t.ring d = s.ring d) ∧
    ∀ y : Reply, s.boot.fwReady = true → (s.ring (4 * fn + ring)).waiting = [y] → y.bytes.length ≤ 2 ^ 64 →
      { s.ring (4 * fn + ring) with cqHost := v % 2 ^ 32 }.room = true →
      ∃ t, exec (.cqDoorbell fn ring v) s = .next t ∧
        t = { s with rings := t.rings, host := t.host, pcieTx := t.pcieTx, fns := t.fns, sent := t.sent } ∧
        t.ring (4 * fn + ring) = { s.ring (4 * fn + ring) with
          cqHost := v % 2 ^ 32, waiting := [], t := wrapAdd 32 (s.ring (4 * fn + ring)).t 1 } ∧
        (∀ i, i < y.bytes.length → t.hostByte fn ((s.ring (4 * fn + ring)).cqBase +
          (s.ring (4 * fn + ring)).t % (s.ring (4 * fn + ring)).entries * entrySize s (4 * fn + ring) + i) = y.bytes.getD i 0) ∧
        (y.irq = true → bit (t.fn fn).intStatus ring = true)

/-- Flush, enable and disable (R442, R443, R476): a flush drops every packet that has not started, with P at C, and records how many;
disabling flushes too and clears ENABLE; enabling a ring of 2^1 to 2^12 slots puts every index at 0. Enabling an enabled ring breaks
R443. Other rings keep their state. -/
def Obligations.RingsFlushAndStart : Prop :=
  ∀ (fn ring : Nat) (s : State), ring < 4 → s.boot.fwReady = true →
    exec (.flush fn ring) s = .next
      ({ s with rings := s.rings.put {} (4 * fn + ring) { s.ring (4 * fn + ring) with p := (s.ring (4 * fn + ring)).c, skip := [] } }.recorded
        0x7004 2 (0xC50 + fn) (4 * fn + ring) (s.ring (4 * fn + ring)).unstarted 0 none) ∧
    ((s.ring (4 * fn + ring)).enabled = true →
      (∃ t, exec (.ringDisable fn ring) s = .next t ∧
        t = { s with rings := t.rings, pad := t.pad, flash := t.flash, fns := t.fns, sent := t.sent } ∧
        t.ring (4 * fn + ring) = { s.ring (4 * fn + ring) with p := (s.ring (4 * fn + ring)).c, skip := [], enabled := false } ∧
        ∀ d, d ≠ 4 * fn + ring → t.ring d = s.ring d) ∧
      ∀ k, exec (.ringEnable fn ring k) s = .fault (.unpredictable 443)) ∧
    ((s.ring (4 * fn + ring)).enabled = false →
      exec (.ringDisable fn ring) s = .next s ∧
      ∀ k, 1 ≤ k → k ≤ 12 →
        ∃ t, exec (.ringEnable fn ring k) s = .next t ∧ t = { s with rings := t.rings } ∧
          t.ring (4 * fn + ring) = { s.ring (4 * fn + ring) with
            log2Slots := k, enabled := true, p := 0, c := 0, t := 0, cqHost := 0, skip := [], waiting := [] } ∧
          ∀ d, d ≠ 4 * fn + ring → t.ring d = s.ring d)

/-- Interrupt causes and registers (R6, R7, R442, R443). CMD_INT_STATUS is write one to clear. A moderated vector's message is sent at the end
of MOD_US where its cause still stands and the vector is enabled, and not otherwise. CMD_COMPAT takes bit 0 and CMD_INT_CTRL its defined bits; a
ring's base takes effect while the ring is disabled, and breaks R443 while it is enabled; BAR2 ignores every write. A write that sets a
reserved bit breaks R7, and one that is not of 32 bits or not aligned breaks R6. -/
def Obligations.RegistersTakeTheirBits : Prop :=
  ∀ (fn : Nat) (s : State),
    (∀ mask, mask < 64 → ∃ t, exec (.intStatusClear fn mask) s = .next t ∧ t = { s with fns := t.fns } ∧
      (∀ g, g ≠ fn → t.fn g = s.fn g) ∧ t.fn fn = { s.fn fn with intStatus := (t.fn fn).intStatus } ∧
      ∀ i, bit (t.fn fn).intStatus i = (bit (s.fn fn).intStatus i && !bit mask i)) ∧
    (∀ mask, 64 ≤ mask → exec (.intStatusClear fn mask) s = .fault (.unpredictable 7)) ∧
    (∀ bar off size v, size ≠ 4 ∨ off % 4 ≠ 0 → exec (.registerWrite fn bar off size v) s = .fault (.unpredictable 6)) ∧
    (∀ vec, vec < 6 → bit (s.fn fn).delayed vec = true →
      (bit (s.fn fn).intStatus vec = true → (s.fn fn).enabled vec = true → ((s.fn fn).msix.get {} vec).live = true →
        ∃ t, exec (.msixExpiry fn vec) s = .next t ∧ t = { s with fns := t.fns, sent := t.sent } ∧
          t.sent = s.sent ++ [.msix fn vec ((s.fn fn).msix.get {} vec).addr ((s.fn fn).msix.get {} vec).data] ∧
          bit (t.fn fn).delayed vec = false ∧ ∀ g, g ≠ fn → t.fn g = s.fn g) ∧
      (bit (s.fn fn).intStatus vec = false ∨ (s.fn fn).enabled vec = false →
        ∃ t, exec (.msixExpiry fn vec) s = .next t ∧ t = { s with fns := t.fns } ∧
          bit (t.fn fn).delayed vec = false ∧ ∀ g, g ≠ fn → t.fn g = s.fn g)) ∧
    (∀ bar off v, off % 4 = 0 → bar ≠ 0 → exec (.registerWrite fn bar off 4 v) s = .next s) ∧
    (∀ v, 1 < v → exec (.registerWrite fn 0 0x0008 4 v) s = .fault (.unpredictable 7)) ∧
    (∀ v, v &&& 0xFF3F ≠ v → exec (.registerWrite fn 0 0x0020 4 v) s = .fault (.unpredictable 7)) ∧
    (∀ v, v ≤ 1 → ∃ t, exec (.registerWrite fn 0 0x0008 4 v) s = .next t ∧ t = { s with fns := t.fns } ∧
      t.fn fn = { s.fn fn with compat := bit v 0 } ∧ ∀ g, g ≠ fn → t.fn g = s.fn g) ∧
    (∀ v, v &&& 0xFF3F = v → ∃ t, exec (.registerWrite fn 0 0x0020 4 v) s = .next t ∧ t = { s with fns := t.fns } ∧
      t.fn fn = { s.fn fn with intCtrl := v } ∧ ∀ g, g ≠ fn → t.fn g = s.fn g) ∧
    ∀ ring v, ring < 4 → s.boot.fwReady = true →
      ((s.ring (4 * fn + ring)).enabled = false → v < 2 ^ 32 → v % 4096 = 0 →
        ∃ t, exec (.registerWrite fn 0 (0x100 + 0x40 * ring) 4 v) s = .next t ∧ t = { s with rings := t.rings } ∧
          t.ring (4 * fn + ring) = { s.ring (4 * fn + ring) with
            sqBase := (s.ring (4 * fn + ring)).sqBase / 2 ^ 32 * 2 ^ 32 + v } ∧
          ∀ d, d ≠ 4 * fn + ring → t.ring d = s.ring d) ∧
      ((s.ring (4 * fn + ring)).enabled = true →
        exec (.registerWrite fn 0 (0x100 + 0x40 * ring) 4 v) s = .fault (.unpredictable 443))

/-- Counters (R6), by aligned reads of 32 bits (any other read is UNPREDICTABLE): a read of a 64-bit counter's low half answers it and latches the high half in the reader's latch; a read of the high
half answers that latch and changes nothing. REG_READ does the same for the thread that calls (R431). -/
def Obligations.CountersLatch : Prop :=
  (∀ (reader off size : Nat) (s : State), size ≠ 4 ∨ off % 4 ≠ 0 →
    exec (.counterLowRead reader off size) s = .fault (.unpredictable 6) ∧
    exec (.counterHighRead reader off size) s = .fault (.unpredictable 6)) ∧
  (∀ (reader off v : Nat) (s : State), off % 4 = 0 → anyCounter s reader off = some v →
    exec (.counterLowRead reader off 4) s = .next
      ({ s with latch := s.latch.put 0 (latchOf s reader) (v / 2 ^ 32 % 2 ^ 32) }.sending (.value reader (v % 2 ^ 32))) ∧
    exec (.counterHighRead reader (off + 4) 4) s = .next (s.sending (.value reader (s.latch.get 0 (latchOf s reader))))) ∧
  ∀ (core m id off : Nat) (q : Prog) (s : State), callerOf s core = some (m, id, q) → off % 4 = 0 →
    (∀ v, counter64 s q.ctx off = some v →
      exec (.svcRegRead core off) s = .next
        ({ s with latch := s.latch.put 0 (0x100 + m) (v / 2 ^ 32 % 2 ^ 32) }.sending (.value (16 + core) (v % 2 ^ 32)))) ∧
    (counter64 s q.ctx off = none → off < 4 ∨ counter64 s q.ctx (off - 4) = none →
      exec (.svcRegRead core off) s = .next (s.sending (.value (16 + core) (plainReg s q.ctx off % 2 ^ 32))))

/-! ### Host commands: the checks before the effect (R466, R467) -/

/-- Every host command of the table meets its checks in this order: a packet that cannot start does nothing; a body shorter than its
opcode reads breaks R467; a PF command of a VF's ring is refused with PF_ONLY, any other command of a context that is not its
ring's with NOT_OWNER; and a command whose context is closed with NOT_OPEN. A refused command changes nothing. One that passes them, its
operands in the ranges that the command table gives, executes: it answers a next state. -/
def Obligations.HostChecksInOrder : Prop :=
  ∀ (i : Instr) (h : Hdr) (op need : Nat) (pf : Bool) (adm : Admit) (s : State), hostForm i = some (h, op, need, pf, adm) →
    (canStart s h = false → exec i s = .next s) ∧
    (canStart s h = true → h.length * 16 < need → exec i s = .fault (.unpredictable 467)) ∧
    (canStart s h = true → need ≤ h.length * 16 → CanAnswer s h →
      (pf = true → h.fn ≠ 0 → Answers i s h op 0x07 3 0 0 (fun u => u = s)) ∧
      (pf = false → h.context ≠ h.fn → Answers i s h op 0x07 1 0 0 (fun u => u = s)) ∧
      ((if pf then h.fn = 0 else h.context = h.fn) → admitted s adm = false →
        Answers i s h op 0x07 2 0 0 (fun u => u = s))) ∧
    (Accepts s h need pf adm → operandsLegal s i = true → ∃ t, exec i s = .next t)

/-- NOP, FENCE, an undefined opcode and DEV_QUERY (R448, R454, R462, R465, R466): NOP replies DONE; FENCE does with no earlier command of its ring
started, and waits otherwise; an undefined opcode replies UNSUPPORTED_OPCODE before any other check; DEV_QUERY writes the
device page, or as much of it as the host takes and then replies FAULT_MEMORY. -/
def Obligations.PlainCommandsReply : Prop :=
  ∀ (s : State) (h : Hdr),
    (Accepts s h 0 false .always → CanAnswer s h →
      Answers (.nop h) s h 0x00 0x01 0 0 0 (fun u => u = s) ∧ Answers (.fence h) s h 0x01 0x01 0 0 0 (fun u => u = s)) ∧
    (Accepts s h 0 false .always → Fresh s h → (∃ a ∈ s.actives, a.ring = h.dev) → doneFence s h.dev = none →
      ∃ t, exec (.fence h) s = .next t ∧ Waits s t h 0x01 .fence true ∧ t = { s with rings := t.rings, actives := t.actives }) ∧
    (∀ op, canStart s h = true → CanAnswer s h → Answers (.unsupportedOpcode h op) s h op 0x0A 0 0 0 (fun u => u = s)) ∧
    ∀ at_ refuse, Accepts s h 8 false .always → CanAnswer s h →
      ((∀ k, refuse = some k → (devicePage s h.fn).length ≤ k) →
        Answers (.devQuery h at_ refuse) s h 0x02 0x01 0 0 0 (fun u => u = s.withHost h.fn at_ (devicePage s h.fn))) ∧
      ∀ k, refuse = some k → k < (devicePage s h.fn).length →
        Answers (.devQuery h at_ refuse) s h 0x02 0x13 2 0 0 (fun u => u = s.withHost h.fn at_ ((devicePage s h.fn).take k))

/-! ### Contexts (R455–R460, R468, R469) -/

/-- CTX_OPEN of a closed context over free regions (R456), with its pages taken lowest first (the model's choice, log entry
10): the context is OPEN with the job, regions, slice and quota of the command, each free region of its mask is held by it,
the stores of those regions' tiles read zero, and its class-B lane k starts at k times 2 to the 80 (R216). A context that is not closed, or a job
with a slice, is refused with STATE. -/
def Obligations.CtxOpenOpens : Prop :=
  ∀ (s : State) (h : Hdr) (job mask slice spread : Nat) (quota : List Nat), Accepts s h 64 true .always → CanAnswer s h →
    (((s.ctx h.context).st ≠ .closed ∨ (job ≠ 0xFFFF ∧ slice ≠ 0)) →
      Answers (.ctxOpen h job mask slice quota spread) s h 0x03 0x07 5 0 0 (fun u => u = s)) ∧
    ∀ (q : Table Nat) (x : Ctx) (off : Nat), (s.ctx h.context).st = .closed → slice = 0 → s.memOk = true →
      q = (List.range 12).foldl (fun (m : Table Nat) k => m.put 0 k (quota.getD k 0)) [] → q ≠ [] →
      regionsOk s (lowBits 12 mask) = true → regionTaken s (lowBits 12 mask) slice = false →
      (∀ k, k < 12 → q.get 0 k + spreadShare spread ≤ freeMib s k) →
      x = { st := .opened, compat := (s.fn h.context).compat, job := job, mask := lowBits 12 mask, slice := slice, quota := q,
            spreadMib := spread } →
      findRun { s with ctxs := s.ctxs.put {} h.context x } x.tableStack 4096 = some off →
      Answers (.ctxOpen h job mask slice quota spread) s h 0x03 0x01 0 0 0 (fun u =>
        u = { s with ctxs := u.ctxs, regions := u.regions, tiles := u.tiles, mem := u.mem, poison := u.poison, lanes := u.lanes,
                     lanesNow := u.lanesNow } ∧
        u.ctx h.context = { x with
          root := stackBase x.tableStack + off
          allocs := [{ addr := stackBase x.tableStack + off, bytes := 4096, use := .root }] } ∧
        (∀ d, d ≠ h.context → u.ctx d = s.ctx d) ∧
        (∀ r, r < 12 → bit mask r = true → (s.region r).holder = none →
          (u.region r).holder = some h.context ∧
          ∀ k a, k < 11 → (a < 0x600000 ∨ deepBase ≤ a ∧ a < deepBase + 0x8000000) → u.byteAt (tileAddr (11 * r + k) a) = 0) ∧
        (∀ r, r < 12 → (bit mask r = false ∨ (s.region r).holder ≠ none) → u.region r = s.region r) ∧
        ∀ k, k < 192 → u.lanes.get 0 (h.context * 192 + k) = k * 2 ^ 80)

/-- CTX_CLOSE, CTX_POLICY and RESUME (R459, R468, R469). Closing a context with no other started command and no program leaves it as
at reset and changes no other context. A policy's fields change where SET says so, and a SEED after the first TURN_RUN is refused with
STATE and changes nothing. RESUME makes a STOPPED context OPEN again, and is refused in any other state. -/
def Obligations.ContextsCloseAndResume : Prop :=
  (∀ (s : State) (h : Hdr), Accepts s h 0 true (.ctx h.context) → CanAnswer s h → progsOf s h.context = [] → s.retiring = [] →
    (∀ a ∈ s.actives, a.ring / 4 ≠ h.context) →
    Answers (.ctxClose h) s h 0x04 0x01 0 0 0 (fun u =>
      u.ctx h.context = {} ∧ (∀ d, d ≠ h.context → u.ctx d = s.ctx d) ∧ u.mem = s.mem ∧ u.fns = s.fns ∧ u.form = s.form)) ∧
  (∀ (s : State) (h : Hdr) (p : Policy), Accepts s h 24 false (.ctx h.fn) → CanAnswer s h →
    ((bit p.set 1 = false ∨ (s.ctx h.fn).seedLocked = false) →
      Answers (.ctxPolicySet h p) s h 0x05 0x01 0 0 0 (fun u =>
        u = { s with ctxs := u.ctxs } ∧ (∀ d, d ≠ h.fn → u.ctx d = s.ctx d) ∧
        u.ctx h.fn = { s.ctx h.fn with
          stealOff := if bit p.set 0 then bit p.flags 0 else (s.ctx h.fn).stealOff
          keepAll := if bit p.set 0 then bit p.flags 1 else (s.ctx h.fn).keepAll
          seed := if bit p.set 1 then p.seed % 2 ^ 64 else (s.ctx h.fn).seed
          threadLimit := if bit p.set 2 then p.threadLimit else (s.ctx h.fn).threadLimit })) ∧
    (bit p.set 1 = true → (s.ctx h.fn).seedLocked = true →
      Answers (.ctxPolicySet h p) s h 0x05 0x07 5 0 0 (fun u => u = s))) ∧
  ∀ (s : State) (h : Hdr) (p : Policy), Accepts s h 24 false (.ctx h.fn) → CanAnswer s h →
    ((s.ctx h.fn).st ≠ .stopped → Answers (.resume h p) s h 0x05 0x07 5 0 0 (fun u => u = s)) ∧
    ((s.ctx h.fn).st = .stopped → (bit p.set 1 = false ∨ (s.ctx h.fn).seedLocked = false) →
      (∀ a ∈ s.actives, a.ctx ≠ h.fn) →
      Answers (.resume h p) s h 0x05 0x01 0 0 0 (fun u =>
        u = { s with ctxs := u.ctxs } ∧ (u.ctx h.fn).st = .opened ∧ (u.ctx h.fn).turn.phase = 0 ∧
        (u.ctx h.fn).books = (s.ctx h.fn).books ∧ (u.ctx h.fn).turn.num = (s.ctx h.fn).turn.num ∧
        ∀ d, d ≠ h.fn → u.ctx d = s.ctx d))

/-- The four mapping operations of CTX_SEG (R349, R352, R455, R460), on an entry whose leaf page is there and that is not VALID while a
Turn is under way: the entry's 16 bytes hold VALID, WRITE, LIMIT_M1 and the TARGET that the reply names, and no other byte of memory changes
but the pages that OP 1 and OP 2 take. Entries 0xFFFC to 0xFFFF, a board range that leaves its window or the context's allocation on the target package, and a
tile the context does not hold are refused with SEGMENT; an OP 1 beyond what is left of the stack's quota is refused with ALLOCATION. A command that
changes or releases a VALID entry while a Turn is under way waits for its end.
CTX_SEG OP 0 (R352, R460): the reply names the entry's TARGET, the context holds no page and no granule of the entry any more, the
entry reads not VALID, and no byte outside the entry and its root entry changes.
Every CTX_SEG with its operands in the ranges of R454 that passes the first checks of R466 completes, is refused or waits: none stops the block. -/
def Obligations.SegmentsAreMappedAndReleased : Prop :=
  (∀ (s : State) (h : Hdr) (index limitM1 : Nat) (wr : Bool), Accepts s h 24 false (.ctx h.fn) → index ≤ 0xFFFF → limitM1 < 2 ^ 20 →
     (∃ t, exec (.ctxSegRelease h index) s = .next t) ∧
     (∀ stack, stack < 12 → ∃ t, exec (.ctxSegAllocStack h index wr stack limitM1) s = .next t) ∧
     (∃ t, exec (.ctxSegAllocSpread h index wr limitM1) s = .next t) ∧
     (∀ target there, target % 4096 = 0 → target < 2 ^ 48 → ∃ t, exec (.ctxSegMapBoard h index wr limitM1 target there) s = .next t) ∧
     (∀ tile, ∃ t, exec (.ctxSegMapTile h index wr limitM1 tile) s = .next t) ∧
     (index < 0xFFFC → ((Work.start s).segEntry h.fn index).valid = true → (s.ctx h.fn).st = .running → Fresh s h →
       ∀ (i : Instr) (d : Deferred),
         (i = .ctxSegRelease h index ∧ d = .segRelease index) ∨
         (∃ stack, stack < 12 ∧ i = .ctxSegAllocStack h index wr stack limitM1 ∧ d = .segStack index wr stack limitM1) ∨
         (i = .ctxSegAllocSpread h index wr limitM1 ∧ d = .segSpread index wr limitM1) ∨
         (∃ target there, target % 4096 = 0 ∧ target < 2 ^ 48 ∧ i = .ctxSegMapBoard h index wr limitM1 target there ∧
           d = .segBoard index wr limitM1 target there) ∨
         (∃ tile, tile < 256 ∧ i = .ctxSegMapTile h index wr limitM1 tile ∧ d = .segTile index wr limitM1 tile) →
         ∃ t, exec i s = .next t ∧ Waits s t h 0x06 (.deferred d) false ∧ t = { s with rings := t.rings, actives := t.actives })) ∧
  (∀ (s : State) (h : Hdr) (index limitM1 : Nat) (wr : Bool), Accepts s h 24 false (.ctx h.fn) → CanAnswer s h → s.memOk = true →
     limitM1 < 2 ^ 20 →
     (0xFFFC ≤ index → index ≤ 0xFFFF →
       (∀ stack, stack < 12 → Answers (.ctxSegAllocStack h index wr stack limitM1) s h 0x06 0x07 6 0 0 (fun u => u = s)) ∧
       Answers (.ctxSegAllocSpread h index wr limitM1) s h 0x06 0x07 6 0 0 (fun u => u = s) ∧
       (∀ target there, target % 4096 = 0 → target < 2 ^ 48 →
         Answers (.ctxSegMapBoard h index wr limitM1 target there) s h 0x06 0x07 6 0 0 (fun u => u = s)) ∧
       (∀ tile, Answers (.ctxSegMapTile h index wr limitM1 tile) s h 0x06 0x07 6 0 0 (fun u => u = s)) ∧
       Answers (.ctxSegRelease h index) s h 0x06 0x07 6 0 0 (fun u => u = s)) ∧
     ∀ root at_ : Nat, index < 0xFFFC → root = (Work.start s).rdLe ((s.ctx h.fn).root + 8 * (index / 256)) 8 → bit root 0 = true →
       at_ = leafOf root + 16 * (index % 256) →
       ((SegEntry.ofNat ((Work.start s).rdLe at_ 16)).valid = false ∨ (s.ctx h.fn).st ≠ .running) →
       (∀ target there, target % 4096 = 0 → target < 2 ^ 48 →
         (inOneWindow (pkgAddr target) ((limitM1 + 1) * 4096) = false ∨
           (if ownSlot s target then allocated (s.ctx h.fn) (pkgAddr target) ((limitM1 + 1) * 4096) else there) = false) →
         Answers (.ctxSegMapBoard h index wr limitM1 target there) s h 0x06 0x07 6 0 0 (fun u => u = s)) ∧
       (∀ tile, tile < 256 → 11 * regionCount (s.ctx h.fn) ≤ tile ∨ 0x10000 ≤ limitM1 →
         Answers (.ctxSegMapTile h index wr limitM1 tile) s h 0x06 0x07 6 0 0 (fun u => u = s)) ∧
       (∀ stack, stack < 12 → ((((Work.start s).freeSeg h.fn index).s).ctx h.fn).left stack < (limitM1 + 1) * 4096 →
         Answers (.ctxSegAllocStack h index wr stack limitM1) s h 0x06 0x07 4 0 0 (fun u => u = s)) ∧
       (∀ target there, target % 4096 = 0 → target < 2 ^ 48 → inOneWindow (pkgAddr target) ((limitM1 + 1) * 4096) = true →
         (if ownSlot s target then allocated (s.ctx h.fn) (pkgAddr target) ((limitM1 + 1) * 4096) else there) = true →
         Answers (.ctxSegMapBoard h index wr limitM1 target there) s h 0x06 0x01 0 0 target (fun u =>
           u = { s with ctxs := u.ctxs, mem := u.mem, poison := u.poison } ∧
           (∀ i, i < 16 → u.byteAt (at_ + i) =
             (segBytes wr limitM1 (target)).getD i 0) ∧
           ∀ x, (∀ i, i < 16 → normAddr (at_ + i) ≠ normAddr x) → u.byteAt x = s.byteAt x)) ∧
       (∀ tile, tile < 11 * regionCount (s.ctx h.fn) → tile < 256 → limitM1 < 0x10000 →
         Answers (.ctxSegMapTile h index wr limitM1 tile) s h 0x06 0x01 0 0 (boardOf s (tileAddr (pkgTile (s.ctx h.fn) tile) 0)) (fun u =>
           u = { s with ctxs := u.ctxs, mem := u.mem, poison := u.poison } ∧
           (∀ i, i < 16 → u.byteAt (at_ + i) = (segBytes wr limitM1 (boardOf s (tileAddr (pkgTile (s.ctx h.fn) tile) 0))).getD i 0) ∧
           ∀ x, (∀ i, i < 16 → normAddr (at_ + i) ≠ normAddr x) → u.byteAt x = s.byteAt x)) ∧
       (∀ stack off, stack < 12 →
         findRun (((Work.start s).freeSeg h.fn index).s) stack ((limitM1 + 1) * 4096) = some off →
         (limitM1 + 1) * 4096 ≤ ((((Work.start s).freeSeg h.fn index).s).ctx h.fn).left stack →
         (∀ x, stackBase stack + off ≤ x → x < stackBase stack + off + (limitM1 + 1) * 4096 →
           (∀ i, i < 8 → normAddr ((s.ctx h.fn).root + 8 * (index / 256) + i) ≠ x) ∧ (∀ i, i < 16 → normAddr (at_ + i) ≠ x)) →
         Answers (.ctxSegAllocStack h index wr stack limitM1) s h 0x06 0x01 0 0 (boardOf s (stackBase stack + off)) (fun u =>
           u = { s with ctxs := u.ctxs, mem := u.mem, poison := u.poison } ∧
           { addr := stackBase stack + off, bytes := (limitM1 + 1) * 4096, use := .segment index } ∈ (u.ctx h.fn).allocs ∧
           (∀ i, i < 16 → u.byteAt (at_ + i) = (segBytes wr limitM1 (boardOf s (stackBase stack + off))).getD i 0) ∧
           ∀ x, (∀ i, i < 16 → normAddr (at_ + i) ≠ normAddr x) →
             u.byteAt x = if stackBase stack + off ≤ normAddr x ∧ normAddr x < stackBase stack + off + (limitM1 + 1) * 4096 then 0
               else s.byteAt x)) ∧
       ∀ off, findSpread (((Work.start s).freeSeg h.fn index).s) ((limitM1 + 1) * 4096) = some off →
         (∀ k, k < 12 → (spreadPart off ((limitM1 + 1) * 4096) k).2 = 0 ∨
           ((((Work.start s).freeSeg h.fn index).s).ctx h.fn).spreadIn k + (spreadPart off ((limitM1 + 1) * 4096) k).2 ≤
             spreadShare (s.ctx h.fn).spreadMib * mib) →
         (∀ i, i < 8 → ∀ k, k < 12 → normAddr ((s.ctx h.fn).root + 8 * (index / 256) + i) < stackBase k + (spreadPart off ((limitM1 + 1) * 4096) k).1 ∨
           stackBase k + (spreadPart off ((limitM1 + 1) * 4096) k).1 + (spreadPart off ((limitM1 + 1) * 4096) k).2 ≤
             normAddr ((s.ctx h.fn).root + 8 * (index / 256) + i)) →
         Answers (.ctxSegAllocSpread h index wr limitM1) s h 0x06 0x01 0 0 (boardOf s (spreadBase + off)) (fun u =>
           u = { s with ctxs := u.ctxs, mem := u.mem, poison := u.poison } ∧
           { index := index, off := off, bytes := (limitM1 + 1) * 4096 } ∈ (u.ctx h.fn).spread ∧
           ∀ i, i < 16 → u.byteAt (at_ + i) = (segBytes wr limitM1 (boardOf s (spreadBase + off))).getD i 0)) ∧
  (∀ (s : State) (h : Hdr) (index root at_ : Nat), Accepts s h 24 false (.ctx h.fn) → CanAnswer s h → s.memOk = true →
     index < 0xFFFC → root = (Work.start s).rdLe ((s.ctx h.fn).root + 8 * (index / 256)) 8 → bit root 0 = true →
     at_ = leafOf root + 16 * (index % 256) →
     ((SegEntry.ofNat ((Work.start s).rdLe at_ 16)).valid = false ∨ (s.ctx h.fn).st ≠ .running) →
     (∀ i j, i < 16 → j < 8 → normAddr (at_ + i) ≠ normAddr ((s.ctx h.fn).root + 8 * (index / 256) + j)) →
     Answers (.ctxSegRelease h index) s h 0x06 0x01 0 0 (SegEntry.ofNat ((Work.start s).rdLe at_ 16)).target (fun u =>
       u = { s with ctxs := u.ctxs, mem := u.mem, poison := u.poison } ∧
       (SegEntry.ofNat ((Work.start u).rdLe at_ 16)).valid = false ∧
       (∀ g ∈ (u.ctx h.fn).allocs, g.use ≠ .segment index) ∧ (∀ g ∈ (u.ctx h.fn).spread, g.index ≠ index) ∧
       (∀ d, d ≠ h.fn → u.ctx d = s.ctx d) ∧
       ∀ x, (∀ i, i < 16 → normAddr (at_ + i) ≠ normAddr x) →
         (∀ j, j < 8 → normAddr ((s.ctx h.fn).root + 8 * (index / 256) + j) ≠ normAddr x) → u.byteAt x = s.byteAt x))

/-! ### Memory commands (R332, R350, R351, R454, R455, R465, R477)

Each is stated for a range inside one page of this package; longer ranges are cut at page bounds into such pieces. -/

/-- MEM_WRITE and GRAPH_LOAD (R454, R477) ask the host for their data and wait; a size of 0 or over 2 to the 40 is no
legal operand.
HOST_READ_DATA (R455, R465, R477) for a waiting MEM_WRITE, or a GRAPH_LOAD outside a Turn: the bytes stand in context memory,
no other byte changes, and the command replies DONE with their number; a GRAPH_LOAD inside a Turn keeps its bytes for the Turn's
end; a refusal of the host replies FAULT_MEMORY, HOST and writes nothing; data for a command that has ended are dropped. -/
def Obligations.HostDataIsFetchedAndStored : Prop :=
  (∀ (s : State) (h : Hdr) (hostAddr ctxAddr n : Nat), Accepts s h 24 false (.ctx h.fn) → Fresh s h → 1 ≤ n → n ≤ 2 ^ 40 →
     (∃ t, exec (.memWrite h hostAddr ctxAddr n) s = .next t ∧ Waits s t h 0x20 (.hostData hostAddr n (.memWrite ctxAddr)) false ∧
       t = { s with rings := t.rings, actives := t.actives, sent := s.sent ++ [.hostRead h.dev (s.ring h.dev).c hostAddr n] }) ∧
     ∃ t, exec (.graphLoad h hostAddr ctxAddr n) s = .next t ∧ Waits s t h 0x30 (.hostData hostAddr n (.graphLoad ctxAddr)) false ∧
       t = { s with rings := t.rings, actives := t.actives, sent := s.sent ++ [.hostRead h.dev (s.ring h.dev).c hostAddr n] }) ∧
  (∀ (s : State) (ring index : Nat),
     (s.actives.find? (fun a => a.ring = ring && a.index = index) = none →
       ∀ d u, exec (.hostReadData ring index d u) s = .next s) ∧
     ∀ (a : Active) (at_ n : Nat) (use : HostUse), s.actives.find? (fun b => b.ring = ring && b.index = index) = some a →
       a.wait = .hostData at_ n use → CanPost s a →
       (∃ t, exec (.hostReadData ring index none []) s = .next t ∧ Posted s t a 0x13 2 0 0 s.now ∧
         t = { s with rings := t.rings, actives := t.actives, host := t.host, pcieTx := t.pcieTx, fns := t.fns, sent := t.sent }) ∧
       ∀ (bs : List Byte) (ca b : Nat), bs.length = n → 1 ≤ n → ca % 4096 + n ≤ 4096 → s.memOk = true →
         (use = .memWrite ca ∨ (use = .graphLoad ca ∧ (s.ctx a.ctx).st ≠ .running)) →
         (Work.start s).translate a.ctx ca n true none = .ok b → ownSlot s b = true → inOneWindow (pkgAddr b) n = true →
         (∀ q ∈ s.requests, q.owner ≠ .command a.ring a.index) →
         (∃ t, exec (.hostReadData ring index (some bs) []) s = .next t ∧ Posted s t a 0x01 0 0 n s.now ∧
           (∀ i, i < n → t.byteAt (pkgAddr b + i) = bs.getD i 0) ∧
           (∀ x, (∀ i, i < n → normAddr (pkgAddr b + i) ≠ normAddr x) → t.byteAt x = s.byteAt x) ∧
           t.pcieRx = wrapAdd 64 s.pcieRx n ∧ t.regions = s.regions ∧ t.tiles = s.tiles ∧ t.sched = s.sched))

/-- MEM_READ (R332, R454): with no poisoned byte in the range its bytes reach host memory, and nothing of the package changes but the
counts; with one, the reply is FAULT_MEMORY and host memory is as it was, but for the reply.
MEM_FILL and MEM_COPY (R350, R351, R454): a fill repeats its pattern, least significant byte first; a copy's destination reads what the
source read; no other byte of memory changes. Where the translation fails nothing is written, and an OPEN context stops. -/
def Obligations.MemoryCommandsMoveBytes : Prop :=
  (∀ (s : State) (h : Hdr) (ctxAddr hostAddr n b : Nat), Accepts s h 24 false (.ctx h.fn) → CanAnswer s h → OwesNothing s h →
     1 ≤ n → ctxAddr % 4096 + n ≤ 4096 → hostAddr % 4096 + n ≤ 4096 →
     (Work.start s).translate h.fn ctxAddr n false none = .ok b → ownSlot s b = true →
     ((Work.start s).rdPoison (pkgAddr b) n = false →
       Answers (.memRead h ctxAddr hostAddr n none []) s h 0x21 0x01 0 0 n (fun u =>
         u = { s with host := u.host, pcieTx := u.pcieTx, hbm := u.hbm, pkgBytes := u.pkgBytes, phys := u.phys } ∧
         (∀ i, i < n → u.hostByte h.fn (hostAddr + i) = s.byteAt (pkgAddr b + i)) ∧
         ∀ f x, (∀ i, i < n → hostKey h.fn (hostAddr + i) ≠ hostKey f x) → u.hostByte f x = s.hostByte f x)) ∧
     ((Work.start s).rdPoison (pkgAddr b) n = true →
       Answers (.memRead h ctxAddr hostAddr n none []) s h 0x21 0x13 1 0 0 (fun u => u = s))) ∧
  ((∀ (s : State) (h : Hdr) (a n v : Nat), Accepts s h 20 false (.ctx h.fn) → s.memOk = true →
     1 ≤ n → a % 4 = 0 → n % 4 = 0 → a % 4096 + n ≤ 4096 →
     (∀ b, CanAnswer s h → OwesNothing s h → (Work.start s).translate h.fn a n true none = .ok b → ownSlot s b = true →
       inOneWindow (pkgAddr b) n = true →
       Answers (.memFill h a n v []) s h 0x22 0x01 0 0 n (fun u =>
         u = { s with mem := u.mem, poison := u.poison, hbm := u.hbm, pkgBytes := u.pkgBytes, phys := u.phys, ctxs := u.ctxs } ∧
         (∀ i, i < n → u.byteAt (pkgAddr b + i) = BitVec.ofNat 8 (v / 256 ^ (i % 4))) ∧
         ∀ x, (∀ i, i < n → normAddr (pkgAddr b + i) ≠ normAddr x) → u.byteAt x = s.byteAt x)) ∧
     (∀ e, (Work.start s).translate h.fn a n true none = .error e →
       ∃ t, exec (.memFill h a n v []) s = .next t ∧ (∀ x, t.byteAt x = s.byteAt x) ∧
         ((s.ctx h.fn).st = .opened → (t.ctx h.fn).st = .stopped ∧ (t.ctx h.fn).stopStatus = e.status))) ∧
   ∀ (s : State) (h : Hdr) (src dst n x y : Nat), Accepts s h 24 false (.ctx h.fn) → CanAnswer s h → OwesNothing s h →
     s.memOk = true → 1 ≤ n → src % 4096 + n ≤ 4096 → dst % 4096 + n ≤ 4096 → src % 4096 = dst % 4096 →
     src + n ≤ dst ∨ dst + n ≤ src →
     (Work.start s).translate h.fn src n false none = .ok x → ownSlot s x = true →
     (Work.start s).translate h.fn dst n true none = .ok y → ownSlot s y = true → inOneWindow (pkgAddr y) n = true →
     (Work.start s).rdPoison (pkgAddr x) n = false →
     Answers (.memCopy h src dst n []) s h 0x23 0x01 0 0 n (fun u =>
       u = { s with mem := u.mem, poison := u.poison, hbm := u.hbm, pkgBytes := u.pkgBytes, phys := u.phys, ctxs := u.ctxs } ∧
       (∀ i, i < n → u.byteAt (pkgAddr y + i) = s.byteAt (pkgAddr x + i)) ∧
       ∀ z, (∀ i, i < n → normAddr (pkgAddr y + i) ≠ normAddr z) → u.byteAt z = s.byteAt z))

/-- Effects that a Turn puts off (R455, R480, R485): GRAPH_PATCH, CHK_FRACTION and CHK_SELFTEST of a context with a Turn under way
wait for its end; otherwise they act at once: a patch of 1, 2 or 4 bytes stands in memory and nothing else of it changes, the fraction is
the context's, and a self-test that no unit fails counts its runs and reports 0. -/
def Obligations.DeferredEffects : Prop :=
  ∀ (s : State) (h : Hdr),
    (∀ f, f ≤ 4 → Accepts s h 1 false (.ctx h.fn) →
      ((s.ctx h.fn).st ≠ .running → CanAnswer s h → Answers (.chkFraction h f) s h 0x40 0x01 0 0 0 (fun u =>
        u = { s with ctxs := u.ctxs } ∧ u.ctx h.fn = { s.ctx h.fn with fraction := f } ∧ ∀ d, d ≠ h.fn → u.ctx d = s.ctx d)) ∧
      ((s.ctx h.fn).st = .running → Fresh s h → ∃ t, exec (.chkFraction h f) s = .next t ∧
        Waits s t h 0x40 (.deferred (.fraction f)) false ∧ t = { s with rings := t.rings, actives := t.actives })) ∧
    (∀ mask failing, Accepts s h 2 false (.ctx h.fn) →
      ((s.ctx h.fn).st ≠ .running → CanAnswer s h → failing = [] → Answers (.chkSelftest h mask failing) s h 0x41 0x01 0 0 0 (fun u =>
        u = { s with regions := u.regions, flash := u.flash } ∧
        ∀ r, (r < 12 → bit mask r = false ∨ bit (s.ctx h.fn).mask r = false) → u.region r = s.region r)) ∧
      ((s.ctx h.fn).st = .running → Fresh s h → ∃ t, exec (.chkSelftest h mask failing) s = .next t ∧
        Waits s t h 0x41 (.deferred (.selftest mask failing)) false ∧ t = { s with rings := t.rings, actives := t.actives })) ∧
    ∀ a v n, (n = 1 ∨ n = 2 ∨ n = 4) → a % n = 0 → Accepts s h 32 false (.ctx h.fn) →
      ((s.ctx h.fn).st = .running → Fresh s h → ∃ t, exec (.graphPatch h [(a, v, n)] []) s = .next t ∧
        Waits s t h 0x31 (.deferred (.patch [(a, v, n)] [])) false ∧ t = { s with rings := t.rings, actives := t.actives }) ∧
      ∀ b, (s.ctx h.fn).st ≠ .running → CanAnswer s h → OwesNothing s h → s.memOk = true →
        (Work.start s).translate h.fn a n true none = .ok b → ownSlot s b = true → inOneWindow (pkgAddr b) n = true →
        Answers (.graphPatch h [(a, v, n)] []) s h 0x31 0x01 0 0 0 (fun u =>
          u = { s with mem := u.mem, poison := u.poison, hbm := u.hbm, pkgBytes := u.pkgBytes, phys := u.phys, ctxs := u.ctxs } ∧
          (∀ i, i < n → u.byteAt (pkgAddr b + i) = (leBytes n v).getD i 0) ∧
          ∀ x, (∀ i, i < n → normAddr (pkgAddr b + i) ≠ normAddr x) → u.byteAt x = s.byteAt x)

/-! ### Queries, the Scorepad, snapshots, traces, power policy and time (R412, R463, R506–R513, R524, R526, R541) -/

/-- FLT_QUERY and SP_READ (R463, R511): the fault report names the stop's status and reason and up to 255 lost ranges, which leave the
list; SP_READ copies stored records, a VF only its own context's, and names the number to go on from.
SP_CLEAR (R512, R513): without a clear key, or with an AUTH or a sequence number that is not right, every record stays and one
EV_SP_CLEAR_DENIED is submitted; a right one counts, empties the store, and leaves in it the one record of the clear. -/
def Obligations.ReportsReachHostAndClearNeedsTheKey : Prop :=
  ((∀ (s : State) (h : Hdr) (at_ : Nat), Accepts s h 8 false (.ctx h.fn) → CanAnswer s h →
     Answers (.fltQuery h at_ none) s h 0x42 0x01 0 (Nat.min (s.ctx h.fn).lost.length 255) 0 (fun u =>
       u = { s with host := u.host, pcieTx := u.pcieTx, ctxs := u.ctxs } ∧
       u.ctx h.fn = { s.ctx h.fn with lost := (s.ctx h.fn).lost.drop 255 } ∧ (∀ d, d ≠ h.fn → u.ctx d = s.ctx d) ∧
       u.hostByte h.fn at_ = BitVec.ofNat 8 (s.ctx h.fn).stopStatus ∧ u.hostByte h.fn (at_ + 1) = BitVec.ofNat 8 (s.ctx h.fn).reason)) ∧
   (∀ (s : State) (h : Hdr) (first count at_ : Nat), Accepts s h 16 false (if h.fn = 0 then .always else .ctx h.fn) → CanAnswer s h →
     1 ≤ count → count ≤ 65536 →
     Answers (.spRead h first count at_ none) s h 0x50 0x01 0 (s.pad.read h.fn first count).1.length (s.pad.read h.fn first count).2
       (fun u => u = s.withHost h.fn at_ ((s.pad.read h.fn first count).1.flatMap (·.bytes)))) ∧
   ∀ (p : Pad) (fn first count : Nat), (p.read fn first count).1.length ≤ count ∧
     ∀ r ∈ (p.read fn first count).1, r ∈ p.recs ∧ (fn = 0 ∨ r.ctx = some fn)) ∧
  (∀ (s : State) (h : Hdr) (auth : List Byte) (seq : Nat), Accepts s h 20 true .always → CanAnswer s h →
     (s.flash.clearKey = none →
       Answers (.spClear h auth seq) s h 0x51 0x09 0 0 0 (fun u => u = s.recorded 0xA002 3 0xC40 1 seq 0 none)) ∧
     ∀ key, s.flash.clearKey = some key →
       (seq ≠ s.pad.seq ∨ mac16 key (nonce s ++ leBytes 4 seq) ≠ auth →
         Answers (.spClear h auth seq) s h 0x51 0x09 0 0 0 (fun u =>
           u = { s with mgt := { s.mgt with authCount := wrapAdd 32 s.mgt.authCount 1 } }.recorded 0xA002 3 0xC40 1 seq 0 none)) ∧
       (seq = s.pad.seq → mac16 key (nonce s ++ leBytes 4 seq) = auth →
         Answers (.spClear h auth seq) s h 0x51 0x01 0 0 0 (fun u =>
           u = { s with pad := u.pad, flash := u.flash, mgt := u.mgt, fns := u.fns, sent := u.sent } ∧
           u.mgt = { s.mgt with authCount := wrapAdd 32 s.mgt.authCount 1 } ∧
           u.pad.clears = satAdd 32 s.pad.clears 1 ∧ u.pad.dropped = 0 ∧ u.pad.seq = wrapAdd 32 s.pad.seq 1 ∧
           ∃ r, u.pad.recs = [r] ∧ r.code = 0xA001 ∧ r.seq = s.pad.seq ∧ r.clear = true ∧
             r.p0 = s.pad.recs.length % 2 ^ 32)))

/-- CNT_SNAPSHOT, TRACE_ARM and PWR_POLICY (R524, R526, R541): a snapshot writes at most the bytes asked for, beginning with its
magic word; a trace is armed or disarmed for the next GO; the power policy's fields take effect where SET says so, clamped to their
ranges, and the reply shows what is in force.
SYS_TIME (R412, R465): a read reports the synchronisation state and fabric time; a set is the Banker's alone, once and before
formation, and then fabric time is the value. -/
def Obligations.SnapshotTracePowerAndTime : Prop :=
  ((∀ (s : State) (h : Hdr) (at_ n : Nat), Accepts s h 12 false (.ctx h.fn) → CanAnswer s h →
     ∃ p0, p0 ≤ n ∧ Answers (.cntSnapshot h at_ n none) s h 0x52 0x01 0 p0 0 (fun u =>
       u = { s with free := s.free + 2, time := { s.time with interp := u.time.interp }, host := u.host, pcieTx := u.pcieTx } ∧
       (64 ≤ n → 64 ≤ p0 ∧ ∀ i, i < 4 → u.hostByte h.fn (at_ + i) = (leBytes 4 0x534E5443).getD i 0))) ∧
   (∀ (s : State) (h : Hdr) (d : TraceDesc), CanAnswer s h →
     (Accepts s h 32 false (.ctx h.fn) → 1 ≤ d.tileCount → d.tileCount ≤ 132 → d.sample ≤ 15 → d.bytes % 4096 = 0 →
       Answers (.traceArm h d) s h 0x53 0x01 0 0 0 (fun u => u = { s with traceNext := s.traceNext.put none h.fn (some (some d)) })) ∧
     (Accepts s h 1 false (.ctx h.fn) →
       Answers (.traceDisarm h) s h 0x53 0x01 0 0 0 (fun u => u = { s with traceNext := s.traceNext.put none h.fn (some none) }))) ∧
   ∀ (s : State) (h : Hdr) (set deepest idle capW windowMs cap win : Nat) (d i : Pwr),
     Accepts s h 16 true (if bit set 2 then .ctx h.context else .always) → CanAnswer s h →
     cap = (if bit set 0 then clamp 800 3200 capW else s.power.capW) →
     win = (if bit set 1 then clamp 1 1000 windowMs else s.power.windowMs) →
     d = (if bit set 2 then Pwr.ofNum (clamp 1 3 deepest) else (s.ctx h.context).deepest) →
     i = (if bit set 3 then Pwr.ofNum (clamp 1 3 idle) else s.power.idle) →
     Answers (.pwrPolicy h set deepest idle capW windowMs) s h 0x60 0x01 0 cap (pack [(d.num, 0), (i.num, 2), (win, 16)]) (fun u =>
       u = { s with power := { s.power with capW := cap, windowMs := win, idle := i }, ctxs := u.ctxs, pad := u.pad, flash := u.flash,
                    fns := u.fns, sent := u.sent, regions := u.regions } ∧
       u.ctx h.context = { s.ctx h.context with deepest := d } ∧ (∀ c, c ≠ h.context → u.ctx c = s.ctx c) ∧
       (cap = s.power.capW → u.pad = s.pad) ∧ (i = s.power.idle → u.regions = s.regions))) ∧
  (∀ (s : State) (h : Hdr), CanAnswer s h →
     (Accepts s h 1 true .always → ∃ i, i ≤ 39 ∧
       Answers (.sysTimeRead h) s h 0x73 0x01 0 (timeReg s 8) ((s.time.count + i) % 2 ^ 64) (fun u =>
         u = { s with free := s.free + 1, time := { s.time with interp := i } })) ∧
     ∀ v, Accepts s h 16 true .always →
       (s.pins.bankerEn = false → Answers (.sysTimeSet h v) s h 0x73 0x07 9 0 0 (fun u => u = s)) ∧
       (s.pins.bankerEn = true → s.form.form = 1 ∨ s.form.form = 2 ∨ s.time.isSet = true →
         Answers (.sysTimeSet h v) s h 0x73 0x07 5 0 0 (fun u => u = s)) ∧
       (s.pins.bankerEn = true → s.form.form ≠ 1 → s.form.form ≠ 2 → s.time.isSet = false →
         Answers (.sysTimeSet h v) s h 0x73 0x01 0 (timeReg s 8) (v % 2 ^ 64) (fun u =>
           u = { s with time := { s.time with count := v % 2 ^ 64, interp := 0 } })))

/-- Records and buckets (R506–R509): a unit's record goes to the arbiter while the always-on domain is out of reset. Below STORE_MIN nothing
happens; without a token it is counted as suppressed and not stored; with one it is stored where there is room, with the next sequence number,
the time and what was suppressed before it. The store never outgrows its 65,536 slots. A refill gives its bucket a token. -/
def Obligations.RecordsTakeTokens : Prop :=
  (∀ (code sev src p0 p1 p2 : Nat) (ctx : Option Nat) (s : State),
    (s.pins.aonN = true → exec (.spSubmit code sev src p0 p1 p2 ctx) s = .next (s.recorded code sev src p0 p1 p2 ctx)) ∧
    (s.pins.aonN = false → exec (.spSubmit code sev src p0 p1 p2 ctx) s = .next s) ∧
    (s.recorded code sev src p0 p1 p2 ctx =
      { s with pad := (s.recorded code sev src p0 p1 p2 ctx).pad, flash := (s.recorded code sev src p0 p1 p2 ctx).flash,
               fns := (s.recorded code sev src p0 p1 p2 ctx).fns, sent := (s.recorded code sev src p0 p1 p2 ctx).sent }) ∧
    (exemptCode code = false → sev < s.pad.storeMin → s.recorded code sev src p0 p1 p2 ctx = s) ∧
    (exemptCode code = false → s.pad.storeMin ≤ sev → s.pad.hasTokens code sev = false →
      (s.recorded code sev src p0 p1 p2 ctx).pad.recs = s.pad.recs ∧
      (s.recorded code sev src p0 p1 p2 ctx).pad.seq = s.pad.seq ∧
      ((s.recorded code sev src p0 p1 p2 ctx).pad.buckets.get {} code).supp =
        satAdd 24 (s.pad.buckets.get {} code).supp 1) ∧
    (exemptCode code = false → s.pad.storeMin ≤ sev → s.pad.hasTokens code sev = true → s.pad.recs.length < 64512 →
      (s.recorded code sev src p0 p1 p2 ctx).pad.seq = wrapAdd 32 s.pad.seq 1 ∧
      ∃ r, (s.recorded code sev src p0 p1 p2 ctx).pad.recs = s.pad.recs ++ [r] ∧ r.seq = s.pad.seq ∧ r.code = code ∧ r.sev = sev ∧
        r.src = src ∧ r.time = s.now ∧ r.p0 = p0 % 2 ^ 32 ∧ r.p1 = p1 % 2 ^ 32 ∧ r.p2 = p2 % 2 ^ 32 ∧ r.ctx = ctx ∧
        r.supp = (s.pad.buckets.get {} code).supp ∧ r.gap = s.pad.gap) ∧
    (s.pad.recs.length ≤ 65536 → (s.recorded code sev src p0 p1 p2 ctx).pad.recs.length ≤ 65536)) ∧
  ∀ (s : State), exec (.tokenRefill none) s = .next { s with pad := { s.pad with pkgMissing := s.pad.pkgMissing - 1 } } ∧
    ∀ c, ∃ t, exec (.tokenRefill (some c)) s = .next t ∧ t = { s with pad := t.pad } ∧ t.pad.recs = s.pad.recs ∧
      (t.pad.buckets.get {} c).missing = (s.pad.buckets.get {} c).missing - 1 ∧
      ∀ d, d ≠ c → t.pad.buckets.get {} d = s.pad.buckets.get {} d

/-! ### The management port and SMBus (R510–R520) -/

/-- Requests that only read (R510, R511, R517–R520). While the management processor runs and fewer than 1,000 requests of this
second have been answered, each is counted and gets its response; otherwise it gets none and nothing changes. The push status goes to
the collector, and a PLDM request is answered without being counted. -/
def Obligations.ManagementReads : Prop :=
  (∀ (s : State) (m : MgtHdr), MgtOpen s →
    exec (.mgtStatus m) s = .next (s.mgtCounted.sending (.mgt 0x01 m.reqId 0x01 (statusBody s))) ∧
    (∀ first count, 1 ≤ count → count ≤ 40 →
      exec (.mgtSpRead m first count) s = .next
        (s.mgtCounted.sending (.mgt 0x02 m.reqId 0x01 ((s.pad.read 0 first count).1.flatMap (·.bytes))))) ∧
    (∀ index count, 1 ≤ count → count ≤ 40 →
      exec (.flashLogRead m index count) s = .next
        (s.mgtCounted.sending (.mgt 0x05 m.reqId 0x01 (((s.flash.log.drop index).take count).flatMap (·.bytes))))) ∧
    ∀ off count, 1 ≤ count → count ≤ 64 → off % 4 = 0 →
      ∃ t bs, exec (.mgtRegRead m off count) s = .next t ∧ bs.length = 4 * count ∧
        t = ({ s.mgtCounted with latch := t.latch }).sending (.mgt 0x04 m.reqId 0x01 bs) ∧
        (∀ k, k ≠ 28 → t.latch.get 0 k = s.latch.get 0 k) ∧
        (count = 1 → counter64 s 0 off = none → off < 4 ∨ counter64 s 0 (off - 4) = none →
          bs = leBytes 4 (plainReg s 0 off % 2 ^ 32) ∧ t.latch = s.latch)) ∧
  (∀ (s : State) (m : MgtHdr) (first index off count : Nat), 1000 ≤ s.mgtUsed ∨ (s.mgt.running = false ∧ s.boot.stage ≠ 6) →
    exec (.mgtStatus m) s = .next s ∧ exec (.mgtSpRead m first count) s = .next s ∧
    exec (.flashLogRead m index count) s = .next s ∧ exec (.mgtRegRead m off count) s = .next s) ∧
  (∀ s : State, (s.mgt.running = true → ∀ a p, s.mgt.collector = some (a, p) →
      exec .spPushStatus s = .next (s.sending (.push a p (statusBody s)))) ∧
    (s.mgt.running = false ∨ s.mgt.collector = none → exec .spPushStatus s = .next s)) ∧
  ∀ s : State,
    (s.mgt.running = true →
      (∀ eid, exec (.pldmRequest (.setEndpoint eid)) s = .next
        ({ s with mgt := { s.mgt with endpointId := eid } }.sending (.pldm (leBytes 1 eid)))) ∧
      exec (.pldmRequest .getTypes) s = .next (s.sending (.pldm [0x00#8, 0x02#8, 0x04#8])) ∧
      (∀ id v, sensorReading s id = some v → exec (.pldmRequest (.reading id)) s = .next (s.sending (.pldm (leBytes 4 v)))) ∧
      exec (.pldmRequest .fru) s = .next (s.sending (.pldm
        (familyBytes ++ leBytes 4 (2 + lowBits 8 Config.stepping * 2 ^ 16) ++ leBytes 8 Config.serial))) ∧
      ∀ e, exec (.pldmRequest (.events e)) s = .next ({ s with mgt := { s.mgt with pldmEvents := e } }.sending (.pldm []))) ∧
    (s.mgt.running = false → ∀ r, exec (.pldmRequest r) s = .next s)

/-- Requests that act (R39, R512–R518). A request whose AUTH does not verify counts, is answered AUTH_FAILED and recorded,
and does nothing else. One that verifies counts and acts: a key is installed and recorded, a key slot filled or emptied, the collector and
its thresholds set, an address set. The first management key needs no authorization. -/
def Obligations.ManagementActs : Prop :=
  ∀ (s : State) (m : MgtHdr), MgtOpen s →
    (mgtAuthOk s m = false →
      (∀ slot op point, slot ≤ 7 → op ≤ 1 → exec (.keySlot m slot op point) s = .next
        ((s.mgtTried.recorded 0x0005 3 0xC40 0x12 0 0 none).sending (.mgt 0x12 m.reqId 0x09 []))) ∧
      (∀ key v, key ≤ 1 → (key = 1 ∨ s.flash.mgtKey.isSome = true) → exec (.keySet m key v) s = .next
        ((s.mgtTried.recorded 0x0005 3 0xC40 0x11 0 0 none).sending (.mgt 0x11 m.reqId 0x09 []))) ∧
      (∀ a p x y, exec (.collectorSet m a p x y) s = .next
        ((s.mgtTried.recorded 0x0005 3 0xC40 0x13 0 0 none).sending (.mgt 0x13 m.reqId 0x09 []))) ∧
      (∀ core halt body, exec (.debugMsg m core halt body) s = .next
        ((s.mgtTried.recorded 0x0005 3 0xC40 0x14 0 0 none).sending (.mgt 0x14 m.reqId 0x09 []))) ∧
      (∀ a n, exec (.addrSet m a n) s = .next
        ((s.mgtTried.recorded 0x0005 3 0xC40 0x16 0 0 none).sending (.mgt 0x16 m.reqId 0x09 []))) ∧
      ∀ op body, 0x70 ≤ op → op ≤ 0x73 → exec (.mgtSys m op body) s = .next
        ((s.mgtTried.recorded 0x0005 3 0xC40 0x15 0 0 none).sending (.mgt 0x15 m.reqId 0x09 []))) ∧
    (s.flash.mgtKey = none → ∀ v, exec (.keySet m 0 v) s = .next
      (({ s.mgtCounted with flash := { s.flash with mgtKey := some (padTo 32 v) } }.recorded 0x0004 5 0xC40 0 0 0 none).sending
        (.mgt 0x11 m.reqId 0x01 []))) ∧
    (mgtAuthOk s m = true →
      (∀ v, exec (.keySet m 0 v) s = .next
        (({ s.mgtTried with flash := { s.flash with mgtKey := some (padTo 32 v) } }.recorded 0x0004 5 0xC40 0 1 0 none).sending
          (.mgt 0x11 m.reqId 0x01 []))) ∧
      (∀ v, exec (.keySet m 1 v) s = .next
        (({ s.mgtTried with flash := { s.flash with clearKey := some (padTo 32 v) } }.recorded 0x0004 5 0xC40 1
          (b2n s.flash.clearKey.isSome) 0 none).sending (.mgt 0x11 m.reqId 0x01 []))) ∧
      (∀ slot point, slot ≤ 7 →
        exec (.keySlot m slot 1 point) s = .next
          ({ s.mgtTried with flash := { s.flash with keySlots := s.flash.keySlots.put [] slot (padTo 97 point) } }.sending
            (.mgt 0x12 m.reqId 0x01 [])) ∧
        exec (.keySlot m slot 0 point) s = .next
          ({ s.mgtTried with flash := { s.flash with keySlots := s.flash.keySlots.put [] slot [] } }.sending
            (.mgt 0x12 m.reqId 0x01 []))) ∧
      (∀ a p x y, x ≤ 6 → y ≤ 6 → exec (.collectorSet m a p x y) s = .next
        ({ s.mgtTried with
            mgt := { s.mgtTried.mgt with collector := some (a, p) }
            pad := { s.pad with storeMin := x, pushMin := y } }.sending (.mgt 0x13 m.reqId 0x01 []))) ∧
      (∀ a n, exec (.addrSet m a n) s = .next
        ({ s.mgtTried with mgt := { s.mgtTried.mgt with globalAddr := some (a, n) } }.sending (.mgt 0x16 m.reqId 0x01 []))) ∧
      (∀ core body, exec (.debugMsg m core false body) s = .next (s.mgtTried.sending (.mgt 0x14 m.reqId 0x01 []))) ∧
      (∀ core body, (s.core core).takes = true → ∃ cause u, cause < 2 ^ 32 ∧
        exec (.coreStop core cause) { s.mgtTried with free := s.free + 1 } = .next u ∧
        exec (.debugMsg m core true body) s = .next (u.sending (.mgt 0x14 m.reqId 0x01 []))) ∧
      ∀ body, (∀ a ∈ s.actives, a.ring ≠ 64) →
        (ofLe ((padTo 16 body).take 1) = 0 → ∃ i, i ≤ 39 ∧ exec (.mgtSys m 0x73 body) s = .next
          ({ s.mgtTried with free := s.free + 1, time := { s.time with interp := i } }.sending
            (.mgt 0x15 m.reqId 0x01 (leBytes 1 0 ++ leBytes 4 (timeReg s 8) ++ leBytes 8 ((s.time.count + i) % 2 ^ 64))))) ∧
        (ofLe ((padTo 16 body).take 1) = 1 → s.pins.bankerEn = false → exec (.mgtSys m 0x73 body) s = .next
          (s.mgtTried.sending (.mgt 0x15 m.reqId 0x07 (leBytes 1 9 ++ leBytes 4 0 ++ leBytes 8 0)))) ∧
        (ofLe ((padTo 16 body).take 1) = 1 → s.pins.bankerEn = true → s.form.form ≠ 1 → s.form.form ≠ 2 → s.time.isSet = false →
          ∃ v, v = ofLe (((padTo 16 body).drop 8).take 8) ∧ exec (.mgtSys m 0x73 body) s = .next
            ({ s.mgtTried with time := { s.time with count := v, interp := 0 } }.sending
              (.mgt 0x15 m.reqId 0x01 (leBytes 1 0 ++ leBytes 4 (timeReg s 8) ++ leBytes 8 v))))) ∧
    ∀ auth seq,
      (s.flash.clearKey = none → exec (.mgtSpClear m auth seq) s = .next
        ((s.mgtCounted.recorded 0xA002 3 0xC40 0 seq 0 none).sending (.mgt 0x10 m.reqId 0x09 []))) ∧
      ∀ key, s.flash.clearKey = some key →
        (seq ≠ s.pad.seq ∨ mac16 key (nonce s ++ leBytes 4 seq) ≠ auth → exec (.mgtSpClear m auth seq) s = .next
          ((s.mgtTried.recorded 0xA002 3 0xC40 0 seq 0 none).sending (.mgt 0x10 m.reqId 0x09 []))) ∧
        (seq = s.pad.seq → mac16 key (nonce s ++ leBytes 4 seq) = auth →
          ∃ t, exec (.mgtSpClear m auth seq) s = .next t ∧
            t = { s with pad := t.pad, flash := t.flash, mgt := s.mgtTried.mgt, fns := t.fns, sent := t.sent } ∧
            t.pad.clears = satAdd 32 s.pad.clears 1 ∧ t.pad.dropped = 0 ∧
            ∃ r, t.pad.recs = [r] ∧ r.code = 0xA001 ∧ r.clear = true ∧ r.p0 = s.pad.recs.length % 2 ^ 32)

/-! ### Rulebooks, programs and Turns from the host (R40, R278, R430, R454, R461, R468–R475) -/

/-- RB_LOAD (R40), where its context reads the image whole: a header that fails a check, an image that fails one, and a store or a
segment table without room are refused with a record; an accepted image gets the lowest free handle, whose number and store address
the reply carries, and stands in the pages of its two copies. No other context and no other handle changes. -/
def Obligations.RulebooksAreLoaded : Prop :=
  ∀ (s : State) (h : Hdr) (addr bytes k size : Nat) (hb img : List Byte), Accepts s h 16 false (.ctx h.fn) → CanAnswer s h →
    s.reads h.fn addr (Nat.min bytes 256) = some hb → k = freeHandle (s.ctx h.fn) → size = ofLe (slice hb 8 4) →
    (∀ st r, headerChecks (s.ctx h.fn) (padTo 256 hb) bytes = some (st, r) → RefusesBook (.rbLoad h addr bytes []) s h st r) ∧
    (headerChecks (s.ctx h.fn) (padTo 256 hb) bytes = none → s.reads h.fn addr size = some img →
      match (Work.start s).placeStore h.fn k size with
      | none => ∃ r, RefusesBook (.rbLoad h addr bytes []) s h 0x08 r ∨ RefusesBook (.rbLoad h addr bytes []) s h 0x09 r
      | some (p, q, w3) =>
        match (Work.start s).imageChecks (w3.s.ctx h.fn) true img with
        | some (st, r) => RefusesBook (.rbLoad h addr bytes []) s h st r
        | none =>
          match w3.storeBook h.fn k img p q with
          | none => RefusesBook (.rbLoad h addr bytes []) s h 0x08 6
          | some _ => Answers (.rbLoad h addr bytes []) s h 0x10 0x01 0 k (storeAddr k) (fun u =>
            (u.ctx h.fn).book k = some { addr := p, copy := q, bytes := img.length } ∧
            (∀ j, j ≠ k → (u.ctx h.fn).book j = (s.ctx h.fn).book j) ∧ (∀ d, d ≠ h.fn → u.ctx d = s.ctx d) ∧
            (q + img.length ≤ stackWindowEnd →
              (∀ n ∈ ctxTiles (s.ctx h.fn), ∀ i j, i < img.length → j < 8 →
                normAddr (saveRecord (s.ctx h.fn) (ctxTile (s.ctx h.fn) n) + 16 + j) ≠ q + i) →
              ∀ i, i < img.length → u.byteAt (q + i) = img.getD i 0)))

/-- RB_UNLOAD, TURN_RUN and TURN_STATUS (R278, R454, R461, R468, R470): an unloaded book leaves no page, flip, journal or re-tier entry of
its handle; a TURN_RUN waits for its Turn unless its handle holds no book, the context is stopped, its Turn has no attempt left, or its Turn was cancelled; a Rulebook's first
TURN_RUN makes its recipe and variant state. TURN_STATUS reports the Turn block's registers. -/
def Obligations.TurnRunsWait : Prop :=
  (∀ (s : State) (h : Hdr) (k : Nat), Accepts s h 1 false (.ctx h.fn) → CanAnswer s h →
    ((s.ctx h.fn).book k = none → Answers (.rbUnload h k) s h 0x11 0x05 0 0 0 (fun u => u = s)) ∧
    ((s.ctx h.fn).book k ≠ none → bookInUse s h.fn k = true → Answers (.rbUnload h k) s h 0x11 0x07 5 0 0 (fun u => u = s)) ∧
    ((s.ctx h.fn).book k ≠ none → bookInUse s h.fn k = false → Answers (.rbUnload h k) s h 0x11 0x01 0 0 0 (fun u =>
      u = { s with ctxs := u.ctxs, mem := u.mem, poison := u.poison, flips := u.flips, journal := u.journal,
                   retierList := u.retierList, retierDone := u.retierDone, retierDue := u.retierDue } ∧
      (u.ctx h.fn).book k = none ∧ (∀ j, j ≠ k → (u.ctx h.fn).book j = (s.ctx h.fn).book j) ∧
      (∀ d, d ≠ h.fn → u.ctx d = s.ctx d) ∧ (∀ g ∈ (u.ctx h.fn).allocs, g.use ≠ .store k 0 ∧ g.use ≠ .store k 1) ∧
      ∀ f ∈ u.flips, ¬ (f.ctx = h.fn ∧ f.handle = k)))) ∧
  (∀ (s : State) (h : Hdr) (k : Nat), Accepts s h 1 false (.ctx h.fn) →
    (CanAnswer s h → (s.ctx h.fn).st = .stopped → Answers (.turnRun h k) s h 0x12 0x07 5 0 0 (fun u => u = s)) ∧
    (CanAnswer s h → (s.ctx h.fn).st ≠ .stopped → (s.ctx h.fn).book k = none →
      Answers (.turnRun h k) s h 0x12 0x05 0 0 0 (fun u => u = s)) ∧
    ∀ b, (s.ctx h.fn).st ≠ .stopped → (s.ctx h.fn).book k = some b →
      ((s.ctx h.fn).turn.ran = true → (s.ctx h.fn).turn.started = false → 256 ≤ (s.ctx h.fn).turn.after → CanAnswer s h →
        Answers (.turnRun h k) s h 0x12 0x07 5 0 0 (fun u => u = s)) ∧
      (((s.ctx h.fn).turn.ran = false ∨ (s.ctx h.fn).turn.started = true ∨ (s.ctx h.fn).turn.after < 256) →
      (CanAnswer s h → (s.ctx h.fn).turn.num + (turnRuns s h.fn).length ∈ (s.ctx h.fn).turn.cancelled →
        Answers (.turnRun h k) s h 0x12 0x03 0 0 0 (fun u => u = { s with ctxs := u.ctxs } ∧
          (u.ctx h.fn).turn.cancelled =
            (s.ctx h.fn).turn.cancelled.filter (fun n => n ≠ (s.ctx h.fn).turn.num + (turnRuns s h.fn).length) ∧
          ∀ d, d ≠ h.fn → u.ctx d = s.ctx d)) ∧
      (Fresh s h → (s.ctx h.fn).turn.num + (turnRuns s h.fn).length ∉ (s.ctx h.fn).turn.cancelled →
        ∃ t, exec (.turnRun h k) s = .next t ∧ Waits s t h 0x12 (.turnRun k) false ∧
          t = { s with rings := t.rings, actives := t.actives, ctxs := t.ctxs } ∧ (∀ d, d ≠ h.fn → t.ctx d = s.ctx d) ∧
          (t.ctx h.fn).seedLocked = true ∧
          (b.started = true → t.ctx h.fn = { s.ctx h.fn with
            seedLocked := true
            turn := { (s.ctx h.fn).turn with
              keepForce := if (s.ctx h.fn).seedLocked then (s.ctx h.fn).turn.keepForce else (s.ctx h.fn).keepAll } }) ∧
          (b.started = false → restoring s h.fn = false →
            (t.ctx h.fn).book k = some ((Work.start s).startBook b) ∧
            ∀ j, j ≠ k → (t.ctx h.fn).book j = (s.ctx h.fn).book j)))) ∧
  ∀ (s : State) (h : Hdr), Accepts s h 0 false (.ctx h.fn) → CanAnswer s h →
    Answers (.turnStatus h) s h 0x14 (if (s.ctx h.fn).st = .running ∧ 0 < (s.ctx h.fn).turn.attempt then 0x06 else 0x01) 0
      (turnReg s h.fn 0) (turnReg s h.fn 4) (fun u => u = s)

/-- TURN_STOP and ABORT (R470, R474, R475): a TURN_STOP of a package that does not decide for the job goes to the Banker; where it decides and no
Turn of the job runs or waits, the READYs that the Banker holds are withdrawn and every package is told. An ABORT of a packet that is not in the
ring replies NOT_FOUND, of itself or of a command that has claimed its outcome ABORT_TOO_LATE; a packet of another ring that has
not started replies ABORTED and never starts. -/
def Obligations.StopsAndAborts : Prop :=
  (∀ (s : State) (h : Hdr) (key : Nat), Accepts s h 1 false (.ctx h.fn) → CanAnswer s h → key = keyOf (s.ctx h.fn) h.fn →
    (decidesFor s key = false →
      Answers (.turnStopAfter h) s h 0x13 0x01 0 0 0 (fun u => u = s.sending (.closing (.turnStop key 0))) ∧
      Answers (.turnStopNow h) s h 0x13 0x01 0 0 0 (fun u => u = s.sending (.closing (.turnStop key 1)))) ∧
    (decidesFor s key = true → (∀ c ∈ contextsOf s key, turnRuns s c = [] ∧ (s.ctx c).st ≠ .running) → (s.job key).gone = false →
      Answers (.turnStopAfter h) s h 0x13 0x01 0 0 0 (fun u =>
        u = { s with jobs := u.jobs, ctxs := u.ctxs, sent := s.sent ++ [.closing (.stopAll key 0)] } ∧
        u.job key = { s.job key with ready := [] } ∧ (∀ j, j ≠ key → u.job j = s.job j) ∧
        ∀ c, c ∈ contextsOf s key → (u.ctx c).turn.started = false) ∧
      ((s.job key).deciding = false → (s.job key).committed = false →
        Answers (.turnStopNow h) s h 0x13 0x01 0 0 0 (fun u =>
          u = { s with jobs := u.jobs, ctxs := u.ctxs, sent := s.sent ++ [.closing (.stopAll key 1)] } ∧
          u.job key = { turn := (s.job key).turn, attempt := (s.job key).attempt } ∧ (∀ j, j ≠ key → u.job j = s.job j) ∧
          ∀ c, c ∈ contextsOf s key → (u.ctx c).turn.started = false)))) ∧
  ∀ (s : State) (h : Hdr) (ring index op tag d : Nat) (irq : Bool), Accepts s h 8 false (.ctx h.fn) → CanAnswer s h → ring ≤ 3 →
    d = 4 * h.fn + ring →
    ((s.ring d).visible index = false → Answers (.abort h ring index op tag irq) s h 0x15 0x05 0 0 0 (fun u => u = s)) ∧
    (d = h.dev → index = (s.ring d).c → Answers (.abort h ring index op tag irq) s h 0x15 0x04 0 0 0 (fun u => u = s)) ∧
    (∀ a, d ≠ h.dev → (s.ring d).visible index = true →
      s.actives.find? (fun b => b.ring = d && b.index = index) = some a → a.claimed = true →
      Answers (.abort h ring index op tag irq) s h 0x15 0x04 0 0 0 (fun u => u = s)) ∧
    (d ≠ h.dev → (s.ring d).visible index = true → (∀ a ∈ s.actives, a.ring = d → a.index ≠ index) →
      modSub 32 index (s.ring d).c < 2 ^ 31 → index ∉ (s.ring d).skip → (s.ring d).waiting = [] → (s.ring d).room = true →
      Answers (.abort h ring index op tag false) s h 0x15 0x01 0 0 0 (fun u =>
        u = { s with rings := u.rings, host := u.host, pcieTx := u.pcieTx } ∧
        (∀ e, e ≠ d → u.ring e = s.ring e) ∧ (u.ring d).t = wrapAdd 32 (s.ring d).t 1 ∧ (u.ring d).p = (s.ring d).p ∧
        (index ≠ (s.ring d).c → (u.ring d).c = (s.ring d).c ∧ index ∈ (u.ring d).skip) ∧
        (index = (s.ring d).c → (s.ring d).skip = [] → (u.ring d).c = wrapAdd 32 (s.ring d).c 1) ∧
        ∀ i, i < (replyBytes (s.ctx h.fn).compat 0x03 0 op d index tag 0 0 s.now).length →
          u.hostByte h.fn ((s.ring d).cqBase + (s.ring d).t % (s.ring d).entries * entrySize s d + i) =
            (replyBytes (s.ctx h.fn).compat 0x03 0 op d index tag 0 0 s.now).getD i 0))

/-- RUN_PROGRAM (R430, R431, R459) with a policy that sets nothing, where its context reads the image whole and a stack has room for it: an image whose signature does
not verify is refused with AUTH_FAILED and starts nothing; one that verifies makes the program, whose threads are READY, and the
command waits for its last thread. -/
def Obligations.ProgramsStart : Prop :=
  ∀ (s : State) (h : Hdr) (p : Policy) (addr stack id : Nat) (hb img key : List Byte) (x : ProgHead),
    Accepts s h 32 false (.ctx h.fn) → CanAnswer s h → Fresh s h → bit p.set 0 = false → bit p.set 1 = false → bit p.set 2 = false →
    s.reads h.fn addr 64 = some hb → x = ProgHead.ofBytes hb → s.reads h.fn addr (Nat.min x.size 0x400000) = some img →
    x.magic = 0x50565253 → x.format = 0x0100 → x.sizesOk = true → key = s.flash.keySlots.get [] x.slot → key ≠ [] →
    (List.range 12).find? (fun k => decide (x.size ≤ (s.ctx h.fn).left k) && (findRun s k x.size).isSome) = some stack → id = freeProg s →
    (progsOf s h.fn).length < 4 → heldThreads s h.fn + x.threads ≤ (s.ctx h.fn).threadLimit →
    x.threads ≤ (freeThreads s).length → (∀ k, (s.core k).asking = false) →
    if verifyBlock key (img.drop (x.size - 128)) (img.take (x.size - 128)) then
      ∃ t, exec (.runProgram h p addr []) s = .next t ∧ Waits s t h 0x05 (.program id) false ∧
        t.prog id = some
          { ctx := h.fn, count := x.threads, textSize := x.text, dataSize := x.data, stackSize := x.stack, entry := x.entry,
            image := img, stack := stack, pages := x.size, exits := 0, anyInvalid := false, anyAborted := false, code0 := none,
            ended := 0 } ∧
        (∀ j, j ≠ id → t.prog j = s.prog j) ∧
        ∀ n ∈ (freeThreads s).take x.threads, (t.thread n).st = .ready ∧ (t.thread n).prog = some id ∧
          (t.thread n).prio = x.prio ∧ n ∈ t.sched.ready
    else Answers (.runProgram h p addr []) s h 0x05 0x09 0 0 0 (fun u => u.progs = s.progs ∧ u.sched = s.sched ∧ u.tiles = s.tiles)

/-! ### Tables (R292–R316) -/

/-- Table commands for a handle without that table reply NOT_FOUND, and all but TBL_PUBLISH for a TRAIN table under training STATE (R312).
TBL_CREATE of a table of one row: its entry is (0, TIER, copy 0, no pending) and copy 0 reads zero (R312). TBL_ROWS_WRITE asks the host
for its rows (R313). -/
def Obligations.TablesAreCreated : Prop :=
  ∀ (s : State) (h : Hdr) (k n tier : Nat), Accepts s h 24 false (.ctx h.fn) → tier ≤ 2 →
    (CanAnswer s h → (Work.start s).tableOf h.fn k n = none →
      Answers (.tblCreate h k n tier []) s h 0x32 0x05 0 0 0 (fun u => u = s) ∧
      Answers (.tblPublish h k n) s h 0x34 0x05 0 0 0 (fun u => u = s) ∧
      (∀ at_ i, Answers (.tblRowsWrite h k n at_ [i]) s h 0x33 0x05 0 0 0 (fun u => u = s)) ∧
      ∀ i, Answers (.tblRetier h k n [(i, tier)] []) s h 0x35 0x05 0 0 0 (fun u => u = s)) ∧
    ∀ t : TableRec, (Work.start s).tableOf h.fn k n = some t →
      (CanAnswer s h → trained s h.fn k t = true →
        Answers (.tblCreate h k n tier []) s h 0x32 0x07 5 0 0 (fun u => u = s) ∧
        (∀ at_ i, Answers (.tblRowsWrite h k n at_ [i]) s h 0x33 0x07 5 0 0 (fun u => u = s)) ∧
        ∀ i, Answers (.tblRetier h k n [(i, tier)] []) s h 0x35 0x07 5 0 0 (fun u => u = s)) ∧
      (∀ at_ i, Fresh s h → trained s h.fn k t = false → i < t.rows →
        ∃ v, exec (.tblRowsWrite h k n at_ [i]) s = .next v ∧ Waits s v h 0x33 (.hostData at_ (2 * t.len) (.tableRows k n [i])) false ∧
          v = { s with rings := v.rings, actives := v.actives
                       sent := s.sent ++ [.hostRead h.dev (s.ring h.dev).c at_ (2 * t.len)] }) ∧
      ∀ x y, CanAnswer s h → s.memOk = true → trained s h.fn k t = false → t.rows = 1 → 1 ≤ t.pairs.getD tier 0 →
        t.dir % 4096 + 16 ≤ 4096 → t.copyAddr tier 0 0 % 4096 + t.copyBytes tier ≤ 4096 → 1 ≤ t.copyBytes tier →
        (Work.start s).translate h.fn t.dir 16 true none = .ok x → ownSlot s x = true → inOneWindow (pkgAddr x) 16 = true →
        ((Work.start s).storeBytes (pkgAddr x) (leBytes 16 (tier * 2 ^ 28 + 3 * 2 ^ 60)) false).translate h.fn (t.copyAddr tier 0 0)
          (t.copyBytes tier) true none = .ok y → ownSlot s y = true → inOneWindow (pkgAddr y) (t.copyBytes tier) = true →
        (∀ i j, i < 16 → j < t.copyBytes tier → normAddr (pkgAddr x + i) ≠ normAddr (pkgAddr y + j)) →
        Answers (.tblCreate h k n tier []) s h 0x32 0x01 0 0 0 (fun u =>
          u = { s with mem := u.mem, poison := u.poison, hbm := u.hbm, pkgBytes := u.pkgBytes, phys := u.phys, ctxs := u.ctxs } ∧
          (∀ c, u.ctx c = { s.ctx c with owed := (u.ctx c).owed }) ∧
          (∀ i, i < 16 → u.byteAt (pkgAddr x + i) = (leBytes 16 (tier * 2 ^ 28 + 3 * 2 ^ 60)).getD i 0) ∧
          (∀ i, i < t.copyBytes tier → u.byteAt (pkgAddr y + i) = 0) ∧
          ∀ z, (∀ i, i < 16 → normAddr (pkgAddr x + i) ≠ normAddr z) →
            (∀ j, j < t.copyBytes tier → normAddr (pkgAddr y + j) ≠ normAddr z) → u.byteAt z = s.byteAt z)

/-- TBL_RETIER of one row that is not flipped (R314): a row already in the tier is counted and left; without a free pair the command
replies DONE_FLAGGED; else its copy stands re-quantized in copy 0 of the lowest free pair, its entry names tier, pair and copy, and
the flip is noted. -/
def Obligations.RowsMoveBetweenTiers : Prop :=
  ∀ (s : State) (h : Hdr) (k n i tier b : Nat) (t : TableRec) (e : Entry), Accepts s h 16 false (.ctx h.fn) → CanAnswer s h →
    s.memOk = true → tier ≤ 2 → (Work.start s).tableOf h.fn k n = some t → trained s h.fn k t = false → t.index = n → i < t.rows →
    (∀ f ∈ s.flips, f.ctx = h.fn → f.handle = k → f.table = n → f.row ≠ i) → (t.dir + 16 * i) % 4096 + 16 ≤ 4096 →
    (Work.start s).translate h.fn (t.dir + 16 * i) 16 false none = .ok b → ownSlot s b = true →
    (Work.start s).rdPoison (pkgAddr b) 16 = false →
    e = (Entry.ofNat ((Work.start s).rdLe (pkgAddr b) 16)).resolve (s.ctx h.fn).turn.num →
    (e.curTier = tier → Answers (.tblRetier h k n [(i, tier)] []) s h 0x35 0x01 0 1 0 (fun u =>
      u = { s with hbm := u.hbm, pkgBytes := u.pkgBytes, phys := u.phys })) ∧
    ∀ taken, taken = (s.flips.filter (fun f => f.ctx = h.fn && f.handle = k && f.table = n)).map
        (fun f => (f.old / 2 ^ 28, f.old % 2 ^ 28)) → e.curTier ≠ tier →
      (freePair t ((Work.start s).entries h.fn t) taken tier = none →
        Answers (.tblRetier h k n [(i, tier)] []) s h 0x35 0x02 0x10 0 0 (fun u =>
          u = { s with hbm := u.hbm, pkgBytes := u.pkgBytes, phys := u.phys })) ∧
      ∀ p x y z cb bs, freePair t ((Work.start s).entries h.fn t) taken tier = some p →
        t.copyAddr e.curTier e.curPair e.curCopy % 4096 + t.copyBytes e.curTier ≤ 4096 → 1 ≤ t.copyBytes e.curTier →
        (Work.start s).translate h.fn (t.copyAddr e.curTier e.curPair e.curCopy) (t.copyBytes e.curTier) false none = .ok x →
        ownSlot s x = true → (Work.start s).rdPoison (pkgAddr x) (t.copyBytes e.curTier) = false →
        cb = (Work.start s).rdBytes (pkgAddr x) (t.copyBytes e.curTier) →
        bs = (t.encode (s.ctx h.fn).compat tier (t.decode e.curTier cb) (t.stateOf e.curTier cb) none 0).1 →
        t.copyAddr tier p 0 % 4096 + t.copyBytes tier ≤ 4096 → 1 ≤ t.copyBytes tier →
        (Work.start s).translate h.fn (t.copyAddr tier p 0) (t.copyBytes tier) true none = .ok y → ownSlot s y = true →
        inOneWindow (pkgAddr y) (t.copyBytes tier) = true →
        ((Work.start s).storeBytes (pkgAddr y) bs false).translate h.fn (t.dir + 16 * i) 16 true none = .ok z → ownSlot s z = true →
        inOneWindow (pkgAddr z) 16 = true →
        (∀ a c, a < 16 → c < t.copyBytes tier → normAddr (pkgAddr z + a) ≠ normAddr (pkgAddr y + c)) →
        Answers (.tblRetier h k n [(i, tier)] []) s h 0x35 0x01 0 1 0 (fun u =>
          u = { s with mem := u.mem, poison := u.poison, hbm := u.hbm, pkgBytes := u.pkgBytes, phys := u.phys, regions := u.regions,
                       flips := u.flips, ctxs := u.ctxs } ∧
          (∀ c, u.ctx c = { s.ctx c with owed := (u.ctx c).owed }) ∧
          u.flips = s.flips ++ [{ ctx := h.fn, handle := k, table := n, row := i, old := e.curTier * 2 ^ 28 + e.curPair }] ∧
          (∀ j, j < t.copyBytes tier → u.byteAt (pkgAddr y + j) = bs.getD j 0) ∧
          (∀ j, j < 16 → u.byteAt (pkgAddr z + j) =
            (leBytes 16 ({ e with curPair := p, curTier := tier, curCopy := 0 } : Entry).toNat).getD j 0) ∧
          ∀ a, (∀ j, j < t.copyBytes tier → normAddr (pkgAddr y + j) ≠ normAddr a) →
            (∀ j, j < 16 → normAddr (pkgAddr z + j) ≠ normAddr a) → u.byteAt a = s.byteAt a)

/-- The publish fence (R315, R317): TBL_PUBLISH waits, and counts at its region where reads of the table are in flight; its
completion waits until none is and until every flip that came before it is written, then the command replies DONE, the table has no flip left and
every row cache of the context is ghosted. -/
def Obligations.PublishesAreFenced : Prop :=
  (∀ (s : State) (h : Hdr) (k n : Nat) (t : TableRec), Accepts s h 2 false (.ctx h.fn) → Fresh s h →
    (Work.start s).tableOf h.fn k n = some t →
    ∃ v, exec (.tblPublish h k n) s = .next v ∧ Waits s v h 0x34 (.publish k n) false ∧
      v = { s with rings := v.rings, actives := v.actives, regions := v.regions } ∧
      ((Work.start s).readers h.fn k t.index = false → v.regions = s.regions) ∧
      ((Work.start s).readers h.fn k t.index = true →
        v.region (t.pkgRegion (s.ctx h.fn)) = { s.region (t.pkgRegion (s.ctx h.fn)) with
          tblFence := satAdd 32 (s.region (t.pkgRegion (s.ctx h.fn))).tblFence 1 } ∧
        ∀ r, r ≠ t.pkgRegion (s.ctx h.fn) → v.region r = s.region r)) ∧
  ∀ (s : State) (c k n : Nat) (u : List Upset) (xs : List Active),
    xs = s.actives.filter (fun a => a.ctx = c && a.wait.publishes k n && !owesFlips s a k n) →
    (xs = [] ∨ (Work.start s).readers c k n = true → exec (.publishComplete c k n u) s = .next s) ∧
    ∀ a, xs = [a] → a.wait = .publish k n → (Work.start s).readers c k n = false → CanPost s a →
      ∃ v, exec (.publishComplete c k n u) s = .next v ∧ Posted s v a 0x01 0 0 0 s.now ∧
        v = { s with rings := v.rings, actives := v.actives, host := v.host, pcieTx := v.pcieTx, fns := v.fns, sent := v.sent,
                     flips := v.flips, phys := v.phys } ∧
        v.flips = s.flips.filter (fun f => !(f.ctx = c && f.handle = k && f.table = n)) ∧
        (∀ m, (∀ g ∈ ctxTiles (s.ctx c), hostMesh s g ≠ m) → v.ph m = s.ph m) ∧
        ∀ g ∈ ctxTiles (s.ctx c), v.ph (hostMesh s g) = (s.ph (hostMesh s g)).ghost

/-! ### The system: formation, the Banker and its standby, jobs and re-homes (R404–R411, R454, R465, R492–R497) -/

/-- SYS commands that need the Banker of a formed system (R465): NOT_BANKER on a package that is not the Banker, STATE on the Banker-to-be
before formation. SYS_FORM forms once: refused with STATE below the system level, while a formation runs and after it. -/
def Obligations.SystemCommandsNeedTheBanker : Prop :=
  ∀ (s : State) (h : Hdr) (r p : Nat), Accepts s h 16 true .always → CanAnswer s h →
    (r = if s.form.form = 2 then 9 else if s.pins.bankerEn then 5 else 9) → s.form.form ≠ 2 ∨ s.form.banker = false →
    (∀ x y z, Answers (.sysJoin h x y z) s h 0x70 0x07 r 0 0 (fun u => u = s)) ∧
    (∀ o e, Answers (.sysFormPlace h o e) s h 0x71 0x07 r 0 0 (fun u => u = s)) ∧
    (∀ job, Answers (.sysFormRemove h job) s h 0x71 0x07 r 0 0 (fun u => u = s)) ∧
    Answers (.sysRehomeQuery h) s h 0x72 0x07 r 0 0 (fun u => u = s) ∧
    (∀ a b, Answers (.sysRehomeMove h a b) s h 0x72 0x07 r 0 0 (fun u => u = s)) ∧
    (∀ a, Answers (.sysRehomeDeclareLost h a) s h 0x72 0x07 r 0 0 (fun u => u = s)) ∧
    (∀ f a, Answers (.sysRehomeExclude h f a) s h 0x72 0x07 r 0 0 (fun u => u = s)) ∧
    (s.form.form = 2 ∨ s.pins.bankerEn = false → ∀ x y z, Answers (.sysFormForm h x y z) s h 0x71 0x07 9 0 0 (fun u => u = s)) ∧
    (s.form.form ≠ 2 → s.pins.bankerEn = true → s.boot.level < 4 ∨ s.form.form = 1 →
      ∀ x y z, Answers (.sysFormForm h x y z) s h 0x71 0x07 5 0 0 (fun u => u = s)) ∧
    (s.form.form ≠ 2 → s.pins.bankerEn = true → 4 ≤ s.boot.level → s.form.form ≠ 1 → Fresh s h → p < 6 →
      ∀ x y z, ∃ t, exec (.sysFormForm h x y z) s = .next t ∧ Waits s t h 0x71 .form true ∧
        t = { s with rings := t.rings, actives := t.actives, form := t.form, bank := t.bank, sched := t.sched, sent := t.sent } ∧
        t.form = { s.form with
          form := 1, epoch := if s.form.epoch = 0 then 1 else wrapAdd 16 s.form.epoch 1
          probeEpoch := some (if s.form.epoch = 0 then 1 else wrapAdd 16 s.form.epoch 1), parent := none } ∧
        t.bank.reports = [ownReport s 0] ∧ t.bank.jobs = [] ∧
        ((s.port p).st = 2 → .control (.probe p t.form.epoch 0) ∈ t.sent))

/-- SYS commands on the Banker with a standby (R405, R408, R409, R454, R465, R493, R497): each decision goes to the standby first, and the
command waits. SYS_REHOME OP 0 counts the re-homes; a move of a role whose Turn runs is noted until its COMMIT; a lost package is recorded.
A job that does not exist has no reply of the spec: its status is free. -/
def Obligations.DecisionsGoToTheStandby : Prop :=
  ∀ (s : State) (h : Hdr), Accepts s h 16 true .always → Banks s →
    (CanAnswer s h → Answers (.sysRehomeQuery h) s h 0x72 0x01 0 s.bank.rehomes.length 0 (fun u => u = s)) ∧
    (∀ job, s.bank.jobs.any (fun j => decide (j.job = job)) = false → CanAnswer s h → ∃ v, v < 256 ∧
      Answers (.sysFormRemove h job) s h 0x71 v 0 0 0 (fun u => u = { s with free := s.free + 1 })) ∧
    (Fresh s h →
      (∀ job, s.bank.jobs.any (fun j => decide (j.job = job)) = true →
        DecidesLater (.sysFormRemove h job) s h 0x71 (.place job) s (.remove job)) ∧
      (∀ flags src, DecidesLater (.sysRehomeExclude h flags src) s h 0x72 (.exclude src) s (.exclude src (bit flags 0))) ∧
      (∀ x y z r, s.bank.candidates.find? (fun c => c.1 = { x := x, y := y, z := z }) = some ({ x := x, y := y, z := z }, r) →
        s.missingNow.contains { x := x, y := y, z := z } = true → r.slot = x % 4 + 4 * (y % 4) →
        DecidesLater (.sysJoin h x y z) s h 0x70 (.join { x := x, y := y, z := z }) s
          (.joined { at_ := { x := x, y := y, z := z }, serial := r.serial, bankerEn := r.bankerEn, standbyEn := r.standbyEn,
                     slot := r.slot, delaySum := r.delaySum, lost := r.lostPorts })) ∧
      (∀ o e, s.bank.jobs = [] → s.bank.waiting = [] → s.missingNow = [] → 0 < e.x → 0 < e.y → 0 < e.z →
        o.x + e.x ≤ s.form.ext.x → o.y + e.y ≤ s.form.ext.y → o.z + e.z ≤ s.form.ext.z →
        DecidesLater (.sysFormPlace h o e) s h 0x71 (.place 0) s (.place { job := 0, origin := o, shape := e, moved := [] })) ∧
      (∀ src dst job rank, s.bank.roleOf src = some (job, rank) → s.present src = true → s.reserve dst = true →
        dst ≠ { x := 0xFF, y := 0xFF, z := 0xFF } → turnRuns? (s.job job) = true →
        ∃ t, exec (.sysRehomeMove h src dst) s = .next t ∧ Waits s t h 0x72 (.rehome src) true ∧
          t = { s with rings := t.rings, actives := t.actives,
                       bank := { s.bank with moves := s.bank.moves.filter (fun m => m.1 ≠ src) ++ [(src, some dst)] } }) ∧
      ∀ src, s.present src = true → (∀ job rank, s.bank.roleOf src = some (job, rank) → (s.job job).gone = false) →
        ∃ cause, cause < 2 ^ 32 ∧ DecidesLater (.sysRehomeDeclareLost h src) s h 0x72 (.rehome src)
          ({ s with free := s.free + 1 }.recorded 0x5003 5 0x1000 (rankNum src) cause 0 none) (.lost src))

/-- Forming (R406, R407, R409–R412): a package at the system level answers the first probe of an epoch and passes it on; reports reach the Banker's
list or go on towards it; the quiet timeout refuses a placement that fails a check with its lowest reason, or places every package; an assignment
gives the package its place and its fabric time and is acknowledged; acknowledgements, join reports, which say that a link has trained again
(R370), and missing lists are noted. -/
def Obligations.FormationMessages : Prop :=
  (∀ (s : State) (port epoch sum : Nat),
    (s.boot.level < 4 ∨ s.form.form = 2 ∨ s.form.probeEpoch = some epoch → exec (.formProbe port epoch sum) s = .next s) ∧
    (4 ≤ s.boot.level → s.form.form ≠ 2 → s.form.probeEpoch ≠ some epoch →
      ∃ t, exec (.formProbe port epoch sum) s = .next t ∧ t = { s with form := t.form, sched := t.sched, sent := t.sent } ∧
        t.form = { s.form with form := 1, epoch := epoch, probeEpoch := some epoch, parent := some port } ∧
        .control (.report (some port) (ownReport s (sum + (s.port port).delay))) ∈ t.sent ∧
        ∀ p, p < 6 → p ≠ port → (s.port p).st = 2 → .control (.probe p epoch (sum + (s.port port).delay)) ∈ t.sent)) ∧
  (∀ (s : State) (r : PkgReport),
    (s.form.form ≠ 1 → exec (.formReport r) s = .next s) ∧
    (s.form.form = 1 → (forming s).isSome = true → exec (.formReport r) s = .next
      { s with bank := { s.bank with reports := s.bank.reports.filter (fun q => q.serial ≠ r.serial) ++ [r] } }) ∧
    (s.form.form = 1 → forming s = none → exec (.formReport r) s = .next (s.sending (.control (.report s.form.parent r))))) ∧
  (∀ (s : State), (forming s = none → exec .formQuiet s = .next s) ∧
    ∀ a, forming s = some a → s.form.form = 1 → CanPost s a →
      (∀ r, placement s.bank.reports s.bank.expect = .error r →
        ∃ t, exec .formQuiet s = .next t ∧ Posted s t a 0x02 r 0 0 s.now ∧ t.form = { s.form with form := 3 } ∧ t.bank = s.bank ∧
          t.pad = (s.recorded 0x5001 4 0x1000 r 0 0 none).pad) ∧
      ∀ ps missing, placement s.bank.reports s.bank.expect = .ok (ps, missing) →
        ((lowestSerial ps (fun p => p.bankerEn)).map (·.serial) = some Config.serial →
          ∃ t, exec .formQuiet s = .next t ∧ t.bank.placed = ps ∧ t.bank.reports = [] ∧ t.form.form = 2 ∧ t.form.epoch = s.form.epoch ∧
            t.mem = s.mem ∧ t.ctxs = s.ctxs ∧
            ∀ p ∈ ps, p.serial ≠ Config.serial → ∃ x, x.serial = p.serial ∧ x.coord = p.at_ ∧ x.missing = missing ∧
              .control (.assign x) ∈ t.sent) ∧
        ((lowestSerial ps (fun p => p.bankerEn)).map (·.serial) ≠ some Config.serial →
          ∃ t, exec .formQuiet s = .next t ∧ Posted s t a 0x07 9 0 0 s.now ∧ t.form = { s.form with form := 0 } ∧ t.bank = s.bank)) ∧
  (∀ (s : State) (a : Assign),
    (a.serial ≠ Config.serial → exec (.formAssign a) s = .next (s.sending (.control (.assign a)))) ∧
    (a.serial = Config.serial → s.form.form = 2 ∨ s.boot.level < 4 → exec (.formAssign a) s = .next s) ∧
    (a.serial = Config.serial → s.form.form ≠ 2 → 4 ≤ s.boot.level → epochAbove s.form.epoch a.epoch = false →
      ∃ t, exec (.formAssign a) s = .next t ∧ t = { s with form := t.form, time := t.time, sched := t.sched, sent := t.sent } ∧
        t.form = { s.form with
          form := 2, banker := decide (a.banker = a.coord), standby := decide (a.standby = some a.coord), coord := a.coord, ext := a.ext
          missing := a.missing, nextMissing := none, bankerAt := a.banker, standbyAt := a.standby, epoch := a.epoch
          lastBeat := t.now } ∧
        t.time.count = (a.time + a.delay) % 2 ^ 64 ∧ t.time.interp = 0 ∧ t.time.isSet = true ∧ t.time.state = 1 ∧
        .control (.ack a.serial) ∈ t.sent)) ∧
  (∀ (s : State) (serial : Nat),
    (s.form.banker = false → exec (.formAck serial) s = .next (s.sending (.control (.ack serial)))) ∧
    (s.form.banker = true → ∀ p, s.bank.placed.find? (fun q => q.serial = serial) = some p →
      ((∀ a ∈ s.actives, a.wait ≠ .form ∧ a.wait ≠ .join p.at_) →
        exec (.formAck serial) s = .next { s with bank := { s.bank with acks := insertNat serial s.bank.acks } }) ∧
      ∀ a, s.actives.filter (fun b => decide (b.wait = Await.join p.at_)) = [a] → (∀ b ∈ s.actives, b.wait ≠ .form) → CanPost s a →
        ∃ t, exec (.formAck serial) s = .next t ∧ Posted s t a 0x01 0 0 0 s.now ∧
          t.bank = { s.bank with acks := insertNat serial s.bank.acks } ∧ t.form = s.form)) ∧
  (∀ (s : State) (n at_ : Xyz) (port : Nat) (r : PkgReport) (p : Placed), s.form.banker = true →
    s.bank.placed.find? (fun q => q.at_ = n) = some p → n.step port = some at_ →
    (s.missingNow.contains at_ = true → exec (.joinReport n port r) s = .next { s with bank := { s.bank.setLost n at_ false with
      candidates := s.bank.candidates.filter (fun c => c.1 ≠ at_) ++ [(at_, { r with delaySum := p.delaySum + r.delaySum })] } }) ∧
    (s.missingNow.contains at_ = false → exec (.joinReport n port r) s = .next
      { s with bank := (s.bank.setLost n at_ false).setLost at_ n false })) ∧
  ∀ (s : State) (epoch : Nat) (l : List Xyz),
    (s.form.form ≠ 2 ∨ epochAbove s.form.epoch epoch = true → exec (.missingList epoch l) s = .next s) ∧
    (s.form.form = 2 → epoch = s.form.epoch → midTurn s = true →
      exec (.missingList epoch l) s = .next { s with form := { s.form with nextMissing := some l } }) ∧
    (s.form.form = 2 → epoch = s.form.epoch → midTurn s = false →
      ∃ t, exec (.missingList epoch l) s = .next t ∧
        t = { s with form := t.form, ports := t.ports, ctxs := t.ctxs, sched := t.sched, sent := t.sent } ∧
        t.form = { s.form with missing := l, nextMissing := none })

/-- The Banker and its standby (R283, R405, R411): the standby records and acknowledges, of the COMMITs of a job the newest; on the
acknowledgement the decision takes effect; heartbeats go out and are followed; with none for 100 µs the standby becomes the Banker under the
next epoch and says so. -/
def Obligations.StandbyTakesOver : Prop :=
  (∀ (s : State) (seq : Nat), s.form.form = 2 → s.form.banker = false →
    (∀ j, exec (.standbyRecord s.form.epoch seq (.place j)) s = .next
      ({ s with form := { s.form with standby := true, recorded := s.form.recorded ++ [Decision.place j] } }.sending
        (.control (.standbyAck s.form.epoch seq)))) ∧
    ∀ key turn attempt, ∃ t, exec (.standbyRecord s.form.epoch seq (.commit key turn attempt)) s = .next t ∧
      t = { s with form := t.form, sent := s.sent ++ [.control (.standbyAck s.form.epoch seq)] } ∧
      t.form = { s.form with standby := true, recorded := t.form.recorded } ∧ Decision.commit key turn attempt ∈ t.form.recorded ∧
      ∀ d ∈ t.form.recorded, ∀ n m, d = Decision.commit key n m → n = turn ∧ m = attempt) ∧
  (∀ (s : State) (epoch seq : Nat),
    (s.form.banker = false ∨ epoch ≠ s.form.epoch → exec (.standbyAck epoch seq) s = .next s) ∧
    (s.form.banker = true → epoch = s.form.epoch →
      (∀ n key turn attempt, s.bank.waiting.find? (fun p => p.1 = seq) = some (n, .commit key turn attempt) → s.bank.moves = [] →
        exec (.standbyAck epoch seq) s = .next ({ s with
          bank := { s.bank with
            waiting := s.bank.waiting.filter (fun p => p.1 ≠ seq), rehomeCount := s.bank.rehomeCount.put 0 key 0 }
          jobs := s.jobs.put {} key { s.job key with deciding := false, committed := true } }.sending
            (.closing (.commit key turn attempt)))) ∧
      (∀ n key turn, s.bank.waiting.find? (fun p => p.1 = seq) = some (n, .cancel key turn) → (s.job key).turn = turn →
        (s.job key).gone = false → exec (.standbyAck epoch seq) s = .next ({ s with
          bank := { s.bank with waiting := s.bank.waiting.filter (fun p => p.1 ≠ seq) }
          jobs := s.jobs.put {} key { s.job key with ready := [] } }.sending (.closing (.cancel false key turn)))) ∧
      ∀ n src out, s.bank.waiting.find? (fun p => p.1 = seq) = some (n, .exclude src out) → (∀ a ∈ s.actives, a.wait ≠ .exclude src) →
        exec (.standbyAck epoch seq) s = .next { s with bank := { s.bank with
          waiting := s.bank.waiting.filter (fun p => p.1 ≠ seq)
          excluded := if out then s.bank.excluded.filter (fun p => p ≠ src) ++ [src] else s.bank.excluded.filter (fun p => p ≠ src) } })) ∧
  (∀ s : State,
    (s.form.form = 2 → s.form.banker = true →
      exec .bankerHeartbeat s = .next (s.sending (.control (.heartbeat s.form.epoch s.here)))) ∧
    (s.form.form ≠ 2 ∨ s.form.banker = false → exec .bankerHeartbeat s = .next s) ∧
    (s.form.form = 2 → s.form.banker = false → ∀ b, exec (.heartbeat s.form.epoch b) s = .next
      ({ s with form := { s.form with bankerAt := b, lastBeat := s.now } }.sending (.control (.heartbeat s.form.epoch b)))) ∧
    (∀ epoch b, s.form.form ≠ 2 ∨ epochAbove s.form.epoch epoch = true → exec (.heartbeat epoch b) s = .next s)) ∧
  ∀ s : State,
    (s.form.form ≠ 2 ∨ s.form.banker = true ∨ s.now < s.form.lastBeat + 100000 → exec .heartbeatTimeout s = .next s) ∧
    (s.form.form = 2 → s.form.banker = false → s.form.lastBeat + 100000 ≤ s.now → s.form.standby = true →
      ∃ t, exec .heartbeatTimeout s = .next t ∧ t.form.banker = true ∧ t.form.standby = false ∧
        t.form.epoch = wrapAdd 16 s.form.epoch 1 ∧ t.form.bankerAt = s.here ∧ t.form.form = 2 ∧ t.time.root = true ∧ t.time.parent = 7 ∧
        t.mem = s.mem ∧ t.regions = s.regions ∧ t.rings = s.rings ∧
        .control (.heartbeat (wrapAdd 16 s.form.epoch 1) s.here) ∈ t.sent ∧
        ∀ key turn attempt, Decision.commit key turn attempt ∈ s.form.recorded → .closing (.commit key turn attempt) ∈ t.sent)

/-- Lost packages and re-homes (R492, R493, R495, R498): the Banker notes each ALIVE; a package that it hears nothing of for 1 ms, or that says so
itself, is recorded as lost and the loss goes to the standby; a reserve package takes the role it is given; the successor's copy of the
role restores its Turn, its lane counters and its memory. -/
def Obligations.LostRolesMove : Prop :=
  (∀ (s : State) (src : Xyz),
    (s.form.banker = true → s.present src = true →
      exec (.alive src) s = .next { s with bank := { s.bank with alive := s.bank.alive.put 0 (rankNum src) s.now } }) ∧
    (s.form.banker = false ∨ s.present src = false → exec (.alive src) s = .next s) ∧
    (s.form.banker = false ∨ s.now < s.bank.alive.get 0 (rankNum src) + 1000000 → exec (.aliveTimeout src) s = .next s) ∧
    (s.form.banker = false → ∀ cause by_, exec (.lost src cause by_) s = .next s) ∧
    (s.form.banker = true → s.present src = true → s.form.standbyAt ≠ none →
      (∀ job rank, s.bank.roleOf src = some (job, rank) → (s.job job).gone = false) →
      (s.bank.alive.get 0 (rankNum src) + 1000000 ≤ s.now → exec (.aliveTimeout src) s = .next
        ((s.recorded 0x5003 5 0x1000 (rankNum src) 2 0 none).recordsAt (.lost src))) ∧
      ∀ cause by_, cause ≠ 0 → exec (.lost src cause by_) s = .next
        ((s.recorded 0x5003 5 0x1000 (rankNum src) 1 0 none).recordsAt (.lost src))) ∧
    (s.form.banker = true → s.bank.lostPorts.find? (fun p => p.1 = src) = none → 1 < facing s src →
      ∀ by_, exec (.lost src 0 by_) s = .next { s with bank := { s.bank.setLost by_ src true with
        lostPorts := s.bank.lostPorts.filter (fun p => p.1 ≠ src) ++ [(src, 1, s.now)] } })) ∧
  (∀ (s : State) (job : Nat) (rank : Xyz), s.form.form = 2 →
    (holdsRole s = true → exec (.rehomeAssign s.form.epoch job rank) s = .next s) ∧
    (holdsRole s = false → roleContexts (Work.start s) = [] →
      ∃ t, exec (.rehomeAssign s.form.epoch job rank) s = .next t ∧ t = { s with form := t.form, fns := t.fns, sched := t.sched, sent := t.sent } ∧
        t.form = { s.form with roleJob := job, roleRank := rank, rehomed := true, away := true } ∧ bit (t.fn 0).intStatus 5 = true)) ∧
  ∀ (s : State) (c a : Nat) (b : Book) (small : Small) (bs : List Byte), (s.ctx c).running = some b → s.memOk = true →
    ((s.ctx c).st = .closed ∨ restoring s c = false ∨ (s.ctx c).turn.awaitCopy = false →
      exec (.rehomeCopyDone c small [(a, bs)]) s = .next s) ∧
    ((s.ctx c).st ≠ .closed → restoring s c = true → (s.ctx c).turn.awaitCopy = true → inHbm a = true →
      inOneWindow a bs.length = true →
      ∃ t, exec (.rehomeCopyDone c small [(a, bs)]) s = .next t ∧
        t = { s with mem := t.mem, poison := t.poison, hbm := t.hbm, pkgBytes := t.pkgBytes, lanes := t.lanes, ctxs := t.ctxs } ∧
        (∀ d, d ≠ c → t.ctx d = s.ctx d) ∧
        (t.ctx c).turn = { (s.ctx c).turn with num := small.turn, awaitCopy := false, buddyEpoch := some small.turn } ∧
        (∀ i, i < bs.length → t.byteAt (a + i) = bs.getD i 0) ∧
        (∀ x, (∀ i, i < bs.length → normAddr (a + i) ≠ normAddr x) → t.byteAt x = s.byteAt x) ∧
        ((∀ p ∈ small.lanes, p.1 < 192) → ∀ k, k < c * 192 ∨ c * 192 + 192 ≤ k → t.lanes.get 0 k = s.lanes.get 0 k) ∧
        ∀ k v, small.lanes = [(k, v)] → t.lanes.get 0 (c * 192 + k) = v)

/-! ### Turns (R53, R255–R260, R268–R290, R470–R475, R482, R486, R495, R499) -/

/-- What the Banker decides of an attempt (R257, R270, R273, R282–R284, R470, R475): one GO once every role is READY; one REPLAY of a poisoned
attempt, and one more for a tally fault that comes after another cause, which every package counts (R58); the record once every contribution is in; COMMIT once every role has voted, and CANCEL, each recorded at the standby first where
there is one; TURN_STOP withdraws the READYs, or with MODE 1 the attempt, before COMMIT is recorded. The job's other keys are untouched.
(A re-home in progress gives READY the attempt that is being prepared: the model's choice, log entry 26, left out here.) -/
def Obligations.AttemptsAreDecided : Prop :=
  ∀ (s : State) (key rank turn attempt : Nat) (j v : JobTurn), j = s.job key → v = j.at turn attempt →
    ((∀ p ∈ s.bank.rehomes, p.1 ≠ key) →
      (decidesFor s key = false ∨ olderAttempt turn attempt j.turn j.attempt = true →
        exec (.ready key rank turn attempt) s = .next s) ∧
      (decidesFor s key = true → olderAttempt turn attempt j.turn j.attempt = false →
        (v.gone = true ∨ v.poisoned = true →
          exec (.ready key rank turn attempt) s = .next s) ∧
        (v.gone = false → v.poisoned = false →
          exec (.ready key rank turn attempt) s = .next
            (if (ranksOf (jobShape s key)).all (fun r => (insertNat rank v.ready).contains r) then
              { s with jobs := s.jobs.put {} key { v with ready := insertNat rank v.ready, gone := true } }.sending
                (.closing (.go key turn attempt))
            else { s with jobs := s.jobs.put {} key { v with ready := insertNat rank v.ready } })))) ∧
    (∀ cause, exec (.poisonReceived key rank turn attempt cause) s = .next
      (if decidesFor s key = false ∨ olderAttempt turn attempt j.turn j.attempt = true ∨ v.deciding = true ∨ v.committed = true then s
      else if v.poisoned then (if cause = 1 then s.sending (.closing (.replay key turn attempt 1)) else s)
      else
        { s with jobs := s.jobs.put {} key { v with poisoned := true } }.sending
          (.closing (.replay key turn attempt cause)))) ∧
    (∀ k : Contribution,
      (decidesFor s key = false ∨ j.turn ≠ turn ∨ j.attempt ≠ attempt ∨ j.gone = false ∨ j.poisoned = true →
        exec (.ctContribution key rank turn attempt k) s = .next s) ∧
      (decidesFor s key = true → j.turn = turn → j.attempt = attempt → j.gone = true → j.poisoned = false →
        ∃ t, exec (.ctContribution key rank turn attempt k) s = .next t ∧ t = { s with jobs := t.jobs, sent := t.sent } ∧
          t.job key = { j with contribs := j.contribs.put none rank (some k) } ∧ (∀ i, i ≠ key → t.job i = s.job i) ∧
          ((∃ r ∈ ranksOf (jobShape s key), r ≠ rank ∧ j.contribs.get none r = none) → t.sent = s.sent) ∧
          ∀ ks : Nat → Contribution, ks rank = k →
            (∀ r ∈ ranksOf (jobShape s key), r ≠ rank → j.contribs.get none r = some (ks r)) →
            t.sent = s.sent ++ [.closing (.record key turn attempt
              (recordBytes turn attempt (foldJob (jobShape s key) ks)))])) ∧
    (decidesFor s key = false ∨ j.turn ≠ turn ∨ j.attempt ≠ attempt ∨ j.gone = false ∨ j.poisoned = true ∨ j.deciding = true ∨
        j.committed = true → exec (.yesReceived key rank turn attempt) s = .next s) ∧
    (decidesFor s key = true → j.turn = turn → j.attempt = attempt → j.gone = true → j.poisoned = false → j.deciding = false →
      j.committed = false →
      ((∃ r ∈ ranksOf (jobShape s key), r ∉ insertNat rank j.yes) → exec (.yesReceived key rank turn attempt) s = .next
        { s with jobs := s.jobs.put {} key { j with yes := insertNat rank j.yes } }) ∧
      ((∀ r ∈ ranksOf (jobShape s key), r ∈ insertNat rank j.yes) →
        (s.form.standbyAt ≠ none → key < 0x10000 → exec (.yesReceived key rank turn attempt) s = .next
          ({ s with jobs := s.jobs.put {} key { j with yes := insertNat rank j.yes, deciding := true } }.recordsAt
            (.commit key turn attempt))) ∧
        (s.form.standbyAt = none ∨ 0x10000 ≤ key → s.bank.moves = [] →
          ∃ t, exec (.yesReceived key rank turn attempt) s = .next t ∧
            t = { s with
              jobs := t.jobs
              bank := { s.bank with rehomeCount := s.bank.rehomeCount.put 0 key 0 }
              sent := s.sent ++ [.closing (.commit key turn attempt)] } ∧
            t.job key = { j with yes := insertNat rank j.yes, committed := true } ∧ ∀ i, i ≠ key → t.job i = s.job i))) ∧
    (decidesFor s key = false ∨ (j.turn = turn ∧ j.gone = true) ∨ turn < j.turn → exec (.cancel true key turn) s = .next s) ∧
    (decidesFor s key = true → (j.turn ≠ turn ∨ j.gone = false) → j.turn ≤ turn →
      (s.form.standbyAt ≠ none → key < 0x10000 → exec (.cancel true key turn) s = .next (s.recordsAt (.cancel key turn))) ∧
      (s.form.standbyAt = none ∨ 0x10000 ≤ key → exec (.cancel true key turn) s = .next
        ({ s with jobs := s.jobs.put {} key (if j.turn = turn then { j with ready := [] } else j) }.sending
          (.closing (.cancel false key turn))))) ∧
    ∀ (mode : Nat) (now : Bool), decidesFor s key = true → now = (decide (mode = 1) && !j.deciding && !j.committed) →
      ∃ t, exec (.turnStopAtBanker key mode) s = .next t ∧
        t.job key = (if now then { turn := j.turn, attempt := j.attempt, poisoned := j.gone }
                     else if j.gone then j else { j with ready := [] }) ∧
        (∀ i, i ≠ key → t.job i = s.job i) ∧ .closing (.stopAll key (b2n now)) ∈ t.sent ∧
        (contextsOf s key = [] → t = { s with jobs := t.jobs, sent := s.sent ++ [.closing (.stopAll key (b2n now))] })

/-- An attempt on a package (R53, R256, R257, R260, R282, R284, R288, R468, R470, R475, R486, R499): its preparation and READY, or the copy to
the buddy before the first; GO, which sets the tiles to work and claims the TURN_RUN; REPLAY, which empties the attempt and numbers the
next, or ends the Turn at a limit, and of which a second one for a tally fault only counts that fault; the vote; CANCEL and TURN_STOP of a Turn that has not started; MODE 1 on one that runs.
A Turn that ends without a commit keeps its next attempt one above the last that ran (R256). -/
def Obligations.AttemptsRunOnThePackage : Prop :=
  (∀ (s : State) (c : Nat), s.form.nextMissing = none → (∀ p, p < 6 → (s.port p).barred = false) →
    (headRun s c = none ∨ mayStart s c = false → exec (.attemptStart c) s = .next s) ∧
    ∀ (a : Active) (h : Nat) (b : Book), headRun s c = some a → a.wait = .turnRun h → (s.ctx c).book h = some b → mayStart s c = true →
      (b.mirrored = false → (Work.start s).solo c = false →
        ∃ t m, exec (.attemptStart c) s = .next t ∧ (t.ctx c).turn = { (s.ctx c).turn with handle := h, awaitCopy := true } ∧
          .closing (.mirrorWhole (keyOf (s.ctx c) c) m) ∈ t.sent ∧ m.small.turn = (s.ctx c).turn.num ∧
          t.mem = s.mem ∧ t.tiles = s.tiles ∧ ∀ d, d ≠ c → t.ctx d = s.ctx d) ∧
      (b.mirrored = true ∨ (Work.start s).solo c = true →
        WordsFit s b → ApartFrom s c b → (∀ k n, s.journal.get 0 (journalKey c k n) = 0) → (s.ctx c).turn.left = [] →
        ∃ t, exec (.attemptStart c) s = .next t ∧ (∀ d, d ≠ c → t.ctx d = s.ctx d) ∧
          (mustPoison s c = false →
            (t.ctx c).turn = { (s.ctx c).turn.begin h with recover := (s.ctx c).turn.recover || restoring s c } ∧
            (restoring s c = true → t.form.rehomed = false) ∧
            .closing (.ready (keyOf (s.ctx c) c) (rankOf (t.ctx c)) (s.ctx c).turn.num (t.ctx c).turn.attempt) ∈ t.sent) ∧
          (mustPoison s c = true →
            (t.ctx c).turn = { (s.ctx c).turn.begin h with poison := true, cause := 4 } ∧
            .closing (.poison (keyOf (s.ctx c) c) (rankOf (t.ctx c)) (s.ctx c).turn.num (t.ctx c).turn.attempt 4) ∈ t.sent) ∧
          (∀ n ∈ ctxTiles (s.ctx c), (t.tile n).pos = 0 ∧ (t.tile n).loops = [] ∧ (t.tile n).trips = [] ∧ (t.tile n).tallies = [] ∧
            (t.tile n).flights = [] ∧ (t.tile n).ended = false ∧ (t.tile n).buffer = []) ∧
          (∀ n, n ∉ ctxTiles (s.ctx c) → t.tile n = s.tile n) ∧
          t.arrivals = s.arrivals.filter (fun p => !(ctxTiles (s.ctx c)).contains p.1) ∧
          t.actives = s.actives ∧ t.jobs = s.jobs)) ∧
  (∀ (s : State) (c turn attempt : Nat) (x : Ctx), x = s.ctx c →
    (headRun s c = none ∨ x.turn.started = false ∨ x.turn.phase ≠ 1 ∨ x.turn.num ≠ turn ∨
        (x.turn.attempt ≠ attempt ∧ adopts s c = false) ∨ x.turn.poison = true → exec (.go c turn attempt) s = .next s) ∧
    ∀ a, headRun s c = some a → x.turn.started = true → x.turn.phase = 1 → x.turn.num = turn → x.turn.attempt = attempt →
      x.turn.poison = false → (∀ n ∈ ctxTiles x, (s.tile n).buffer = []) →
      ∃ t, exec (.go c turn attempt) s = .next t ∧
        t = { s with
          ctxs := s.ctxs.put {} c { x with st := .running, turn := { x.turn with
            phase := 2, ran := true, next := attempt + 1, after := attempt + 1, recover := false } }
          actives := s.actives.map (fun b => if a.same b then { b with wait := a.wait, claimed := true } else b)
          tiles := t.tiles
          traceDesc := t.traceDesc
          traceNext := t.traceNext } ∧
        (∀ n, t.tile n = { s.tile n with traceq := (t.tile n).traceq, traceDropped := (t.tile n).traceDropped }) ∧
        (t.traceDesc.get none c = none → t.tiles = s.tiles) ∧
        (s.traceNext.get none c = none → t.traceDesc = s.traceDesc ∧ t.traceNext = s.traceNext) ∧
        ∀ d, s.traceNext.get none c = some d →
          t.traceDesc = s.traceDesc.put none c d ∧ t.traceNext = s.traceNext.put none c none) ∧
  (∀ (s : State) (c turn attempt cause : Nat) (x : Ctx), x = s.ctx c →
    (x.st = .closed ∨ x.turn.phase = 5 ∨ x.turn.num ≠ turn ∨
        (x.turn.current ≠ attempt ∧ (x.turn.started = false ∨ 1 < x.turn.phase ∨ x.turn.attempt ≠ attempt + 1 ∨ cause ≠ 1)) →
      exec (.replay c turn attempt cause) s = .next s) ∧
    (x.st ≠ .closed → x.turn.phase ≠ 5 → x.turn.num = turn → x.turn.started = true → x.turn.phase ≤ 1 → x.turn.attempt = attempt + 1 →
      cause = 1 →
      (x.turn.tallied = attempt + 1 → exec (.replay c turn attempt cause) s = .next s) ∧
      (x.turn.tallied ≠ attempt + 1 → x.turn.causes.get 0 1 = 0 → exec (.replay c turn attempt cause) s = .next
        { s with ctxs := s.ctxs.put {} c { x with turn := { x.turn with
          tallied := attempt + 1, causes := x.turn.causes.put 0 1 1 } } })) ∧
    (x.st ≠ .closed → x.st ≠ .stopped → x.turn.phase ≠ 5 → x.turn.num = turn → x.turn.current = attempt → attempt ≠ 255 →
      x.turn.started = false ∨ x.turn.phase = 0 →
      (x.turn.started = false ∨ 1 < x.turn.phase ∨ x.turn.attempt ≠ attempt + 1 ∨ cause ≠ 1) →
      ∃ t, exec (.replay c turn attempt cause) s = .next t ∧
        t = { s with ctxs := t.ctxs, pad := t.pad, flash := t.flash, fns := t.fns, sched := t.sched, sent := t.sent } ∧
        t.ctx c = { x with turn := { x.turn with
          attempt := if x.turn.started then attempt + 1 else x.turn.attempt, next := attempt + 1, recover := true
          replays := wrapAdd 64 x.turn.replays 1 } } ∧
        (∀ d, d ≠ c → t.ctx d = s.ctx d) ∧ t.pad = (s.recorded 0x5006 2 (srcCtx c) x.job turn attempt (some c)).pad) ∧
    (x.turn.started = true → x.turn.phase ≠ 0 → x.turn.phase ≠ 5 → x.turn.num = turn → x.turn.attempt = attempt →
      x.turn.poison = false → x.st = .running →
      (cause ≠ 1 → attempt ≠ 255 → s.retiring = [] → pagesFor s c false = [] →
        ∃ t, exec (.replay c turn attempt cause) s = .next t ∧
          t = { s with ctxs := t.ctxs, tiles := t.tiles, arrivals := t.arrivals, requests := t.requests, resident := t.resident,
                       regions := t.regions, pad := t.pad, flash := t.flash, fns := t.fns, sched := t.sched, sent := t.sent } ∧
          t.ctx c = { x with turn := { x.turn with
            phase := 0, attempt := attempt + 1, next := attempt + 1, recover := true, replays := wrapAdd 64 x.turn.replays 1 } } ∧
          (∀ d, d ≠ c → t.ctx d = s.ctx d) ∧
          (∀ n ∈ ctxTiles x, (t.tile n).stopped = true ∧ (t.tile n).active = false ∧ (t.tile n).flights = []) ∧
          t.arrivals = s.arrivals.filter (fun p => !(ctxTiles x).contains p.1) ∧
          t.pad = (s.recorded 0x5006 2 (srcCtx c) x.job turn attempt (some c)).pad) ∧
      (cause = 1 → attempt ≠ 255 → x.turn.tallied ≠ attempt + 1 → x.turn.causes.get 0 1 = 1 →
        ∃ t, exec (.replay c turn attempt cause) s = .next t ∧ (t.ctx c).st = .stopped ∧ (t.ctx c).stopStatus = 0x10) ∧
      (attempt = 255 → ∃ t, exec (.replay c turn attempt cause) s = .next t ∧
        (t.ctx c).st = .stopped ∧ (t.ctx c).stopStatus = (causeStatus cause).1))) ∧
  (∀ (s : State) (c : Nat), exec (.vote c) s = .next
    (if mayVote s c then
      { s with ctxs := s.ctxs.put {} c { s.ctx c with turn := { (s.ctx c).turn with phase := 4 } } }.sending
        (.closing (.yes (keyOf (s.ctx c) c) (rankOf (s.ctx c)) (s.ctx c).turn.num (s.ctx c).turn.attempt
          ((Work.start s).nextSmall c)))
    else s)) ∧
  (∀ (s : State) (key turn c : Nat) (x : Ctx), x = s.ctx c →
    (contextsOf s key = [] → exec (.cancel false key turn) s = .next s) ∧
    (contextsOf s key = [c] →
      (turn < x.turn.num → exec (.cancel false key turn) s = .next s) ∧
      (x.turn.num ≤ turn → x.turn.ownCancels.contains turn = true → exec (.cancel false key turn) s = .next
        { s with ctxs := s.ctxs.put {} c { x with turn := { x.turn with
          ownCancels := x.turn.ownCancels.filter (fun k => k ≠ turn) } } }) ∧
      (x.turn.num ≤ turn → x.turn.ownCancels.contains turn = false →
        ((turnRuns s c)[turn - x.turn.num]? = none → exec (.cancel false key turn) s = .next
          { s with ctxs := s.ctxs.put {} c { x with turn := { x.turn with cancelled := x.turn.cancelled ++ [turn] } } }) ∧
        ∀ a, (turnRuns s c)[turn - x.turn.num]? = some a →
          (a.claimed = true → exec (.cancel false key turn) s = .next s) ∧
          (a.claimed = false → CanPost s a → ∃ t, exec (.cancel false key turn) s = .next t ∧ Posted s t a 0x03 0 0 0 s.now ∧
            (∀ d, d ≠ c → t.ctx d = s.ctx d) ∧
            t.ctx c = (if x.turn.num = turn ∧ x.st ≠ .running then
              { x with turn := { x.turn.rest with phase := if x.turn.phase = 5 then 5 else 0 } } else x))))) ∧
  ∀ (s : State) (key mode c : Nat) (x : Ctx), x = s.ctx c → decidesFor s key = false →
    (contextsOf s key = [] → exec (.turnStopAtBanker key mode) s = .next s) ∧
    (contextsOf s key = [c] →
      (mode ≠ 1 ∨ x.st ≠ .running →
        (x.st = .running → (∀ a ∈ turnRuns s c, a.claimed = true) → exec (.turnStopAtBanker key mode) s = .next s) ∧
        (x.st ≠ .running → (∀ a ∈ turnRuns s c, a.claimed = true) → exec (.turnStopAtBanker key mode) s = .next
          { s with ctxs := s.ctxs.put {} c { x with turn := { x.turn.rest with
            phase := if x.turn.phase = 5 then 5 else 0 } } }) ∧
        ∀ a, (turnRuns s c).filter (fun b => !b.claimed) = [a] → CanPost s a →
          ∃ t, exec (.turnStopAtBanker key mode) s = .next t ∧ Posted s t a 0x03 0 0 0 s.now ∧
            t.ctx c = (if x.st = .running then x else { x with turn := { x.turn.rest with
              phase := if x.turn.phase = 5 then 5 else 0 } }) ∧
            t.tiles = s.tiles ∧ t.mem = s.mem) ∧
      (mode = 1 → x.st = .running → ∀ a, turnRuns s c = [a] → CanPost s a → s.retiring = [] → pagesFor s c false = [] →
        (∀ b ∈ s.actives, b.ctx = c → ∀ d, b.wait ≠ .deferred d) →
        ∃ t, exec (.turnStopAtBanker key mode) s = .next t ∧
          Posted s t a 0x03 0 x.turn.num (turnParam x.turn.attempt 0 false) s.now ∧
          t.ctx c = { x with st := .opened, turn := { x.turn.rest with phase := 0 } } ∧
          (∀ d, d ≠ c → t.ctx d = s.ctx d) ∧
          (∀ n ∈ ctxTiles x, (t.tile n).active = false ∧ (t.tile n).flights = []) ∧
          t.arrivals = s.arrivals.filter (fun p => !(ctxTiles x).contains p.1) ∧ t.mem = s.mem ∧ t.pad = s.pad))

/-- The end of a Turn and what surrounds it (R56, R57, R265, R270, R276, R278, R285–R290, R308, R471, R472, R482): CT_RECORD is kept, or stops the
context; COMMIT advances TURN_NUM, opens the context, replies and takes the lane counters over, and flips the weight windows where the record
says UPDATE or ZERO; the mirror of the predecessor follows; a context takes free regions, or gives regions to the next that waits; a stall, once no move has issued for PROGRESS_MS
and no region of the context is waking, poisons the attempt and stops issue. (Tables, retirements and deferred effects at a COMMIT are left out.) -/
def Obligations.TurnsCommit : Prop :=
  (∀ (s : State) (c turn attempt : Nat) (x : Ctx), x = s.ctx c →
    (headRun s c = none ∨ x.running = none ∨ x.turn.started = false ∨ x.turn.phase ≠ 4 ∨ x.turn.num ≠ turn ∨ x.turn.attempt ≠ attempt →
      exec (.commit c turn attempt) s = .next s) ∧
    ∀ (a : Active) (b : Book), headRun s c = some a → x.running = some b → x.turn.started = true → x.turn.phase = 4 →
      x.turn.num = turn → x.turn.attempt = attempt → s.lanesNow.wf 0 = true →
      (∃ t, exec (.commit c turn attempt) s = .next t ∧ (t.ctx c).turn.num = wrapAdd 32 turn 1 ∧
        (∀ k, k < 192 → t.lanes.get 0 (c * 192 + k) = s.lanesNow.get 0 (c * 192 + k)) ∧
        (∀ k, k < c * 192 ∨ c * 192 + 192 ≤ k → t.lanes.get 0 k = s.lanes.get 0 k) ∧
        (∀ r, x.turn.record = some r → (t.ctx c).turn.lastAction = recAction r) ∧
        (t.ctx c).turn.slot = (match x.turn.record with
          | some r => xor x.turn.slot (((Work.start s).tensorHead b).isSome && (decide (recAction r = 0) || decide (recAction r = 2)))
          | none => x.turn.slot)) ∧
      ((∀ r, x.turn.record = some r → recAction r = 1) → (Work.start s).tables b = [] → s.retiring = [] → pagesFor s c true = [] →
        (∀ d ∈ s.actives, d.ctx = c → ∀ e, d.wait ≠ .deferred e) → CanPost s a →
        ∃ t, exec (.commit c turn attempt) s = .next t ∧
          Posted s t a (if x.turn.record = none then 0x01 else 0x02) (if x.turn.record = none then 0 else 1) turn
            (turnParam attempt (if x.turn.record = none then 0 else 1) (decide (x.turn.record = none))) s.now ∧
          (t.ctx c).st = .opened ∧
          (t.ctx c).turn = { x.turn with
            num := wrapAdd 32 turn 1, phase := 0, started := false, ran := false, next := 0, after := 0, tallied := 0
            recover := false, left := [], lastAction := if x.turn.record = none then 0 else 1
            noClose := decide (x.turn.record = none), keepForce := x.keepAll
            buddyEpoch := if x.turn.buddyEpoch = some (wrapAdd 32 turn 1) then x.turn.buddyEpoch else none
            sinceSwitch := x.turn.sinceSwitch + 1 } ∧
          (∀ d, d ≠ c → t.ctx d = s.ctx d) ∧ (∀ n ∈ ctxTiles x, (t.tile n).active = false) ∧ t.mem = s.mem ∧ t.jobs = s.jobs)) ∧
  (∀ (s : State) (c turn attempt : Nat) (bytes : List Byte) (x : Ctx), x = s.ctx c →
    (x.running = none ∨ x.turn.live = false ∨ x.turn.num ≠ turn ∨ x.turn.attempt ≠ attempt ∨ x.turn.closed = false ∨
      x.turn.recordHere = true ∨ x.turn.poison = true → ∀ u, exec (.ctRecord c turn attempt bytes u) s = .next s) ∧
    ∀ (b : Book) (r : List Byte), x.running = some b → x.turn.live = true → x.turn.num = turn → x.turn.attempt = attempt →
      x.turn.closed = true → x.turn.recordHere = false → x.turn.poison = false → r = ownRecord ((Work.start s).tensorReader b) bytes →
      (∀ n ∈ ctxTiles x, ∀ f ∈ (s.tile n).flights, f.out ≠ 3) →
      ((Work.start s).tensorHead b = none → recAction r ≠ 3 → exec (.ctRecord c turn attempt bytes []) s = .next
        { s with
          ctxs := s.ctxs.put {} c { x with turn := { x.turn with record := some r, recordHere := true, phase := 3 } }
          arrivals := s.arrivals ++ (match x.turn.closeSig with
            | none => []
            | some k => (setBits 12 ((Work.start s).regionMask b)).map (fun q => (pkgTile x (11 * q), k))) }) ∧
      (recAction r = 3 → (Work.start s).tensorHead b = none → x.st = .running →
        ∃ t, exec (.ctRecord c turn attempt bytes []) s = .next t ∧ (t.ctx c).st = .stopped ∧ (t.ctx c).stopStatus = 0x02 ∧
          (t.ctx c).reason = 3) ∧
      ∀ h y, (Work.start s).tensorHead b = some h → recAction r ≠ 3 → 1 ≤ r.length → h.ctAddr % 4096 + r.length ≤ 4096 → s.memOk = true →
        (Work.start s).translate c h.ctAddr r.length true none = .ok y → ownSlot s y = true → inOneWindow (pkgAddr y) r.length = true →
        ∃ t, exec (.ctRecord c turn attempt bytes []) s = .next t ∧
          (t.ctx c).turn = { x.turn with record := some r, recordHere := true, phase := 3 } ∧
          (∀ i, i < r.length → t.byteAt (pkgAddr y + i) = r.getD i 0) ∧
          ∀ z, (∀ i, i < r.length → normAddr (pkgAddr y + i) ≠ normAddr z) → t.byteAt z = s.byteAt z) ∧
  (∀ (s : State) (c epoch : Nat) (small : Option Small) (x : Ctx), x = s.ctx c →
    (x.st = .closed → exec (.mirrorApplyDone c false epoch small []) s = .next s) ∧
    (x.st ≠ .closed → (∀ n ∈ ctxTiles x, ∀ f ∈ (s.tile n).flights, f.out ≠ 3) →
      exec (.mirrorApplyDone c false epoch small []) s = .next
        { s with ctxs := s.ctxs.put {} c { x with turn := { x.turn with buddyEpoch := some epoch } } }) ∧
    (x.mirror.valid = false ∨ x.mirror.todo = [] ∨ x.mirror.copyOf small = none ∨ x.running = none →
      exec (.mirrorApplyDone c true epoch small []) s = .next s) ∧
    ∀ (turn : Nat) (r : List Byte) (rest : List (Nat × List Byte)) (m : MirrorCopy) (b : Book), x.mirror.valid = true →
      x.mirror.todo = (turn, r) :: rest → x.mirror.copyOf small = some m → x.running = some b → r = [] ∨ recAction r = 1 → m.tables = [] →
      ∃ t, exec (.mirrorApplyDone c true epoch small []) s = .next t ∧
        t = { s with ctxs := t.ctxs, sent := s.sent ++ [.closing (.mirrorAt (keyOf x c) m.rank (wrapAdd 32 turn 1))] } ∧
        t.ctx c = { x with mirror := { x.mirror with
          todo := rest, epoch := wrapAdd 32 turn 1, held := x.mirror.keep { m with small := small.getD m.small } } } ∧
        ∀ d, d ≠ c → t.ctx d = s.ctx d) ∧
  (∀ (s : State) (c : Nat) (x : Ctx), x = s.ctx c →
    (∀ image incoming, x.st = .closed → exec (.mirrorCopyDone c image incoming) s = .next s) ∧
    (x.st ≠ .closed →
      (∀ image m, exec (.mirrorCopyDone c image (some m)) s = .next
        ({ s with ctxs := s.ctxs.put {} c { x with mirror :=
          { valid := true, epoch := m.small.turn, held := x.mirror.keep m, wanted := false
            todo := x.mirror.todo.filter (fun t => decide (m.small.turn ≤ t.1)) } } }.sending
          (.closing (.mirrorAt (keyOf x c) m.rank m.small.turn)))) ∧
      (x.turn.awaitCopy = false ∨ (∃ q ∈ s.requests, q.owner = .mirror c) → ∀ image, exec (.mirrorCopyDone c image none) s = .next s) ∧
      (x.turn.awaitCopy = true → (∀ q ∈ s.requests, q.owner ≠ .mirror c) → ∀ a bs, inHbm a = true → inOneWindow a bs.length = true →
        s.memOk = true → ∃ t, exec (.mirrorCopyDone c [(a, bs)] none) s = .next t ∧
          t = { s with ctxs := t.ctxs, mem := t.mem, poison := t.poison, hbm := t.hbm, pkgBytes := t.pkgBytes, phys := t.phys } ∧
          t.ctx c = { x with turn := { x.turn with awaitCopy := false, buddyEpoch := some x.turn.num } } ∧
          (∀ d, d ≠ c → t.ctx d = s.ctx d) ∧
          (∀ i, i < bs.length → t.byteAt (a + i) = bs.getD i 0) ∧
          ∀ z, (∀ i, i < bs.length → normAddr (a + i) ≠ normAddr z) → t.byteAt z = s.byteAt z))) ∧
  (∀ (s : State) (c : Nat) (x : Ctx), x = s.ctx c →
    (waitsForRegions s c = true → (∃ r ∈ setBits 12 x.mask, (s.region r).holder = none) →
      ∃ t, exec (.contextSwitch c []) s = .next t ∧
        (∀ r ∈ setBits 12 x.mask, (s.region r).holder = none → t.region r = { s.region r with holder := some c }) ∧
        (∀ r, (r ∈ setBits 12 x.mask → (s.region r).holder ≠ none) → t.region r = s.region r) ∧
        t.ctx c = { x with turn := { x.turn with sinceSwitch := 0 } } ∧ (∀ d, d ≠ c → t.ctx d = s.ctx d) ∧ t.jobs = s.jobs) ∧
    (waitsForRegions s c = false ∨ (∀ r ∈ setBits 12 x.mask, (s.region r).holder ≠ none) →
      mayYield s c = false ∨ nextWaiting s c = none → ∀ u, exec (.contextSwitch c u) s = .next s) ∧
    (waitsForRegions s c = false ∨ (∀ r ∈ setBits 12 x.mask, (s.region r).holder ≠ none) → mayYield s c = true → ∀ d, nextWaiting s c = some d → d ≠ c →
      ∃ t, exec (.contextSwitch c []) s = .next t ∧
        (∀ r ∈ contested s c d, t.region r = { s.region r with holder := some d }) ∧
        (∀ r, r ∉ contested s c d → t.region r = s.region r) ∧
        (∀ r ∈ contested s c d, ∀ k, k < 11 → (t.tile (11 * r + k)).skel = {} ∧ (t.tile (11 * r + k)).traceq = (s.tile (11 * r + k)).traceq) ∧
        t.ctx c = { x with turn := { x.turn with sinceSwitch := 0 } } ∧
        t.ctx d = { s.ctx d with turn := { (s.ctx d).turn with sinceSwitch := 0 } } ∧
        ∀ e, e ≠ c → e ≠ d → t.ctx e = s.ctx e)) ∧
  ∀ (s : State) (c : Nat) (x : Ctx), x = s.ctx c →
    (x.turn.live = false ∨ waking s x = true ∨ x.turn.quietNs < (Work.start s).progressNs c ∨
      (∀ n ∈ ctxTiles x, (s.tile n).active = false ∨ (s.tile n).ended = true) → exec (.tallyStall c) s = .next s) ∧
    (x.turn.live = true → waking s x = false → (Work.start s).progressNs c ≤ x.turn.quietNs → ∀ n, n ∈ ctxTiles x → (s.tile n).active = true → (s.tile n).ended = false →
      (∀ k ∈ ctxTiles x, k < n → (s.tile k).active = false ∨ (s.tile k).ended = true) →
      ∃ t, exec (.tallyStall c) s = .next t ∧
        t = { s with ctxs := t.ctxs, tiles := t.tiles, phys := t.phys, pad := t.pad, flash := t.flash, fns := t.fns, sent := t.sent } ∧
        (t.ctx c).turn = (if x.turn.poison then x.turn else { x.turn with poison := true, cause := 1 }) ∧
        (x.turn.poison = false → .closing (.poison (keyOf x c) (rankOf x) x.turn.num x.turn.attempt 1) ∈ t.sent) ∧
        (∀ k ∈ ctxTiles x, t.tile k = { s.tile k with stopped := true }) ∧ (∀ k, k ∉ ctxTiles x → t.tile k = s.tile k) ∧
        (t.ph (hostMesh s n)).fault % 4 = 3)

/-! ### Numbers and sums (R75–R83, R111–R126) -/

/-- What an element's code stands for, before its scale: E4M3 (R77), E5M2 (R78), F4B (R79), INT8 and I4B (R81). -/
def Obligations.FormatsDecode : Prop :=
  (∀ code : Nat, code < 256 → ∀ (s : Bool) (e m : Nat), s = bit code 7 → e = code / 8 % 16 → m = code % 8 →
    decodeElem 2 code = (if code % 128 = 0x7F then .nan else if e = 0 then .num s m (-9) else .num s (8 + m) ((e : Int) - 10))) ∧
  (∀ code : Nat, code < 256 → ∀ (s : Bool) (e m : Nat), s = bit code 7 → e = code / 4 % 32 → m = code % 4 →
    decodeElem 3 code = (if code % 128 = 0x7C then .inf s else if 0x7C < code % 128 then .nan
      else if e = 0 then .num s m (-16) else .num s (4 + m) ((e : Int) - 17))) ∧
  (∀ code : Nat, code < 16 → ∃ (m : Nat) (e : Int), decodeElem 5 code = .num (decide (8 ≤ code)) m e ∧
    (Dy.sub { m := m, e := e } { m := [0, 1, 2, 3, 4, 6, 8, 12].getD (code % 8) 0, e := -1 }).m = 0) ∧
  (∀ code : Nat, code < 256 → decodeElem 4 code = intVal (if code < 128 then (code : Int) else (code : Int) - 256)) ∧
  ∀ code : Nat, code < 16 → decodeElem 6 code = intVal (if code < 8 then (code : Int) else (code : Int) - 16)

/-- How an accumulator takes its segments: which products and segments are not finite and what they make of it (R123), that saturation is
counted once, keeps its sign and is sticky (R124), the output value (R125) of the finite S and E that the array holds, which are never -0
(R122), and pure-integer sums, which are exact until they leave 32
bits and then stay at the bound of their sign (R126). -/
def Obligations.AccumulatorsFoldSegments : Prop :=
  (∀ x y : Val, (x.mul y = .nan ↔ x = .nan ∨ y = .nan ∨ ((∃ a, x = .inf a) ∧ y.isZero = true) ∨ (x.isZero = true ∧ ∃ b, y = .inf b))) ∧
  (∀ (a b : Bool) (m : Nat) (e : Int), m ≠ 0 → (Val.inf a).mul (.inf b) = .inf (a != b) ∧
    (Val.inf a).mul (.num b m e) = .inf (a != b) ∧ (Val.num b m e).mul (.inf a) = .inf (a != b)) ∧
  (∀ (wide : Bool) (ps : List Val), (segment wide ps = .nan ↔ .nan ∈ ps ∨ (.inf true ∈ ps ∧ .inf false ∈ ps)) ∧
    ∀ σ, segment wide ps = .inf σ ↔ .nan ∉ ps ∧ .inf σ ∈ ps ∧ .inf (!σ) ∉ ps) ∧
  (∀ a : Acc, (a.take .nan).1.st = 1 ∧ ∀ σ, (a.take (.inf σ)).2 = false ∧
    (a.st = 0 ∨ a.st = 3 ∨ (a.st = 2 ∧ a.neg = σ) → (a.take (.inf σ)).1.st = 2 ∧ (a.take (.inf σ)).1.neg = σ) ∧
    (a.st = 1 ∨ (a.st = 2 ∧ a.neg ≠ σ) → (a.take (.inf σ)).1.st = 1)) ∧
  (∀ (a : Acc) (x : Dy), (a.st = 3 → a.fold x = (a, false)) ∧ ((a.fold x).2 = true ↔ a.st ≠ 3 ∧ (a.fold x).1.st = 3) ∧
    (a.st = 0 → (a.fold x).1.st = 0 ∨ (a.fold x).1.st = 3) ∧
    (a.st = 0 → x.rne.over = true → (a.fold x).1.st = 3 ∧ (a.fold x).1.neg = decide (x.m < 0)) ∧
    (a.st = 0 → x.rne.over = false → (((fp32Dy a.s).add x.rne).rne).over = true →
      (a.fold x).1.st = 3 ∧ (a.fold x).1.neg = decide (((fp32Dy a.s).add x.rne).m < 0))) ∧
  (∀ a : Acc, (a.st = 1 → a.out = (0x7FC00000, false)) ∧ (a.st = 2 → a.out = (0x7F800000 + b2n a.neg * 2 ^ 31, false)) ∧
    (a.st = 3 → a.out = (0x7F7FFFFF + b2n a.neg * 2 ^ 31, false)) ∧
    ∀ t, t = (fp32Dy a.s).add (fp32Dy a.e) → a.st = 0 → a.s < 2 ^ 32 → a.e < 2 ^ 32 → a.s / 2 ^ 23 % 256 ≠ 255 → a.e / 2 ^ 23 % 256 ≠ 255 →
      a.s ≠ 2 ^ 31 →
      a.out = if t.rne.over then (0x7F7FFFFF + b2n (decide (t.m < 0)) * 2 ^ 31, true) else (t.rne.code, false)) ∧
  (∀ x : Mma, x.pure = true → x.segments.length = (16 * x.k16 + 31) / 32 ∧
    ∀ i, i < (16 * x.k16 + 31) / 32 → x.segments[i]? = some (32 * i, Nat.min 32 (16 * x.k16 - 32 * i))) ∧
  (∀ (x : Mma) (old : Nat → Nat → Acc) (a b : List (List Int)) (i j : Nat), x.pure = true → i < a.length → j < b.length →
    ((mmaFold x old (a.map (·.map intVal)) (b.map (·.map intVal))).1.getD i []).getD j {} =
      (x.segments.map (fun g => (List.zipWith (· * ·) (((a.getD i []).drop g.1).take g.2) (((b.getD j []).drop g.1).take g.2)).sum)).foldl
        (fun y t => (y.addInt t).1) (old i j)) ∧
  ∀ (a : Acc) (ts : List Int) (r : Acc × Nat), a.st ≠ 3 →
    r = ts.foldl (fun p t => ((p.1.addInt t).1, p.2 + b2n (p.1.addInt t).2)) (a, 0) →
    ((∀ n, n ≤ ts.length → -2 ^ 31 ≤ a.i + (ts.take n).sum ∧ a.i + (ts.take n).sum ≤ 2 ^ 31 - 1) →
      r.1.i = a.i + ts.sum ∧ r.1.st = a.st ∧ r.2 = 0) ∧
    ∀ n, n < ts.length → (∀ j, j ≤ n → -2 ^ 31 ≤ a.i + (ts.take j).sum ∧ a.i + (ts.take j).sum ≤ 2 ^ 31 - 1) →
      (a.i + (ts.take (n + 1)).sum < -2 ^ 31 → r.1.i = -2 ^ 31 ∧ r.1.st = 3 ∧ r.2 = 1) ∧
      (2 ^ 31 - 1 < a.i + (ts.take (n + 1)).sum → r.1.i = 2 ^ 31 - 1 ∧ r.1.st = 3 ∧ r.2 = 1)

/-! ### Moves (R42–R71, R111–R320) -/

/-- Issue of the unit moves (R44, R45, R50, R51, R55, R57, R393). A head that is not ready, not of the command's kind, or behind its partner in
doubles, does not issue, and nothing changes. One that issues and whose effect breaks no rule of its class leads to a next state: its
waits are consumed and its stream has moved on, its flight is noted with the arrivals it owes (none flies where the class ends at issue),
memory and everything else are as its effect leaves them, and no other tile's stream changes. One whose effect breaks a rule stops
as UNPREDICTABLE, and so does a SLOT in a reduction group on a class that may not contribute; one whose descriptor and operands are as the
rules of its class ask breaks none and completes its issue. A tally used twice is a tally fault that leaves the head where it is. -/
def Obligations.UnitMovesIssue : Prop :=
  ∀ (s : State) (i : Instr) (f : MoveForm), moveForm s i = some f →
    ((∀ m, headOf s f.tile = some m → f.kind m = true → headReady s f.ctx f.tile = true → yieldsTo s f.ctx f.tile = true) →
      exec i s = .next s) ∧
    (∀ m, headOf s f.tile = some m → headReady s f.ctx f.tile = true → f.kind m = true → yieldsTo s f.ctx f.tile = false →
      (mayContribute m = false → (Work.start s).slotGroup f.ctx (mvSlot m) ≠ none → exec i s = .fault (.unpredictable 393)) ∧
      (mayContribute m = true ∨ (Work.start s).slotGroup f.ctx (mvSlot m) = none → doubleUse m = true →
        ∃ t, exec i s = .next t ∧
          t = { s with ctxs := t.ctxs, tiles := t.tiles, phys := t.phys, pad := t.pad, flash := t.flash, fns := t.fns, sent := t.sent } ∧
          (∀ k, (t.tile k).skel = (s.tile k).skel) ∧ (∀ k ∈ ctxTiles (s.ctx f.ctx), (t.tile k).stopped = true) ∧
          (t.ctx f.ctx).turn.poison = true ∧ (t.ph (hostMesh s f.tile)).fault % 4 = 2)) ∧
    (∀ m, Issues s f.ctx f.tile m f.kind → lawful s (moverOf s f.ctx f.tile m) m f.upsets = true → ∃ t, exec i s = .next t) ∧
    ∀ (m : Nat) (e : Effect) (w : Work), Issues s f.ctx f.tile m f.kind →
      f.effect (moverOf s f.ctx f.tile m) m ((Work.start s).fire f.ctx f.tile m) = (e, w) →
      (∀ x, commit s w = .fault x → exec i s = .fault x) ∧
      ∀ r, commit s w = .next r → (∃ t, exec i s = .next t) ∧
        (f.upsets = [] → ∃ t, exec i s = .next t ∧
          Issued r t f.tile
            { r.tile f.tile with
              flights := (r.tile f.tile).flights ++ (if e.done then [] else (flightOf s r f.tile m e).parts e) }
            (if e.done then arrivalsOf f.tile m e else []) ∧
          t.mem = r.mem)

/-- The sequencer's own moves and the row cache moves (R46–R51, R54, R55, R63, R65, R66, R155, R172, R531, R532), with `q` the tile once the move's
waits are consumed: SEQ_NOP only goes on; SEQ_END ends the stream; SEQ_LOOP takes its trip count at issue and skips an empty loop; SEQ_TRIP reads a
near-store word; SEQ_TALLY adds or takes, and an overflow or underflow is a tally fault; SEQ_SIGNAL sends one arrival; SEQ_POWER requests a state no
deeper than the context's deepest; SEQ_WINDOW opens a window; ST_RC clears the counts of the physical tile's row cache or ghosts it. A window ends when its time
has passed. An operand that R46 does not allow stops as UNPREDICTABLE. -/
def Obligations.SequencerMovesAct : Prop :=
  ∀ (s : State) (c n m : Nat) (q : Tile) (x : Ctx), q = consumeWaits (s.tile n) m → x = s.ctx c →
    (Issues s c n m (ofClass 0x00) → ∃ t, exec (.seqNop c n) s = .next t ∧ Issued s t n q (arrivalsOf n m {})) ∧
    (Issues s c n m (ofClass 0x01) → ∃ t, exec (.seqEnd c n) s = .next t ∧ Issued s t n { q with ended := true } (arrivalsOf n m {})) ∧
    (Issues s c n m (ofClass 0x02) → ∀ trips, trips = (if bit m 94 then (s.tile n).trips.get 0 (bits m 97 95) else bits m 110 95) →
      ∃ t, exec (.seqLoop c n) s = .next t ∧
        Issued s t n
          (if trips = 0 then { q with pos := q.pos + bits m 93 82 }
           else { q with loops := { start := q.pos + 1, len := bits m 93 82, left := trips - 1, iter := 0 } :: q.loops })
          (arrivalsOf n m {})) ∧
    (Issues s c n m (ofClass 0x03) → n < 132 →
      (tileAddrOk (4 * bits m 105 85) 4 = false → exec (.seqTrip c n []) s = .fault (.unpredictable 144)) ∧
      (tileAddrOk (4 * bits m 105 85) 4 = true → (Work.start s).rdPoison (tileAddr n (4 * bits m 105 85)) 4 = false →
        ∃ t, exec (.seqTrip c n []) s = .next t ∧
          Issued s t n
            { q with
              trips := q.trips.put 0 (bits m 84 82) (lowBits 16 ((Work.start s).tLe n (4 * bits m 105 85) 4))
              flights := q.flights ++ [flightOf s s n m {}] } [])) ∧
    (Issues s c n m (ofClass 0x04) → ∀ k v d, k = bits m 89 82 → d = bits m 106 91 → v = q.tallies.get 0 k →
      (bit m 90 = true → d ≤ v → ∃ t, exec (.seqTally c n) s = .next t ∧
        Issued s t n { q with tallies := q.tallies.put 0 k (v - d) } (arrivalsOf n m {})) ∧
      (bit m 90 = false → v + d ≤ 0xFFFF → ∃ t, exec (.seqTally c n) s = .next t ∧
        Issued s t n { q with tallies := q.tallies.put 0 k (v + d) } (arrivalsOf n m {})) ∧
      ((bit m 90 = true ∧ v < d) ∨ (bit m 90 = false ∧ 0xFFFF < v + d) → ∃ t, exec (.seqTally c n) s = .next t ∧
        Issued s t n q (arrivalsOf n m {}) ∧ (t.ctx c).turn.poison = true ∧ (∀ k ∈ ctxTiles x, (t.tile k).stopped = true))) ∧
    (Issues s c n m (ofClass 0x05) →
      (mvSigEn m = false ∨ 11 * regionCount x ≤ bits m 89 82 → exec (.seqSignal c n) s = .fault (.unpredictable 46)) ∧
      (mvSigEn m = true → bits m 89 82 < 11 * regionCount x → ∃ t, exec (.seqSignal c n) s = .next t ∧
        Issued s t n q [(pkgTile x (bits m 89 82), mvSignal m)])) ∧
    (Issues s c n m (ofClass 0x06) →
      (regionCount x ≤ bits m 85 82 → exec (.seqPower c n) s = .fault (.unpredictable 46)) ∧
      ∀ (r : Nat) (g : Region) (p : Pwr), bits m 85 82 < regionCount x → r = ctxRegion x (bits m 85 82) → g = s.region r →
        p = Pwr.ofNum (Nat.min (bits m 87 86) x.deepest.num) → g.want = none → g.entering = none → g.waking = none → g.wakeNext = none →
        (p = .run → g.pwr = .run → ∃ t, exec (.seqPower c n) s = .next t ∧ Issued s t n q (arrivalsOf n m {})) ∧
        (p = .run → g.pwr ≠ .run → ∃ t, exec (.seqPower c n) s = .next t ∧
          Issued { s with regions := s.regions.put {} r { g with
            wakes := satAdd 32 g.wakes 1, ramp := bits m 95 88, waking := some .run, lead := wakeNs g.pwr .run } } t n q
            (arrivalsOf n m {})) ∧
        (p ≠ .run → g.pwr = .run → regionBusy s r = true → ∃ t, exec (.seqPower c n) s = .next t ∧
          Issued { s with regions := s.regions.put {} r { g with want := some p } } t n q (arrivalsOf n m {})) ∧
        (p ≠ .run → g.pwr = p → ∃ t, exec (.seqPower c n) s = .next t ∧ Issued s t n q (arrivalsOf n m {})) ∧
        (p ≠ .run → g.pwr.num < p.num → g.pwr ≠ .run → ∃ t, exec (.seqPower c n) s = .next t ∧
          Issued { s with regions := s.regions.put {} r { g with entering := some p } } t n q (arrivalsOf n m {})) ∧
        (p ≠ .run → p.num < g.pwr.num → ∃ t, exec (.seqPower c n) s = .next t ∧
          Issued { s with regions := s.regions.put {} r { g with
            wakes := satAdd 32 g.wakes 1, waking := some p, lead := wakeNs g.pwr p } } t n q (arrivalsOf n m {})) ∧
        (p ≠ .run → g.pwr = .run → regionBusy s r = false → ∃ t, exec (.seqPower c n) s = .next t ∧
          (∀ k, k ≠ r → t.region k = s.region k) ∧ t.region r = { g with entering := some p } ∧
          (t.tile n).skel = q.advance.skel ∧ t.mem = s.mem)) ∧
    (Issues s c n m (ofClass 0x07) →
      (bits m 102 83 = 0 → exec (.seqWindow c n) s = .fault (.unpredictable 46)) ∧
      (bits m 102 83 ≠ 0 → ∃ t v, exec (.seqWindow c n) s = .next t ∧
        Issued { s with windows := s.windows ++ [v] } t n q (arrivalsOf n m {}) ∧ v.start = s.now ∧ v.stop = s.now + bits m 102 83 ∧
        v.ran = [] ∧
        (bit m 82 = true → ctxTile x n = 0 → v.region = none ∧ v.kinds = bits m 106 103) ∧
        (bit m 82 = false ∨ ctxTile x n ≠ 0 → v.region = some (n / 11) ∧ v.kinds = bits m 106 103 % 8))) ∧
    (Issues s c n m (fun m => ofClass 0x1D m && !bit m 82) → ∃ t, exec (.stRcClear c n) s = .next t ∧ Issued s t n q (arrivalsOf n m {}) ∧
      (t.ph (hostMesh s n)).rc =
        (s.ph (hostMesh s n)).rc.map (fun p => (p.1, { p.2 with ways := p.2.ways.map (fun y => { y with count := 0 }) }))) ∧
    (Issues s c n m (fun m => ofClass 0x1D m && bit m 82) → ∃ t, exec (.stRcGhost c n) s = .next t ∧ Issued s t n q (arrivalsOf n m {}) ∧
      (t.ph (hostMesh s n)).rc =
        (s.ph (hostMesh s n)).rc.map (fun p => (p.1, { p.2 with ways := p.2.ways.map (fun y => { y with svalid := 0 }) }))) ∧
    ∀ region, exec (.windowEnd region) s = .next
      { s with windows := s.windows.filter (fun v => !(decide (v.region = region) && decide (v.stop ≤ s.now))) }

/-- What the store moves store (R144, R155–R162), with `q` the tile once the move's waits are consumed and `d` its descriptor, whose ranges R156 gives: ST_FILL
repeats its pattern in every row; ST_COPY and ST_SEND put each source row in the destination row, in the same tile or in the target; ST_LOAD
and ST_SAVE carry a row from and to context memory; a ST_LOAD with ONCE whose bit is set loads nothing. No other byte of memory changes. Rows
outside the stores, rows of ST_COPY that meet, and a target the role does not have are UNPREDICTABLE. (Transposes, reduction slots,
and rows of a load or save beyond the first are left out.) -/
def Obligations.StoreMovesMoveRows : Prop :=
  ∀ (s : State) (c n m src dst : Nat) (q : Tile) (x : Ctx) (d : StoreDesc), q = consumeWaits (s.tile n) m → x = s.ctx c → n < 132 →
    d = (Work.start s).storeDesc n (mvDesc m) → src = tileField d.src → dst = tileField d.dst → s.memOk = true →
    (nearOk (mvDesc m) 32 = false ∨ (nearOk (mvDesc m) 32 = true ∧ d.ok = false) → ∀ rule,
      rule = (if nearOk (mvDesc m) 32 then 156 else 144) →
      (Issues s c n m (ofClass 0x18) → exec (.stCopy c n []) s = .fault (.unpredictable rule)) ∧
      (Issues s c n m (ofClass 0x19) → exec (.stLoad c n []) s = .fault (.unpredictable rule)) ∧
      (Issues s c n m (ofClass 0x1A) → exec (.stSave c n []) s = .fault (.unpredictable rule)) ∧
      (Issues s c n m (ofClass 0x1B) → exec (.stFill c n []) s = .fault (.unpredictable rule)) ∧
      (Issues s c n m (ofClass 0x1C) → exec (.stSend c n []) s = .fault (.unpredictable rule))) ∧
    (nearOk (mvDesc m) 32 = true → d.ok = true →
      (Issues s c n m (ofClass 0x1B) →
        (tileRowsOk dst d.dstPitch d.rows d.bytes = false → exec (.stFill c n []) s = .fault (.unpredictable 144)) ∧
        (tileRowsOk dst d.dstPitch d.rows d.bytes = true → ∃ t, exec (.stFill c n []) s = .next t ∧
          Issued { s with mem := t.mem, poison := t.poison } t n { q with flights := q.flights ++ [flightOf s s n m {}] } [] ∧
          (∀ r i, r < d.rows → i < d.bytes →
            t.byteAt (tileAddr n (dst + r * d.dstPitch + i)) = (leBytes 4 (lowBits 32 d.src)).getD (i % 4) 0) ∧
          ∀ a, (∀ r i, r < d.rows → i < d.bytes → tileAddr n (dst + r * d.dstPitch + i) ≠ normAddr a) → t.byteAt a = s.byteAt a)) ∧
      (Issues s c n m (ofClass 0x18) → bit m 99 = false → (Work.start s).slotGroup c (mvSlot m) = none →
        (tileRowsOk src d.srcPitch d.rows d.bytes = false → exec (.stCopy c n []) s = .fault (.unpredictable 144)) ∧
        (tileRowsOk src d.srcPitch d.rows d.bytes = true → rowsApart src d.srcPitch d.bytes dst d.dstPitch d.bytes d.rows d.rows = false →
          exec (.stCopy c n []) s = .fault (.unpredictable 157)) ∧
        (tileRowsOk src d.srcPitch d.rows d.bytes = true → rowsApart src d.srcPitch d.bytes dst d.dstPitch d.bytes d.rows d.rows = true →
          tileRowsOk dst d.dstPitch d.rows d.bytes = true → d.bytes ≤ d.dstPitch ∨ d.rows = 1 → ∃ t, exec (.stCopy c n []) s = .next t ∧
          Issued { s with mem := t.mem, poison := t.poison } t n { q with flights := q.flights ++ [flightOf s s n m { tiles := [n] }] } [] ∧
          (∀ r i, r < d.rows → i < d.bytes →
            t.byteAt (tileAddr n (dst + r * d.dstPitch + i)) = s.byteAt (tileAddr n (src + r * d.srcPitch + i))) ∧
          ∀ a, (∀ r i, r < d.rows → i < d.bytes → tileAddr n (dst + r * d.dstPitch + i) ≠ normAddr a) → t.byteAt a = s.byteAt a)) ∧
      (Issues s c n m (ofClass 0x1C) →
        (11 * regionCount x ≤ bits m 106 99 → exec (.stSend c n []) s = .fault (.unpredictable 155)) ∧
        (bits m 106 99 < 11 * regionCount x →
          (tileRowsOk src d.srcPitch d.rows d.bytes = false ∨ tileRowsOk dst d.dstPitch d.rows d.bytes = false →
            exec (.stSend c n []) s = .fault (.unpredictable 144)) ∧
          (tileRowsOk src d.srcPitch d.rows d.bytes = true → tileRowsOk dst d.dstPitch d.rows d.bytes = true →
            d.bytes ≤ d.dstPitch ∨ d.rows = 1 → ∀ k, k = pkgTile x (bits m 106 99) → ∃ t, exec (.stSend c n []) s = .next t ∧
            Issued { s with mem := t.mem, poison := t.poison } t n { q with flights := q.flights ++ [flightOf s s n m { tiles := [k] }] } [] ∧
            (∀ r i, r < d.rows → i < d.bytes →
              t.byteAt (tileAddr k (dst + r * d.dstPitch + i)) = s.byteAt (tileAddr n (src + r * d.srcPitch + i))) ∧
            ∀ a, (∀ r i, r < d.rows → i < d.bytes → tileAddr k (dst + r * d.dstPitch + i) ≠ normAddr a) → t.byteAt a = s.byteAt a))) ∧
      (Issues s c n m (ofClass 0x19) → bit m 105 = true → bit (s.tile n).once (bits m 104 99) = true →
        ∃ t, exec (.stLoad c n []) s = .next t ∧
          Issued s t n { q with flights := q.flights ++ [flightOf s s n m { tiles := [n] }] } []) ∧
      (Issues s c n m (ofClass 0x19) → bit m 105 = false → (Work.start s).slotGroup c (mvSlot m) = none → d.rows = 1 →
        d.src % 4096 + d.bytes ≤ 4096 → tileRowsOk dst d.dstPitch 1 d.bytes = true → ∀ y,
        (Work.start s).translate c d.src d.bytes false none = .ok y → ownSlot s y = true →
        ∃ t, exec (.stLoad c n []) s = .next t ∧
          Issued { s with mem := t.mem, poison := t.poison, hbm := t.hbm, pkgBytes := t.pkgBytes } t n
            { q with flights := q.flights ++ [flightOf s t n m { tiles := [n], hbm := true }] } [] ∧
          (∀ i, i < d.bytes → t.byteAt (tileAddr n (dst + i)) = s.byteAt (pkgAddr y + i)) ∧
          ∀ a, (∀ i, i < d.bytes → tileAddr n (dst + i) ≠ normAddr a) → t.byteAt a = s.byteAt a) ∧
      (Issues s c n m (ofClass 0x1A) →
        (tileRowsOk src d.srcPitch d.rows d.bytes = false → exec (.stSave c n []) s = .fault (.unpredictable 144)) ∧
        (tileRowsOk src d.srcPitch 1 d.bytes = true → d.rows = 1 → d.dst % 4096 + d.bytes ≤ 4096 → ∀ y,
          (Work.start s).translate c d.dst d.bytes true none = .ok y → ownSlot s y = true → inOneWindow (pkgAddr y) d.bytes = true →
          ∃ t, exec (.stSave c n []) s = .next t ∧
            Issued { s with mem := t.mem, poison := t.poison, hbm := t.hbm, pkgBytes := t.pkgBytes } t n
              { q with flights := q.flights ++ [flightOf s t n m { hbm := true }] } [] ∧
            (∀ i, i < d.bytes → t.byteAt (pkgAddr y + i) = s.byteAt (tileAddr n (src + i))) ∧
            ∀ a, (∀ i, i < d.bytes → normAddr (pkgAddr y + i) ≠ normAddr a) → t.byteAt a = s.byteAt a)))

/-- What goes on beside issue (R43, R49, R51–R54, R61, R65, R69, R129, R162, R189, R200–R206, R232, R526–R528): a fetched move is buffered; the drain
buffer passes to the next output; a move completes in its unit's order, once its output, packets, record, blocks and stacks no longer hold it
(R45, R129, R233, R281, R318, R357), and its arrivals are due; an arrival is counted, and a count above the
head's expectation, or past 65,535, is a tally fault; a steal is offered, asked for and granted, and a stolen move's arrivals go home; a helping
gather stream ends its chunk, and an idle one takes the last chunk of the busiest; a doubled page comes in and the one it displaces goes to the reserve; a
predicted unit is resident; trace entries leave the queue for
the context's buffer. -/
def Obligations.MovesCompleteAndSteal : Prop :=
  (∀ (s : State) (c n k : Nat) (x : Ctx), x = s.ctx c →
    (x.running = none ∨ (s.tile n).active = false ∨ ((s.tile n).buffer.get none k).isSome = true →
      ∀ u, exec (.moveFetchDone c n k u) s = .next s) ∧
    ∀ (b : Book), x.running = some b →
      ((Work.start s).stream b (ctxTile x n) = none → ∀ u, exec (.moveFetchDone c n k u) s = .next s) ∧
      ∀ e, (Work.start s).stream b (ctxTile x n) = some e →
        (e.size / 16 ≤ k → ∀ u, exec (.moveFetchDone c n k u) s = .next s) ∧
        (k < e.size / 16 → (s.tile n).active = true → (s.tile n).buffer.get none k = none →
          ∃ t, exec (.moveFetchDone c n k []) s = .next t ∧
            t = { s with ctxs := t.ctxs, tiles := t.tiles, phys := t.phys, pad := t.pad, flash := t.flash, fns := t.fns, sent := t.sent } ∧
            (t.tile n).skel = ((s.tile n).buffered k ((Work.start s).bookLe b (e.off + 16 * k) 16)).skel ∧
            ∀ j, j ≠ n → (t.tile j).skel = (s.tile j).skel)) ∧
  (∀ (s : State) (c n : Nat) (q : Tile), q = s.tile n →
    (q.drain = none ∨ (s.region (n / 11)).holder ≠ some c → exec (.drainDone c n) s = .next s) ∧
    ∀ i fs u, q.drain = some i → (s.region (n / 11)).holder = some c →
      fs = q.flights.map (fun f => if f.index = i ∧ f.unit = .array ∧ f.thief.isNone then { f with out := 2 } else f) →
      u = { s with tiles := s.tiles.put {} n { q with flights := fs, drain := none } } →
      (nextDrain u n = none → exec (.drainDone c n) s = .next u) ∧
      ∀ k j, nextDrain u n = some (k, j) →
        exec (.drainDone c n) s = .next { u with tiles := u.tiles.put {} k { u.tile k with drain := some j } }) ∧
  (∀ (s : State) (c n index : Nat) (q : Tile), q = s.tile n →
    ((∀ f ∈ q.flights, f.index = index → f.thief.isNone = true → f.blocked s c n = true) →
      exec (.moveCompletion c n index) s = .next s) ∧
    (q.flights.find? (fun f => f.index = index && f.thief.isSome) = none → exec (.stolenMoveDone c n index) s = .next s) ∧
    (∀ f : Flight, f.blocked s c n = true ↔
      f.out = 1 ∨ f.out = 3 ∨ (∃ r ∈ s.requests, r.owner = .move n f.index) ∨
      (∃ r ∈ s.resident, r.ctx = c ∧ r.tile = n ∧ r.wanted = some f.index ∧ (f.owner = none ∨ f.owner = some r.owner)) ∨
      (∃ k ∈ f.used, (s.stack k).st = 2) ∨
      ∃ g ∈ q.flights.takeWhile (fun g => g ≠ f), g.unit = f.unit ∧ g.thief = none ∧ f.unit ≠ .gather ∧ f.unit ≠ .prefetcher) ∧
    (∀ f, q.flights.find? (fun f => f.index = index && f.thief.isNone && !f.blocked s c n) = some f →
        ∃ t, exec (.moveCompletion c n index) s = .next t ∧
          t = { s with ctxs := t.ctxs, tiles := t.tiles, phys := t.phys, pad := t.pad, flash := t.flash, fns := t.fns, sent := t.sent,
                       regions := t.regions, arrivals := s.arrivals ++ f.arrivals } ∧
          (t.tile n).skel = { q with flights := dropFirst (fun g => g = f) q.flights }.skel ∧
          (t.tile n).once = (match f.once with | some i => q.once ||| 2 ^ i | none => q.once) ∧
          ∀ j, j ≠ n → (t.tile j).skel = (s.tile j).skel) ∧
    ∀ f, q.flights.find? (fun f => f.index = index && f.thief.isSome) = some f →
      ∃ t, exec (.stolenMoveDone c n index) s = .next t ∧
        t = { s with ctxs := t.ctxs, tiles := t.tiles, phys := t.phys, pad := t.pad, flash := t.flash, fns := t.fns, sent := t.sent,
                     regions := t.regions, arrivals := s.arrivals ++ f.arrivals } ∧
        (t.tile n).skel = { q with flights := dropFirst (fun g => g = f) q.flights }.skel ∧
        ∀ j, j ≠ n → (t.tile j).skel = (s.tile j).skel) ∧
  (∀ (s : State) (c n k v : Nat), v = (s.tile n).tallies.get 0 k →
    ((n, k) ∉ s.arrivals → exec (.arrivalCounted c n k) s = .next s) ∧
    ((n, k) ∈ s.arrivals →
      ((s.ctx c).turn.live = false ∨ (s.tile n).active = false ∨ (s.region (n / 11)).holder ≠ some c →
        exec (.arrivalCounted c n k) s = .next { s with arrivals := dropOne (n, k) s.arrivals }) ∧
      ((s.ctx c).turn.live = true → (s.tile n).active = true → (s.region (n / 11)).holder = some c →
        ∃ t, exec (.arrivalCounted c n k) s = .next t ∧
          t = { s with ctxs := t.ctxs, tiles := t.tiles, phys := t.phys, pad := t.pad, flash := t.flash, fns := t.fns, sent := t.sent,
                       arrivals := dropOne (n, k) s.arrivals } ∧
          (∀ j, j ≠ n → (t.tile j).skel = (s.tile j).skel) ∧
          (v ≠ 0xFFFF → (t.tile n).skel = { s.tile n with tallies := (s.tile n).tallies.put 0 k (v + 1) }.skel) ∧
          (v = 0xFFFF → (t.tile n).skel = (s.tile n).skel) ∧
          (v = 0xFFFF ∨ (∃ m, headOf s n = some m ∧ overWait { s.tile n with tallies := (s.tile n).tallies.put 0 k (v + 1) } m = some k ∧
              (s.tile n).ended = false ∧ (s.tile n).stopped = false) →
            (t.ctx c).turn.poison = true ∧ ∀ j ∈ ctxTiles (s.ctx c), (t.tile j).stopped = true)))) ∧
  (∀ (s : State) (c n : Nat),
    (∀ unit, exec (.stealOffer c n unit) s = .next
      (if mayOffer s c n unit = true ∧ (s.tile n).offers.contains unit = false then
        { s with tiles := s.tiles.put {} n { s.tile n with offers := (s.tile n).offers ++ [unit] } }
      else s)) ∧
    (handOff s c n = none ∨ (s.tile n).ask.isSome = true → exec (.stealRequest c n) s = .next s) ∧
    (∀ m, handOff s c n = some m →
      (offering s c n (unitOf (mvClass m)) = [] → exec (.stealRequest c n) s = .next s) ∧
      ∀ k ks, offering s c n (unitOf (mvClass m)) = k :: ks → (s.tile n).ask = none → exec (.stealRequest c n) s = .next
        ({ s with tiles := s.tiles.put {} n { s.tile n with ask := some k } }.sending (.steal n k))) ∧
    (∀ thief u, (s.tile n).ask ≠ some thief → exec (.stealGrant c n thief u) s = .next s) ∧
    (∀ thief u, (s.tile n).ask = some thief →
      (handOff s c n = none ∨ (∃ m, handOff s c n = some m ∧ (offering s c n (unitOf (mvClass m))).contains thief = false) →
        exec (.stealGrant c n thief u) s = .next { s with tiles := s.tiles.put {} n { s.tile n with ask := none } }) ∧
      (∀ m, handOff s c n = some m → (offering s c n (unitOf (mvClass m))).contains thief = true →
        doubleUse m = true ∨ lawful s
          { c := c, n := n, phys := hostMesh s thief, index := (s.tile n).pos, src := srcTile (hostMesh s thief) } m u = true →
        ∃ t, exec (.stealGrant c n thief u) s = .next t) ∧
      ∀ m e w r, handOff s c n = some m → (offering s c n (unitOf (mvClass m))).contains thief = true → doubleUse m = false →
        stolenEffect [] { c := c, n := n, phys := hostMesh s thief, index := (s.tile n).pos, src := srcTile (hostMesh s thief) } m
          (((Work.start s).fire c n m).traceSteal c n thief m (s.tile n).pos) = (e, w) → commit s w = .next r → e.done = false →
        ∃ t, exec (.stealGrant c n thief []) s = .next t ∧
          t = { r with ctxs := t.ctxs, tiles := t.tiles, phys := t.phys, pad := t.pad, flash := t.flash, fns := t.fns, sent := t.sent } ∧
          (t.tile n).skel = ({ r.tile n with
            flights := (r.tile n).flights ++
              Flight.parts { flightOf s r n m { e with out := 0 } with thief := some thief } { e with out := 0 } } : Tile).advance.skel ∧
          (∀ j, j ≠ n → (t.tile j).skel = (r.tile j).skel) ∧
          (t.ph (hostMesh s n)).stealOut = satAdd 32 (r.ph (hostMesh s n)).stealOut 1 ∧
          (t.ph (hostMesh s thief)).stealIn = satAdd 32 (r.ph (hostMesh s thief)).stealIn 1)) ∧
  (∀ (s : State) (c n stream : Nat) (left : List (Nat × Nat)) (take : Bool) (q : Tile) (ss : Table (Option GStream)), q = s.tile n →
    (16 ≤ stream ∨ (s.region (n / 11)).holder ≠ some c → exec (.laneStealChunk c n stream left take) s = .next s) ∧
    (stream < 16 → (s.region (n / 11)).holder = some c →
      ss = withLeft (if ∃ g, q.streams.get none stream = some g ∧ g.helps.isSome = true then q.streams.put none stream none else q.streams) left →
      (take = false ∨ (ss.get none stream).isSome = true ∨ (∃ k, partnerOf s n = some k ∧ ((s.tile k).streams.get none stream).isSome = true) ∨
          (∀ j g, j < 16 → j ≠ stream → ss.get none j = some g → g.chunksLeft = 0) →
        exec (.laneStealChunk c n stream left take) s = .next { s with tiles := s.tiles.put {} n { q with streams := ss } }) ∧
      ∀ k g, take = true → ss.get none stream = none → (∀ j, partnerOf s n = some j → (s.tile j).streams.get none stream = none) →
        k < 16 → k ≠ stream → ss.get none k = some g → 0 < g.chunksLeft →
        (∀ j h, j < 16 → j ≠ stream → ss.get none j = some h →
          h.chunksLeft ≤ g.chunksLeft ∧ (h.chunksLeft = g.chunksLeft → k ≤ j)) →
        exec (.laneStealChunk c n stream left take) s = .next { s with
          tiles := (s.tiles.put {} n { q with streams := ss }).put {} n { q with
            streams := (ss.put none k (some { g with chunksLeft := g.chunksLeft - 1 })).put none stream
              (some { index := g.index, chunksLeft := 0, helps := some k }) }
          phys := s.phys.put {} (hostMesh s n)
            { s.ph (hostMesh s n) with laneSteals := satAdd 32 (s.ph (hostMesh s n)).laneSteals 1 } })) ∧
  (∀ (s : State) (n page evict : Nat) (q : Tile), q = s.tile n →
    ((doubled (s.region (n / 11)).map).contains (n % 11) = false ∨ 2144 ≤ page → exec (.doublesPageIn n page evict) s = .next s) ∧
    ((doubled (s.region (n / 11)).map).contains (n % 11) = true → page < 2144 →
      (∃ t, exec (.doublesPageIn n page evict) s = .next t ∧
        t = { s with
          tiles := s.tiles.put {} n { q with pages := insertNat page (q.pages.filter (fun p => p ≠ evict)) }
          mem := t.mem, poison := t.poison, hbm := t.hbm, pkgBytes := t.pkgBytes } ∧
        (evict ∉ q.pages → t.mem = s.mem ∧ t.poison = s.poison) ∧
        (evict ∈ q.pages → n < 132 → evict < 2144 → s.memOk = true →
          (∀ i, i < 65536 → t.byteAt (reserveAddr s n evict + i) = s.byteAt (tileAddr n (pageAddr evict + i))) ∧
          ∀ a, (∀ i, i < 65536 → reserveAddr s n evict + i ≠ normAddr a) → t.byteAt a = s.byteAt a)))) ∧
  (∀ (s : State) (c n unit layer : Nat), exec (.predictFetchDone c n unit layer) s = .next { s with
      resident := s.resident.map (fun q =>
        if q.ctx = c ∧ q.tile = n ∧ q.unit = unit ∧ q.layer = layer then { q with here := true, wanted := none } else q) }) ∧
  ∀ (s : State) (n k : Nat),
    ((s.region (n / 11)).holder = none → exec (.traceQueueDrain n k) s = .next s) ∧
    ∀ c, (s.region (n / 11)).holder = some c →
      (s.traceDesc.get none c = none → exec (.traceQueueDrain n k) s = .next
        { s with tiles := s.tiles.put {} n { s.tile n with traceq := (s.tile n).traceq.drop k } }) ∧
      ∀ (d : TraceDesc) (part base cap : Nat), s.traceDesc.get none c = some d → part = d.bytes / d.tileCount / 4096 * 4096 →
        base = d.buffer + (ctxTile (s.ctx c) n - d.firstTile) * part → cap = partCap part →
        (∃ t, exec (.traceQueueDrain n k) s = .next t ∧ (t.tile n).traceq = (s.tile n).traceq.drop k ∧
          (∀ j, j ≠ n → (t.tile j).traceq = (s.tile j).traceq) ∧ t.arrivals = s.arrivals ∧ t.jobs = s.jobs) ∧
        ∀ (e : List Byte) (es : List (List Byte)) (at_ y z : Nat), (s.tile n).traceq = e :: es → e.length = 32 → 0 < cap → s.memOk = true →
          bit d.mode 0 = true ∨ (s.tile n).traceEntries < cap → at_ = base + 64 + 32 * ((s.tile n).traceEntries % cap) →
          base % 4096 = 0 → (Work.start s).translate c at_ 32 true none = .ok y → ownSlot s y = true → inOneWindow (pkgAddr y) 32 = true →
          (Work.start s).translate c base 64 true none = .ok z → ownSlot s z = true → inOneWindow (pkgAddr z) 64 = true →
          (∀ i j, i < 32 → j < 64 → normAddr (pkgAddr y + i) ≠ normAddr (pkgAddr z + j)) →
          (∀ w' : Work, w' = (Work.start s).wrBytes (pkgAddr y) e → w'.translate c base 64 true none = .ok z) →
          ∃ t, exec (.traceQueueDrain n 1) s = .next t ∧ (t.tile n).traceq = es ∧
            (t.tile n).traceEntries = (s.tile n).traceEntries + 1 ∧ (∀ i, i < 32 → t.byteAt (pkgAddr y + i) = e.getD i 0) ∧
            (∀ i, i < 8 → t.byteAt (pkgAddr z + i) = (leBytes 8 ((s.tile n).traceEntries + 1)).getD i 0) ∧
            ∀ a, (∀ i, i < 32 → normAddr (pkgAddr y + i) ≠ normAddr a) → (∀ i, i < 64 → normAddr (pkgAddr z + i) ≠ normAddr a) →
              t.byteAt a = s.byteAt a

/-! ### HBM, scrubbers and self-tests (R166–R170, R318–R343, R483, R484) -/

/-- Requests to a stack and what its controller does by itself (R318, R321, R325, R327–R332, R340, R342, R343): every byte of a stack has a
place of its own; a request waits in self refresh, while a channel of its bytes retrains, and behind an older one of its requester for the same
sector, is dropped where its stack does not run, and else is served: a write stores its bytes, a read delivers them with their mark, and no
other byte changes; a sector that fails is counted. Refresh is owed, paid in a window, and forced late at the eighth interval; calibration waits
for a window once; both then delay the stack; patrol scrub reads a sector in a window, or an hour behind; self refresh is entered at rest in off
and left for what waits; a retrained channel's lanes are repaired and its requests served. -/
def Obligations.StacksServeAndRefresh : Prop :=
  (∀ o p, o < 2 ^ 36 → p < 2 ^ 36 → locationOf o = locationOf p → o = p) ∧
  (∀ (s : State) (q : HbmReq) (sector : Bool) (i : Instr) (k : Stack) (a : Nat),
    i = (if sector then .sectorRequest q else .hbmBlockRequest q) → k = s.stack q.stack → a = stackBase q.stack + q.off →
    (q.ok sector = false ∨ (k.st ≠ 1 ∧ k.st ≠ 2) → exec i s = .next s) ∧
    (q.ok sector = true → k.st = 2 ∨ (k.st = 1 ∧ (q.held s = true ∨ q.follows k = true)) → exec i s = .next
      { s with hbm := s.hbm.put {} q.stack { k with waiting := k.waiting ++ [(q, sector)] } }) ∧
    (q.ok sector = true → k.st = 1 → q.held s = false → q.follows k = false →
      (q.err = .none → q.write = true → s.memOk = true → ∃ t, exec i s = .next t ∧
        t = { s with
          mem := t.mem
          poison := t.poison
          hbm := t.hbm
          pkgBytes := wrapAdd 64 s.pkgBytes ((writeCost q.off q.len).1 + (writeCost q.off q.len).2) } ∧
        (t.stack q.stack).wr = wrapAdd 64 k.wr (writeCost q.off q.len).1 ∧
        (t.stack q.stack).rd = wrapAdd 64 k.rd (writeCost q.off q.len).2 ∧
        (∀ j, j < q.len → t.byteAt (a + j) = q.data.getD j 0) ∧
        (∀ x, (∀ j, j < q.len → a + j ≠ normAddr x) → t.byteAt x = s.byteAt x) ∧
        (∀ j, j < q.len → t.poison.get false (a + j) = false) ∧
        (t.stack q.stack).sectors = (if sector then wrapAdd 64 k.sectors 1 else k.sectors) ∧
        ∀ j, j ≠ q.stack → t.stack j = s.stack j) ∧
      (q.err = .none → q.write = false → ∃ t, exec i s = .next t ∧
        t = { s with
          hbm := t.hbm
          pkgBytes := wrapAdd 64 s.pkgBytes (if sector then q.len else 128 * (alignedPieces q.off q.len 128).length)
          sent := s.sent ++ [.hbmData q.src q.stack q.off ((Work.start s).rdPoison a q.len)
            ((List.range q.len).map (fun j => s.byteAt (a + j)))] } ∧
        (t.stack q.stack).sectors = (if sector then wrapAdd 64 k.sectors 1 else k.sectors) ∧
        ∀ j, j ≠ q.stack → t.stack j = s.stack j) ∧
      (q.err = .uncorrectable → q.write = false → ∃ t, exec i s = .next t ∧
        .hbmData q.src q.stack q.off true ((List.range q.len).map (fun j => s.byteAt (a + j))) ∈ t.sent ∧
        (t.stack q.stack).ue = satAdd 32 k.ue 1) ∧
      (q.err = .corrected → q.write = false → ∃ t, exec i s = .next t ∧
        .hbmData q.src q.stack q.off ((Work.start s).rdPoison a q.len) ((List.range q.len).map (fun j => s.byteAt (a + j))) ∈ t.sent ∧
        (t.stack q.stack).ce = satAdd 32 k.ce 1))) ∧
  (∀ (s : State) (n bank channel sector lane : Nat) (k : Stack), k = s.stack n →
    (12 ≤ n ∨ k.st ≠ 1 → exec (.hbmRefresh n bank) s = .next s ∧ exec (.hbmCalibration n channel) s = .next s ∧
      exec (.selfRefreshEntry n) s = .next s ∧ ∀ e, exec (.hbmPatrolScrub n sector e lane) s = .next s) ∧
    (n < 12 → k.st = 1 →
      (windowOpen s n 0 = true →
        exec (.hbmRefresh n bank) s = .next { s with hbm := s.hbm.put {} n { k with owed := k.owed.put 0 bank 0 } } ∧
        exec (.hbmCalibration n channel) s = .next { s with
          hbm := s.hbm.put {} n { k with calDue := k.calDue.filter (fun x => x ≠ channel) } }) ∧
      (windowOpen s n 0 = false →
        (k.owed.get 0 bank < 7 → exec (.hbmRefresh n bank) s = .next { s with
          hbm := s.hbm.put {} n { k with owed := k.owed.put 0 bank (k.owed.get 0 bank + 1) } }) ∧
        (7 ≤ k.owed.get 0 bank → ∃ t, exec (.hbmRefresh n bank) s = .next t ∧ t = { s with hbm := t.hbm, free := s.free + 1 } ∧
          (∀ j, j ≠ n → t.stack j = s.stack j) ∧
          t.stack n = { k with
            owed := k.owed.put 0 bank 7, late := satAdd 32 k.late 1
            heldUntil := Nat.max k.heldUntil (s.now + Config.freeValue s.free) }) ∧
        (k.calDue.contains channel = false → exec (.hbmCalibration n channel) s = .next { s with
          hbm := s.hbm.put {} n { k with calDue := insertNat channel k.calDue } }) ∧
        (k.calDue.contains channel = true → ∃ t, exec (.hbmCalibration n channel) s = .next t ∧ t = { s with hbm := t.hbm } ∧
          (∀ j, j ≠ n → t.stack j = s.stack j) ∧
          t.stack n = { k with
            calDue := k.calDue.filter (fun x => x ≠ channel), heldUntil := Nat.max k.heldUntil (s.now + 150) })) ∧
      ((s.region n).pwr ≠ .off ∨ s.now < k.lastReq + 10000 ∨ k.waiting ≠ [] → exec (.selfRefreshEntry n) s = .next s) ∧
      ((s.region n).pwr = .off → k.lastReq + 10000 ≤ s.now → k.waiting = [] → exec (.selfRefreshEntry n) s = .next
        { s with hbm := s.hbm.put {} n { k with st := 2, ran := k.ran + (s.now - k.since) } }) ∧
      ((s.region n).pwr = .off ∨ 2 ^ 31 ≤ sector ∨ (windowOpen s n 1 = false ∧ k.behind s.now = false) ∨
          (∃ p ∈ k.waiting, apart p.1.off p.1.len (sector * 32) 32 = false) →
        ∀ e, exec (.hbmPatrolScrub n sector e lane) s = .next s) ∧
      ((s.region n).pwr ≠ .off → sector < 2 ^ 31 → windowOpen s n 1 = true ∨ k.behind s.now = true →
          (∀ p ∈ k.waiting, apart p.1.off p.1.len (sector * 32) 32 = true) →
        (windowOpen s n 1 = true → exec (.hbmPatrolScrub n sector .none lane) s = .next { s with
          hbm := s.hbm.put {} n { k with rd := wrapAdd 64 k.rd 32, patrolled := k.patrolled + 1 }
          pkgBytes := wrapAdd 64 s.pkgBytes 32 }) ∧
        (windowOpen s n 1 = false → ∃ t, exec (.hbmPatrolScrub n sector .none lane) s = .next t ∧
          t = { s with hbm := t.hbm, free := s.free + 1, pkgBytes := wrapAdd 64 s.pkgBytes 32 } ∧
          (∀ j, j ≠ n → t.stack j = s.stack j) ∧
          t.stack n = { k with
            rd := wrapAdd 64 k.rd 32, patrolled := k.patrolled + 1
            heldUntil := Nat.max k.heldUntil (s.now + Config.freeValue s.free) }) ∧
        (∃ t, exec (.hbmPatrolScrub n sector .corrected lane) s = .next t ∧ (t.stack n).ce = satAdd 32 k.ce 1 ∧
          (t.stack n).rd = wrapAdd 64 k.rd 32) ∧
        ∃ t, exec (.hbmPatrolScrub n sector .uncorrectable lane) s = .next t ∧ (t.stack n).ue = satAdd 32 k.ue 1 ∧
          (t.stack n).rd = wrapAdd 64 k.rd 32)) ∧
    (k.st ≠ 2 → exec (.selfRefreshExit n) s = .next s) ∧
    (k.st = 2 → (∀ p ∈ k.waiting, p.1.err = .none) → ∃ t, exec (.selfRefreshExit n) s = .next t ∧
      t = { s with hbm := t.hbm, mem := t.mem, poison := t.poison, pkgBytes := t.pkgBytes, phys := t.phys, sent := t.sent } ∧
      (t.stack n).st = 1 ∧
      (t.stack n).waiting = k.waiting.filter (fun p => p.1.held s) ∧
      (k.waiting = [] → t.mem = s.mem ∧ t.sent = s.sent ∧ t.stack n = { k with st := 1, since := s.now, lastReq := s.now })) ∧
    (retraining s n channel = false → exec (.hbmRetrainDone n channel) s = .next s) ∧
    (retraining s n channel = true → ∀ lanes, lanes = Nat.min 255 (k.lanes + (k.retrainNow.filter (fun x => x / 64 = channel)).length) →
      (k.waiting = [] → ∃ t, exec (.hbmRetrainDone n channel) s = .next t ∧ t = { s with hbm := t.hbm } ∧
        t.stack n = { k with retrainNow := k.retrainNow.filter (fun x => x / 64 ≠ channel), lanes := lanes } ∧
        ∀ j, j ≠ n → t.stack j = s.stack j) ∧
      (k.st = 1 →
        (∀ p ∈ k.waiting, p.1.err = .none ∧ p.1.stack = n ∧ ∀ o ∈ alignedPieces p.1.off p.1.len 128, channelAt s n o = channel) →
        ∃ t, exec (.hbmRetrainDone n channel) s = .next t ∧ (t.stack n).lanes = lanes ∧
          (t.stack n).retrainNow = k.retrainNow.filter (fun x => x / 64 ≠ channel) ∧ (t.stack n).waiting = [])))

/-- Scrubbers and self-tests (R64, R166, R169, R170, R174, R483, R484): in a window that admits scrub, or behind its pace, the tile scrubber reads
a word of a running or napping region, corrects it, and counts what it finds; a word that cannot be corrected is marked, and the ONCE bits of the
tile whose word it is go. A region an hour in sleep or off comes to nap, and goes back once every tile of it is scrubbed. A suspect unit starts
its run in the first window that admits it, once in each; a run that ends in time passes or fails: a failure counts and poisons the attempt in
its region; 16 passes and 24 hours make the unit healthy again. -/
def Obligations.ScrubbersAndSelfTests : Prop :=
  (∀ (s : State) (p word : Nat) (deep second : Bool) (r : Nat) (g : Region) (x : Phys), r = regionOfMesh p → g = s.region r →
    x = { s.ph p with
      near := if deep then (s.ph p).near else wrapAdd 64 (s.ph p).near 16
      deep := if deep then wrapAdd 64 (s.ph p).deep 32 else (s.ph p).deep
      heldUntil := if windowOpen s r 1 then (s.ph p).heldUntil else Nat.max (s.ph p).heldUntil (s.now + Config.freeValue s.free)
      scrubbed := if (s.ph p).scrubbed + 1 < tileWords then (s.ph p).scrubbed + 1 else 0
      scrubStart := if (s.ph p).scrubbed + 1 < tileWords then (s.ph p).scrubStart else s.now } →
    (144 ≤ p ∨ (g.pwr ≠ .run ∧ g.pwr ≠ .nap) ∨ (if deep then 0x800000 else 0xC0000) ≤ word ∨
        (windowOpen s r 1 = false ∧ (s.ph p).behind s.now = false) →
      ∀ e, exec (.tileScrub p deep word e second) s = .next s) ∧
    (p < 144 → g.pwr = .run ∨ g.pwr = .nap → word < (if deep then 0x800000 else 0xC0000) →
        windowOpen s r 1 = true ∨ (s.ph p).behind s.now = true →
      (g.scrubNap = none →
        (exec (.tileScrub p deep word .none second) s = .next { s with
          phys := s.phys.put {} p x, free := if windowOpen s r 1 then s.free else s.free + 1 }) ∧
        (∃ t, exec (.tileScrub p deep word .corrected second) s = .next t ∧ (t.ph p).ecc = satAdd 32 (s.ph p).ecc 1 ∧ t.tiles = s.tiles ∧
          t.mem = s.mem ∧ ∀ j, j ≠ p → t.ph j = s.ph j) ∧
        ∃ t, exec (.tileScrub p deep word .uncorrectable second) s = .next t ∧ (t.ph p).eccUe = satAdd 32 (s.ph p).eccUe 1 ∧
          (s.memOk = true → ∀ a, t.byteAt a = s.byteAt a) ∧
          (hostedTiles s p = [] → t.tiles = s.tiles) ∧
          ∀ n, (hostedTiles s p)[b2n second]? = some n ∨ ((hostedTiles s p)[b2n second]? = none ∧ (hostedTiles s p).head? = some n) →
            t.tile n = { s.tile n with onceNext := 1, bad := (s.tile n).bad ++ [wordAddr (b2n deep) word] } ∧
            (∀ j, j ≠ n → t.tile j = s.tile j) ∧
            (s.memOk = true → ∀ j, j < (wordAddr (b2n deep) word).2 →
              t.poison.get false (tileAddr n (wordAddr (b2n deep) word).1 + j) = true)) ∧
      ∀ old since, g.scrubNap = some (old, since) → g.pwr = .nap → g.waking = none → g.entering = none → g.wakeNext = none →
        old = .sleep ∨ old = .off → since < x.scrubStart → (∀ i, i < 12 → meshOf r i ≠ p → since < (s.ph (meshOf r i)).scrubStart) →
        ∃ t, exec (.tileScrub p deep word .none second) s = .next t ∧ t.region r = { g with scrubNap := none, entering := some old } ∧
          t = { s with phys := s.phys.put {} p x, free := if windowOpen s r 1 then s.free else s.free + 1, regions := t.regions } ∧
          ∀ j, j ≠ r → t.region j = s.region j)) ∧
  (∀ (s : State) (r : Nat) (g : Region), g = s.region r →
    ((g.pwr ≠ .sleep ∧ g.pwr ≠ .off) ∨ s.now ≤ g.downSince + 3600000000000 → exec (.scrubNapWake r) s = .next s) ∧
    (g.pwr = .sleep ∨ g.pwr = .off → g.downSince + 3600000000000 < s.now → g.entering = none → g.waking = none → g.wakeNext = none →
      ∃ t, exec (.scrubNapWake r) s = .next t ∧ t = { s with regions := t.regions } ∧ (∀ j, j ≠ r → t.region j = s.region j) ∧
        t.region r = { g with
          wakes := satAdd 32 g.wakes 1, waking := some .nap, lead := if g.pwr = .sleep then 12000 else 60000
          scrubNap := some (g.pwr, s.now) })) ∧
  ∀ (s : State) (u : UnitId),
    (isSuspect s u = false ∨ isRetired s u = true ∨ (∃ t ∈ s.tests, t.unit = u) ∨ mayTest s u = false ∨
        (∀ v ∈ s.windows, (v.region ≠ none ∧ v.region ≠ some u.region) ∨ bit v.kinds 2 = false ∨ s.now < v.start ∨
          v.stop < s.now + runNs u ∨ u ∈ v.ran) → exec (.selftestRunStart u) s = .next s) ∧
    (isSuspect s u = true → isRetired s u = false → (∀ t ∈ s.tests, t.unit ≠ u) → mayTest s u = true →
      ∀ v vs, s.windows = v :: vs → v ∉ vs → v.region = none ∨ v.region = some u.region → bit v.kinds 2 = true → v.start ≤ s.now →
      s.now + runNs u ≤ v.stop → u ∉ v.ran → exec (.selftestRunStart u) s = .next
        { s with tests := s.tests ++ [{ unit := u, start := s.now }], windows := { v with ran := v.ran ++ [u] } :: vs }) ∧
    ((∀ t ∈ s.tests, t.unit ≠ u) → ∀ pass, exec (.selftestRunEnd u pass) s = .next s) ∧
    (∀ r, s.tests.find? (fun t => t.unit = u) = some r →
      (s.now < r.start + runNs u → ∀ pass, exec (.selftestRunEnd u pass) s = .next s) ∧
      (r.start + runNs u ≤ s.now →
        (exec (.selftestRunEnd u true) s = .next { s with
          tests := s.tests.filter (fun x => x ≠ r)
          regions := s.regions.put {} u.region { s.region u.region with runs := satAdd 32 (s.region u.region).runs 1 }
          flash := { s.flash with suspects := s.flash.suspects.map (fun x => if x.unit = u then { x with passed := x.passed + 1 } else x) } }) ∧
        (∃ t, exec (.selftestRunEnd u false) s = .next t ∧ t.tests = s.tests.filter (fun x => x ≠ r) ∧
          (isRetired s u = false → (t.region u.region).fails = satAdd 32 (s.region u.region).fails 1)) ∧
        (∀ c, (s.region u.region).holder = some c → (s.ctx c).turn.live = true → s.retiring = [] → regionHeld s u.region = true →
          ∃ t, exec (.selftestRunEnd u false) s = .next t ∧ (t.ctx c).turn.poison = true ∧ t.tiles = s.tiles ∧ t.mem = s.mem))) ∧
    (∀ x, suspectOf s u = none ∨ (suspectOf s u = some x ∧
        (isRetired s u = true ∨ s.retiring.contains u = true ∨ (s.now : Int) < x.since + 86400000000000 ∨ x.passed < 16)) →
      exec (.observationEnd u) s = .next s) ∧
    ∀ x, suspectOf s u = some x → isRetired s u = false → s.retiring.contains u = false → (x.since : Int) + 86400000000000 ≤ s.now →
      16 ≤ x.passed → ∃ t, exec (.observationEnd u) s = .next t ∧
        t.flash.suspects = s.flash.suspects.filter (fun y => y.unit ≠ u) ∧
        t.pad = (s.recorded 0x100B 2 u.source u.kind x.passed 0 none).pad ∧
        t = { s with flash := t.flash, pad := t.pad, sent := t.sent, fns := t.fns }

/-! ### Packets, links and ports (R52, R53, R348–R386, R395) -/

/-- Packets at this package (R24, R26, R52, R53, R66, R332, R348, R357, R358, R361, R364–R373, R375, R395): one that names no open job's
context, or bytes outside its allocation, is refused, recorded and, where it asks for an answer, answered with an error; one of another attempt
is dropped; one for a region that does not run wakes it and waits; a WRITE or a COLLECTIVE stores its bytes and no other, then its arrival is
due; a WRITE_ACKED is acknowledged, a READ answered with its data; a response finds its request. A hop takes a packet link by link along mx
and then my, over the hub link of its die where it enters or leaves the hub, and delivers it, sends it on, or drops it with a record. A frame is
280 bytes; a data flit is accepted in order, or NAKed. -/
def Obligations.PacketsReachTheirTarget : Prop :=
  (∀ (s : State) (p : Parcel),
    (jobCtx s p.tag.job = none ∨
        (∃ c, jobCtx s p.tag.job = some c ∧ allocated (s.ctx c) p.pkt.addr (Nat.max 1 p.pkt.len) = false) →
      (∀ i, i = Instr.pktWrite p ∨ i = .pktCollective p ∨ i = .pktWriteAcked p ∨ i = .pktRead p [] →
        ∃ t, exec i s = .next t ∧ t = { s with pad := t.pad, flash := t.flash, fns := t.fns, sent := t.sent } ∧
          t.pad = (s.recorded 0x4005 4 0xC00 (rankNum p.pkt.src) p.tag.job (p.pkt.addr / 4096) none).pad ∧
          (i = .pktWriteAcked p ∨ i = .pktRead p [] →
            .parcel { vc := 1, tag := p.tag, pkt := mkPacket s 8 0 p.pkt.src 0 p.pkt.tag [] } ∈ t.sent))) ∧
    ∀ c, jobCtx s p.tag.job = some c → allocated (s.ctx c) p.pkt.addr (Nat.max 1 p.pkt.len) = true →
      (current s c p.tag = false → ∀ i, i = Instr.pktWrite p ∨ i = .pktCollective p ∨ i = .pktWriteAcked p ∨ i = .pktRead p [] →
        exec i s = .next s) ∧
      (current s c p.tag = true → ∀ r, targetRegion 0 p.pkt = some r → (s.region r).keepsOut = true →
        ∀ i k u, (i = .pktWrite p ∧ k = 0 ∧ u = []) ∨ (i = .pktWriteAcked p ∧ k = 1 ∧ u = []) ∨ i = Instr.pktRead p u ∧ k = 2 ∨
            (i = .pktCollective p ∧ k = 6 ∧ u = []) →
          ∃ t, exec i s = .next t ∧ t = { s with regions := t.regions } ∧ (∀ j, j ≠ r → t.region j = s.region j) ∧
            (t.region r).ingress = (s.region r).ingress ++ [({ p with pkt := { p.pkt with type := k } }, u)] ∧
            ((t.region r).waking = some .run ∨ (t.region r).wakeNext = some .run)) ∧
      (current s c p.tag = true → (∀ r, targetRegion 0 p.pkt = some r → (s.region r).keepsOut = false) →
        (inOneWindow p.pkt.addr p.pkt.payload.length = true → s.memOk = true → ∃ t,
          exec (.pktWrite p) s = .next t ∧ exec (.pktCollective p) s = .next t ∧
          exec (.pktWriteAcked p) s = .next (t.sending
            (.parcel { vc := 1, tag := p.tag, pkt := mkPacket s 4 4 p.pkt.src 0 p.pkt.tag (leBytes 4 1) })) ∧
          t = { s with mem := t.mem, poison := t.poison, hbm := t.hbm, pkgBytes := t.pkgBytes, phys := t.phys,
                       arrivals := s.arrivals ++ (if p.pkt.sig then [(p.pkt.sigTile, p.pkt.sigTally)] else []) } ∧
          (∀ i, i < p.pkt.payload.length → t.byteAt (p.pkt.addr + i) = p.pkt.payload.getD i 0) ∧
          ∀ a, (∀ i, i < p.pkt.payload.length → normAddr (p.pkt.addr + i) ≠ normAddr a) → t.byteAt a = s.byteAt a) ∧
        ∃ t, exec (.pktRead p []) s = .next t ∧
          t = { s with
            hbm := t.hbm
            pkgBytes := t.pkgBytes
            phys := t.phys
            sent := s.sent ++ [.parcel { vc := 1, tag := p.tag, pkt :=
              { mkPacket s 3 p.pkt.len p.pkt.src 0 p.pkt.tag ((List.range p.pkt.len).map (fun i => s.byteAt (p.pkt.addr + i))) with
                poison := (Work.start s).rdPoison p.pkt.addr p.pkt.len } }] })) ∧
  (∀ (s : State) (p : Parcel),
    (jobCtx s p.tag.job = none → exec (.pktArrival p) s = .next s) ∧
    ∀ c, jobCtx s p.tag.job = some c →
      (current s c p.tag = false ∨ (ctxTiles (s.ctx c)).contains p.pkt.sigTile = false → exec (.pktArrival p) s = .next s) ∧
      (current s c p.tag = true → (ctxTiles (s.ctx c)).contains p.pkt.sigTile = true → ∀ r, r = p.pkt.sigTile / 11 →
        ((s.region r).keepsOut = false →
          exec (.pktArrival p) s = .next { s with arrivals := s.arrivals ++ [(p.pkt.sigTile, p.pkt.sigTally)] }) ∧
        ((s.region r).keepsOut = true → ∃ t, exec (.pktArrival p) s = .next t ∧ t = { s with regions := t.regions } ∧
          (t.region r).ingress = (s.region r).ingress ++ [({ p with pkt := { p.pkt with type := 5 } }, [])] ∧
          ((t.region r).waking = some .run ∨ (t.region r).wakeNext = some .run)))) ∧
  (∀ (s : State) (p : Parcel),
    (answered s p false = none → exec (.pktReadResp p) s = .next s) ∧
    (answered s p true = none → exec (.pktWriteAck p) s = .next s) ∧
    (s.requests.find? (fun q => q.tag = p.pkt.tag && q.untagged == p.tag.untagged) = none → exec (.pktErrorResp p) s = .next s) ∧
    (∀ q n k a, answered s p false = some q → q.owner = .move n k → q.dest = .mem a → s.memOk = true →
      inOneWindow a p.pkt.payload.length = true → ∃ t, exec (.pktReadResp p) s = .next t ∧
        t = { s with mem := t.mem, poison := t.poison, hbm := t.hbm, pkgBytes := t.pkgBytes, phys := t.phys,
                     requests := s.requests.filter (fun r => r ≠ q) } ∧
        (∀ i, i < p.pkt.payload.length → t.byteAt (a + i) = p.pkt.payload.getD i 0) ∧
        ∀ x, (∀ i, i < p.pkt.payload.length → normAddr (a + i) ≠ normAddr x) → t.byteAt x = s.byteAt x) ∧
    (∀ q ring index a, answered s p false = some q → q.owner = .command ring index →
      s.actives.find? (fun a => a.ring = ring && a.index = index) = some a → CanPost s a →
      (p.pkt.poison = true → ∃ t, exec (.pktReadResp p) s = .next t ∧ Posted s t a 0x13 1 0 0 s.now ∧
        t.requests = s.requests.filter (fun r => r.owner ≠ q.owner) ∧ t.mem = s.mem) ∧
      (p.pkt.poison = false → q.dest = .none → (∀ r ∈ s.requests, r.owner = q.owner → r = q) → ∀ bytes, a.wait = .remote bytes →
        ∃ t, exec (.pktReadResp p) s = .next t ∧ Posted s t a 0x01 0 0 bytes s.now ∧
          t.requests = s.requests.filter (fun r => r ≠ q) ∧ t.mem = s.mem)) ∧
    (∀ q n k, answered s p true = some q → q.owner = .move n k →
      (∀ r ∈ s.requests, r.write = true → r.owner = q.owner → r.to_ = q.to_ → r = q) →
      exec (.pktWriteAck p) s = .next { s with requests := s.requests.filter (fun r => r ≠ q) }) ∧
    ∀ q n k, s.requests.find? (fun q => q.tag = p.pkt.tag && q.untagged == p.tag.untagged) = some q → q.owner = .move n k →
      (p.pkt.src ≠ q.to_ → exec (.pktErrorResp p) s = .next { s with requests := s.requests.filter (fun r => r.tag ≠ q.tag) }) ∧
      (p.pkt.src = q.to_ → (s.ctx q.ctx).st = .opened ∨ (s.ctx q.ctx).st = .running →
        ∃ t, exec (.pktErrorResp p) s = .next t ∧ (t.ctx q.ctx).st = .stopped ∧ (t.ctx q.ctx).stopStatus = 0x12 ∧
          t.requests = s.requests.filter (fun r => r.owner ≠ q.owner) ∧ t.mem = s.mem)) ∧
  (∀ a b : Nat × Nat, a.1 < 12 → a.2 < 12 → b.1 < 12 → b.2 < 12 → ∀ ls, ls = meshWay 22 a b →
    ls.head?.map (·.1) = (if a = b then none else some a) ∧ ls.getLast?.map (·.2) = (if a = b then none else some b) ∧
    (∀ i, i + 1 < ls.length → (ls.map (·.2))[i]? = (ls.map (·.1))[i + 1]?) ∧
    ∀ l ∈ ls, (l.1.2 = a.2 ∧ l.2.2 = a.2 ∧ (l.2.1 = l.1.1 + 1 ∨ l.1.1 = l.2.1 + 1)) ∨
      (l.1.1 = b.1 ∧ l.2.1 = b.1 ∧ (l.2.2 = l.1.2 + 1 ∨ l.1.2 = l.2.2 + 1))) ∧
  (∀ (s : State) (p : Parcel) (from_ : Stand),
    (∀ k p', p' = { p with pkt := { p.pkt with poison := true } } → wayOf s p' ≠ .drop →
      ∃ t, exec (.routeHop p from_ (some k)) s = .next t ∧ (∀ p'', wayOf s p' = .deliver p'' → .toTile p'' ∈ t.sent) ∧
        t.pad = (s.recorded 0x100C 4 (k / 4) (k % 4) p.tag.turn p.tag.attempt (jobCtx s p.tag.job)).pad ∧
        ∀ c, jobCtx s p.tag.job = some c → (s.ctx c).turn.live = true → (t.ctx c).turn.poison = true) ∧
    (∀ p', wayOf s p = .deliver p' →
      (placeOf s p'.pkt = .stack → exec (.routeHop p from_ none) s = .next (s.sending (.toTile p'))) ∧
      (placeOf s p'.pkt = .hub → exec (.routeHop p from_ none) s = .next
        { s with sent := s.sent ++ pathOf from_ none p' ++ [.toTile p'] }) ∧
      ∀ x y, placeOf s p'.pkt = .tile x y → exec (.routeHop p from_ none) s = .next
        { s with sent := s.sent ++ pathOf from_ (some (x, y)) p' ++ [.toTile p'] }) ∧
    (∀ o p' path, wayOf s p = .out o p' → path = pathOf from_ (exitRouter o p'.pkt) p' →
      ((s.port o).maySend = false → exec (.routeHop p from_ none) s = .next
        { s with ports := s.ports.put {} o { s.port o with txq := (s.port o).txq ++ [p'] }, sent := s.sent ++ path }) ∧
      ((s.port o).maySend = true → (s.port o).txq = [] → 0 < (s.port o).credit p'.vc → p'.vc < 5 →
        ∃ t, exec (.routeHop p from_ none) s = .next t ∧
          t.sent = s.sent ++ path ++
            [.flit o (s.port o).seqNext (s.port o).ack (frameOf (flitBytes p' (s.port o).seqNext (s.port o).ack))] ∧
          (t.port o).txq = [] ∧ (t.port o).seqNext = wrapAdd 12 (s.port o).seqNext 1 ∧
          (t.port o).kept = (s.port o).kept ++ [{ seq := (s.port o).seqNext, parcel := p' }])) ∧
    (wayOf s p = .drop → ∃ t, exec (.routeHop p from_ none) s = .next t ∧
      t = { s with routeDrops := s.routeDrops + 1, pad := t.pad, flash := t.flash, fns := t.fns, sent := t.sent } ∧
      t.pad = (s.recorded 0x4004 3 0xC00 (rankNum p.pkt.dst) p.pkt.type 0 none).pad)) ∧
  (∀ flit : List Byte, flit.length = 256 → (frameOf flit).length = 280 ∧ (frameOf flit).take 256 = flit) ∧
  ∀ (s : State) (port : Nat) (q : Port), q = s.port port →
    (q.st ≠ 2 → ∀ f line, exec (.dataFrame port f line) s = .next s) ∧
    (q.st = 2 → ∀ (f : List Byte) (line : LineErrors) (tr : Nat) (good : Bool), tr = ofLe (slice f 250 6) →
        good = (line.corrects && decide (flitCrc (f.take 250) (tr % 2 ^ 28) = bits tr 47 28)) →
      (good = false →
        (q.rxChange.isSome = true ∨ q.nakFor = some q.x → ∃ t, exec (.dataFrame port f line) s = .next t ∧
          t = { s with ports := t.ports } ∧ (t.port port).crcErr = satAdd 32 q.crcErr 1 ∧ (t.port port).x = q.x ∧
          ∀ j, j ≠ port → t.port j = s.port j) ∧
        (q.rxChange = none → q.nakFor ≠ some q.x → q.naks < 7 → ∃ t, exec (.dataFrame port f line) s = .next t ∧
          t = { s with ports := t.ports, sent := s.sent ++ [.ctl port 1 q.ack ([0#8] ++ q.freedBytes)] } ∧
          (t.port port).crcErr = satAdd 32 q.crcErr 1 ∧ (t.port port).x = q.x ∧ (t.port port).nakFor = some q.x ∧
          (t.port port).naks = q.naks + 1 ∧ ∀ j, j ≠ port → t.port j = s.port j)) ∧
      (good = true →
        (bit tr 27 = true → ∃ t, exec (.dataFrame port f line) s = .next t ∧ t = { s with ports := t.ports } ∧
          t.port port = q.countErrors line ∧ ∀ j, j ≠ port → t.port j = s.port j) ∧
        (bit tr 27 = false → q.rxChange = none →
          (modSub 12 (bits tr 11 0) q.x = 0 → ∃ t, exec (.dataFrame port f line) s = .next t ∧
            (t.port port).x = wrapAdd 12 q.x 1 ∧ (t.port port).rxBytes = wrapAdd 64 q.rxBytes 250 ∧ (t.port port).nakFor = none ∧
            (t.port port).naks = 0 ∧ t.mem = s.mem) ∧
          (0 < modSub 12 (bits tr 11 0) q.x → modSub 12 (bits tr 11 0) q.x < 1024 → q.nakFor ≠ some q.x → q.naks < 7 →
            ∃ t, exec (.dataFrame port f line) s = .next t ∧ (t.port port).x = q.x ∧ (t.port port).nakFor = some q.x ∧
              .ctl port 1 q.ack ([0#8] ++ q.freedBytes) ∈ t.sent) ∧
          (1024 ≤ modSub 12 (bits tr 11 0) q.x → q.txq = [] → ∃ t, exec (.dataFrame port f line) s = .next t ∧
            t = { s with ports := t.ports } ∧
            t.port port = { q.countErrors line with kept := q.kept.filter (fun k => decide (1024 ≤ modSub 12 (bits tr 23 12) k.seq)) } ∧
            ∀ j, j ≠ port → t.port j = s.port j))))

/-- A port that is UP (R374–R381, R385): acknowledgements free kept flits and credits arrive; a NAK is served from the oldest kept flit, at once or after
the pause; timers repeat a NAK, a resend and a report; a bad lane and a width change are negotiated, and each direction takes its new width;
recalibration pauses, measures the delay, and what came meanwhile is handled; the eighth NAK for one flit marks a lane bad; too few lanes, a stall, a lost signal or a HELLO lose the port, whose users' attempts are poisoned. A port that is not
UP ignores all these. -/
def Obligations.PortsKeepTheirFlits : Prop :=
  ∀ (s : State) (port : Nat) (q : Port), q = s.port port →
    (q.st ≠ 2 → ∀ (ack n mask : Nat) (freed : List Nat) (answer : Bool),
      exec (.ctlIdle port ack freed) s = .next s ∧ exec (.ctlNak port ack freed) s = .next s ∧ exec (.nakRetry port) s = .next s ∧
      exec (.ackTimeout port) s = .next s ∧ exec (.idleTimer port) s = .next s ∧ exec (.laneBad port n) s = .next s ∧
      exec (.laneChange port ack mask n answer) s = .next s ∧ exec (.reframeDone port) s = .next s ∧
      exec (.reframeTimeout port) s = .next s ∧ exec (.ackStall port) s = .next s ∧ exec (.signalLoss port) s = .next s ∧
      exec (.recal port ack n) s = .next s ∧ exec (.recalDue port) s = .next s) ∧
    (q.st = 2 →
      (q.txq = [] → ∀ (ack n : Nat) (freed : List Nat) (kept : List Kept) (credits : Table Nat),
        kept = q.kept.filter (fun k => decide (1024 ≤ modSub 12 ack k.seq)) →
        credits = (List.range 5).foldl (fun t vc => t.put 0 vc (lowBits 16 (freed.getD vc 0))) q.freed →
        (∃ t, exec (.ctlIdle port ack freed) s = .next t ∧ t = { s with ports := t.ports } ∧
          t.port port = { q with kept := kept, freed := credits } ∧ ∀ j, j ≠ port → t.port j = s.port j) ∧
        (exec (.recal port ack n) s = .next { s with ports := s.ports.put {} port { q with kept := kept } }) ∧
        (q.pause = true → ∃ t, exec (.ctlNak port ack freed) s = .next t ∧ t = { s with ports := t.ports } ∧
          t.port port = { q with freed := credits, heldNak := some ack } ∧ ∀ j, j ≠ port → t.port j = s.port j) ∧
        (q.pause = false → q.txChange.isSome = true → ∃ t, exec (.ctlNak port ack freed) s = .next t ∧ t = { s with ports := t.ports } ∧
          t.port port = { q with freed := credits, kept := kept } ∧ ∀ j, j ≠ port → t.port j = s.port j) ∧
        (q.pause = false → q.txChange = none → ∃ t, exec (.ctlNak port ack freed) s = .next t ∧
          t = { s with
            ports := t.ports, sent := s.sent ++ kept.map (fun k => .flit port k.seq q.ack (frameOf (flitBytes k.parcel k.seq q.ack))) } ∧
          t.port port = { q with freed := credits, kept := kept, replays := satAdd 32 q.replays 1 } ∧
          ∀ j, j ≠ port → t.port j = s.port j) ∧
        (q.pause = false → ∀ m, m = ack &&& (match q.txChange with | some k => k.mask | none => q.goodTx) → widthFor port m ≠ 0 →
          ∃ t, exec (.laneChange port n ack 0 false) s = .next t ∧ t = { s with ports := t.ports, sent := s.sent ++ [.ctl port 2 q.ack
            ([0#8] ++ leBytes 2 m ++ leBytes 1 (widthFor port m) ++ leBytes 1 1)] } ∧
            (t.port port).txChange = some { mask := m, both := true } ∧ ∀ j, j ≠ port → t.port j = s.port j) ∧
        (q.pause = true → ∀ answer, ∃ t, exec (.laneChange port ack n 0 answer) s = .next t ∧ t = { s with ports := t.ports } ∧
          t.port port = { q with kept := kept, heldChange := q.heldChange ++ [(n, answer)] } ∧ ∀ j, j ≠ port → t.port j = s.port j) ∧
        (q.pause = false → ∀ k, q.rxChange = some k → widthFor port (k.mask &&& ack) ≠ 0 → ∃ t, exec (.laneChange port n ack 0 true) s = .next t ∧
          t = { s with ports := t.ports } ∧ (t.port port).rxChange = some { mask := k.mask &&& ack, both := true } ∧
          ∀ j, j ≠ port → t.port j = s.port j) ∧
        (q.rxChange = none → q.txChange = none → exec (.reframeDone port) s = .next s) ∧
        (q.pause = true → ∀ k, q.rxChange = none → q.txChange = some k → ∃ t, exec (.reframeDone port) s = .next t ∧
          (t.port port).txW = widthFor port k.mask ∧ (t.port port).txChange = none ∧ (t.port port).resendOwed = true ∧
          (t.port port).kept = q.kept) ∧
        (q.pause = false → ∀ k, q.rxChange = none → q.txChange = some k → ∃ t, exec (.reframeDone port) s = .next t ∧
          t = { s with ports := t.ports, pad := t.pad, flash := t.flash, fns := t.fns, sent := t.sent } ∧
          t.port port = { q with
            txW := widthFor port k.mask, txLanes := lanesFor port k.mask, goodTx := k.mask, txChange := none
            degrades := satAdd 32 q.degrades (b2n (decide (q.txW ≠ widthFor port k.mask))) } ∧
          (∀ f ∈ q.kept, .flit port f.seq q.ack (frameOf (flitBytes f.parcel f.seq q.ack)) ∈ t.sent) ∧
          t.pad = (s.recorded 0x4001 3 (0xC20 + port) 0 (widthFor port k.mask) k.mask none).pad) ∧
        (∀ k, q.rxChange = some k → k.both = true → q.txChange = none → ∃ t, exec (.reframeDone port) s = .next t ∧
          t = { s with ports := t.ports, pad := t.pad, flash := t.flash, fns := t.fns, sent := t.sent } ∧
          t.port port = { q with
            rxW := widthFor port k.mask, rxLanes := lanesFor port k.mask, goodRx := k.mask, rxChange := none
            degrades := satAdd 32 q.degrades (b2n (decide (q.rxW ≠ widthFor port k.mask))) }) ∧
        (q.pause = false → exec (.recalPauseEnd port n) s = .next s) ∧
        (q.pause = true → q.heldChange = [] → q.heldNak = none →
          (q.resendOwed = false → exec (.recalPauseEnd port n) s = .next
            { s with ports := s.ports.put {} port { q with pause := false, forced := false, delay := lowBits 32 n } }) ∧
          (q.resendOwed = true → q.txChange = none → exec (.recalPauseEnd port n) s = .next { s with
            ports := s.ports.put {} port { q with pause := false, forced := false, delay := lowBits 32 n, resendOwed := false }
            sent := s.sent ++ q.kept.map (fun k => .flit port k.seq q.ack (frameOf (flitBytes k.parcel k.seq q.ack))) }))) ∧
      (q.nakFor ≠ some q.x ∨ q.rxChange.isSome = true → exec (.nakRetry port) s = .next s) ∧
      (q.nakFor = some q.x → q.rxChange = none →
        (q.naks < 7 → ∃ t, exec (.nakRetry port) s = .next t ∧
          t = { s with ports := t.ports, sent := s.sent ++ [.ctl port 1 q.ack ([0#8] ++ q.freedBytes)] } ∧
          t.port port = { q with naks := q.naks + 1, told := q.released, unacked := false } ∧ ∀ j, j ≠ port → t.port j = s.port j) ∧
        (7 ≤ q.naks → q.worstLane < laneCount port → bit q.goodRx q.worstLane = true →
          ∀ good, good = q.goodRx - (q.goodRx &&& 2 ^ q.worstLane) → widthFor port good ≠ 0 → ∃ t, exec (.nakRetry port) s = .next t ∧
          t = { s with ports := t.ports, sent := s.sent ++ [.ctl port 1 q.ack ([0#8] ++ q.freedBytes),
            .ctl port 2 q.ack ([0#8] ++ leBytes 2 good ++ leBytes 1 (widthFor port good) ++ leBytes 1 0)] } ∧
          t.port port = { q with
            naks := 0, told := q.released, unacked := false, goodRx := good, rxChange := some { mask := good, both := false } } ∧
          ∀ j, j ≠ port → t.port j = s.port j)) ∧
      exec (.idleTimer port) s = .next
        (if q.unacked = true ∨ q.released ≠ q.told then
          { s with ports := s.ports.put {} port { q with told := q.released, unacked := false } }.sending
            (.ctl port 0 q.ack ([0#8] ++ q.freedBytes))
        else s) ∧
      (q.kept = [] ∨ q.txChange.isSome = true ∨ q.pause = true → exec (.ackTimeout port) s = .next s) ∧
      (q.kept ≠ [] → q.txChange = none → q.pause = false → exec (.ackTimeout port) s = .next { s with
        ports := s.ports.put {} port { q with replays := satAdd 32 q.replays 1 }
        sent := s.sent ++ q.kept.map (fun k => .flit port k.seq q.ack (frameOf (flitBytes k.parcel k.seq q.ack))) }) ∧
      (∀ lane, laneCount port ≤ lane ∨ bit q.goodRx lane = false → exec (.laneBad port lane) s = .next s) ∧
      (∀ lane good m, lane < laneCount port → bit q.goodRx lane = true → good = q.goodRx - (q.goodRx &&& 2 ^ lane) →
        m = good &&& (match q.rxChange with | some k => k.mask | none => good) →
        (widthFor port m ≠ 0 → exec (.laneBad port lane) s = .next
          ({ s with ports := s.ports.put {} port { q with goodRx := good, rxChange := some { mask := m, both := false }, naks := 0 } }.sending
            (.ctl port 2 q.ack ([0#8] ++ leBytes 2 m ++ leBytes 1 (widthFor port m) ++ leBytes 1 0)))) ∧
        (widthFor port m = 0 → ∃ t, exec (.laneBad port lane) s = .next t ∧ (t.port port).st = 4 ∧ (t.port port).txW = 0 ∧
          (t.port port).rxW = 0)) ∧
      (q.pause = true → exec (.recalDue port) s = .next s) ∧
      (q.pause = false → ∀ free, free = s.windows.any (fun v => v.region.isNone && bit v.kinds 3 && decide (v.start ≤ s.now) &&
          decide (s.now < v.stop)) → exec (.recalDue port) s = .next
        (if free || !anyTurn s || q.recalOwed then
          { s with ports := s.ports.put {} port { q with pause := true, forced := !free && anyTurn s, recalOwed := false } }.sending
            (.ctl port 6 q.ack ([0#8] ++ leBytes 2 1500))
        else { s with ports := s.ports.put {} port { q with recalOwed := true } })) ∧
      (q.kept = [] → exec (.ackStall port) s = .next s) ∧
      (q.rxChange = none → q.txChange = none → exec (.reframeTimeout port) s = .next s) ∧
      ∀ (i : Instr) (cause : Nat) (body : HelloBody),
        (i = .reframeTimeout port ∧ cause = 2 ∧ (q.rxChange.isSome = true ∨ q.txChange.isSome = true)) ∨
          (i = .ackStall port ∧ cause = 3 ∧ q.kept ≠ []) ∨ (i = .signalLoss port ∧ cause = 4) ∨ (i = .hello port body ∧ cause = 5) →
        ∃ t, exec i s = .next t ∧ (t.port port).st = 4 ∧ (t.port port).txW = 0 ∧ (t.port port).rxW = 0 ∧ (t.port port).kept = [] ∧
          (t.port port).barred = true ∧ t.mem = s.mem ∧
          (∀ at_, s.form.form = 2 → behind s port = some at_ → .closing (.lost at_ 0 s.here) ∈ t.sent) ∧
          (q.txq = [] → t.pad = (s.recorded 0x4002 4 (0xC20 + port) cause 0 0 none).pad ∧ ∀ j, j ≠ port → t.port j = s.port j))

/-- Training (R382–R384, R386): each step leads to the next; no signal makes an EDGE; a HELLO sets the width to that of the lanes good on both
sides; a HELLO from the wrong port leaves the port DOWN; too few lanes leave it DOWN, or in the state it had before a renewed training; after the
last step it is UP with its numbers at 0, a partner in the wrong slot is recorded, and one found again is told to the Banker. A port that is LOST
or EDGE trains again once signal returns after quiet. (SLOT_MISMATCH stays set once it is: the model's choice, log entry 40.) -/
def Obligations.PortsTrain : Prop :=
  ∀ (s : State) (port : Nat) (q : Port), q = s.port port →
    (q.st ≠ 1 → (∀ r, exec (.trainStepDone port r) s = .next s) ∧ exec (.trainTimeout port) s = .next s) ∧
    (q.st ≠ 2 → q.st ≠ 1 ∨ q.step ≠ 5 → ∀ b, exec (.hello port b) s = .next s) ∧
    (q.st = 1 → ∀ r : TrainResult,
      (q.step = 1 → r.signal = true → exec (.trainStepDone port r) s = .next { s with ports := s.ports.put {} port { q with step := 2 } }) ∧
      (q.step = 1 → r.signal = false → ∃ t, exec (.trainStepDone port r) s = .next t ∧ t = { s with ports := t.ports, boot := t.boot } ∧
        t.port port = { q with st := q.prior.getD 3, prior := none, step := 0, quiet := false } ∧ ∀ j, j ≠ port → t.port j = s.port j) ∧
      (q.step = 2 → exec (.trainStepDone port r) s = .next { s with ports := s.ports.put {} port { q with step := 3 } }) ∧
      (q.step = 3 → ∀ m, m = lowBits (laneCount port) r.good →
        (widthFor port m = 0 → ∃ t, exec (.trainStepDone port r) s = .next t ∧ t = { s with ports := t.ports, boot := t.boot } ∧
          t.port port = { q with st := q.prior.getD 0, prior := none, step := 0, quiet := false } ∧ ∀ j, j ≠ port → t.port j = s.port j) ∧
        (widthFor port m ≠ 0 → ∃ t body, exec (.trainStepDone port r) s = .next t ∧
          t = { s with ports := t.ports, sent := s.sent ++ [.ctl port 3 q.ack body] } ∧
          t.port port = { q with
            step := 5, txW := widthFor port m, rxW := widthFor port m, txLanes := lanesFor port m, rxLanes := lanesFor port m
            goodTx := m, goodRx := m, pValid := false } ∧
          (∀ j, j ≠ port → t.port j = s.port j) ∧ body.take 2 = [0#8] ++ leBytes 1 port ∧
          body.drop 8 = leBytes 8 Config.serial ++ leBytes 2 0x0200 ++ leBytes 2 m)) ∧
      (q.step = 5 → exec (.trainStepDone port r) s = .next
        (if q.pValid then { s with ports := s.ports.put {} port { q with step := 6 } } else s)) ∧
      (q.step = 6 → q.txq = [] → ∀ fits, fits = (decide (4 ≤ port) || slotFits s.pins.slot port q.pSlot) →
        ∃ t, exec (.trainStepDone port r) s = .next t ∧
        t.port port = { q with
          delay := r.delay, st := 2, prior := none, step := 0, seqNext := 0, x := 0, kept := [], sent := [], freed := [], released := []
          told := [], unacked := false, nakFor := none, naks := 0, corrected := [], lastVc := [], waited := []
          slotMismatch := q.slotMismatch || !fits, barred := q.barred && anyTurn s } ∧
        (∀ j, j ≠ port → t.port j = s.port j) ∧
        (fits = false → t.pad = (s.recorded 0x4003 3 (0xC20 + port) q.pPort q.pSlot 0 none).pad) ∧
        (fits = true → t = { s with ports := t.ports, boot := t.boot, sent := t.sent } ∧
          (q.prior = none ∨ s.form.form ≠ 2 → t.sent = s.sent) ∧
          (q.prior ≠ none → s.form.form = 2 → ∃ p : PkgReport, p.serial = q.pSerial ∧ p.slot = q.pSlot ∧ p.delaySum = r.delay ∧
            t.sent = s.sent ++ [.control (.joined s.here port p)]))) ∧
      (∃ t, exec (.trainTimeout port) s = .next t ∧ t = { s with ports := t.ports, boot := t.boot } ∧
        t.port port = { q with st := q.prior.getD (if q.step ≤ 1 then 3 else 0), prior := none, step := 0, quiet := false } ∧
        ∀ j, j ≠ port → t.port j = s.port j) ∧
      (q.step = 5 → ∀ (b : HelloBody) (m wd : Nat) (paired : Port), m = q.goodRx &&& b.goodLanes → wd = widthFor port m →
          paired = { q with
            pPort := b.port, pSlot := b.slot, pValid := true, pSerial := b.serial, pStraps := b.straps, txW := wd, rxW := wd
            txLanes := lanesFor port m, rxLanes := lanesFor port m, goodTx := m, goodRx := m } →
        (b.port ≠ (if portUp port then port + 1 else port - 1) → ∃ t, exec (.hello port b) s = .next t ∧
          (t.port port).st = 0 ∧ (t.port port).step = 0 ∧ t.pad = (s.recorded 0x4003 3 (0xC20 + port) b.port b.slot 0 none).pad) ∧
        (b.port = (if portUp port then port + 1 else port - 1) →
          (wd = 0 → ∃ t, exec (.hello port b) s = .next t ∧ t = { s with ports := t.ports, boot := t.boot } ∧
            t.port port = { paired with st := q.prior.getD 0, prior := none, step := 0, quiet := false } ∧
            ∀ j, j ≠ port → t.port j = s.port j) ∧
          (wd ≠ 0 → ∃ t, exec (.hello port b) s = .next t ∧ t = { s with ports := t.ports } ∧ t.port port = { paired with step := 6 } ∧
            ∀ j, j ≠ port → t.port j = s.port j)))) ∧
    exec (.signalQuiet port) s = .next
      (if q.st = 3 ∨ q.st = 4 then { s with ports := s.ports.put {} port { q with quiet := true } } else s) ∧
    ∀ lanes, exec (.signalDetect port lanes) s = .next
      (if (q.st = 3 ∨ q.st = 4) ∧ q.quiet = true ∧ (if port < 4 then 4 else 2) ≤ lanes then
        { s with ports := s.ports.put {} port { q with prior := some q.st, st := 1, step := 1, quiet := false } }
      else s)

/-! ### Time, power and boot (R65–R67, R402, R412–R415, R492, R523, R531–R565) -/

/-- Fabric time (R402, R411–R415, R492, R523): a tick adds 40 ns, or one more or less while the clock slews, and a formed package says it is alive every
100 µs; the 40 ns of each tile of an open context whose region does not run go to one cause, or to ACTIVE; a probe goes to the time parent,
acknowledges flits, is answered with the times of receipt and reply, and the answer gives delay and offset by the halves of the sums; no reply for 10 ms is HOLDOVER, a second within 4 ns is LOCKED. (The times between ticks are free: the model's choice, log
entry 4.) -/
def Obligations.TimeFollowsItsParent : Prop :=
  (∀ s : State,
    (clockRuns s = false → exec .refclkTick s = .next s) ∧
    (clockRuns s = true → ∃ t, exec .refclkTick s = .next t ∧ t.time = s.time.tick ∧ t.time.interp = 0 ∧
      (s.time.slew = 0 ∨ s.time.slewTicks < 249 → t.time.count = (s.time.count + 40) % 2 ^ 64) ∧
      (0 < s.time.slew → 249 ≤ s.time.slewTicks → t.time.count = (s.time.count + 41) % 2 ^ 64 ∧ t.time.slew = s.time.slew - 1) ∧
      (s.time.slew < 0 → 249 ≤ s.time.slewTicks → t.time.count = (s.time.count + 39) % 2 ^ 64 ∧ t.time.slew = s.time.slew + 1) ∧
      ((∀ k, k < 12 → (s.stack k).marked = []) →
        t = { s with time := t.time, tiles := t.tiles, idleNs := t.idleNs, ctxs := t.ctxs, sent := t.sent } ∧
        t.sent = s.sent ++
          (if s.form.form = 2 ∧ t.time.count / 100000 ≠ s.time.count / 100000 then [.closing (.alive s.here)] else []) ∧
        ((∀ c, c < 16 → (s.ctx c).st = .closed) → t.idleNs = s.idleNs ∧ t.tiles = s.tiles ∧ t.ctxs = s.ctxs)) ∧
      ∀ c n, c < 16 → (s.ctx c).st ≠ .closed → n ∈ ctxTiles (s.ctx c) → (s.region (n / 11)).pwr ≠ .run →
        ∃ i, i ≤ 10 ∧ t.idleNs.get 0 (idleKey c n i) = wrapAdd 64 (s.idleNs.get 0 (idleKey c n i)) 40 ∧
          ∀ j, j < 16 → j ≠ i → t.idleNs.get 0 (idleKey c n j) = s.idleNs.get 0 (idleKey c n j))) ∧
  (∀ s : State,
    (s.form.form ≠ 2 ∨ s.time.root = true ∨ parentPort s = none → exec .delayProbeTimer s = .next s) ∧
    ∀ port, s.form.form = 2 → s.time.root = false → parentPort s = some port →
      ∃ t, exec .delayProbeTimer s = .next t ∧ t = { s with time := t.time, free := s.free + 1, sent := t.sent } ∧
        t.sent = s.sent ++ [.ctl port 4 (s.port port).ack (delayBody s.form.epoch t.now 0 0 0)] ∧
        t.time.interp ≤ 39 ∧ (s.time.interp ≤ 39 → s.time.interp ≤ t.time.interp) ∧
        (s.time.parent = port → t.time = { s.time with interp := t.time.interp }) ∧
        (s.time.parent ≠ port → t.time = { s.time with parent := port, state := 1, goodSince := none, interp := t.time.interp })) ∧
  (∀ (s u : State) (port epoch t1 ack : Nat), (s.port port).txq = [] →
      u = (if (s.port port).st = 2 then
          { s with ports := s.ports.put {} port { s.port port with
            kept := (s.port port).kept.filter (fun k => decide (1024 ≤ modSub 12 ack k.seq)) } }
        else s) →
    ((s.port port).st ≠ 2 ∨ epochAbove s.form.epoch epoch = true → exec (.delayProbe port epoch t1 ack) s = .next u) ∧
    ((s.port port).st = 2 → epochAbove s.form.epoch epoch = false → ∃ t k, exec (.delayProbe port epoch t1 ack) s = .next t ∧
      t = { u with time := { s.time with interp := t.time.interp }, free := s.free + 2, sent := t.sent } ∧
      t.sent = s.sent ++ [.ctl port 5 (s.port port).ack
        (delayBody s.form.epoch t1 ((s.time.count + k) % 2 ^ 64) t.now s.time.hops)] ∧
      k ≤ t.time.interp ∧ t.time.interp ≤ 39 ∧ (s.time.interp ≤ 39 → s.time.interp ≤ k)) ∧
    ∀ t2 t3 hops,
    (s.form.form ≠ 2 ∨ s.time.root = true ∨ s.time.parent ≠ port ∨ epochAbove s.form.epoch epoch = true →
      exec (.delayReply port epoch t1 t2 t3 hops ack) s = .next u) ∧
    (s.form.form = 2 → s.time.root = false → s.time.parent = port → epochAbove s.form.epoch epoch = false →
      ∃ t t4, exec (.delayReply port epoch t1 t2 t3 hops ack) s = .next t ∧ t4 = t.now ∧
        t = { u with time := t.time, free := s.free + 1 } ∧ t.time.count = s.time.count ∧
        t.time.parentDelay = (timeDiff t4 t1 - timeDiff t3 t2).tdiv 2 ∧ t.time.offset = (timeDiff t2 t1 - timeDiff t4 t3).tdiv 2 ∧
        t.time.slew = t.time.offset ∧ t.time.hops = hops + 1 ∧ t.time.lastReply = t4 ∧
        (t.time.offset < -4 ∨ 4 < t.time.offset → t.time.goodSince = none) ∧
        (-4 ≤ t.time.offset → t.time.offset ≤ 4 → t.time.goodSince = some (s.time.goodSince.getD t4)) ∧
        t.time.state = (if s.time.state = 3 then 1 else s.time.state))) ∧
  ∀ s : State,
    (s.form.form ≠ 2 ∨ s.time.root = true ∨ (s.time.state ≠ 1 ∧ s.time.state ≠ 2) ∨ s.now < s.time.lastReply + 10000000 →
      exec .timeHoldover s = .next s) ∧
    (s.form.form = 2 → s.time.root = false → s.time.state = 1 ∨ s.time.state = 2 → s.time.lastReply + 10000000 ≤ s.now →
      ∃ t, exec .timeHoldover s = .next t ∧ t = { s with time := t.time, pad := t.pad, flash := t.flash, fns := t.fns, sent := t.sent } ∧
        t.time = { s.time with state := 3, goodSince := none, slew := 0 } ∧
        t.pad = (s.recorded 0x4006 3 0xC00 s.time.parent 0 0 none).pad) ∧
    (s.time.goodSince = none ∨ s.time.state ≠ 1 → exec .timeLock s = .next s) ∧
    ∀ g, s.time.goodSince = some g → s.time.state = 1 → exec .timeLock s = .next
      (if g + 1000000000 ≤ s.now then { s with time := { s.time with state := 2 } } else s)

/-- Regions, clocks and limits (R65–R67, R164, R172, R531, R534–R541): entries and wakes end as they were asked for; a region's row caches are empty after off; a head that
could issue, or a packet, wakes a region, its clock ramps up, and the packets that waited for it go in (how long another region's ramp holds it
is a free value, log entry 38); a waiting clock step goes on when the voltage has settled; current, power and temperature above their limits step the clocks down by 50 MHz, not below
600, and let them rise again; 5 µs above 4,600 A, or a sensor at its trip point, trip the package. -/
def Obligations.PowerFollowsItsSamples : Prop :=
  (∀ (s : State) (r : Nat) (g : Region), g = s.region r →
    (g.entering = none → exec (.regionEntryDone r) s = .next s) ∧
    (∀ p, g.entering = some p → g.wakeNext = none → ∃ t, exec (.regionEntryDone r) s = .next t ∧
      t = { s with regions := t.regions, tiles := t.tiles, phys := t.phys } ∧
      t.region r = { g with
        pwr := p, entering := none, mhz := 0, pendMhz := none
        downSince := if g.pwr = .sleep ∨ g.pwr = .off then g.downSince else s.now } ∧
      (∀ j, j ≠ r → t.region j = s.region j) ∧ (p ≠ .off → t.phys = s.phys) ∧
      (p = .off → ∀ i, i < 12 → t.ph (meshOf r i) = { s.ph (meshOf r i) with rc := [] }) ∧
      (∀ m, (∀ i, i < 12 → m ≠ meshOf r i) → t.ph m = s.ph m) ∧
      ∀ n, t.tile n = { s.tile n with traceq := (t.tile n).traceq, traceDropped := (t.tile n).traceDropped }) ∧
    (∀ p, g.entering = some p → p ≠ .run → g.wakeNext = some .run → ∃ t, exec (.regionEntryDone r) s = .next t ∧
      (t.region r).pwr = p ∧ (t.region r).entering = none ∧ (t.region r).waking = some .run ∧ (t.region r).wakeNext = none ∧
      (t.region r).lead = wakeNs p .run) ∧
    ((g.pwr = .run ∧ g.want = none ∧ g.entering = none) ∨ (wantsWake s r = false ∧ g.ingress = []) → exec (.demandWake r) s = .next s) ∧
    (wantsWake s r = true ∨ g.ingress ≠ [] → g.pwr ≠ .run → g.entering = none → g.waking = none → g.wakeNext = none →
      exec (.demandWake r) s = .next
        { s with regions := s.regions.put {} r { g with
          demand := satAdd 32 g.demand 1, ramp := 20, waking := some .run, lead := wakeNs g.pwr .run } }) ∧
    (g.waking ≠ some .run → exec (.regionWakeDone r) s = .next s) ∧
    (g.waking = some .run → g.want = none → ∀ (others : Bool) (v : Nat),
        others = (List.range 12).any (fun q => decide (q ≠ r) && decide (s.now < (s.region q).rampEnd)) →
        v = (if others then Config.freeValue s.free else 0) →
      (g.ingress = [] → ∃ t, exec (.regionWakeDone r) s = .next t ∧
        t = { s with
          regions := t.regions
          tiles := t.tiles
          free := if others then s.free + 1 else s.free
          power := { s.power with vcoreMhz := Nat.max s.power.vcoreMhz (allowedMhz s g) } } ∧
        t.region r = { g with
          pwr := .run, waking := none, lead := 0, mhz := allowedMhz s g, lastStep := s.now, rampFrom := s.now
          rampEnd := s.now + g.ramp * 50 + v, holdUntil := if others then s.now + v else 0 } ∧
        (∀ j, j ≠ r → t.region j = s.region j) ∧
        ∀ n, t.tile n = { s.tile n with traceq := (t.tile n).traceq, traceDropped := (t.tile n).traceDropped }) ∧
      ∀ (p : Parcel) (c : Nat), g.ingress = [(p, [])] → p.pkt.type = 0 → g.entering = none → jobCtx s p.tag.job = some c →
        allocated (s.ctx c) p.pkt.addr (Nat.max 1 p.pkt.len) = true → current s c p.tag = true → targetRegion 0 p.pkt = some r →
        inOneWindow p.pkt.addr p.pkt.payload.length = true → s.memOk = true →
        ∃ t, exec (.regionWakeDone r) s = .next t ∧ (t.region r).pwr = .run ∧ (t.region r).ingress = [] ∧
          (∀ i, i < p.pkt.payload.length → t.byteAt (p.pkt.addr + i) = p.pkt.payload.getD i 0) ∧
          t.arrivals = s.arrivals ++ (if p.pkt.sig then [(p.pkt.sigTile, p.pkt.sigTally)] else [])) ∧
    (g.waking = none ∨ g.waking = some .run → exec (.partialWakeDone r) s = .next s) ∧
    (∀ p, g.waking = some p → p ≠ .run → g.wakeNext = none → ∃ t, exec (.partialWakeDone r) s = .next t ∧
      t = { s with regions := s.regions.put {} r { g with pwr := p, waking := none, lead := 0 }, tiles := t.tiles } ∧
      ∀ n, t.tile n = { s.tile n with traceq := (t.tile n).traceq, traceDropped := (t.tile n).traceDropped }) ∧
    (g.pendMhz = none → exec (.voltageSettled r) s = .next s) ∧
    ∀ m, g.pendMhz = some m → exec (.voltageSettled r) s = .next { s with
      regions := s.regions.put {} r { g with pendMhz := none, mhz := Nat.min m (allowedMhz s g), lastStep := s.now }
      power := { s.power with vcoreMhz := Nat.max s.power.vcoreMhz m } }) ∧
  (∀ (s : State) (amps avg10 avg1 mv : Nat),
    (∃ t, exec (.currentSample amps avg10 avg1 true mv) s = .next t ∧ t.power.tripped = true ∧
      t.pad = (s.recorded 0x9004 6 0xC00 amps 0 0 none).pad ∧
      (s.power.tripped = false → t.pins.thermTrip = true ∧ t.boot.stage = 7 ∧ t.boot.level = 1 ∧ t.boot.host = false ∧
        (∀ r, r < 12 → (t.region r).pwr = .off ∧ (t.region r).mhz = 0 ∧ ∀ i, i < 12 → (t.ph (meshOf r i)).rc = []) ∧
        (∀ p, p < 6 → (t.port p).st = 0) ∧
        (∀ k, k < 12 → (t.stack k).st = (if (s.stack k).st = 1 then 2 else (s.stack k).st) ∧ (t.core k).released = false) ∧
        ∀ n, n < 132 → (t.tile n).stopped = true)) ∧
    (∃ t, exec (.currentSample amps avg10 avg1 false mv) s = .next t ∧ t = { s with power := t.power, regions := t.regions } ∧
      t.power.amps = lowBits 13 avg1 ∧ t.power.mv = lowBits 11 mv ∧
      (3600 < avg10 ∨ 4200 < avg1 → s.power.lastCur + 10000 ≤ s.now →
        t.power.curMhz = Nat.max 600 (s.power.curMhz - 50) ∧ t.power.curActive = true ∧ t.power.lastCur = s.now) ∧
      (avg10 ≤ 3600 → avg1 ≤ 4200 → s.power.curMhz < 1800 → s.power.lastCur + 1000000 ≤ s.now →
        t.power.curMhz = s.power.curMhz + 50 ∧ t.power.lastCur = s.now) ∧
      (avg10 ≤ 3600 → avg1 ≤ 4200 → 1800 ≤ s.power.curMhz ∨ s.now < s.power.lastCur + 1000000 → t.power.curMhz = s.power.curMhz) ∧
      ∀ r, r < 12 → (s.region r).pwr ≠ .run → t.region r = { s.region r with issueHeld := false })) ∧
  (∀ (s : State) (watts : Nat),
    (s.power.capW < watts → ∃ t, exec (.powerCapCheck watts) s = .next t ∧
      t = { s with power := t.power, regions := t.regions, pad := t.pad, flash := t.flash, fns := t.fns, sent := t.sent } ∧
      t.power.powerW = lowBits 12 watts ∧ t.power.capMhz = Nat.max 600 (s.power.capMhz - 50) ∧ t.power.capActive = true ∧
      t.pad = (s.recorded 0x9001 2 0xC00 (runMask s) (Nat.max 600 (s.power.capMhz - 50)) 0 none).pad) ∧
    (watts ≤ s.power.capW → ∃ t, exec (.powerCapCheck watts) s = .next t ∧ t = { s with power := t.power, regions := t.regions } ∧
      t.power.powerW = lowBits 12 watts ∧
      t.power.capMhz = (if watts * 100 < s.power.capW * 97 ∧ s.power.capMhz < 1800 then s.power.capMhz + 50 else s.power.capMhz) ∧
      ∀ r, r < 12 → (t.region r).issueHeld = false)) ∧
  ∀ (s : State) (sensor tenths : Nat),
    ((sensor ≤ 12 ∧ 1150 ≤ tenths) ∨ (12 < sensor ∧ 1050 ≤ tenths) → ∃ t, exec (.thermalSample sensor tenths) s = .next t ∧
      t.power.tripped = true ∧ t.pad = (s.recorded 0x9003 6 0xC00 sensor tenths 0 none).pad) ∧
    (tenths < 1150 → sensor < 12 → ∃ t, exec (.thermalSample sensor tenths) s = .next t ∧
      t = { s with regions := t.regions, power := t.power } ∧ (t.region sensor).temp = lowBits 12 tenths ∧
      (∀ r, r ≠ sensor → t.region r = s.region r) ∧
      (1000 ≤ tenths ∨ 950 < s.power.stackTemp.get 0 sensor → (s.region sensor).lastHot = 0 ∨ (s.region sensor).lastHot + 100000 ≤ s.now →
        (t.region sensor).thermMhz = Nat.max 600 ((s.region sensor).thermMhz - 50)) ∧
      (tenths < 970 → s.power.stackTemp.get 0 sensor ≤ 950 → (s.region sensor).thermMhz < 1800 →
        (s.region sensor).lastCool + 1000000 ≤ s.now → (t.region sensor).thermMhz = (s.region sensor).thermMhz + 50) ∧
      (970 ≤ tenths → tenths < 1000 → s.power.stackTemp.get 0 sensor ≤ 950 → (t.region sensor).thermMhz = (s.region sensor).thermMhz)) ∧
    (tenths < 1150 → exec (.thermalSample 12 tenths) s = .next { s with power := { s.power with hubTemp := lowBits 12 tenths } }) ∧
    (tenths < 1050 → ∀ k, k < 12 → ∃ t, exec (.thermalSample (13 + k) tenths) s = .next t ∧
      t = { s with regions := t.regions, power := t.power, hbm := t.hbm } ∧ t.power.stackTemp.get 0 k = tenths ∧
      t.stack k = { s.stack k with hot := decide (850 < tenths) } ∧ (∀ j, j ≠ k → t.stack j = s.stack j ∧ t.region j = s.region j) ∧
      (950 < tenths → (s.region k).lastHot = 0 ∨ (s.region k).lastHot + 100000 ≤ s.now →
        (t.region k).thermMhz = Nat.max 600 ((s.region k).thermMhz - 50)))

/-- The reset inputs and the rails (R336, R503, R507, R542, R543, R565, R569): AON_RESET_N, a fall of V_AON and the loss of VIO18 put all but
SPI flash at its reset state; PWR_GOOD low, an undervoltage and PKG_RESET_N put all but the always-on domain there; memory reads zero
after any of them; a line that is low already changes nothing. (What memory reads is the model's choice, log entry 5.) -/
def Obligations.ResetInputsReset : Prop :=
  (∀ (s : State) (c : Instr) (cause : Nat) (p : Pins), ((c = .aonResetN ∧ s.pins.aonN = true ∧ cause = 2 ∧ p = s.pins) ∨
      (c = .vaonFall ∧ s.pins.vaon = true ∧ cause = 1 ∧ p = { s.pins with vaon := false, pwrGood := false }) ∨
      (c = .vio18Loss ∧ s.pins.vio18 = true ∧ s.pins.aonN = true ∧ cause = 2 ∧ p = { s.pins with vio18 := false })) →
    ∃ t, exec c s = .next t ∧
      t = { State.reset with
        pending := s.pending
        sent := s.sent
        free := s.free
        mem := t.mem
        poison := t.poison
        host := s.host
        flash := t.flash
        hbm := t.hbm
        pins := { p with aonN := false, thermTrip := false }
        boot := { nextCause := s.boot.nextCause ||| cause } } ∧
      t.flash = { s.flash with suspects := t.flash.suspects } ∧
      t.flash.suspects.map (fun x => (x.unit, x.since + (s.now : Int), x.passed)) = s.flash.suspects.map (fun x => (x.unit, x.since, x.passed)) ∧
      (∀ k, k < 12 → t.stack k =
        { badSpares := (s.stack k).badSpares, lanes := Nat.min 255 (s.flash.hbmLanes.filter (fun e => e.1 = k)).length }) ∧
      ∀ a, a < 2 ^ 45 → t.byteAt a = 0 ∧ t.poison.get false a = false) ∧
  (∀ (s : State) (c : Instr) (cause : Nat) (p : Pins), s.pins.aonN = true →
      ((c = .pwrGoodLow ∧ s.pins.pwrGood = true ∧ cause = 1 ∧ p = { s.pins with pwrGood := false }) ∨
      (c = .vcoreUnder ∧ s.pins.pwrGood = true ∧ cause = 1 ∧ p = { s.pins with pwrGood := false }) ∨
      (c = .pkgResetN ∧ s.pins.pkgN = true ∧ cause = 4 ∧ p = { s.pins with pkgN := false })) →
    ∃ t, exec c s = .next t ∧
      t = { State.reset with
        pending := s.pending
        sent := s.sent
        free := s.free
        mem := t.mem
        poison := t.poison
        host := s.host
        pad := s.pad
        flash := s.flash
        mgt := s.mgt
        hbm := t.hbm
        pins := { p with thermTrip := false }
        time := { count := s.time.count, interp := s.time.interp }
        boot := { s.boot with
          stage := if s.mgt.running then 1 else s.boot.stage
          level := if s.mgt.running then 1 else 0
          nextCause := s.boot.nextCause ||| cause
          hubCopy := 0
          fwReady := false
          host := false
          compute := false
          system := false
          pcieTraining := false
          linkUp := false
          listsApplied := false } } ∧
      (∀ k, k < 12 → t.stack k =
        { badSpares := (s.stack k).badSpares, lanes := Nat.min 255 (s.flash.hbmLanes.filter (fun e => e.1 = k)).length }) ∧
      ∀ a, a < 2 ^ 45 → t.byteAt a = 0 ∧ t.poison.get false a = false) ∧
  ∀ s : State,
    (s.pins.aonN = false → exec .aonResetN s = .next s ∧
      exec .pwrGoodLow s = .next { s with pins := { s.pins with pwrGood := false } } ∧
      exec .vcoreUnder s = .next { s with pins := { s.pins with pwrGood := false } } ∧
      exec .pkgResetN s = .next { s with pins := { s.pins with pkgN := false } } ∧
      exec .vio18Loss s = .next { s with pins := { s.pins with vio18 := false } }) ∧
    (s.pins.vaon = false → exec .vaonFall s = .next s) ∧
    (s.pins.vio18 = false → exec .vio18Loss s = .next s) ∧
    (s.pins.pwrGood = false → exec .pwrGoodLow s = .next s ∧ exec .vcoreUnder s = .next s) ∧
    (s.pins.pkgN = false → exec .pkgResetN s = .next s) ∧
    exec .vio18Return s = .next { s with pins := { s.pins with vio18 := true } }

/-- Boot (R14, R319, R320, R336, R442, R477, R507, R542, R545–R549, R552, R554): the release of AON_RESET_N latches the straps, starts fabric time at
0 and the Scorepad's numbers at the next multiple of 4,096, and runs the first good copy of the management firmware; the hub stage takes tile maps from
the fuses, the factory spare in the place of a tile that failed at manufacture, and begins link training; good hub firmware releases the cores and, with PERST_N high, gives host service; HBM training ends in
a serving, a slow or a dead stack; PERST_N and a function's reset put functions at their reset state. -/
def Obligations.BootGoesInStages : Prop :=
  (∀ (s : State) (x : Straps) (ok0 ok1 : Bool),
    (s.pins.aonN = true ∨ s.pins.vio18 = false → exec (.aonRelease x ok0 ok1) s = .next s) ∧
    (s.pins.aonN = false → s.pins.vio18 = true → ∀ p q b, p = { s.pins with
          bankerEn := x.bankerEn, standbyEn := x.standbyEn, slot := x.slot % 16, legacy := x.legacy, raMode := x.raMode % 4
          aonN := true, vaon := true } →
        q = (match s.flash.seqSaved with | some n => (n + 4096) % 2 ^ 32 | none => 0) → b = (s.flash.bootCount + 1) % 2 ^ 32 →
      (x.raMode % 4 ≠ 0 → exec (.aonRelease x ok0 ok1) s = .next
        { s with pins := p, time := {}, flash := { s.flash with bootCount := b } }) ∧
      (x.raMode % 4 = 0 → ok0 = true → exec (.aonRelease x ok0 ok1) s = .next ({ s with
          pins := p
          time := {}
          flash := { s.flash with bootCount := b, seqSaved := if q % 4096 = 0 then some q else s.flash.seqSaved }
          pad := { s.pad with seq := q }
          mgt := { s.mgt with running := true }
          boot := { s.boot with stage := 1, level := 1, mgtCopy := 0, cause := s.boot.nextCause, nextCause := 0 } }.recorded
        0x0001 1 0xC40 b s.boot.nextCause Config.mgtFwVersion none)) ∧
      (x.raMode % 4 = 0 → ok0 = false → ∃ t, exec (.aonRelease x ok0 ok1) s = .next t ∧
        t = { s with pins := p, time := {}, flash := t.flash, pad := t.pad, mgt := t.mgt, boot := t.boot, sent := t.sent, fns := t.fns } ∧
        t.mgt = { s.mgt with running := s.mgt.running || ok1 } ∧ t.flash.bootCount = b ∧
        t.boot = (if ok1 then { s.boot with stage := 1, level := 1, mgtCopy := 1, cause := s.boot.nextCause, nextCause := 0 }
          else { s.boot with stage := 6, level := 0 })))) ∧
  (∀ (s : State) (x : Straps),
    (s.mgt.running = false ∨ s.boot.stage ≠ 1 → exec (.hubStageStart x) s = .next s) ∧
    (s.mgt.running = true → s.boot.stage = 1 → (∀ u, isRetired s u = false) → ∃ t, exec (.hubStageStart x) s = .next t ∧
      t = { s with
        pins := { s.pins with
          bankerEn := x.bankerEn, standbyEn := x.standbyEn, slot := x.slot % 16, legacy := x.legacy, raMode := x.raMode % 4
          pwrGood := true, pkgN := true }
        fns := t.fns
        sched := t.sched
        boot := t.boot
        regions := t.regions
        hbm := t.hbm
        ports := t.ports
        pad := t.pad
        flash := t.flash
        sent := t.sent } ∧
      t.boot = { s.boot with
        stage := 2, pcieTraining := s.pins.perstN, nextCause := 0
        cause := if s.boot.nextCause = 0 then s.boot.cause else s.boot.nextCause } ∧
      (∀ f, f < 16 → t.fn f = { compat := x.legacy }) ∧ (∀ p, p < 6 → t.port p = { st := 1, step := 1 }) ∧
      (∀ r, r < 12 → t.region r = { s.region r with
        map := (List.range 12).filter (fun i => i ≠ factorySpare s r), spare := factorySpare s r, spareUsed := false }) ∧
      (∀ k, k < 12 → t.stack k = { s.stack k with remap := remapsOf s k }) ∧
      ∀ k, k < 64 → t.thread k = { prio := 24, elig := 0, st := .blocked, event := some k }) ∧
    ∀ r i, s.mgt.running = true → s.boot.stage = 1 → r < 12 → i < 12 → s.flash.failed = [meshOf r i] → s.flash.retired = [] →
      ∃ t, exec (.hubStageStart x) s = .next t ∧
        (∀ q, q < 12 → q ≠ r → t.region q = { s.region q with
          map := (List.range 12).filter (fun i => i ≠ factorySpare s q), spare := factorySpare s q, spareUsed := false }) ∧
        t.region r = { s.region r with
          map := ((List.range 12).filter (fun j => j ≠ factorySpare s r)).map (fun j => if j = i then factorySpare s r else j)
          spare := factorySpare s r, spareUsed := true }) ∧
  (∀ (s : State) (ok0 ok1 : Bool),
    (s.boot.stage ≠ 2 → exec (.hubFirmwareVerified ok0 ok1) s = .next s) ∧
    (s.boot.stage = 2 → ok0 = false → ok1 = false → ∃ t, exec (.hubFirmwareVerified ok0 ok1) s = .next t ∧
      t = { s with pad := t.pad, flash := t.flash, fns := t.fns, sent := t.sent } ∧
      t.pad = ((s.recorded 0x0002 6 0xC40 2 0 0 none).recorded 0x0002 6 0xC40 3 0 0 none).pad) ∧
    (s.boot.stage = 2 → ok0 = true ∨ ok1 = true → ∃ t, exec (.hubFirmwareVerified ok0 ok1) s = .next t ∧
      t = { s with sched := t.sched, boot := t.boot, pad := t.pad, flash := t.flash, fns := t.fns, sent := t.sent } ∧
      (∀ k, k < 12 → t.core k = { s.core k with released := true }) ∧
      (∀ k, 12 ≤ k → t.core k = s.core k) ∧
      t.boot.fwReady = true ∧ t.boot.hubCopy = b2n (!ok0) ∧ 3 ≤ t.boot.stage ∧
      (s.pins.perstN = false → t.boot = { s.boot with stage := 3, hubCopy := b2n (!ok0), fwReady := true }) ∧
      (s.pins.perstN = true → s.boot.host = false → (s.core 0).retired = false → t.boot.host = true ∧ 2 ≤ t.boot.level))) ∧
  (∀ (s : State) (k : Nat) (r : HbmTrain),
    (12 ≤ k ∨ (s.stack k).st ≠ 0 ∨ s.boot.stage < 2 ∨ 5 < s.boot.stage → exec (.hbmTrainingDone k r) s = .next s) ∧
    (k < 12 → (s.stack k).st = 0 → 2 ≤ s.boot.stage → s.boot.stage ≤ 5 → ∃ t n, exec (.hbmTrainingDone k r) s = .next t ∧ n ≤ 255 ∧
      (∀ j, j ≠ k → t.stack j = s.stack j) ∧
      (∀ e, e ∈ t.flash.hbmLanes ↔ e ∈ s.flash.hbmLanes ∨ ∃ l ∈ r.repaired, e = (k, l.1)) ∧
      (s.boot.fwReady = false → t.boot = s.boot) ∧
      (r.outcome = 0 → t = { s with hbm := t.hbm, boot := t.boot, flash := { s.flash with hbmLanes := t.flash.hbmLanes } } ∧
        t.stack k = { s.stack k with st := 1, slow := false, lanes := n, since := s.now, lastReq := s.now }) ∧
      (r.outcome = 1 → t.stack k = { s.stack k with st := 1, slow := true, lanes := n, since := s.now, lastReq := s.now } ∧
        t.pad = (s.recorded 0x3006 3 (0xC10 + k) r.channel 0 0 none).pad) ∧
      (r.outcome ≠ 0 → r.outcome ≠ 1 → t.stack k = { s.stack k with st := 3, lanes := n } ∧ (t.region k).lost = true))) ∧
  (∀ s : State,
    (s.pins.perstN = false → exec .perstN s = .next s) ∧
    (s.pins.perstN = true → ∃ t, exec .perstN s = .next t ∧ t.pins = { s.pins with perstN := false } ∧ t.vfEnable = false ∧
      t.boot.pcieTraining = false ∧ t.boot.linkUp = false ∧
      (s.retiring = [] → ∀ f, f < 16 → t.fn f = { compat := s.pins.legacy } ∧ (t.ctx f).st = .closed ∧
        ∀ i, i < 4 → t.ring (4 * f + i) = {})) ∧
    (s.pins.perstN = true → exec .perstRelease s = .next s) ∧
    (s.pins.perstN = false → ∃ t, exec .perstRelease s = .next t ∧ t = { s with pins := { s.pins with perstN := true }, boot := t.boot } ∧
      t.boot.pcieTraining = (decide (2 ≤ s.boot.stage) && decide (s.boot.stage ≤ 5)) ∧
      (s.boot.fwReady = true → (s.core 0).retired = false → t.boot.host = true) ∧
      (s.boot.fwReady = false → t.boot.host = s.boot.host ∧ t.boot.level = s.boot.level ∧ t.boot.stage = s.boot.stage)) ∧
    exec .pcieLinkUp s = .next
      (if s.boot.pcieTraining = true then { s with boot := { s.boot with pcieTraining := false, linkUp := true } } else s)) ∧
  ∀ (s : State) (f : Nat),
    (16 ≤ f ∨ s.boot.host = false → exec (.flr f) s = .next s) ∧
    (f < 16 → s.boot.host = true → ∃ t, exec (.flr f) s = .next t ∧ (t.fn f).compat = s.pins.legacy ∧
      (f ≠ 0 → t.fn f = { compat := s.pins.legacy } ∧ t.vfEnable = s.vfEnable ∧ ∀ i, i < 4 → t.ring (4 * f + i) = {}) ∧
      (f = 0 → t.vfEnable = false) ∧
      (s.retiring = [] → t.pad = (s.recorded 0x7005 3 (0xC50 + f) f 0 0 none).pad ∧ ∀ g, g = f ∨ (f = 0 ∧ g < 16) →
        t.fn g = { compat := s.pins.legacy } ∧ (t.ctx g).st = .closed ∧ ∀ i, i < 4 → t.ring (4 * g + i) = {}))

/-- Reset (R6, R14, R343, R388, R412, R416, R428, R442, R515, R522, R557, R558): nothing waits, every memory is in canonical form, every 64-bit
counter reads 0, and the registers read as the spec's tables give them: TIME_STATUS 0x38, HUB_SCHED_CFG 0x000A_0014, HUB_PWR_POLICY 0x000A_CC80,
SP_CFG 0x19 with no key in flash, RGN_PWR 3. (Memory and flash, and so the tile maps, are the model's choice: log entries 5 and 1.) -/
def Obligations.ResetGivesTheTablesValues : Prop :=
  State.reset.pending = [] ∧ State.reset.memOk = true ∧ readyReg State.reset = 0 ∧ State.reset.now = 0 ∧
  (∀ c off v, counter64 State.reset c off = some v → v = 0) ∧
  (∀ c, (State.reset.ctx c).st = .closed ∧ ctxStateReg State.reset c = 0) ∧ (∀ d, State.reset.ring d = {}) ∧
  (∀ a, State.reset.byteAt a = 0 ∧ State.reset.poison.get false a = false) ∧
  ∀ c, (∀ off, off < 12 → plainReg State.reset c off = 0) ∧ plainReg State.reset c 0x1008 = 0x38 ∧ plainReg State.reset c 0x100C = 0 ∧
    plainReg State.reset c 0x2000 = 0 ∧ plainReg State.reset c 0x2004 = 0x000A0014 ∧ plainReg State.reset c 0x2008 = 0 ∧
    plainReg State.reset c 0x4000 = 0x000ACC80 ∧ plainReg State.reset c 0x4004 = 0 ∧ plainReg State.reset c 0x4008 = 0 ∧
    plainReg State.reset c 0x400C = 0 ∧ plainReg State.reset c 0x2000000 = 0 ∧ plainReg State.reset c 0x2000010 = 0x19 ∧
    plainReg State.reset c 0x2000014 = 0 ∧
    (∀ r, r < 12 → plainReg State.reset c (0x100400 + 0x1000 * r) = 3 ∧ plainReg State.reset c (0x100404 + 0x1000 * r) = 0 ∧
      plainReg State.reset c (0x100004 + 0x1000 * r) = 0x76543210 ∧ plainReg State.reset c (0x100008 + 0x1000 * r) = 0xA98) ∧
    (∀ k o, k < 12 → o < 0x18 → plainReg State.reset c (0x200000 + 0x1000 * k + o) = 0) ∧
    ∀ p, p < 6 → plainReg State.reset c (0x300000 + 0x1000 * p) = 0
end

