-- ==== Sys2Proof/Laws/Exec.lean ====
section
/-! SUPPORT. Each command is its meaning. -/

namespace Sys2Proof.Machine

theorem exec_nop (h : Hdr) (s : State) :
    exec (.nop h) s = execNop h s := rfl
theorem exec_fence (h : Hdr) (s : State) :
    exec (.fence h) s = execFence h s := rfl
theorem exec_devQuery (h : Hdr) (hostAddr : Nat) (refuse : Option Nat) (s : State) :
    exec (.devQuery h hostAddr refuse) s = execDevQuery h hostAddr refuse s := rfl
theorem exec_ctxOpen (h : Hdr) (job : Nat) (mask : Nat) (slice : Nat) (quota : List Nat) (spread : Nat) (s : State) :
    exec (.ctxOpen h job mask slice quota spread) s = execCtxOpen h job mask slice quota spread s := rfl
theorem exec_ctxClose (h : Hdr) (s : State) :
    exec (.ctxClose h) s = execCtxClose h s := rfl
theorem exec_ctxPolicySet (h : Hdr) (p : Policy) (s : State) :
    exec (.ctxPolicySet h p) s = execCtxPolicySet h p s := rfl
theorem exec_runProgram (h : Hdr) (p : Policy) (program : Nat) (u : List Upset) (s : State) :
    exec (.runProgram h p program u) s = execRunProgram h p program u s := rfl
theorem exec_resume (h : Hdr) (p : Policy) (s : State) :
    exec (.resume h p) s = execResume h p s := rfl
theorem exec_ctxSegRelease (h : Hdr) (index : Nat) (s : State) :
    exec (.ctxSegRelease h index) s = execCtxSegRelease h index s := rfl
theorem exec_ctxSegAllocStack (h : Hdr) (index : Nat) (write : Bool) (stack : Nat) (limitM1 : Nat) (s : State) :
    exec (.ctxSegAllocStack h index write stack limitM1) s = execCtxSegAllocStack h index write stack limitM1 s := rfl
theorem exec_ctxSegAllocSpread (h : Hdr) (index : Nat) (write : Bool) (limitM1 : Nat) (s : State) :
    exec (.ctxSegAllocSpread h index write limitM1) s = execCtxSegAllocSpread h index write limitM1 s := rfl
theorem exec_ctxSegMapBoard (h : Hdr) (index : Nat) (write : Bool) (limitM1 : Nat) (target : Nat) (there : Bool) (s : State) :
    exec (.ctxSegMapBoard h index write limitM1 target there) s = execCtxSegMapBoard h index write limitM1 target there s := rfl
theorem exec_ctxSegMapTile (h : Hdr) (index : Nat) (write : Bool) (limitM1 : Nat) (tile : Nat) (s : State) :
    exec (.ctxSegMapTile h index write limitM1 tile) s = execCtxSegMapTile h index write limitM1 tile s := rfl
theorem exec_rbLoad (h : Hdr) (ctxAddr : Nat) (bytes : Nat) (u : List Upset) (s : State) :
    exec (.rbLoad h ctxAddr bytes u) s = execRbLoad h ctxAddr bytes u s := rfl
theorem exec_rbUnload (h : Hdr) (handle : Nat) (s : State) :
    exec (.rbUnload h handle) s = execRbUnload h handle s := rfl
theorem exec_turnRun (h : Hdr) (handle : Nat) (s : State) :
    exec (.turnRun h handle) s = execTurnRun h handle s := rfl
theorem exec_turnStopAfter (h : Hdr) (s : State) :
    exec (.turnStopAfter h) s = execTurnStopAfter h s := rfl
theorem exec_turnStopNow (h : Hdr) (s : State) :
    exec (.turnStopNow h) s = execTurnStopNow h s := rfl
theorem exec_turnStatus (h : Hdr) (s : State) :
    exec (.turnStatus h) s = execTurnStatus h s := rfl
theorem exec_abort (h : Hdr) (ring : Nat) (index : Nat) (tOp : Nat) (tTag : Nat) (tIrq : Bool) (s : State) :
    exec (.abort h ring index tOp tTag tIrq) s = execAbort h ring index tOp tTag tIrq s := rfl
theorem exec_memWrite (h : Hdr) (hostAddr : Nat) (ctxAddr : Nat) (bytes : Nat) (s : State) :
    exec (.memWrite h hostAddr ctxAddr bytes) s = execMemWrite h hostAddr ctxAddr bytes s := rfl
theorem exec_memRead (h : Hdr) (ctxAddr : Nat) (hostAddr : Nat) (bytes : Nat) (refuse : Option Nat) (u : List Upset) (s : State) :
    exec (.memRead h ctxAddr hostAddr bytes refuse u) s = execMemRead h ctxAddr hostAddr bytes refuse u s := rfl
theorem exec_memFill (h : Hdr) (ctxAddr : Nat) (bytes : Nat) (pattern : Nat) (u : List Upset) (s : State) :
    exec (.memFill h ctxAddr bytes pattern u) s = execMemFill h ctxAddr bytes pattern u s := rfl
theorem exec_memCopy (h : Hdr) (src : Nat) (dst : Nat) (bytes : Nat) (u : List Upset) (s : State) :
    exec (.memCopy h src dst bytes u) s = execMemCopy h src dst bytes u s := rfl
theorem exec_graphLoad (h : Hdr) (hostAddr : Nat) (ctxAddr : Nat) (bytes : Nat) (s : State) :
    exec (.graphLoad h hostAddr ctxAddr bytes) s = execGraphLoad h hostAddr ctxAddr bytes s := rfl
theorem exec_graphPatch (h : Hdr) (entries : List (Nat × Nat × Nat)) (u : List Upset) (s : State) :
    exec (.graphPatch h entries u) s = execGraphPatch h entries u s := rfl
theorem exec_tblCreate (h : Hdr) (handle : Nat) (table : Nat) (tier : Nat) (u : List Upset) (s : State) :
    exec (.tblCreate h handle table tier u) s = execTblCreate h handle table tier u s := rfl
theorem exec_tblRowsWrite (h : Hdr) (handle : Nat) (table : Nat) (rowsHost : Nat) (ids : List Nat) (s : State) :
    exec (.tblRowsWrite h handle table rowsHost ids) s = execTblRowsWrite h handle table rowsHost ids s := rfl
theorem exec_tblPublish (h : Hdr) (handle : Nat) (table : Nat) (s : State) :
    exec (.tblPublish h handle table) s = execTblPublish h handle table s := rfl
theorem exec_tblRetier (h : Hdr) (handle : Nat) (table : Nat) (items : List (Nat × Nat)) (u : List Upset) (s : State) :
    exec (.tblRetier h handle table items u) s = execTblRetier h handle table items u s := rfl
theorem exec_chkFraction (h : Hdr) (fraction : Nat) (s : State) :
    exec (.chkFraction h fraction) s = execChkFraction h fraction s := rfl
theorem exec_chkSelftest (h : Hdr) (mask : Nat) (failing : List UnitId) (s : State) :
    exec (.chkSelftest h mask failing) s = execChkSelftest h mask failing s := rfl
theorem exec_fltQuery (h : Hdr) (hostAddr : Nat) (refuse : Option Nat) (s : State) :
    exec (.fltQuery h hostAddr refuse) s = execFltQuery h hostAddr refuse s := rfl
theorem exec_spRead (h : Hdr) (first : Nat) (count : Nat) (hostAddr : Nat) (refuse : Option Nat) (s : State) :
    exec (.spRead h first count hostAddr refuse) s = execSpRead h first count hostAddr refuse s := rfl
theorem exec_spClear (h : Hdr) (auth : List Byte) (seq : Nat) (s : State) :
    exec (.spClear h auth seq) s = execSpClear h auth seq s := rfl
theorem exec_cntSnapshot (h : Hdr) (hostAddr : Nat) (bytes : Nat) (refuse : Option Nat) (s : State) :
    exec (.cntSnapshot h hostAddr bytes refuse) s = execCntSnapshot h hostAddr bytes refuse s := rfl
theorem exec_traceArm (h : Hdr) (d : TraceDesc) (s : State) :
    exec (.traceArm h d) s = execTraceArm h d s := rfl
theorem exec_traceDisarm (h : Hdr) (s : State) :
    exec (.traceDisarm h) s = execTraceDisarm h s := rfl
theorem exec_pwrPolicy (h : Hdr) (set : Nat) (deepest : Nat) (idle : Nat) (capW : Nat) (windowMs : Nat) (s : State) :
    exec (.pwrPolicy h set deepest idle capW windowMs) s = execPwrPolicy h set deepest idle capW windowMs s := rfl
theorem exec_sysJoin (h : Hdr) (x : Nat) (y : Nat) (z : Nat) (s : State) :
    exec (.sysJoin h x y z) s = execSysJoin h x y z s := rfl
theorem exec_sysFormForm (h : Hdr) (ex : Nat) (ey : Nat) (ez : Nat) (s : State) :
    exec (.sysFormForm h ex ey ez) s = execSysFormForm h ex ey ez s := rfl
theorem exec_sysFormPlace (h : Hdr) (origin : Xyz) (shape : Xyz) (s : State) :
    exec (.sysFormPlace h origin shape) s = execSysFormPlace h origin shape s := rfl
theorem exec_sysFormRemove (h : Hdr) (job : Nat) (s : State) :
    exec (.sysFormRemove h job) s = execSysFormRemove h job s := rfl
theorem exec_sysRehomeQuery (h : Hdr) (s : State) :
    exec (.sysRehomeQuery h) s = execSysRehomeQuery h s := rfl
theorem exec_sysRehomeMove (h : Hdr) (src : Xyz) (dst : Xyz) (s : State) :
    exec (.sysRehomeMove h src dst) s = execSysRehomeMove h src dst s := rfl
theorem exec_sysRehomeDeclareLost (h : Hdr) (src : Xyz) (s : State) :
    exec (.sysRehomeDeclareLost h src) s = execSysRehomeDeclareLost h src s := rfl
theorem exec_sysRehomeExclude (h : Hdr) (flags : Nat) (src : Xyz) (s : State) :
    exec (.sysRehomeExclude h flags src) s = execSysRehomeExclude h flags src s := rfl
theorem exec_sysTimeRead (h : Hdr) (s : State) :
    exec (.sysTimeRead h) s = execSysTimeRead h s := rfl
theorem exec_sysTimeSet (h : Hdr) (value : Nat) (s : State) :
    exec (.sysTimeSet h value) s = execSysTimeSet h value s := rfl
theorem exec_unsupportedOpcode (h : Hdr) (opcode : Nat) (s : State) :
    exec (.unsupportedOpcode h opcode) s = execUnsupportedOpcode h opcode s := rfl
theorem exec_sqDoorbell (fn : Nat) (ring : Nat) (value : Nat) (s : State) :
    exec (.sqDoorbell fn ring value) s = execSqDoorbell fn ring value s := rfl
theorem exec_cqDoorbell (fn : Nat) (ring : Nat) (value : Nat) (s : State) :
    exec (.cqDoorbell fn ring value) s = execCqDoorbell fn ring value s := rfl
theorem exec_flush (fn : Nat) (ring : Nat) (s : State) :
    exec (.flush fn ring) s = execFlush fn ring s := rfl
theorem exec_ringEnable (fn : Nat) (ring : Nat) (log2Slots : Nat) (s : State) :
    exec (.ringEnable fn ring log2Slots) s = execRingEnable fn ring log2Slots s := rfl
theorem exec_ringDisable (fn : Nat) (ring : Nat) (s : State) :
    exec (.ringDisable fn ring) s = execRingDisable fn ring s := rfl
theorem exec_intStatusClear (fn : Nat) (mask : Nat) (s : State) :
    exec (.intStatusClear fn mask) s = execIntStatusClear fn mask s := rfl
theorem exec_registerWrite (fn : Nat) (bar : Nat) (offset : Nat) (size : Nat) (value : Nat) (s : State) :
    exec (.registerWrite fn bar offset size value) s = execRegisterWrite fn bar offset size value s := rfl
theorem exec_counterLowRead (reader : Nat) (offset : Nat) (size : Nat) (s : State) :
    exec (.counterLowRead reader offset size) s = execCounterLowRead reader offset size s := rfl
theorem exec_counterHighRead (reader : Nat) (offset : Nat) (size : Nat) (s : State) :
    exec (.counterHighRead reader offset size) s = execCounterHighRead reader offset size s := rfl
theorem exec_msixExpiry (fn : Nat) (vec : Nat) (s : State) :
    exec (.msixExpiry fn vec) s = execMsixExpiry fn vec s := rfl
theorem exec_coreDispatch (core : Nat) (s : State) :
    exec (.coreDispatch core) s = execCoreDispatch core s := rfl
theorem exec_coreReleaseYield (core : Nat) (s : State) :
    exec (.coreReleaseYield core) s = execCoreReleaseYield core s := rfl
theorem exec_coreReleaseBlock (core : Nat) (event : Nat) (s : State) :
    exec (.coreReleaseBlock core event) s = execCoreReleaseBlock core event s := rfl
theorem exec_coreReleaseExit (core : Nat) (s : State) :
    exec (.coreReleaseExit core) s = execCoreReleaseExit core s := rfl
theorem exec_coreSignal (core : Nat) (event : Nat) (s : State) :
    exec (.coreSignal core event) s = execCoreSignal core event s := rfl
theorem exec_corePreemptClear (core : Nat) (value : Nat) (s : State) :
    exec (.corePreemptClear core value) s = execCorePreemptClear core value s := rfl
theorem exec_quantumExpiry (core : Nat) (s : State) :
    exec (.quantumExpiry core) s = execQuantumExpiry core s := rfl
theorem exec_svcExit (core : Nat) (code : Nat) (s : State) :
    exec (.svcExit core code) s = execSvcExit core code s := rfl
theorem exec_svcYield (core : Nat) (s : State) :
    exec (.svcYield core) s = execSvcYield core s := rfl
theorem exec_svcWaitEvent (core : Nat) (event : Nat) (s : State) :
    exec (.svcWaitEvent core event) s = execSvcWaitEvent core event s := rfl
theorem exec_svcSignal (core : Nat) (event : Nat) (s : State) :
    exec (.svcSignal core event) s = execSvcSignal core event s := rfl
theorem exec_svcSleepUntil (core : Nat) (time : Nat) (s : State) :
    exec (.svcSleepUntil core time) s = execSvcSleepUntil core time s := rfl
theorem exec_sleepExpiry (thread : Nat) (s : State) :
    exec (.sleepExpiry thread) s = execSleepExpiry thread s := rfl
theorem exec_svcTimeRead (core : Nat) (s : State) :
    exec (.svcTimeRead core) s = execSvcTimeRead core s := rfl
theorem exec_svcCtxRead (core : Nat) (addr : Nat) (len : Nat) (dst : Nat) (u : List Upset) (s : State) :
    exec (.svcCtxRead core addr len dst u) s = execSvcCtxRead core addr len dst u s := rfl
theorem exec_svcCtxWrite (core : Nat) (addr : Nat) (len : Nat) (src : Nat) (u : List Upset) (s : State) :
    exec (.svcCtxWrite core addr len src u) s = execSvcCtxWrite core addr len src u s := rfl
theorem exec_svcRegRead (core : Nat) (offset : Nat) (s : State) :
    exec (.svcRegRead core offset) s = execSvcRegRead core offset s := rfl
theorem exec_svcSpWrite (core : Nat) (sev : Nat) (p0 : Nat) (p1 : Nat) (p2 : Nat) (s : State) :
    exec (.svcSpWrite core sev p0 p1 p2) s = execSvcSpWrite core sev p0 p1 p2 s := rfl
theorem exec_svcSetHandler (core : Nat) (handler : Nat) (s : State) :
    exec (.svcSetHandler core handler) s = execSvcSetHandler core handler s := rfl
theorem exec_svcUnknown (core : Nat) (number : Nat) (s : State) :
    exec (.svcUnknown core number) s = execSvcUnknown core number s := rfl
theorem exec_userTrap (core : Nat) (cause : Nat) (pc : Nat) (regs : List Nat) (s : State) :
    exec (.userTrap core cause pc regs) s = execUserTrap core cause pc regs s := rfl
theorem exec_coreStop (core : Nat) (cause : Nat) (s : State) :
    exec (.coreStop core cause) s = execCoreStop core cause s := rfl
theorem exec_mgtWatchdogReset (cause : Nat) (s : State) :
    exec (.mgtWatchdogReset cause) s = execMgtWatchdogReset cause s := rfl
theorem exec_moveFetchDone (c : Nat) (t : Nat) (n : Nat) (u : List Upset) (s : State) :
    exec (.moveFetchDone c t n u) s = execMoveFetchDone c t n u s := rfl
theorem exec_seqNop (c : Nat) (t : Nat) (s : State) :
    exec (.seqNop c t) s = execSeqNop c t s := rfl
theorem exec_seqEnd (c : Nat) (t : Nat) (s : State) :
    exec (.seqEnd c t) s = execSeqEnd c t s := rfl
theorem exec_seqLoop (c : Nat) (t : Nat) (s : State) :
    exec (.seqLoop c t) s = execSeqLoop c t s := rfl
theorem exec_seqTrip (c : Nat) (t : Nat) (u : List Upset) (s : State) :
    exec (.seqTrip c t u) s = execSeqTrip c t u s := rfl
theorem exec_seqTally (c : Nat) (t : Nat) (s : State) :
    exec (.seqTally c t) s = execSeqTally c t s := rfl
theorem exec_seqSignal (c : Nat) (t : Nat) (s : State) :
    exec (.seqSignal c t) s = execSeqSignal c t s := rfl
theorem exec_seqPower (c : Nat) (t : Nat) (s : State) :
    exec (.seqPower c t) s = execSeqPower c t s := rfl
theorem exec_seqWindow (c : Nat) (t : Nat) (s : State) :
    exec (.seqWindow c t) s = execSeqWindow c t s := rfl
theorem exec_windowEnd (region : Option Nat) (s : State) :
    exec (.windowEnd region) s = execWindowEnd region s := rfl
theorem exec_arrMma (c : Nat) (t : Nat) (u : List Upset) (s : State) :
    exec (.arrMma c t u) s = execArrMma c t u s := rfl
theorem exec_drainDone (c : Nat) (t : Nat) (s : State) :
    exec (.drainDone c t) s = execDrainDone c t s := rfl
theorem exec_vecEw (c : Nat) (t : Nat) (u : List Upset) (s : State) :
    exec (.vecEw c t u) s = execVecEw c t u s := rfl
theorem exec_vecFn (c : Nat) (t : Nat) (u : List Upset) (s : State) :
    exec (.vecFn c t u) s = execVecFn c t u s := rfl
theorem exec_bernoulli (c : Nat) (t : Nat) (u : List Upset) (s : State) :
    exec (.bernoulli c t u) s = execBernoulli c t u s := rfl
theorem exec_relpos (c : Nat) (t : Nat) (u : List Upset) (s : State) :
    exec (.relpos c t u) s = execRelpos c t u s := rfl
theorem exec_vecCvt (c : Nat) (t : Nat) (u : List Upset) (s : State) :
    exec (.vecCvt c t u) s = execVecCvt c t u s := rfl
theorem exec_vecFold (c : Nat) (t : Nat) (u : List Upset) (s : State) :
    exec (.vecFold c t u) s = execVecFold c t u s := rfl
theorem exec_vecRed (c : Nat) (t : Nat) (u : List Upset) (s : State) :
    exec (.vecRed c t u) s = execVecRed c t u s := rfl
theorem exec_stCopy (c : Nat) (t : Nat) (u : List Upset) (s : State) :
    exec (.stCopy c t u) s = execStCopy c t u s := rfl
theorem exec_stLoad (c : Nat) (t : Nat) (u : List Upset) (s : State) :
    exec (.stLoad c t u) s = execStLoad c t u s := rfl
theorem exec_stSave (c : Nat) (t : Nat) (u : List Upset) (s : State) :
    exec (.stSave c t u) s = execStSave c t u s := rfl
theorem exec_stFill (c : Nat) (t : Nat) (u : List Upset) (s : State) :
    exec (.stFill c t u) s = execStFill c t u s := rfl
theorem exec_stSend (c : Nat) (t : Nat) (u : List Upset) (s : State) :
    exec (.stSend c t u) s = execStSend c t u s := rfl
theorem exec_stRcClear (c : Nat) (t : Nat) (s : State) :
    exec (.stRcClear c t) s = execStRcClear c t s := rfl
theorem exec_stRcGhost (c : Nat) (t : Nat) (s : State) :
    exec (.stRcGhost c t) s = execStRcGhost c t s := rfl
theorem exec_gthRows (c : Nat) (t : Nat) (u : List Upset) (s : State) :
    exec (.gthRows c t u) s = execGthRows c t u s := rfl
theorem exec_laneStealChunk (c : Nat) (t : Nat) (stream : Nat) (left : List (Nat × Nat)) (take : Bool) (s : State) :
    exec (.laneStealChunk c t stream left take) s = execLaneStealChunk c t stream left take s := rfl
theorem exec_elSort (c : Nat) (t : Nat) (u : List Upset) (s : State) :
    exec (.elSort c t u) s = execElSort c t u s := rfl
theorem exec_segReduce (c : Nat) (t : Nat) (u : List Upset) (s : State) :
    exec (.segReduce c t u) s = execSegReduce c t u s := rfl
theorem exec_segAdd (c : Nat) (t : Nat) (u : List Upset) (s : State) :
    exec (.segAdd c t u) s = execSegAdd c t u s := rfl
theorem exec_stealOffer (c : Nat) (t : Nat) (unit : UnitKind) (s : State) :
    exec (.stealOffer c t unit) s = execStealOffer c t unit s := rfl
theorem exec_stealRequest (c : Nat) (t : Nat) (s : State) :
    exec (.stealRequest c t) s = execStealRequest c t s := rfl
theorem exec_stealGrant (c : Nat) (t : Nat) (thief : Nat) (u : List Upset) (s : State) :
    exec (.stealGrant c t thief u) s = execStealGrant c t thief u s := rfl
theorem exec_stolenMoveDone (c : Nat) (t : Nat) (index : Nat) (s : State) :
    exec (.stolenMoveDone c t index) s = execStolenMoveDone c t index s := rfl
theorem exec_moveCompletion (c : Nat) (t : Nat) (index : Nat) (s : State) :
    exec (.moveCompletion c t index) s = execMoveCompletion c t index s := rfl
theorem exec_arrivalCounted (c : Nat) (t : Nat) (tally : Nat) (s : State) :
    exec (.arrivalCounted c t tally) s = execArrivalCounted c t tally s := rfl
theorem exec_tallyStall (c : Nat) (s : State) :
    exec (.tallyStall c) s = execTallyStall c s := rfl
theorem exec_doublesPageIn (t : Nat) (page : Nat) (evict : Nat) (s : State) :
    exec (.doublesPageIn t page evict) s = execDoublesPageIn t page evict s := rfl
theorem exec_spnSample (c : Nat) (t : Nat) (u : List Upset) (s : State) :
    exec (.spnSample c t u) s = execSpnSample c t u s := rfl
theorem exec_spnRoute (c : Nat) (t : Nat) (u : List Upset) (s : State) :
    exec (.spnRoute c t u) s = execSpnRoute c t u s := rfl
theorem exec_pfStage (c : Nat) (t : Nat) (u : List Upset) (s : State) :
    exec (.pfStage c t u) s = execPfStage c t u s := rfl
theorem exec_predict (c : Nat) (t : Nat) (u : List Upset) (s : State) :
    exec (.predict c t u) s = execPredict c t u s := rfl
theorem exec_predictFetchDone (c : Nat) (t : Nat) (unit : Nat) (layer : Nat) (s : State) :
    exec (.predictFetchDone c t unit layer) s = execPredictFetchDone c t unit layer s := rfl
theorem exec_demand (c : Nat) (t : Nat) (u : List Upset) (s : State) :
    exec (.demand c t u) s = execDemand c t u s := rfl
theorem exec_updNorm (c : Nat) (t : Nat) (u : List Upset) (s : State) :
    exec (.updNorm c t u) s = execUpdNorm c t u s := rfl
theorem exec_tblNorm (c : Nat) (t : Nat) (u : List Upset) (s : State) :
    exec (.tblNorm c t u) s = execTblNorm c t u s := rfl
theorem exec_ctClose (c : Nat) (t : Nat) (s : State) :
    exec (.ctClose c t) s = execCtClose c t s := rfl
theorem exec_ctContribution (key : Nat) (rank : Nat) (turn : Nat) (attempt : Nat) (k : Contribution) (s : State) :
    exec (.ctContribution key rank turn attempt k) s = execCtContribution key rank turn attempt k s := rfl
theorem exec_ctRecord (c : Nat) (turn : Nat) (attempt : Nat) (bytes : List Byte) (u : List Upset) (s : State) :
    exec (.ctRecord c turn attempt bytes u) s = execCtRecord c turn attempt bytes u s := rfl
theorem exec_updApply (c : Nat) (t : Nat) (u : List Upset) (s : State) :
    exec (.updApply c t u) s = execUpdApply c t u s := rfl
theorem exec_tblUpdate (c : Nat) (t : Nat) (u : List Upset) (s : State) :
    exec (.tblUpdate c t u) s = execTblUpdate c t u s := rfl
theorem exec_attemptStart (c : Nat) (s : State) :
    exec (.attemptStart c) s = execAttemptStart c s := rfl
theorem exec_ready (key : Nat) (rank : Nat) (turn : Nat) (attempt : Nat) (s : State) :
    exec (.ready key rank turn attempt) s = execReady key rank turn attempt s := rfl
theorem exec_go (c : Nat) (turn : Nat) (attempt : Nat) (s : State) :
    exec (.go c turn attempt) s = execGo c turn attempt s := rfl
theorem exec_poisonReceived (key : Nat) (rank : Nat) (turn : Nat) (attempt : Nat) (cause : Nat) (s : State) :
    exec (.poisonReceived key rank turn attempt cause) s = execPoisonReceived key rank turn attempt cause s := rfl
theorem exec_replay (c : Nat) (turn : Nat) (attempt : Nat) (cause : Nat) (s : State) :
    exec (.replay c turn attempt cause) s = execReplay c turn attempt cause s := rfl
theorem exec_vote (c : Nat) (s : State) :
    exec (.vote c) s = execVote c s := rfl
theorem exec_yesReceived (key : Nat) (rank : Nat) (turn : Nat) (attempt : Nat) (s : State) :
    exec (.yesReceived key rank turn attempt) s = execYesReceived key rank turn attempt s := rfl
theorem exec_standbyRecord (epoch : Nat) (seq : Nat) (d : Decision) (s : State) :
    exec (.standbyRecord epoch seq d) s = execStandbyRecord epoch seq d s := rfl
theorem exec_standbyAck (epoch : Nat) (seq : Nat) (s : State) :
    exec (.standbyAck epoch seq) s = execStandbyAck epoch seq s := rfl
theorem exec_commit (c : Nat) (turn : Nat) (attempt : Nat) (s : State) :
    exec (.commit c turn attempt) s = execCommit c turn attempt s := rfl
theorem exec_mirrorApplyDone (c : Nat) (here : Bool) (epoch : Nat) (small : Option Small) (u : List Upset) (s : State) :
    exec (.mirrorApplyDone c here epoch small u) s = execMirrorApplyDone c here epoch small u s := rfl
theorem exec_mirrorCopyDone (c : Nat) (image : List (Nat × List Byte)) (incoming : Option MirrorCopy) (s : State) :
    exec (.mirrorCopyDone c image incoming) s = execMirrorCopyDone c image incoming s := rfl
theorem exec_contextSwitch (c : Nat) (u : List Upset) (s : State) :
    exec (.contextSwitch c u) s = execContextSwitch c u s := rfl
theorem exec_publishComplete (c : Nat) (handle : Nat) (table : Nat) (u : List Upset) (s : State) :
    exec (.publishComplete c handle table u) s = execPublishComplete c handle table u s := rfl
theorem exec_cancel (banker : Bool) (key : Nat) (turn : Nat) (s : State) :
    exec (.cancel banker key turn) s = execCancel banker key turn s := rfl
theorem exec_turnStopAtBanker (key : Nat) (mode : Nat) (s : State) :
    exec (.turnStopAtBanker key mode) s = execTurnStopAtBanker key mode s := rfl
theorem exec_selftestRunStart (unit : UnitId) (s : State) :
    exec (.selftestRunStart unit) s = execSelftestRunStart unit s := rfl
theorem exec_selftestRunEnd (unit : UnitId) (pass : Bool) (s : State) :
    exec (.selftestRunEnd unit pass) s = execSelftestRunEnd unit pass s := rfl
theorem exec_observationEnd (unit : UnitId) (s : State) :
    exec (.observationEnd unit) s = execObservationEnd unit s := rfl
theorem exec_tileScrub (p : Nat) (deep : Bool) (word : Nat) (err : ErrKind) (second : Bool) (s : State) :
    exec (.tileScrub p deep word err second) s = execTileScrub p deep word err second s := rfl
theorem exec_scrubNapWake (region : Nat) (s : State) :
    exec (.scrubNapWake region) s = execScrubNapWake region s := rfl
theorem exec_sectorRequest (q : HbmReq) (s : State) :
    exec (.sectorRequest q) s = execSectorRequest q s := rfl
theorem exec_hbmRefresh (stack : Nat) (bank : Nat) (s : State) :
    exec (.hbmRefresh stack bank) s = execHbmRefresh stack bank s := rfl
theorem exec_hbmCalibration (stack : Nat) (channel : Nat) (s : State) :
    exec (.hbmCalibration stack channel) s = execHbmCalibration stack channel s := rfl
theorem exec_hbmPatrolScrub (stack : Nat) (sector : Nat) (err : ErrKind) (lane : Nat) (s : State) :
    exec (.hbmPatrolScrub stack sector err lane) s = execHbmPatrolScrub stack sector err lane s := rfl
theorem exec_selfRefreshEntry (stack : Nat) (s : State) :
    exec (.selfRefreshEntry stack) s = execSelfRefreshEntry stack s := rfl
theorem exec_pktWrite (p : Parcel) (s : State) :
    exec (.pktWrite p) s = execPktWrite p s := rfl
theorem exec_pktWriteAcked (p : Parcel) (s : State) :
    exec (.pktWriteAcked p) s = execPktWriteAcked p s := rfl
theorem exec_pktRead (p : Parcel) (u : List Upset) (s : State) :
    exec (.pktRead p u) s = execPktRead p u s := rfl
theorem exec_pktReadResp (p : Parcel) (s : State) :
    exec (.pktReadResp p) s = execPktReadResp p s := rfl
theorem exec_pktWriteAck (p : Parcel) (s : State) :
    exec (.pktWriteAck p) s = execPktWriteAck p s := rfl
theorem exec_pktArrival (p : Parcel) (s : State) :
    exec (.pktArrival p) s = execPktArrival p s := rfl
theorem exec_pktCollective (p : Parcel) (s : State) :
    exec (.pktCollective p) s = execPktCollective p s := rfl
theorem exec_pktErrorResp (p : Parcel) (s : State) :
    exec (.pktErrorResp p) s = execPktErrorResp p s := rfl
theorem exec_routeHop (p : Parcel) (from_ : Stand) (meshUe : Option Nat) (s : State) :
    exec (.routeHop p from_ meshUe) s = execRouteHop p from_ meshUe s := rfl
theorem exec_dataFrame (port : Nat) (flit : List Byte) (line : List (Nat × Byte)) (s : State) :
    exec (.dataFrame port flit line) s = execDataFrame port flit line s := rfl
theorem exec_ctlIdle (port : Nat) (ack : Nat) (freed : List Nat) (s : State) :
    exec (.ctlIdle port ack freed) s = execCtlIdle port ack freed s := rfl
theorem exec_ctlNak (port : Nat) (ack : Nat) (freed : List Nat) (s : State) :
    exec (.ctlNak port ack freed) s = execCtlNak port ack freed s := rfl
theorem exec_nakRetry (port : Nat) (s : State) :
    exec (.nakRetry port) s = execNakRetry port s := rfl
theorem exec_ackTimeout (port : Nat) (s : State) :
    exec (.ackTimeout port) s = execAckTimeout port s := rfl
theorem exec_idleTimer (port : Nat) (s : State) :
    exec (.idleTimer port) s = execIdleTimer port s := rfl
theorem exec_laneBad (port : Nat) (lane : Nat) (s : State) :
    exec (.laneBad port lane) s = execLaneBad port lane s := rfl
theorem exec_laneChange (port : Nat) (ack : Nat) (mask : Nat) (width : Nat) (answer : Bool) (s : State) :
    exec (.laneChange port ack mask width answer) s = execLaneChange port ack mask width answer s := rfl
theorem exec_reframeDone (port : Nat) (s : State) :
    exec (.reframeDone port) s = execReframeDone port s := rfl
theorem exec_reframeTimeout (port : Nat) (s : State) :
    exec (.reframeTimeout port) s = execReframeTimeout port s := rfl
theorem exec_ackStall (port : Nat) (s : State) :
    exec (.ackStall port) s = execAckStall port s := rfl
theorem exec_signalLoss (port : Nat) (s : State) :
    exec (.signalLoss port) s = execSignalLoss port s := rfl
theorem exec_hello (port : Nat) (ident : HelloBody) (s : State) :
    exec (.hello port ident) s = execHello port ident s := rfl
theorem exec_recal (port : Nat) (ack : Nat) (pause : Nat) (s : State) :
    exec (.recal port ack pause) s = execRecal port ack pause s := rfl
theorem exec_recalDue (port : Nat) (s : State) :
    exec (.recalDue port) s = execRecalDue port s := rfl
theorem exec_recalPauseEnd (port : Nat) (delay : Nat) (s : State) :
    exec (.recalPauseEnd port delay) s = execRecalPauseEnd port delay s := rfl
theorem exec_trainStepDone (port : Nat) (r : TrainResult) (s : State) :
    exec (.trainStepDone port r) s = execTrainStepDone port r s := rfl
theorem exec_trainTimeout (port : Nat) (s : State) :
    exec (.trainTimeout port) s = execTrainTimeout port s := rfl
theorem exec_signalQuiet (port : Nat) (s : State) :
    exec (.signalQuiet port) s = execSignalQuiet port s := rfl
theorem exec_signalDetect (port : Nat) (lanes : Nat) (s : State) :
    exec (.signalDetect port lanes) s = execSignalDetect port lanes s := rfl
theorem exec_delayProbeTimer (s : State) :
    exec (.delayProbeTimer) s = execDelayProbeTimer s := rfl
theorem exec_delayProbe (port : Nat) (epoch : Nat) (t1 : Nat) (ack : Nat) (s : State) :
    exec (.delayProbe port epoch t1 ack) s = execDelayProbe port epoch t1 ack s := rfl
theorem exec_delayReply (port : Nat) (epoch : Nat) (t1 : Nat) (t2 : Nat) (t3 : Nat) (hops : Nat) (ack : Nat) (s : State) :
    exec (.delayReply port epoch t1 t2 t3 hops ack) s = execDelayReply port epoch t1 t2 t3 hops ack s := rfl
theorem exec_timeHoldover (s : State) :
    exec (.timeHoldover) s = execTimeHoldover s := rfl
theorem exec_timeLock (s : State) :
    exec (.timeLock) s = execTimeLock s := rfl
theorem exec_refclkTick (s : State) :
    exec (.refclkTick) s = execRefclkTick s := rfl
theorem exec_formProbe (port : Nat) (epoch : Nat) (delaySum : Nat) (s : State) :
    exec (.formProbe port epoch delaySum) s = execFormProbe port epoch delaySum s := rfl
theorem exec_formReport (r : PkgReport) (s : State) :
    exec (.formReport r) s = execFormReport r s := rfl
theorem exec_formQuiet (s : State) :
    exec (.formQuiet) s = execFormQuiet s := rfl
theorem exec_formAssign (a : Assign) (s : State) :
    exec (.formAssign a) s = execFormAssign a s := rfl
theorem exec_formAck (serial : Nat) (s : State) :
    exec (.formAck serial) s = execFormAck serial s := rfl
theorem exec_joinReport (neighbour : Xyz) (port : Nat) (r : PkgReport) (s : State) :
    exec (.joinReport neighbour port r) s = execJoinReport neighbour port r s := rfl
theorem exec_missingList (epoch : Nat) (list : List Xyz) (s : State) :
    exec (.missingList epoch list) s = execMissingList epoch list s := rfl
theorem exec_bankerHeartbeat (s : State) :
    exec (.bankerHeartbeat) s = execBankerHeartbeat s := rfl
theorem exec_heartbeat (epoch : Nat) (banker : Xyz) (s : State) :
    exec (.heartbeat epoch banker) s = execHeartbeat epoch banker s := rfl
theorem exec_heartbeatTimeout (s : State) :
    exec (.heartbeatTimeout) s = execHeartbeatTimeout s := rfl
theorem exec_alive (src : Xyz) (s : State) :
    exec (.alive src) s = execAlive src s := rfl
theorem exec_aliveTimeout (src : Xyz) (s : State) :
    exec (.aliveTimeout src) s = execAliveTimeout src s := rfl
theorem exec_lost (src : Xyz) (cause : Nat) (by_ : Xyz) (s : State) :
    exec (.lost src cause by_) s = execLost src cause by_ s := rfl
theorem exec_rehomeAssign (epoch : Nat) (job : Nat) (rank : Xyz) (s : State) :
    exec (.rehomeAssign epoch job rank) s = execRehomeAssign epoch job rank s := rfl
theorem exec_rehomeCopyDone (c : Nat) (small : Small) (image : List (Nat × List Byte)) (s : State) :
    exec (.rehomeCopyDone c small image) s = execRehomeCopyDone c small image s := rfl
theorem exec_regionEntryDone (region : Nat) (s : State) :
    exec (.regionEntryDone region) s = execRegionEntryDone region s := rfl
theorem exec_demandWake (region : Nat) (s : State) :
    exec (.demandWake region) s = execDemandWake region s := rfl
theorem exec_regionWakeDone (region : Nat) (s : State) :
    exec (.regionWakeDone region) s = execRegionWakeDone region s := rfl
theorem exec_partialWakeDone (region : Nat) (s : State) :
    exec (.partialWakeDone region) s = execPartialWakeDone region s := rfl
theorem exec_voltageSettled (region : Nat) (s : State) :
    exec (.voltageSettled region) s = execVoltageSettled region s := rfl
theorem exec_currentSample (amps : Nat) (avg10 : Nat) (avg1 : Nat) (over5us : Bool) (mv : Nat) (s : State) :
    exec (.currentSample amps avg10 avg1 over5us mv) s = execCurrentSample amps avg10 avg1 over5us mv s := rfl
theorem exec_powerCapCheck (watts : Nat) (s : State) :
    exec (.powerCapCheck watts) s = execPowerCapCheck watts s := rfl
theorem exec_thermalSample (sensor : Nat) (tenths : Nat) (s : State) :
    exec (.thermalSample sensor tenths) s = execThermalSample sensor tenths s := rfl
theorem exec_aonResetN (s : State) :
    exec (.aonResetN) s = execAonResetN s := rfl
theorem exec_aonRelease (straps : Straps) (ok0 : Bool) (ok1 : Bool) (s : State) :
    exec (.aonRelease straps ok0 ok1) s = execAonRelease straps ok0 ok1 s := rfl
theorem exec_pwrGoodLow (s : State) :
    exec (.pwrGoodLow) s = execPwrGoodLow s := rfl
theorem exec_pkgResetN (s : State) :
    exec (.pkgResetN) s = execPkgResetN s := rfl
theorem exec_hubStageStart (straps : Straps) (s : State) :
    exec (.hubStageStart straps) s = execHubStageStart straps s := rfl
theorem exec_hbmTrainingDone (stack : Nat) (r : HbmTrain) (s : State) :
    exec (.hbmTrainingDone stack r) s = execHbmTrainingDone stack r s := rfl
theorem exec_perstN (s : State) :
    exec (.perstN) s = execPerstN s := rfl
theorem exec_perstRelease (s : State) :
    exec (.perstRelease) s = execPerstRelease s := rfl
theorem exec_pcieLinkUp (s : State) :
    exec (.pcieLinkUp) s = execPcieLinkUp s := rfl
theorem exec_flr (fn : Nat) (s : State) :
    exec (.flr fn) s = execFlr fn s := rfl
theorem exec_vcoreUnder (s : State) :
    exec (.vcoreUnder) s = execVcoreUnder s := rfl
theorem exec_vaonFall (s : State) :
    exec (.vaonFall) s = execVaonFall s := rfl
theorem exec_spSubmit (code : Nat) (sev : Nat) (src : Nat) (p0 : Nat) (p1 : Nat) (p2 : Nat) (ctx : Option Nat) (s : State) :
    exec (.spSubmit code sev src p0 p1 p2 ctx) s = execSpSubmit code sev src p0 p1 p2 ctx s := rfl
theorem exec_tokenRefill (bucket : Option Nat) (s : State) :
    exec (.tokenRefill bucket) s = execTokenRefill bucket s := rfl
theorem exec_spPushStatus (s : State) :
    exec (.spPushStatus) s = execSpPushStatus s := rfl
theorem exec_pldmRequest (r : PldmReq) (s : State) :
    exec (.pldmRequest r) s = execPldmRequest r s := rfl
theorem exec_mgtStatus (m : MgtHdr) (s : State) :
    exec (.mgtStatus m) s = execMgtStatus m s := rfl
theorem exec_mgtSpRead (m : MgtHdr) (first : Nat) (count : Nat) (s : State) :
    exec (.mgtSpRead m first count) s = execMgtSpRead m first count s := rfl
theorem exec_mgtRegRead (m : MgtHdr) (offset : Nat) (count : Nat) (s : State) :
    exec (.mgtRegRead m offset count) s = execMgtRegRead m offset count s := rfl
theorem exec_flashLogRead (m : MgtHdr) (index : Nat) (count : Nat) (s : State) :
    exec (.flashLogRead m index count) s = execFlashLogRead m index count s := rfl
theorem exec_mgtSpClear (m : MgtHdr) (auth : List Byte) (seq : Nat) (s : State) :
    exec (.mgtSpClear m auth seq) s = execMgtSpClear m auth seq s := rfl
theorem exec_keySet (m : MgtHdr) (key : Nat) (value : List Byte) (s : State) :
    exec (.keySet m key value) s = execKeySet m key value s := rfl
theorem exec_keySlot (m : MgtHdr) (slot : Nat) (op : Nat) (point : List Byte) (s : State) :
    exec (.keySlot m slot op point) s = execKeySlot m slot op point s := rfl
theorem exec_collectorSet (m : MgtHdr) (addr : Nat) (port : Nat) (storeMin : Nat) (pushMin : Nat) (s : State) :
    exec (.collectorSet m addr port storeMin pushMin) s = execCollectorSet m addr port storeMin pushMin s := rfl
theorem exec_debugMsg (m : MgtHdr) (core : Nat) (halt : Bool) (body : List Byte) (s : State) :
    exec (.debugMsg m core halt body) s = execDebugMsg m core halt body s := rfl
theorem exec_mgtSys (m : MgtHdr) (opcode : Nat) (body : List Byte) (s : State) :
    exec (.mgtSys m opcode body) s = execMgtSys m opcode body s := rfl
theorem exec_addrSet (m : MgtHdr) (addr : Nat) (pfxLen : Nat) (s : State) :
    exec (.addrSet m addr pfxLen) s = execAddrSet m addr pfxLen s := rfl
theorem exec_traceQueueDrain (t : Nat) (n : Nat) (s : State) :
    exec (.traceQueueDrain t n) s = execTraceQueueDrain t n s := rfl
theorem exec_selfRefreshExit (stack : Nat) (s : State) :
    exec (.selfRefreshExit stack) s = execSelfRefreshExit stack s := rfl
theorem exec_hbmRetrainDone (stack : Nat) (channel : Nat) (s : State) :
    exec (.hbmRetrainDone stack channel) s = execHbmRetrainDone stack channel s := rfl
theorem exec_hbmBlockRequest (q : HbmReq) (s : State) :
    exec (.hbmBlockRequest q) s = execHbmBlockRequest q s := rfl
theorem exec_hostReadData (ring : Nat) (index : Nat) (data : Option (List Byte)) (u : List Upset) (s : State) :
    exec (.hostReadData ring index data u) s = execHostReadData ring index data u s := rfl
theorem exec_schedulerWindowEnd (s : State) :
    exec (.schedulerWindowEnd) s = execSchedulerWindowEnd s := rfl
theorem exec_hubFirmwareVerified (ok0 : Bool) (ok1 : Bool) (s : State) :
    exec (.hubFirmwareVerified ok0 ok1) s = execHubFirmwareVerified ok0 ok1 s := rfl
theorem exec_vio18Loss (s : State) :
    exec (.vio18Loss) s = execVio18Loss s := rfl
theorem exec_vio18Return (s : State) :
    exec (.vio18Return) s = execVio18Return s := rfl

end Sys2Proof.Machine
end

