-- ==== Sys2Proof/Laws/Table.lean ====
section
/-! SUPPORT. The laws of sparse tables: a read after a write, and that every operation keeps the canonical form. -/

namespace Sys2Proof.Machine

variable {α : Type}

/-- The canonical form, one entry at a time. -/
theorem Table.wfFrom_cons [DecidableEq α] (d : α) (lo : Option Nat) (j : Nat) (v : α) (rest : Table α) :
    Table.wfFrom d lo ((j, v) :: rest) = true ↔ (∀ l, lo = some l → l < j) ∧ v ≠ d ∧ Table.wfFrom d (some j) rest = true := by
  cases lo <;> simp [Table.wfFrom, and_assoc]

/-- A canonical form above a bound is one above any lower bound, or none. -/
theorem Table.wfFrom_mono [DecidableEq α] {d : α} {l : Nat} {t : Table α} (h : Table.wfFrom d (some l) t = true) {lo : Option Nat}
    (hlo : ∀ m, lo = some m → m ≤ l) : Table.wfFrom d lo t = true := by
  cases t with
  | nil => rfl
  | cons e rest =>
    obtain ⟨j, v⟩ := e
    rw [Table.wfFrom_cons] at h ⊢
    refine ⟨fun m hm => ?_, h.2⟩
    have := h.1 l rfl
    have := hlo m hm
    omega

/-- Filtering keeps the canonical form. -/
theorem Table.wfFrom_filter [DecidableEq α] {d : α} {t : Table α} {lo : Option Nat} (h : Table.wfFrom d lo t = true)
    (p : Nat × α → Bool) : Table.wfFrom d lo (t.filter p) = true := by
  induction t generalizing lo with
  | nil => rfl
  | cons e rest ih =>
    obtain ⟨j, v⟩ := e
    have h' := (Table.wfFrom_cons d lo j v rest).1 h
    rw [List.filter_cons]
    split
    · rw [Table.wfFrom_cons]
      exact ⟨h'.1, h'.2.1, ih h'.2.2⟩
    · exact Table.wfFrom_mono (ih h'.2.2) (fun m hm => Nat.le_of_lt (h'.1 m hm))

/-- A new entry keeps the canonical form above any bound below its key. -/
theorem Table.wfFrom_place [DecidableEq α] {d : α} {t : Table α} {lo : Option Nat} (h : Table.wfFrom d lo t = true) {k : Nat} {x : α}
    (hx : x ≠ d) (hk : ∀ l, lo = some l → l < k) (hn : ∀ c ∈ t, c.1 ≠ k) : Table.wfFrom d lo (Table.place t k x) = true := by
  induction t generalizing lo with
  | nil => rw [Table.place, Table.wfFrom_cons]; exact ⟨hk, hx, rfl⟩
  | cons e rest ih =>
    obtain ⟨j, v⟩ := e
    have h' := (Table.wfFrom_cons d lo j v rest).1 h
    unfold Table.place
    split
    · rename_i hkj
      rw [Table.wfFrom_cons, Table.wfFrom_cons]
      exact ⟨hk, hx, fun l hl => by cases hl; exact hkj, h'.2⟩
    · rename_i hkj
      rw [Table.wfFrom_cons]
      have hj : j ≠ k := hn (j, v) (List.mem_cons_self ..)
      exact ⟨h'.1, h'.2.1, ih h'.2.2 (fun l hl => by cases hl; omega) (fun c hc => hn c (List.mem_cons_of_mem _ hc))⟩

/-- A filtered table does not list the key filtered out. -/
theorem Table.not_listed (t : Table α) (k : Nat) : ∀ c ∈ t.filter (fun c => decide (c.1 ≠ k)), c.1 ≠ k := by
  intro c hc
  simpa using (List.mem_filter.1 hc).2

/-- A write keeps the canonical form. -/
theorem Table.wf_put [DecidableEq α] {d : α} {t : Table α} (h : t.wf d = true) (k : Nat) (x : α) : (t.put d k x).wf d = true := by
  unfold Table.put
  split
  · exact Table.wfFrom_filter h _
  · rename_i hx
    exact Table.wfFrom_place (Table.wfFrom_filter h _) hx (fun _ hl => by cases hl) (Table.not_listed t k)

/-- A key that is not listed reads as the unlisted value. -/
theorem Table.get_of_not_listed {d : α} {t : Table α} {k : Nat} (h : ∀ c ∈ t, c.1 ≠ k) : Table.get t d k = d := by
  induction t with
  | nil => rfl
  | cons e rest ih =>
    have h1 : k ≠ e.1 := fun he => h e (List.mem_cons_self ..) he.symm
    rw [Table.get, if_neg h1]
    exact ih (fun c hc => h c (List.mem_cons_of_mem _ hc))

/-- A read after a new entry. -/
theorem Table.get_place {d : α} {t : Table α} {k : Nat} (hn : ∀ c ∈ t, c.1 ≠ k) (x : α) (j : Nat) :
    Table.get (Table.place t k x) d j = if j = k then x else Table.get t d j := by
  induction t with
  | nil => simp [Table.place, Table.get]
  | cons e rest ih =>
    obtain ⟨i, v⟩ := e
    have hi : i ≠ k := hn (i, v) (List.mem_cons_self ..)
    unfold Table.place
    split
    · simp [Table.get]
    · simp only [Table.get, ih (fun c hc => hn c (List.mem_cons_of_mem _ hc))]
      by_cases h1 : j = i
      · subst h1; simp [hi]
      · simp [h1]

/-- A read of a filtered table whose filter looks at keys only. -/
theorem Table.get_filter {d : α} (t : Table α) (p : Nat → Bool) (k : Nat) :
    Table.get (t.filter (fun c => p c.1)) d k = if p k then Table.get t d k else d := by
  induction t with
  | nil => simp [Table.get]
  | cons e rest ih =>
    obtain ⟨j, v⟩ := e
    rw [List.filter_cons]
    by_cases hj : p j
    · simp only [hj, if_true, Table.get, ih]
      by_cases hkj : k = j
      · subst hkj; simp [hj]
      · simp [hkj]
    · simp only [hj, Bool.false_eq_true, if_false, Table.get, ih]
      by_cases hkj : k = j
      · subst hkj; simp [hj]
      · simp [hkj]

/-- A read after a write. -/
theorem Table.get_put [DecidableEq α] {d : α} (t : Table α) (k : Nat) (x : α) (j : Nat) :
    Table.get (Table.put t d k x) d j = if j = k then x else Table.get t d j := by
  have hf := Table.get_filter (d := d) t (fun i => decide (i ≠ k)) j
  unfold Table.put
  split
  · rename_i hx
    rw [hf]
    by_cases hj : j = k <;> simp [hj, hx]
  · rw [Table.get_place (Table.not_listed t k), hf]
    by_cases hj : j = k <;> simp [hj]

/-- A read at the key of a write gives the value written. -/
@[simp] theorem Table.get_put_same [DecidableEq α] {d : α} (t : Table α) (k : Nat) (x : α) :
    Table.get (Table.put t d k x) d k = x := by
  rw [Table.get_put, if_pos rfl]

/-- A write leaves every other key alone. -/
theorem Table.get_put_other [DecidableEq α] {d : α} (t : Table α) {k j : Nat} (x : α) (hne : j ≠ k) :
    Table.get (Table.put t d k x) d j = Table.get t d j := by
  rw [Table.get_put, if_neg hne]

/-- Clearing a range keeps the canonical form. -/
theorem Table.wf_clear [DecidableEq α] {d : α} {t : Table α} (h : t.wf d = true) (lo n : Nat) : (t.clear lo n).wf d = true :=
  Table.wfFrom_filter h _

/-- Writes one after the other keep the canonical form. -/
theorem Table.wf_foldl_put [DecidableEq α] {β : Type} {d : α} (xs : List β) (key : β → Nat) (val : β → α) {t : Table α}
    (h : t.wf d = true) : (xs.foldl (fun acc c => Table.put acc d (key c) (val c)) t).wf d = true := by
  induction xs generalizing t with
  | nil => exact h
  | cons x xs ih => exact ih (Table.wf_put h (key x) (val x))

/-- Copying a range keeps the canonical form. -/
theorem Table.wf_copyRange [DecidableEq α] {d : α} {t : Table α} (h : t.wf d = true) (src dst n : Nat) :
    (t.copyRange d src dst n).wf d = true :=
  Table.wf_foldl_put _ (fun c : Nat × α => c.1 - src + dst) (fun c : Nat × α => c.2) (Table.wf_clear h dst n)

/-- A listed key is above the bound. -/
theorem Table.below_of_mem [DecidableEq α] {d : α} {l : Nat} {t : Table α} (h : Table.wfFrom d (some l) t = true) {c : Nat × α}
    (hc : c ∈ t) : l < c.1 := by
  induction t generalizing l with
  | nil => cases hc
  | cons e rest ih =>
    obtain ⟨j, v⟩ := e
    have h' := (Table.wfFrom_cons d (some l) j v rest).1 h
    have hj := h'.1 l rfl
    rcases List.mem_cons.1 hc with rfl | hc
    · exact hj
    · exact Nat.lt_trans hj (ih h'.2.2 hc)

/-- The entry of a key. -/
theorem Table.find_key {d : α} (t : Table α) (k : Nat) :
    Table.get t d k = match t.find? (fun c => decide (c.1 = k)) with | some c => c.2 | none => d := by
  induction t with
  | nil => rfl
  | cons e rest ih =>
    obtain ⟨j, v⟩ := e
    rw [List.find?_cons, Table.get]
    by_cases hk : j = k
    · simp [hk]
    · have hk' : ¬ k = j := fun e => hk e.symm
      simp only [hk, hk', decide_false, if_false]
      exact ih

/-- A read after clearing a range. -/
theorem Table.get_clear {d : α} (t : Table α) (lo n k : Nat) :
    Table.get (t.clear lo n) d k = if lo ≤ k ∧ k < lo + n then d else Table.get t d k := by
  unfold Table.clear
  rw [Table.get_filter t (fun c => decide (c < lo) || decide (lo + n ≤ c)) k]
  by_cases h1 : lo ≤ k ∧ k < lo + n
  · have a : ¬ k < lo := by omega
    have b : ¬ lo + n ≤ k := by omega
    simp [h1, a, b]
  · have a : k < lo ∨ lo + n ≤ k := by omega
    rcases a with a | a <;> simp [h1, a]

/-- A read after writing the entries of a canonical list `xs` at keys moved by `f`, which is one to one on them. -/
theorem Table.get_foldl_put [DecidableEq α] {d : α} {xs : Table α} {lo : Option Nat} (hx : Table.wfFrom d lo xs = true) (t : Table α)
    (f : Nat → Nat) (hf : ∀ a ∈ xs, ∀ b ∈ xs, f a.1 = f b.1 → a.1 = b.1) (k : Nat) :
    Table.get (xs.foldl (fun acc c => Table.put acc d (f c.1) c.2) t) d k =
      match xs.find? (fun c => decide (f c.1 = k)) with
      | some c => c.2
      | none => Table.get t d k := by
  induction xs generalizing t lo with
  | nil => rfl
  | cons e rest ih =>
    obtain ⟨j, v⟩ := e
    have h' := (Table.wfFrom_cons d lo j v rest).1 hx
    rw [List.foldl_cons, ih h'.2.2 (Table.put t d (f j) v)
      (fun a ha b hb => hf a (List.mem_cons_of_mem _ ha) b (List.mem_cons_of_mem _ hb))]
    rw [List.find?_cons]
    by_cases hk : f j = k
    · simp only [hk, decide_true]
      have hn : rest.find? (fun c => decide (f c.1 = k)) = none := by
        rw [List.find?_eq_none]
        intro c hc
        simp only [decide_eq_true_eq]
        intro hfc
        have h1 := hf (j, v) (List.mem_cons_self ..) c (List.mem_cons_of_mem _ hc) (by simp [hk, hfc])
        have h2 := Table.below_of_mem h'.2.2 hc
        simp only at h1
        omega
      rw [hn]
      exact Table.get_put_same t k v
    · simp only [hk, decide_false]
      cases rest.find? (fun c => decide (f c.1 = k)) with
      | some c => rfl
      | none => exact Table.get_put_other t v (fun h => hk h.symm)

/-- A read after copying a range. -/
theorem Table.get_copyRange [DecidableEq α] {d : α} {t : Table α} (h : t.wf d = true) (src dst n k : Nat) :
    Table.get (t.copyRange d src dst n) d k = if dst ≤ k ∧ k < dst + n then Table.get t d (src + (k - dst)) else Table.get t d k := by
  unfold Table.copyRange
  have hx : Table.wfFrom d none (t.filter (fun c => decide (src ≤ c.1) && decide (c.1 < src + n))) = true := Table.wfFrom_filter h _
  have hin : ∀ a ∈ t.filter (fun c => decide (src ≤ c.1) && decide (c.1 < src + n)), src ≤ a.1 ∧ a.1 < src + n := by
    intro a ha
    have := (List.mem_filter.1 ha).2
    simpa using this
  rw [Table.get_foldl_put hx (t.clear dst n) (fun a => a - src + dst) (by
    intro a ha b hb hab
    have := hin a ha
    have := hin b hb
    omega) k, Table.get_clear]
  by_cases hk : dst ≤ k ∧ k < dst + n
  · simp only [hk, and_self, if_true]
    rw [List.find?_filter, Table.find_key]
    congr 2
    funext c
    rw [decide_eq_decide]
    simp only [Bool.and_eq_true, decide_eq_true_eq]
    omega
  · have hn : (t.filter (fun c => decide (src ≤ c.1) && decide (c.1 < src + n))).find? (fun c => decide (c.1 - src + dst = k)) = none := by
      rw [List.find?_eq_none]
      intro c hc
      have := hin c hc
      simp only [decide_eq_true_eq]
      omega
    rw [hn]
    simp [hk]

end Sys2Proof.Machine
end

