-- ==== Sys2Proof/Laws/Frame.lean ====
section
/-! SUPPORT. Footprints: which parts of the working state an operation can change. `w.erase ft` forgets the parts that `ft`
names; an operation whose footprint lies in `ft` leaves `w.erase ft` as it was, and everything else with it. The part `skel` is
what of a tile its stream is made of, so that an operation may change tiles and yet leave their streams alone. -/

namespace Sys2Proof.Machine

/-- The parts of a command's working state: the fields of the state, the three lists of memory changes, the stop. -/
inductive Part where
  | pending | sent | free | mem | poison | host | pins | boot | power | time | pad | flash | mgt | sched | progs | space | fns | rings | actives | latch | vfEnable | pcieRx | pcieTx | ctxs | regions | hbm | pkgBytes | ports | form | bank | jobs | tiles | phys | arrivals | lanes | lanesNow | windows | tests | retiring | requests | nextTag | routeDrops | resident | partials | journal | flips | retierList | retierDone | retierDue | traceDesc | traceNext | idleNs | skel | mw | hw | sw | stop
deriving DecidableEq, Repr

/-- A working state without some parts, and the streams of its tiles. -/
structure Erased where
  w : Work
  streams : Nat → Tile

/-- The working state without the parts that `ft` names, streams left out. -/
def Work.rest (ft : Part → Bool) (w : Work) : Work where
  s := {
    pending := if ft .pending then [] else w.s.pending
    sent := if ft .sent then [] else w.s.sent
    free := if ft .free then 0 else w.s.free
    mem := if ft .mem then [] else w.s.mem
    poison := if ft .poison then [] else w.s.poison
    host := if ft .host then [] else w.s.host
    pins := if ft .pins then {} else w.s.pins
    boot := if ft .boot then {} else w.s.boot
    power := if ft .power then {} else w.s.power
    time := if ft .time then {} else w.s.time
    pad := if ft .pad then {} else w.s.pad
    flash := if ft .flash then {} else w.s.flash
    mgt := if ft .mgt then {} else w.s.mgt
    sched := if ft .sched then {} else w.s.sched
    progs := if ft .progs then [] else w.s.progs
    space := if ft .space then [] else w.s.space
    fns := if ft .fns then [] else w.s.fns
    rings := if ft .rings then [] else w.s.rings
    actives := if ft .actives then [] else w.s.actives
    latch := if ft .latch then [] else w.s.latch
    vfEnable := if ft .vfEnable then false else w.s.vfEnable
    pcieRx := if ft .pcieRx then 0 else w.s.pcieRx
    pcieTx := if ft .pcieTx then 0 else w.s.pcieTx
    ctxs := if ft .ctxs then [] else w.s.ctxs
    regions := if ft .regions then [] else w.s.regions
    hbm := if ft .hbm then [] else w.s.hbm
    pkgBytes := if ft .pkgBytes then 0 else w.s.pkgBytes
    ports := if ft .ports then [] else w.s.ports
    form := if ft .form then {} else w.s.form
    bank := if ft .bank then {} else w.s.bank
    jobs := if ft .jobs then [] else w.s.jobs
    tiles := if ft .tiles then [] else w.s.tiles
    phys := if ft .phys then [] else w.s.phys
    arrivals := if ft .arrivals then [] else w.s.arrivals
    lanes := if ft .lanes then [] else w.s.lanes
    lanesNow := if ft .lanesNow then [] else w.s.lanesNow
    windows := if ft .windows then [] else w.s.windows
    tests := if ft .tests then [] else w.s.tests
    retiring := if ft .retiring then [] else w.s.retiring
    requests := if ft .requests then [] else w.s.requests
    nextTag := if ft .nextTag then 0 else w.s.nextTag
    routeDrops := if ft .routeDrops then 0 else w.s.routeDrops
    resident := if ft .resident then [] else w.s.resident
    partials := if ft .partials then [] else w.s.partials
    journal := if ft .journal then [] else w.s.journal
    flips := if ft .flips then [] else w.s.flips
    retierList := if ft .retierList then [] else w.s.retierList
    retierDone := if ft .retierDone then [] else w.s.retierDone
    retierDue := if ft .retierDue then [] else w.s.retierDue
    traceDesc := if ft .traceDesc then [] else w.s.traceDesc
    traceNext := if ft .traceNext then [] else w.s.traceNext
    idleNs := if ft .idleNs then [] else w.s.idleNs }
  mw := if ft .mw then [] else w.mw
  hw := if ft .hw then [] else w.hw
  sw := if ft .sw then [] else w.sw
  stop := if ft .stop then none else w.stop

/-- The working state without the parts that `ft` names. -/
def Work.erase (ft : Part → Bool) (w : Work) : Erased where
  w := w.rest ft
  streams := fun i => if ft .skel then {} else (w.s.tile i).skel

/-- What is no part of the stream. -/
@[simp] theorem Tile.skel_with (t : Tile) (x0 : Bool) (x1 : Table Acc) (x2 : Nat) (x3 : Nat) (x4 : Nat)
    (x5 : Nat) (x6 : Nat) (x7 : Table (Option GStream)) (x8 : Option Nat) (x9 : Option Nat) (x10 : List UnitKind) (x11 : List Nat)
    (x12 : List (Nat × Nat)) (x13 : Nat) (x14 : Nat) (x15 : Nat) (x16 : Nat) (x17 : List (List Byte)) (x18 : Nat) (x19 : Nat) :
    ({ t with
      stopped := x0, accs := x1, accShape := x2, check := x3, once := x4, onceNext := x5, idleNow := x6, streams := x7, drain := x8, ask := x9, offers := x10,
      pages := x11, bad := x12, flags := x13, satCnt := x14, t2inv := x15, lastIssue := x16, traceq := x17, traceEntries := x18, traceDropped := x19 } : Tile).skel = t.skel := rfl

@[simp] theorem Tile.skel_ite (p : Prop) [Decidable p] (a b : Tile) : (if p then a else b).skel = if p then a.skel else b.skel := by
  split <;> rfl

theorem Work.tile_setTile (w : Work) (i j : Nat) (v : Tile) : (w.setTile i v).s.tile j = if j = i then v else w.s.tile j := by
  simp only [Work.setTile, State.tile, Table.get_put]

/-- A tile replaced by one whose stream is the same. -/
@[simp] theorem Work.setTile_erase {ft : Part → Bool} (hp : ft .tiles = true) (w : Work) (i : Nat) (v : Tile)
    (hv : ft .skel = true ∨ v.skel = (w.s.tile i).skel) : (Work.setTile w i v).erase ft = w.erase ft := by
  have hs : (Work.setTile w i v).erase ft = { (w.erase ft) with streams := ((Work.setTile w i v).erase ft).streams } := by
    simp [Work.erase, Work.rest, Work.setTile, hp]
  rw [hs]
  have he : ((Work.setTile w i v).erase ft).streams = (w.erase ft).streams := by
    funext j
    simp only [Work.erase, Work.tile_setTile]
    by_cases hj : j = i
    · subst hj
      rcases hv with h | h
      · simp [h]
      · simp [h]
    · simp [hj]
  rw [he]

/-- A tile changed in a way that keeps its stream. -/
@[simp] theorem Work.modTile_erase {ft : Part → Bool} (hp : ft .tiles = true) (w : Work) (i : Nat) (f : Tile → Tile)
    (hf : ft .skel = true ∨ ∀ t, (f t).skel = t.skel) : (Work.modTile w i f).erase ft = w.erase ft :=
  Work.setTile_erase hp w i _ (hf.imp id (fun h => h _))

@[simp high] theorem Work.modTile_erase_skel {ft : Part → Bool} (hp : ft .tiles = true) (hs : ft .skel = true) (w : Work) (i : Nat)
    (f : Tile → Tile) : (Work.modTile w i f).erase ft = w.erase ft := Work.setTile_erase hp w i _ (.inl hs)

@[simp] theorem Work.erase_set_pending {ft : Part → Bool} (h : ft .pending = true) (w : Work) (v : List Instr) :
    Work.erase ft { w with s.pending := v } = w.erase ft := by simp [Work.erase, Work.rest, State.tile, h]
@[simp] theorem Work.erase_set_sent {ft : Part → Bool} (h : ft .sent = true) (w : Work) (v : List Sent) :
    Work.erase ft { w with s.sent := v } = w.erase ft := by simp [Work.erase, Work.rest, State.tile, h]
@[simp] theorem Work.erase_set_free {ft : Part → Bool} (h : ft .free = true) (w : Work) (v : Nat) :
    Work.erase ft { w with s.free := v } = w.erase ft := by simp [Work.erase, Work.rest, State.tile, h]
@[simp] theorem Work.erase_set_mem {ft : Part → Bool} (h : ft .mem = true) (w : Work) (v : Table Byte) :
    Work.erase ft { w with s.mem := v } = w.erase ft := by simp [Work.erase, Work.rest, State.tile, h]
@[simp] theorem Work.erase_set_poison {ft : Part → Bool} (h : ft .poison = true) (w : Work) (v : Table Bool) :
    Work.erase ft { w with s.poison := v } = w.erase ft := by simp [Work.erase, Work.rest, State.tile, h]
@[simp] theorem Work.erase_set_host {ft : Part → Bool} (h : ft .host = true) (w : Work) (v : Table Byte) :
    Work.erase ft { w with s.host := v } = w.erase ft := by simp [Work.erase, Work.rest, State.tile, h]
@[simp] theorem Work.erase_set_pins {ft : Part → Bool} (h : ft .pins = true) (w : Work) (v : Pins) :
    Work.erase ft { w with s.pins := v } = w.erase ft := by simp [Work.erase, Work.rest, State.tile, h]
@[simp] theorem Work.erase_set_boot {ft : Part → Bool} (h : ft .boot = true) (w : Work) (v : Boot) :
    Work.erase ft { w with s.boot := v } = w.erase ft := by simp [Work.erase, Work.rest, State.tile, h]
@[simp] theorem Work.erase_set_power {ft : Part → Bool} (h : ft .power = true) (w : Work) (v : Power) :
    Work.erase ft { w with s.power := v } = w.erase ft := by simp [Work.erase, Work.rest, State.tile, h]
@[simp] theorem Work.erase_set_time {ft : Part → Bool} (h : ft .time = true) (w : Work) (v : FTime) :
    Work.erase ft { w with s.time := v } = w.erase ft := by simp [Work.erase, Work.rest, State.tile, h]
@[simp] theorem Work.erase_set_pad {ft : Part → Bool} (h : ft .pad = true) (w : Work) (v : Pad) :
    Work.erase ft { w with s.pad := v } = w.erase ft := by simp [Work.erase, Work.rest, State.tile, h]
@[simp] theorem Work.erase_set_flash {ft : Part → Bool} (h : ft .flash = true) (w : Work) (v : Flash) :
    Work.erase ft { w with s.flash := v } = w.erase ft := by simp [Work.erase, Work.rest, State.tile, h]
@[simp] theorem Work.erase_set_mgt {ft : Part → Bool} (h : ft .mgt = true) (w : Work) (v : Mgt) :
    Work.erase ft { w with s.mgt := v } = w.erase ft := by simp [Work.erase, Work.rest, State.tile, h]
@[simp] theorem Work.erase_set_sched {ft : Part → Bool} (h : ft .sched = true) (w : Work) (v : Sched) :
    Work.erase ft { w with s.sched := v } = w.erase ft := by simp [Work.erase, Work.rest, State.tile, h]
@[simp] theorem Work.erase_set_progs {ft : Part → Bool} (h : ft .progs = true) (w : Work) (v : Table (Option Prog)) :
    Work.erase ft { w with s.progs := v } = w.erase ft := by simp [Work.erase, Work.rest, State.tile, h]
@[simp] theorem Work.erase_set_space {ft : Part → Bool} (h : ft .space = true) (w : Work) (v : Table Byte) :
    Work.erase ft { w with s.space := v } = w.erase ft := by simp [Work.erase, Work.rest, State.tile, h]
@[simp] theorem Work.erase_set_fns {ft : Part → Bool} (h : ft .fns = true) (w : Work) (v : Table Fn) :
    Work.erase ft { w with s.fns := v } = w.erase ft := by simp [Work.erase, Work.rest, State.tile, h]
@[simp] theorem Work.erase_set_rings {ft : Part → Bool} (h : ft .rings = true) (w : Work) (v : Table Ring) :
    Work.erase ft { w with s.rings := v } = w.erase ft := by simp [Work.erase, Work.rest, State.tile, h]
@[simp] theorem Work.erase_set_actives {ft : Part → Bool} (h : ft .actives = true) (w : Work) (v : List Active) :
    Work.erase ft { w with s.actives := v } = w.erase ft := by simp [Work.erase, Work.rest, State.tile, h]
@[simp] theorem Work.erase_set_latch {ft : Part → Bool} (h : ft .latch = true) (w : Work) (v : Table Nat) :
    Work.erase ft { w with s.latch := v } = w.erase ft := by simp [Work.erase, Work.rest, State.tile, h]
@[simp] theorem Work.erase_set_vfEnable {ft : Part → Bool} (h : ft .vfEnable = true) (w : Work) (v : Bool) :
    Work.erase ft { w with s.vfEnable := v } = w.erase ft := by simp [Work.erase, Work.rest, State.tile, h]
@[simp] theorem Work.erase_set_pcieRx {ft : Part → Bool} (h : ft .pcieRx = true) (w : Work) (v : Nat) :
    Work.erase ft { w with s.pcieRx := v } = w.erase ft := by simp [Work.erase, Work.rest, State.tile, h]
@[simp] theorem Work.erase_set_pcieTx {ft : Part → Bool} (h : ft .pcieTx = true) (w : Work) (v : Nat) :
    Work.erase ft { w with s.pcieTx := v } = w.erase ft := by simp [Work.erase, Work.rest, State.tile, h]
@[simp] theorem Work.erase_set_ctxs {ft : Part → Bool} (h : ft .ctxs = true) (w : Work) (v : Table Ctx) :
    Work.erase ft { w with s.ctxs := v } = w.erase ft := by simp [Work.erase, Work.rest, State.tile, h]
@[simp] theorem Work.erase_set_regions {ft : Part → Bool} (h : ft .regions = true) (w : Work) (v : Table Region) :
    Work.erase ft { w with s.regions := v } = w.erase ft := by simp [Work.erase, Work.rest, State.tile, h]
@[simp] theorem Work.erase_set_hbm {ft : Part → Bool} (h : ft .hbm = true) (w : Work) (v : Table Stack) :
    Work.erase ft { w with s.hbm := v } = w.erase ft := by simp [Work.erase, Work.rest, State.tile, h]
@[simp] theorem Work.erase_set_pkgBytes {ft : Part → Bool} (h : ft .pkgBytes = true) (w : Work) (v : Nat) :
    Work.erase ft { w with s.pkgBytes := v } = w.erase ft := by simp [Work.erase, Work.rest, State.tile, h]
@[simp] theorem Work.erase_set_ports {ft : Part → Bool} (h : ft .ports = true) (w : Work) (v : Table Port) :
    Work.erase ft { w with s.ports := v } = w.erase ft := by simp [Work.erase, Work.rest, State.tile, h]
@[simp] theorem Work.erase_set_form {ft : Part → Bool} (h : ft .form = true) (w : Work) (v : Form) :
    Work.erase ft { w with s.form := v } = w.erase ft := by simp [Work.erase, Work.rest, State.tile, h]
@[simp] theorem Work.erase_set_bank {ft : Part → Bool} (h : ft .bank = true) (w : Work) (v : Bank) :
    Work.erase ft { w with s.bank := v } = w.erase ft := by simp [Work.erase, Work.rest, State.tile, h]
@[simp] theorem Work.erase_set_jobs {ft : Part → Bool} (h : ft .jobs = true) (w : Work) (v : Table JobTurn) :
    Work.erase ft { w with s.jobs := v } = w.erase ft := by simp [Work.erase, Work.rest, State.tile, h]
@[simp] theorem Work.erase_set_phys {ft : Part → Bool} (h : ft .phys = true) (w : Work) (v : Table Phys) :
    Work.erase ft { w with s.phys := v } = w.erase ft := by simp [Work.erase, Work.rest, State.tile, h]
@[simp] theorem Work.erase_set_arrivals {ft : Part → Bool} (h : ft .arrivals = true) (w : Work) (v : List (Nat × Nat)) :
    Work.erase ft { w with s.arrivals := v } = w.erase ft := by simp [Work.erase, Work.rest, State.tile, h]
@[simp] theorem Work.erase_set_lanes {ft : Part → Bool} (h : ft .lanes = true) (w : Work) (v : Table Nat) :
    Work.erase ft { w with s.lanes := v } = w.erase ft := by simp [Work.erase, Work.rest, State.tile, h]
@[simp] theorem Work.erase_set_lanesNow {ft : Part → Bool} (h : ft .lanesNow = true) (w : Work) (v : Table Nat) :
    Work.erase ft { w with s.lanesNow := v } = w.erase ft := by simp [Work.erase, Work.rest, State.tile, h]
@[simp] theorem Work.erase_set_windows {ft : Part → Bool} (h : ft .windows = true) (w : Work) (v : List Window) :
    Work.erase ft { w with s.windows := v } = w.erase ft := by simp [Work.erase, Work.rest, State.tile, h]
@[simp] theorem Work.erase_set_tests {ft : Part → Bool} (h : ft .tests = true) (w : Work) (v : List TestRun) :
    Work.erase ft { w with s.tests := v } = w.erase ft := by simp [Work.erase, Work.rest, State.tile, h]
@[simp] theorem Work.erase_set_retiring {ft : Part → Bool} (h : ft .retiring = true) (w : Work) (v : List UnitId) :
    Work.erase ft { w with s.retiring := v } = w.erase ft := by simp [Work.erase, Work.rest, State.tile, h]
@[simp] theorem Work.erase_set_requests {ft : Part → Bool} (h : ft .requests = true) (w : Work) (v : List Request) :
    Work.erase ft { w with s.requests := v } = w.erase ft := by simp [Work.erase, Work.rest, State.tile, h]
@[simp] theorem Work.erase_set_nextTag {ft : Part → Bool} (h : ft .nextTag = true) (w : Work) (v : Nat) :
    Work.erase ft { w with s.nextTag := v } = w.erase ft := by simp [Work.erase, Work.rest, State.tile, h]
@[simp] theorem Work.erase_set_routeDrops {ft : Part → Bool} (h : ft .routeDrops = true) (w : Work) (v : Nat) :
    Work.erase ft { w with s.routeDrops := v } = w.erase ft := by simp [Work.erase, Work.rest, State.tile, h]
@[simp] theorem Work.erase_set_resident {ft : Part → Bool} (h : ft .resident = true) (w : Work) (v : List Resident) :
    Work.erase ft { w with s.resident := v } = w.erase ft := by simp [Work.erase, Work.rest, State.tile, h]
@[simp] theorem Work.erase_set_partials {ft : Part → Bool} (h : ft .partials = true) (w : Work) (v : Table (Nat × Nat)) :
    Work.erase ft { w with s.partials := v } = w.erase ft := by simp [Work.erase, Work.rest, State.tile, h]
@[simp] theorem Work.erase_set_journal {ft : Part → Bool} (h : ft .journal = true) (w : Work) (v : Table Nat) :
    Work.erase ft { w with s.journal := v } = w.erase ft := by simp [Work.erase, Work.rest, State.tile, h]
@[simp] theorem Work.erase_set_flips {ft : Part → Bool} (h : ft .flips = true) (w : Work) (v : List Flip) :
    Work.erase ft { w with s.flips := v } = w.erase ft := by simp [Work.erase, Work.rest, State.tile, h]
@[simp] theorem Work.erase_set_retierList {ft : Part → Bool} (h : ft .retierList = true) (w : Work) (v : List (Nat × Nat × Nat)) :
    Work.erase ft { w with s.retierList := v } = w.erase ft := by simp [Work.erase, Work.rest, State.tile, h]
@[simp] theorem Work.erase_set_retierDone {ft : Part → Bool} (h : ft .retierDone = true) (w : Work) (v : List (Nat × Nat × Nat)) :
    Work.erase ft { w with s.retierDone := v } = w.erase ft := by simp [Work.erase, Work.rest, State.tile, h]
@[simp] theorem Work.erase_set_retierDue {ft : Part → Bool} (h : ft .retierDue = true) (w : Work) (v : List (Nat × Nat × Nat)) :
    Work.erase ft { w with s.retierDue := v } = w.erase ft := by simp [Work.erase, Work.rest, State.tile, h]
@[simp] theorem Work.erase_set_traceDesc {ft : Part → Bool} (h : ft .traceDesc = true) (w : Work) (v : Table (Option TraceDesc)) :
    Work.erase ft { w with s.traceDesc := v } = w.erase ft := by simp [Work.erase, Work.rest, State.tile, h]
@[simp] theorem Work.erase_set_traceNext {ft : Part → Bool} (h : ft .traceNext = true) (w : Work) (v : Table (Option (Option TraceDesc))) :
    Work.erase ft { w with s.traceNext := v } = w.erase ft := by simp [Work.erase, Work.rest, State.tile, h]
@[simp] theorem Work.erase_set_idleNs {ft : Part → Bool} (h : ft .idleNs = true) (w : Work) (v : Table Nat) :
    Work.erase ft { w with s.idleNs := v } = w.erase ft := by simp [Work.erase, Work.rest, State.tile, h]
@[simp] theorem Work.erase_set_mw {ft : Part → Bool} (h : ft .mw = true) (w : Work) (v : List MemOp) :
    Work.erase ft { w with mw := v } = w.erase ft := by simp [Work.erase, Work.rest, State.tile, h]
@[simp] theorem Work.erase_set_hw {ft : Part → Bool} (h : ft .hw = true) (w : Work) (v : List (Nat × Byte)) :
    Work.erase ft { w with hw := v } = w.erase ft := by simp [Work.erase, Work.rest, State.tile, h]
@[simp] theorem Work.erase_set_sw {ft : Part → Bool} (h : ft .sw = true) (w : Work) (v : List MemOp) :
    Work.erase ft { w with sw := v } = w.erase ft := by simp [Work.erase, Work.rest, State.tile, h]
@[simp] theorem Work.erase_set_stop {ft : Part → Bool} (h : ft .stop = true) (w : Work) (v : Option Fault) :
    Work.erase ft { w with stop := v } = w.erase ft := by simp [Work.erase, Work.rest, State.tile, h]
@[simp] theorem Work.erase_set_arrivals_lanesNow_resident_partials_retierDone {ft : Part → Bool} (h : ft .arrivals = true ∧ ft .lanesNow = true ∧ ft .resident = true ∧ ft .partials = true ∧ ft .retierDone = true) (w : Work)
    (v0 : List (Nat × Nat)) (v1 : Table Nat) (v2 : List Resident) (v3 : Table (Nat × Nat)) (v4 : List (Nat × Nat × Nat)) :
    Work.erase ft { w with s.arrivals := v0, s.lanesNow := v1, s.resident := v2, s.partials := v3, s.retierDone := v4 } = w.erase ft := by simp [Work.erase, Work.rest, State.tile, h]
@[simp] theorem Work.erase_set_arrivals_requests_resident {ft : Part → Bool} (h : ft .arrivals = true ∧ ft .requests = true ∧ ft .resident = true) (w : Work)
    (v0 : List (Nat × Nat)) (v1 : List Request) (v2 : List Resident) :
    Work.erase ft { w with s.arrivals := v0, s.requests := v1, s.resident := v2 } = w.erase ft := by simp [Work.erase, Work.rest, State.tile, h]
@[simp] theorem Work.erase_set_boot_mgt {ft : Part → Bool} (h : ft .boot = true ∧ ft .mgt = true) (w : Work)
    (v0 : Boot) (v1 : Mgt) :
    Work.erase ft { w with s.boot := v0, s.mgt := v1 } = w.erase ft := by simp [Work.erase, Work.rest, State.tile, h]
@[simp] theorem Work.erase_set_flash_retiring {ft : Part → Bool} (h : ft .flash = true ∧ ft .retiring = true) (w : Work)
    (v0 : Flash) (v1 : List UnitId) :
    Work.erase ft { w with s.flash := v0, s.retiring := v1 } = w.erase ft := by simp [Work.erase, Work.rest, State.tile, h]
@[simp] theorem Work.erase_set_form_bank {ft : Part → Bool} (h : ft .form = true ∧ ft .bank = true) (w : Work)
    (v0 : Form) (v1 : Bank) :
    Work.erase ft { w with s.form := v0, s.bank := v1 } = w.erase ft := by simp [Work.erase, Work.rest, State.tile, h]
@[simp] theorem Work.erase_set_closing {ft : Part → Bool} (h : ft .jobs = true ∧ ft .lanes = true ∧ ft .lanesNow = true ∧ ft .windows = true ∧ ft .requests = true ∧ ft .resident = true ∧ ft .partials = true ∧ ft .journal = true ∧ ft .flips = true ∧ ft .retierList = true ∧ ft .retierDone = true ∧ ft .retierDue = true ∧ ft .traceDesc = true ∧ ft .traceNext = true ∧ ft .idleNs = true) (w : Work)
    (v0 : Table JobTurn) (v1 : Table Nat) (v2 : Table Nat) (v3 : List Window) (v4 : List Request) (v5 : List Resident) (v6 : Table (Nat × Nat)) (v7 : Table Nat) (v8 : List Flip) (v9 : List (Nat × Nat × Nat)) (v10 : List (Nat × Nat × Nat)) (v11 : List (Nat × Nat × Nat)) (v12 : Table (Option TraceDesc)) (v13 : Table (Option (Option TraceDesc))) (v14 : Table Nat) :
    Work.erase ft { w with s.jobs := v0, s.lanes := v1, s.lanesNow := v2, s.windows := v3, s.requests := v4, s.resident := v5, s.partials := v6, s.journal := v7, s.flips := v8, s.retierList := v9, s.retierDone := v10, s.retierDue := v11, s.traceDesc := v12, s.traceNext := v13, s.idleNs := v14 } = w.erase ft := by simp [Work.erase, Work.rest, State.tile, h]
@[simp] theorem Work.erase_set_journal_flips_retierList_retierDone_retierDue {ft : Part → Bool} (h : ft .journal = true ∧ ft .flips = true ∧ ft .retierList = true ∧ ft .retierDone = true ∧ ft .retierDue = true) (w : Work)
    (v0 : Table Nat) (v1 : List Flip) (v2 : List (Nat × Nat × Nat)) (v3 : List (Nat × Nat × Nat)) (v4 : List (Nat × Nat × Nat)) :
    Work.erase ft { w with s.journal := v0, s.flips := v1, s.retierList := v2, s.retierDone := v3, s.retierDue := v4 } = w.erase ft := by simp [Work.erase, Work.rest, State.tile, h]
@[simp] theorem Work.erase_set_lanes_lanesNow {ft : Part → Bool} (h : ft .lanes = true ∧ ft .lanesNow = true) (w : Work)
    (v0 : Table Nat) (v1 : Table Nat) :
    Work.erase ft { w with s.lanes := v0, s.lanesNow := v1 } = w.erase ft := by simp [Work.erase, Work.rest, State.tile, h]
@[simp] theorem Work.erase_set_lanes_retierList_retierDone {ft : Part → Bool} (h : ft .lanes = true ∧ ft .retierList = true ∧ ft .retierDone = true) (w : Work)
    (v0 : Table Nat) (v1 : List (Nat × Nat × Nat)) (v2 : List (Nat × Nat × Nat)) :
    Work.erase ft { w with s.lanes := v0, s.retierList := v1, s.retierDone := v2 } = w.erase ft := by simp [Work.erase, Work.rest, State.tile, h]
@[simp] theorem Work.erase_set_pad_flash {ft : Part → Bool} (h : ft .pad = true ∧ ft .flash = true) (w : Work)
    (v0 : Pad) (v1 : Flash) :
    Work.erase ft { w with s.pad := v0, s.flash := v1 } = w.erase ft := by simp [Work.erase, Work.rest, State.tile, h]
@[simp] theorem Work.erase_set_pad_mgt {ft : Part → Bool} (h : ft .pad = true ∧ ft .mgt = true) (w : Work)
    (v0 : Pad) (v1 : Mgt) :
    Work.erase ft { w with s.pad := v0, s.mgt := v1 } = w.erase ft := by simp [Work.erase, Work.rest, State.tile, h]
@[simp] theorem Work.erase_set_pcieTx_hw {ft : Part → Bool} (h : ft .pcieTx = true ∧ ft .hw = true) (w : Work)
    (v0 : Nat) (v1 : List (Nat × Byte)) :
    Work.erase ft { w with s.pcieTx := v0, hw := v1 } = w.erase ft := by simp [Work.erase, Work.rest, State.tile, h]
@[simp] theorem Work.erase_set_pins_boot {ft : Part → Bool} (h : ft .pins = true ∧ ft .boot = true) (w : Work)
    (v0 : Pins) (v1 : Boot) :
    Work.erase ft { w with s.pins := v0, s.boot := v1 } = w.erase ft := by simp [Work.erase, Work.rest, State.tile, h]
@[simp] theorem Work.erase_set_pins_boot_power {ft : Part → Bool} (h : ft .pins = true ∧ ft .boot = true ∧ ft .power = true) (w : Work)
    (v0 : Pins) (v1 : Boot) (v2 : Power) :
    Work.erase ft { w with s.pins := v0, s.boot := v1, s.power := v2 } = w.erase ft := by simp [Work.erase, Work.rest, State.tile, h]
@[simp] theorem Work.erase_set_pins_boot_sched_fns {ft : Part → Bool} (h : ft .pins = true ∧ ft .boot = true ∧ ft .sched = true ∧ ft .fns = true) (w : Work)
    (v0 : Pins) (v1 : Boot) (v2 : Sched) (v3 : Table Fn) :
    Work.erase ft { w with s.pins := v0, s.boot := v1, s.sched := v2, s.fns := v3 } = w.erase ft := by simp [Work.erase, Work.rest, State.tile, h]
@[simp] theorem Work.erase_set_pins_boot_vfEnable {ft : Part → Bool} (h : ft .pins = true ∧ ft .boot = true ∧ ft .vfEnable = true) (w : Work)
    (v0 : Pins) (v1 : Boot) (v2 : Bool) :
    Work.erase ft { w with s.pins := v0, s.boot := v1, s.vfEnable := v2 } = w.erase ft := by simp [Work.erase, Work.rest, State.tile, h]
@[simp] theorem Work.erase_set_pins_time_flash {ft : Part → Bool} (h : ft .pins = true ∧ ft .time = true ∧ ft .flash = true) (w : Work)
    (v0 : Pins) (v1 : FTime) (v2 : Flash) :
    Work.erase ft { w with s.pins := v0, s.time := v1, s.flash := v2 } = w.erase ft := by simp [Work.erase, Work.rest, State.tile, h]
@[simp] theorem Work.erase_set_requests_nextTag {ft : Part → Bool} (h : ft .requests = true ∧ ft .nextTag = true) (w : Work)
    (v0 : List Request) (v1 : Nat) :
    Work.erase ft { w with s.requests := v0, s.nextTag := v1 } = w.erase ft := by simp [Work.erase, Work.rest, State.tile, h]
@[simp] theorem Work.erase_set_retierList_retierDue {ft : Part → Bool} (h : ft .retierList = true ∧ ft .retierDue = true) (w : Work)
    (v0 : List (Nat × Nat × Nat)) (v1 : List (Nat × Nat × Nat)) :
    Work.erase ft { w with s.retierList := v0, s.retierDue := v1 } = w.erase ft := by simp [Work.erase, Work.rest, State.tile, h]
@[simp] theorem Work.erase_set_time_bank {ft : Part → Bool} (h : ft .time = true ∧ ft .bank = true) (w : Work)
    (v0 : FTime) (v1 : Bank) :
    Work.erase ft { w with s.time := v0, s.bank := v1 } = w.erase ft := by simp [Work.erase, Work.rest, State.tile, h]
@[simp] theorem Work.erase_set_time_form {ft : Part → Bool} (h : ft .time = true ∧ ft .form = true) (w : Work)
    (v0 : FTime) (v1 : Form) :
    Work.erase ft { w with s.time := v0, s.form := v1 } = w.erase ft := by simp [Work.erase, Work.rest, State.tile, h]
@[simp] theorem Work.erase_set_time_form_bank {ft : Part → Bool} (h : ft .time = true ∧ ft .form = true ∧ ft .bank = true) (w : Work)
    (v0 : FTime) (v1 : Form) (v2 : Bank) :
    Work.erase ft { w with s.time := v0, s.form := v1, s.bank := v2 } = w.erase ft := by simp [Work.erase, Work.rest, State.tile, h]
@[simp] theorem Work.erase_set_traceDesc_traceNext {ft : Part → Bool} (h : ft .traceDesc = true ∧ ft .traceNext = true) (w : Work)
    (v0 : Table (Option TraceDesc)) (v1 : Table (Option (Option TraceDesc))) :
    Work.erase ft { w with s.traceDesc := v0, s.traceNext := v1 } = w.erase ft := by simp [Work.erase, Work.rest, State.tile, h]
@[simp] theorem Work.erase_set_windows_tests {ft : Part → Bool} (h : ft .windows = true ∧ ft .tests = true) (w : Work)
    (v0 : List Window) (v1 : List TestRun) :
    Work.erase ft { w with s.windows := v0, s.tests := v1 } = w.erase ft := by simp [Work.erase, Work.rest, State.tile, h]

/-- A work repeated over a list keeps what each round keeps. -/
@[simp] theorem Work.erase_each {α : Type} {ft : Part → Bool} (w : Work) (xs : List α) (f : Work → α → Work)
    (h : ∀ w x, (f w x).erase ft = w.erase ft) : (w.each xs f).erase ft = w.erase ft := by
  unfold Work.each
  induction xs generalizing w with
  | nil => rfl
  | cons x xs ih => exact (ih (f w x)).trans (h w x)

/-- An intermediate work that keeps what `w` has. -/
theorem Work.erase_step {ft : Part → Bool} {x w : Work} {P : Prop} (hv : x.erase ft = w.erase ft)
    (hk : x.erase ft = w.erase ft → P) : P := hk hv

/-- The work of a pair that a match has taken apart. -/
theorem Work.erase_snd {α : Type} {ft : Part → Bool} {p : α × Work} {a : α} {v : Work} (h : p = (a, v)) :
    v.erase ft = p.2.erase ft := by rw [h]

@[simp] theorem Work.erase_foldl {α : Type} {ft : Part → Bool} (w : Work) (xs : List α) (f : Work → α → Work)
    (h : ∀ w x, (f w x).erase ft = w.erase ft) : Work.erase ft (xs.foldl f w) = w.erase ft := Work.erase_each w xs f h

/-- The work of a pair taken apart keeps what the pair's work keeps. -/
theorem Work.erase_pair {α : Type} {ft : Part → Bool} {p : α × Work} {a : α} {v w : Work} {P : Prop} (h : p = (a, v))
    (hv : p.2.erase ft = w.erase ft) (hk : v.erase ft = w.erase ft → P) : P := hk (by rw [← hv, h])

theorem Work.erase_triple {α β : Type} {ft : Part → Bool} {p : α × β × Work} {a : α} {b : β} {v w : Work} {P : Prop}
    (h : p = (a, b, v)) (hv : p.2.2.erase ft = w.erase ft) (hk : v.erase ft = w.erase ft → P) : P := hk (by rw [← hv, h])

/-- A fold whose rounds keep their work. -/
theorem Work.erase_fold2 {α β : Type} {ft : Part → Bool} (p : α × Work) (xs : List β) (f : α × Work → β → α × Work)
    (h : ∀ a w x, (f (a, w) x).2.erase ft = w.erase ft) : (xs.foldl f p).2.erase ft = p.2.erase ft := by
  induction xs generalizing p with
  | nil => rfl
  | cons x xs ih => exact (ih (f p x)).trans (h p.1 p.2 x)

theorem Work.erase_fold3 {α β γ : Type} {ft : Part → Bool} (p : α × β × Work) (xs : List γ)
    (f : α × β × Work → γ → α × β × Work) (h : ∀ a b w x, (f (a, b, w) x).2.2.erase ft = w.erase ft) :
    (xs.foldl f p).2.2.erase ft = p.2.2.erase ft := by
  induction xs generalizing p with
  | nil => rfl
  | cons x xs ih => exact (ih (f p x)).trans (h p.1 p.2.1 p.2.2 x)

@[simp] theorem Work.erase_ite {ft : Part → Bool} (p : Prop) [Decidable p] (a b : Work) :
    Work.erase ft (if p then a else b) = if p then a.erase ft else b.erase ft := by split <;> rfl

theorem Work.keeps_pending {ft : Part → Bool} {w v : Work} (h : w.erase ft = v.erase ft) (hp : ft .pending = false) : w.s.pending = v.s.pending := by
  have := congrArg (fun e => e.w.s.pending) h
  simpa [Work.erase, Work.rest, hp] using this
theorem Work.keeps_sent {ft : Part → Bool} {w v : Work} (h : w.erase ft = v.erase ft) (hp : ft .sent = false) : w.s.sent = v.s.sent := by
  have := congrArg (fun e => e.w.s.sent) h
  simpa [Work.erase, Work.rest, hp] using this
theorem Work.keeps_free {ft : Part → Bool} {w v : Work} (h : w.erase ft = v.erase ft) (hp : ft .free = false) : w.s.free = v.s.free := by
  have := congrArg (fun e => e.w.s.free) h
  simpa [Work.erase, Work.rest, hp] using this
theorem Work.keeps_mem {ft : Part → Bool} {w v : Work} (h : w.erase ft = v.erase ft) (hp : ft .mem = false) : w.s.mem = v.s.mem := by
  have := congrArg (fun e => e.w.s.mem) h
  simpa [Work.erase, Work.rest, hp] using this
theorem Work.keeps_poison {ft : Part → Bool} {w v : Work} (h : w.erase ft = v.erase ft) (hp : ft .poison = false) : w.s.poison = v.s.poison := by
  have := congrArg (fun e => e.w.s.poison) h
  simpa [Work.erase, Work.rest, hp] using this
theorem Work.keeps_host {ft : Part → Bool} {w v : Work} (h : w.erase ft = v.erase ft) (hp : ft .host = false) : w.s.host = v.s.host := by
  have := congrArg (fun e => e.w.s.host) h
  simpa [Work.erase, Work.rest, hp] using this
theorem Work.keeps_pins {ft : Part → Bool} {w v : Work} (h : w.erase ft = v.erase ft) (hp : ft .pins = false) : w.s.pins = v.s.pins := by
  have := congrArg (fun e => e.w.s.pins) h
  simpa [Work.erase, Work.rest, hp] using this
theorem Work.keeps_boot {ft : Part → Bool} {w v : Work} (h : w.erase ft = v.erase ft) (hp : ft .boot = false) : w.s.boot = v.s.boot := by
  have := congrArg (fun e => e.w.s.boot) h
  simpa [Work.erase, Work.rest, hp] using this
theorem Work.keeps_power {ft : Part → Bool} {w v : Work} (h : w.erase ft = v.erase ft) (hp : ft .power = false) : w.s.power = v.s.power := by
  have := congrArg (fun e => e.w.s.power) h
  simpa [Work.erase, Work.rest, hp] using this
theorem Work.keeps_time {ft : Part → Bool} {w v : Work} (h : w.erase ft = v.erase ft) (hp : ft .time = false) : w.s.time = v.s.time := by
  have := congrArg (fun e => e.w.s.time) h
  simpa [Work.erase, Work.rest, hp] using this
theorem Work.keeps_pad {ft : Part → Bool} {w v : Work} (h : w.erase ft = v.erase ft) (hp : ft .pad = false) : w.s.pad = v.s.pad := by
  have := congrArg (fun e => e.w.s.pad) h
  simpa [Work.erase, Work.rest, hp] using this
theorem Work.keeps_flash {ft : Part → Bool} {w v : Work} (h : w.erase ft = v.erase ft) (hp : ft .flash = false) : w.s.flash = v.s.flash := by
  have := congrArg (fun e => e.w.s.flash) h
  simpa [Work.erase, Work.rest, hp] using this
theorem Work.keeps_mgt {ft : Part → Bool} {w v : Work} (h : w.erase ft = v.erase ft) (hp : ft .mgt = false) : w.s.mgt = v.s.mgt := by
  have := congrArg (fun e => e.w.s.mgt) h
  simpa [Work.erase, Work.rest, hp] using this
theorem Work.keeps_sched {ft : Part → Bool} {w v : Work} (h : w.erase ft = v.erase ft) (hp : ft .sched = false) : w.s.sched = v.s.sched := by
  have := congrArg (fun e => e.w.s.sched) h
  simpa [Work.erase, Work.rest, hp] using this
theorem Work.keeps_progs {ft : Part → Bool} {w v : Work} (h : w.erase ft = v.erase ft) (hp : ft .progs = false) : w.s.progs = v.s.progs := by
  have := congrArg (fun e => e.w.s.progs) h
  simpa [Work.erase, Work.rest, hp] using this
theorem Work.keeps_space {ft : Part → Bool} {w v : Work} (h : w.erase ft = v.erase ft) (hp : ft .space = false) : w.s.space = v.s.space := by
  have := congrArg (fun e => e.w.s.space) h
  simpa [Work.erase, Work.rest, hp] using this
theorem Work.keeps_fns {ft : Part → Bool} {w v : Work} (h : w.erase ft = v.erase ft) (hp : ft .fns = false) : w.s.fns = v.s.fns := by
  have := congrArg (fun e => e.w.s.fns) h
  simpa [Work.erase, Work.rest, hp] using this
theorem Work.keeps_rings {ft : Part → Bool} {w v : Work} (h : w.erase ft = v.erase ft) (hp : ft .rings = false) : w.s.rings = v.s.rings := by
  have := congrArg (fun e => e.w.s.rings) h
  simpa [Work.erase, Work.rest, hp] using this
theorem Work.keeps_actives {ft : Part → Bool} {w v : Work} (h : w.erase ft = v.erase ft) (hp : ft .actives = false) : w.s.actives = v.s.actives := by
  have := congrArg (fun e => e.w.s.actives) h
  simpa [Work.erase, Work.rest, hp] using this
theorem Work.keeps_latch {ft : Part → Bool} {w v : Work} (h : w.erase ft = v.erase ft) (hp : ft .latch = false) : w.s.latch = v.s.latch := by
  have := congrArg (fun e => e.w.s.latch) h
  simpa [Work.erase, Work.rest, hp] using this
theorem Work.keeps_vfEnable {ft : Part → Bool} {w v : Work} (h : w.erase ft = v.erase ft) (hp : ft .vfEnable = false) : w.s.vfEnable = v.s.vfEnable := by
  have := congrArg (fun e => e.w.s.vfEnable) h
  simpa [Work.erase, Work.rest, hp] using this
theorem Work.keeps_pcieRx {ft : Part → Bool} {w v : Work} (h : w.erase ft = v.erase ft) (hp : ft .pcieRx = false) : w.s.pcieRx = v.s.pcieRx := by
  have := congrArg (fun e => e.w.s.pcieRx) h
  simpa [Work.erase, Work.rest, hp] using this
theorem Work.keeps_pcieTx {ft : Part → Bool} {w v : Work} (h : w.erase ft = v.erase ft) (hp : ft .pcieTx = false) : w.s.pcieTx = v.s.pcieTx := by
  have := congrArg (fun e => e.w.s.pcieTx) h
  simpa [Work.erase, Work.rest, hp] using this
theorem Work.keeps_ctxs {ft : Part → Bool} {w v : Work} (h : w.erase ft = v.erase ft) (hp : ft .ctxs = false) : w.s.ctxs = v.s.ctxs := by
  have := congrArg (fun e => e.w.s.ctxs) h
  simpa [Work.erase, Work.rest, hp] using this
theorem Work.keeps_regions {ft : Part → Bool} {w v : Work} (h : w.erase ft = v.erase ft) (hp : ft .regions = false) : w.s.regions = v.s.regions := by
  have := congrArg (fun e => e.w.s.regions) h
  simpa [Work.erase, Work.rest, hp] using this
theorem Work.keeps_hbm {ft : Part → Bool} {w v : Work} (h : w.erase ft = v.erase ft) (hp : ft .hbm = false) : w.s.hbm = v.s.hbm := by
  have := congrArg (fun e => e.w.s.hbm) h
  simpa [Work.erase, Work.rest, hp] using this
theorem Work.keeps_pkgBytes {ft : Part → Bool} {w v : Work} (h : w.erase ft = v.erase ft) (hp : ft .pkgBytes = false) : w.s.pkgBytes = v.s.pkgBytes := by
  have := congrArg (fun e => e.w.s.pkgBytes) h
  simpa [Work.erase, Work.rest, hp] using this
theorem Work.keeps_ports {ft : Part → Bool} {w v : Work} (h : w.erase ft = v.erase ft) (hp : ft .ports = false) : w.s.ports = v.s.ports := by
  have := congrArg (fun e => e.w.s.ports) h
  simpa [Work.erase, Work.rest, hp] using this
theorem Work.keeps_form {ft : Part → Bool} {w v : Work} (h : w.erase ft = v.erase ft) (hp : ft .form = false) : w.s.form = v.s.form := by
  have := congrArg (fun e => e.w.s.form) h
  simpa [Work.erase, Work.rest, hp] using this
theorem Work.keeps_bank {ft : Part → Bool} {w v : Work} (h : w.erase ft = v.erase ft) (hp : ft .bank = false) : w.s.bank = v.s.bank := by
  have := congrArg (fun e => e.w.s.bank) h
  simpa [Work.erase, Work.rest, hp] using this
theorem Work.keeps_jobs {ft : Part → Bool} {w v : Work} (h : w.erase ft = v.erase ft) (hp : ft .jobs = false) : w.s.jobs = v.s.jobs := by
  have := congrArg (fun e => e.w.s.jobs) h
  simpa [Work.erase, Work.rest, hp] using this
theorem Work.keeps_tiles {ft : Part → Bool} {w v : Work} (h : w.erase ft = v.erase ft) (hp : ft .tiles = false) : w.s.tiles = v.s.tiles := by
  have := congrArg (fun e => e.w.s.tiles) h
  simpa [Work.erase, Work.rest, hp] using this
theorem Work.keeps_phys {ft : Part → Bool} {w v : Work} (h : w.erase ft = v.erase ft) (hp : ft .phys = false) : w.s.phys = v.s.phys := by
  have := congrArg (fun e => e.w.s.phys) h
  simpa [Work.erase, Work.rest, hp] using this
theorem Work.keeps_arrivals {ft : Part → Bool} {w v : Work} (h : w.erase ft = v.erase ft) (hp : ft .arrivals = false) : w.s.arrivals = v.s.arrivals := by
  have := congrArg (fun e => e.w.s.arrivals) h
  simpa [Work.erase, Work.rest, hp] using this
theorem Work.keeps_lanes {ft : Part → Bool} {w v : Work} (h : w.erase ft = v.erase ft) (hp : ft .lanes = false) : w.s.lanes = v.s.lanes := by
  have := congrArg (fun e => e.w.s.lanes) h
  simpa [Work.erase, Work.rest, hp] using this
theorem Work.keeps_lanesNow {ft : Part → Bool} {w v : Work} (h : w.erase ft = v.erase ft) (hp : ft .lanesNow = false) : w.s.lanesNow = v.s.lanesNow := by
  have := congrArg (fun e => e.w.s.lanesNow) h
  simpa [Work.erase, Work.rest, hp] using this
theorem Work.keeps_windows {ft : Part → Bool} {w v : Work} (h : w.erase ft = v.erase ft) (hp : ft .windows = false) : w.s.windows = v.s.windows := by
  have := congrArg (fun e => e.w.s.windows) h
  simpa [Work.erase, Work.rest, hp] using this
theorem Work.keeps_tests {ft : Part → Bool} {w v : Work} (h : w.erase ft = v.erase ft) (hp : ft .tests = false) : w.s.tests = v.s.tests := by
  have := congrArg (fun e => e.w.s.tests) h
  simpa [Work.erase, Work.rest, hp] using this
theorem Work.keeps_retiring {ft : Part → Bool} {w v : Work} (h : w.erase ft = v.erase ft) (hp : ft .retiring = false) : w.s.retiring = v.s.retiring := by
  have := congrArg (fun e => e.w.s.retiring) h
  simpa [Work.erase, Work.rest, hp] using this
theorem Work.keeps_requests {ft : Part → Bool} {w v : Work} (h : w.erase ft = v.erase ft) (hp : ft .requests = false) : w.s.requests = v.s.requests := by
  have := congrArg (fun e => e.w.s.requests) h
  simpa [Work.erase, Work.rest, hp] using this
theorem Work.keeps_nextTag {ft : Part → Bool} {w v : Work} (h : w.erase ft = v.erase ft) (hp : ft .nextTag = false) : w.s.nextTag = v.s.nextTag := by
  have := congrArg (fun e => e.w.s.nextTag) h
  simpa [Work.erase, Work.rest, hp] using this
theorem Work.keeps_routeDrops {ft : Part → Bool} {w v : Work} (h : w.erase ft = v.erase ft) (hp : ft .routeDrops = false) : w.s.routeDrops = v.s.routeDrops := by
  have := congrArg (fun e => e.w.s.routeDrops) h
  simpa [Work.erase, Work.rest, hp] using this
theorem Work.keeps_resident {ft : Part → Bool} {w v : Work} (h : w.erase ft = v.erase ft) (hp : ft .resident = false) : w.s.resident = v.s.resident := by
  have := congrArg (fun e => e.w.s.resident) h
  simpa [Work.erase, Work.rest, hp] using this
theorem Work.keeps_partials {ft : Part → Bool} {w v : Work} (h : w.erase ft = v.erase ft) (hp : ft .partials = false) : w.s.partials = v.s.partials := by
  have := congrArg (fun e => e.w.s.partials) h
  simpa [Work.erase, Work.rest, hp] using this
theorem Work.keeps_journal {ft : Part → Bool} {w v : Work} (h : w.erase ft = v.erase ft) (hp : ft .journal = false) : w.s.journal = v.s.journal := by
  have := congrArg (fun e => e.w.s.journal) h
  simpa [Work.erase, Work.rest, hp] using this
theorem Work.keeps_flips {ft : Part → Bool} {w v : Work} (h : w.erase ft = v.erase ft) (hp : ft .flips = false) : w.s.flips = v.s.flips := by
  have := congrArg (fun e => e.w.s.flips) h
  simpa [Work.erase, Work.rest, hp] using this
theorem Work.keeps_retierList {ft : Part → Bool} {w v : Work} (h : w.erase ft = v.erase ft) (hp : ft .retierList = false) : w.s.retierList = v.s.retierList := by
  have := congrArg (fun e => e.w.s.retierList) h
  simpa [Work.erase, Work.rest, hp] using this
theorem Work.keeps_retierDone {ft : Part → Bool} {w v : Work} (h : w.erase ft = v.erase ft) (hp : ft .retierDone = false) : w.s.retierDone = v.s.retierDone := by
  have := congrArg (fun e => e.w.s.retierDone) h
  simpa [Work.erase, Work.rest, hp] using this
theorem Work.keeps_retierDue {ft : Part → Bool} {w v : Work} (h : w.erase ft = v.erase ft) (hp : ft .retierDue = false) : w.s.retierDue = v.s.retierDue := by
  have := congrArg (fun e => e.w.s.retierDue) h
  simpa [Work.erase, Work.rest, hp] using this
theorem Work.keeps_traceDesc {ft : Part → Bool} {w v : Work} (h : w.erase ft = v.erase ft) (hp : ft .traceDesc = false) : w.s.traceDesc = v.s.traceDesc := by
  have := congrArg (fun e => e.w.s.traceDesc) h
  simpa [Work.erase, Work.rest, hp] using this
theorem Work.keeps_traceNext {ft : Part → Bool} {w v : Work} (h : w.erase ft = v.erase ft) (hp : ft .traceNext = false) : w.s.traceNext = v.s.traceNext := by
  have := congrArg (fun e => e.w.s.traceNext) h
  simpa [Work.erase, Work.rest, hp] using this
theorem Work.keeps_idleNs {ft : Part → Bool} {w v : Work} (h : w.erase ft = v.erase ft) (hp : ft .idleNs = false) : w.s.idleNs = v.s.idleNs := by
  have := congrArg (fun e => e.w.s.idleNs) h
  simpa [Work.erase, Work.rest, hp] using this
theorem Work.keeps_mw {ft : Part → Bool} {w v : Work} (h : w.erase ft = v.erase ft) (hp : ft .mw = false) : w.mw = v.mw := by
  have := congrArg (fun e => e.w.mw) h
  simpa [Work.erase, Work.rest, hp] using this
theorem Work.keeps_hw {ft : Part → Bool} {w v : Work} (h : w.erase ft = v.erase ft) (hp : ft .hw = false) : w.hw = v.hw := by
  have := congrArg (fun e => e.w.hw) h
  simpa [Work.erase, Work.rest, hp] using this
theorem Work.keeps_sw {ft : Part → Bool} {w v : Work} (h : w.erase ft = v.erase ft) (hp : ft .sw = false) : w.sw = v.sw := by
  have := congrArg (fun e => e.w.sw) h
  simpa [Work.erase, Work.rest, hp] using this
theorem Work.keeps_stop {ft : Part → Bool} {w v : Work} (h : w.erase ft = v.erase ft) (hp : ft .stop = false) : w.stop = v.stop := by
  have := congrArg (fun e => e.w.stop) h
  simpa [Work.erase, Work.rest, hp] using this

theorem Work.same_pending {w v : Work} (h : w.erase (fun p => decide (p ≠ .pending)) = v.erase (fun p => decide (p ≠ .pending))) :
    w.s.pending = v.s.pending := Work.keeps_pending h (by decide)
theorem Work.same_sent {w v : Work} (h : w.erase (fun p => decide (p ≠ .sent)) = v.erase (fun p => decide (p ≠ .sent))) :
    w.s.sent = v.s.sent := Work.keeps_sent h (by decide)
theorem Work.same_free {w v : Work} (h : w.erase (fun p => decide (p ≠ .free)) = v.erase (fun p => decide (p ≠ .free))) :
    w.s.free = v.s.free := Work.keeps_free h (by decide)
theorem Work.same_mem {w v : Work} (h : w.erase (fun p => decide (p ≠ .mem)) = v.erase (fun p => decide (p ≠ .mem))) :
    w.s.mem = v.s.mem := Work.keeps_mem h (by decide)
theorem Work.same_poison {w v : Work} (h : w.erase (fun p => decide (p ≠ .poison)) = v.erase (fun p => decide (p ≠ .poison))) :
    w.s.poison = v.s.poison := Work.keeps_poison h (by decide)
theorem Work.same_host {w v : Work} (h : w.erase (fun p => decide (p ≠ .host)) = v.erase (fun p => decide (p ≠ .host))) :
    w.s.host = v.s.host := Work.keeps_host h (by decide)
theorem Work.same_pins {w v : Work} (h : w.erase (fun p => decide (p ≠ .pins)) = v.erase (fun p => decide (p ≠ .pins))) :
    w.s.pins = v.s.pins := Work.keeps_pins h (by decide)
theorem Work.same_boot {w v : Work} (h : w.erase (fun p => decide (p ≠ .boot)) = v.erase (fun p => decide (p ≠ .boot))) :
    w.s.boot = v.s.boot := Work.keeps_boot h (by decide)
theorem Work.same_power {w v : Work} (h : w.erase (fun p => decide (p ≠ .power)) = v.erase (fun p => decide (p ≠ .power))) :
    w.s.power = v.s.power := Work.keeps_power h (by decide)
theorem Work.same_time {w v : Work} (h : w.erase (fun p => decide (p ≠ .time)) = v.erase (fun p => decide (p ≠ .time))) :
    w.s.time = v.s.time := Work.keeps_time h (by decide)
theorem Work.same_pad {w v : Work} (h : w.erase (fun p => decide (p ≠ .pad)) = v.erase (fun p => decide (p ≠ .pad))) :
    w.s.pad = v.s.pad := Work.keeps_pad h (by decide)
theorem Work.same_flash {w v : Work} (h : w.erase (fun p => decide (p ≠ .flash)) = v.erase (fun p => decide (p ≠ .flash))) :
    w.s.flash = v.s.flash := Work.keeps_flash h (by decide)
theorem Work.same_mgt {w v : Work} (h : w.erase (fun p => decide (p ≠ .mgt)) = v.erase (fun p => decide (p ≠ .mgt))) :
    w.s.mgt = v.s.mgt := Work.keeps_mgt h (by decide)
theorem Work.same_sched {w v : Work} (h : w.erase (fun p => decide (p ≠ .sched)) = v.erase (fun p => decide (p ≠ .sched))) :
    w.s.sched = v.s.sched := Work.keeps_sched h (by decide)
theorem Work.same_progs {w v : Work} (h : w.erase (fun p => decide (p ≠ .progs)) = v.erase (fun p => decide (p ≠ .progs))) :
    w.s.progs = v.s.progs := Work.keeps_progs h (by decide)
theorem Work.same_space {w v : Work} (h : w.erase (fun p => decide (p ≠ .space)) = v.erase (fun p => decide (p ≠ .space))) :
    w.s.space = v.s.space := Work.keeps_space h (by decide)
theorem Work.same_fns {w v : Work} (h : w.erase (fun p => decide (p ≠ .fns)) = v.erase (fun p => decide (p ≠ .fns))) :
    w.s.fns = v.s.fns := Work.keeps_fns h (by decide)
theorem Work.same_rings {w v : Work} (h : w.erase (fun p => decide (p ≠ .rings)) = v.erase (fun p => decide (p ≠ .rings))) :
    w.s.rings = v.s.rings := Work.keeps_rings h (by decide)
theorem Work.same_actives {w v : Work} (h : w.erase (fun p => decide (p ≠ .actives)) = v.erase (fun p => decide (p ≠ .actives))) :
    w.s.actives = v.s.actives := Work.keeps_actives h (by decide)
theorem Work.same_latch {w v : Work} (h : w.erase (fun p => decide (p ≠ .latch)) = v.erase (fun p => decide (p ≠ .latch))) :
    w.s.latch = v.s.latch := Work.keeps_latch h (by decide)
theorem Work.same_vfEnable {w v : Work} (h : w.erase (fun p => decide (p ≠ .vfEnable)) = v.erase (fun p => decide (p ≠ .vfEnable))) :
    w.s.vfEnable = v.s.vfEnable := Work.keeps_vfEnable h (by decide)
theorem Work.same_pcieRx {w v : Work} (h : w.erase (fun p => decide (p ≠ .pcieRx)) = v.erase (fun p => decide (p ≠ .pcieRx))) :
    w.s.pcieRx = v.s.pcieRx := Work.keeps_pcieRx h (by decide)
theorem Work.same_pcieTx {w v : Work} (h : w.erase (fun p => decide (p ≠ .pcieTx)) = v.erase (fun p => decide (p ≠ .pcieTx))) :
    w.s.pcieTx = v.s.pcieTx := Work.keeps_pcieTx h (by decide)
theorem Work.same_ctxs {w v : Work} (h : w.erase (fun p => decide (p ≠ .ctxs)) = v.erase (fun p => decide (p ≠ .ctxs))) :
    w.s.ctxs = v.s.ctxs := Work.keeps_ctxs h (by decide)
theorem Work.same_regions {w v : Work} (h : w.erase (fun p => decide (p ≠ .regions)) = v.erase (fun p => decide (p ≠ .regions))) :
    w.s.regions = v.s.regions := Work.keeps_regions h (by decide)
theorem Work.same_hbm {w v : Work} (h : w.erase (fun p => decide (p ≠ .hbm)) = v.erase (fun p => decide (p ≠ .hbm))) :
    w.s.hbm = v.s.hbm := Work.keeps_hbm h (by decide)
theorem Work.same_pkgBytes {w v : Work} (h : w.erase (fun p => decide (p ≠ .pkgBytes)) = v.erase (fun p => decide (p ≠ .pkgBytes))) :
    w.s.pkgBytes = v.s.pkgBytes := Work.keeps_pkgBytes h (by decide)
theorem Work.same_ports {w v : Work} (h : w.erase (fun p => decide (p ≠ .ports)) = v.erase (fun p => decide (p ≠ .ports))) :
    w.s.ports = v.s.ports := Work.keeps_ports h (by decide)
theorem Work.same_form {w v : Work} (h : w.erase (fun p => decide (p ≠ .form)) = v.erase (fun p => decide (p ≠ .form))) :
    w.s.form = v.s.form := Work.keeps_form h (by decide)
theorem Work.same_bank {w v : Work} (h : w.erase (fun p => decide (p ≠ .bank)) = v.erase (fun p => decide (p ≠ .bank))) :
    w.s.bank = v.s.bank := Work.keeps_bank h (by decide)
theorem Work.same_jobs {w v : Work} (h : w.erase (fun p => decide (p ≠ .jobs)) = v.erase (fun p => decide (p ≠ .jobs))) :
    w.s.jobs = v.s.jobs := Work.keeps_jobs h (by decide)
theorem Work.same_tiles {w v : Work} (h : w.erase (fun p => decide (p ≠ .tiles)) = v.erase (fun p => decide (p ≠ .tiles))) :
    w.s.tiles = v.s.tiles := Work.keeps_tiles h (by decide)
theorem Work.same_phys {w v : Work} (h : w.erase (fun p => decide (p ≠ .phys)) = v.erase (fun p => decide (p ≠ .phys))) :
    w.s.phys = v.s.phys := Work.keeps_phys h (by decide)
theorem Work.same_arrivals {w v : Work} (h : w.erase (fun p => decide (p ≠ .arrivals)) = v.erase (fun p => decide (p ≠ .arrivals))) :
    w.s.arrivals = v.s.arrivals := Work.keeps_arrivals h (by decide)
theorem Work.same_lanes {w v : Work} (h : w.erase (fun p => decide (p ≠ .lanes)) = v.erase (fun p => decide (p ≠ .lanes))) :
    w.s.lanes = v.s.lanes := Work.keeps_lanes h (by decide)
theorem Work.same_lanesNow {w v : Work} (h : w.erase (fun p => decide (p ≠ .lanesNow)) = v.erase (fun p => decide (p ≠ .lanesNow))) :
    w.s.lanesNow = v.s.lanesNow := Work.keeps_lanesNow h (by decide)
theorem Work.same_windows {w v : Work} (h : w.erase (fun p => decide (p ≠ .windows)) = v.erase (fun p => decide (p ≠ .windows))) :
    w.s.windows = v.s.windows := Work.keeps_windows h (by decide)
theorem Work.same_tests {w v : Work} (h : w.erase (fun p => decide (p ≠ .tests)) = v.erase (fun p => decide (p ≠ .tests))) :
    w.s.tests = v.s.tests := Work.keeps_tests h (by decide)
theorem Work.same_retiring {w v : Work} (h : w.erase (fun p => decide (p ≠ .retiring)) = v.erase (fun p => decide (p ≠ .retiring))) :
    w.s.retiring = v.s.retiring := Work.keeps_retiring h (by decide)
theorem Work.same_requests {w v : Work} (h : w.erase (fun p => decide (p ≠ .requests)) = v.erase (fun p => decide (p ≠ .requests))) :
    w.s.requests = v.s.requests := Work.keeps_requests h (by decide)
theorem Work.same_nextTag {w v : Work} (h : w.erase (fun p => decide (p ≠ .nextTag)) = v.erase (fun p => decide (p ≠ .nextTag))) :
    w.s.nextTag = v.s.nextTag := Work.keeps_nextTag h (by decide)
theorem Work.same_routeDrops {w v : Work} (h : w.erase (fun p => decide (p ≠ .routeDrops)) = v.erase (fun p => decide (p ≠ .routeDrops))) :
    w.s.routeDrops = v.s.routeDrops := Work.keeps_routeDrops h (by decide)
theorem Work.same_resident {w v : Work} (h : w.erase (fun p => decide (p ≠ .resident)) = v.erase (fun p => decide (p ≠ .resident))) :
    w.s.resident = v.s.resident := Work.keeps_resident h (by decide)
theorem Work.same_partials {w v : Work} (h : w.erase (fun p => decide (p ≠ .partials)) = v.erase (fun p => decide (p ≠ .partials))) :
    w.s.partials = v.s.partials := Work.keeps_partials h (by decide)
theorem Work.same_journal {w v : Work} (h : w.erase (fun p => decide (p ≠ .journal)) = v.erase (fun p => decide (p ≠ .journal))) :
    w.s.journal = v.s.journal := Work.keeps_journal h (by decide)
theorem Work.same_flips {w v : Work} (h : w.erase (fun p => decide (p ≠ .flips)) = v.erase (fun p => decide (p ≠ .flips))) :
    w.s.flips = v.s.flips := Work.keeps_flips h (by decide)
theorem Work.same_retierList {w v : Work} (h : w.erase (fun p => decide (p ≠ .retierList)) = v.erase (fun p => decide (p ≠ .retierList))) :
    w.s.retierList = v.s.retierList := Work.keeps_retierList h (by decide)
theorem Work.same_retierDone {w v : Work} (h : w.erase (fun p => decide (p ≠ .retierDone)) = v.erase (fun p => decide (p ≠ .retierDone))) :
    w.s.retierDone = v.s.retierDone := Work.keeps_retierDone h (by decide)
theorem Work.same_retierDue {w v : Work} (h : w.erase (fun p => decide (p ≠ .retierDue)) = v.erase (fun p => decide (p ≠ .retierDue))) :
    w.s.retierDue = v.s.retierDue := Work.keeps_retierDue h (by decide)
theorem Work.same_traceDesc {w v : Work} (h : w.erase (fun p => decide (p ≠ .traceDesc)) = v.erase (fun p => decide (p ≠ .traceDesc))) :
    w.s.traceDesc = v.s.traceDesc := Work.keeps_traceDesc h (by decide)
theorem Work.same_traceNext {w v : Work} (h : w.erase (fun p => decide (p ≠ .traceNext)) = v.erase (fun p => decide (p ≠ .traceNext))) :
    w.s.traceNext = v.s.traceNext := Work.keeps_traceNext h (by decide)
theorem Work.same_idleNs {w v : Work} (h : w.erase (fun p => decide (p ≠ .idleNs)) = v.erase (fun p => decide (p ≠ .idleNs))) :
    w.s.idleNs = v.s.idleNs := Work.keeps_idleNs h (by decide)
theorem Work.same_mw {w v : Work} (h : w.erase (fun p => decide (p ≠ .mw)) = v.erase (fun p => decide (p ≠ .mw))) :
    w.mw = v.mw := Work.keeps_mw h (by decide)
theorem Work.same_hw {w v : Work} (h : w.erase (fun p => decide (p ≠ .hw)) = v.erase (fun p => decide (p ≠ .hw))) :
    w.hw = v.hw := Work.keeps_hw h (by decide)
theorem Work.same_sw {w v : Work} (h : w.erase (fun p => decide (p ≠ .sw)) = v.erase (fun p => decide (p ≠ .sw))) :
    w.sw = v.sw := Work.keeps_sw h (by decide)
theorem Work.same_stop {w v : Work} (h : w.erase (fun p => decide (p ≠ .stop)) = v.erase (fun p => decide (p ≠ .stop))) :
    w.stop = v.stop := Work.keeps_stop h (by decide)

/-- The stream of a tile is what it was. -/
theorem Work.keeps_skel {ft : Part → Bool} {w v : Work} (h : w.erase ft = v.erase ft) (hp : ft .skel = false) (i : Nat) :
    (w.s.tile i).skel = (v.s.tile i).skel := by
  have := congrArg (fun e => e.streams i) h
  simpa [Work.erase, Work.rest, hp] using this

theorem Work.same_skel {w v : Work} (h : w.erase (fun p => decide (p ≠ .skel)) = v.erase (fun p => decide (p ≠ .skel))) (i : Nat) :
    (w.s.tile i).skel = (v.s.tile i).skel := Work.keeps_skel h (by decide) i

end Sys2Proof.Machine
end

