-- ==== Sys2Proof/Laws/Frame1.lean ====
section
/-! SUPPORT. Footprints of the operations of Ops, Sched, Host: each leaves alone whatever its parts do not name. -/

namespace Sys2Proof.Machine

@[simp] theorem Work.fail_erase {ft : Part → Bool} (hp : ft .stop = true) (w : Work) (rule : Nat) :
    (Work.fail w rule).erase ft = w.erase ft := by
  simp [Work.fail, hp]

@[simp] theorem Work.when_erase {ft : Part → Bool} (w : Work) (b : Bool) (f : Work → Work) (h_f : ∀ (y0 : Work), (f y0).erase ft = Work.erase ft y0) :
    (Work.when w b f).erase ft = w.erase ft := by
  unfold Work.when
  try dsimp only
  repeat' split
  all_goals first | with_reducible rfl | simp [h_f]

@[simp] theorem Work.send_erase {ft : Part → Bool} (hp : ft .sent = true) (w : Work) (m : Sent) :
    (Work.send w m).erase ft = w.erase ft := by
  unfold Work.send
  try dsimp only
  repeat' split
  all_goals first | with_reducible rfl | simp [hp]

@[simp] theorem Work.draw_erase {ft : Part → Bool} (hp : ft .free = true) (w : Work) :
    (Work.draw w).2.erase ft = w.erase ft := by
  unfold Work.draw
  try dsimp only
  repeat' split
  all_goals first | with_reducible rfl | simp [hp]

@[simp] theorem Work.valueOr_erase {ft : Part → Bool} (hp : ft .free = true) (w : Work) (v : Option Nat) :
    (Work.valueOr w v).2.erase ft = w.erase ft := by
  unfold Work.valueOr
  try dsimp only
  repeat' split
  all_goals first | with_reducible rfl | simp [hp]

@[simp] theorem Work.setFn_erase {ft : Part → Bool} (hp : ft .fns = true) (w : Work) (i : Nat) (v : Fn) :
    (Work.setFn w i v).erase ft = w.erase ft := by
  unfold Work.setFn
  try dsimp only
  repeat' split
  all_goals first | with_reducible rfl | simp [hp]

@[simp] theorem Work.modFn_erase {ft : Part → Bool} (hp : ft .fns = true) (w : Work) (i : Nat) (f : Fn → Fn) :
    (Work.modFn w i f).erase ft = w.erase ft := by
  unfold Work.modFn
  try dsimp only
  repeat' split
  all_goals first | with_reducible rfl | simp [hp]

@[simp] theorem Work.setRing_erase {ft : Part → Bool} (hp : ft .rings = true) (w : Work) (i : Nat) (v : Ring) :
    (Work.setRing w i v).erase ft = w.erase ft := by
  unfold Work.setRing
  try dsimp only
  repeat' split
  all_goals first | with_reducible rfl | simp [hp]

@[simp] theorem Work.modRing_erase {ft : Part → Bool} (hp : ft .rings = true) (w : Work) (i : Nat) (f : Ring → Ring) :
    (Work.modRing w i f).erase ft = w.erase ft := by
  unfold Work.modRing
  try dsimp only
  repeat' split
  all_goals first | with_reducible rfl | simp [hp]

@[simp] theorem Work.setCtx_erase {ft : Part → Bool} (hp : ft .ctxs = true) (w : Work) (i : Nat) (v : Ctx) :
    (Work.setCtx w i v).erase ft = w.erase ft := by
  unfold Work.setCtx
  try dsimp only
  repeat' split
  all_goals first | with_reducible rfl | simp [hp]

@[simp] theorem Work.modCtx_erase {ft : Part → Bool} (hp : ft .ctxs = true) (w : Work) (i : Nat) (f : Ctx → Ctx) :
    (Work.modCtx w i f).erase ft = w.erase ft := by
  unfold Work.modCtx
  try dsimp only
  repeat' split
  all_goals first | with_reducible rfl | simp [hp]

@[simp] theorem Work.setRegion_erase {ft : Part → Bool} (hp : ft .regions = true) (w : Work) (i : Nat) (v : Region) :
    (Work.setRegion w i v).erase ft = w.erase ft := by
  unfold Work.setRegion
  try dsimp only
  repeat' split
  all_goals first | with_reducible rfl | simp [hp]

@[simp] theorem Work.modRegion_erase {ft : Part → Bool} (hp : ft .regions = true) (w : Work) (i : Nat) (f : Region → Region) :
    (Work.modRegion w i f).erase ft = w.erase ft := by
  unfold Work.modRegion
  try dsimp only
  repeat' split
  all_goals first | with_reducible rfl | simp [hp]

@[simp] theorem Work.setStack_erase {ft : Part → Bool} (hp : ft .hbm = true) (w : Work) (i : Nat) (v : Stack) :
    (Work.setStack w i v).erase ft = w.erase ft := by
  unfold Work.setStack
  try dsimp only
  repeat' split
  all_goals first | with_reducible rfl | simp [hp]

@[simp] theorem Work.modStack_erase {ft : Part → Bool} (hp : ft .hbm = true) (w : Work) (i : Nat) (f : Stack → Stack) :
    (Work.modStack w i f).erase ft = w.erase ft := by
  unfold Work.modStack
  try dsimp only
  repeat' split
  all_goals first | with_reducible rfl | simp [hp]

@[simp] theorem Work.setPort_erase {ft : Part → Bool} (hp : ft .ports = true) (w : Work) (i : Nat) (v : Port) :
    (Work.setPort w i v).erase ft = w.erase ft := by
  unfold Work.setPort
  try dsimp only
  repeat' split
  all_goals first | with_reducible rfl | simp [hp]

@[simp] theorem Work.modPort_erase {ft : Part → Bool} (hp : ft .ports = true) (w : Work) (i : Nat) (f : Port → Port) :
    (Work.modPort w i f).erase ft = w.erase ft := by
  unfold Work.modPort
  try dsimp only
  repeat' split
  all_goals first | with_reducible rfl | simp [hp]

@[simp] theorem Work.setJob_erase {ft : Part → Bool} (hp : ft .jobs = true) (w : Work) (i : Nat) (v : JobTurn) :
    (Work.setJob w i v).erase ft = w.erase ft := by
  unfold Work.setJob
  try dsimp only
  repeat' split
  all_goals first | with_reducible rfl | simp [hp]

@[simp] theorem Work.modJob_erase {ft : Part → Bool} (hp : ft .jobs = true) (w : Work) (i : Nat) (f : JobTurn → JobTurn) :
    (Work.modJob w i f).erase ft = w.erase ft := by
  unfold Work.modJob
  try dsimp only
  repeat' split
  all_goals first | with_reducible rfl | simp [hp]

@[simp] theorem Work.setPh_erase {ft : Part → Bool} (hp : ft .phys = true) (w : Work) (i : Nat) (v : Phys) :
    (Work.setPh w i v).erase ft = w.erase ft := by
  unfold Work.setPh
  try dsimp only
  repeat' split
  all_goals first | with_reducible rfl | simp [hp]

@[simp] theorem Work.modPh_erase {ft : Part → Bool} (hp : ft .phys = true) (w : Work) (i : Nat) (f : Phys → Phys) :
    (Work.modPh w i f).erase ft = w.erase ft := by
  unfold Work.modPh
  try dsimp only
  repeat' split
  all_goals first | with_reducible rfl | simp [hp]

@[simp] theorem Work.setProg_erase {ft : Part → Bool} (hp : ft .progs = true) (w : Work) (i : Nat) (v : Option Prog) :
    (Work.setProg w i v).erase ft = w.erase ft := by
  unfold Work.setProg
  try dsimp only
  repeat' split
  all_goals first | with_reducible rfl | simp [hp]

@[simp] theorem Work.setThread_erase {ft : Part → Bool} (hp : ft .sched = true) (w : Work) (i : Nat) (v : Thread) :
    (Work.setThread w i v).erase ft = w.erase ft := by
  unfold Work.setThread
  try dsimp only
  repeat' split
  all_goals first | with_reducible rfl | simp [hp]

@[simp] theorem Work.setCore_erase {ft : Part → Bool} (hp : ft .sched = true) (w : Work) (i : Nat) (v : HubCore) :
    (Work.setCore w i v).erase ft = w.erase ft := by
  unfold Work.setCore
  try dsimp only
  repeat' split
  all_goals first | with_reducible rfl | simp [hp]

@[simp] theorem Work.readTime_erase {ft : Part → Bool} (hp : ft .free = true ∧ ft .time = true) (w : Work) :
    (Work.readTime w).2.erase ft = w.erase ft := by
  unfold Work.readTime
  repeat' first
    | with_reducible rfl
    | (extract_lets +onlyGivenNames x; first
        | (refine Work.erase_step (x := x) (w := w) (ft := ft) ?_ (fun hx => ?_); subst x; rotate_left; clear_value x; rotate_right)
        | (have _t : State := x; clear _t; subst x)
        | (have _t : Work → Work := x; clear _t; subst x)
        | (have _t : Nat → Work → Work := x; clear _t; subst x)
        | (have _t : Work → Nat → Work := x; clear _t; subst x)
        | (have _t : Work → (Resident → Resident) → Work := x; clear _t; subst x)
        | clear_value x)
    | (with_reducible refine (Work.erase_each _ _ _ (fun w _ => ?_)).trans ?_)
    | (with_reducible refine (Work.erase_fold2 _ _ _ (fun _ w _ => ?_)).trans ?_)
    | (with_reducible refine (Work.erase_fold3 _ _ _ (fun _ _ w _ => ?_)).trans ?_)
    | (split <;> try (rename_i hq; first
        | (with_reducible refine Work.erase_pair (w := w) (ft := ft) hq ?_ (fun hx => ?_); clear hq; rotate_left; clear hq; rotate_right)
        | (with_reducible refine Work.erase_triple (w := w) (ft := ft) hq ?_ (fun hx => ?_); clear hq; rotate_left; clear hq; rotate_right)
        | clear hq))
  all_goals simp [*]

@[simp] theorem Work.wrP_erase {ft : Part → Bool} (hp : ft .mw = true) (w : Work) (a : Nat) (v : Byte) (p : Bool) :
    (Work.wrP w a v p).erase ft = w.erase ft := by
  unfold Work.wrP
  try dsimp only
  repeat' split
  all_goals first | with_reducible rfl | simp [hp]

@[simp] theorem Work.wrBytesP_erase {ft : Part → Bool} (hp : ft .mw = true) (w : Work) (a : Nat) (p : Bool) (x0 : List Byte) :
    (Work.wrBytesP w a p x0).erase ft = w.erase ft := by
  induction x0 generalizing w a with
  | nil => rfl
  | cons v vs ih => simp [Work.wrBytesP, ih, hp]

@[simp] theorem Work.wrBytes_erase {ft : Part → Bool} (hp : ft .mw = true) (w : Work) (a : Nat) (vs : List Byte) :
    (Work.wrBytes w a vs).erase ft = w.erase ft := by
  unfold Work.wrBytes
  try dsimp only
  repeat' split
  all_goals first | with_reducible rfl | simp [hp]

@[simp] theorem Work.wrLe_erase {ft : Part → Bool} (hp : ft .mw = true) (w : Work) (a n x : Nat) :
    (Work.wrLe w a n x).erase ft = w.erase ft := by
  unfold Work.wrLe
  try dsimp only
  repeat' split
  all_goals first | with_reducible rfl | simp [hp]

@[simp] theorem Work.zero_erase {ft : Part → Bool} (hp : ft .mw = true) (w : Work) (a n : Nat) :
    (Work.zero w a n).erase ft = w.erase ft := by
  unfold Work.zero
  try dsimp only
  repeat' split
  all_goals first | with_reducible rfl | simp [hp]

@[simp] theorem Work.copy_erase {ft : Part → Bool} (hp : ft .mw = true) (w : Work) (src dst n : Nat) :
    (Work.copy w src dst n).erase ft = w.erase ft := by
  unfold Work.copy
  try dsimp only
  repeat' split
  all_goals first | with_reducible rfl | simp [hp]

@[simp] theorem Work.wrHost_erase {ft : Part → Bool} (hp : ft .pcieTx = true ∧ ft .hw = true) (w : Work) (fn a : Nat) (vs : List Byte) :
    (Work.wrHost w fn a vs).erase ft = w.erase ft := by
  unfold Work.wrHost
  try dsimp only
  repeat' split
  all_goals first | with_reducible rfl | simp [hp]

@[simp] theorem Work.announce_erase {ft : Part → Bool} (hp : ft .sent = true) (w : Work) (r : Rec) :
    (Work.announce w r).erase ft = w.erase ft := by
  unfold Work.announce
  try dsimp only
  repeat' split
  all_goals first | with_reducible rfl | simp [hp]

@[simp] theorem Work.store_erase {ft : Part → Bool} (hp : ft .sent = true ∧ ft .pad = true ∧ ft .flash = true) (w : Work) (recs : List Rec) (r : Rec) :
    (Work.store w recs r).erase ft = w.erase ft := by
  unfold Work.store
  repeat' first
    | with_reducible rfl
    | (extract_lets +onlyGivenNames x; first
        | (refine Work.erase_step (x := x) (w := w) (ft := ft) ?_ (fun hx => ?_); subst x; rotate_left; clear_value x; rotate_right)
        | (have _t : State := x; clear _t; subst x)
        | (have _t : Work → Work := x; clear _t; subst x)
        | (have _t : Nat → Work → Work := x; clear _t; subst x)
        | (have _t : Work → Nat → Work := x; clear _t; subst x)
        | (have _t : Work → (Resident → Resident) → Work := x; clear _t; subst x)
        | clear_value x)
    | (with_reducible refine (Work.erase_each _ _ _ (fun w _ => ?_)).trans ?_)
    | (with_reducible refine (Work.erase_fold2 _ _ _ (fun _ w _ => ?_)).trans ?_)
    | (with_reducible refine (Work.erase_fold3 _ _ _ (fun _ _ w _ => ?_)).trans ?_)
    | (split <;> try (rename_i hq; first
        | (with_reducible refine Work.erase_pair (w := w) (ft := ft) hq ?_ (fun hx => ?_); clear hq; rotate_left; clear hq; rotate_right)
        | (with_reducible refine Work.erase_triple (w := w) (ft := ft) hq ?_ (fun hx => ?_); clear hq; rotate_left; clear hq; rotate_right)
        | clear hq))
  all_goals simp [*]

@[simp] theorem Work.submit_erase {ft : Part → Bool} (hp : ft .sent = true ∧ ft .pad = true ∧ ft .flash = true) (w : Work) (code sev src p0 p1 p2 : Nat) (ctx : Option Nat) (clear : Bool) :
    (Work.submit w code sev src p0 p1 p2 ctx clear).erase ft = w.erase ft := by
  unfold Work.submit
  repeat' first
    | with_reducible rfl
    | (extract_lets +onlyGivenNames x; first
        | (refine Work.erase_step (x := x) (w := w) (ft := ft) ?_ (fun hx => ?_); subst x; rotate_left; clear_value x; rotate_right)
        | (have _t : State := x; clear _t; subst x)
        | (have _t : Work → Work := x; clear _t; subst x)
        | (have _t : Nat → Work → Work := x; clear _t; subst x)
        | (have _t : Work → Nat → Work := x; clear _t; subst x)
        | (have _t : Work → (Resident → Resident) → Work := x; clear _t; subst x)
        | clear_value x)
    | (with_reducible refine (Work.erase_each _ _ _ (fun w _ => ?_)).trans ?_)
    | (with_reducible refine (Work.erase_fold2 _ _ _ (fun _ w _ => ?_)).trans ?_)
    | (with_reducible refine (Work.erase_fold3 _ _ _ (fun _ _ w _ => ?_)).trans ?_)
    | (split <;> try (rename_i hq; first
        | (with_reducible refine Work.erase_pair (w := w) (ft := ft) hq ?_ (fun hx => ?_); clear hq; rotate_left; clear hq; rotate_right)
        | (with_reducible refine Work.erase_triple (w := w) (ft := ft) hq ?_ (fun hx => ?_); clear hq; rotate_left; clear hq; rotate_right)
        | clear hq))
  all_goals simp [*]

@[simp] theorem Work.message_erase {ft : Part → Bool} (hp : ft .sent = true ∧ ft .fns = true) (w : Work) (f vec : Nat) :
    (Work.message w f vec).erase ft = w.erase ft := by
  unfold Work.message
  try dsimp only
  repeat' split
  all_goals first | with_reducible rfl | simp [hp]

@[simp] theorem Work.cause_erase {ft : Part → Bool} (hp : ft .sent = true ∧ ft .fns = true) (w : Work) (f vec : Nat) :
    (Work.cause w f vec).erase ft = w.erase ft := by
  unfold Work.cause
  try dsimp only
  repeat' split
  all_goals first | with_reducible rfl | simp [hp]

@[simp] theorem Work.recordCtx_erase {ft : Part → Bool} (hp : ft .sent = true ∧ ft .pad = true ∧ ft .flash = true ∧ ft .fns = true) (w : Work) (code sev src p0 p1 p2 : Nat) (ctx : Option Nat) :
    (Work.recordCtx w code sev src p0 p1 p2 ctx).erase ft = w.erase ft := by
  unfold Work.recordCtx
  try dsimp only
  repeat' split
  all_goals first | with_reducible rfl | simp [hp]

@[simp] theorem Work.record_erase {ft : Part → Bool} (hp : ft .sent = true ∧ ft .pad = true ∧ ft .flash = true ∧ ft .fns = true) (w : Work) (code sev src p0 p1 p2 : Nat) :
    (Work.record w code sev src p0 p1 p2).erase ft = w.erase ft := by
  unfold Work.record
  try dsimp only
  repeat' split
  all_goals first | with_reducible rfl | simp [hp]

@[simp] theorem Work.assign_erase {ft : Part → Bool} (hp : ft .sent = true ∧ ft .sched = true) (w : Work) (t core : Nat) :
    (Work.assign w t core).erase ft = w.erase ft := by
  unfold Work.assign
  repeat' first
    | with_reducible rfl
    | (extract_lets +onlyGivenNames x; first
        | (refine Work.erase_step (x := x) (w := w) (ft := ft) ?_ (fun hx => ?_); subst x; rotate_left; clear_value x; rotate_right)
        | (have _t : State := x; clear _t; subst x)
        | (have _t : Work → Work := x; clear _t; subst x)
        | (have _t : Nat → Work → Work := x; clear _t; subst x)
        | (have _t : Work → Nat → Work := x; clear _t; subst x)
        | (have _t : Work → (Resident → Resident) → Work := x; clear _t; subst x)
        | clear_value x)
    | (with_reducible refine (Work.erase_each _ _ _ (fun w _ => ?_)).trans ?_)
    | (with_reducible refine (Work.erase_fold2 _ _ _ (fun _ w _ => ?_)).trans ?_)
    | (with_reducible refine (Work.erase_fold3 _ _ _ (fun _ _ w _ => ?_)).trans ?_)
    | (split <;> try (rename_i hq; first
        | (with_reducible refine Work.erase_pair (w := w) (ft := ft) hq ?_ (fun hx => ?_); clear hq; rotate_left; clear hq; rotate_right)
        | (with_reducible refine Work.erase_triple (w := w) (ft := ft) hq ?_ (fun hx => ?_); clear hq; rotate_left; clear hq; rotate_right)
        | clear hq))
  all_goals simp [*]

@[simp] theorem Work.raise_erase {ft : Part → Bool} (hp : ft .sched = true) (w : Work) (t : Nat) :
    (Work.raise w t).erase ft = w.erase ft := by
  unfold Work.raise
  repeat' first
    | with_reducible rfl
    | (extract_lets +onlyGivenNames x; first
        | (refine Work.erase_step (x := x) (w := w) (ft := ft) ?_ (fun hx => ?_); subst x; rotate_left; clear_value x; rotate_right)
        | (have _t : State := x; clear _t; subst x)
        | (have _t : Work → Work := x; clear _t; subst x)
        | (have _t : Nat → Work → Work := x; clear _t; subst x)
        | (have _t : Work → Nat → Work := x; clear _t; subst x)
        | (have _t : Work → (Resident → Resident) → Work := x; clear _t; subst x)
        | clear_value x)
    | (with_reducible refine (Work.erase_each _ _ _ (fun w _ => ?_)).trans ?_)
    | (with_reducible refine (Work.erase_fold2 _ _ _ (fun _ w _ => ?_)).trans ?_)
    | (with_reducible refine (Work.erase_fold3 _ _ _ (fun _ _ w _ => ?_)).trans ?_)
    | (split <;> try (rename_i hq; first
        | (with_reducible refine Work.erase_pair (w := w) (ft := ft) hq ?_ (fun hx => ?_); clear hq; rotate_left; clear hq; rotate_right)
        | (with_reducible refine Work.erase_triple (w := w) (ft := ft) hq ?_ (fun hx => ?_); clear hq; rotate_left; clear hq; rotate_right)
        | clear hq))
  all_goals simp [*]

@[simp] theorem Work.place_erase {ft : Part → Bool} (hp : ft .sent = true ∧ ft .sched = true) (w : Work) (t : Nat) :
    (Work.place w t).erase ft = w.erase ft := by
  unfold Work.place
  try dsimp only
  repeat' split
  all_goals first | with_reducible rfl | simp [hp]

@[simp] theorem Work.enqueue_erase {ft : Part → Bool} (hp : ft .sched = true) (w : Work) (t : Nat) :
    (Work.enqueue w t).erase ft = w.erase ft := by
  unfold Work.enqueue
  try dsimp only
  repeat' split
  all_goals first | with_reducible rfl | simp [hp]

@[simp] theorem Work.wake_erase {ft : Part → Bool} (hp : ft .sent = true ∧ ft .sched = true) (w : Work) (ts : List Nat) :
    (Work.wake w ts).erase ft = w.erase ft := by
  unfold Work.wake
  try dsimp only
  repeat' split
  all_goals first | with_reducible rfl | simp [hp]

@[simp] theorem Work.signal_erase {ft : Part → Bool} (hp : ft .sent = true ∧ ft .sched = true) (w : Work) (ev : Nat) :
    (Work.signal w ev).erase ft = w.erase ft := by
  unfold Work.signal
  try dsimp only
  repeat' split
  all_goals first | with_reducible rfl | simp [hp]

@[simp] theorem Work.giveBack_erase {ft : Part → Bool} (hp : ft .sched = true) (w : Work) (core : Nat) :
    (Work.giveBack w core).erase ft = w.erase ft := by
  unfold Work.giveBack
  try dsimp only
  repeat' split
  all_goals first | with_reducible rfl | simp [hp]

@[simp] theorem Work.ask_erase {ft : Part → Bool} (hp : ft .sent = true ∧ ft .sched = true) (w : Work) (core : Nat) :
    (Work.ask w core).erase ft = w.erase ft := by
  unfold Work.ask
  try dsimp only
  repeat' split
  all_goals first | with_reducible rfl | simp [hp]

@[simp] theorem Work.yieldCore_erase {ft : Part → Bool} (hp : ft .sent = true ∧ ft .sched = true) (w : Work) (core : Nat) :
    (Work.yieldCore w core).erase ft = w.erase ft := by
  unfold Work.yieldCore
  try dsimp only
  repeat' split
  all_goals first | with_reducible rfl | simp [hp]

@[simp] theorem Work.blockCore_erase {ft : Part → Bool} (hp : ft .sent = true ∧ ft .sched = true) (w : Work) (core ev : Nat) :
    (Work.blockCore w core ev).erase ft = w.erase ft := by
  unfold Work.blockCore
  try dsimp only
  repeat' split
  all_goals first | with_reducible rfl | simp [hp]

@[simp] theorem Work.writeReply_erase {ft : Part → Bool} (hp : ft .sent = true ∧ ft .fns = true ∧ ft .rings = true ∧ ft .pcieTx = true ∧ ft .hw = true) (w : Work) (ring : Nat) (y : Reply) :
    (Work.writeReply w ring y).erase ft = w.erase ft := by
  unfold Work.writeReply
  repeat' first
    | with_reducible rfl
    | (extract_lets +onlyGivenNames x; first
        | (refine Work.erase_step (x := x) (w := w) (ft := ft) ?_ (fun hx => ?_); subst x; rotate_left; clear_value x; rotate_right)
        | (have _t : State := x; clear _t; subst x)
        | (have _t : Work → Work := x; clear _t; subst x)
        | (have _t : Nat → Work → Work := x; clear _t; subst x)
        | (have _t : Work → Nat → Work := x; clear _t; subst x)
        | (have _t : Work → (Resident → Resident) → Work := x; clear _t; subst x)
        | clear_value x)
    | (with_reducible refine (Work.erase_each _ _ _ (fun w _ => ?_)).trans ?_)
    | (with_reducible refine (Work.erase_fold2 _ _ _ (fun _ w _ => ?_)).trans ?_)
    | (with_reducible refine (Work.erase_fold3 _ _ _ (fun _ _ w _ => ?_)).trans ?_)
    | (split <;> try (rename_i hq; first
        | (with_reducible refine Work.erase_pair (w := w) (ft := ft) hq ?_ (fun hx => ?_); clear hq; rotate_left; clear hq; rotate_right)
        | (with_reducible refine Work.erase_triple (w := w) (ft := ft) hq ?_ (fun hx => ?_); clear hq; rotate_left; clear hq; rotate_right)
        | clear hq))
  all_goals simp [*]

@[simp] theorem Work.postReply_erase {ft : Part → Bool} (hp : ft .sent = true ∧ ft .fns = true ∧ ft .rings = true ∧ ft .pcieTx = true ∧ ft .hw = true) (w : Work) (ring : Nat) (y : Reply) :
    (Work.postReply w ring y).erase ft = w.erase ft := by
  unfold Work.postReply
  try dsimp only
  repeat' split
  all_goals first | with_reducible rfl | simp [hp]

@[simp] theorem Work.drainReplies_erase {ft : Part → Bool} (hp : ft .sent = true ∧ ft .fns = true ∧ ft .rings = true ∧ ft .pcieTx = true ∧ ft .hw = true) (w : Work) (ring : Nat) (x0 : Nat) :
    (Work.drainReplies w ring x0).erase ft = w.erase ft := by
  induction x0 generalizing w
  all_goals unfold Work.drainReplies
  all_goals try dsimp only
  all_goals repeat' split
  all_goals first | with_reducible rfl | simp [*]

@[simp] theorem Work.finish_erase {ft : Part → Bool} (hp : ft .sent = true ∧ ft .fns = true ∧ ft .rings = true ∧ ft .actives = true ∧ ft .pcieTx = true ∧ ft .hw = true) (w : Work) (a : Active) (status reason p0 p1 : Nat) :
    (Work.finish w a status reason p0 p1).erase ft = w.erase ft := by
  unfold Work.finish
  try dsimp only
  repeat' split
  all_goals first | with_reducible rfl | simp [hp]

@[simp] theorem Work.settleFences_erase {ft : Part → Bool} (hp : ft .sent = true ∧ ft .fns = true ∧ ft .rings = true ∧ ft .actives = true ∧ ft .pcieTx = true ∧ ft .hw = true) (w : Work) (ring : Nat) (x0 : Nat) :
    (Work.settleFences w ring x0).erase ft = w.erase ft := by
  induction x0 generalizing w
  all_goals unfold Work.settleFences
  all_goals try dsimp only
  all_goals repeat' split
  all_goals first | with_reducible rfl | simp [*]

@[simp] theorem Work.reply_erase {ft : Part → Bool} (hp : ft .sent = true ∧ ft .fns = true ∧ ft .rings = true ∧ ft .actives = true ∧ ft .pcieTx = true ∧ ft .hw = true) (w : Work) (a : Active) (status reason p0 p1 : Nat) :
    (Work.reply w a status reason p0 p1).erase ft = w.erase ft := by
  unfold Work.reply
  try dsimp only
  repeat' split
  all_goals first | with_reducible rfl | simp [hp]

@[simp] theorem Work.replyDone_erase {ft : Part → Bool} (hp : ft .sent = true ∧ ft .fns = true ∧ ft .rings = true ∧ ft .actives = true ∧ ft .pcieTx = true ∧ ft .hw = true) (w : Work) (a : Active) :
    (Work.replyDone w a).erase ft = w.erase ft := by
  unfold Work.replyDone
  try dsimp only
  repeat' split
  all_goals first | with_reducible rfl | simp [hp]

@[simp] theorem Work.reportTo_erase {ft : Part → Bool} (hp : ft .sent = true ∧ ft .fns = true ∧ ft .rings = true ∧ ft .actives = true ∧ ft .pcieTx = true ∧ ft .hw = true) (w : Work) (a : Active) (at_ : Nat) (bs : List Byte) (refuse : Option Nat) (p0 p1 : Nat) (f : Work → Work) (h_f : ∀ (y0 : Work), (f y0).erase ft = Work.erase ft y0) :
    (Work.reportTo w a at_ bs refuse p0 p1 f).erase ft = w.erase ft := by
  unfold Work.reportTo
  try dsimp only
  repeat' split
  all_goals first | with_reducible rfl | simp [hp, h_f]

@[simp] theorem Work.refuse_erase {ft : Part → Bool} (hp : ft .sent = true ∧ ft .fns = true ∧ ft .rings = true ∧ ft .actives = true ∧ ft .pcieTx = true ∧ ft .hw = true) (w : Work) (a : Active) (reason : Nat) :
    (Work.refuse w a reason).erase ft = w.erase ft := by
  unfold Work.refuse
  try dsimp only
  repeat' split
  all_goals first | with_reducible rfl | simp [hp]

@[simp] theorem Work.begin_erase {ft : Part → Bool} (hp : ft .rings = true ∧ ft .actives = true) (w : Work) (a : Active) :
    (Work.begin w a).erase ft = w.erase ft := by
  unfold Work.begin
  try dsimp only
  repeat' split
  all_goals first | with_reducible rfl | simp [hp]

@[simp] theorem Work.await_erase {ft : Part → Bool} (hp : ft .actives = true) (w : Work) (a : Active) (x : Await) (claimed : Bool) :
    (Work.await w a x claimed).erase ft = w.erase ft := by
  unfold Work.await
  try dsimp only
  repeat' split
  all_goals first | with_reducible rfl | simp [hp]

@[simp] theorem Work.command_erase {ft : Part → Bool} (hp : ft .sent = true ∧ ft .fns = true ∧ ft .rings = true ∧ ft .actives = true ∧ ft .pcieTx = true ∧ ft .hw = true ∧ ft .stop = true) (w : Work) (h : Hdr) (op need : Nat) (pf : Bool) (adm : Admit) (f : Active → Work → Work) (h_f : ∀ (y0 : Active) (y1 : Work), (f y0 y1).erase ft = Work.erase ft y1) :
    (Work.command w h op need pf adm f).erase ft = w.erase ft := by
  unfold Work.command
  try dsimp only
  repeat' split
  all_goals first | with_reducible rfl | simp [hp, h_f]

@[simp] theorem Work.flushRing_erase {ft : Part → Bool} (hp : ft .sent = true ∧ ft .pad = true ∧ ft .flash = true ∧ ft .fns = true ∧ ft .rings = true) (w : Work) (ring : Nat) :
    (Work.flushRing w ring).erase ft = w.erase ft := by
  unfold Work.flushRing
  repeat' first
    | with_reducible rfl
    | (extract_lets +onlyGivenNames x; first
        | (refine Work.erase_step (x := x) (w := w) (ft := ft) ?_ (fun hx => ?_); subst x; rotate_left; clear_value x; rotate_right)
        | (have _t : State := x; clear _t; subst x)
        | (have _t : Work → Work := x; clear _t; subst x)
        | (have _t : Nat → Work → Work := x; clear _t; subst x)
        | (have _t : Work → Nat → Work := x; clear _t; subst x)
        | (have _t : Work → (Resident → Resident) → Work := x; clear _t; subst x)
        | clear_value x)
    | (with_reducible refine (Work.erase_each _ _ _ (fun w _ => ?_)).trans ?_)
    | (with_reducible refine (Work.erase_fold2 _ _ _ (fun _ w _ => ?_)).trans ?_)
    | (with_reducible refine (Work.erase_fold3 _ _ _ (fun _ _ w _ => ?_)).trans ?_)
    | (split <;> try (rename_i hq; first
        | (with_reducible refine Work.erase_pair (w := w) (ft := ft) hq ?_ (fun hx => ?_); clear hq; rotate_left; clear hq; rotate_right)
        | (with_reducible refine Work.erase_triple (w := w) (ft := ft) hq ?_ (fun hx => ?_); clear hq; rotate_left; clear hq; rotate_right)
        | clear hq))
  all_goals simp [*]

@[simp] theorem Work.defined_erase {ft : Part → Bool} (hp : ft .stop = true) (w : Work) (mask : Nat) (value : Nat) (f : Work → Work) (h_f : ∀ (y0 : Work), (f y0).erase ft = Work.erase ft y0) :
    (Work.defined w mask value f).erase ft = w.erase ft := by
  unfold Work.defined
  repeat' first
    | with_reducible rfl
    | (extract_lets +onlyGivenNames x; first
        | (refine Work.erase_step (x := x) (w := w) (ft := ft) ?_ (fun hx => ?_); subst x; rotate_left; clear_value x; rotate_right)
        | (have _t : State := x; clear _t; subst x)
        | (have _t : Work → Work := x; clear _t; subst x)
        | (have _t : Nat → Work → Work := x; clear _t; subst x)
        | (have _t : Work → Nat → Work := x; clear _t; subst x)
        | (have _t : Work → (Resident → Resident) → Work := x; clear _t; subst x)
        | clear_value x)
    | (with_reducible refine (Work.erase_each _ _ _ (fun w _ => ?_)).trans ?_)
    | (with_reducible refine (Work.erase_fold2 _ _ _ (fun _ w _ => ?_)).trans ?_)
    | (with_reducible refine (Work.erase_fold3 _ _ _ (fun _ _ w _ => ?_)).trans ?_)
    | (split <;> try (rename_i hq; first
        | (with_reducible refine Work.erase_pair (w := w) (ft := ft) hq ?_ (fun hx => ?_); clear hq; rotate_left; clear hq; rotate_right)
        | (with_reducible refine Work.erase_triple (w := w) (ft := ft) hq ?_ (fun hx => ?_); clear hq; rotate_left; clear hq; rotate_right)
        | clear hq))
  all_goals simp [*]

@[simp] theorem Work.writeMsix_erase {ft : Part → Bool} (hp : ft .sent = true ∧ ft .fns = true ∧ ft .stop = true) (w : Work) (fn off value : Nat) :
    (Work.writeMsix w fn off value).erase ft = w.erase ft := by
  unfold Work.writeMsix
  repeat' first
    | with_reducible rfl
    | (extract_lets +onlyGivenNames x; first
        | (refine Work.erase_step (x := x) (w := w) (ft := ft) ?_ (fun hx => ?_); subst x; rotate_left; clear_value x; rotate_right)
        | (have _t : State := x; clear _t; subst x)
        | (have _t : Work → Work := x; clear _t; subst x)
        | (have _t : Nat → Work → Work := x; clear _t; subst x)
        | (have _t : Work → Nat → Work := x; clear _t; subst x)
        | (have _t : Work → (Resident → Resident) → Work := x; clear _t; subst x)
        | clear_value x)
    | (with_reducible refine (Work.erase_each _ _ _ (fun w _ => ?_)).trans ?_)
    | (with_reducible refine (Work.erase_fold2 _ _ _ (fun _ w _ => ?_)).trans ?_)
    | (with_reducible refine (Work.erase_fold3 _ _ _ (fun _ _ w _ => ?_)).trans ?_)
    | (split <;> try (rename_i hq; first
        | (with_reducible refine Work.erase_pair (w := w) (ft := ft) hq ?_ (fun hx => ?_); clear hq; rotate_left; clear hq; rotate_right)
        | (with_reducible refine Work.erase_triple (w := w) (ft := ft) hq ?_ (fun hx => ?_); clear hq; rotate_left; clear hq; rotate_right)
        | clear hq))
  all_goals simp [*]

@[simp] theorem Work.writeRing_erase {ft : Part → Bool} (hp : ft .rings = true ∧ ft .stop = true) (w : Work) (d off value : Nat) :
    (Work.writeRing w d off value).erase ft = w.erase ft := by
  unfold Work.writeRing
  try dsimp only
  repeat' split
  all_goals first | with_reducible rfl | simp [hp]

@[simp] theorem Work.stopTiles_erase {ft : Part → Bool} (hp : ft .tiles = true) (w : Work) (c : Nat) :
    (Work.stopTiles w c).erase ft = w.erase ft := by
  unfold Work.stopTiles
  try dsimp only
  repeat' split
  all_goals first | with_reducible rfl | simp [hp]

@[simp] theorem Work.enterStopped_erase {ft : Part → Bool} (hp : ft .sent = true ∧ ft .pad = true ∧ ft .flash = true ∧ ft .sched = true ∧ ft .fns = true ∧ ft .ctxs = true ∧ ft .tiles = true) (w : Work) (c status reason : Nat) :
    (Work.enterStopped w c status reason).erase ft = w.erase ft := by
  unfold Work.enterStopped
  repeat' first
    | with_reducible rfl
    | (extract_lets +onlyGivenNames x; first
        | (refine Work.erase_step (x := x) (w := w) (ft := ft) ?_ (fun hx => ?_); subst x; rotate_left; clear_value x; rotate_right)
        | (have _t : State := x; clear _t; subst x)
        | (have _t : Work → Work := x; clear _t; subst x)
        | (have _t : Nat → Work → Work := x; clear _t; subst x)
        | (have _t : Work → Nat → Work := x; clear _t; subst x)
        | (have _t : Work → (Resident → Resident) → Work := x; clear _t; subst x)
        | clear_value x)
    | (with_reducible refine (Work.erase_each _ _ _ (fun w _ => ?_)).trans ?_)
    | (with_reducible refine (Work.erase_fold2 _ _ _ (fun _ w _ => ?_)).trans ?_)
    | (with_reducible refine (Work.erase_fold3 _ _ _ (fun _ _ w _ => ?_)).trans ?_)
    | (split <;> try (rename_i hq; first
        | (with_reducible refine Work.erase_pair (w := w) (ft := ft) hq ?_ (fun hx => ?_); clear hq; rotate_left; clear hq; rotate_right)
        | (with_reducible refine Work.erase_triple (w := w) (ft := ft) hq ?_ (fun hx => ?_); clear hq; rotate_left; clear hq; rotate_right)
        | clear hq))
  all_goals simp [*]

@[simp] theorem Work.stopTurn_erase {ft : Part → Bool} (hp : ft .sent = true ∧ ft .pad = true ∧ ft .flash = true ∧ ft .sched = true ∧ ft .fns = true ∧ ft .rings = true ∧ ft .actives = true ∧ ft .pcieTx = true ∧ ft .ctxs = true ∧ ft .tiles = true ∧ ft .hw = true) (w : Work) (c status reason action : Nat) :
    (Work.stopTurn w c status reason action).erase ft = w.erase ft := by
  unfold Work.stopTurn
  repeat' first
    | with_reducible rfl
    | (extract_lets +onlyGivenNames x; first
        | (refine Work.erase_step (x := x) (w := w) (ft := ft) ?_ (fun hx => ?_); subst x; rotate_left; clear_value x; rotate_right)
        | (have _t : State := x; clear _t; subst x)
        | (have _t : Work → Work := x; clear _t; subst x)
        | (have _t : Nat → Work → Work := x; clear _t; subst x)
        | (have _t : Work → Nat → Work := x; clear _t; subst x)
        | (have _t : Work → (Resident → Resident) → Work := x; clear _t; subst x)
        | clear_value x)
    | (with_reducible refine (Work.erase_each _ _ _ (fun w _ => ?_)).trans ?_)
    | (with_reducible refine (Work.erase_fold2 _ _ _ (fun _ w _ => ?_)).trans ?_)
    | (with_reducible refine (Work.erase_fold3 _ _ _ (fun _ _ w _ => ?_)).trans ?_)
    | (split <;> try (rename_i hq; first
        | (with_reducible refine Work.erase_pair (w := w) (ft := ft) hq ?_ (fun hx => ?_); clear hq; rotate_left; clear hq; rotate_right)
        | (with_reducible refine Work.erase_triple (w := w) (ft := ft) hq ?_ (fun hx => ?_); clear hq; rotate_left; clear hq; rotate_right)
        | clear hq))
  all_goals simp [*]

@[simp] theorem Work.faultStop_erase {ft : Part → Bool} (hp : ft .sent = true ∧ ft .pad = true ∧ ft .flash = true ∧ ft .sched = true ∧ ft .fns = true ∧ ft .rings = true ∧ ft .actives = true ∧ ft .pcieTx = true ∧ ft .ctxs = true ∧ ft .tiles = true ∧ ft .hw = true) (w : Work) (c status reason : Nat) :
    (Work.faultStop w c status reason).erase ft = w.erase ft := by
  unfold Work.faultStop
  try dsimp only
  repeat' split
  all_goals first | with_reducible rfl | simp [hp]

end Sys2Proof.Machine
end

