-- ==== Sys2Proof/Laws/Frame2.lean ====
section
/-! SUPPORT. Footprints of the operations of Memory, Crypto, Book, Flags, Power, Context: each leaves alone whatever its parts do not name. -/

namespace Sys2Proof.Machine

@[simp] theorem Work.countHbm_erase {ft : Part → Bool} (hp : ft .hbm = true ∧ ft .pkgBytes = true) (w : Work) (a n : Nat) (write : Bool) :
    (Work.countHbm w a n write).erase ft = w.erase ft := by
  unfold Work.countHbm
  try dsimp only
  repeat' split
  all_goals first | with_reducible rfl | simp [hp]

@[simp] theorem Work.countTile_erase {ft : Part → Bool} (hp : ft .phys = true) (w : Work) (n t len : Nat) :
    (Work.countTile w n t len).erase ft = w.erase ft := by
  unfold Work.countTile
  try dsimp only
  repeat' split
  all_goals first | with_reducible rfl | simp [hp]

@[simp] theorem Work.count_erase {ft : Part → Bool} (hp : ft .hbm = true ∧ ft .pkgBytes = true ∧ ft .phys = true) (w : Work) (a n : Nat) (write : Bool) :
    (Work.count w a n write).erase ft = w.erase ft := by
  unfold Work.count
  try dsimp only
  repeat' split
  all_goals first | with_reducible rfl | simp [hp]

@[simp] theorem Work.load_erase {ft : Part → Bool} (hp : ft .hbm = true ∧ ft .pkgBytes = true ∧ ft .phys = true) (w : Work) (a n : Nat) :
    (Work.load w a n).2.erase ft = w.erase ft := by
  unfold Work.load
  try dsimp only
  repeat' split
  all_goals first | with_reducible rfl | simp [hp]

@[simp] theorem Work.storeBytes_erase {ft : Part → Bool} (hp : ft .hbm = true ∧ ft .pkgBytes = true ∧ ft .phys = true ∧ ft .mw = true) (w : Work) (a : Nat) (vs : List Byte) (poison : Bool) :
    (Work.storeBytes w a vs poison).erase ft = w.erase ft := by
  unfold Work.storeBytes
  try dsimp only
  repeat' split
  all_goals first | with_reducible rfl | simp [hp]

@[simp] theorem Work.setSegEntry_erase {ft : Part → Bool} (hp : ft .mw = true) (w : Work) (c index : Nat) (e : SegEntry) :
    (Work.setSegEntry w c index e).erase ft = w.erase ft := by
  unfold Work.setSegEntry
  try dsimp only
  repeat' split
  all_goals first | with_reducible rfl | simp [hp]

@[simp] theorem Work.request_erase {ft : Part → Bool} (hp : ft .sent = true ∧ ft .requests = true ∧ ft .nextTag = true) (w : Work) (c : Nat) (write : Bool) (tag : Tag) (type len : Nat) (b : Nat) (data : List Byte)
    (poison : Bool) (owner : Owner) (dest : Dest) :
    (Work.request w c write tag type len b data poison owner dest).erase ft = w.erase ft := by
  unfold Work.request
  repeat' first
    | with_reducible rfl
    | (extract_lets +onlyGivenNames x; first
        | (refine Work.erase_step (x := x) (w := w) (ft := ft) ?_ (fun hx => ?_); subst x; rotate_left; clear_value x; rotate_right)
        | (have _t : State := x; clear _t; subst x)
        | (have _t : Work → Work := x; clear _t; subst x)
        | (have _t : Nat → Work → Work := x; clear _t; subst x)
        | (have _t : Work → Nat → Work := x; clear _t; subst x)
        | (have _t : Work → (Resident → Resident) → Work := x; clear _t; subst x)
        | clear_value x)
    | (with_reducible refine (Work.erase_each _ _ _ (fun w _ => ?_)).trans ?_)
    | (with_reducible refine (Work.erase_fold2 _ _ _ (fun _ w _ => ?_)).trans ?_)
    | (with_reducible refine (Work.erase_fold3 _ _ _ (fun _ _ w _ => ?_)).trans ?_)
    | (split <;> try (rename_i hq; first
        | (with_reducible refine Work.erase_pair (w := w) (ft := ft) hq ?_ (fun hx => ?_); clear hq; rotate_left; clear hq; rotate_right)
        | (with_reducible refine Work.erase_triple (w := w) (ft := ft) hq ?_ (fun hx => ?_); clear hq; rotate_left; clear hq; rotate_right)
        | clear hq))
  all_goals simp [*]

@[simp] theorem Work.readRemote_erase {ft : Part → Bool} (hp : ft .sent = true ∧ ft .requests = true ∧ ft .nextTag = true) (w : Work) (c : Nat) (tag : Tag) (b n : Nat) (owner : Owner) (dest : Dest) :
    (Work.readRemote w c tag b n owner dest).erase ft = w.erase ft := by
  unfold Work.readRemote
  try dsimp only
  repeat' split
  all_goals first | with_reducible rfl | simp [hp]

@[simp] theorem Work.writeRemote_erase {ft : Part → Bool} (hp : ft .sent = true ∧ ft .requests = true ∧ ft .nextTag = true) (w : Work) (c : Nat) (tag : Tag) (b : Nat) (vs : List Byte) (poison : Bool) (owner : Owner) :
    (Work.writeRemote w c tag b vs poison owner).erase ft = w.erase ft := by
  unfold Work.writeRemote
  try dsimp only
  repeat' split
  all_goals first | with_reducible rfl | simp [hp]

@[simp] theorem Work.askRemote_erase {ft : Part → Bool} (hp : ft .sent = true ∧ ft .nextTag = true) (w : Work) (tag : Tag) (b : Nat) (n : Nat) :
    (Work.askRemote w tag b n).erase ft = w.erase ft := by
  unfold Work.askRemote
  repeat' first
    | with_reducible rfl
    | (extract_lets +onlyGivenNames x; first
        | (refine Work.erase_step (x := x) (w := w) (ft := ft) ?_ (fun hx => ?_); subst x; rotate_left; clear_value x; rotate_right)
        | (have _t : State := x; clear _t; subst x)
        | (have _t : Work → Work := x; clear _t; subst x)
        | (have _t : Nat → Work → Work := x; clear _t; subst x)
        | (have _t : Work → Nat → Work := x; clear _t; subst x)
        | (have _t : Work → (Resident → Resident) → Work := x; clear _t; subst x)
        | clear_value x)
    | (with_reducible refine (Work.erase_each _ _ _ (fun w _ => ?_)).trans ?_)
    | (with_reducible refine (Work.erase_fold2 _ _ _ (fun _ w _ => ?_)).trans ?_)
    | (with_reducible refine (Work.erase_fold3 _ _ _ (fun _ _ w _ => ?_)).trans ?_)
    | (split <;> try (rename_i hq; first
        | (with_reducible refine Work.erase_pair (w := w) (ft := ft) hq ?_ (fun hx => ?_); clear hq; rotate_left; clear hq; rotate_right)
        | (with_reducible refine Work.erase_triple (w := w) (ft := ft) hq ?_ (fun hx => ?_); clear hq; rotate_left; clear hq; rotate_right)
        | clear hq))
  all_goals simp [*]

@[simp] theorem Work.askSpans_erase {ft : Part → Bool} (hp : ft .sent = true ∧ ft .nextTag = true) (w : Work) (tag : Tag) (ss : List (Nat × Nat × Nat)) :
    (Work.askSpans w tag ss).erase ft = w.erase ft := by
  unfold Work.askSpans
  repeat' first
    | with_reducible rfl
    | (extract_lets +onlyGivenNames x; first
        | (refine Work.erase_step (x := x) (w := w) (ft := ft) ?_ (fun hx => ?_); subst x; rotate_left; clear_value x; rotate_right)
        | (have _t : State := x; clear _t; subst x)
        | (have _t : Work → Work := x; clear _t; subst x)
        | (have _t : Nat → Work → Work := x; clear _t; subst x)
        | (have _t : Work → Nat → Work := x; clear _t; subst x)
        | (have _t : Work → (Resident → Resident) → Work := x; clear _t; subst x)
        | clear_value x)
    | (with_reducible refine (Work.erase_each _ _ _ (fun w _ => ?_)).trans ?_)
    | (with_reducible refine (Work.erase_fold2 _ _ _ (fun _ w _ => ?_)).trans ?_)
    | (with_reducible refine (Work.erase_fold3 _ _ _ (fun _ _ w _ => ?_)).trans ?_)
    | (split <;> try (rename_i hq; first
        | (with_reducible refine Work.erase_pair (w := w) (ft := ft) hq ?_ (fun hx => ?_); clear hq; rotate_left; clear hq; rotate_right)
        | (with_reducible refine Work.erase_triple (w := w) (ft := ft) hq ?_ (fun hx => ?_); clear hq; rotate_left; clear hq; rotate_right)
        | clear hq))
  all_goals simp [*]

@[simp] theorem Work.poison_erase {ft : Part → Bool} (hp : ft .sent = true ∧ ft .ctxs = true) (w : Work) (c cause : Nat) :
    (Work.poison w c cause).erase ft = w.erase ft := by
  unfold Work.poison
  try dsimp only
  repeat' split
  all_goals first | with_reducible rfl | simp [hp]

theorem Work.takePages_erase {ft : Part → Bool} (hp : ft .ctxs = true ∧ ft .mw = true) (w : Work) (c s n : Nat) (u : Use) {a : Nat} {v : Work}
    (hw : Work.takePages w c s n u = some (a, v)) : v.erase ft = w.erase ft := by
  unfold Work.takePages at hw
  split at hw
  · simp at hw
  · simp only [Option.some.injEq, Prod.mk.injEq] at hw
    rw [← hw.2]
    simp [hp]

@[simp] theorem Work.freePages_erase {ft : Part → Bool} (hp : ft .ctxs = true) (w : Work) (c : Nat) (f : Use → Bool) :
    (Work.freePages w c f).erase ft = w.erase ft := by
  unfold Work.freePages
  try dsimp only
  repeat' split
  all_goals first | with_reducible rfl | simp [hp]

@[simp] theorem Work.packageLost_erase {ft : Part → Bool} (hp : ft .sent = true ∧ ft .pad = true ∧ ft .flash = true ∧ ft .sched = true ∧ ft .fns = true ∧ ft .rings = true ∧ ft .actives = true ∧ ft .pcieTx = true ∧ ft .ctxs = true ∧ ft .tiles = true ∧ ft .hw = true) (w : Work) (cause : Nat) (hit : Ctx → Bool) :
    (Work.packageLost w cause hit).erase ft = w.erase ft := by
  unfold Work.packageLost
  try dsimp only
  repeat' split
  all_goals first | with_reducible rfl | simp [hp]

@[simp] theorem Work.regionLost_erase {ft : Part → Bool} (hp : ft .sent = true ∧ ft .pad = true ∧ ft .flash = true ∧ ft .sched = true ∧ ft .fns = true ∧ ft .rings = true ∧ ft .actives = true ∧ ft .pcieTx = true ∧ ft .ctxs = true ∧ ft .regions = true ∧ ft .tiles = true ∧ ft .hw = true) (w : Work) (r cause : Nat) :
    (Work.regionLost w r cause).erase ft = w.erase ft := by
  unfold Work.regionLost
  try dsimp only
  repeat' split
  all_goals first | with_reducible rfl | simp [hp]

@[simp] theorem Work.placeIndex_erase {ft : Part → Bool} (hp : ft .sent = true ∧ ft .pad = true ∧ ft .flash = true ∧ ft .sched = true ∧ ft .fns = true ∧ ft .rings = true ∧ ft .actives = true ∧ ft .pcieTx = true ∧ ft .ctxs = true ∧ ft .regions = true ∧ ft .tiles = true ∧ ft .hw = true) (w : Work) (r k : Nat) :
    (Work.placeIndex w r k).erase ft = w.erase ft := by
  unfold Work.placeIndex
  try dsimp only
  repeat' split
  all_goals first | with_reducible rfl | simp [hp]

@[simp] theorem Work.moved_erase {ft : Part → Bool} (hp : ft .tiles = true ∧ ft .mw = true) (w : Work) (n : Nat) :
    (Work.moved w n).erase ft = w.erase ft := by
  unfold Work.moved
  try dsimp only
  repeat' split
  all_goals first | with_reducible rfl | simp [hp]

@[simp] theorem Work.placeRegion_erase {ft : Part → Bool} (hp : ft .sent = true ∧ ft .pad = true ∧ ft .flash = true ∧ ft .sched = true ∧ ft .fns = true ∧ ft .rings = true ∧ ft .actives = true ∧ ft .pcieTx = true ∧ ft .ctxs = true ∧ ft .regions = true ∧ ft .tiles = true ∧ ft .mw = true ∧ ft .hw = true) (w : Work) (r : Nat) :
    (Work.placeRegion w r).erase ft = w.erase ft := by
  unfold Work.placeRegion
  repeat' first
    | with_reducible rfl
    | (extract_lets +onlyGivenNames x; first
        | (refine Work.erase_step (x := x) (w := w) (ft := ft) ?_ (fun hx => ?_); subst x; rotate_left; clear_value x; rotate_right)
        | (have _t : State := x; clear _t; subst x)
        | (have _t : Work → Work := x; clear _t; subst x)
        | (have _t : Nat → Work → Work := x; clear _t; subst x)
        | (have _t : Work → Nat → Work := x; clear _t; subst x)
        | (have _t : Work → (Resident → Resident) → Work := x; clear _t; subst x)
        | clear_value x)
    | (with_reducible refine (Work.erase_each _ _ _ (fun w _ => ?_)).trans ?_)
    | (with_reducible refine (Work.erase_fold2 _ _ _ (fun _ w _ => ?_)).trans ?_)
    | (with_reducible refine (Work.erase_fold3 _ _ _ (fun _ _ w _ => ?_)).trans ?_)
    | (split <;> try (rename_i hq; first
        | (with_reducible refine Work.erase_pair (w := w) (ft := ft) hq ?_ (fun hx => ?_); clear hq; rotate_left; clear hq; rotate_right)
        | (with_reducible refine Work.erase_triple (w := w) (ft := ft) hq ?_ (fun hx => ?_); clear hq; rotate_left; clear hq; rotate_right)
        | clear hq))
  all_goals simp [*]

@[simp] theorem Work.placeEngine_erase {ft : Part → Bool} (hp : ft .sent = true ∧ ft .pad = true ∧ ft .flash = true ∧ ft .sched = true ∧ ft .fns = true ∧ ft .rings = true ∧ ft .actives = true ∧ ft .pcieTx = true ∧ ft .ctxs = true ∧ ft .regions = true ∧ ft .tiles = true ∧ ft .hw = true) (w : Work) (spn : Bool) (r : Nat) (say : Bool) :
    (Work.placeEngine w spn r say).erase ft = w.erase ft := by
  unfold Work.placeEngine
  repeat' first
    | with_reducible rfl
    | (extract_lets +onlyGivenNames x; first
        | (refine Work.erase_step (x := x) (w := w) (ft := ft) ?_ (fun hx => ?_); subst x; rotate_left; clear_value x; rotate_right)
        | (have _t : State := x; clear _t; subst x)
        | (have _t : Work → Work := x; clear _t; subst x)
        | (have _t : Nat → Work → Work := x; clear _t; subst x)
        | (have _t : Work → Nat → Work := x; clear _t; subst x)
        | (have _t : Work → (Resident → Resident) → Work := x; clear _t; subst x)
        | clear_value x)
    | (with_reducible refine (Work.erase_each _ _ _ (fun w _ => ?_)).trans ?_)
    | (with_reducible refine (Work.erase_fold2 _ _ _ (fun _ w _ => ?_)).trans ?_)
    | (with_reducible refine (Work.erase_fold3 _ _ _ (fun _ _ w _ => ?_)).trans ?_)
    | (split <;> try (rename_i hq; first
        | (with_reducible refine Work.erase_pair (w := w) (ft := ft) hq ?_ (fun hx => ?_); clear hq; rotate_left; clear hq; rotate_right)
        | (with_reducible refine Work.erase_triple (w := w) (ft := ft) hq ?_ (fun hx => ?_); clear hq; rotate_left; clear hq; rotate_right)
        | clear hq))
  all_goals simp [*]

@[simp] theorem Work.retireNow_erase {ft : Part → Bool} (hp : ft .sent = true ∧ ft .pad = true ∧ ft .flash = true ∧ ft .sched = true ∧ ft .fns = true ∧ ft .rings = true ∧ ft .actives = true ∧ ft .pcieTx = true ∧ ft .ctxs = true ∧ ft .regions = true ∧ ft .tiles = true ∧ ft .retiring = true ∧ ft .mw = true ∧ ft .hw = true) (w : Work) (us : List UnitId) :
    (Work.retireNow w us).erase ft = w.erase ft := by
  unfold Work.retireNow
  repeat' first
    | with_reducible rfl
    | (extract_lets +onlyGivenNames x; first
        | (refine Work.erase_step (x := x) (w := w) (ft := ft) ?_ (fun hx => ?_); subst x; rotate_left; clear_value x; rotate_right)
        | (have _t : State := x; clear _t; subst x)
        | (have _t : Work → Work := x; clear _t; subst x)
        | (have _t : Nat → Work → Work := x; clear _t; subst x)
        | (have _t : Work → Nat → Work := x; clear _t; subst x)
        | (have _t : Work → (Resident → Resident) → Work := x; clear _t; subst x)
        | clear_value x)
    | (with_reducible refine (Work.erase_each _ _ _ (fun w _ => ?_)).trans ?_)
    | (with_reducible refine (Work.erase_fold2 _ _ _ (fun _ w _ => ?_)).trans ?_)
    | (with_reducible refine (Work.erase_fold3 _ _ _ (fun _ _ w _ => ?_)).trans ?_)
    | (split <;> try (rename_i hq; first
        | (with_reducible refine Work.erase_pair (w := w) (ft := ft) hq ?_ (fun hx => ?_); clear hq; rotate_left; clear hq; rotate_right)
        | (with_reducible refine Work.erase_triple (w := w) (ft := ft) hq ?_ (fun hx => ?_); clear hq; rotate_left; clear hq; rotate_right)
        | clear hq))
  all_goals simp [*]

@[simp] theorem Work.settleRetiring_erase {ft : Part → Bool} (hp : ft .sent = true ∧ ft .pad = true ∧ ft .flash = true ∧ ft .sched = true ∧ ft .fns = true ∧ ft .rings = true ∧ ft .actives = true ∧ ft .pcieTx = true ∧ ft .ctxs = true ∧ ft .regions = true ∧ ft .tiles = true ∧ ft .retiring = true ∧ ft .mw = true ∧ ft .hw = true) (w : Work) :
    (Work.settleRetiring w).erase ft = w.erase ft := by
  unfold Work.settleRetiring
  try dsimp only
  repeat' split
  all_goals first | with_reducible rfl | simp [hp]

@[simp] theorem Work.retireFor_erase {ft : Part → Bool} (hp : ft .sent = true ∧ ft .pad = true ∧ ft .flash = true ∧ ft .sched = true ∧ ft .fns = true ∧ ft .rings = true ∧ ft .actives = true ∧ ft .pcieTx = true ∧ ft .ctxs = true ∧ ft .regions = true ∧ ft .tiles = true ∧ ft .retiring = true ∧ ft .mw = true ∧ ft .hw = true) (w : Work) (c : Nat) :
    (Work.retireFor w c).erase ft = w.erase ft := by
  unfold Work.retireFor
  try dsimp only
  repeat' split
  all_goals first | with_reducible rfl | simp [hp]

@[simp] theorem Work.unitFailure_erase {ft : Part → Bool} (hp : ft .sent = true ∧ ft .pad = true ∧ ft .flash = true ∧ ft .sched = true ∧ ft .fns = true ∧ ft .rings = true ∧ ft .actives = true ∧ ft .pcieTx = true ∧ ft .ctxs = true ∧ ft .regions = true ∧ ft .tiles = true ∧ ft .retiring = true ∧ ft .mw = true ∧ ft .hw = true) (w : Work) (u : UnitId) (code : Nat) :
    (Work.unitFailure w u code).erase ft = w.erase ft := by
  unfold Work.unitFailure
  repeat' first
    | with_reducible rfl
    | (extract_lets +onlyGivenNames x; first
        | (refine Work.erase_step (x := x) (w := w) (ft := ft) ?_ (fun hx => ?_); subst x; rotate_left; clear_value x; rotate_right)
        | (have _t : State := x; clear _t; subst x)
        | (have _t : Work → Work := x; clear _t; subst x)
        | (have _t : Nat → Work → Work := x; clear _t; subst x)
        | (have _t : Work → Nat → Work := x; clear _t; subst x)
        | (have _t : Work → (Resident → Resident) → Work := x; clear _t; subst x)
        | clear_value x)
    | (with_reducible refine (Work.erase_each _ _ _ (fun w _ => ?_)).trans ?_)
    | (with_reducible refine (Work.erase_fold2 _ _ _ (fun _ w _ => ?_)).trans ?_)
    | (with_reducible refine (Work.erase_fold3 _ _ _ (fun _ _ w _ => ?_)).trans ?_)
    | (split <;> try (rename_i hq; first
        | (with_reducible refine Work.erase_pair (w := w) (ft := ft) hq ?_ (fun hx => ?_); clear hq; rotate_left; clear hq; rotate_right)
        | (with_reducible refine Work.erase_triple (w := w) (ft := ft) hq ?_ (fun hx => ?_); clear hq; rotate_left; clear hq; rotate_right)
        | clear hq))
  all_goals simp [*]

@[simp] theorem Work.loseSpare_erase {ft : Part → Bool} (hp : ft .hbm = true) (w : Work) (k : Nat) (spare : Nat) :
    (Work.loseSpare w k spare).erase ft = w.erase ft := by
  unfold Work.loseSpare
  repeat' first
    | with_reducible rfl
    | (extract_lets +onlyGivenNames x; first
        | (refine Work.erase_step (x := x) (w := w) (ft := ft) ?_ (fun hx => ?_); subst x; rotate_left; clear_value x; rotate_right)
        | (have _t : State := x; clear _t; subst x)
        | (have _t : Work → Work := x; clear _t; subst x)
        | (have _t : Nat → Work → Work := x; clear _t; subst x)
        | (have _t : Work → Nat → Work := x; clear _t; subst x)
        | (have _t : Work → (Resident → Resident) → Work := x; clear _t; subst x)
        | clear_value x)
    | (with_reducible refine (Work.erase_each _ _ _ (fun w _ => ?_)).trans ?_)
    | (with_reducible refine (Work.erase_fold2 _ _ _ (fun _ w _ => ?_)).trans ?_)
    | (with_reducible refine (Work.erase_fold3 _ _ _ (fun _ _ w _ => ?_)).trans ?_)
    | (split <;> try (rename_i hq; first
        | (with_reducible refine Work.erase_pair (w := w) (ft := ft) hq ?_ (fun hx => ?_); clear hq; rotate_left; clear hq; rotate_right)
        | (with_reducible refine Work.erase_triple (w := w) (ft := ft) hq ?_ (fun hx => ?_); clear hq; rotate_left; clear hq; rotate_right)
        | clear hq))
  all_goals simp [*]

@[simp] theorem Work.dropSpare_erase {ft : Part → Bool} (hp : ft .flash = true ∧ ft .hbm = true) (w : Work) (k page : Nat) :
    (Work.dropSpare w k page).erase ft = w.erase ft := by
  unfold Work.dropSpare
  try dsimp only
  repeat' split
  all_goals first | with_reducible rfl | simp [hp]

@[simp] theorem Work.remapPage_erase {ft : Part → Bool} (hp : ft .sent = true ∧ ft .pad = true ∧ ft .flash = true ∧ ft .sched = true ∧ ft .fns = true ∧ ft .rings = true ∧ ft .actives = true ∧ ft .pcieTx = true ∧ ft .ctxs = true ∧ ft .regions = true ∧ ft .hbm = true ∧ ft .tiles = true ∧ ft .hw = true) (w : Work) (k page : Nat) (ue : Bool) :
    (Work.remapPage w k page ue).erase ft = w.erase ft := by
  unfold Work.remapPage
  have h1 : (w.dropSpare k page).erase ft = w.erase ft := by simp [hp]
  generalize w.dropSpare k page = w1 at h1
  dsimp only
  split <;> simp [hp, h1]

@[simp] theorem Work.zeroPage_erase {ft : Part → Bool} (hp : ft .mw = true) (w : Work) (a : Nat) :
    (Work.zeroPage w a).erase ft = w.erase ft := by
  unfold Work.zeroPage
  try dsimp only
  repeat' split
  all_goals first | with_reducible rfl | simp [hp]

@[simp] theorem Work.lostPage_erase {ft : Part → Bool} (hp : ft .sent = true ∧ ft .pad = true ∧ ft .flash = true ∧ ft .fns = true ∧ ft .ctxs = true ∧ ft .mw = true) (w : Work) (c a : Nat) (owe : Bool) :
    (Work.lostPage w c a owe).erase ft = w.erase ft := by
  unfold Work.lostPage
  repeat' first
    | with_reducible rfl
    | (extract_lets +onlyGivenNames x; first
        | (refine Work.erase_step (x := x) (w := w) (ft := ft) ?_ (fun hx => ?_); subst x; rotate_left; clear_value x; rotate_right)
        | (have _t : State := x; clear _t; subst x)
        | (have _t : Work → Work := x; clear _t; subst x)
        | (have _t : Nat → Work → Work := x; clear _t; subst x)
        | (have _t : Work → Nat → Work := x; clear _t; subst x)
        | (have _t : Work → (Resident → Resident) → Work := x; clear _t; subst x)
        | clear_value x)
    | (with_reducible refine (Work.erase_each _ _ _ (fun w _ => ?_)).trans ?_)
    | (with_reducible refine (Work.erase_fold2 _ _ _ (fun _ w _ => ?_)).trans ?_)
    | (with_reducible refine (Work.erase_fold3 _ _ _ (fun _ _ w _ => ?_)).trans ?_)
    | (split <;> try (rename_i hq; first
        | (with_reducible refine Work.erase_pair (w := w) (ft := ft) hq ?_ (fun hx => ?_); clear hq; rotate_left; clear hq; rotate_right)
        | (with_reducible refine Work.erase_triple (w := w) (ft := ft) hq ?_ (fun hx => ?_); clear hq; rotate_left; clear hq; rotate_right)
        | clear hq))
  all_goals simp [*]

@[simp] theorem Work.restorePage_erase {ft : Part → Bool} (hp : ft .sent = true ∧ ft .pad = true ∧ ft .flash = true ∧ ft .sched = true ∧ ft .fns = true ∧ ft .rings = true ∧ ft .actives = true ∧ ft .pcieTx = true ∧ ft .ctxs = true ∧ ft .tiles = true ∧ ft .mw = true ∧ ft .hw = true) (w : Work) (c a : Nat) (turn : Bool) :
    (Work.restorePage w c a turn).erase ft = w.erase ft := by
  unfold Work.restorePage
  repeat' first
    | with_reducible rfl
    | (extract_lets +onlyGivenNames x; first
        | (refine Work.erase_step (x := x) (w := w) (ft := ft) ?_ (fun hx => ?_); subst x; rotate_left; clear_value x; rotate_right)
        | (have _t : State := x; clear _t; subst x)
        | (have _t : Work → Work := x; clear _t; subst x)
        | (have _t : Nat → Work → Work := x; clear _t; subst x)
        | (have _t : Work → Nat → Work := x; clear _t; subst x)
        | (have _t : Work → (Resident → Resident) → Work := x; clear _t; subst x)
        | clear_value x)
    | (with_reducible refine (Work.erase_each _ _ _ (fun w _ => ?_)).trans ?_)
    | (with_reducible refine (Work.erase_fold2 _ _ _ (fun _ w _ => ?_)).trans ?_)
    | (with_reducible refine (Work.erase_fold3 _ _ _ (fun _ _ w _ => ?_)).trans ?_)
    | (split <;> try (rename_i hq; first
        | (with_reducible refine Work.erase_pair (w := w) (ft := ft) hq ?_ (fun hx => ?_); clear hq; rotate_left; clear hq; rotate_right)
        | (with_reducible refine Work.erase_triple (w := w) (ft := ft) hq ?_ (fun hx => ?_); clear hq; rotate_left; clear hq; rotate_right)
        | clear hq))
  all_goals simp [*]

@[simp] theorem Work.retirePage_erase {ft : Part → Bool} (hp : ft .sent = true ∧ ft .pad = true ∧ ft .flash = true ∧ ft .sched = true ∧ ft .fns = true ∧ ft .rings = true ∧ ft .actives = true ∧ ft .pcieTx = true ∧ ft .ctxs = true ∧ ft .regions = true ∧ ft .hbm = true ∧ ft .tiles = true ∧ ft .mw = true ∧ ft .hw = true) (w : Work) (k page : Nat) (ue : Bool) :
    (Work.retirePage w k page ue).erase ft = w.erase ft := by
  unfold Work.retirePage
  repeat' first
    | with_reducible rfl
    | (extract_lets +onlyGivenNames x; first
        | (refine Work.erase_step (x := x) (w := w) (ft := ft) ?_ (fun hx => ?_); subst x; rotate_left; clear_value x; rotate_right)
        | (have _t : State := x; clear _t; subst x)
        | (have _t : Work → Work := x; clear _t; subst x)
        | (have _t : Nat → Work → Work := x; clear _t; subst x)
        | (have _t : Work → Nat → Work := x; clear _t; subst x)
        | (have _t : Work → (Resident → Resident) → Work := x; clear _t; subst x)
        | clear_value x)
    | (with_reducible refine (Work.erase_each _ _ _ (fun w _ => ?_)).trans ?_)
    | (with_reducible refine (Work.erase_fold2 _ _ _ (fun _ w _ => ?_)).trans ?_)
    | (with_reducible refine (Work.erase_fold3 _ _ _ (fun _ _ w _ => ?_)).trans ?_)
    | (split <;> try (rename_i hq; first
        | (with_reducible refine Work.erase_pair (w := w) (ft := ft) hq ?_ (fun hx => ?_); clear hq; rotate_left; clear hq; rotate_right)
        | (with_reducible refine Work.erase_triple (w := w) (ft := ft) hq ?_ (fun hx => ?_); clear hq; rotate_left; clear hq; rotate_right)
        | clear hq))
  all_goals simp [*]

@[simp] theorem Work.retirePages_erase {ft : Part → Bool} (hp : ft .sent = true ∧ ft .pad = true ∧ ft .flash = true ∧ ft .sched = true ∧ ft .fns = true ∧ ft .rings = true ∧ ft .actives = true ∧ ft .pcieTx = true ∧ ft .ctxs = true ∧ ft .regions = true ∧ ft .hbm = true ∧ ft .tiles = true ∧ ft .mw = true ∧ ft .hw = true) (w : Work) (c : Nat) (ceToo : Bool) :
    (Work.retirePages w c ceToo).erase ft = w.erase ft := by
  unfold Work.retirePages
  try dsimp only
  repeat' split
  all_goals first | with_reducible rfl | simp [hp]

@[simp] theorem Work.markPage_erase {ft : Part → Bool} (hp : ft .sent = true ∧ ft .pad = true ∧ ft .flash = true ∧ ft .sched = true ∧ ft .fns = true ∧ ft .rings = true ∧ ft .actives = true ∧ ft .pcieTx = true ∧ ft .ctxs = true ∧ ft .regions = true ∧ ft .hbm = true ∧ ft .tiles = true ∧ ft .mw = true ∧ ft .hw = true) (w : Work) (k page : Nat) (ue : Bool) :
    (Work.markPage w k page ue).erase ft = w.erase ft := by
  unfold Work.markPage
  repeat' first
    | with_reducible rfl
    | (extract_lets +onlyGivenNames x; first
        | (refine Work.erase_step (x := x) (w := w) (ft := ft) ?_ (fun hx => ?_); subst x; rotate_left; clear_value x; rotate_right)
        | (have _t : State := x; clear _t; subst x)
        | (have _t : Work → Work := x; clear _t; subst x)
        | (have _t : Nat → Work → Work := x; clear _t; subst x)
        | (have _t : Work → Nat → Work := x; clear _t; subst x)
        | (have _t : Work → (Resident → Resident) → Work := x; clear _t; subst x)
        | clear_value x)
    | (with_reducible refine (Work.erase_each _ _ _ (fun w _ => ?_)).trans ?_)
    | (with_reducible refine (Work.erase_fold2 _ _ _ (fun _ w _ => ?_)).trans ?_)
    | (with_reducible refine (Work.erase_fold3 _ _ _ (fun _ _ w _ => ?_)).trans ?_)
    | (split <;> try (rename_i hq; first
        | (with_reducible refine Work.erase_pair (w := w) (ft := ft) hq ?_ (fun hx => ?_); clear hq; rotate_left; clear hq; rotate_right)
        | (with_reducible refine Work.erase_triple (w := w) (ft := ft) hq ?_ (fun hx => ?_); clear hq; rotate_left; clear hq; rotate_right)
        | clear hq))
  all_goals simp [*]

@[simp] theorem Work.settlePages_erase {ft : Part → Bool} (hp : ft .sent = true ∧ ft .pad = true ∧ ft .flash = true ∧ ft .sched = true ∧ ft .fns = true ∧ ft .rings = true ∧ ft .actives = true ∧ ft .pcieTx = true ∧ ft .ctxs = true ∧ ft .regions = true ∧ ft .hbm = true ∧ ft .tiles = true ∧ ft .mw = true ∧ ft .hw = true) (w : Work) :
    (Work.settlePages w).erase ft = w.erase ft := by
  unfold Work.settlePages
  repeat' first
    | with_reducible rfl
    | (extract_lets +onlyGivenNames x; first
        | (refine Work.erase_step (x := x) (w := w) (ft := ft) ?_ (fun hx => ?_); subst x; rotate_left; clear_value x; rotate_right)
        | (have _t : State := x; clear _t; subst x)
        | (have _t : Work → Work := x; clear _t; subst x)
        | (have _t : Nat → Work → Work := x; clear _t; subst x)
        | (have _t : Work → Nat → Work := x; clear _t; subst x)
        | (have _t : Work → (Resident → Resident) → Work := x; clear _t; subst x)
        | clear_value x)
    | (with_reducible refine (Work.erase_each _ _ _ (fun w _ => ?_)).trans ?_)
    | (with_reducible refine (Work.erase_fold2 _ _ _ (fun _ w _ => ?_)).trans ?_)
    | (with_reducible refine (Work.erase_fold3 _ _ _ (fun _ _ w _ => ?_)).trans ?_)
    | (split <;> try (rename_i hq; first
        | (with_reducible refine Work.erase_pair (w := w) (ft := ft) hq ?_ (fun hx => ?_); clear hq; rotate_left; clear hq; rotate_right)
        | (with_reducible refine Work.erase_triple (w := w) (ft := ft) hq ?_ (fun hx => ?_); clear hq; rotate_left; clear hq; rotate_right)
        | clear hq))
  all_goals simp [*]

@[simp] theorem Work.poisonReady_erase {ft : Part → Bool} (hp : ft .sent = true ∧ ft .ctxs = true) (w : Work) (c : Nat) (cause : Nat) :
    (Work.poisonReady w c cause).erase ft = w.erase ft := by
  unfold Work.poisonReady
  repeat' first
    | with_reducible rfl
    | (extract_lets +onlyGivenNames x; first
        | (refine Work.erase_step (x := x) (w := w) (ft := ft) ?_ (fun hx => ?_); subst x; rotate_left; clear_value x; rotate_right)
        | (have _t : State := x; clear _t; subst x)
        | (have _t : Work → Work := x; clear _t; subst x)
        | (have _t : Nat → Work → Work := x; clear _t; subst x)
        | (have _t : Work → Nat → Work := x; clear _t; subst x)
        | (have _t : Work → (Resident → Resident) → Work := x; clear _t; subst x)
        | clear_value x)
    | (with_reducible refine (Work.erase_each _ _ _ (fun w _ => ?_)).trans ?_)
    | (with_reducible refine (Work.erase_fold2 _ _ _ (fun _ w _ => ?_)).trans ?_)
    | (with_reducible refine (Work.erase_fold3 _ _ _ (fun _ _ w _ => ?_)).trans ?_)
    | (split <;> try (rename_i hq; first
        | (with_reducible refine Work.erase_pair (w := w) (ft := ft) hq ?_ (fun hx => ?_); clear hq; rotate_left; clear hq; rotate_right)
        | (with_reducible refine Work.erase_triple (w := w) (ft := ft) hq ?_ (fun hx => ?_); clear hq; rotate_left; clear hq; rotate_right)
        | clear hq))
  all_goals simp [*]

@[simp] theorem Work.poisonHolders_erase {ft : Part → Bool} (hp : ft .sent = true ∧ ft .ctxs = true) (w : Work) (k : Nat) (off : Nat) :
    (Work.poisonHolders w k off).erase ft = w.erase ft := by
  unfold Work.poisonHolders
  repeat' first
    | with_reducible rfl
    | (extract_lets +onlyGivenNames x; first
        | (refine Work.erase_step (x := x) (w := w) (ft := ft) ?_ (fun hx => ?_); subst x; rotate_left; clear_value x; rotate_right)
        | (have _t : State := x; clear _t; subst x)
        | (have _t : Work → Work := x; clear _t; subst x)
        | (have _t : Nat → Work → Work := x; clear _t; subst x)
        | (have _t : Work → Nat → Work := x; clear _t; subst x)
        | (have _t : Work → (Resident → Resident) → Work := x; clear _t; subst x)
        | clear_value x)
    | (with_reducible refine (Work.erase_each _ _ _ (fun w _ => ?_)).trans ?_)
    | (with_reducible refine (Work.erase_fold2 _ _ _ (fun _ w _ => ?_)).trans ?_)
    | (with_reducible refine (Work.erase_fold3 _ _ _ (fun _ _ w _ => ?_)).trans ?_)
    | (split <;> try (rename_i hq; first
        | (with_reducible refine Work.erase_pair (w := w) (ft := ft) hq ?_ (fun hx => ?_); clear hq; rotate_left; clear hq; rotate_right)
        | (with_reducible refine Work.erase_triple (w := w) (ft := ft) hq ?_ (fun hx => ?_); clear hq; rotate_left; clear hq; rotate_right)
        | clear hq))
  all_goals simp [*]

@[simp] theorem Work.eccError_erase {ft : Part → Bool} (hp : ft .phys = true) (w : Work) (p kind word : Nat) (ue scrub paged : Bool) :
    (Work.eccError w p kind word ue scrub paged).erase ft = w.erase ft := by
  unfold Work.eccError
  try dsimp only
  repeat' split
  all_goals first | with_reducible rfl | simp [hp]

@[simp] theorem Work.storeCe_erase {ft : Part → Bool} (hp : ft .sent = true ∧ ft .pad = true ∧ ft .flash = true ∧ ft .fns = true ∧ ft .phys = true) (w : Work) (n kind word : Nat) (scrub : Bool) :
    (Work.storeCe w n kind word scrub).erase ft = w.erase ft := by
  unfold Work.storeCe
  try dsimp only
  repeat' split
  all_goals first | with_reducible rfl | simp [hp]

@[simp] theorem Work.loseWord_erase {ft : Part → Bool} (hp : ft .tiles = true ∧ ft .mw = true) (w : Work) (n : Nat) (kind : Nat) (word : Nat) :
    (Work.loseWord w n kind word).erase ft = w.erase ft := by
  unfold Work.loseWord
  repeat' first
    | with_reducible rfl
    | (extract_lets +onlyGivenNames x; first
        | (refine Work.erase_step (x := x) (w := w) (ft := ft) ?_ (fun hx => ?_); subst x; rotate_left; clear_value x; rotate_right)
        | (have _t : State := x; clear _t; subst x)
        | (have _t : Work → Work := x; clear _t; subst x)
        | (have _t : Nat → Work → Work := x; clear _t; subst x)
        | (have _t : Work → Nat → Work := x; clear _t; subst x)
        | (have _t : Work → (Resident → Resident) → Work := x; clear _t; subst x)
        | clear_value x)
    | (with_reducible refine (Work.erase_each _ _ _ (fun w _ => ?_)).trans ?_)
    | (with_reducible refine (Work.erase_fold2 _ _ _ (fun _ w _ => ?_)).trans ?_)
    | (with_reducible refine (Work.erase_fold3 _ _ _ (fun _ _ w _ => ?_)).trans ?_)
    | (split <;> try (rename_i hq; first
        | (with_reducible refine Work.erase_pair (w := w) (ft := ft) hq ?_ (fun hx => ?_); clear hq; rotate_left; clear hq; rotate_right)
        | (with_reducible refine Work.erase_triple (w := w) (ft := ft) hq ?_ (fun hx => ?_); clear hq; rotate_left; clear hq; rotate_right)
        | clear hq))
  all_goals simp [*]

@[simp] theorem Work.storeUe_erase {ft : Part → Bool} (hp : ft .sent = true ∧ ft .pad = true ∧ ft .flash = true ∧ ft .fns = true ∧ ft .tiles = true ∧ ft .phys = true ∧ ft .mw = true) (w : Work) (n kind word move : Nat) (scrub : Bool) :
    (Work.storeUe w n kind word move scrub).erase ft = w.erase ft := by
  unfold Work.storeUe
  try dsimp only
  repeat' split
  all_goals first | with_reducible rfl | simp [hp]

@[simp] theorem Work.pagedError_erase {ft : Part → Bool} (hp : ft .sent = true ∧ ft .pad = true ∧ ft .flash = true ∧ ft .fns = true ∧ ft .tiles = true ∧ ft .phys = true ∧ ft .mw = true) (w : Work) (k off : Nat) (ue : Bool) :
    (Work.pagedError w k off ue).erase ft = w.erase ft := by
  unfold Work.pagedError
  repeat' first
    | with_reducible rfl
    | (extract_lets +onlyGivenNames x; first
        | (refine Work.erase_step (x := x) (w := w) (ft := ft) ?_ (fun hx => ?_); subst x; rotate_left; clear_value x; rotate_right)
        | (have _t : State := x; clear _t; subst x)
        | (have _t : Work → Work := x; clear _t; subst x)
        | (have _t : Nat → Work → Work := x; clear _t; subst x)
        | (have _t : Work → Nat → Work := x; clear _t; subst x)
        | (have _t : Work → (Resident → Resident) → Work := x; clear _t; subst x)
        | clear_value x)
    | (with_reducible refine (Work.erase_each _ _ _ (fun w _ => ?_)).trans ?_)
    | (with_reducible refine (Work.erase_fold2 _ _ _ (fun _ w _ => ?_)).trans ?_)
    | (with_reducible refine (Work.erase_fold3 _ _ _ (fun _ _ w _ => ?_)).trans ?_)
    | (split <;> try (rename_i hq; first
        | (with_reducible refine Work.erase_pair (w := w) (ft := ft) hq ?_ (fun hx => ?_); clear hq; rotate_left; clear hq; rotate_right)
        | (with_reducible refine Work.erase_triple (w := w) (ft := ft) hq ?_ (fun hx => ?_); clear hq; rotate_left; clear hq; rotate_right)
        | clear hq))
  all_goals simp [*]

@[simp] theorem Work.hbmUe_erase {ft : Part → Bool} (hp : ft .sent = true ∧ ft .pad = true ∧ ft .flash = true ∧ ft .sched = true ∧ ft .fns = true ∧ ft .rings = true ∧ ft .actives = true ∧ ft .pcieTx = true ∧ ft .ctxs = true ∧ ft .regions = true ∧ ft .hbm = true ∧ ft .tiles = true ∧ ft .phys = true ∧ ft .mw = true ∧ ft .hw = true) (w : Work) (k off src : Nat) :
    (Work.hbmUe w k off src).erase ft = w.erase ft := by
  unfold Work.hbmUe
  repeat' first
    | with_reducible rfl
    | (extract_lets +onlyGivenNames x; first
        | (refine Work.erase_step (x := x) (w := w) (ft := ft) ?_ (fun hx => ?_); subst x; rotate_left; clear_value x; rotate_right)
        | (have _t : State := x; clear _t; subst x)
        | (have _t : Work → Work := x; clear _t; subst x)
        | (have _t : Nat → Work → Work := x; clear _t; subst x)
        | (have _t : Work → Nat → Work := x; clear _t; subst x)
        | (have _t : Work → (Resident → Resident) → Work := x; clear _t; subst x)
        | clear_value x)
    | (with_reducible refine (Work.erase_each _ _ _ (fun w _ => ?_)).trans ?_)
    | (with_reducible refine (Work.erase_fold2 _ _ _ (fun _ w _ => ?_)).trans ?_)
    | (with_reducible refine (Work.erase_fold3 _ _ _ (fun _ _ w _ => ?_)).trans ?_)
    | (split <;> try (rename_i hq; first
        | (with_reducible refine Work.erase_pair (w := w) (ft := ft) hq ?_ (fun hx => ?_); clear hq; rotate_left; clear hq; rotate_right)
        | (with_reducible refine Work.erase_triple (w := w) (ft := ft) hq ?_ (fun hx => ?_); clear hq; rotate_left; clear hq; rotate_right)
        | clear hq))
  all_goals simp [*]

@[simp] theorem Work.laneError_erase {ft : Part → Bool} (hp : ft .sent = true ∧ ft .pad = true ∧ ft .flash = true ∧ ft .fns = true ∧ ft .hbm = true) (w : Work) (k lane : Nat) :
    (Work.laneError w k lane).erase ft = w.erase ft := by
  unfold Work.laneError
  repeat' first
    | with_reducible rfl
    | (extract_lets +onlyGivenNames x; first
        | (refine Work.erase_step (x := x) (w := w) (ft := ft) ?_ (fun hx => ?_); subst x; rotate_left; clear_value x; rotate_right)
        | (have _t : State := x; clear _t; subst x)
        | (have _t : Work → Work := x; clear _t; subst x)
        | (have _t : Nat → Work → Work := x; clear _t; subst x)
        | (have _t : Work → Nat → Work := x; clear _t; subst x)
        | (have _t : Work → (Resident → Resident) → Work := x; clear _t; subst x)
        | clear_value x)
    | (with_reducible refine (Work.erase_each _ _ _ (fun w _ => ?_)).trans ?_)
    | (with_reducible refine (Work.erase_fold2 _ _ _ (fun _ w _ => ?_)).trans ?_)
    | (with_reducible refine (Work.erase_fold3 _ _ _ (fun _ _ w _ => ?_)).trans ?_)
    | (split <;> try (rename_i hq; first
        | (with_reducible refine Work.erase_pair (w := w) (ft := ft) hq ?_ (fun hx => ?_); clear hq; rotate_left; clear hq; rotate_right)
        | (with_reducible refine Work.erase_triple (w := w) (ft := ft) hq ?_ (fun hx => ?_); clear hq; rotate_left; clear hq; rotate_right)
        | clear hq))
  all_goals simp [*]

@[simp] theorem Work.hbmCe_erase {ft : Part → Bool} (hp : ft .sent = true ∧ ft .pad = true ∧ ft .flash = true ∧ ft .sched = true ∧ ft .fns = true ∧ ft .rings = true ∧ ft .actives = true ∧ ft .pcieTx = true ∧ ft .ctxs = true ∧ ft .regions = true ∧ ft .hbm = true ∧ ft .pkgBytes = true ∧ ft .tiles = true ∧ ft .phys = true ∧ ft .mw = true ∧ ft .hw = true) (w : Work) (k off lane src : Nat) :
    (Work.hbmCe w k off lane src).erase ft = w.erase ft := by
  unfold Work.hbmCe
  repeat' first
    | with_reducible rfl
    | (extract_lets +onlyGivenNames x; first
        | (refine Work.erase_step (x := x) (w := w) (ft := ft) ?_ (fun hx => ?_); subst x; rotate_left; clear_value x; rotate_right)
        | (have _t : State := x; clear _t; subst x)
        | (have _t : Work → Work := x; clear _t; subst x)
        | (have _t : Nat → Work → Work := x; clear _t; subst x)
        | (have _t : Work → Nat → Work := x; clear _t; subst x)
        | (have _t : Work → (Resident → Resident) → Work := x; clear _t; subst x)
        | clear_value x)
    | (with_reducible refine (Work.erase_each _ _ _ (fun w _ => ?_)).trans ?_)
    | (with_reducible refine (Work.erase_fold2 _ _ _ (fun _ w _ => ?_)).trans ?_)
    | (with_reducible refine (Work.erase_fold3 _ _ _ (fun _ _ w _ => ?_)).trans ?_)
    | (split <;> try (rename_i hq; first
        | (with_reducible refine Work.erase_pair (w := w) (ft := ft) hq ?_ (fun hx => ?_); clear hq; rotate_left; clear hq; rotate_right)
        | (with_reducible refine Work.erase_triple (w := w) (ft := ft) hq ?_ (fun hx => ?_); clear hq; rotate_left; clear hq; rotate_right)
        | clear hq))
  all_goals simp [*]

@[simp] theorem Work.checkFailed_erase {ft : Part → Bool} (hp : ft .sent = true ∧ ft .pad = true ∧ ft .flash = true ∧ ft .sched = true ∧ ft .fns = true ∧ ft .rings = true ∧ ft .actives = true ∧ ft .pcieTx = true ∧ ft .ctxs = true ∧ ft .regions = true ∧ ft .tiles = true ∧ ft .retiring = true ∧ ft .mw = true ∧ ft .hw = true) (w : Work) (c : Nat) (u : UnitId) (code p0 p1 p2 : Nat) :
    (Work.checkFailed w c u code p0 p1 p2).erase ft = w.erase ft := by
  unfold Work.checkFailed
  try dsimp only
  repeat' split
  all_goals first | with_reducible rfl | simp [hp]

@[simp] theorem Work.engineFailed_erase {ft : Part → Bool} (hp : ft .sent = true ∧ ft .pad = true ∧ ft .flash = true ∧ ft .sched = true ∧ ft .fns = true ∧ ft .rings = true ∧ ft .actives = true ∧ ft .pcieTx = true ∧ ft .ctxs = true ∧ ft .regions = true ∧ ft .tiles = true ∧ ft .retiring = true ∧ ft .mw = true ∧ ft .hw = true) (w : Work) (c : Nat) (spn : Bool) (r code p0 : Nat) :
    (Work.engineFailed w c spn r code p0).erase ft = w.erase ft := by
  unfold Work.engineFailed
  try dsimp only
  repeat' split
  all_goals first | with_reducible rfl | simp [hp]

@[simp] theorem Work.walkStop_erase {ft : Part → Bool} (hp : ft .sent = true ∧ ft .pad = true ∧ ft .flash = true ∧ ft .sched = true ∧ ft .fns = true ∧ ft .rings = true ∧ ft .actives = true ∧ ft .pcieTx = true ∧ ft .ctxs = true ∧ ft .regions = true ∧ ft .hbm = true ∧ ft .tiles = true ∧ ft .phys = true ∧ ft .mw = true ∧ ft .hw = true) (w : Work) (c a src : Nat) (e : WalkErr) :
    (Work.walkStop w c a src e).erase ft = w.erase ft := by
  unfold Work.walkStop
  try dsimp only
  repeat' split
  all_goals first | with_reducible rfl | simp [hp]

@[simp] theorem Work.meet_erase {ft : Part → Bool} (hp : ft .sent = true ∧ ft .pad = true ∧ ft .flash = true ∧ ft .sched = true ∧ ft .fns = true ∧ ft .rings = true ∧ ft .actives = true ∧ ft .pcieTx = true ∧ ft .ctxs = true ∧ ft .regions = true ∧ ft .hbm = true ∧ ft .pkgBytes = true ∧ ft .tiles = true ∧ ft .phys = true ∧ ft .retiring = true ∧ ft .mw = true ∧ ft .hw = true) (w : Work) (m : Mover) (x0 : Upset) :
    (Work.meet w m x0).erase ft = w.erase ft := by
  unfold Work.meet
  try dsimp only
  repeat' split
  all_goals first | with_reducible rfl | simp [hp]

@[simp] theorem Work.meets_erase {ft : Part → Bool} (hp : ft .sent = true ∧ ft .pad = true ∧ ft .flash = true ∧ ft .sched = true ∧ ft .fns = true ∧ ft .rings = true ∧ ft .actives = true ∧ ft .pcieTx = true ∧ ft .ctxs = true ∧ ft .regions = true ∧ ft .hbm = true ∧ ft .pkgBytes = true ∧ ft .tiles = true ∧ ft .phys = true ∧ ft .retiring = true ∧ ft .mw = true ∧ ft .hw = true) (w : Work) (m : Mover) (u : List Upset) :
    (Work.meets w m u).erase ft = w.erase ft := by
  unfold Work.meets
  try dsimp only
  repeat' split
  all_goals first | with_reducible rfl | simp [hp]

@[simp] theorem Work.meetHost_erase {ft : Part → Bool} (hp : ft .sent = true ∧ ft .pad = true ∧ ft .flash = true ∧ ft .sched = true ∧ ft .fns = true ∧ ft .rings = true ∧ ft .actives = true ∧ ft .pcieTx = true ∧ ft .ctxs = true ∧ ft .regions = true ∧ ft .hbm = true ∧ ft .pkgBytes = true ∧ ft .tiles = true ∧ ft .phys = true ∧ ft .mw = true ∧ ft .hw = true) (w : Work) (src : Nat) (x0 : Upset) :
    (Work.meetHost w src x0).erase ft = w.erase ft := by
  unfold Work.meetHost
  try dsimp only
  repeat' split
  all_goals first | with_reducible rfl | simp [hp]

@[simp] theorem Work.meetsHost_erase {ft : Part → Bool} (hp : ft .sent = true ∧ ft .pad = true ∧ ft .flash = true ∧ ft .sched = true ∧ ft .fns = true ∧ ft .rings = true ∧ ft .actives = true ∧ ft .pcieTx = true ∧ ft .ctxs = true ∧ ft .regions = true ∧ ft .hbm = true ∧ ft .pkgBytes = true ∧ ft .tiles = true ∧ ft .phys = true ∧ ft .mw = true ∧ ft .hw = true) (w : Work) (src : Nat) (u : List Upset) :
    (Work.meetsHost w src u).erase ft = w.erase ft := by
  unfold Work.meetsHost
  try dsimp only
  repeat' split
  all_goals first | with_reducible rfl | simp [hp]

@[simp] theorem Work.trace_erase {ft : Part → Bool} (hp : ft .tiles = true) (w : Work) (c n kind cls cause peer index : Nat) :
    (Work.trace w c n kind cls cause peer index).erase ft = w.erase ft := by
  unfold Work.trace
  try dsimp only
  repeat' split
  all_goals first | with_reducible rfl | simp [hp]

@[simp] theorem Work.traceTiles_erase {ft : Part → Bool} (hp : ft .tiles = true) (w : Work) (c : Nat) (ts : List Nat) (kind : Nat) (cls : Nat) :
    (Work.traceTiles w c ts kind cls).erase ft = w.erase ft := by
  unfold Work.traceTiles
  repeat' first
    | with_reducible rfl
    | (extract_lets +onlyGivenNames x; first
        | (refine Work.erase_step (x := x) (w := w) (ft := ft) ?_ (fun hx => ?_); subst x; rotate_left; clear_value x; rotate_right)
        | (have _t : State := x; clear _t; subst x)
        | (have _t : Work → Work := x; clear _t; subst x)
        | (have _t : Nat → Work → Work := x; clear _t; subst x)
        | (have _t : Work → Nat → Work := x; clear _t; subst x)
        | (have _t : Work → (Resident → Resident) → Work := x; clear _t; subst x)
        | clear_value x)
    | (with_reducible refine (Work.erase_each _ _ _ (fun w _ => ?_)).trans ?_)
    | (with_reducible refine (Work.erase_fold2 _ _ _ (fun _ w _ => ?_)).trans ?_)
    | (with_reducible refine (Work.erase_fold3 _ _ _ (fun _ _ w _ => ?_)).trans ?_)
    | (split <;> try (rename_i hq; first
        | (with_reducible refine Work.erase_pair (w := w) (ft := ft) hq ?_ (fun hx => ?_); clear hq; rotate_left; clear hq; rotate_right)
        | (with_reducible refine Work.erase_triple (w := w) (ft := ft) hq ?_ (fun hx => ?_); clear hq; rotate_left; clear hq; rotate_right)
        | clear hq))
  all_goals simp [*]

@[simp] theorem Work.traceAttempt_erase {ft : Part → Bool} (hp : ft .tiles = true) (w : Work) (c : Nat) (cls : Nat) :
    (Work.traceAttempt w c cls).erase ft = w.erase ft := by
  unfold Work.traceAttempt
  repeat' first
    | with_reducible rfl
    | (extract_lets +onlyGivenNames x; first
        | (refine Work.erase_step (x := x) (w := w) (ft := ft) ?_ (fun hx => ?_); subst x; rotate_left; clear_value x; rotate_right)
        | (have _t : State := x; clear _t; subst x)
        | (have _t : Work → Work := x; clear _t; subst x)
        | (have _t : Nat → Work → Work := x; clear _t; subst x)
        | (have _t : Work → Nat → Work := x; clear _t; subst x)
        | (have _t : Work → (Resident → Resident) → Work := x; clear _t; subst x)
        | clear_value x)
    | (with_reducible refine (Work.erase_each _ _ _ (fun w _ => ?_)).trans ?_)
    | (with_reducible refine (Work.erase_fold2 _ _ _ (fun _ w _ => ?_)).trans ?_)
    | (with_reducible refine (Work.erase_fold3 _ _ _ (fun _ _ w _ => ?_)).trans ?_)
    | (split <;> try (rename_i hq; first
        | (with_reducible refine Work.erase_pair (w := w) (ft := ft) hq ?_ (fun hx => ?_); clear hq; rotate_left; clear hq; rotate_right)
        | (with_reducible refine Work.erase_triple (w := w) (ft := ft) hq ?_ (fun hx => ?_); clear hq; rotate_left; clear hq; rotate_right)
        | clear hq))
  all_goals simp [*]

@[simp] theorem Work.tracePower_erase {ft : Part → Bool} (hp : ft .tiles = true) (w : Work) (r : Nat) :
    (Work.tracePower w r).erase ft = w.erase ft := by
  unfold Work.tracePower
  repeat' first
    | with_reducible rfl
    | (extract_lets +onlyGivenNames x; first
        | (refine Work.erase_step (x := x) (w := w) (ft := ft) ?_ (fun hx => ?_); subst x; rotate_left; clear_value x; rotate_right)
        | (have _t : State := x; clear _t; subst x)
        | (have _t : Work → Work := x; clear _t; subst x)
        | (have _t : Nat → Work → Work := x; clear _t; subst x)
        | (have _t : Work → Nat → Work := x; clear _t; subst x)
        | (have _t : Work → (Resident → Resident) → Work := x; clear _t; subst x)
        | clear_value x)
    | (with_reducible refine (Work.erase_each _ _ _ (fun w _ => ?_)).trans ?_)
    | (with_reducible refine (Work.erase_fold2 _ _ _ (fun _ w _ => ?_)).trans ?_)
    | (with_reducible refine (Work.erase_fold3 _ _ _ (fun _ _ w _ => ?_)).trans ?_)
    | (split <;> try (rename_i hq; first
        | (with_reducible refine Work.erase_pair (w := w) (ft := ft) hq ?_ (fun hx => ?_); clear hq; rotate_left; clear hq; rotate_right)
        | (with_reducible refine Work.erase_triple (w := w) (ft := ft) hq ?_ (fun hx => ?_); clear hq; rotate_left; clear hq; rotate_right)
        | clear hq))
  all_goals simp [*]

@[simp] theorem Work.tryEntry_erase {ft : Part → Bool} (hp : ft .regions = true) (w : Work) (r : Nat) :
    (Work.tryEntry w r).erase ft = w.erase ft := by
  unfold Work.tryEntry
  try dsimp only
  repeat' split
  all_goals first | with_reducible rfl | simp [hp]

@[simp] theorem Work.wakeRegion_erase {ft : Part → Bool} (hp : ft .regions = true) (w : Work) (r : Nat) (demand : Bool) (ramp : Nat) :
    (Work.wakeRegion w r demand ramp).erase ft = w.erase ft := by
  unfold Work.wakeRegion
  try dsimp only
  repeat' split
  all_goals first | with_reducible rfl | simp [hp]

@[simp] theorem Work.lowerRegion_erase {ft : Part → Bool} (hp : ft .regions = true) (w : Work) (r : Nat) (t : Pwr) :
    (Work.lowerRegion w r t).erase ft = w.erase ft := by
  unfold Work.lowerRegion
  try dsimp only
  repeat' split
  all_goals first | with_reducible rfl | simp [hp]

@[simp] theorem Work.powerRequest_erase {ft : Part → Bool} (hp : ft .regions = true) (w : Work) (r : Nat) (t : Pwr) (ramp : Nat) :
    (Work.powerRequest w r t ramp).erase ft = w.erase ft := by
  unfold Work.powerRequest
  try dsimp only
  repeat' split
  all_goals first | with_reducible rfl | simp [hp]

@[simp] theorem Work.nextRequest_erase {ft : Part → Bool} (hp : ft .regions = true) (w : Work) (r : Nat) :
    (Work.nextRequest w r).erase ft = w.erase ft := by
  unfold Work.nextRequest
  repeat' first
    | with_reducible rfl
    | (extract_lets +onlyGivenNames x; first
        | (refine Work.erase_step (x := x) (w := w) (ft := ft) ?_ (fun hx => ?_); subst x; rotate_left; clear_value x; rotate_right)
        | (have _t : State := x; clear _t; subst x)
        | (have _t : Work → Work := x; clear _t; subst x)
        | (have _t : Nat → Work → Work := x; clear _t; subst x)
        | (have _t : Work → Nat → Work := x; clear _t; subst x)
        | (have _t : Work → (Resident → Resident) → Work := x; clear _t; subst x)
        | clear_value x)
    | (with_reducible refine (Work.erase_each _ _ _ (fun w _ => ?_)).trans ?_)
    | (with_reducible refine (Work.erase_fold2 _ _ _ (fun _ w _ => ?_)).trans ?_)
    | (with_reducible refine (Work.erase_fold3 _ _ _ (fun _ _ w _ => ?_)).trans ?_)
    | (split <;> try (rename_i hq; first
        | (with_reducible refine Work.erase_pair (w := w) (ft := ft) hq ?_ (fun hx => ?_); clear hq; rotate_left; clear hq; rotate_right)
        | (with_reducible refine Work.erase_triple (w := w) (ft := ft) hq ?_ (fun hx => ?_); clear hq; rotate_left; clear hq; rotate_right)
        | clear hq))
  all_goals simp [*]

@[simp] theorem Work.restRegion_erase {ft : Part → Bool} (hp : ft .regions = true) (w : Work) (r : Nat) :
    (Work.restRegion w r).erase ft = w.erase ft := by
  unfold Work.restRegion
  try dsimp only
  repeat' split
  all_goals first | with_reducible rfl | simp [hp]

@[simp] theorem Work.restAll_erase {ft : Part → Bool} (hp : ft .regions = true) (w : Work) :
    (Work.restAll w).erase ft = w.erase ft := by
  unfold Work.restAll
  try dsimp only
  repeat' split
  all_goals first | with_reducible rfl | simp [hp]

@[simp] theorem Work.rcLost_erase {ft : Part → Bool} (hp : ft .phys = true) (w : Work) (r : Nat) :
    (Work.rcLost w r).erase ft = w.erase ft := by
  unfold Work.rcLost
  repeat' first
    | with_reducible rfl
    | (extract_lets +onlyGivenNames x; first
        | (refine Work.erase_step (x := x) (w := w) (ft := ft) ?_ (fun hx => ?_); subst x; rotate_left; clear_value x; rotate_right)
        | (have _t : State := x; clear _t; subst x)
        | (have _t : Work → Work := x; clear _t; subst x)
        | (have _t : Nat → Work → Work := x; clear _t; subst x)
        | (have _t : Work → Nat → Work := x; clear _t; subst x)
        | (have _t : Work → (Resident → Resident) → Work := x; clear _t; subst x)
        | clear_value x)
    | (with_reducible refine (Work.erase_each _ _ _ (fun w _ => ?_)).trans ?_)
    | (with_reducible refine (Work.erase_fold2 _ _ _ (fun _ w _ => ?_)).trans ?_)
    | (with_reducible refine (Work.erase_fold3 _ _ _ (fun _ _ w _ => ?_)).trans ?_)
    | (split <;> try (rename_i hq; first
        | (with_reducible refine Work.erase_pair (w := w) (ft := ft) hq ?_ (fun hx => ?_); clear hq; rotate_left; clear hq; rotate_right)
        | (with_reducible refine Work.erase_triple (w := w) (ft := ft) hq ?_ (fun hx => ?_); clear hq; rotate_left; clear hq; rotate_right)
        | clear hq))
  all_goals simp [*]

@[simp] theorem Work.settleVolt_erase {ft : Part → Bool} (hp : ft .power = true) (w : Work) :
    (Work.settleVolt w).erase ft = w.erase ft := by
  unfold Work.settleVolt
  try dsimp only
  repeat' split
  all_goals first | with_reducible rfl | simp [hp]

@[simp] theorem Work.reclock_erase {ft : Part → Bool} (hp : ft .power = true ∧ ft .regions = true) (w : Work) (r : Nat) :
    (Work.reclock w r).erase ft = w.erase ft := by
  unfold Work.reclock
  repeat' first
    | with_reducible rfl
    | (extract_lets +onlyGivenNames x; first
        | (refine Work.erase_step (x := x) (w := w) (ft := ft) ?_ (fun hx => ?_); subst x; rotate_left; clear_value x; rotate_right)
        | (have _t : State := x; clear _t; subst x)
        | (have _t : Work → Work := x; clear _t; subst x)
        | (have _t : Nat → Work → Work := x; clear _t; subst x)
        | (have _t : Work → Nat → Work := x; clear _t; subst x)
        | (have _t : Work → (Resident → Resident) → Work := x; clear _t; subst x)
        | clear_value x)
    | (with_reducible refine (Work.erase_each _ _ _ (fun w _ => ?_)).trans ?_)
    | (with_reducible refine (Work.erase_fold2 _ _ _ (fun _ w _ => ?_)).trans ?_)
    | (with_reducible refine (Work.erase_fold3 _ _ _ (fun _ _ w _ => ?_)).trans ?_)
    | (split <;> try (rename_i hq; first
        | (with_reducible refine Work.erase_pair (w := w) (ft := ft) hq ?_ (fun hx => ?_); clear hq; rotate_left; clear hq; rotate_right)
        | (with_reducible refine Work.erase_triple (w := w) (ft := ft) hq ?_ (fun hx => ?_); clear hq; rotate_left; clear hq; rotate_right)
        | clear hq))
  all_goals simp [*]

@[simp] theorem Work.startRamp_erase {ft : Part → Bool} (hp : ft .free = true ∧ ft .regions = true) (w : Work) (r : Nat) :
    (Work.startRamp w r).erase ft = w.erase ft := by
  unfold Work.startRamp
  repeat' first
    | with_reducible rfl
    | (extract_lets +onlyGivenNames x; first
        | (refine Work.erase_step (x := x) (w := w) (ft := ft) ?_ (fun hx => ?_); subst x; rotate_left; clear_value x; rotate_right)
        | (have _t : State := x; clear _t; subst x)
        | (have _t : Work → Work := x; clear _t; subst x)
        | (have _t : Nat → Work → Work := x; clear _t; subst x)
        | (have _t : Work → Nat → Work := x; clear _t; subst x)
        | (have _t : Work → (Resident → Resident) → Work := x; clear _t; subst x)
        | clear_value x)
    | (with_reducible refine (Work.erase_each _ _ _ (fun w _ => ?_)).trans ?_)
    | (with_reducible refine (Work.erase_fold2 _ _ _ (fun _ w _ => ?_)).trans ?_)
    | (with_reducible refine (Work.erase_fold3 _ _ _ (fun _ _ w _ => ?_)).trans ?_)
    | (split <;> try (rename_i hq; first
        | (with_reducible refine Work.erase_pair (w := w) (ft := ft) hq ?_ (fun hx => ?_); clear hq; rotate_left; clear hq; rotate_right)
        | (with_reducible refine Work.erase_triple (w := w) (ft := ft) hq ?_ (fun hx => ?_); clear hq; rotate_left; clear hq; rotate_right)
        | clear hq))
  all_goals simp [*]

@[simp] theorem Work.holdIssue_erase {ft : Part → Bool} (hp : ft .regions = true) (w : Work) (above : Bool) (rs : List Nat) :
    (Work.holdIssue w above rs).erase ft = w.erase ft := by
  unfold Work.holdIssue
  try dsimp only
  repeat' split
  all_goals first | with_reducible rfl | simp [hp]

@[simp] theorem Work.reclockAll_erase {ft : Part → Bool} (hp : ft .power = true ∧ ft .regions = true) (w : Work) :
    (Work.reclockAll w).erase ft = w.erase ft := by
  unfold Work.reclockAll
  try dsimp only
  repeat' split
  all_goals first | with_reducible rfl | simp [hp]

@[simp] theorem Work.powerTrip_erase {ft : Part → Bool} (hp : ft .pins = true ∧ ft .boot = true ∧ ft .power = true ∧ ft .sched = true ∧ ft .regions = true ∧ ft .hbm = true ∧ ft .ports = true ∧ ft .tiles = true ∧ ft .phys = true) (w : Work) :
    (Work.powerTrip w).erase ft = w.erase ft := by
  unfold Work.powerTrip
  repeat' first
    | with_reducible rfl
    | (extract_lets +onlyGivenNames x; first
        | (refine Work.erase_step (x := x) (w := w) (ft := ft) ?_ (fun hx => ?_); subst x; rotate_left; clear_value x; rotate_right)
        | (have _t : State := x; clear _t; subst x)
        | (have _t : Work → Work := x; clear _t; subst x)
        | (have _t : Nat → Work → Work := x; clear _t; subst x)
        | (have _t : Work → Nat → Work := x; clear _t; subst x)
        | (have _t : Work → (Resident → Resident) → Work := x; clear _t; subst x)
        | clear_value x)
    | (with_reducible refine (Work.erase_each _ _ _ (fun w _ => ?_)).trans ?_)
    | (with_reducible refine (Work.erase_fold2 _ _ _ (fun _ w _ => ?_)).trans ?_)
    | (with_reducible refine (Work.erase_fold3 _ _ _ (fun _ _ w _ => ?_)).trans ?_)
    | (split <;> try (rename_i hq; first
        | (with_reducible refine Work.erase_pair (w := w) (ft := ft) hq ?_ (fun hx => ?_); clear hq; rotate_left; clear hq; rotate_right)
        | (with_reducible refine Work.erase_triple (w := w) (ft := ft) hq ?_ (fun hx => ?_); clear hq; rotate_left; clear hq; rotate_right)
        | clear hq))
  all_goals simp [*]

@[simp] theorem Work.thermalStep_erase {ft : Part → Bool} (hp : ft .power = true ∧ ft .regions = true) (w : Work) (r : Nat) (hot cool : Bool) :
    (Work.thermalStep w r hot cool).erase ft = w.erase ft := by
  unfold Work.thermalStep
  try dsimp only
  repeat' split
  all_goals first | with_reducible rfl | simp [hp]

@[simp] theorem Work.ctxRead_erase {ft : Part → Bool} (hp : ft .hbm = true ∧ ft .pkgBytes = true ∧ ft .phys = true) (w : Work) (c a n : Nat) (u : List Upset) :
    (Work.ctxRead w c a n u).2.erase ft = w.erase ft := by
  unfold Work.ctxRead
  try dsimp only
  repeat' split
  all_goals first | with_reducible rfl | simp [hp]

@[simp] theorem Work.putBoard_erase {ft : Part → Bool} (hp : ft .sent = true ∧ ft .hbm = true ∧ ft .pkgBytes = true ∧ ft .phys = true ∧ ft .requests = true ∧ ft .nextTag = true ∧ ft .mw = true) (w : Work) (c : Nat) (tag : Tag) (b : Nat) (vs : List Byte) (poison : Bool) (owner : Owner) :
    (Work.putBoard w c tag b vs poison owner).erase ft = w.erase ft := by
  unfold Work.putBoard
  try dsimp only
  repeat' split
  all_goals first | with_reducible rfl | simp [hp]

@[simp] theorem Work.ctxWrite_erase {ft : Part → Bool} (hp : ft .sent = true ∧ ft .hbm = true ∧ ft .pkgBytes = true ∧ ft .phys = true ∧ ft .requests = true ∧ ft .nextTag = true ∧ ft .mw = true) (w : Work) (c : Nat) (tag : Tag) (a : Nat) (vs : List Byte) (poison : Bool) (owner : Owner) (u : List Upset) :
    (Work.ctxWrite w c tag a vs poison owner u).2.erase ft = w.erase ft := by
  unfold Work.ctxWrite
  try dsimp only
  repeat' split
  all_goals first | with_reducible rfl | simp [hp]

@[simp] theorem Work.paid_erase {ft : Part → Bool} (hp : ft .ctxs = true) (w : Work) (c a n : Nat) :
    (Work.paid w c a n).erase ft = w.erase ft := by
  unfold Work.paid
  try dsimp only
  repeat' split
  all_goals first | with_reducible rfl | simp [hp]

@[simp] theorem Work.replyOrWait_erase {ft : Part → Bool} (hp : ft .sent = true ∧ ft .fns = true ∧ ft .rings = true ∧ ft .actives = true ∧ ft .pcieTx = true ∧ ft .hw = true) (w : Work) (a : Active) (bytes : Nat) :
    (Work.replyOrWait w a bytes).erase ft = w.erase ft := by
  unfold Work.replyOrWait
  try dsimp only
  repeat' split
  all_goals first | with_reducible rfl | simp [hp]

@[simp] theorem Work.walkReply_erase {ft : Part → Bool} (hp : ft .sent = true ∧ ft .pad = true ∧ ft .flash = true ∧ ft .sched = true ∧ ft .fns = true ∧ ft .rings = true ∧ ft .actives = true ∧ ft .pcieTx = true ∧ ft .ctxs = true ∧ ft .regions = true ∧ ft .hbm = true ∧ ft .tiles = true ∧ ft .phys = true ∧ ft .mw = true ∧ ft .hw = true) (w : Work) (a : Active) (c addr n : Nat) (e : WalkErr) :
    (Work.walkReply w a c addr n e).erase ft = w.erase ft := by
  unfold Work.walkReply
  try dsimp only
  repeat' split
  all_goals first | with_reducible rfl | simp [hp]

theorem Work.needLeaf_erase {ft : Part → Bool} (hp : ft .ctxs = true ∧ ft .mw = true) (w : Work) (c index : Nat) {v : Work}
    (hw : Work.needLeaf w c index = some v) : v.erase ft = w.erase ft := by
  unfold Work.needLeaf at hw
  dsimp only at hw
  split at hw
  · simp only [Option.some.injEq] at hw
    rw [← hw]
  · split at hw
    · simp at hw
    · split at hw
      · simp at hw
      · rename_i hq
        simp only [Option.some.injEq] at hw
        rw [← hw]
        simp [hp, Work.takePages_erase (ft := ft) ⟨hp.1, hp.2⟩ _ _ _ _ _ hq]

@[simp] theorem Work.dropLeaf_erase {ft : Part → Bool} (hp : ft .ctxs = true ∧ ft .mw = true) (w : Work) (c i : Nat) :
    (Work.dropLeaf w c i).erase ft = w.erase ft := by
  unfold Work.dropLeaf
  try dsimp only
  repeat' split
  all_goals first | with_reducible rfl | simp [hp]

@[simp] theorem Work.freeSeg_erase {ft : Part → Bool} (hp : ft .ctxs = true) (w : Work) (c index : Nat) :
    (Work.freeSeg w c index).erase ft = w.erase ft := by
  unfold Work.freeSeg
  try dsimp only
  repeat' split
  all_goals first | with_reducible rfl | simp [hp]

@[simp] theorem SegResult.orKeep_erase {ft : Part → Bool} (r : SegResult) (w : Work)
    (hr : r.2.erase ft = w.erase ft) : (SegResult.orKeep r w).2.erase ft = w.erase ft := by
  unfold SegResult.orKeep
  split
  · rfl
  · exact hr

@[simp] theorem Work.fillSeg_erase {ft : Part → Bool} (hp : ft .ctxs = true ∧ ft .mw = true) (w : Work) (c index : Nat) (wr : Bool) (limitM1 target : Nat) :
    (Work.fillSeg w c index wr limitM1 target).2.erase ft = w.erase ft := by
  unfold Work.fillSeg
  split
  · rfl
  · rename_i hq
    simp [hp, Work.needLeaf_erase hp _ _ _ hq]

@[simp] theorem Work.segRelease_erase {ft : Part → Bool} (hp : ft .ctxs = true ∧ ft .mw = true) (w : Work) (c index : Nat) :
    (Work.segRelease w c index).2.erase ft = w.erase ft := by
  unfold Work.segRelease
  try dsimp only
  repeat' split
  all_goals first | with_reducible rfl | simp [hp]

@[simp] theorem Work.segStack_erase {ft : Part → Bool} (hp : ft .ctxs = true ∧ ft .mw = true) (w : Work) (c index : Nat) (wr : Bool) (stack limitM1 : Nat) :
    (Work.segStack w c index wr stack limitM1).2.erase ft = w.erase ft := by
  unfold Work.segStack
  extract_lets n w0 w1
  have h1 : w1.erase ft = w.erase ft := by simp [w1, hp]
  have h0 : w0.erase ft = w.erase ft := rfl
  clear_value w1 w0
  split
  · exact h0
  · split
    · exact h0
    · rename_i hq
      have h2 := (Work.takePages_erase hp _ _ _ _ _ hq).trans h1
      simp [hp, h2, h0]

@[simp] theorem Work.segSpread_erase {ft : Part → Bool} (hp : ft .ctxs = true ∧ ft .mw = true) (w : Work) (c index : Nat) (wr : Bool) (limitM1 : Nat) :
    (Work.segSpread w c index wr limitM1).2.erase ft = w.erase ft := by
  unfold Work.segSpread
  repeat' first
    | with_reducible rfl
    | (extract_lets +onlyGivenNames x; first
        | (refine Work.erase_step (x := x) (w := w) (ft := ft) ?_ (fun hx => ?_); subst x; rotate_left; clear_value x; rotate_right)
        | (have _t : State := x; clear _t; subst x)
        | (have _t : Work → Work := x; clear _t; subst x)
        | (have _t : Nat → Work → Work := x; clear _t; subst x)
        | (have _t : Work → Nat → Work := x; clear _t; subst x)
        | (have _t : Work → (Resident → Resident) → Work := x; clear _t; subst x)
        | clear_value x)
    | (with_reducible refine (Work.erase_each _ _ _ (fun w _ => ?_)).trans ?_)
    | (with_reducible refine (Work.erase_fold2 _ _ _ (fun _ w _ => ?_)).trans ?_)
    | (with_reducible refine (Work.erase_fold3 _ _ _ (fun _ _ w _ => ?_)).trans ?_)
    | (split <;> try (rename_i hq; first
        | (with_reducible refine Work.erase_pair (w := w) (ft := ft) hq ?_ (fun hx => ?_); clear hq; rotate_left; clear hq; rotate_right)
        | (with_reducible refine Work.erase_triple (w := w) (ft := ft) hq ?_ (fun hx => ?_); clear hq; rotate_left; clear hq; rotate_right)
        | clear hq))
  all_goals simp [*]

@[simp] theorem Work.segBoard_erase {ft : Part → Bool} (hp : ft .ctxs = true ∧ ft .mw = true) (w : Work) (c index : Nat) (wr : Bool) (limitM1 target : Nat) (there : Bool) :
    (Work.segBoard w c index wr limitM1 target there).2.erase ft = w.erase ft := by
  unfold Work.segBoard
  try dsimp only
  repeat' split
  all_goals first | with_reducible rfl | simp [hp]

@[simp] theorem Work.segTile_erase {ft : Part → Bool} (hp : ft .ctxs = true ∧ ft .mw = true) (w : Work) (c index : Nat) (wr : Bool) (limitM1 tile : Nat) :
    (Work.segTile w c index wr limitM1 tile).2.erase ft = w.erase ft := by
  unfold Work.segTile
  try dsimp only
  repeat' split
  all_goals first | with_reducible rfl | simp [hp]

@[simp] theorem Work.segReply_erase {ft : Part → Bool} (hp : ft .sent = true ∧ ft .fns = true ∧ ft .rings = true ∧ ft .actives = true ∧ ft .pcieTx = true ∧ ft .hw = true) (w : Work) (a : Active) (r : SegResult)
    (hr : r.2.erase ft = w.erase ft) : (Work.segReply w a r).erase ft = w.erase ft := by
  unfold Work.segReply
  split
  · rw [Work.reply_erase hp]
    exact hr
  · simp [hp]

@[simp] theorem Work.selftest_erase {ft : Part → Bool} (hp : ft .sent = true ∧ ft .free = true ∧ ft .pad = true ∧ ft .flash = true ∧ ft .sched = true ∧ ft .fns = true ∧ ft .rings = true ∧ ft .actives = true ∧ ft .pcieTx = true ∧ ft .ctxs = true ∧ ft .regions = true ∧ ft .tiles = true ∧ ft .retiring = true ∧ ft .mw = true ∧ ft .hw = true) (w : Work) (c mask : Nat) (failing : List UnitId) :
    (Work.selftest w c mask failing).2.erase ft = w.erase ft := by
  unfold Work.selftest
  repeat' first
    | with_reducible rfl
    | (extract_lets +onlyGivenNames x; first
        | (refine Work.erase_step (x := x) (w := w) (ft := ft) ?_ (fun hx => ?_); subst x; rotate_left; clear_value x; rotate_right)
        | (have _t : State := x; clear _t; subst x)
        | (have _t : Work → Work := x; clear _t; subst x)
        | (have _t : Nat → Work → Work := x; clear _t; subst x)
        | (have _t : Work → Nat → Work := x; clear _t; subst x)
        | (have _t : Work → (Resident → Resident) → Work := x; clear _t; subst x)
        | clear_value x)
    | (with_reducible refine (Work.erase_each _ _ _ (fun w _ => ?_)).trans ?_)
    | (with_reducible refine (Work.erase_fold2 _ _ _ (fun _ w _ => ?_)).trans ?_)
    | (with_reducible refine (Work.erase_fold3 _ _ _ (fun _ _ w _ => ?_)).trans ?_)
    | (split <;> try (rename_i hq; first
        | (with_reducible refine Work.erase_pair (w := w) (ft := ft) hq ?_ (fun hx => ?_); clear hq; rotate_left; clear hq; rotate_right)
        | (with_reducible refine Work.erase_triple (w := w) (ft := ft) hq ?_ (fun hx => ?_); clear hq; rotate_left; clear hq; rotate_right)
        | clear hq))
  all_goals simp [*]

@[simp] theorem Work.applyDeferred_erase {ft : Part → Bool} (hp : ft .sent = true ∧ ft .free = true ∧ ft .pad = true ∧ ft .flash = true ∧ ft .sched = true ∧ ft .fns = true ∧ ft .rings = true ∧ ft .actives = true ∧ ft .pcieTx = true ∧ ft .ctxs = true ∧ ft .regions = true ∧ ft .hbm = true ∧ ft .pkgBytes = true ∧ ft .tiles = true ∧ ft .phys = true ∧ ft .retiring = true ∧ ft .requests = true ∧ ft .nextTag = true ∧ ft .mw = true ∧ ft .hw = true) (w : Work) (a : Active) (d : Deferred) :
    (Work.applyDeferred w a d).erase ft = w.erase ft := by
  unfold Work.applyDeferred
  extract_lets c own
  split
  · split
    · simp [hp]
    · rename_i hq
      have h := Work.erase_snd (ft := ft) hq
      simp only [Work.ctxWrite_erase (ft := ft) (by simp [hp])] at h
      simp [hp, h]
  · rename_i es u
    extract_lets r
    have hr : r.2.erase ft = w.erase ft := by
      have key : ∀ (acc : Option (Nat × WalkErr) × Work), (es.foldl (fun (acc : Option (Nat × WalkErr) × Work) p =>
          match acc.1 with
          | some _ => acc
          | none =>
            match acc.2.ctxWrite c (freeTag w.s c) p.1 (leBytes p.2.2 p.2.1) false own u with
            | (.error e, _) => (some (p.1, e), acc.2)
            | (.ok _, w) => (none, w.paid c p.1 p.2.2)) acc).2.erase ft = acc.2.erase ft := by
        induction es with
        | nil => intro acc; rfl
        | cons p es ih =>
          intro acc
          rw [List.foldl_cons, ih]
          split
          · rfl
          · split
            · rfl
            · rename_i hq
              have h := Work.erase_snd (ft := ft) hq
              simp only [Work.ctxWrite_erase (ft := ft) (by simp [hp])] at h
              simp [hp, h]
      exact key _
    clear_value r
    split
    · simp only at hr
      simp [hp, hr]
    · simp only at hr
      simp [hp, hr]
  · simp [hp]
  · split
    rename_i hq
    have h := Work.erase_snd (ft := ft) hq
    simp only [Work.selftest_erase (ft := ft) (by simp [hp])] at h
    simp [hp, h]
  all_goals simp [hp]

@[simp] theorem Work.defer_erase {ft : Part → Bool} (hp : ft .sent = true ∧ ft .free = true ∧ ft .pad = true ∧ ft .flash = true ∧ ft .sched = true ∧ ft .fns = true ∧ ft .rings = true ∧ ft .actives = true ∧ ft .pcieTx = true ∧ ft .ctxs = true ∧ ft .regions = true ∧ ft .hbm = true ∧ ft .pkgBytes = true ∧ ft .tiles = true ∧ ft .phys = true ∧ ft .retiring = true ∧ ft .requests = true ∧ ft .nextTag = true ∧ ft .mw = true ∧ ft .hw = true) (w : Work) (a : Active) (d : Deferred) :
    (Work.defer w a d).erase ft = w.erase ft := by
  unfold Work.defer
  try dsimp only
  repeat' split
  all_goals first | with_reducible rfl | simp [hp]

@[simp] theorem Work.applyAllDeferred_erase {ft : Part → Bool} (hp : ft .sent = true ∧ ft .free = true ∧ ft .pad = true ∧ ft .flash = true ∧ ft .sched = true ∧ ft .fns = true ∧ ft .rings = true ∧ ft .actives = true ∧ ft .pcieTx = true ∧ ft .ctxs = true ∧ ft .regions = true ∧ ft .hbm = true ∧ ft .pkgBytes = true ∧ ft .tiles = true ∧ ft .phys = true ∧ ft .retiring = true ∧ ft .requests = true ∧ ft .nextTag = true ∧ ft .mw = true ∧ ft .hw = true) (w : Work) (c : Nat) :
    (Work.applyAllDeferred w c).erase ft = w.erase ft := by
  unfold Work.applyAllDeferred
  repeat' first
    | with_reducible rfl
    | (extract_lets +onlyGivenNames x; first
        | (refine Work.erase_step (x := x) (w := w) (ft := ft) ?_ (fun hx => ?_); subst x; rotate_left; clear_value x; rotate_right)
        | (have _t : State := x; clear _t; subst x)
        | (have _t : Work → Work := x; clear _t; subst x)
        | (have _t : Nat → Work → Work := x; clear _t; subst x)
        | (have _t : Work → Nat → Work := x; clear _t; subst x)
        | (have _t : Work → (Resident → Resident) → Work := x; clear _t; subst x)
        | clear_value x)
    | (with_reducible refine (Work.erase_each _ _ _ (fun w _ => ?_)).trans ?_)
    | (with_reducible refine (Work.erase_fold2 _ _ _ (fun _ w _ => ?_)).trans ?_)
    | (with_reducible refine (Work.erase_fold3 _ _ _ (fun _ _ w _ => ?_)).trans ?_)
    | (split <;> try (rename_i hq; first
        | (with_reducible refine Work.erase_pair (w := w) (ft := ft) hq ?_ (fun hx => ?_); clear hq; rotate_left; clear hq; rotate_right)
        | (with_reducible refine Work.erase_triple (w := w) (ft := ft) hq ?_ (fun hx => ?_); clear hq; rotate_left; clear hq; rotate_right)
        | clear hq))
  all_goals simp [*]

@[simp] theorem Work.dropProg_erase {ft : Part → Bool} (hp : ft .progs = true ∧ ft .ctxs = true ∧ ft .sw = true) (w : Work) (id : Nat) :
    (Work.dropProg w id).erase ft = w.erase ft := by
  unfold Work.dropProg
  try dsimp only
  repeat' split
  all_goals first | with_reducible rfl | simp [hp]

@[simp] theorem Work.progDone_erase {ft : Part → Bool} (hp : ft .sent = true ∧ ft .free = true ∧ ft .progs = true ∧ ft .fns = true ∧ ft .rings = true ∧ ft .actives = true ∧ ft .pcieTx = true ∧ ft .ctxs = true ∧ ft .hw = true ∧ ft .sw = true) (w : Work) (id : Nat) :
    (Work.progDone w id).erase ft = w.erase ft := by
  unfold Work.progDone
  repeat' first
    | with_reducible rfl
    | (extract_lets +onlyGivenNames x; first
        | (refine Work.erase_step (x := x) (w := w) (ft := ft) ?_ (fun hx => ?_); subst x; rotate_left; clear_value x; rotate_right)
        | (have _t : State := x; clear _t; subst x)
        | (have _t : Work → Work := x; clear _t; subst x)
        | (have _t : Nat → Work → Work := x; clear _t; subst x)
        | (have _t : Work → Nat → Work := x; clear _t; subst x)
        | (have _t : Work → (Resident → Resident) → Work := x; clear _t; subst x)
        | clear_value x)
    | (with_reducible refine (Work.erase_each _ _ _ (fun w _ => ?_)).trans ?_)
    | (with_reducible refine (Work.erase_fold2 _ _ _ (fun _ w _ => ?_)).trans ?_)
    | (with_reducible refine (Work.erase_fold3 _ _ _ (fun _ _ w _ => ?_)).trans ?_)
    | (split <;> try (rename_i hq; first
        | (with_reducible refine Work.erase_pair (w := w) (ft := ft) hq ?_ (fun hx => ?_); clear hq; rotate_left; clear hq; rotate_right)
        | (with_reducible refine Work.erase_triple (w := w) (ft := ft) hq ?_ (fun hx => ?_); clear hq; rotate_left; clear hq; rotate_right)
        | clear hq))
  all_goals simp [*]

@[simp] theorem Work.dropThread_erase {ft : Part → Bool} (hp : ft .sched = true ∧ ft .latch = true) (w : Work) (t : Nat) :
    (Work.dropThread w t).erase ft = w.erase ft := by
  unfold Work.dropThread
  repeat' first
    | with_reducible rfl
    | (extract_lets +onlyGivenNames x; first
        | (refine Work.erase_step (x := x) (w := w) (ft := ft) ?_ (fun hx => ?_); subst x; rotate_left; clear_value x; rotate_right)
        | (have _t : State := x; clear _t; subst x)
        | (have _t : Work → Work := x; clear _t; subst x)
        | (have _t : Nat → Work → Work := x; clear _t; subst x)
        | (have _t : Work → Nat → Work := x; clear _t; subst x)
        | (have _t : Work → (Resident → Resident) → Work := x; clear _t; subst x)
        | clear_value x)
    | (with_reducible refine (Work.erase_each _ _ _ (fun w _ => ?_)).trans ?_)
    | (with_reducible refine (Work.erase_fold2 _ _ _ (fun _ w _ => ?_)).trans ?_)
    | (with_reducible refine (Work.erase_fold3 _ _ _ (fun _ _ w _ => ?_)).trans ?_)
    | (split <;> try (rename_i hq; first
        | (with_reducible refine Work.erase_pair (w := w) (ft := ft) hq ?_ (fun hx => ?_); clear hq; rotate_left; clear hq; rotate_right)
        | (with_reducible refine Work.erase_triple (w := w) (ft := ft) hq ?_ (fun hx => ?_); clear hq; rotate_left; clear hq; rotate_right)
        | clear hq))
  all_goals simp [*]

@[simp] theorem Work.endThread_erase {ft : Part → Bool} (hp : ft .sent = true ∧ ft .free = true ∧ ft .sched = true ∧ ft .progs = true ∧ ft .fns = true ∧ ft .rings = true ∧ ft .actives = true ∧ ft .latch = true ∧ ft .pcieTx = true ∧ ft .ctxs = true ∧ ft .hw = true ∧ ft .sw = true) (w : Work) (t : Nat) (e : ThreadEnd) :
    (Work.endThread w t e).erase ft = w.erase ft := by
  unfold Work.endThread
  repeat' first
    | with_reducible rfl
    | (extract_lets +onlyGivenNames x; first
        | (refine Work.erase_step (x := x) (w := w) (ft := ft) ?_ (fun hx => ?_); subst x; rotate_left; clear_value x; rotate_right)
        | (have _t : State := x; clear _t; subst x)
        | (have _t : Work → Work := x; clear _t; subst x)
        | (have _t : Nat → Work → Work := x; clear _t; subst x)
        | (have _t : Work → Nat → Work := x; clear _t; subst x)
        | (have _t : Work → (Resident → Resident) → Work := x; clear _t; subst x)
        | clear_value x)
    | (with_reducible refine (Work.erase_each _ _ _ (fun w _ => ?_)).trans ?_)
    | (with_reducible refine (Work.erase_fold2 _ _ _ (fun _ w _ => ?_)).trans ?_)
    | (with_reducible refine (Work.erase_fold3 _ _ _ (fun _ _ w _ => ?_)).trans ?_)
    | (split <;> try (rename_i hq; first
        | (with_reducible refine Work.erase_pair (w := w) (ft := ft) hq ?_ (fun hx => ?_); clear hq; rotate_left; clear hq; rotate_right)
        | (with_reducible refine Work.erase_triple (w := w) (ft := ft) hq ?_ (fun hx => ?_); clear hq; rotate_left; clear hq; rotate_right)
        | clear hq))
  all_goals simp [*]

@[simp] theorem Work.abortProg_erase {ft : Part → Bool} (hp : ft .sent = true ∧ ft .free = true ∧ ft .sched = true ∧ ft .progs = true ∧ ft .fns = true ∧ ft .rings = true ∧ ft .actives = true ∧ ft .latch = true ∧ ft .pcieTx = true ∧ ft .ctxs = true ∧ ft .hw = true ∧ ft .sw = true) (w : Work) (id : Nat) :
    (Work.abortProg w id).erase ft = w.erase ft := by
  unfold Work.abortProg
  try dsimp only
  repeat' split
  all_goals first | with_reducible rfl | simp [hp]

@[simp] theorem Work.killProg_erase {ft : Part → Bool} (hp : ft .sched = true ∧ ft .progs = true ∧ ft .latch = true ∧ ft .ctxs = true ∧ ft .sw = true) (w : Work) (id : Nat) :
    (Work.killProg w id).erase ft = w.erase ft := by
  unfold Work.killProg
  try dsimp only
  repeat' split
  all_goals first | with_reducible rfl | simp [hp]

@[simp] theorem Work.clearTiles_erase {ft : Part → Bool} (hp : ft .tiles = true ∧ ft .skel = true) (w : Work) (c : Nat) :
    (Work.clearTiles w c).erase ft = w.erase ft := by
  unfold Work.clearTiles
  try dsimp only
  repeat' split
  all_goals first | with_reducible rfl | simp [hp]

@[simp] theorem Work.closeCtx_erase {ft : Part → Bool} (hp : ft .sent = true ∧ ft .free = true ∧ ft .pad = true ∧ ft .flash = true ∧ ft .sched = true ∧ ft .progs = true ∧ ft .fns = true ∧ ft .rings = true ∧ ft .actives = true ∧ ft .latch = true ∧ ft .pcieTx = true ∧ ft .ctxs = true ∧ ft .regions = true ∧ ft .jobs = true ∧ ft .tiles = true ∧ ft .lanes = true ∧ ft .lanesNow = true ∧ ft .windows = true ∧ ft .retiring = true ∧ ft .requests = true ∧ ft .resident = true ∧ ft .partials = true ∧ ft .journal = true ∧ ft .flips = true ∧ ft .retierList = true ∧ ft .retierDone = true ∧ ft .retierDue = true ∧ ft .traceDesc = true ∧ ft .traceNext = true ∧ ft .idleNs = true ∧ ft .skel = true ∧ ft .mw = true ∧ ft .hw = true ∧ ft .sw = true) (w : Work) (c : Nat) (silent : Bool) (self : Option Active) :
    (Work.closeCtx w c silent self).erase ft = w.erase ft := by
  unfold Work.closeCtx
  repeat' first
    | with_reducible rfl
    | (extract_lets +onlyGivenNames x; first
        | (refine Work.erase_step (x := x) (w := w) (ft := ft) ?_ (fun hx => ?_); subst x; rotate_left; clear_value x; rotate_right)
        | (have _t : State := x; clear _t; subst x)
        | (have _t : Work → Work := x; clear _t; subst x)
        | (have _t : Nat → Work → Work := x; clear _t; subst x)
        | (have _t : Work → Nat → Work := x; clear _t; subst x)
        | (have _t : Work → (Resident → Resident) → Work := x; clear _t; subst x)
        | clear_value x)
    | (with_reducible refine (Work.erase_each _ _ _ (fun w _ => ?_)).trans ?_)
    | (with_reducible refine (Work.erase_fold2 _ _ _ (fun _ w _ => ?_)).trans ?_)
    | (with_reducible refine (Work.erase_fold3 _ _ _ (fun _ _ w _ => ?_)).trans ?_)
    | (split <;> try (rename_i hq; first
        | (with_reducible refine Work.erase_pair (w := w) (ft := ft) hq ?_ (fun hx => ?_); clear hq; rotate_left; clear hq; rotate_right)
        | (with_reducible refine Work.erase_triple (w := w) (ft := ft) hq ?_ (fun hx => ?_); clear hq; rotate_left; clear hq; rotate_right)
        | clear hq))
  all_goals simp [*]

theorem Work.takeSave_erase {ft : Part → Bool} (hp : ft .ctxs = true ∧ ft .mw = true) (w : Work) (c n : Nat) {v : Work}
    (hw : Work.takeSave w c n = some v) : v.erase ft = w.erase ft := by
  unfold Work.takeSave at hw
  split at hw
  · simp at hw
  · simp only [Option.map_eq_some_iff, Prod.exists] at hw
    obtain ⟨a, v', h1, h2⟩ := hw
    rw [← h2, Work.takePages_erase hp _ _ _ _ _ h1]

theorem Work.takeSaves_erase {ft : Part → Bool} (hp : ft .ctxs = true ∧ ft .mw = true) (w : Work) (c : Nat) (x0 : Nat) {v : Work}
    (hw : Work.takeSaves w c x0 = some v) : v.erase ft = w.erase ft := by
  induction x0 generalizing v with
  | zero => exact Work.takeSave_erase hp _ _ _ hw
  | succ n ih =>
    unfold Work.takeSaves at hw
    split at hw
    · simp at hw
    · rename_i hq
      exact (Work.takeSave_erase hp _ _ _ hw).trans (ih hq)

theorem Work.setPolicy_erase {ft : Part → Bool} (hp : ft .ctxs = true) (w : Work) (c : Nat) (p : Policy) {v : Work}
    (hw : Work.setPolicy w c p = some v) : v.erase ft = w.erase ft := by
  unfold Work.setPolicy at hw
  split at hw
  · simp at hw
  · simp only [Option.some.injEq] at hw
    rw [← hw]
    simp [hp]

@[simp] theorem Work.segCommand_erase {ft : Part → Bool} (hp : ft .sent = true ∧ ft .free = true ∧ ft .pad = true ∧ ft .flash = true ∧ ft .sched = true ∧ ft .fns = true ∧ ft .rings = true ∧ ft .actives = true ∧ ft .pcieTx = true ∧ ft .ctxs = true ∧ ft .regions = true ∧ ft .hbm = true ∧ ft .pkgBytes = true ∧ ft .tiles = true ∧ ft .phys = true ∧ ft .retiring = true ∧ ft .requests = true ∧ ft .nextTag = true ∧ ft .mw = true ∧ ft .hw = true) (w : Work) (a : Active) (index : Nat) (d : Deferred) :
    (Work.segCommand w a index d).erase ft = w.erase ft := by
  unfold Work.segCommand
  try dsimp only
  repeat' split
  all_goals first | with_reducible rfl | simp [hp]

@[simp] theorem Work.fetchHost_erase {ft : Part → Bool} (hp : ft .sent = true ∧ ft .actives = true) (w : Work) (a : Active) (addr len : Nat) (use : HostUse) :
    (Work.fetchHost w a addr len use).erase ft = w.erase ft := by
  unfold Work.fetchHost
  try dsimp only
  repeat' split
  all_goals first | with_reducible rfl | simp [hp]

@[simp] theorem Work.copyPiece_erase {ft : Part → Bool} (hp : ft .sent = true ∧ ft .hbm = true ∧ ft .pkgBytes = true ∧ ft .phys = true ∧ ft .requests = true ∧ ft .nextTag = true ∧ ft .mw = true) (w : Work) (a : Active) (x : Nat) (y : Nat) (n : Nat) :
    (Work.copyPiece w a x y n).erase ft = w.erase ft := by
  unfold Work.copyPiece
  repeat' first
    | with_reducible rfl
    | (extract_lets +onlyGivenNames x; first
        | (refine Work.erase_step (x := x) (w := w) (ft := ft) ?_ (fun hx => ?_); subst x; rotate_left; clear_value x; rotate_right)
        | (have _t : State := x; clear _t; subst x)
        | (have _t : Work → Work := x; clear _t; subst x)
        | (have _t : Nat → Work → Work := x; clear _t; subst x)
        | (have _t : Work → Nat → Work := x; clear _t; subst x)
        | (have _t : Work → (Resident → Resident) → Work := x; clear _t; subst x)
        | clear_value x)
    | (with_reducible refine (Work.erase_each _ _ _ (fun w _ => ?_)).trans ?_)
    | (with_reducible refine (Work.erase_fold2 _ _ _ (fun _ w _ => ?_)).trans ?_)
    | (with_reducible refine (Work.erase_fold3 _ _ _ (fun _ _ w _ => ?_)).trans ?_)
    | (split <;> try (rename_i hq; first
        | (with_reducible refine Work.erase_pair (w := w) (ft := ft) hq ?_ (fun hx => ?_); clear hq; rotate_left; clear hq; rotate_right)
        | (with_reducible refine Work.erase_triple (w := w) (ft := ft) hq ?_ (fun hx => ?_); clear hq; rotate_left; clear hq; rotate_right)
        | clear hq))
  all_goals simp [*]

end Sys2Proof.Machine
end

