-- ==== Sys2Proof/Laws/Frame3.lean ====
section
/-! SUPPORT. Footprints of the operations of Programs, Operands, Sequencer, Regs, Admin, Num, Tensor, Array, Vector, Store, Rows, Gather: each leaves alone whatever its parts do not name. -/

namespace Sys2Proof.Machine

@[simp] theorem Work.read_erase {ft : Part → Bool} (hp : ft .sent = true ∧ ft .ctxs = true ∧ ft .hbm = true ∧ ft .pkgBytes = true ∧ ft .phys = true) (w : Work) (m : Mover) (a n : Nat) :
    (Work.read w m a n).2.erase ft = w.erase ft := by
  unfold Work.read
  repeat' first
    | with_reducible rfl
    | (extract_lets +onlyGivenNames x; first
        | (refine Work.erase_step (x := x) (w := w) (ft := ft) ?_ (fun hx => ?_); subst x; rotate_left; clear_value x; rotate_right)
        | (have _t : State := x; clear _t; subst x)
        | (have _t : Work → Work := x; clear _t; subst x)
        | (have _t : Nat → Work → Work := x; clear _t; subst x)
        | (have _t : Work → Nat → Work := x; clear _t; subst x)
        | (have _t : Work → (Resident → Resident) → Work := x; clear _t; subst x)
        | clear_value x)
    | (with_reducible refine (Work.erase_each _ _ _ (fun w _ => ?_)).trans ?_)
    | (with_reducible refine (Work.erase_fold2 _ _ _ (fun _ w _ => ?_)).trans ?_)
    | (with_reducible refine (Work.erase_fold3 _ _ _ (fun _ _ w _ => ?_)).trans ?_)
    | (split <;> try (rename_i hq; first
        | (with_reducible refine Work.erase_pair (w := w) (ft := ft) hq ?_ (fun hx => ?_); clear hq; rotate_left; clear hq; rotate_right)
        | (with_reducible refine Work.erase_triple (w := w) (ft := ft) hq ?_ (fun hx => ?_); clear hq; rotate_left; clear hq; rotate_right)
        | clear hq))
  all_goals simp [*]

@[simp] theorem Work.readRangeBy_erase {ft : Part → Bool} (hp : ft .sent = true ∧ ft .pad = true ∧ ft .flash = true ∧ ft .sched = true ∧ ft .fns = true ∧ ft .rings = true ∧ ft .actives = true ∧ ft .pcieTx = true ∧ ft .ctxs = true ∧ ft .regions = true ∧ ft .hbm = true ∧ ft .pkgBytes = true ∧ ft .tiles = true ∧ ft .phys = true ∧ ft .nextTag = true ∧ ft .mw = true ∧ ft .hw = true) (w : Work) (m : Mover) (a : Nat) (n : Nat) (u : List Upset) (record : Work → Work) (h_record : ∀ (y0 : Work), (record y0).erase ft = Work.erase ft y0) :
    (Work.readRangeBy w m a n u record).2.erase ft = w.erase ft := by
  unfold Work.readRangeBy
  repeat' first
    | with_reducible rfl
    | (extract_lets +onlyGivenNames x; first
        | (refine Work.erase_step (x := x) (w := w) (ft := ft) ?_ (fun hx => ?_); subst x; rotate_left; clear_value x; rotate_right)
        | (have _t : State := x; clear _t; subst x)
        | (have _t : Work → Work := x; clear _t; subst x)
        | (have _t : Nat → Work → Work := x; clear _t; subst x)
        | (have _t : Work → Nat → Work := x; clear _t; subst x)
        | (have _t : Work → (Resident → Resident) → Work := x; clear _t; subst x)
        | clear_value x)
    | (with_reducible refine (Work.erase_each _ _ _ (fun w _ => ?_)).trans ?_)
    | (with_reducible refine (Work.erase_fold2 _ _ _ (fun _ w _ => ?_)).trans ?_)
    | (with_reducible refine (Work.erase_fold3 _ _ _ (fun _ _ w _ => ?_)).trans ?_)
    | (split <;> try (rename_i hq; first
        | (with_reducible refine Work.erase_pair (w := w) (ft := ft) hq ?_ (fun hx => ?_); clear hq; rotate_left; clear hq; rotate_right)
        | (with_reducible refine Work.erase_triple (w := w) (ft := ft) hq ?_ (fun hx => ?_); clear hq; rotate_left; clear hq; rotate_right)
        | clear hq))
  all_goals simp [*]

@[simp] theorem Work.readRange_erase {ft : Part → Bool} (hp : ft .sent = true ∧ ft .pad = true ∧ ft .flash = true ∧ ft .sched = true ∧ ft .fns = true ∧ ft .rings = true ∧ ft .actives = true ∧ ft .pcieTx = true ∧ ft .ctxs = true ∧ ft .regions = true ∧ ft .hbm = true ∧ ft .pkgBytes = true ∧ ft .tiles = true ∧ ft .phys = true ∧ ft .nextTag = true ∧ ft .mw = true ∧ ft .hw = true) (w : Work) (m : Mover) (a : Nat) (n : Nat) (u : List Upset) :
    (Work.readRange w m a n u).2.erase ft = w.erase ft := by
  unfold Work.readRange
  repeat' first
    | with_reducible rfl
    | (extract_lets +onlyGivenNames x; first
        | (refine Work.erase_step (x := x) (w := w) (ft := ft) ?_ (fun hx => ?_); subst x; rotate_left; clear_value x; rotate_right)
        | (have _t : State := x; clear _t; subst x)
        | (have _t : Work → Work := x; clear _t; subst x)
        | (have _t : Nat → Work → Work := x; clear _t; subst x)
        | (have _t : Work → Nat → Work := x; clear _t; subst x)
        | (have _t : Work → (Resident → Resident) → Work := x; clear _t; subst x)
        | clear_value x)
    | (with_reducible refine (Work.erase_each _ _ _ (fun w _ => ?_)).trans ?_)
    | (with_reducible refine (Work.erase_fold2 _ _ _ (fun _ w _ => ?_)).trans ?_)
    | (with_reducible refine (Work.erase_fold3 _ _ _ (fun _ _ w _ => ?_)).trans ?_)
    | (with_reducible refine (Work.readRangeBy_erase (by simp [hp]) _ _ _ _ _ _ (fun w => ?_)).trans ?_)
    | (split <;> try (rename_i hq; first
        | (with_reducible refine Work.erase_pair (w := w) (ft := ft) hq ?_ (fun hx => ?_); clear hq; rotate_left; clear hq; rotate_right)
        | (with_reducible refine Work.erase_triple (w := w) (ft := ft) hq ?_ (fun hx => ?_); clear hq; rotate_left; clear hq; rotate_right)
        | clear hq))
  all_goals simp [*]

@[simp] theorem Work.readCtxBy_erase {ft : Part → Bool} (hp : ft .sent = true ∧ ft .pad = true ∧ ft .flash = true ∧ ft .sched = true ∧ ft .fns = true ∧ ft .rings = true ∧ ft .actives = true ∧ ft .pcieTx = true ∧ ft .ctxs = true ∧ ft .regions = true ∧ ft .hbm = true ∧ ft .pkgBytes = true ∧ ft .tiles = true ∧ ft .phys = true ∧ ft .nextTag = true ∧ ft .mw = true ∧ ft .hw = true) (w : Work) (m : Mover) (a n : Nat) (u : List Upset) (record : Work → Work) (h_record : ∀ (y0 : Work), (record y0).erase ft = Work.erase ft y0) :
    (Work.readCtxBy w m a n u record).2.erase ft = w.erase ft := by
  unfold Work.readCtxBy
  repeat' first
    | with_reducible rfl
    | (extract_lets +onlyGivenNames x; first
        | (refine Work.erase_step (x := x) (w := w) (ft := ft) ?_ (fun hx => ?_); subst x; rotate_left; clear_value x; rotate_right)
        | (have _t : State := x; clear _t; subst x)
        | (have _t : Work → Work := x; clear _t; subst x)
        | (have _t : Nat → Work → Work := x; clear _t; subst x)
        | (have _t : Work → Nat → Work := x; clear _t; subst x)
        | (have _t : Work → (Resident → Resident) → Work := x; clear _t; subst x)
        | clear_value x)
    | (with_reducible refine (Work.erase_each _ _ _ (fun w _ => ?_)).trans ?_)
    | (with_reducible refine (Work.erase_fold2 _ _ _ (fun _ w _ => ?_)).trans ?_)
    | (with_reducible refine (Work.erase_fold3 _ _ _ (fun _ _ w _ => ?_)).trans ?_)
    | (split <;> try (rename_i hq; first
        | (with_reducible refine Work.erase_pair (w := w) (ft := ft) hq ?_ (fun hx => ?_); clear hq; rotate_left; clear hq; rotate_right)
        | (with_reducible refine Work.erase_triple (w := w) (ft := ft) hq ?_ (fun hx => ?_); clear hq; rotate_left; clear hq; rotate_right)
        | clear hq))
  all_goals simp [*]

@[simp] theorem Work.readCtx_erase {ft : Part → Bool} (hp : ft .sent = true ∧ ft .pad = true ∧ ft .flash = true ∧ ft .sched = true ∧ ft .fns = true ∧ ft .rings = true ∧ ft .actives = true ∧ ft .pcieTx = true ∧ ft .ctxs = true ∧ ft .regions = true ∧ ft .hbm = true ∧ ft .pkgBytes = true ∧ ft .tiles = true ∧ ft .phys = true ∧ ft .nextTag = true ∧ ft .mw = true ∧ ft .hw = true) (w : Work) (m : Mover) (a n : Nat) (u : List Upset) :
    (Work.readCtx w m a n u).2.erase ft = w.erase ft := by
  unfold Work.readCtx
  repeat' first
    | with_reducible rfl
    | (extract_lets +onlyGivenNames x; first
        | (refine Work.erase_step (x := x) (w := w) (ft := ft) ?_ (fun hx => ?_); subst x; rotate_left; clear_value x; rotate_right)
        | (have _t : State := x; clear _t; subst x)
        | (have _t : Work → Work := x; clear _t; subst x)
        | (have _t : Nat → Work → Work := x; clear _t; subst x)
        | (have _t : Work → Nat → Work := x; clear _t; subst x)
        | (have _t : Work → (Resident → Resident) → Work := x; clear _t; subst x)
        | clear_value x)
    | (with_reducible refine (Work.erase_each _ _ _ (fun w _ => ?_)).trans ?_)
    | (with_reducible refine (Work.erase_fold2 _ _ _ (fun _ w _ => ?_)).trans ?_)
    | (with_reducible refine (Work.erase_fold3 _ _ _ (fun _ _ w _ => ?_)).trans ?_)
    | (with_reducible refine (Work.readCtxBy_erase (by simp [hp]) _ _ _ _ _ _ (fun w => ?_)).trans ?_)
    | (split <;> try (rename_i hq; first
        | (with_reducible refine Work.erase_pair (w := w) (ft := ft) hq ?_ (fun hx => ?_); clear hq; rotate_left; clear hq; rotate_right)
        | (with_reducible refine Work.erase_triple (w := w) (ft := ft) hq ?_ (fun hx => ?_); clear hq; rotate_left; clear hq; rotate_right)
        | clear hq))
  all_goals simp [*]

@[simp] theorem Work.writeRange_erase {ft : Part → Bool} (hp : ft .sent = true ∧ ft .pad = true ∧ ft .flash = true ∧ ft .sched = true ∧ ft .fns = true ∧ ft .rings = true ∧ ft .actives = true ∧ ft .pcieTx = true ∧ ft .ctxs = true ∧ ft .regions = true ∧ ft .hbm = true ∧ ft .pkgBytes = true ∧ ft .tiles = true ∧ ft .phys = true ∧ ft .requests = true ∧ ft .nextTag = true ∧ ft .mw = true ∧ ft .hw = true) (w : Work) (m : Mover) (a : Nat) (bs : List Byte) (poison : Bool) (u : List Upset) :
    (Work.writeRange w m a bs poison u).2.erase ft = w.erase ft := by
  unfold Work.writeRange
  repeat' first
    | with_reducible rfl
    | (extract_lets +onlyGivenNames x; first
        | (refine Work.erase_step (x := x) (w := w) (ft := ft) ?_ (fun hx => ?_); subst x; rotate_left; clear_value x; rotate_right)
        | (have _t : State := x; clear _t; subst x)
        | (have _t : Work → Work := x; clear _t; subst x)
        | (have _t : Nat → Work → Work := x; clear _t; subst x)
        | (have _t : Work → Nat → Work := x; clear _t; subst x)
        | (have _t : Work → (Resident → Resident) → Work := x; clear _t; subst x)
        | clear_value x)
    | (with_reducible refine (Work.erase_each _ _ _ (fun w _ => ?_)).trans ?_)
    | (with_reducible refine (Work.erase_fold2 _ _ _ (fun _ w _ => ?_)).trans ?_)
    | (with_reducible refine (Work.erase_fold3 _ _ _ (fun _ _ w _ => ?_)).trans ?_)
    | (split <;> try (rename_i hq; first
        | (with_reducible refine Work.erase_pair (w := w) (ft := ft) hq ?_ (fun hx => ?_); clear hq; rotate_left; clear hq; rotate_right)
        | (with_reducible refine Work.erase_triple (w := w) (ft := ft) hq ?_ (fun hx => ?_); clear hq; rotate_left; clear hq; rotate_right)
        | clear hq))
  all_goals simp [*]

@[simp] theorem Work.writeCtx_erase {ft : Part → Bool} (hp : ft .sent = true ∧ ft .pad = true ∧ ft .flash = true ∧ ft .sched = true ∧ ft .fns = true ∧ ft .rings = true ∧ ft .actives = true ∧ ft .pcieTx = true ∧ ft .ctxs = true ∧ ft .regions = true ∧ ft .hbm = true ∧ ft .pkgBytes = true ∧ ft .tiles = true ∧ ft .phys = true ∧ ft .requests = true ∧ ft .nextTag = true ∧ ft .mw = true ∧ ft .hw = true) (w : Work) (m : Mover) (a : Nat) (bs : List Byte) (poison : Bool) (u : List Upset) :
    (Work.writeCtx w m a bs poison u).2.erase ft = w.erase ft := by
  unfold Work.writeCtx
  repeat' first
    | with_reducible rfl
    | (extract_lets +onlyGivenNames x; first
        | (refine Work.erase_step (x := x) (w := w) (ft := ft) ?_ (fun hx => ?_); subst x; rotate_left; clear_value x; rotate_right)
        | (have _t : State := x; clear _t; subst x)
        | (have _t : Work → Work := x; clear _t; subst x)
        | (have _t : Nat → Work → Work := x; clear _t; subst x)
        | (have _t : Work → Nat → Work := x; clear _t; subst x)
        | (have _t : Work → (Resident → Resident) → Work := x; clear _t; subst x)
        | clear_value x)
    | (with_reducible refine (Work.erase_each _ _ _ (fun w _ => ?_)).trans ?_)
    | (with_reducible refine (Work.erase_fold2 _ _ _ (fun _ w _ => ?_)).trans ?_)
    | (with_reducible refine (Work.erase_fold3 _ _ _ (fun _ _ w _ => ?_)).trans ?_)
    | (split <;> try (rename_i hq; first
        | (with_reducible refine Work.erase_pair (w := w) (ft := ft) hq ?_ (fun hx => ?_); clear hq; rotate_left; clear hq; rotate_right)
        | (with_reducible refine Work.erase_triple (w := w) (ft := ft) hq ?_ (fun hx => ?_); clear hq; rotate_left; clear hq; rotate_right)
        | clear hq))
  all_goals simp [*]

@[simp] theorem Work.put_erase {ft : Part → Bool} (hp : ft .hbm = true ∧ ft .pkgBytes = true ∧ ft .phys = true ∧ ft .mw = true) (w : Work) (n t : Nat) (bs : List Byte) (poison : Bool) :
    (Work.put w n t bs poison).erase ft = w.erase ft := by
  unfold Work.put
  try dsimp only
  repeat' split
  all_goals first | with_reducible rfl | simp [hp]

@[simp] theorem Work.sendCollective_erase {ft : Part → Bool} (hp : ft .sent = true) (w : Work) (m : Mover) (mv : Nat) (dst : Xyz) (n addr : Nat) (bs : List Byte) (poison : Bool) :
    (Work.sendCollective w m mv dst n addr bs poison).erase ft = w.erase ft := by
  unfold Work.sendCollective
  repeat' first
    | with_reducible rfl
    | (extract_lets +onlyGivenNames x; first
        | (refine Work.erase_step (x := x) (w := w) (ft := ft) ?_ (fun hx => ?_); subst x; rotate_left; clear_value x; rotate_right)
        | (have _t : State := x; clear _t; subst x)
        | (have _t : Work → Work := x; clear _t; subst x)
        | (have _t : Nat → Work → Work := x; clear _t; subst x)
        | (have _t : Work → Nat → Work := x; clear _t; subst x)
        | (have _t : Work → (Resident → Resident) → Work := x; clear _t; subst x)
        | clear_value x)
    | (with_reducible refine (Work.erase_each _ _ _ (fun w _ => ?_)).trans ?_)
    | (with_reducible refine (Work.erase_fold2 _ _ _ (fun _ w _ => ?_)).trans ?_)
    | (with_reducible refine (Work.erase_fold3 _ _ _ (fun _ _ w _ => ?_)).trans ?_)
    | (split <;> try (rename_i hq; first
        | (with_reducible refine Work.erase_pair (w := w) (ft := ft) hq ?_ (fun hx => ?_); clear hq; rotate_left; clear hq; rotate_right)
        | (with_reducible refine Work.erase_triple (w := w) (ft := ft) hq ?_ (fun hx => ?_); clear hq; rotate_left; clear hq; rotate_right)
        | clear hq))
  all_goals simp [*]

@[simp] theorem Work.contribute_erase {ft : Part → Bool} (hp : ft .sent = true ∧ ft .hbm = true ∧ ft .pkgBytes = true ∧ ft .phys = true ∧ ft .mw = true ∧ ft .stop = true) (w : Work) (m : Mover) (mv : Nat) (g : Group) (bs : List Byte) (poison : Bool) :
    (Work.contribute w m mv g bs poison).2.erase ft = w.erase ft := by
  unfold Work.contribute
  repeat' first
    | with_reducible rfl
    | (extract_lets +onlyGivenNames x; first
        | (refine Work.erase_step (x := x) (w := w) (ft := ft) ?_ (fun hx => ?_); subst x; rotate_left; clear_value x; rotate_right)
        | (have _t : State := x; clear _t; subst x)
        | (have _t : Work → Work := x; clear _t; subst x)
        | (have _t : Nat → Work → Work := x; clear _t; subst x)
        | (have _t : Work → Nat → Work := x; clear _t; subst x)
        | (have _t : Work → (Resident → Resident) → Work := x; clear _t; subst x)
        | clear_value x)
    | (with_reducible refine (Work.erase_each _ _ _ (fun w _ => ?_)).trans ?_)
    | (with_reducible refine (Work.erase_fold2 _ _ _ (fun _ w _ => ?_)).trans ?_)
    | (with_reducible refine (Work.erase_fold3 _ _ _ (fun _ _ w _ => ?_)).trans ?_)
    | (split <;> try (rename_i hq; first
        | (with_reducible refine Work.erase_pair (w := w) (ft := ft) hq ?_ (fun hx => ?_); clear hq; rotate_left; clear hq; rotate_right)
        | (with_reducible refine Work.erase_triple (w := w) (ft := ft) hq ?_ (fun hx => ?_); clear hq; rotate_left; clear hq; rotate_right)
        | clear hq))
  all_goals simp [*]

@[simp] theorem Work.output_erase {ft : Part → Bool} (hp : ft .sent = true ∧ ft .hbm = true ∧ ft .pkgBytes = true ∧ ft .phys = true ∧ ft .mw = true ∧ ft .stop = true) (w : Work) (m : Mover) (mv : Nat) (bs : List Byte) (poison : Bool) (own : Work → Work) (h_own : ∀ (y0 : Work), (own y0).erase ft = Work.erase ft y0) :
    (Work.output w m mv bs poison own).2.erase ft = w.erase ft := by
  unfold Work.output
  try dsimp only
  repeat' split
  all_goals first | with_reducible rfl | simp [hp, h_own]

@[simp] theorem Work.startProgram_erase {ft : Part → Bool} (hp : ft .sent = true ∧ ft .sched = true ∧ ft .progs = true ∧ ft .actives = true) (w : Work) (a : Active) (p : ProgHead) (img : List Byte) (stack : Nat) :
    (Work.startProgram w a p img stack).erase ft = w.erase ft := by
  unfold Work.startProgram
  repeat' first
    | with_reducible rfl
    | (extract_lets +onlyGivenNames x; first
        | (refine Work.erase_step (x := x) (w := w) (ft := ft) ?_ (fun hx => ?_); subst x; rotate_left; clear_value x; rotate_right)
        | (have _t : State := x; clear _t; subst x)
        | (have _t : Work → Work := x; clear _t; subst x)
        | (have _t : Nat → Work → Work := x; clear _t; subst x)
        | (have _t : Work → Nat → Work := x; clear _t; subst x)
        | (have _t : Work → (Resident → Resident) → Work := x; clear _t; subst x)
        | clear_value x)
    | (with_reducible refine (Work.erase_each _ _ _ (fun w _ => ?_)).trans ?_)
    | (with_reducible refine (Work.erase_fold2 _ _ _ (fun _ w _ => ?_)).trans ?_)
    | (with_reducible refine (Work.erase_fold3 _ _ _ (fun _ _ w _ => ?_)).trans ?_)
    | (split <;> try (rename_i hq; first
        | (with_reducible refine Work.erase_pair (w := w) (ft := ft) hq ?_ (fun hx => ?_); clear hq; rotate_left; clear hq; rotate_right)
        | (with_reducible refine Work.erase_triple (w := w) (ft := ft) hq ?_ (fun hx => ?_); clear hq; rotate_left; clear hq; rotate_right)
        | clear hq))
  all_goals simp [*]

@[simp] theorem Work.checkProgram_erase {ft : Part → Bool} (hp : ft .sent = true ∧ ft .sched = true ∧ ft .progs = true ∧ ft .fns = true ∧ ft .rings = true ∧ ft .actives = true ∧ ft .pcieTx = true ∧ ft .ctxs = true ∧ ft .hw = true) (w : Work) (a : Active) (p : ProgHead) (img : List Byte) (stack : Nat) :
    (Work.checkProgram w a p img stack).erase ft = w.erase ft := by
  unfold Work.checkProgram
  try dsimp only
  repeat' split
  all_goals first | with_reducible rfl | simp [hp]

@[simp] theorem Work.loadProgram_erase {ft : Part → Bool} (hp : ft .sent = true ∧ ft .pad = true ∧ ft .flash = true ∧ ft .sched = true ∧ ft .progs = true ∧ ft .fns = true ∧ ft .rings = true ∧ ft .actives = true ∧ ft .pcieTx = true ∧ ft .ctxs = true ∧ ft .regions = true ∧ ft .hbm = true ∧ ft .pkgBytes = true ∧ ft .tiles = true ∧ ft .phys = true ∧ ft .nextTag = true ∧ ft .mw = true ∧ ft .hw = true) (w : Work) (a : Active) (addr : Nat) (u : List Upset) :
    (Work.loadProgram w a addr u).erase ft = w.erase ft := by
  unfold Work.loadProgram
  dsimp only
  split
  · simp [hp]
  · rename_i hq
    have h1 := Work.erase_snd (ft := ft) hq
    simp only [Work.ctxRead_erase (ft := ft) (by simp [hp])] at h1
    split
    · simp [hp, h1]
    · split
      · simp [hp, h1]
      · rename_i hq2
        have h2 := Work.erase_snd (ft := ft) hq2
        simp only [Work.ctxRead_erase (ft := ft) (by simp [hp])] at h2
        split
        · simp [hp, h1, h2]
        · split
          · simp [hp, h1, h2]
          · rename_i hq3
            have h3 := Work.takePages_erase (ft := ft) (by simp [hp]) _ _ _ _ _ hq3
            simp [hp, h1, h2, h3]

@[simp] theorem Work.call_erase {ft : Part → Bool} (w : Work) (core : Nat) (f : Nat → Nat → Prog → Work → Work) (h_f : ∀ (y0 : Nat) (y1 : Nat) (y2 : Prog) (y3 : Work), (f y0 y1 y2 y3).erase ft = Work.erase ft y3) :
    (Work.call w core f).erase ft = w.erase ft := by
  unfold Work.call
  try dsimp only
  repeat' split
  all_goals first | with_reducible rfl | simp [h_f]

@[simp] theorem Work.answer_erase {ft : Part → Bool} (hp : ft .sent = true) (w : Work) (core v : Nat) :
    (Work.answer w core v).erase ft = w.erase ft := by
  unfold Work.answer
  try dsimp only
  repeat' split
  all_goals first | with_reducible rfl | simp [hp]

@[simp] theorem Work.putSpace_erase {ft : Part → Bool} (hp : ft .sw = true) (w : Work) (id off : Nat) (bs : List Byte) :
    (Work.putSpace w id off bs).erase ft = w.erase ft := by
  unfold Work.putSpace
  try dsimp only
  repeat' split
  all_goals first | with_reducible rfl | simp [hp]

@[simp] theorem Work.coreGone_erase {ft : Part → Bool} (hp : ft .sent = true ∧ ft .boot = true ∧ ft .pad = true ∧ ft .flash = true ∧ ft .sched = true ∧ ft .fns = true ∧ ft .rings = true ∧ ft .actives = true ∧ ft .pcieTx = true ∧ ft .ctxs = true ∧ ft .tiles = true ∧ ft .hw = true) (w : Work) :
    (Work.coreGone w).erase ft = w.erase ft := by
  unfold Work.coreGone
  try dsimp only
  repeat' split
  all_goals first | with_reducible rfl | simp [hp]

@[simp] theorem Work.coreStopped_erase {ft : Part → Bool} (hp : ft .sent = true ∧ ft .free = true ∧ ft .boot = true ∧ ft .pad = true ∧ ft .flash = true ∧ ft .sched = true ∧ ft .progs = true ∧ ft .fns = true ∧ ft .rings = true ∧ ft .actives = true ∧ ft .latch = true ∧ ft .pcieTx = true ∧ ft .ctxs = true ∧ ft .tiles = true ∧ ft .hw = true ∧ ft .sw = true) (w : Work) (core cause : Nat) :
    (Work.coreStopped w core cause).erase ft = w.erase ft := by
  unfold Work.coreStopped
  repeat' first
    | with_reducible rfl
    | (extract_lets +onlyGivenNames x; first
        | (refine Work.erase_step (x := x) (w := w) (ft := ft) ?_ (fun hx => ?_); subst x; rotate_left; clear_value x; rotate_right)
        | (have _t : State := x; clear _t; subst x)
        | (have _t : Work → Work := x; clear _t; subst x)
        | (have _t : Nat → Work → Work := x; clear _t; subst x)
        | (have _t : Work → Nat → Work := x; clear _t; subst x)
        | (have _t : Work → (Resident → Resident) → Work := x; clear _t; subst x)
        | clear_value x)
    | (with_reducible refine (Work.erase_each _ _ _ (fun w _ => ?_)).trans ?_)
    | (with_reducible refine (Work.erase_fold2 _ _ _ (fun _ w _ => ?_)).trans ?_)
    | (with_reducible refine (Work.erase_fold3 _ _ _ (fun _ _ w _ => ?_)).trans ?_)
    | (split <;> try (rename_i hq; first
        | (with_reducible refine Work.erase_pair (w := w) (ft := ft) hq ?_ (fun hx => ?_); clear hq; rotate_left; clear hq; rotate_right)
        | (with_reducible refine Work.erase_triple (w := w) (ft := ft) hq ?_ (fun hx => ?_); clear hq; rotate_left; clear hq; rotate_right)
        | clear hq))
  all_goals simp [*]

@[simp] theorem Work.withdraw_erase {ft : Part → Bool} (hp : ft .ctxs = true) (w : Work) (c turn : Nat) :
    (Work.withdraw w c turn).erase ft = w.erase ft := by
  unfold Work.withdraw
  try dsimp only
  repeat' split
  all_goals first | with_reducible rfl | simp [hp]

@[simp] theorem Work.cancelRun_erase {ft : Part → Bool} (hp : ft .sent = true ∧ ft .fns = true ∧ ft .rings = true ∧ ft .actives = true ∧ ft .pcieTx = true ∧ ft .ctxs = true ∧ ft .jobs = true ∧ ft .hw = true) (w : Work) (t : Active) :
    (Work.cancelRun w t).erase ft = w.erase ft := by
  unfold Work.cancelRun
  repeat' first
    | with_reducible rfl
    | (extract_lets +onlyGivenNames x; first
        | (refine Work.erase_step (x := x) (w := w) (ft := ft) ?_ (fun hx => ?_); subst x; rotate_left; clear_value x; rotate_right)
        | (have _t : State := x; clear _t; subst x)
        | (have _t : Work → Work := x; clear _t; subst x)
        | (have _t : Nat → Work → Work := x; clear _t; subst x)
        | (have _t : Work → Nat → Work := x; clear _t; subst x)
        | (have _t : Work → (Resident → Resident) → Work := x; clear _t; subst x)
        | clear_value x)
    | (with_reducible refine (Work.erase_each _ _ _ (fun w _ => ?_)).trans ?_)
    | (with_reducible refine (Work.erase_fold2 _ _ _ (fun _ w _ => ?_)).trans ?_)
    | (with_reducible refine (Work.erase_fold3 _ _ _ (fun _ _ w _ => ?_)).trans ?_)
    | (split <;> try (rename_i hq; first
        | (with_reducible refine Work.erase_pair (w := w) (ft := ft) hq ?_ (fun hx => ?_); clear hq; rotate_left; clear hq; rotate_right)
        | (with_reducible refine Work.erase_triple (w := w) (ft := ft) hq ?_ (fun hx => ?_); clear hq; rotate_left; clear hq; rotate_right)
        | clear hq))
  all_goals simp [*]

@[simp] theorem Work.abortTarget_erase {ft : Part → Bool} (hp : ft .sent = true ∧ ft .free = true ∧ ft .sched = true ∧ ft .progs = true ∧ ft .fns = true ∧ ft .rings = true ∧ ft .actives = true ∧ ft .latch = true ∧ ft .pcieTx = true ∧ ft .ctxs = true ∧ ft .jobs = true ∧ ft .hw = true ∧ ft .sw = true) (w : Work) (t : Active) :
    (Work.abortTarget w t).erase ft = w.erase ft := by
  unfold Work.abortTarget
  try dsimp only
  repeat' split
  all_goals first | with_reducible rfl | simp [hp]

@[simp] theorem Work.countIdle_erase {ft : Part → Bool} (hp : ft .idleNs = true) (w : Work) (c n i k : Nat) :
    (Work.countIdle w c n i k).erase ft = w.erase ft := by
  unfold Work.countIdle
  try dsimp only
  repeat' split
  all_goals first | with_reducible rfl | simp [hp]

@[simp] theorem Work.tallyFault_erase {ft : Part → Bool} (hp : ft .sent = true ∧ ft .pad = true ∧ ft .flash = true ∧ ft .fns = true ∧ ft .ctxs = true ∧ ft .tiles = true ∧ ft .phys = true) (w : Work) (c n kind tally count : Nat) :
    (Work.tallyFault w c n kind tally count).erase ft = w.erase ft := by
  unfold Work.tallyFault
  repeat' first
    | with_reducible rfl
    | (extract_lets +onlyGivenNames x; first
        | (refine Work.erase_step (x := x) (w := w) (ft := ft) ?_ (fun hx => ?_); subst x; rotate_left; clear_value x; rotate_right)
        | (have _t : State := x; clear _t; subst x)
        | (have _t : Work → Work := x; clear _t; subst x)
        | (have _t : Nat → Work → Work := x; clear _t; subst x)
        | (have _t : Work → Nat → Work := x; clear _t; subst x)
        | (have _t : Work → (Resident → Resident) → Work := x; clear _t; subst x)
        | clear_value x)
    | (with_reducible refine (Work.erase_each _ _ _ (fun w _ => ?_)).trans ?_)
    | (with_reducible refine (Work.erase_fold2 _ _ _ (fun _ w _ => ?_)).trans ?_)
    | (with_reducible refine (Work.erase_fold3 _ _ _ (fun _ _ w _ => ?_)).trans ?_)
    | (split <;> try (rename_i hq; first
        | (with_reducible refine Work.erase_pair (w := w) (ft := ft) hq ?_ (fun hx => ?_); clear hq; rotate_left; clear hq; rotate_right)
        | (with_reducible refine Work.erase_triple (w := w) (ft := ft) hq ?_ (fun hx => ?_); clear hq; rotate_left; clear hq; rotate_right)
        | clear hq))
  all_goals simp [*]

@[simp] theorem Work.becomeHead_erase {ft : Part → Bool} (hp : ft .sent = true ∧ ft .pad = true ∧ ft .flash = true ∧ ft .fns = true ∧ ft .ctxs = true ∧ ft .tiles = true ∧ ft .phys = true) (w : Work) (c n : Nat) :
    (Work.becomeHead w c n).erase ft = w.erase ft := by
  unfold Work.becomeHead
  try dsimp only
  repeat' split
  all_goals first | with_reducible rfl | simp [hp]

@[simp] theorem Work.fire_erase {ft : Part → Bool} (hp : ft .ctxs = true ∧ ft .tiles = true ∧ ft .idleNs = true ∧ ft .skel = true) (w : Work) (c n m : Nat) :
    (Work.fire w c n m).erase ft = w.erase ft := by
  unfold Work.fire
  repeat' first
    | with_reducible rfl
    | (extract_lets +onlyGivenNames x; first
        | (refine Work.erase_step (x := x) (w := w) (ft := ft) ?_ (fun hx => ?_); subst x; rotate_left; clear_value x; rotate_right)
        | (have _t : State := x; clear _t; subst x)
        | (have _t : Work → Work := x; clear _t; subst x)
        | (have _t : Nat → Work → Work := x; clear _t; subst x)
        | (have _t : Work → Nat → Work := x; clear _t; subst x)
        | (have _t : Work → (Resident → Resident) → Work := x; clear _t; subst x)
        | clear_value x)
    | (with_reducible refine (Work.erase_each _ _ _ (fun w _ => ?_)).trans ?_)
    | (with_reducible refine (Work.erase_fold2 _ _ _ (fun _ w _ => ?_)).trans ?_)
    | (with_reducible refine (Work.erase_fold3 _ _ _ (fun _ _ w _ => ?_)).trans ?_)
    | (split <;> try (rename_i hq; first
        | (with_reducible refine Work.erase_pair (w := w) (ft := ft) hq ?_ (fun hx => ?_); clear hq; rotate_left; clear hq; rotate_right)
        | (with_reducible refine Work.erase_triple (w := w) (ft := ft) hq ?_ (fun hx => ?_); clear hq; rotate_left; clear hq; rotate_right)
        | clear hq))
  all_goals simp [*]

@[simp] theorem Work.launch_erase {ft : Part → Bool} (hp : ft .sent = true ∧ ft .pad = true ∧ ft .flash = true ∧ ft .sched = true ∧ ft .fns = true ∧ ft .rings = true ∧ ft .actives = true ∧ ft .pcieTx = true ∧ ft .ctxs = true ∧ ft .regions = true ∧ ft .hbm = true ∧ ft .pkgBytes = true ∧ ft .tiles = true ∧ ft .phys = true ∧ ft .arrivals = true ∧ ft .retiring = true ∧ ft .skel = true ∧ ft .mw = true ∧ ft .hw = true) (w : Work) (mv : Mover) (m : Nat) (e : Effect) (u : List Upset) (thief : Option Nat) (before : State) :
    (Work.launch w mv m e u thief before).erase ft = w.erase ft := by
  unfold Work.launch
  repeat' first
    | with_reducible rfl
    | (extract_lets +onlyGivenNames x; first
        | (refine Work.erase_step (x := x) (w := w) (ft := ft) ?_ (fun hx => ?_); subst x; rotate_left; clear_value x; rotate_right)
        | (have _t : State := x; clear _t; subst x)
        | (have _t : Work → Work := x; clear _t; subst x)
        | (have _t : Nat → Work → Work := x; clear _t; subst x)
        | (have _t : Work → Nat → Work := x; clear _t; subst x)
        | (have _t : Work → (Resident → Resident) → Work := x; clear _t; subst x)
        | clear_value x)
    | (with_reducible refine (Work.erase_each _ _ _ (fun w _ => ?_)).trans ?_)
    | (with_reducible refine (Work.erase_fold2 _ _ _ (fun _ w _ => ?_)).trans ?_)
    | (with_reducible refine (Work.erase_fold3 _ _ _ (fun _ _ w _ => ?_)).trans ?_)
    | (split <;> try (rename_i hq; first
        | (with_reducible refine Work.erase_pair (w := w) (ft := ft) hq ?_ (fun hx => ?_); clear hq; rotate_left; clear hq; rotate_right)
        | (with_reducible refine Work.erase_triple (w := w) (ft := ft) hq ?_ (fun hx => ?_); clear hq; rotate_left; clear hq; rotate_right)
        | clear hq))
  all_goals simp [*]

@[simp] theorem Work.issue_erase {ft : Part → Bool} (hp : ft .sent = true ∧ ft .pad = true ∧ ft .flash = true ∧ ft .sched = true ∧ ft .fns = true ∧ ft .rings = true ∧ ft .actives = true ∧ ft .pcieTx = true ∧ ft .ctxs = true ∧ ft .regions = true ∧ ft .hbm = true ∧ ft .pkgBytes = true ∧ ft .tiles = true ∧ ft .phys = true ∧ ft .arrivals = true ∧ ft .retiring = true ∧ ft .idleNs = true ∧ ft .skel = true ∧ ft .mw = true ∧ ft .hw = true ∧ ft .stop = true) (w : Work) (c n : Nat) (u : List Upset) (fits : Nat → Bool) (f : Mover → Nat → Work → Effect × Work) (h_f : ∀ (y0 : Mover) (y1 : Nat) (y2 : Work), (f y0 y1 y2).2.erase ft = Work.erase ft y2) :
    (Work.issue w c n u fits f).erase ft = w.erase ft := by
  unfold Work.issue
  repeat' first
    | with_reducible rfl
    | (extract_lets +onlyGivenNames x; first
        | (refine Work.erase_step (x := x) (w := w) (ft := ft) ?_ (fun hx => ?_); subst x; rotate_left; clear_value x; rotate_right)
        | (have _t : State := x; clear _t; subst x)
        | (have _t : Work → Work := x; clear _t; subst x)
        | (have _t : Nat → Work → Work := x; clear _t; subst x)
        | (have _t : Work → Nat → Work := x; clear _t; subst x)
        | (have _t : Work → (Resident → Resident) → Work := x; clear _t; subst x)
        | clear_value x)
    | (with_reducible refine (Work.erase_each _ _ _ (fun w _ => ?_)).trans ?_)
    | (with_reducible refine (Work.erase_fold2 _ _ _ (fun _ w _ => ?_)).trans ?_)
    | (with_reducible refine (Work.erase_fold3 _ _ _ (fun _ _ w _ => ?_)).trans ?_)
    | (split <;> try (rename_i hq; first
        | (with_reducible refine Work.erase_pair (w := w) (ft := ft) hq ?_ (fun hx => ?_); clear hq; rotate_left; clear hq; rotate_right)
        | (with_reducible refine Work.erase_triple (w := w) (ft := ft) hq ?_ (fun hx => ?_); clear hq; rotate_left; clear hq; rotate_right)
        | clear hq))
  all_goals simp [*]

@[simp] theorem Work.issueClass_erase {ft : Part → Bool} (hp : ft .sent = true ∧ ft .pad = true ∧ ft .flash = true ∧ ft .sched = true ∧ ft .fns = true ∧ ft .rings = true ∧ ft .actives = true ∧ ft .pcieTx = true ∧ ft .ctxs = true ∧ ft .regions = true ∧ ft .hbm = true ∧ ft .pkgBytes = true ∧ ft .tiles = true ∧ ft .phys = true ∧ ft .arrivals = true ∧ ft .retiring = true ∧ ft .idleNs = true ∧ ft .skel = true ∧ ft .mw = true ∧ ft .hw = true ∧ ft .stop = true) (w : Work) (c n cls : Nat) (u : List Upset) (f : Mover → Nat → Work → Effect × Work) (h_f : ∀ (y0 : Mover) (y1 : Nat) (y2 : Work), (f y0 y1 y2).2.erase ft = Work.erase ft y2) :
    (Work.issueClass w c n cls u f).erase ft = w.erase ft := by
  unfold Work.issueClass
  repeat' first
    | with_reducible rfl
    | (extract_lets +onlyGivenNames x; first
        | (refine Work.erase_step (x := x) (w := w) (ft := ft) ?_ (fun hx => ?_); subst x; rotate_left; clear_value x; rotate_right)
        | (have _t : State := x; clear _t; subst x)
        | (have _t : Work → Work := x; clear _t; subst x)
        | (have _t : Nat → Work → Work := x; clear _t; subst x)
        | (have _t : Work → Nat → Work := x; clear _t; subst x)
        | (have _t : Work → (Resident → Resident) → Work := x; clear _t; subst x)
        | clear_value x)
    | (with_reducible refine (Work.erase_each _ _ _ (fun w _ => ?_)).trans ?_)
    | (with_reducible refine (Work.erase_fold2 _ _ _ (fun _ w _ => ?_)).trans ?_)
    | (with_reducible refine (Work.erase_fold3 _ _ _ (fun _ _ w _ => ?_)).trans ?_)
    | (with_reducible refine (Work.issue_erase (by simp [hp, h_f]) _ _ _ _ _ _ (fun _ _ w => ?_)).trans ?_)
    | (split <;> try (rename_i hq; first
        | (with_reducible refine Work.erase_pair (w := w) (ft := ft) hq ?_ (fun hx => ?_); clear hq; rotate_left; clear hq; rotate_right)
        | (with_reducible refine Work.erase_triple (w := w) (ft := ft) hq ?_ (fun hx => ?_); clear hq; rotate_left; clear hq; rotate_right)
        | clear hq))
  all_goals simp [*]

@[simp] theorem Work.judgeEnd_erase {ft : Part → Bool} (hp : ft .sent = true ∧ ft .pad = true ∧ ft .flash = true ∧ ft .fns = true ∧ ft .ctxs = true ∧ ft .tiles = true ∧ ft .phys = true) (w : Work) (c : Nat) :
    (Work.judgeEnd w c).erase ft = w.erase ft := by
  unfold Work.judgeEnd
  try dsimp only
  repeat' split
  all_goals first | with_reducible rfl | simp [hp]

@[simp] theorem Work.countArrival_erase {ft : Part → Bool} (hp : ft .sent = true ∧ ft .pad = true ∧ ft .flash = true ∧ ft .fns = true ∧ ft .ctxs = true ∧ ft .tiles = true ∧ ft .phys = true ∧ ft .skel = true) (w : Work) (c n tally : Nat) :
    (Work.countArrival w c n tally).erase ft = w.erase ft := by
  unfold Work.countArrival
  repeat' first
    | with_reducible rfl
    | (extract_lets +onlyGivenNames x; first
        | (refine Work.erase_step (x := x) (w := w) (ft := ft) ?_ (fun hx => ?_); subst x; rotate_left; clear_value x; rotate_right)
        | (have _t : State := x; clear _t; subst x)
        | (have _t : Work → Work := x; clear _t; subst x)
        | (have _t : Nat → Work → Work := x; clear _t; subst x)
        | (have _t : Work → Nat → Work := x; clear _t; subst x)
        | (have _t : Work → (Resident → Resident) → Work := x; clear _t; subst x)
        | clear_value x)
    | (with_reducible refine (Work.erase_each _ _ _ (fun w _ => ?_)).trans ?_)
    | (with_reducible refine (Work.erase_fold2 _ _ _ (fun _ w _ => ?_)).trans ?_)
    | (with_reducible refine (Work.erase_fold3 _ _ _ (fun _ _ w _ => ?_)).trans ?_)
    | (split <;> try (rename_i hq; first
        | (with_reducible refine Work.erase_pair (w := w) (ft := ft) hq ?_ (fun hx => ?_); clear hq; rotate_left; clear hq; rotate_right)
        | (with_reducible refine Work.erase_triple (w := w) (ft := ft) hq ?_ (fun hx => ?_); clear hq; rotate_left; clear hq; rotate_right)
        | clear hq))
  all_goals simp [*]

@[simp] theorem Work.readReg_erase {ft : Part → Bool} (hp : ft .latch = true) (w : Work) (reader c off : Nat) :
    (Work.readReg w reader c off).2.erase ft = w.erase ft := by
  unfold Work.readReg
  try dsimp only
  repeat' split
  all_goals first | with_reducible rfl | simp [hp]

@[simp] theorem Work.modVariant_erase {ft : Part → Bool} (hp : ft .ctxs = true) (w : Work) (c g : Nat) (f : Variant → Variant) :
    (Work.modVariant w c g f).erase ft = w.erase ft := by
  unfold Work.modVariant
  try dsimp only
  repeat' split
  all_goals first | with_reducible rfl | simp [hp]

@[simp] theorem Work.events_erase {ft : Part → Bool} (hp : ft .ctxs = true ∧ ft .tiles = true) (w : Work) (c n vg : Nat) (e : Ev) :
    (Work.events w c n vg e).erase ft = w.erase ft := by
  unfold Work.events
  try dsimp only
  repeat' split
  all_goals first | with_reducible rfl | simp [hp]

@[simp] theorem Work.touch_erase {ft : Part → Bool} (hp : ft .sent = true ∧ ft .ctxs = true ∧ ft .hbm = true ∧ ft .pkgBytes = true ∧ ft .phys = true) (w : Work) (m : Mover) (v : View) (rows cols : Nat) (present : Nat → Nat → Bool) :
    (Work.touch w m v rows cols present).erase ft = w.erase ft := by
  unfold Work.touch
  repeat' first
    | with_reducible rfl
    | (extract_lets +onlyGivenNames x; first
        | (refine Work.erase_step (x := x) (w := w) (ft := ft) ?_ (fun hx => ?_); subst x; rotate_left; clear_value x; rotate_right)
        | (have _t : State := x; clear _t; subst x)
        | (have _t : Work → Work := x; clear _t; subst x)
        | (have _t : Nat → Work → Work := x; clear _t; subst x)
        | (have _t : Work → Nat → Work := x; clear _t; subst x)
        | (have _t : Work → (Resident → Resident) → Work := x; clear _t; subst x)
        | clear_value x)
    | (with_reducible refine (Work.erase_each _ _ _ (fun w _ => ?_)).trans ?_)
    | (with_reducible refine (Work.erase_fold2 _ _ _ (fun _ w _ => ?_)).trans ?_)
    | (with_reducible refine (Work.erase_fold3 _ _ _ (fun _ _ w _ => ?_)).trans ?_)
    | (split <;> try (rename_i hq; first
        | (with_reducible refine Work.erase_pair (w := w) (ft := ft) hq ?_ (fun hx => ?_); clear hq; rotate_left; clear hq; rotate_right)
        | (with_reducible refine Work.erase_triple (w := w) (ft := ft) hq ?_ (fun hx => ?_); clear hq; rotate_left; clear hq; rotate_right)
        | clear hq))
  all_goals simp [*]

@[simp] theorem Work.clearPad_erase {ft : Part → Bool} (hp : ft .sent = true ∧ ft .pad = true ∧ ft .flash = true ∧ ft .mgt = true ∧ ft .fns = true) (w : Work) (requester : Nat) (auth : List Byte) (seq : Nat) :
    (Work.clearPad w requester auth seq).2.erase ft = w.erase ft := by
  unfold Work.clearPad
  repeat' first
    | with_reducible rfl
    | (extract_lets +onlyGivenNames x; first
        | (refine Work.erase_step (x := x) (w := w) (ft := ft) ?_ (fun hx => ?_); subst x; rotate_left; clear_value x; rotate_right)
        | (have _t : State := x; clear _t; subst x)
        | (have _t : Work → Work := x; clear _t; subst x)
        | (have _t : Nat → Work → Work := x; clear _t; subst x)
        | (have _t : Work → Nat → Work := x; clear _t; subst x)
        | (have _t : Work → (Resident → Resident) → Work := x; clear _t; subst x)
        | clear_value x)
    | (with_reducible refine (Work.erase_each _ _ _ (fun w _ => ?_)).trans ?_)
    | (with_reducible refine (Work.erase_fold2 _ _ _ (fun _ w _ => ?_)).trans ?_)
    | (with_reducible refine (Work.erase_fold3 _ _ _ (fun _ _ w _ => ?_)).trans ?_)
    | (split <;> try (rename_i hq; first
        | (with_reducible refine Work.erase_pair (w := w) (ft := ft) hq ?_ (fun hx => ?_); clear hq; rotate_left; clear hq; rotate_right)
        | (with_reducible refine Work.erase_triple (w := w) (ft := ft) hq ?_ (fun hx => ?_); clear hq; rotate_left; clear hq; rotate_right)
        | clear hq))
  all_goals simp [*]

@[simp] theorem Work.writeTrace_erase {ft : Part → Bool} (hp : ft .sent = true ∧ ft .pad = true ∧ ft .flash = true ∧ ft .sched = true ∧ ft .fns = true ∧ ft .rings = true ∧ ft .actives = true ∧ ft .pcieTx = true ∧ ft .ctxs = true ∧ ft .regions = true ∧ ft .hbm = true ∧ ft .pkgBytes = true ∧ ft .tiles = true ∧ ft .phys = true ∧ ft .requests = true ∧ ft .nextTag = true ∧ ft .mw = true ∧ ft .hw = true) (w : Work) (c n : Nat) (d : TraceDesc) (e : List Byte) :
    (Work.writeTrace w c n d e).erase ft = w.erase ft := by
  unfold Work.writeTrace
  repeat' first
    | with_reducible rfl
    | (extract_lets +onlyGivenNames x; first
        | (refine Work.erase_step (x := x) (w := w) (ft := ft) ?_ (fun hx => ?_); subst x; rotate_left; clear_value x; rotate_right)
        | (have _t : State := x; clear _t; subst x)
        | (have _t : Work → Work := x; clear _t; subst x)
        | (have _t : Nat → Work → Work := x; clear _t; subst x)
        | (have _t : Work → Nat → Work := x; clear _t; subst x)
        | (have _t : Work → (Resident → Resident) → Work := x; clear _t; subst x)
        | clear_value x)
    | (with_reducible refine (Work.erase_each _ _ _ (fun w _ => ?_)).trans ?_)
    | (with_reducible refine (Work.erase_fold2 _ _ _ (fun _ w _ => ?_)).trans ?_)
    | (with_reducible refine (Work.erase_fold3 _ _ _ (fun _ _ w _ => ?_)).trans ?_)
    | (split <;> try (rename_i hq; first
        | (with_reducible refine Work.erase_pair (w := w) (ft := ft) hq ?_ (fun hx => ?_); clear hq; rotate_left; clear hq; rotate_right)
        | (with_reducible refine Work.erase_triple (w := w) (ft := ft) hq ?_ (fun hx => ?_); clear hq; rotate_left; clear hq; rotate_right)
        | clear hq))
  all_goals simp [*]

@[simp] theorem Work.writePart_erase {ft : Part → Bool} (hp : ft .sent = true ∧ ft .pad = true ∧ ft .flash = true ∧ ft .sched = true ∧ ft .fns = true ∧ ft .rings = true ∧ ft .actives = true ∧ ft .pcieTx = true ∧ ft .ctxs = true ∧ ft .regions = true ∧ ft .hbm = true ∧ ft .pkgBytes = true ∧ ft .tiles = true ∧ ft .phys = true ∧ ft .requests = true ∧ ft .nextTag = true ∧ ft .mw = true ∧ ft .hw = true) (w : Work) (c n : Nat) (d : TraceDesc) :
    (Work.writePart w c n d).erase ft = w.erase ft := by
  unfold Work.writePart
  repeat' first
    | with_reducible rfl
    | (extract_lets +onlyGivenNames x; first
        | (refine Work.erase_step (x := x) (w := w) (ft := ft) ?_ (fun hx => ?_); subst x; rotate_left; clear_value x; rotate_right)
        | (have _t : State := x; clear _t; subst x)
        | (have _t : Work → Work := x; clear _t; subst x)
        | (have _t : Nat → Work → Work := x; clear _t; subst x)
        | (have _t : Work → Nat → Work := x; clear _t; subst x)
        | (have _t : Work → (Resident → Resident) → Work := x; clear _t; subst x)
        | clear_value x)
    | (with_reducible refine (Work.erase_each _ _ _ (fun w _ => ?_)).trans ?_)
    | (with_reducible refine (Work.erase_fold2 _ _ _ (fun _ w _ => ?_)).trans ?_)
    | (with_reducible refine (Work.erase_fold3 _ _ _ (fun _ _ w _ => ?_)).trans ?_)
    | (split <;> try (rename_i hq; first
        | (with_reducible refine Work.erase_pair (w := w) (ft := ft) hq ?_ (fun hx => ?_); clear hq; rotate_left; clear hq; rotate_right)
        | (with_reducible refine Work.erase_triple (w := w) (ft := ft) hq ?_ (fun hx => ?_); clear hq; rotate_left; clear hq; rotate_right)
        | clear hq))
  all_goals simp [*]

@[simp] theorem Work.timeSet_erase {ft : Part → Bool} (hp : ft .sent = true ∧ ft .time = true ∧ ft .fns = true ∧ ft .rings = true ∧ ft .actives = true ∧ ft .pcieTx = true ∧ ft .hw = true) (w : Work) (a : Active) (value : Nat) :
    (Work.timeSet w a value).erase ft = w.erase ft := by
  unfold Work.timeSet
  try dsimp only
  repeat' split
  all_goals first | with_reducible rfl | simp [hp]

@[simp] theorem Work.mgtCounted_erase {ft : Part → Bool} (hp : ft .mgt = true) (w : Work) (f : Work → Work) (h_f : ∀ (y0 : Work), (f y0).erase ft = Work.erase ft y0) :
    (Work.mgtCounted w f).erase ft = w.erase ft := by
  unfold Work.mgtCounted
  try dsimp only
  repeat' split
  all_goals first | with_reducible rfl | simp [hp, h_f]

@[simp] theorem Work.mgtRequest_erase {ft : Part → Bool} (hp : ft .mgt = true) (w : Work) (f : Work → Work) (h_f : ∀ (y0 : Work), (f y0).erase ft = Work.erase ft y0) :
    (Work.mgtRequest w f).erase ft = w.erase ft := by
  unfold Work.mgtRequest
  repeat' first
    | with_reducible rfl
    | (extract_lets +onlyGivenNames x; first
        | (refine Work.erase_step (x := x) (w := w) (ft := ft) ?_ (fun hx => ?_); subst x; rotate_left; clear_value x; rotate_right)
        | (have _t : State := x; clear _t; subst x)
        | (have _t : Work → Work := x; clear _t; subst x)
        | (have _t : Nat → Work → Work := x; clear _t; subst x)
        | (have _t : Work → Nat → Work := x; clear _t; subst x)
        | (have _t : Work → (Resident → Resident) → Work := x; clear _t; subst x)
        | clear_value x)
    | (with_reducible refine (Work.erase_each _ _ _ (fun w _ => ?_)).trans ?_)
    | (with_reducible refine (Work.erase_fold2 _ _ _ (fun _ w _ => ?_)).trans ?_)
    | (with_reducible refine (Work.erase_fold3 _ _ _ (fun _ _ w _ => ?_)).trans ?_)
    | (with_reducible refine (Work.mgtCounted_erase (by simp [hp, h_f]) _ _ (fun w => ?_)).trans ?_)
    | (split <;> try (rename_i hq; first
        | (with_reducible refine Work.erase_pair (w := w) (ft := ft) hq ?_ (fun hx => ?_); clear hq; rotate_left; clear hq; rotate_right)
        | (with_reducible refine Work.erase_triple (w := w) (ft := ft) hq ?_ (fun hx => ?_); clear hq; rotate_left; clear hq; rotate_right)
        | clear hq))
  all_goals simp [*]

@[simp] theorem Work.mgtBasic_erase {ft : Part → Bool} (hp : ft .mgt = true) (w : Work) (f : Work → Work) (h_f : ∀ (y0 : Work), (f y0).erase ft = Work.erase ft y0) :
    (Work.mgtBasic w f).erase ft = w.erase ft := by
  unfold Work.mgtBasic
  repeat' first
    | with_reducible rfl
    | (extract_lets +onlyGivenNames x; first
        | (refine Work.erase_step (x := x) (w := w) (ft := ft) ?_ (fun hx => ?_); subst x; rotate_left; clear_value x; rotate_right)
        | (have _t : State := x; clear _t; subst x)
        | (have _t : Work → Work := x; clear _t; subst x)
        | (have _t : Nat → Work → Work := x; clear _t; subst x)
        | (have _t : Work → Nat → Work := x; clear _t; subst x)
        | (have _t : Work → (Resident → Resident) → Work := x; clear _t; subst x)
        | clear_value x)
    | (with_reducible refine (Work.erase_each _ _ _ (fun w _ => ?_)).trans ?_)
    | (with_reducible refine (Work.erase_fold2 _ _ _ (fun _ w _ => ?_)).trans ?_)
    | (with_reducible refine (Work.erase_fold3 _ _ _ (fun _ _ w _ => ?_)).trans ?_)
    | (with_reducible refine (Work.mgtCounted_erase (by simp [hp, h_f]) _ _ (fun w => ?_)).trans ?_)
    | (split <;> try (rename_i hq; first
        | (with_reducible refine Work.erase_pair (w := w) (ft := ft) hq ?_ (fun hx => ?_); clear hq; rotate_left; clear hq; rotate_right)
        | (with_reducible refine Work.erase_triple (w := w) (ft := ft) hq ?_ (fun hx => ?_); clear hq; rotate_left; clear hq; rotate_right)
        | clear hq))
  all_goals simp [*]

@[simp] theorem Work.mgtAuthorized_erase {ft : Part → Bool} (hp : ft .sent = true ∧ ft .pad = true ∧ ft .flash = true ∧ ft .mgt = true ∧ ft .fns = true) (w : Work) (m : MgtHdr) (type : Nat) (f : Work → Work) (h_f : ∀ (y0 : Work), (f y0).erase ft = Work.erase ft y0) :
    (Work.mgtAuthorized w m type f).erase ft = w.erase ft := by
  unfold Work.mgtAuthorized
  repeat' first
    | with_reducible rfl
    | (extract_lets +onlyGivenNames x; first
        | (refine Work.erase_step (x := x) (w := w) (ft := ft) ?_ (fun hx => ?_); subst x; rotate_left; clear_value x; rotate_right)
        | (have _t : State := x; clear _t; subst x)
        | (have _t : Work → Work := x; clear _t; subst x)
        | (have _t : Nat → Work → Work := x; clear _t; subst x)
        | (have _t : Work → Nat → Work := x; clear _t; subst x)
        | (have _t : Work → (Resident → Resident) → Work := x; clear _t; subst x)
        | clear_value x)
    | (with_reducible refine (Work.erase_each _ _ _ (fun w _ => ?_)).trans ?_)
    | (with_reducible refine (Work.erase_fold2 _ _ _ (fun _ w _ => ?_)).trans ?_)
    | (with_reducible refine (Work.erase_fold3 _ _ _ (fun _ _ w _ => ?_)).trans ?_)
    | (with_reducible refine (Work.mgtRequest_erase (by simp [hp, h_f]) _ _ (fun w => ?_)).trans ?_)
    | (split <;> try (rename_i hq; first
        | (with_reducible refine Work.erase_pair (w := w) (ft := ft) hq ?_ (fun hx => ?_); clear hq; rotate_left; clear hq; rotate_right)
        | (with_reducible refine Work.erase_triple (w := w) (ft := ft) hq ?_ (fun hx => ?_); clear hq; rotate_left; clear hq; rotate_right)
        | clear hq))
  all_goals simp [*]

@[simp] theorem Work.readRegs_erase {ft : Part → Bool} (hp : ft .latch = true) (w : Work) (off : Nat) (x0 : Nat) :
    (Work.readRegs w off x0).2.erase ft = w.erase ft := by
  induction x0 generalizing w
  all_goals unfold Work.readRegs
  all_goals try dsimp only
  all_goals repeat' split
  all_goals first | with_reducible rfl | simp [*]

@[simp] theorem Work.installKey_erase {ft : Part → Bool} (hp : ft .sent = true ∧ ft .pad = true ∧ ft .flash = true ∧ ft .fns = true) (w : Work) (m : MgtHdr) (key : Nat) (value : List Byte) :
    (Work.installKey w m key value).erase ft = w.erase ft := by
  unfold Work.installKey
  try dsimp only
  repeat' split
  all_goals first | with_reducible rfl | simp [hp]

@[simp] theorem Work.putRows_erase {ft : Part → Bool} (hp : ft .hbm = true ∧ ft .pkgBytes = true ∧ ft .phys = true ∧ ft .mw = true) (w : Work) (n at_ pitch : Nat) (rows : List (List Byte)) (poison : Bool) :
    (Work.putRows w n at_ pitch rows poison).erase ft = w.erase ft := by
  unfold Work.putRows
  try dsimp only
  repeat' split
  all_goals first | with_reducible rfl | simp [hp]

@[simp] theorem Work.mmaWrite_erase {ft : Part → Bool} (hp : ft .sent = true ∧ ft .hbm = true ∧ ft .pkgBytes = true ∧ ft .phys = true ∧ ft .mw = true ∧ ft .stop = true) (w : Work) (mv : Mover) (m : Nat) (x : Mma) (t : QTensor) :
    (Work.mmaWrite w mv m x t).2.erase ft = w.erase ft := by
  unfold Work.mmaWrite
  repeat' first
    | with_reducible rfl
    | (extract_lets +onlyGivenNames x; first
        | (refine Work.erase_step (x := x) (w := w) (ft := ft) ?_ (fun hx => ?_); subst x; rotate_left; clear_value x; rotate_right)
        | (have _t : State := x; clear _t; subst x)
        | (have _t : Work → Work := x; clear _t; subst x)
        | (have _t : Nat → Work → Work := x; clear _t; subst x)
        | (have _t : Work → Nat → Work := x; clear _t; subst x)
        | (have _t : Work → (Resident → Resident) → Work := x; clear _t; subst x)
        | clear_value x)
    | (with_reducible refine (Work.erase_each _ _ _ (fun w _ => ?_)).trans ?_)
    | (with_reducible refine (Work.erase_fold2 _ _ _ (fun _ w _ => ?_)).trans ?_)
    | (with_reducible refine (Work.erase_fold3 _ _ _ (fun _ _ w _ => ?_)).trans ?_)
    | (with_reducible refine (Work.output_erase (by simp [hp]) _ _ _ _ _ _ (fun w => ?_)).trans ?_)
    | (split <;> try (rename_i hq; first
        | (with_reducible refine Work.erase_pair (w := w) (ft := ft) hq ?_ (fun hx => ?_); clear hq; rotate_left; clear hq; rotate_right)
        | (with_reducible refine Work.erase_triple (w := w) (ft := ft) hq ?_ (fun hx => ?_); clear hq; rotate_left; clear hq; rotate_right)
        | clear hq))
  all_goals simp [*]

@[simp] theorem Work.mmaEffect_erase {ft : Part → Bool} (hp : ft .sent = true ∧ ft .ctxs = true ∧ ft .hbm = true ∧ ft .pkgBytes = true ∧ ft .tiles = true ∧ ft .phys = true ∧ ft .mw = true ∧ ft .stop = true) (mv : Mover) (m : Nat) (w : Work) :
    (mmaEffect mv m w).2.erase ft = w.erase ft := by
  unfold mmaEffect
  repeat' first
    | with_reducible rfl
    | (extract_lets +onlyGivenNames x; first
        | (refine Work.erase_step (x := x) (w := w) (ft := ft) ?_ (fun hx => ?_); subst x; rotate_left; clear_value x; rotate_right)
        | (have _t : State := x; clear _t; subst x)
        | (have _t : Work → Work := x; clear _t; subst x)
        | (have _t : Nat → Work → Work := x; clear _t; subst x)
        | (have _t : Work → Nat → Work := x; clear _t; subst x)
        | (have _t : Work → (Resident → Resident) → Work := x; clear _t; subst x)
        | clear_value x)
    | (with_reducible refine (Work.erase_each _ _ _ (fun w _ => ?_)).trans ?_)
    | (with_reducible refine (Work.erase_fold2 _ _ _ (fun _ w _ => ?_)).trans ?_)
    | (with_reducible refine (Work.erase_fold3 _ _ _ (fun _ _ w _ => ?_)).trans ?_)
    | (split <;> try (rename_i hq; first
        | (with_reducible refine Work.erase_pair (w := w) (ft := ft) hq ?_ (fun hx => ?_); clear hq; rotate_left; clear hq; rotate_right)
        | (with_reducible refine Work.erase_triple (w := w) (ft := ft) hq ?_ (fun hx => ?_); clear hq; rotate_left; clear hq; rotate_right)
        | clear hq))
  all_goals simp [*]

@[simp] theorem Work.vecPart_erase {ft : Part → Bool} (hp : ft .sent = true ∧ ft .ctxs = true ∧ ft .hbm = true ∧ ft .pkgBytes = true ∧ ft .phys = true ∧ ft .stop = true) (w : Work) (mv : Mover) (addr : Nat) (desc : Nat) (count : Nat) (rowLen : Nat) (k : Nat) (n : Nat) :
    (Work.vecPart w mv addr desc count rowLen k n).2.erase ft = w.erase ft := by
  unfold Work.vecPart
  repeat' first
    | with_reducible rfl
    | (extract_lets +onlyGivenNames x; first
        | (refine Work.erase_step (x := x) (w := w) (ft := ft) ?_ (fun hx => ?_); subst x; rotate_left; clear_value x; rotate_right)
        | (have _t : State := x; clear _t; subst x)
        | (have _t : Work → Work := x; clear _t; subst x)
        | (have _t : Nat → Work → Work := x; clear _t; subst x)
        | (have _t : Work → Nat → Work := x; clear _t; subst x)
        | (have _t : Work → (Resident → Resident) → Work := x; clear _t; subst x)
        | clear_value x)
    | (with_reducible refine (Work.erase_each _ _ _ (fun w _ => ?_)).trans ?_)
    | (with_reducible refine (Work.erase_fold2 _ _ _ (fun _ w _ => ?_)).trans ?_)
    | (with_reducible refine (Work.erase_fold3 _ _ _ (fun _ _ w _ => ?_)).trans ?_)
    | (split <;> try (rename_i hq; first
        | (with_reducible refine Work.erase_pair (w := w) (ft := ft) hq ?_ (fun hx => ?_); clear hq; rotate_left; clear hq; rotate_right)
        | (with_reducible refine Work.erase_triple (w := w) (ft := ft) hq ?_ (fun hx => ?_); clear hq; rotate_left; clear hq; rotate_right)
        | clear hq))
  all_goals simp [*]

@[simp] theorem Work.vecSrc_erase {ft : Part → Bool} (hp : ft .sent = true ∧ ft .ctxs = true ∧ ft .hbm = true ∧ ft .pkgBytes = true ∧ ft .phys = true ∧ ft .stop = true) (w : Work) (mv : Mover) (addr desc count rowLen : Nat) :
    (Work.vecSrc w mv addr desc count rowLen).2.erase ft = w.erase ft := by
  unfold Work.vecSrc
  repeat' first
    | with_reducible rfl
    | (extract_lets +onlyGivenNames x; first
        | (refine Work.erase_step (x := x) (w := w) (ft := ft) ?_ (fun hx => ?_); subst x; rotate_left; clear_value x; rotate_right)
        | (have _t : State := x; clear _t; subst x)
        | (have _t : Work → Work := x; clear _t; subst x)
        | (have _t : Nat → Work → Work := x; clear _t; subst x)
        | (have _t : Work → Nat → Work := x; clear _t; subst x)
        | (have _t : Work → (Resident → Resident) → Work := x; clear _t; subst x)
        | clear_value x)
    | (with_reducible refine (Work.erase_each _ _ _ (fun w _ => ?_)).trans ?_)
    | (with_reducible refine (Work.erase_fold2 _ _ _ (fun _ w _ => ?_)).trans ?_)
    | (with_reducible refine (Work.erase_fold3 _ _ _ (fun _ _ w _ => ?_)).trans ?_)
    | (split <;> try (rename_i hq; first
        | (with_reducible refine Work.erase_pair (w := w) (ft := ft) hq ?_ (fun hx => ?_); clear hq; rotate_left; clear hq; rotate_right)
        | (with_reducible refine Work.erase_triple (w := w) (ft := ft) hq ?_ (fun hx => ?_); clear hq; rotate_left; clear hq; rotate_right)
        | clear hq))
  all_goals simp [*]

@[simp] theorem Work.pairSrc_erase {ft : Part → Bool} (hp : ft .sent = true ∧ ft .ctxs = true ∧ ft .hbm = true ∧ ft .pkgBytes = true ∧ ft .phys = true ∧ ft .stop = true) (w : Work) (mv : Mover) (addr count : Nat) :
    (Work.pairSrc w mv addr count).2.erase ft = w.erase ft := by
  unfold Work.pairSrc
  try dsimp only
  repeat' split
  all_goals first | with_reducible rfl | simp [hp]

@[simp] theorem Work.vecPut_erase {ft : Part → Bool} (hp : ft .sent = true ∧ ft .hbm = true ∧ ft .pkgBytes = true ∧ ft .phys = true ∧ ft .mw = true ∧ ft .stop = true) (w : Work) (mv : Mover) (m dst : Nat) (main side : List Byte) :
    (Work.vecPut w mv m dst main side).2.erase ft = w.erase ft := by
  unfold Work.vecPut
  repeat' first
    | with_reducible rfl
    | (extract_lets +onlyGivenNames x; first
        | (refine Work.erase_step (x := x) (w := w) (ft := ft) ?_ (fun hx => ?_); subst x; rotate_left; clear_value x; rotate_right)
        | (have _t : State := x; clear _t; subst x)
        | (have _t : Work → Work := x; clear _t; subst x)
        | (have _t : Nat → Work → Work := x; clear _t; subst x)
        | (have _t : Work → Nat → Work := x; clear _t; subst x)
        | (have _t : Work → (Resident → Resident) → Work := x; clear _t; subst x)
        | clear_value x)
    | (with_reducible refine (Work.erase_each _ _ _ (fun w _ => ?_)).trans ?_)
    | (with_reducible refine (Work.erase_fold2 _ _ _ (fun _ w _ => ?_)).trans ?_)
    | (with_reducible refine (Work.erase_fold3 _ _ _ (fun _ _ w _ => ?_)).trans ?_)
    | (with_reducible refine (Work.output_erase (by simp [hp]) _ _ _ _ _ _ (fun w => ?_)).trans ?_)
    | (split <;> try (rename_i hq; first
        | (with_reducible refine Work.erase_pair (w := w) (ft := ft) hq ?_ (fun hx => ?_); clear hq; rotate_left; clear hq; rotate_right)
        | (with_reducible refine Work.erase_triple (w := w) (ft := ft) hq ?_ (fun hx => ?_); clear hq; rotate_left; clear hq; rotate_right)
        | clear hq))
  all_goals simp [*]

@[simp] theorem Work.vecWrite_erase {ft : Part → Bool} (hp : ft .sent = true ∧ ft .ctxs = true ∧ ft .hbm = true ∧ ft .pkgBytes = true ∧ ft .tiles = true ∧ ft .phys = true ∧ ft .mw = true ∧ ft .stop = true) (w : Work) (mv : Mover) (m : Nat) (x : Vec) (ys : List Nat) (e : Ev) :
    (Work.vecWrite w mv m x ys e).2.erase ft = w.erase ft := by
  unfold Work.vecWrite
  repeat' first
    | with_reducible rfl
    | (extract_lets +onlyGivenNames x; first
        | (refine Work.erase_step (x := x) (w := w) (ft := ft) ?_ (fun hx => ?_); subst x; rotate_left; clear_value x; rotate_right)
        | (have _t : State := x; clear _t; subst x)
        | (have _t : Work → Work := x; clear _t; subst x)
        | (have _t : Nat → Work → Work := x; clear _t; subst x)
        | (have _t : Work → Nat → Work := x; clear _t; subst x)
        | (have _t : Work → (Resident → Resident) → Work := x; clear _t; subst x)
        | clear_value x)
    | (with_reducible refine (Work.erase_each _ _ _ (fun w _ => ?_)).trans ?_)
    | (with_reducible refine (Work.erase_fold2 _ _ _ (fun _ w _ => ?_)).trans ?_)
    | (with_reducible refine (Work.erase_fold3 _ _ _ (fun _ _ w _ => ?_)).trans ?_)
    | (split <;> try (rename_i hq; first
        | (with_reducible refine Work.erase_pair (w := w) (ft := ft) hq ?_ (fun hx => ?_); clear hq; rotate_left; clear hq; rotate_right)
        | (with_reducible refine Work.erase_triple (w := w) (ft := ft) hq ?_ (fun hx => ?_); clear hq; rotate_left; clear hq; rotate_right)
        | clear hq))
  all_goals simp [*]

@[simp] theorem Work.vecInts_erase {ft : Part → Bool} (hp : ft .sent = true ∧ ft .ctxs = true ∧ ft .hbm = true ∧ ft .pkgBytes = true ∧ ft .tiles = true ∧ ft .phys = true ∧ ft .mw = true ∧ ft .stop = true) (w : Work) (mv : Mover) (m : Nat) (x : Vec) (is : List Int) (e : Ev) :
    (Work.vecInts w mv m x is e).2.erase ft = w.erase ft := by
  unfold Work.vecInts
  try dsimp only
  repeat' split
  all_goals first | with_reducible rfl | simp [hp]

@[simp] theorem Work.vecEffect_erase {ft : Part → Bool} (hp : ft .sent = true ∧ ft .ctxs = true ∧ ft .hbm = true ∧ ft .pkgBytes = true ∧ ft .phys = true ∧ ft .stop = true) (mv : Mover) (m : Nat) (w : Work) (f : Vec → Work → List Nat × Work) (elems : Vec → Work → Nat) (h_f : ∀ (y0 : Vec) (y1 : Work), (f y0 y1).2.erase ft = Work.erase ft y1) :
    (vecEffect mv m w f elems).2.erase ft = w.erase ft := by
  unfold vecEffect
  repeat' first
    | with_reducible rfl
    | (extract_lets +onlyGivenNames x; first
        | (refine Work.erase_step (x := x) (w := w) (ft := ft) ?_ (fun hx => ?_); subst x; rotate_left; clear_value x; rotate_right)
        | (have _t : State := x; clear _t; subst x)
        | (have _t : Work → Work := x; clear _t; subst x)
        | (have _t : Nat → Work → Work := x; clear _t; subst x)
        | (have _t : Work → Nat → Work := x; clear _t; subst x)
        | (have _t : Work → (Resident → Resident) → Work := x; clear _t; subst x)
        | clear_value x)
    | (with_reducible refine (Work.erase_each _ _ _ (fun w _ => ?_)).trans ?_)
    | (with_reducible refine (Work.erase_fold2 _ _ _ (fun _ w _ => ?_)).trans ?_)
    | (with_reducible refine (Work.erase_fold3 _ _ _ (fun _ _ w _ => ?_)).trans ?_)
    | (split <;> try (rename_i hq; first
        | (with_reducible refine Work.erase_pair (w := w) (ft := ft) hq ?_ (fun hx => ?_); clear hq; rotate_left; clear hq; rotate_right)
        | (with_reducible refine Work.erase_triple (w := w) (ft := ft) hq ?_ (fun hx => ?_); clear hq; rotate_left; clear hq; rotate_right)
        | clear hq))
  all_goals simp [*]

@[simp] theorem Work.vecEwEffect_erase {ft : Part → Bool} (hp : ft .sent = true ∧ ft .ctxs = true ∧ ft .hbm = true ∧ ft .pkgBytes = true ∧ ft .tiles = true ∧ ft .phys = true ∧ ft .mw = true ∧ ft .stop = true) (mv : Mover) (m : Nat) (w : Work) :
    (vecEwEffect mv m w).2.erase ft = w.erase ft := by
  unfold vecEwEffect
  repeat' first
    | with_reducible rfl
    | (extract_lets +onlyGivenNames x; first
        | (refine Work.erase_step (x := x) (w := w) (ft := ft) ?_ (fun hx => ?_); subst x; rotate_left; clear_value x; rotate_right)
        | (have _t : State := x; clear _t; subst x)
        | (have _t : Work → Work := x; clear _t; subst x)
        | (have _t : Nat → Work → Work := x; clear _t; subst x)
        | (have _t : Work → Nat → Work := x; clear _t; subst x)
        | (have _t : Work → (Resident → Resident) → Work := x; clear _t; subst x)
        | clear_value x)
    | (with_reducible refine (Work.erase_each _ _ _ (fun w _ => ?_)).trans ?_)
    | (with_reducible refine (Work.erase_fold2 _ _ _ (fun _ w _ => ?_)).trans ?_)
    | (with_reducible refine (Work.erase_fold3 _ _ _ (fun _ _ w _ => ?_)).trans ?_)
    | (with_reducible refine (Work.vecEffect_erase (by simp [hp]) _ _ _ _ _ (fun _ w => ?_)).trans ?_)
    | (split <;> try (rename_i hq; first
        | (with_reducible refine Work.erase_pair (w := w) (ft := ft) hq ?_ (fun hx => ?_); clear hq; rotate_left; clear hq; rotate_right)
        | (with_reducible refine Work.erase_triple (w := w) (ft := ft) hq ?_ (fun hx => ?_); clear hq; rotate_left; clear hq; rotate_right)
        | clear hq))
  all_goals simp [*]

@[simp] theorem Work.vecFunction_erase {ft : Part → Bool} (hp : ft .sent = true ∧ ft .ctxs = true ∧ ft .hbm = true ∧ ft .pkgBytes = true ∧ ft .tiles = true ∧ ft .phys = true ∧ ft .mw = true ∧ ft .stop = true) (mv : Mover) (m : Nat) (x : Vec) (w : Work) :
    (vecFunction mv m x w).2.erase ft = w.erase ft := by
  unfold vecFunction
  repeat' first
    | with_reducible rfl
    | (extract_lets +onlyGivenNames x; first
        | (refine Work.erase_step (x := x) (w := w) (ft := ft) ?_ (fun hx => ?_); subst x; rotate_left; clear_value x; rotate_right)
        | (have _t : State := x; clear _t; subst x)
        | (have _t : Work → Work := x; clear _t; subst x)
        | (have _t : Nat → Work → Work := x; clear _t; subst x)
        | (have _t : Work → Nat → Work := x; clear _t; subst x)
        | (have _t : Work → (Resident → Resident) → Work := x; clear _t; subst x)
        | clear_value x)
    | (with_reducible refine (Work.erase_each _ _ _ (fun w _ => ?_)).trans ?_)
    | (with_reducible refine (Work.erase_fold2 _ _ _ (fun _ w _ => ?_)).trans ?_)
    | (with_reducible refine (Work.erase_fold3 _ _ _ (fun _ _ w _ => ?_)).trans ?_)
    | (split <;> try (rename_i hq; first
        | (with_reducible refine Work.erase_pair (w := w) (ft := ft) hq ?_ (fun hx => ?_); clear hq; rotate_left; clear hq; rotate_right)
        | (with_reducible refine Work.erase_triple (w := w) (ft := ft) hq ?_ (fun hx => ?_); clear hq; rotate_left; clear hq; rotate_right)
        | clear hq))
  all_goals simp [*]

@[simp] theorem Work.vecBernoulli_erase {ft : Part → Bool} (hp : ft .sent = true ∧ ft .hbm = true ∧ ft .pkgBytes = true ∧ ft .phys = true ∧ ft .mw = true ∧ ft .stop = true) (mv : Mover) (m : Nat) (x : Vec) (w : Work) :
    (vecBernoulli mv m x w).2.erase ft = w.erase ft := by
  unfold vecBernoulli
  try dsimp only
  repeat' split
  all_goals first | with_reducible rfl | simp [hp]

@[simp] theorem Work.vecRelpos_erase {ft : Part → Bool} (hp : ft .sent = true ∧ ft .ctxs = true ∧ ft .hbm = true ∧ ft .pkgBytes = true ∧ ft .tiles = true ∧ ft .phys = true ∧ ft .mw = true ∧ ft .stop = true) (mv : Mover) (m : Nat) (x : Vec) (w : Work) :
    (vecRelpos mv m x w).2.erase ft = w.erase ft := by
  unfold vecRelpos
  repeat' first
    | with_reducible rfl
    | (extract_lets +onlyGivenNames x; first
        | (refine Work.erase_step (x := x) (w := w) (ft := ft) ?_ (fun hx => ?_); subst x; rotate_left; clear_value x; rotate_right)
        | (have _t : State := x; clear _t; subst x)
        | (have _t : Work → Work := x; clear _t; subst x)
        | (have _t : Nat → Work → Work := x; clear _t; subst x)
        | (have _t : Work → Nat → Work := x; clear _t; subst x)
        | (have _t : Work → (Resident → Resident) → Work := x; clear _t; subst x)
        | clear_value x)
    | (with_reducible refine (Work.erase_each _ _ _ (fun w _ => ?_)).trans ?_)
    | (with_reducible refine (Work.erase_fold2 _ _ _ (fun _ w _ => ?_)).trans ?_)
    | (with_reducible refine (Work.erase_fold3 _ _ _ (fun _ _ w _ => ?_)).trans ?_)
    | (split <;> try (rename_i hq; first
        | (with_reducible refine Work.erase_pair (w := w) (ft := ft) hq ?_ (fun hx => ?_); clear hq; rotate_left; clear hq; rotate_right)
        | (with_reducible refine Work.erase_triple (w := w) (ft := ft) hq ?_ (fun hx => ?_); clear hq; rotate_left; clear hq; rotate_right)
        | clear hq))
  all_goals simp [*]

@[simp] theorem Work.vecFnEffect_erase {ft : Part → Bool} (hp : ft .sent = true ∧ ft .ctxs = true ∧ ft .hbm = true ∧ ft .pkgBytes = true ∧ ft .tiles = true ∧ ft .phys = true ∧ ft .mw = true ∧ ft .stop = true) (mv : Mover) (m : Nat) (w : Work) :
    (vecFnEffect mv m w).2.erase ft = w.erase ft := by
  unfold vecFnEffect
  repeat' first
    | with_reducible rfl
    | (extract_lets +onlyGivenNames x; first
        | (refine Work.erase_step (x := x) (w := w) (ft := ft) ?_ (fun hx => ?_); subst x; rotate_left; clear_value x; rotate_right)
        | (have _t : State := x; clear _t; subst x)
        | (have _t : Work → Work := x; clear _t; subst x)
        | (have _t : Nat → Work → Work := x; clear _t; subst x)
        | (have _t : Work → Nat → Work := x; clear _t; subst x)
        | (have _t : Work → (Resident → Resident) → Work := x; clear _t; subst x)
        | clear_value x)
    | (with_reducible refine (Work.erase_each _ _ _ (fun w _ => ?_)).trans ?_)
    | (with_reducible refine (Work.erase_fold2 _ _ _ (fun _ w _ => ?_)).trans ?_)
    | (with_reducible refine (Work.erase_fold3 _ _ _ (fun _ _ w _ => ?_)).trans ?_)
    | (with_reducible refine (Work.vecEffect_erase (by simp [hp]) _ _ _ _ _ (fun _ w => ?_)).trans ?_)
    | (split <;> try (rename_i hq; first
        | (with_reducible refine Work.erase_pair (w := w) (ft := ft) hq ?_ (fun hx => ?_); clear hq; rotate_left; clear hq; rotate_right)
        | (with_reducible refine Work.erase_triple (w := w) (ft := ft) hq ?_ (fun hx => ?_); clear hq; rotate_left; clear hq; rotate_right)
        | clear hq))
  all_goals simp [*]

@[simp] theorem Work.vecCvtEffect_erase {ft : Part → Bool} (hp : ft .sent = true ∧ ft .ctxs = true ∧ ft .hbm = true ∧ ft .pkgBytes = true ∧ ft .tiles = true ∧ ft .phys = true ∧ ft .mw = true ∧ ft .stop = true) (mv : Mover) (m : Nat) (w : Work) :
    (vecCvtEffect mv m w).2.erase ft = w.erase ft := by
  unfold vecCvtEffect
  repeat' first
    | with_reducible rfl
    | (extract_lets +onlyGivenNames x; first
        | (refine Work.erase_step (x := x) (w := w) (ft := ft) ?_ (fun hx => ?_); subst x; rotate_left; clear_value x; rotate_right)
        | (have _t : State := x; clear _t; subst x)
        | (have _t : Work → Work := x; clear _t; subst x)
        | (have _t : Nat → Work → Work := x; clear _t; subst x)
        | (have _t : Work → Nat → Work := x; clear _t; subst x)
        | (have _t : Work → (Resident → Resident) → Work := x; clear _t; subst x)
        | clear_value x)
    | (with_reducible refine (Work.erase_each _ _ _ (fun w _ => ?_)).trans ?_)
    | (with_reducible refine (Work.erase_fold2 _ _ _ (fun _ w _ => ?_)).trans ?_)
    | (with_reducible refine (Work.erase_fold3 _ _ _ (fun _ _ w _ => ?_)).trans ?_)
    | (with_reducible refine (Work.vecEffect_erase (by simp [hp]) _ _ _ _ _ (fun _ w => ?_)).trans ?_)
    | (split <;> try (rename_i hq; first
        | (with_reducible refine Work.erase_pair (w := w) (ft := ft) hq ?_ (fun hx => ?_); clear hq; rotate_left; clear hq; rotate_right)
        | (with_reducible refine Work.erase_triple (w := w) (ft := ft) hq ?_ (fun hx => ?_); clear hq; rotate_left; clear hq; rotate_right)
        | clear hq))
  all_goals simp [*]

@[simp] theorem Work.foldSrc_erase {ft : Part → Bool} (hp : ft .sent = true ∧ ft .ctxs = true ∧ ft .hbm = true ∧ ft .pkgBytes = true ∧ ft .phys = true ∧ ft .stop = true) (w : Work) (mv : Mover) (x : Vec) (addr count : Nat) :
    (Work.foldSrc w mv x addr count).2.2.erase ft = w.erase ft := by
  unfold Work.foldSrc
  repeat' first
    | with_reducible rfl
    | (extract_lets +onlyGivenNames x; first
        | (refine Work.erase_step (x := x) (w := w) (ft := ft) ?_ (fun hx => ?_); subst x; rotate_left; clear_value x; rotate_right)
        | (have _t : State := x; clear _t; subst x)
        | (have _t : Work → Work := x; clear _t; subst x)
        | (have _t : Nat → Work → Work := x; clear _t; subst x)
        | (have _t : Work → Nat → Work := x; clear _t; subst x)
        | (have _t : Work → (Resident → Resident) → Work := x; clear _t; subst x)
        | clear_value x)
    | (with_reducible refine (Work.erase_each _ _ _ (fun w _ => ?_)).trans ?_)
    | (with_reducible refine (Work.erase_fold2 _ _ _ (fun _ w _ => ?_)).trans ?_)
    | (with_reducible refine (Work.erase_fold3 _ _ _ (fun _ _ w _ => ?_)).trans ?_)
    | (split <;> try (rename_i hq; first
        | (with_reducible refine Work.erase_pair (w := w) (ft := ft) hq ?_ (fun hx => ?_); clear hq; rotate_left; clear hq; rotate_right)
        | (with_reducible refine Work.erase_triple (w := w) (ft := ft) hq ?_ (fun hx => ?_); clear hq; rotate_left; clear hq; rotate_right)
        | clear hq))
  all_goals simp [*]

@[simp] theorem Work.accWrite_erase {ft : Part → Bool} (hp : ft .sent = true ∧ ft .ctxs = true ∧ ft .hbm = true ∧ ft .pkgBytes = true ∧ ft .tiles = true ∧ ft .phys = true ∧ ft .mw = true ∧ ft .stop = true) (w : Work) (mv : Mover) (m : Nat) (x : Vec) (accs : List Acc) (e : Ev) :
    (Work.accWrite w mv m x accs e).2.erase ft = w.erase ft := by
  unfold Work.accWrite
  repeat' first
    | with_reducible rfl
    | (extract_lets +onlyGivenNames x; first
        | (refine Work.erase_step (x := x) (w := w) (ft := ft) ?_ (fun hx => ?_); subst x; rotate_left; clear_value x; rotate_right)
        | (have _t : State := x; clear _t; subst x)
        | (have _t : Work → Work := x; clear _t; subst x)
        | (have _t : Nat → Work → Work := x; clear _t; subst x)
        | (have _t : Work → Nat → Work := x; clear _t; subst x)
        | (have _t : Work → (Resident → Resident) → Work := x; clear _t; subst x)
        | clear_value x)
    | (with_reducible refine (Work.erase_each _ _ _ (fun w _ => ?_)).trans ?_)
    | (with_reducible refine (Work.erase_fold2 _ _ _ (fun _ w _ => ?_)).trans ?_)
    | (with_reducible refine (Work.erase_fold3 _ _ _ (fun _ _ w _ => ?_)).trans ?_)
    | (split <;> try (rename_i hq; first
        | (with_reducible refine Work.erase_pair (w := w) (ft := ft) hq ?_ (fun hx => ?_); clear hq; rotate_left; clear hq; rotate_right)
        | (with_reducible refine Work.erase_triple (w := w) (ft := ft) hq ?_ (fun hx => ?_); clear hq; rotate_left; clear hq; rotate_right)
        | clear hq))
  all_goals simp [*]

@[simp] theorem Work.vecFoldEffect_erase {ft : Part → Bool} (hp : ft .sent = true ∧ ft .ctxs = true ∧ ft .hbm = true ∧ ft .pkgBytes = true ∧ ft .tiles = true ∧ ft .phys = true ∧ ft .mw = true ∧ ft .stop = true) (mv : Mover) (m : Nat) (w : Work) :
    (vecFoldEffect mv m w).2.erase ft = w.erase ft := by
  unfold vecFoldEffect
  repeat' first
    | with_reducible rfl
    | (extract_lets +onlyGivenNames x; first
        | (refine Work.erase_step (x := x) (w := w) (ft := ft) ?_ (fun hx => ?_); subst x; rotate_left; clear_value x; rotate_right)
        | (have _t : State := x; clear _t; subst x)
        | (have _t : Work → Work := x; clear _t; subst x)
        | (have _t : Nat → Work → Work := x; clear _t; subst x)
        | (have _t : Work → Nat → Work := x; clear _t; subst x)
        | (have _t : Work → (Resident → Resident) → Work := x; clear _t; subst x)
        | clear_value x)
    | (with_reducible refine (Work.erase_each _ _ _ (fun w _ => ?_)).trans ?_)
    | (with_reducible refine (Work.erase_fold2 _ _ _ (fun _ w _ => ?_)).trans ?_)
    | (with_reducible refine (Work.erase_fold3 _ _ _ (fun _ _ w _ => ?_)).trans ?_)
    | (with_reducible refine (Work.vecEffect_erase (by simp [hp]) _ _ _ _ _ (fun _ w => ?_)).trans ?_)
    | (split <;> try (rename_i hq; first
        | (with_reducible refine Work.erase_pair (w := w) (ft := ft) hq ?_ (fun hx => ?_); clear hq; rotate_left; clear hq; rotate_right)
        | (with_reducible refine Work.erase_triple (w := w) (ft := ft) hq ?_ (fun hx => ?_); clear hq; rotate_left; clear hq; rotate_right)
        | clear hq))
  all_goals simp [*]

@[simp] theorem Work.vecRedEffect_erase {ft : Part → Bool} (hp : ft .sent = true ∧ ft .ctxs = true ∧ ft .hbm = true ∧ ft .pkgBytes = true ∧ ft .tiles = true ∧ ft .phys = true ∧ ft .mw = true ∧ ft .stop = true) (mv : Mover) (m : Nat) (w : Work) :
    (vecRedEffect mv m w).2.erase ft = w.erase ft := by
  unfold vecRedEffect
  repeat' first
    | with_reducible rfl
    | (extract_lets +onlyGivenNames x; first
        | (refine Work.erase_step (x := x) (w := w) (ft := ft) ?_ (fun hx => ?_); subst x; rotate_left; clear_value x; rotate_right)
        | (have _t : State := x; clear _t; subst x)
        | (have _t : Work → Work := x; clear _t; subst x)
        | (have _t : Nat → Work → Work := x; clear _t; subst x)
        | (have _t : Work → Nat → Work := x; clear _t; subst x)
        | (have _t : Work → (Resident → Resident) → Work := x; clear _t; subst x)
        | clear_value x)
    | (with_reducible refine (Work.erase_each _ _ _ (fun w _ => ?_)).trans ?_)
    | (with_reducible refine (Work.erase_fold2 _ _ _ (fun _ w _ => ?_)).trans ?_)
    | (with_reducible refine (Work.erase_fold3 _ _ _ (fun _ _ w _ => ?_)).trans ?_)
    | (with_reducible refine (Work.vecEffect_erase (by simp [hp]) _ _ _ _ _ (fun _ w => ?_)).trans ?_)
    | (split <;> try (rename_i hq; first
        | (with_reducible refine Work.erase_pair (w := w) (ft := ft) hq ?_ (fun hx => ?_); clear hq; rotate_left; clear hq; rotate_right)
        | (with_reducible refine Work.erase_triple (w := w) (ft := ft) hq ?_ (fun hx => ?_); clear hq; rotate_left; clear hq; rotate_right)
        | clear hq))
  all_goals simp [*]

@[simp] theorem Work.storeEffect_erase {ft : Part → Bool} (hp : ft .sent = true ∧ ft .ctxs = true ∧ ft .hbm = true ∧ ft .pkgBytes = true ∧ ft .phys = true ∧ ft .stop = true) (mv : Mover) (m : Nat) (w : Work) (f : StoreDesc → Work → Effect × Work) (h_f : ∀ (y0 : StoreDesc) (y1 : Work), (f y0 y1).2.erase ft = Work.erase ft y1) :
    (storeEffect mv m w f).2.erase ft = w.erase ft := by
  unfold storeEffect
  repeat' first
    | with_reducible rfl
    | (extract_lets +onlyGivenNames x; first
        | (refine Work.erase_step (x := x) (w := w) (ft := ft) ?_ (fun hx => ?_); subst x; rotate_left; clear_value x; rotate_right)
        | (have _t : State := x; clear _t; subst x)
        | (have _t : Work → Work := x; clear _t; subst x)
        | (have _t : Nat → Work → Work := x; clear _t; subst x)
        | (have _t : Work → Nat → Work := x; clear _t; subst x)
        | (have _t : Work → (Resident → Resident) → Work := x; clear _t; subst x)
        | clear_value x)
    | (with_reducible refine (Work.erase_each _ _ _ (fun w _ => ?_)).trans ?_)
    | (with_reducible refine (Work.erase_fold2 _ _ _ (fun _ w _ => ?_)).trans ?_)
    | (with_reducible refine (Work.erase_fold3 _ _ _ (fun _ _ w _ => ?_)).trans ?_)
    | (split <;> try (rename_i hq; first
        | (with_reducible refine Work.erase_pair (w := w) (ft := ft) hq ?_ (fun hx => ?_); clear hq; rotate_left; clear hq; rotate_right)
        | (with_reducible refine Work.erase_triple (w := w) (ft := ft) hq ?_ (fun hx => ?_); clear hq; rotate_left; clear hq; rotate_right)
        | clear hq))
  all_goals simp [*]

@[simp] theorem Work.tileRows_erase {ft : Part → Bool} (hp : ft .sent = true ∧ ft .ctxs = true ∧ ft .hbm = true ∧ ft .pkgBytes = true ∧ ft .phys = true) (w : Work) (mv : Mover) (at_ pitch rows bytes : Nat) (u : List Upset) :
    (Work.tileRows w mv at_ pitch rows bytes u).2.erase ft = w.erase ft := by
  unfold Work.tileRows
  repeat' first
    | with_reducible rfl
    | (extract_lets +onlyGivenNames x; first
        | (refine Work.erase_step (x := x) (w := w) (ft := ft) ?_ (fun hx => ?_); subst x; rotate_left; clear_value x; rotate_right)
        | (have _t : State := x; clear _t; subst x)
        | (have _t : Work → Work := x; clear _t; subst x)
        | (have _t : Nat → Work → Work := x; clear _t; subst x)
        | (have _t : Work → Nat → Work := x; clear _t; subst x)
        | (have _t : Work → (Resident → Resident) → Work := x; clear _t; subst x)
        | clear_value x)
    | (with_reducible refine (Work.erase_each _ _ _ (fun w _ => ?_)).trans ?_)
    | (with_reducible refine (Work.erase_fold2 _ _ _ (fun _ w _ => ?_)).trans ?_)
    | (with_reducible refine (Work.erase_fold3 _ _ _ (fun _ _ w _ => ?_)).trans ?_)
    | (split <;> try (rename_i hq; first
        | (with_reducible refine Work.erase_pair (w := w) (ft := ft) hq ?_ (fun hx => ?_); clear hq; rotate_left; clear hq; rotate_right)
        | (with_reducible refine Work.erase_triple (w := w) (ft := ft) hq ?_ (fun hx => ?_); clear hq; rotate_left; clear hq; rotate_right)
        | clear hq))
  all_goals simp [*]

@[simp] theorem Work.putMarked_erase {ft : Part → Bool} (hp : ft .hbm = true ∧ ft .pkgBytes = true ∧ ft .phys = true ∧ ft .mw = true) (w : Work) (n at_ pitch : Nat) (rows : List (List Byte × Bool)) :
    (Work.putMarked w n at_ pitch rows).erase ft = w.erase ft := by
  unfold Work.putMarked
  try dsimp only
  repeat' split
  all_goals first | with_reducible rfl | simp [hp]

@[simp] theorem Work.putOrContribute_erase {ft : Part → Bool} (hp : ft .sent = true ∧ ft .hbm = true ∧ ft .pkgBytes = true ∧ ft .phys = true ∧ ft .mw = true ∧ ft .stop = true) (w : Work) (mv : Mover) (m at_ pitch : Nat) (rows : List (List Byte × Bool)) :
    (Work.putOrContribute w mv m at_ pitch rows).2.erase ft = w.erase ft := by
  unfold Work.putOrContribute
  repeat' first
    | with_reducible rfl
    | (extract_lets +onlyGivenNames x; first
        | (refine Work.erase_step (x := x) (w := w) (ft := ft) ?_ (fun hx => ?_); subst x; rotate_left; clear_value x; rotate_right)
        | (have _t : State := x; clear _t; subst x)
        | (have _t : Work → Work := x; clear _t; subst x)
        | (have _t : Nat → Work → Work := x; clear _t; subst x)
        | (have _t : Work → Nat → Work := x; clear _t; subst x)
        | (have _t : Work → (Resident → Resident) → Work := x; clear _t; subst x)
        | clear_value x)
    | (with_reducible refine (Work.erase_each _ _ _ (fun w _ => ?_)).trans ?_)
    | (with_reducible refine (Work.erase_fold2 _ _ _ (fun _ w _ => ?_)).trans ?_)
    | (with_reducible refine (Work.erase_fold3 _ _ _ (fun _ _ w _ => ?_)).trans ?_)
    | (with_reducible refine (Work.output_erase (by simp [hp]) _ _ _ _ _ _ (fun w => ?_)).trans ?_)
    | (split <;> try (rename_i hq; first
        | (with_reducible refine Work.erase_pair (w := w) (ft := ft) hq ?_ (fun hx => ?_); clear hq; rotate_left; clear hq; rotate_right)
        | (with_reducible refine Work.erase_triple (w := w) (ft := ft) hq ?_ (fun hx => ?_); clear hq; rotate_left; clear hq; rotate_right)
        | clear hq))
  all_goals simp [*]

@[simp] theorem Work.ctxRows_erase {ft : Part → Bool} (hp : ft .sent = true ∧ ft .pad = true ∧ ft .flash = true ∧ ft .sched = true ∧ ft .fns = true ∧ ft .rings = true ∧ ft .actives = true ∧ ft .pcieTx = true ∧ ft .ctxs = true ∧ ft .regions = true ∧ ft .hbm = true ∧ ft .pkgBytes = true ∧ ft .tiles = true ∧ ft .phys = true ∧ ft .nextTag = true ∧ ft .mw = true ∧ ft .hw = true) (w : Work) (mv : Mover) (at_ pitch rows bytes : Nat) (u : List Upset) :
    (Work.ctxRows w mv at_ pitch rows bytes u).2.erase ft = w.erase ft := by
  unfold Work.ctxRows
  repeat' first
    | with_reducible rfl
    | (extract_lets +onlyGivenNames x; first
        | (refine Work.erase_step (x := x) (w := w) (ft := ft) ?_ (fun hx => ?_); subst x; rotate_left; clear_value x; rotate_right)
        | (have _t : State := x; clear _t; subst x)
        | (have _t : Work → Work := x; clear _t; subst x)
        | (have _t : Nat → Work → Work := x; clear _t; subst x)
        | (have _t : Work → Nat → Work := x; clear _t; subst x)
        | (have _t : Work → (Resident → Resident) → Work := x; clear _t; subst x)
        | clear_value x)
    | (with_reducible refine (Work.erase_each _ _ _ (fun w _ => ?_)).trans ?_)
    | (with_reducible refine (Work.erase_fold2 _ _ _ (fun _ w _ => ?_)).trans ?_)
    | (with_reducible refine (Work.erase_fold3 _ _ _ (fun _ _ w _ => ?_)).trans ?_)
    | (split <;> try (rename_i hq; first
        | (with_reducible refine Work.erase_pair (w := w) (ft := ft) hq ?_ (fun hx => ?_); clear hq; rotate_left; clear hq; rotate_right)
        | (with_reducible refine Work.erase_triple (w := w) (ft := ft) hq ?_ (fun hx => ?_); clear hq; rotate_left; clear hq; rotate_right)
        | clear hq))
  all_goals simp [*]

@[simp] theorem Work.syncWays_erase {ft : Part → Bool} (hp : ft .phys = true) (w : Work) (c : Nat) (n : Nat) :
    (Work.syncWays w c n).erase ft = w.erase ft := by
  unfold Work.syncWays
  repeat' first
    | with_reducible rfl
    | (extract_lets +onlyGivenNames x; first
        | (refine Work.erase_step (x := x) (w := w) (ft := ft) ?_ (fun hx => ?_); subst x; rotate_left; clear_value x; rotate_right)
        | (have _t : State := x; clear _t; subst x)
        | (have _t : Work → Work := x; clear _t; subst x)
        | (have _t : Nat → Work → Work := x; clear _t; subst x)
        | (have _t : Work → Nat → Work := x; clear _t; subst x)
        | (have _t : Work → (Resident → Resident) → Work := x; clear _t; subst x)
        | clear_value x)
    | (with_reducible refine (Work.erase_each _ _ _ (fun w _ => ?_)).trans ?_)
    | (with_reducible refine (Work.erase_fold2 _ _ _ (fun _ w _ => ?_)).trans ?_)
    | (with_reducible refine (Work.erase_fold3 _ _ _ (fun _ _ w _ => ?_)).trans ?_)
    | (split <;> try (rename_i hq; first
        | (with_reducible refine Work.erase_pair (w := w) (ft := ft) hq ?_ (fun hx => ?_); clear hq; rotate_left; clear hq; rotate_right)
        | (with_reducible refine Work.erase_triple (w := w) (ft := ft) hq ?_ (fun hx => ?_); clear hq; rotate_left; clear hq; rotate_right)
        | clear hq))
  all_goals simp [*]

@[simp] theorem Work.serve_erase {ft : Part → Bool} (hp : ft .sent = true ∧ ft .hbm = true ∧ ft .pkgBytes = true ∧ ft .phys = true ∧ ft .nextTag = true) (w : Work) (c : Nat) (b : Nat) (g : Nat) (sector : Bool) :
    (Work.serve w c b g sector).erase ft = w.erase ft := by
  unfold Work.serve
  repeat' first
    | with_reducible rfl
    | (extract_lets +onlyGivenNames x; first
        | (refine Work.erase_step (x := x) (w := w) (ft := ft) ?_ (fun hx => ?_); subst x; rotate_left; clear_value x; rotate_right)
        | (have _t : State := x; clear _t; subst x)
        | (have _t : Work → Work := x; clear _t; subst x)
        | (have _t : Nat → Work → Work := x; clear _t; subst x)
        | (have _t : Work → Nat → Work := x; clear _t; subst x)
        | (have _t : Work → (Resident → Resident) → Work := x; clear _t; subst x)
        | clear_value x)
    | (with_reducible refine (Work.erase_each _ _ _ (fun w _ => ?_)).trans ?_)
    | (with_reducible refine (Work.erase_fold2 _ _ _ (fun _ w _ => ?_)).trans ?_)
    | (with_reducible refine (Work.erase_fold3 _ _ _ (fun _ _ w _ => ?_)).trans ?_)
    | (split <;> try (rename_i hq; first
        | (with_reducible refine Work.erase_pair (w := w) (ft := ft) hq ?_ (fun hx => ?_); clear hq; rotate_left; clear hq; rotate_right)
        | (with_reducible refine Work.erase_triple (w := w) (ft := ft) hq ?_ (fun hx => ?_); clear hq; rotate_left; clear hq; rotate_right)
        | clear hq))
  all_goals simp [*]

@[simp] theorem Work.countSectors_erase {ft : Part → Bool} (hp : ft .hbm = true) (w : Work) (c : Nat) (a : Nat) (n : Nat) :
    (Work.countSectors w c a n).erase ft = w.erase ft := by
  unfold Work.countSectors
  repeat' first
    | with_reducible rfl
    | (extract_lets +onlyGivenNames x; first
        | (refine Work.erase_step (x := x) (w := w) (ft := ft) ?_ (fun hx => ?_); subst x; rotate_left; clear_value x; rotate_right)
        | (have _t : State := x; clear _t; subst x)
        | (have _t : Work → Work := x; clear _t; subst x)
        | (have _t : Nat → Work → Work := x; clear _t; subst x)
        | (have _t : Work → Nat → Work := x; clear _t; subst x)
        | (have _t : Work → (Resident → Resident) → Work := x; clear _t; subst x)
        | clear_value x)
    | (with_reducible refine (Work.erase_each _ _ _ (fun w _ => ?_)).trans ?_)
    | (with_reducible refine (Work.erase_fold2 _ _ _ (fun _ w _ => ?_)).trans ?_)
    | (with_reducible refine (Work.erase_fold3 _ _ _ (fun _ _ w _ => ?_)).trans ?_)
    | (split <;> try (rename_i hq; first
        | (with_reducible refine Work.erase_pair (w := w) (ft := ft) hq ?_ (fun hx => ?_); clear hq; rotate_left; clear hq; rotate_right)
        | (with_reducible refine Work.erase_triple (w := w) (ft := ft) hq ?_ (fun hx => ?_); clear hq; rotate_left; clear hq; rotate_right)
        | clear hq))
  all_goals simp [*]

@[simp] theorem Work.rcAccess_erase {ft : Part → Bool} (hp : ft .sent = true ∧ ft .hbm = true ∧ ft .pkgBytes = true ∧ ft .phys = true ∧ ft .nextTag = true) (w : Work) (m : Mover) (u : List Upset) (b : Nat) (sector : Bool) :
    (Work.rcAccess w m u b sector).2.erase ft = w.erase ft := by
  unfold Work.rcAccess
  repeat' first
    | with_reducible rfl
    | (extract_lets +onlyGivenNames x; first
        | (refine Work.erase_step (x := x) (w := w) (ft := ft) ?_ (fun hx => ?_); subst x; rotate_left; clear_value x; rotate_right)
        | (have _t : State := x; clear _t; subst x)
        | (have _t : Work → Work := x; clear _t; subst x)
        | (have _t : Nat → Work → Work := x; clear _t; subst x)
        | (have _t : Work → Nat → Work := x; clear _t; subst x)
        | (have _t : Work → (Resident → Resident) → Work := x; clear _t; subst x)
        | clear_value x)
    | (with_reducible refine (Work.erase_each _ _ _ (fun w _ => ?_)).trans ?_)
    | (with_reducible refine (Work.erase_fold2 _ _ _ (fun _ w _ => ?_)).trans ?_)
    | (with_reducible refine (Work.erase_fold3 _ _ _ (fun _ _ w _ => ?_)).trans ?_)
    | (split <;> try (rename_i hq; first
        | (with_reducible refine Work.erase_pair (w := w) (ft := ft) hq ?_ (fun hx => ?_); clear hq; rotate_left; clear hq; rotate_right)
        | (with_reducible refine Work.erase_triple (w := w) (ft := ft) hq ?_ (fun hx => ?_); clear hq; rotate_left; clear hq; rotate_right)
        | clear hq))
  all_goals simp [*]

@[simp] theorem Work.fetchRange_erase {ft : Part → Bool} (hp : ft .sent = true ∧ ft .hbm = true ∧ ft .pkgBytes = true ∧ ft .phys = true ∧ ft .nextTag = true) (w : Work) (m : Mover) (u : List Upset) (b : Nat) (n : Nat) (sector : Bool) (cache : Bool) :
    (Work.fetchRange w m u b n sector cache).2.erase ft = w.erase ft := by
  unfold Work.fetchRange
  repeat' first
    | with_reducible rfl
    | (extract_lets +onlyGivenNames x; first
        | (refine Work.erase_step (x := x) (w := w) (ft := ft) ?_ (fun hx => ?_); subst x; rotate_left; clear_value x; rotate_right)
        | (have _t : State := x; clear _t; subst x)
        | (have _t : Work → Work := x; clear _t; subst x)
        | (have _t : Nat → Work → Work := x; clear _t; subst x)
        | (have _t : Work → Nat → Work := x; clear _t; subst x)
        | (have _t : Work → (Resident → Resident) → Work := x; clear _t; subst x)
        | clear_value x)
    | (with_reducible refine (Work.erase_each _ _ _ (fun w _ => ?_)).trans ?_)
    | (with_reducible refine (Work.erase_fold2 _ _ _ (fun _ w _ => ?_)).trans ?_)
    | (with_reducible refine (Work.erase_fold3 _ _ _ (fun _ _ w _ => ?_)).trans ?_)
    | (split <;> try (rename_i hq; first
        | (with_reducible refine Work.erase_pair (w := w) (ft := ft) hq ?_ (fun hx => ?_); clear hq; rotate_left; clear hq; rotate_right)
        | (with_reducible refine Work.erase_triple (w := w) (ft := ft) hq ?_ (fun hx => ?_); clear hq; rotate_left; clear hq; rotate_right)
        | clear hq))
  all_goals simp [*]

@[simp] theorem Work.rowRead_erase {ft : Part → Bool} (hp : ft .sent = true ∧ ft .pad = true ∧ ft .flash = true ∧ ft .sched = true ∧ ft .fns = true ∧ ft .rings = true ∧ ft .actives = true ∧ ft .pcieTx = true ∧ ft .ctxs = true ∧ ft .regions = true ∧ ft .hbm = true ∧ ft .pkgBytes = true ∧ ft .tiles = true ∧ ft .phys = true ∧ ft .nextTag = true ∧ ft .mw = true ∧ ft .hw = true) (w : Work) (m : Mover) (a n : Nat) (sector cache : Bool) (u : List Upset) (record : Nat → Work → Work) (h_record : ∀ (y0 : Nat) (y1 : Work), (record y0 y1).erase ft = Work.erase ft y1) :
    (Work.rowRead w m a n sector cache u record).2.erase ft = w.erase ft := by
  unfold Work.rowRead
  repeat' first
    | with_reducible rfl
    | (extract_lets +onlyGivenNames x; first
        | (refine Work.erase_step (x := x) (w := w) (ft := ft) ?_ (fun hx => ?_); subst x; rotate_left; clear_value x; rotate_right)
        | (have _t : State := x; clear _t; subst x)
        | (have _t : Work → Work := x; clear _t; subst x)
        | (have _t : Nat → Work → Work := x; clear _t; subst x)
        | (have _t : Work → Nat → Work := x; clear _t; subst x)
        | (have _t : Work → (Resident → Resident) → Work := x; clear _t; subst x)
        | clear_value x)
    | (with_reducible refine (Work.erase_each _ _ _ (fun w _ => ?_)).trans ?_)
    | (with_reducible refine (Work.erase_fold2 _ _ _ (fun _ w _ => ?_)).trans ?_)
    | (with_reducible refine (Work.erase_fold3 _ _ _ (fun _ _ w _ => ?_)).trans ?_)
    | (split <;> try (rename_i hq; first
        | (with_reducible refine Work.erase_pair (w := w) (ft := ft) hq ?_ (fun hx => ?_); clear hq; rotate_left; clear hq; rotate_right)
        | (with_reducible refine Work.erase_triple (w := w) (ft := ft) hq ?_ (fun hx => ?_); clear hq; rotate_left; clear hq; rotate_right)
        | clear hq))
  all_goals simp [*]

@[simp] theorem Work.tableRow_erase {ft : Part → Bool} (hp : ft .sent = true ∧ ft .pad = true ∧ ft .flash = true ∧ ft .sched = true ∧ ft .fns = true ∧ ft .rings = true ∧ ft .actives = true ∧ ft .pcieTx = true ∧ ft .ctxs = true ∧ ft .regions = true ∧ ft .hbm = true ∧ ft .pkgBytes = true ∧ ft .tiles = true ∧ ft .phys = true ∧ ft .nextTag = true ∧ ft .mw = true ∧ ft .hw = true) (w : Work) (m : Mover) (t : TableRec) (i : Nat) (cache : Bool) (u : List Upset) (record : Nat → Work → Work) (h_record : ∀ (y0 : Nat) (y1 : Work), (record y0 y1).erase ft = Work.erase ft y1) :
    (Work.tableRow w m t i cache u record).2.erase ft = w.erase ft := by
  unfold Work.tableRow
  repeat' first
    | with_reducible rfl
    | (extract_lets +onlyGivenNames x; first
        | (refine Work.erase_step (x := x) (w := w) (ft := ft) ?_ (fun hx => ?_); subst x; rotate_left; clear_value x; rotate_right)
        | (have _t : State := x; clear _t; subst x)
        | (have _t : Work → Work := x; clear _t; subst x)
        | (have _t : Nat → Work → Work := x; clear _t; subst x)
        | (have _t : Work → Nat → Work := x; clear _t; subst x)
        | (have _t : Work → (Resident → Resident) → Work := x; clear _t; subst x)
        | clear_value x)
    | (with_reducible refine (Work.erase_each _ _ _ (fun w _ => ?_)).trans ?_)
    | (with_reducible refine (Work.erase_fold2 _ _ _ (fun _ w _ => ?_)).trans ?_)
    | (with_reducible refine (Work.erase_fold3 _ _ _ (fun _ _ w _ => ?_)).trans ?_)
    | (with_reducible refine (Work.rowRead_erase (by simp [hp, h_record]) _ _ _ _ _ _ _ _ (fun _ w => ?_)).trans ?_)
    | (split <;> try (rename_i hq; first
        | (with_reducible refine Work.erase_pair (w := w) (ft := ft) hq ?_ (fun hx => ?_); clear hq; rotate_left; clear hq; rotate_right)
        | (with_reducible refine Work.erase_triple (w := w) (ft := ft) hq ?_ (fun hx => ?_); clear hq; rotate_left; clear hq; rotate_right)
        | clear hq))
  all_goals simp [*]

@[simp] theorem Work.rowOf_erase {ft : Part → Bool} (hp : ft .sent = true ∧ ft .pad = true ∧ ft .flash = true ∧ ft .sched = true ∧ ft .fns = true ∧ ft .rings = true ∧ ft .actives = true ∧ ft .pcieTx = true ∧ ft .ctxs = true ∧ ft .regions = true ∧ ft .hbm = true ∧ ft .pkgBytes = true ∧ ft .tiles = true ∧ ft .phys = true ∧ ft .nextTag = true ∧ ft .mw = true ∧ ft .hw = true ∧ ft .stop = true) (w : Work) (m : Mover) (q : RowSource) (tbl : Option TableRec) (i : Nat) (u : List Upset) (record : Nat → Work → Work) (h_record : ∀ (y0 : Nat) (y1 : Work), (record y0 y1).erase ft = Work.erase ft y1) :
    (Work.rowOf w m q tbl i u record).2.erase ft = w.erase ft := by
  unfold Work.rowOf
  repeat' first
    | with_reducible rfl
    | (extract_lets +onlyGivenNames x; first
        | (refine Work.erase_step (x := x) (w := w) (ft := ft) ?_ (fun hx => ?_); subst x; rotate_left; clear_value x; rotate_right)
        | (have _t : State := x; clear _t; subst x)
        | (have _t : Work → Work := x; clear _t; subst x)
        | (have _t : Nat → Work → Work := x; clear _t; subst x)
        | (have _t : Work → Nat → Work := x; clear _t; subst x)
        | (have _t : Work → (Resident → Resident) → Work := x; clear _t; subst x)
        | clear_value x)
    | (with_reducible refine (Work.erase_each _ _ _ (fun w _ => ?_)).trans ?_)
    | (with_reducible refine (Work.erase_fold2 _ _ _ (fun _ w _ => ?_)).trans ?_)
    | (with_reducible refine (Work.erase_fold3 _ _ _ (fun _ _ w _ => ?_)).trans ?_)
    | (with_reducible refine (Work.rowRead_erase (by simp [hp, h_record]) _ _ _ _ _ _ _ _ (fun _ w => ?_)).trans ?_)
    | (with_reducible refine (Work.tableRow_erase (by simp [hp, h_record]) _ _ _ _ _ _ _ (fun _ w => ?_)).trans ?_)
    | (split <;> try (rename_i hq; first
        | (with_reducible refine Work.erase_pair (w := w) (ft := ft) hq ?_ (fun hx => ?_); clear hq; rotate_left; clear hq; rotate_right)
        | (with_reducible refine Work.erase_triple (w := w) (ft := ft) hq ?_ (fun hx => ?_); clear hq; rotate_left; clear hq; rotate_right)
        | clear hq))
  all_goals simp [*]

@[simp] theorem Work.touchEdges_erase {ft : Part → Bool} (hp : ft .sent = true ∧ ft .ctxs = true ∧ ft .hbm = true ∧ ft .pkgBytes = true ∧ ft .phys = true) (w : Work) (m : Mover) (a first count : Nat) :
    (Work.touchEdges w m a first count).erase ft = w.erase ft := by
  unfold Work.touchEdges
  try dsimp only
  repeat' split
  all_goals first | with_reducible rfl | simp [hp]

@[simp] theorem Work.putSlot_erase {ft : Part → Bool} (hp : ft .hbm = true ∧ ft .pkgBytes = true ∧ ft .phys = true ∧ ft .mw = true) (w : Work) (n a : Nat) (h : SlotHead) (es : List Edge) :
    (Work.putSlot w n a h es).erase ft = w.erase ft := by
  unfold Work.putSlot
  try dsimp only
  repeat' split
  all_goals first | with_reducible rfl | simp [hp]

@[simp] theorem Work.gthEffect_erase {ft : Part → Bool} (hp : ft .sent = true ∧ ft .pad = true ∧ ft .flash = true ∧ ft .sched = true ∧ ft .fns = true ∧ ft .rings = true ∧ ft .actives = true ∧ ft .pcieTx = true ∧ ft .ctxs = true ∧ ft .regions = true ∧ ft .hbm = true ∧ ft .pkgBytes = true ∧ ft .tiles = true ∧ ft .phys = true ∧ ft .nextTag = true ∧ ft .mw = true ∧ ft .hw = true ∧ ft .stop = true) (u : List Upset) (mv : Mover) (m : Nat) (w : Work) :
    (gthEffect u mv m w).2.erase ft = w.erase ft := by
  unfold gthEffect
  repeat' first
    | with_reducible rfl
    | (extract_lets +onlyGivenNames x; first
        | (refine Work.erase_step (x := x) (w := w) (ft := ft) ?_ (fun hx => ?_); subst x; rotate_left; clear_value x; rotate_right)
        | (have _t : State := x; clear _t; subst x)
        | (have _t : Work → Work := x; clear _t; subst x)
        | (have _t : Nat → Work → Work := x; clear _t; subst x)
        | (have _t : Work → Nat → Work := x; clear _t; subst x)
        | (have _t : Work → (Resident → Resident) → Work := x; clear _t; subst x)
        | clear_value x)
    | (with_reducible refine (Work.erase_each _ _ _ (fun w _ => ?_)).trans ?_)
    | (with_reducible refine (Work.erase_fold2 _ _ _ (fun _ w _ => ?_)).trans ?_)
    | (with_reducible refine (Work.erase_fold3 _ _ _ (fun _ _ w _ => ?_)).trans ?_)
    | (with_reducible refine (Work.rowOf_erase (by simp [hp]) _ _ _ _ _ _ _ (fun _ w => ?_)).trans ?_)
    | (split <;> try (rename_i hq; first
        | (with_reducible refine Work.erase_pair (w := w) (ft := ft) hq ?_ (fun hx => ?_); clear hq; rotate_left; clear hq; rotate_right)
        | (with_reducible refine Work.erase_triple (w := w) (ft := ft) hq ?_ (fun hx => ?_); clear hq; rotate_left; clear hq; rotate_right)
        | clear hq))
  all_goals simp [*]

@[simp] theorem Work.segReduceEffect_erase {ft : Part → Bool} (hp : ft .sent = true ∧ ft .ctxs = true ∧ ft .hbm = true ∧ ft .pkgBytes = true ∧ ft .tiles = true ∧ ft .phys = true ∧ ft .mw = true ∧ ft .stop = true) (mv : Mover) (m : Nat) (w : Work) :
    (segReduceEffect mv m w).2.erase ft = w.erase ft := by
  unfold segReduceEffect
  repeat' first
    | with_reducible rfl
    | (extract_lets +onlyGivenNames x; first
        | (refine Work.erase_step (x := x) (w := w) (ft := ft) ?_ (fun hx => ?_); subst x; rotate_left; clear_value x; rotate_right)
        | (have _t : State := x; clear _t; subst x)
        | (have _t : Work → Work := x; clear _t; subst x)
        | (have _t : Nat → Work → Work := x; clear _t; subst x)
        | (have _t : Work → Nat → Work := x; clear _t; subst x)
        | (have _t : Work → (Resident → Resident) → Work := x; clear _t; subst x)
        | clear_value x)
    | (with_reducible refine (Work.erase_each _ _ _ (fun w _ => ?_)).trans ?_)
    | (with_reducible refine (Work.erase_fold2 _ _ _ (fun _ w _ => ?_)).trans ?_)
    | (with_reducible refine (Work.erase_fold3 _ _ _ (fun _ _ w _ => ?_)).trans ?_)
    | (split <;> try (rename_i hq; first
        | (with_reducible refine Work.erase_pair (w := w) (ft := ft) hq ?_ (fun hx => ?_); clear hq; rotate_left; clear hq; rotate_right)
        | (with_reducible refine Work.erase_triple (w := w) (ft := ft) hq ?_ (fun hx => ?_); clear hq; rotate_left; clear hq; rotate_right)
        | clear hq))
  all_goals simp [*]

@[simp] theorem Work.segAddRow_erase {ft : Part → Bool} (hp : ft .sent = true ∧ ft .ctxs = true ∧ ft .hbm = true ∧ ft .pkgBytes = true ∧ ft .phys = true ∧ ft .mw = true ∧ ft .stop = true) (w : Work) (mv : Mover) (inAt accAt width : Nat) :
    (Work.segAddRow w mv inAt accAt width).2.erase ft = w.erase ft := by
  unfold Work.segAddRow
  repeat' first
    | with_reducible rfl
    | (extract_lets +onlyGivenNames x; first
        | (refine Work.erase_step (x := x) (w := w) (ft := ft) ?_ (fun hx => ?_); subst x; rotate_left; clear_value x; rotate_right)
        | (have _t : State := x; clear _t; subst x)
        | (have _t : Work → Work := x; clear _t; subst x)
        | (have _t : Nat → Work → Work := x; clear _t; subst x)
        | (have _t : Work → Nat → Work := x; clear _t; subst x)
        | (have _t : Work → (Resident → Resident) → Work := x; clear _t; subst x)
        | clear_value x)
    | (with_reducible refine (Work.erase_each _ _ _ (fun w _ => ?_)).trans ?_)
    | (with_reducible refine (Work.erase_fold2 _ _ _ (fun _ w _ => ?_)).trans ?_)
    | (with_reducible refine (Work.erase_fold3 _ _ _ (fun _ _ w _ => ?_)).trans ?_)
    | (split <;> try (rename_i hq; first
        | (with_reducible refine Work.erase_pair (w := w) (ft := ft) hq ?_ (fun hx => ?_); clear hq; rotate_left; clear hq; rotate_right)
        | (with_reducible refine Work.erase_triple (w := w) (ft := ft) hq ?_ (fun hx => ?_); clear hq; rotate_left; clear hq; rotate_right)
        | clear hq))
  all_goals simp [*]

@[simp] theorem Work.stolenEffect_erase {ft : Part → Bool} (hp : ft .sent = true ∧ ft .pad = true ∧ ft .flash = true ∧ ft .sched = true ∧ ft .fns = true ∧ ft .rings = true ∧ ft .actives = true ∧ ft .pcieTx = true ∧ ft .ctxs = true ∧ ft .regions = true ∧ ft .hbm = true ∧ ft .pkgBytes = true ∧ ft .tiles = true ∧ ft .phys = true ∧ ft .nextTag = true ∧ ft .mw = true ∧ ft .hw = true ∧ ft .stop = true) (u : List Upset) (mv : Mover) (m : Nat) (w : Work) :
    (stolenEffect u mv m w).2.erase ft = w.erase ft := by
  unfold stolenEffect
  try dsimp only
  repeat' split
  all_goals first | with_reducible rfl | simp [hp]

@[simp] theorem Work.traceSteal_erase {ft : Part → Bool} (hp : ft .tiles = true) (w : Work) (c : Nat) (home : Nat) (thief : Nat) (m : Nat) (index : Nat) :
    (Work.traceSteal w c home thief m index).erase ft = w.erase ft := by
  unfold Work.traceSteal
  repeat' first
    | with_reducible rfl
    | (extract_lets +onlyGivenNames x; first
        | (refine Work.erase_step (x := x) (w := w) (ft := ft) ?_ (fun hx => ?_); subst x; rotate_left; clear_value x; rotate_right)
        | (have _t : State := x; clear _t; subst x)
        | (have _t : Work → Work := x; clear _t; subst x)
        | (have _t : Nat → Work → Work := x; clear _t; subst x)
        | (have _t : Work → Nat → Work := x; clear _t; subst x)
        | (have _t : Work → (Resident → Resident) → Work := x; clear _t; subst x)
        | clear_value x)
    | (with_reducible refine (Work.erase_each _ _ _ (fun w _ => ?_)).trans ?_)
    | (with_reducible refine (Work.erase_fold2 _ _ _ (fun _ w _ => ?_)).trans ?_)
    | (with_reducible refine (Work.erase_fold3 _ _ _ (fun _ _ w _ => ?_)).trans ?_)
    | (split <;> try (rename_i hq; first
        | (with_reducible refine Work.erase_pair (w := w) (ft := ft) hq ?_ (fun hx => ?_); clear hq; rotate_left; clear hq; rotate_right)
        | (with_reducible refine Work.erase_triple (w := w) (ft := ft) hq ?_ (fun hx => ?_); clear hq; rotate_left; clear hq; rotate_right)
        | clear hq))
  all_goals simp [*]

end Sys2Proof.Machine
end

