-- ==== Sys2Proof/Laws/Frame4.lean ====
section
/-! SUPPORT. Footprints of the operations of Spinner, Recipe, Update, Banker, Turn, Commit: each leaves alone whatever its parts do not name. -/

namespace Sys2Proof.Machine

@[simp] theorem Work.spinnerEffect_erase {ft : Part → Bool} (hp : ft .sent = true ∧ ft .ctxs = true ∧ ft .hbm = true ∧ ft .pkgBytes = true ∧ ft .phys = true ∧ ft .stop = true) (mv : Mover) (m : Nat) (w : Work) (f : Nat → Work → Effect × Work) (h_f : ∀ (y0 : Nat) (y1 : Work), (f y0 y1).2.erase ft = Work.erase ft y1) :
    (spinnerEffect mv m w f).2.erase ft = w.erase ft := by
  unfold spinnerEffect
  try dsimp only
  repeat' split
  all_goals first | with_reducible rfl | simp [hp, h_f]

@[simp] theorem Work.spnFault_erase {ft : Part → Bool} (hp : ft .sent = true ∧ ft .pad = true ∧ ft .flash = true ∧ ft .fns = true) (w : Work) (mv : Mover) (a : Nat) :
    (Work.spnFault w mv a).erase ft = w.erase ft := by
  unfold Work.spnFault
  try dsimp only
  repeat' split
  all_goals first | with_reducible rfl | simp [hp]

@[simp] theorem Work.spnRead_erase {ft : Part → Bool} (hp : ft .sent = true ∧ ft .pad = true ∧ ft .flash = true ∧ ft .sched = true ∧ ft .fns = true ∧ ft .rings = true ∧ ft .actives = true ∧ ft .pcieTx = true ∧ ft .ctxs = true ∧ ft .regions = true ∧ ft .hbm = true ∧ ft .pkgBytes = true ∧ ft .tiles = true ∧ ft .phys = true ∧ ft .nextTag = true ∧ ft .mw = true ∧ ft .hw = true) (w : Work) (mv : Mover) (a n : Nat) (u : List Upset) :
    (Work.spnRead w mv a n u).2.erase ft = w.erase ft := by
  unfold Work.spnRead
  repeat' first
    | with_reducible rfl
    | (extract_lets +onlyGivenNames x; first
        | (refine Work.erase_step (x := x) (w := w) (ft := ft) ?_ (fun hx => ?_); subst x; rotate_left; clear_value x; rotate_right)
        | (have _t : State := x; clear _t; subst x)
        | (have _t : Work → Work := x; clear _t; subst x)
        | (have _t : Nat → Work → Work := x; clear _t; subst x)
        | (have _t : Work → Nat → Work := x; clear _t; subst x)
        | (have _t : Work → (Resident → Resident) → Work := x; clear _t; subst x)
        | clear_value x)
    | (with_reducible refine (Work.erase_each _ _ _ (fun w _ => ?_)).trans ?_)
    | (with_reducible refine (Work.erase_fold2 _ _ _ (fun _ w _ => ?_)).trans ?_)
    | (with_reducible refine (Work.erase_fold3 _ _ _ (fun _ _ w _ => ?_)).trans ?_)
    | (with_reducible refine (Work.readCtxBy_erase (by simp [hp]) _ _ _ _ _ _ (fun w => ?_)).trans ?_)
    | (split <;> try (rename_i hq; first
        | (with_reducible refine Work.erase_pair (w := w) (ft := ft) hq ?_ (fun hx => ?_); clear hq; rotate_left; clear hq; rotate_right)
        | (with_reducible refine Work.erase_triple (w := w) (ft := ft) hq ?_ (fun hx => ?_); clear hq; rotate_left; clear hq; rotate_right)
        | clear hq))
  all_goals simp [*]

@[simp] theorem Work.nodeList_erase {ft : Part → Bool} (hp : ft .sent = true ∧ ft .ctxs = true ∧ ft .hbm = true ∧ ft .pkgBytes = true ∧ ft .phys = true ∧ ft .stop = true) (w : Work) (mv : Mover) (n a : Nat) :
    (Work.nodeList w mv n a).2.erase ft = w.erase ft := by
  unfold Work.nodeList
  try dsimp only
  repeat' split
  all_goals first | with_reducible rfl | simp [hp]

@[simp] theorem Work.drawWords_erase {ft : Part → Bool} (hp : ft .lanesNow = true) (w : Work) (mv : Mover) (j n : Nat) :
    (Work.drawWords w mv j n).2.erase ft = w.erase ft := by
  unfold Work.drawWords
  repeat' first
    | with_reducible rfl
    | (extract_lets +onlyGivenNames x; first
        | (refine Work.erase_step (x := x) (w := w) (ft := ft) ?_ (fun hx => ?_); subst x; rotate_left; clear_value x; rotate_right)
        | (have _t : State := x; clear _t; subst x)
        | (have _t : Work → Work := x; clear _t; subst x)
        | (have _t : Nat → Work → Work := x; clear _t; subst x)
        | (have _t : Work → Nat → Work := x; clear _t; subst x)
        | (have _t : Work → (Resident → Resident) → Work := x; clear _t; subst x)
        | clear_value x)
    | (with_reducible refine (Work.erase_each _ _ _ (fun w _ => ?_)).trans ?_)
    | (with_reducible refine (Work.erase_fold2 _ _ _ (fun _ w _ => ?_)).trans ?_)
    | (with_reducible refine (Work.erase_fold3 _ _ _ (fun _ _ w _ => ?_)).trans ?_)
    | (split <;> try (rename_i hq; first
        | (with_reducible refine Work.erase_pair (w := w) (ft := ft) hq ?_ (fun hx => ?_); clear hq; rotate_left; clear hq; rotate_right)
        | (with_reducible refine Work.erase_triple (w := w) (ft := ft) hq ?_ (fun hx => ?_); clear hq; rotate_left; clear hq; rotate_right)
        | clear hq))
  all_goals simp [*]

@[simp] theorem Work.optRead_erase {ft : Part → Bool} (hp : ft .sent = true ∧ ft .pad = true ∧ ft .flash = true ∧ ft .sched = true ∧ ft .fns = true ∧ ft .rings = true ∧ ft .actives = true ∧ ft .pcieTx = true ∧ ft .ctxs = true ∧ ft .regions = true ∧ ft .hbm = true ∧ ft .pkgBytes = true ∧ ft .tiles = true ∧ ft .phys = true ∧ ft .nextTag = true ∧ ft .mw = true ∧ ft .hw = true) (w : Work) (mv : Mover) (on : Bool) (a n : Nat) (u : List Upset) :
    (Work.optRead w mv on a n u).2.erase ft = w.erase ft := by
  unfold Work.optRead
  repeat' first
    | with_reducible rfl
    | (extract_lets +onlyGivenNames x; first
        | (refine Work.erase_step (x := x) (w := w) (ft := ft) ?_ (fun hx => ?_); subst x; rotate_left; clear_value x; rotate_right)
        | (have _t : State := x; clear _t; subst x)
        | (have _t : Work → Work := x; clear _t; subst x)
        | (have _t : Nat → Work → Work := x; clear _t; subst x)
        | (have _t : Work → Nat → Work := x; clear _t; subst x)
        | (have _t : Work → (Resident → Resident) → Work := x; clear _t; subst x)
        | clear_value x)
    | (with_reducible refine (Work.erase_each _ _ _ (fun w _ => ?_)).trans ?_)
    | (with_reducible refine (Work.erase_fold2 _ _ _ (fun _ w _ => ?_)).trans ?_)
    | (with_reducible refine (Work.erase_fold3 _ _ _ (fun _ _ w _ => ?_)).trans ?_)
    | (split <;> try (rename_i hq; first
        | (with_reducible refine Work.erase_pair (w := w) (ft := ft) hq ?_ (fun hx => ?_); clear hq; rotate_left; clear hq; rotate_right)
        | (with_reducible refine Work.erase_triple (w := w) (ft := ft) hq ?_ (fun hx => ?_); clear hq; rotate_left; clear hq; rotate_right)
        | clear hq))
  all_goals simp [*]

@[simp] theorem Work.sampleEdge_erase {ft : Part → Bool} (hp : ft .sent = true ∧ ft .pad = true ∧ ft .flash = true ∧ ft .sched = true ∧ ft .fns = true ∧ ft .rings = true ∧ ft .actives = true ∧ ft .pcieTx = true ∧ ft .ctxs = true ∧ ft .regions = true ∧ ft .hbm = true ∧ ft .pkgBytes = true ∧ ft .tiles = true ∧ ft .phys = true ∧ ft .nextTag = true ∧ ft .mw = true ∧ ft .hw = true ∧ ft .stop = true) (w : Work) (mv : Mover) (g : Graph) (pol : Fanout) (hop v base p k : Nat) (u : List Upset) :
    (Work.sampleEdge w mv g pol hop v base p k u).2.erase ft = w.erase ft := by
  unfold Work.sampleEdge
  repeat' first
    | with_reducible rfl
    | (extract_lets +onlyGivenNames x; first
        | (refine Work.erase_step (x := x) (w := w) (ft := ft) ?_ (fun hx => ?_); subst x; rotate_left; clear_value x; rotate_right)
        | (have _t : State := x; clear _t; subst x)
        | (have _t : Work → Work := x; clear _t; subst x)
        | (have _t : Nat → Work → Work := x; clear _t; subst x)
        | (have _t : Work → Nat → Work := x; clear _t; subst x)
        | (have _t : Work → (Resident → Resident) → Work := x; clear _t; subst x)
        | clear_value x)
    | (with_reducible refine (Work.erase_each _ _ _ (fun w _ => ?_)).trans ?_)
    | (with_reducible refine (Work.erase_fold2 _ _ _ (fun _ w _ => ?_)).trans ?_)
    | (with_reducible refine (Work.erase_fold3 _ _ _ (fun _ _ w _ => ?_)).trans ?_)
    | (split <;> try (rename_i hq; first
        | (with_reducible refine Work.erase_pair (w := w) (ft := ft) hq ?_ (fun hx => ?_); clear hq; rotate_left; clear hq; rotate_right)
        | (with_reducible refine Work.erase_triple (w := w) (ft := ft) hq ?_ (fun hx => ?_); clear hq; rotate_left; clear hq; rotate_right)
        | clear hq))
  all_goals simp [*]

@[simp] theorem Work.sampleEdges_erase {ft : Part → Bool} (hp : ft .sent = true ∧ ft .pad = true ∧ ft .flash = true ∧ ft .sched = true ∧ ft .fns = true ∧ ft .rings = true ∧ ft .actives = true ∧ ft .pcieTx = true ∧ ft .ctxs = true ∧ ft .regions = true ∧ ft .hbm = true ∧ ft .pkgBytes = true ∧ ft .tiles = true ∧ ft .phys = true ∧ ft .nextTag = true ∧ ft .mw = true ∧ ft .hw = true ∧ ft .stop = true) (w : Work) (mv : Mover) (g : Graph) (pol : Fanout) (hop v base k : Nat) (u : List Upset) (ps : List Nat) :
    (Work.sampleEdges w mv g pol hop v base k u ps).2.erase ft = w.erase ft := by
  unfold Work.sampleEdges
  repeat' first
    | with_reducible rfl
    | (extract_lets +onlyGivenNames x; first
        | (refine Work.erase_step (x := x) (w := w) (ft := ft) ?_ (fun hx => ?_); subst x; rotate_left; clear_value x; rotate_right)
        | (have _t : State := x; clear _t; subst x)
        | (have _t : Work → Work := x; clear _t; subst x)
        | (have _t : Nat → Work → Work := x; clear _t; subst x)
        | (have _t : Work → Nat → Work := x; clear _t; subst x)
        | (have _t : Work → (Resident → Resident) → Work := x; clear _t; subst x)
        | clear_value x)
    | (with_reducible refine (Work.erase_each _ _ _ (fun w _ => ?_)).trans ?_)
    | (with_reducible refine (Work.erase_fold2 _ _ _ (fun _ w _ => ?_)).trans ?_)
    | (with_reducible refine (Work.erase_fold3 _ _ _ (fun _ _ w _ => ?_)).trans ?_)
    | (split <;> try (rename_i hq; first
        | (with_reducible refine Work.erase_pair (w := w) (ft := ft) hq ?_ (fun hx => ?_); clear hq; rotate_left; clear hq; rotate_right)
        | (with_reducible refine Work.erase_triple (w := w) (ft := ft) hq ?_ (fun hx => ?_); clear hq; rotate_left; clear hq; rotate_right)
        | clear hq))
  all_goals simp [*]

@[simp] theorem Work.sampleNode_erase {ft : Part → Bool} (hp : ft .sent = true ∧ ft .pad = true ∧ ft .flash = true ∧ ft .sched = true ∧ ft .fns = true ∧ ft .rings = true ∧ ft .actives = true ∧ ft .pcieTx = true ∧ ft .ctxs = true ∧ ft .regions = true ∧ ft .hbm = true ∧ ft .pkgBytes = true ∧ ft .tiles = true ∧ ft .phys = true ∧ ft .lanesNow = true ∧ ft .nextTag = true ∧ ft .mw = true ∧ ft .hw = true ∧ ft .stop = true) (w : Work) (mv : Mover) (g : Graph) (pol : Fanout) (hop i v : Nat) (u : List Upset) :
    (Work.sampleNode w mv g pol hop i v u).2.erase ft = w.erase ft := by
  unfold Work.sampleNode
  repeat' first
    | with_reducible rfl
    | (extract_lets +onlyGivenNames x; first
        | (refine Work.erase_step (x := x) (w := w) (ft := ft) ?_ (fun hx => ?_); subst x; rotate_left; clear_value x; rotate_right)
        | (have _t : State := x; clear _t; subst x)
        | (have _t : Work → Work := x; clear _t; subst x)
        | (have _t : Nat → Work → Work := x; clear _t; subst x)
        | (have _t : Work → Nat → Work := x; clear _t; subst x)
        | (have _t : Work → (Resident → Resident) → Work := x; clear _t; subst x)
        | clear_value x)
    | (with_reducible refine (Work.erase_each _ _ _ (fun w _ => ?_)).trans ?_)
    | (with_reducible refine (Work.erase_fold2 _ _ _ (fun _ w _ => ?_)).trans ?_)
    | (with_reducible refine (Work.erase_fold3 _ _ _ (fun _ _ w _ => ?_)).trans ?_)
    | (split <;> try (rename_i hq; first
        | (with_reducible refine Work.erase_pair (w := w) (ft := ft) hq ?_ (fun hx => ?_); clear hq; rotate_left; clear hq; rotate_right)
        | (with_reducible refine Work.erase_triple (w := w) (ft := ft) hq ?_ (fun hx => ?_); clear hq; rotate_left; clear hq; rotate_right)
        | clear hq))
  all_goals simp [*]

@[simp] theorem Work.sampleAll_erase {ft : Part → Bool} (hp : ft .sent = true ∧ ft .pad = true ∧ ft .flash = true ∧ ft .sched = true ∧ ft .fns = true ∧ ft .rings = true ∧ ft .actives = true ∧ ft .pcieTx = true ∧ ft .ctxs = true ∧ ft .regions = true ∧ ft .hbm = true ∧ ft .pkgBytes = true ∧ ft .tiles = true ∧ ft .phys = true ∧ ft .lanesNow = true ∧ ft .nextTag = true ∧ ft .mw = true ∧ ft .hw = true ∧ ft .stop = true) (w : Work) (mv : Mover) (g : Graph) (pol : Fanout) (hop : Nat) (vs : List Nat) (u : List Upset) :
    (Work.sampleAll w mv g pol hop vs u).2.erase ft = w.erase ft := by
  unfold Work.sampleAll
  repeat' first
    | with_reducible rfl
    | (extract_lets +onlyGivenNames x; first
        | (refine Work.erase_step (x := x) (w := w) (ft := ft) ?_ (fun hx => ?_); subst x; rotate_left; clear_value x; rotate_right)
        | (have _t : State := x; clear _t; subst x)
        | (have _t : Work → Work := x; clear _t; subst x)
        | (have _t : Nat → Work → Work := x; clear _t; subst x)
        | (have _t : Work → Nat → Work := x; clear _t; subst x)
        | (have _t : Work → (Resident → Resident) → Work := x; clear _t; subst x)
        | clear_value x)
    | (with_reducible refine (Work.erase_each _ _ _ (fun w _ => ?_)).trans ?_)
    | (with_reducible refine (Work.erase_fold2 _ _ _ (fun _ w _ => ?_)).trans ?_)
    | (with_reducible refine (Work.erase_fold3 _ _ _ (fun _ _ w _ => ?_)).trans ?_)
    | (split <;> try (rename_i hq; first
        | (with_reducible refine Work.erase_pair (w := w) (ft := ft) hq ?_ (fun hx => ?_); clear hq; rotate_left; clear hq; rotate_right)
        | (with_reducible refine Work.erase_triple (w := w) (ft := ft) hq ?_ (fun hx => ?_); clear hq; rotate_left; clear hq; rotate_right)
        | clear hq))
  all_goals simp [*]

@[simp] theorem Work.putPair_erase {ft : Part → Bool} (hp : ft .hbm = true ∧ ft .pkgBytes = true ∧ ft .phys = true ∧ ft .mw = true) (w : Work) (n : Nat) (x : Sample) (es : List Edge) (c : Nat) :
    (Work.putPair w n x es c).erase ft = w.erase ft := by
  unfold Work.putPair
  repeat' first
    | with_reducible rfl
    | (extract_lets +onlyGivenNames x; first
        | (refine Work.erase_step (x := x) (w := w) (ft := ft) ?_ (fun hx => ?_); subst x; rotate_left; clear_value x; rotate_right)
        | (have _t : State := x; clear _t; subst x)
        | (have _t : Work → Work := x; clear _t; subst x)
        | (have _t : Nat → Work → Work := x; clear _t; subst x)
        | (have _t : Work → Nat → Work := x; clear _t; subst x)
        | (have _t : Work → (Resident → Resident) → Work := x; clear _t; subst x)
        | clear_value x)
    | (with_reducible refine (Work.erase_each _ _ _ (fun w _ => ?_)).trans ?_)
    | (with_reducible refine (Work.erase_fold2 _ _ _ (fun _ w _ => ?_)).trans ?_)
    | (with_reducible refine (Work.erase_fold3 _ _ _ (fun _ _ w _ => ?_)).trans ?_)
    | (split <;> try (rename_i hq; first
        | (with_reducible refine Work.erase_pair (w := w) (ft := ft) hq ?_ (fun hx => ?_); clear hq; rotate_left; clear hq; rotate_right)
        | (with_reducible refine Work.erase_triple (w := w) (ft := ft) hq ?_ (fun hx => ?_); clear hq; rotate_left; clear hq; rotate_right)
        | clear hq))
  all_goals simp [*]

@[simp] theorem Work.spnDropped_erase {ft : Part → Bool} (hp : ft .regions = true) (w : Work) (r dropped : Nat) :
    (Work.spnDropped w r dropped).erase ft = w.erase ft := by
  unfold Work.spnDropped
  try dsimp only
  repeat' split
  all_goals first | with_reducible rfl | simp [hp]

@[simp] theorem Work.writeHop_erase {ft : Part → Bool} (hp : ft .sent = true ∧ ft .pad = true ∧ ft .flash = true ∧ ft .fns = true ∧ ft .regions = true ∧ ft .hbm = true ∧ ft .pkgBytes = true ∧ ft .phys = true ∧ ft .mw = true ∧ ft .stop = true) (w : Work) (mv : Mover) (n : Nat) (x : Sample) (all : List (Nat × Edge)) :
    (Work.writeHop w mv n x all).erase ft = w.erase ft := by
  unfold Work.writeHop
  repeat' first
    | with_reducible rfl
    | (extract_lets +onlyGivenNames x; first
        | (refine Work.erase_step (x := x) (w := w) (ft := ft) ?_ (fun hx => ?_); subst x; rotate_left; clear_value x; rotate_right)
        | (have _t : State := x; clear _t; subst x)
        | (have _t : Work → Work := x; clear _t; subst x)
        | (have _t : Nat → Work → Work := x; clear _t; subst x)
        | (have _t : Work → Nat → Work := x; clear _t; subst x)
        | (have _t : Work → (Resident → Resident) → Work := x; clear _t; subst x)
        | clear_value x)
    | (with_reducible refine (Work.erase_each _ _ _ (fun w _ => ?_)).trans ?_)
    | (with_reducible refine (Work.erase_fold2 _ _ _ (fun _ w _ => ?_)).trans ?_)
    | (with_reducible refine (Work.erase_fold3 _ _ _ (fun _ _ w _ => ?_)).trans ?_)
    | (split <;> try (rename_i hq; first
        | (with_reducible refine Work.erase_pair (w := w) (ft := ft) hq ?_ (fun hx => ?_); clear hq; rotate_left; clear hq; rotate_right)
        | (with_reducible refine Work.erase_triple (w := w) (ft := ft) hq ?_ (fun hx => ?_); clear hq; rotate_left; clear hq; rotate_right)
        | clear hq))
  all_goals simp [*]

@[simp] theorem Work.spnSampleEffect_erase {ft : Part → Bool} (hp : ft .sent = true ∧ ft .pad = true ∧ ft .flash = true ∧ ft .sched = true ∧ ft .fns = true ∧ ft .rings = true ∧ ft .actives = true ∧ ft .pcieTx = true ∧ ft .ctxs = true ∧ ft .regions = true ∧ ft .hbm = true ∧ ft .pkgBytes = true ∧ ft .tiles = true ∧ ft .phys = true ∧ ft .lanesNow = true ∧ ft .nextTag = true ∧ ft .mw = true ∧ ft .hw = true ∧ ft .stop = true) (u : List Upset) (mv : Mover) (m : Nat) (w : Work) :
    (spnSampleEffect u mv m w).2.erase ft = w.erase ft := by
  unfold spnSampleEffect
  repeat' first
    | with_reducible rfl
    | (extract_lets +onlyGivenNames x; first
        | (refine Work.erase_step (x := x) (w := w) (ft := ft) ?_ (fun hx => ?_); subst x; rotate_left; clear_value x; rotate_right)
        | (have _t : State := x; clear _t; subst x)
        | (have _t : Work → Work := x; clear _t; subst x)
        | (have _t : Nat → Work → Work := x; clear _t; subst x)
        | (have _t : Work → Nat → Work := x; clear _t; subst x)
        | (have _t : Work → (Resident → Resident) → Work := x; clear _t; subst x)
        | clear_value x)
    | (with_reducible refine (Work.erase_each _ _ _ (fun w _ => ?_)).trans ?_)
    | (with_reducible refine (Work.erase_fold2 _ _ _ (fun _ w _ => ?_)).trans ?_)
    | (with_reducible refine (Work.erase_fold3 _ _ _ (fun _ _ w _ => ?_)).trans ?_)
    | (with_reducible refine (Work.spinnerEffect_erase (by simp [hp]) _ _ _ _ (fun _ w => ?_)).trans ?_)
    | (split <;> try (rename_i hq; first
        | (with_reducible refine Work.erase_pair (w := w) (ft := ft) hq ?_ (fun hx => ?_); clear hq; rotate_left; clear hq; rotate_right)
        | (with_reducible refine Work.erase_triple (w := w) (ft := ft) hq ?_ (fun hx => ?_); clear hq; rotate_left; clear hq; rotate_right)
        | clear hq))
  all_goals simp [*]

@[simp] theorem Work.spnRouteEffect_erase {ft : Part → Bool} (hp : ft .sent = true ∧ ft .ctxs = true ∧ ft .regions = true ∧ ft .hbm = true ∧ ft .pkgBytes = true ∧ ft .tiles = true ∧ ft .phys = true ∧ ft .mw = true ∧ ft .stop = true) (mv : Mover) (m : Nat) (w : Work) :
    (spnRouteEffect mv m w).2.erase ft = w.erase ft := by
  unfold spnRouteEffect
  repeat' first
    | with_reducible rfl
    | (extract_lets +onlyGivenNames x; first
        | (refine Work.erase_step (x := x) (w := w) (ft := ft) ?_ (fun hx => ?_); subst x; rotate_left; clear_value x; rotate_right)
        | (have _t : State := x; clear _t; subst x)
        | (have _t : Work → Work := x; clear _t; subst x)
        | (have _t : Nat → Work → Work := x; clear _t; subst x)
        | (have _t : Work → Nat → Work := x; clear _t; subst x)
        | (have _t : Work → (Resident → Resident) → Work := x; clear _t; subst x)
        | clear_value x)
    | (with_reducible refine (Work.erase_each _ _ _ (fun w _ => ?_)).trans ?_)
    | (with_reducible refine (Work.erase_fold2 _ _ _ (fun _ w _ => ?_)).trans ?_)
    | (with_reducible refine (Work.erase_fold3 _ _ _ (fun _ _ w _ => ?_)).trans ?_)
    | (with_reducible refine (Work.spinnerEffect_erase (by simp [hp]) _ _ _ _ (fun _ w => ?_)).trans ?_)
    | (split <;> try (rename_i hq; first
        | (with_reducible refine Work.erase_pair (w := w) (ft := ft) hq ?_ (fun hx => ?_); clear hq; rotate_left; clear hq; rotate_right)
        | (with_reducible refine Work.erase_triple (w := w) (ft := ft) hq ?_ (fun hx => ?_); clear hq; rotate_left; clear hq; rotate_right)
        | clear hq))
  all_goals simp [*]

@[simp] theorem Work.pfStageEffect_erase {ft : Part → Bool} (hp : ft .sent = true ∧ ft .pad = true ∧ ft .flash = true ∧ ft .sched = true ∧ ft .fns = true ∧ ft .rings = true ∧ ft .actives = true ∧ ft .pcieTx = true ∧ ft .ctxs = true ∧ ft .regions = true ∧ ft .hbm = true ∧ ft .pkgBytes = true ∧ ft .tiles = true ∧ ft .phys = true ∧ ft .nextTag = true ∧ ft .mw = true ∧ ft .hw = true ∧ ft .stop = true) (u : List Upset) (mv : Mover) (m : Nat) (w : Work) :
    (pfStageEffect u mv m w).2.erase ft = w.erase ft := by
  unfold pfStageEffect
  repeat' first
    | with_reducible rfl
    | (extract_lets +onlyGivenNames x; first
        | (refine Work.erase_step (x := x) (w := w) (ft := ft) ?_ (fun hx => ?_); subst x; rotate_left; clear_value x; rotate_right)
        | (have _t : State := x; clear _t; subst x)
        | (have _t : Work → Work := x; clear _t; subst x)
        | (have _t : Nat → Work → Work := x; clear _t; subst x)
        | (have _t : Work → Nat → Work := x; clear _t; subst x)
        | (have _t : Work → (Resident → Resident) → Work := x; clear _t; subst x)
        | clear_value x)
    | (with_reducible refine (Work.erase_each _ _ _ (fun w _ => ?_)).trans ?_)
    | (with_reducible refine (Work.erase_fold2 _ _ _ (fun _ w _ => ?_)).trans ?_)
    | (with_reducible refine (Work.erase_fold3 _ _ _ (fun _ _ w _ => ?_)).trans ?_)
    | (with_reducible refine (Work.rowOf_erase (by simp [hp]) _ _ _ _ _ _ _ (fun _ w => ?_)).trans ?_)
    | (with_reducible refine (Work.spinnerEffect_erase (by simp [hp]) _ _ _ _ (fun _ w => ?_)).trans ?_)
    | (split <;> try (rename_i hq; first
        | (with_reducible refine Work.erase_pair (w := w) (ft := ft) hq ?_ (fun hx => ?_); clear hq; rotate_left; clear hq; rotate_right)
        | (with_reducible refine Work.erase_triple (w := w) (ft := ft) hq ?_ (fun hx => ?_); clear hq; rotate_left; clear hq; rotate_right)
        | clear hq))
  all_goals simp [*]

@[simp] theorem Work.fetchUnit_erase {ft : Part → Bool} (hp : ft .sent = true ∧ ft .pad = true ∧ ft .flash = true ∧ ft .sched = true ∧ ft .fns = true ∧ ft .rings = true ∧ ft .actives = true ∧ ft .pcieTx = true ∧ ft .ctxs = true ∧ ft .regions = true ∧ ft .hbm = true ∧ ft .pkgBytes = true ∧ ft .tiles = true ∧ ft .phys = true ∧ ft .nextTag = true ∧ ft .mw = true ∧ ft .hw = true ∧ ft .stop = true) (w : Work) (mv : Mover) (l : Layer) (at_ : Nat × Nat) (k : Nat) (u : List Upset) :
    (Work.fetchUnit w mv l at_ k u).2.erase ft = w.erase ft := by
  unfold Work.fetchUnit
  repeat' first
    | with_reducible rfl
    | (extract_lets +onlyGivenNames x; first
        | (refine Work.erase_step (x := x) (w := w) (ft := ft) ?_ (fun hx => ?_); subst x; rotate_left; clear_value x; rotate_right)
        | (have _t : State := x; clear _t; subst x)
        | (have _t : Work → Work := x; clear _t; subst x)
        | (have _t : Nat → Work → Work := x; clear _t; subst x)
        | (have _t : Work → Nat → Work := x; clear _t; subst x)
        | (have _t : Work → (Resident → Resident) → Work := x; clear _t; subst x)
        | clear_value x)
    | (with_reducible refine (Work.erase_each _ _ _ (fun w _ => ?_)).trans ?_)
    | (with_reducible refine (Work.erase_fold2 _ _ _ (fun _ w _ => ?_)).trans ?_)
    | (with_reducible refine (Work.erase_fold3 _ _ _ (fun _ _ w _ => ?_)).trans ?_)
    | (with_reducible refine (Work.readCtxBy_erase (by simp [hp]) _ _ _ _ _ _ (fun w => ?_)).trans ?_)
    | (split <;> try (rename_i hq; first
        | (with_reducible refine Work.erase_pair (w := w) (ft := ft) hq ?_ (fun hx => ?_); clear hq; rotate_left; clear hq; rotate_right)
        | (with_reducible refine Work.erase_triple (w := w) (ft := ft) hq ?_ (fun hx => ?_); clear hq; rotate_left; clear hq; rotate_right)
        | clear hq))
  all_goals simp [*]

@[simp] theorem Work.blocksEffect_erase {ft : Part → Bool} (hp : ft .sent = true ∧ ft .ctxs = true ∧ ft .hbm = true ∧ ft .pkgBytes = true ∧ ft .phys = true ∧ ft .stop = true) (mv : Mover) (m : Nat) (w : Work) (f : Nat → Nat → Book → Layer → Work → Effect × Work) (h_f : ∀ (y0 : Nat) (y1 : Nat) (y2 : Book) (y3 : Layer) (y4 : Work), (f y0 y1 y2 y3 y4).2.erase ft = Work.erase ft y4) :
    (blocksEffect mv m w f).2.erase ft = w.erase ft := by
  unfold blocksEffect
  repeat' first
    | with_reducible rfl
    | (extract_lets +onlyGivenNames x; first
        | (refine Work.erase_step (x := x) (w := w) (ft := ft) ?_ (fun hx => ?_); subst x; rotate_left; clear_value x; rotate_right)
        | (have _t : State := x; clear _t; subst x)
        | (have _t : Work → Work := x; clear _t; subst x)
        | (have _t : Nat → Work → Work := x; clear _t; subst x)
        | (have _t : Work → Nat → Work := x; clear _t; subst x)
        | (have _t : Work → (Resident → Resident) → Work := x; clear _t; subst x)
        | clear_value x)
    | (with_reducible refine (Work.erase_each _ _ _ (fun w _ => ?_)).trans ?_)
    | (with_reducible refine (Work.erase_fold2 _ _ _ (fun _ w _ => ?_)).trans ?_)
    | (with_reducible refine (Work.erase_fold3 _ _ _ (fun _ _ w _ => ?_)).trans ?_)
    | (with_reducible refine (Work.spinnerEffect_erase (by simp [hp, h_f]) _ _ _ _ (fun _ w => ?_)).trans ?_)
    | (split <;> try (rename_i hq; first
        | (with_reducible refine Work.erase_pair (w := w) (ft := ft) hq ?_ (fun hx => ?_); clear hq; rotate_left; clear hq; rotate_right)
        | (with_reducible refine Work.erase_triple (w := w) (ft := ft) hq ?_ (fun hx => ?_); clear hq; rotate_left; clear hq; rotate_right)
        | clear hq))
  all_goals simp [*]

@[simp] theorem Work.predictEffect_erase {ft : Part → Bool} (hp : ft .sent = true ∧ ft .pad = true ∧ ft .flash = true ∧ ft .sched = true ∧ ft .fns = true ∧ ft .rings = true ∧ ft .actives = true ∧ ft .pcieTx = true ∧ ft .ctxs = true ∧ ft .regions = true ∧ ft .hbm = true ∧ ft .pkgBytes = true ∧ ft .tiles = true ∧ ft .phys = true ∧ ft .nextTag = true ∧ ft .resident = true ∧ ft .mw = true ∧ ft .hw = true ∧ ft .stop = true) (u : List Upset) (mv : Mover) (m : Nat) (w : Work) :
    (predictEffect u mv m w).2.erase ft = w.erase ft := by
  unfold predictEffect
  repeat' first
    | with_reducible rfl
    | (extract_lets +onlyGivenNames x; first
        | (refine Work.erase_step (x := x) (w := w) (ft := ft) ?_ (fun hx => ?_); subst x; rotate_left; clear_value x; rotate_right)
        | (have _t : State := x; clear _t; subst x)
        | (have _t : Work → Work := x; clear _t; subst x)
        | (have _t : Nat → Work → Work := x; clear _t; subst x)
        | (have _t : Work → Nat → Work := x; clear _t; subst x)
        | (have _t : Work → (Resident → Resident) → Work := x; clear _t; subst x)
        | clear_value x)
    | (with_reducible refine (Work.erase_each _ _ _ (fun w _ => ?_)).trans ?_)
    | (with_reducible refine (Work.erase_fold2 _ _ _ (fun _ w _ => ?_)).trans ?_)
    | (with_reducible refine (Work.erase_fold3 _ _ _ (fun _ _ w _ => ?_)).trans ?_)
    | (with_reducible refine (Work.blocksEffect_erase (by simp [hp]) _ _ _ _ (fun _ _ _ _ w => ?_)).trans ?_)
    | (split <;> try (rename_i hq; first
        | (with_reducible refine Work.erase_pair (w := w) (ft := ft) hq ?_ (fun hx => ?_); clear hq; rotate_left; clear hq; rotate_right)
        | (with_reducible refine Work.erase_triple (w := w) (ft := ft) hq ?_ (fun hx => ?_); clear hq; rotate_left; clear hq; rotate_right)
        | clear hq))
  all_goals simp [*]

@[simp] theorem Work.demandUnit_erase {ft : Part → Bool} (hp : ft .sent = true ∧ ft .pad = true ∧ ft .flash = true ∧ ft .sched = true ∧ ft .fns = true ∧ ft .rings = true ∧ ft .actives = true ∧ ft .pcieTx = true ∧ ft .ctxs = true ∧ ft .regions = true ∧ ft .hbm = true ∧ ft .pkgBytes = true ∧ ft .tiles = true ∧ ft .phys = true ∧ ft .nextTag = true ∧ ft .resident = true ∧ ft .mw = true ∧ ft .hw = true ∧ ft .stop = true) (w : Work) (mv : Mover) (l : Layer) (at_ : Nat × Nat) (active : Bool) (k : Nat) (u : List Upset) :
    (Work.demandUnit w mv l at_ active k u).2.erase ft = w.erase ft := by
  unfold Work.demandUnit
  repeat' first
    | with_reducible rfl
    | (extract_lets +onlyGivenNames x; first
        | (refine Work.erase_step (x := x) (w := w) (ft := ft) ?_ (fun hx => ?_); subst x; rotate_left; clear_value x; rotate_right)
        | (have _t : State := x; clear _t; subst x)
        | (have _t : Work → Work := x; clear _t; subst x)
        | (have _t : Nat → Work → Work := x; clear _t; subst x)
        | (have _t : Work → Nat → Work := x; clear _t; subst x)
        | (have _t : Work → (Resident → Resident) → Work := x; clear _t; subst x)
        | clear_value x)
    | (with_reducible refine (Work.erase_each _ _ _ (fun w _ => ?_)).trans ?_)
    | (with_reducible refine (Work.erase_fold2 _ _ _ (fun _ w _ => ?_)).trans ?_)
    | (with_reducible refine (Work.erase_fold3 _ _ _ (fun _ _ w _ => ?_)).trans ?_)
    | (split <;> try (rename_i hq; first
        | (with_reducible refine Work.erase_pair (w := w) (ft := ft) hq ?_ (fun hx => ?_); clear hq; rotate_left; clear hq; rotate_right)
        | (with_reducible refine Work.erase_triple (w := w) (ft := ft) hq ?_ (fun hx => ?_); clear hq; rotate_left; clear hq; rotate_right)
        | clear hq))
  all_goals simp [*]

@[simp] theorem Work.demandEffect_erase {ft : Part → Bool} (hp : ft .sent = true ∧ ft .pad = true ∧ ft .flash = true ∧ ft .sched = true ∧ ft .fns = true ∧ ft .rings = true ∧ ft .actives = true ∧ ft .pcieTx = true ∧ ft .ctxs = true ∧ ft .regions = true ∧ ft .hbm = true ∧ ft .pkgBytes = true ∧ ft .tiles = true ∧ ft .phys = true ∧ ft .nextTag = true ∧ ft .resident = true ∧ ft .mw = true ∧ ft .hw = true ∧ ft .stop = true) (u : List Upset) (mv : Mover) (m : Nat) (w : Work) :
    (demandEffect u mv m w).2.erase ft = w.erase ft := by
  unfold demandEffect
  repeat' first
    | with_reducible rfl
    | (extract_lets +onlyGivenNames x; first
        | (refine Work.erase_step (x := x) (w := w) (ft := ft) ?_ (fun hx => ?_); subst x; rotate_left; clear_value x; rotate_right)
        | (have _t : State := x; clear _t; subst x)
        | (have _t : Work → Work := x; clear _t; subst x)
        | (have _t : Nat → Work → Work := x; clear _t; subst x)
        | (have _t : Work → Nat → Work := x; clear _t; subst x)
        | (have _t : Work → (Resident → Resident) → Work := x; clear _t; subst x)
        | clear_value x)
    | (with_reducible refine (Work.erase_each _ _ _ (fun w _ => ?_)).trans ?_)
    | (with_reducible refine (Work.erase_fold2 _ _ _ (fun _ w _ => ?_)).trans ?_)
    | (with_reducible refine (Work.erase_fold3 _ _ _ (fun _ _ w _ => ?_)).trans ?_)
    | (with_reducible refine (Work.blocksEffect_erase (by simp [hp]) _ _ _ _ (fun _ _ _ _ w => ?_)).trans ?_)
    | (split <;> try (rename_i hq; first
        | (with_reducible refine Work.erase_pair (w := w) (ft := ft) hq ?_ (fun hx => ?_); clear hq; rotate_left; clear hq; rotate_right)
        | (with_reducible refine Work.erase_triple (w := w) (ft := ft) hq ?_ (fun hx => ?_); clear hq; rotate_left; clear hq; rotate_right)
        | clear hq))
  all_goals simp [*]

@[simp] theorem Work.countUpdSat_erase {ft : Part → Bool} (hp : ft .ctxs = true) (w : Work) (c n : Nat) :
    (Work.countUpdSat w c n).erase ft = w.erase ft := by
  unfold Work.countUpdSat
  try dsimp only
  repeat' split
  all_goals first | with_reducible rfl | simp [hp]

@[simp] theorem Work.pieceEffect_erase {ft : Part → Bool} (hp : ft .stop = true) (mv : Mover) (m : Nat) (w : Work) (f : Book → List Piece → Work → Effect × Work) (h_f : ∀ (y0 : Book) (y1 : List Piece) (y2 : Work), (f y0 y1 y2).2.erase ft = Work.erase ft y2) :
    (pieceEffect mv m w f).2.erase ft = w.erase ft := by
  unfold pieceEffect
  try dsimp only
  repeat' split
  all_goals first | with_reducible rfl | simp [hp, h_f]

@[simp] theorem Work.updEvents_erase {ft : Part → Bool} (hp : ft .ctxs = true ∧ ft .tiles = true) (w : Work) (mv : Mover) (e : Ev) :
    (Work.updEvents w mv e).erase ft = w.erase ft := by
  unfold Work.updEvents
  repeat' first
    | with_reducible rfl
    | (extract_lets +onlyGivenNames x; first
        | (refine Work.erase_step (x := x) (w := w) (ft := ft) ?_ (fun hx => ?_); subst x; rotate_left; clear_value x; rotate_right)
        | (have _t : State := x; clear _t; subst x)
        | (have _t : Work → Work := x; clear _t; subst x)
        | (have _t : Nat → Work → Work := x; clear _t; subst x)
        | (have _t : Work → Nat → Work := x; clear _t; subst x)
        | (have _t : Work → (Resident → Resident) → Work := x; clear _t; subst x)
        | clear_value x)
    | (with_reducible refine (Work.erase_each _ _ _ (fun w _ => ?_)).trans ?_)
    | (with_reducible refine (Work.erase_fold2 _ _ _ (fun _ w _ => ?_)).trans ?_)
    | (with_reducible refine (Work.erase_fold3 _ _ _ (fun _ _ w _ => ?_)).trans ?_)
    | (split <;> try (rename_i hq; first
        | (with_reducible refine Work.erase_pair (w := w) (ft := ft) hq ?_ (fun hx => ?_); clear hq; rotate_left; clear hq; rotate_right)
        | (with_reducible refine Work.erase_triple (w := w) (ft := ft) hq ?_ (fun hx => ?_); clear hq; rotate_left; clear hq; rotate_right)
        | clear hq))
  all_goals simp [*]

@[simp] theorem Work.steps_erase {ft : Part → Bool} {α : Type} (w : Work) (xs : List α) (f : Work → α → Bool × Work) (h_f : ∀ (y0 : Work) (y1 : α), (f y0 y1).2.erase ft = Work.erase ft y0) :
    (Work.steps w xs f).2.erase ft = w.erase ft := by
  unfold Work.steps
  refine (Work.erase_fold2 _ _ _ (fun a w x => ?_)).trans rfl
  dsimp only
  split
  · exact h_f w x
  · rfl

@[simp] theorem Work.normPiece_erase {ft : Part → Bool} (hp : ft .sent = true ∧ ft .pad = true ∧ ft .flash = true ∧ ft .sched = true ∧ ft .fns = true ∧ ft .rings = true ∧ ft .actives = true ∧ ft .pcieTx = true ∧ ft .ctxs = true ∧ ft .regions = true ∧ ft .hbm = true ∧ ft .pkgBytes = true ∧ ft .tiles = true ∧ ft .phys = true ∧ ft .nextTag = true ∧ ft .mw = true ∧ ft .hw = true) (w : Work) (mv : Mover) (p : Piece) (u : List Upset) :
    (Work.normPiece w mv p u).2.erase ft = w.erase ft := by
  unfold Work.normPiece
  repeat' first
    | with_reducible rfl
    | (extract_lets +onlyGivenNames x; first
        | (refine Work.erase_step (x := x) (w := w) (ft := ft) ?_ (fun hx => ?_); subst x; rotate_left; clear_value x; rotate_right)
        | (have _t : State := x; clear _t; subst x)
        | (have _t : Work → Work := x; clear _t; subst x)
        | (have _t : Nat → Work → Work := x; clear _t; subst x)
        | (have _t : Work → Nat → Work := x; clear _t; subst x)
        | (have _t : Work → (Resident → Resident) → Work := x; clear _t; subst x)
        | clear_value x)
    | (with_reducible refine (Work.erase_each _ _ _ (fun w _ => ?_)).trans ?_)
    | (with_reducible refine (Work.erase_fold2 _ _ _ (fun _ w _ => ?_)).trans ?_)
    | (with_reducible refine (Work.erase_fold3 _ _ _ (fun _ _ w _ => ?_)).trans ?_)
    | (split <;> try (rename_i hq; first
        | (with_reducible refine Work.erase_pair (w := w) (ft := ft) hq ?_ (fun hx => ?_); clear hq; rotate_left; clear hq; rotate_right)
        | (with_reducible refine Work.erase_triple (w := w) (ft := ft) hq ?_ (fun hx => ?_); clear hq; rotate_left; clear hq; rotate_right)
        | clear hq))
  all_goals simp [*]

@[simp] theorem Work.updNormEffect_erase {ft : Part → Bool} (hp : ft .sent = true ∧ ft .pad = true ∧ ft .flash = true ∧ ft .sched = true ∧ ft .fns = true ∧ ft .rings = true ∧ ft .actives = true ∧ ft .pcieTx = true ∧ ft .ctxs = true ∧ ft .regions = true ∧ ft .hbm = true ∧ ft .pkgBytes = true ∧ ft .tiles = true ∧ ft .phys = true ∧ ft .nextTag = true ∧ ft .mw = true ∧ ft .hw = true ∧ ft .stop = true) (u : List Upset) (mv : Mover) (m : Nat) (w : Work) :
    (updNormEffect u mv m w).2.erase ft = w.erase ft := by
  unfold updNormEffect
  repeat' first
    | with_reducible rfl
    | (extract_lets +onlyGivenNames x; first
        | (refine Work.erase_step (x := x) (w := w) (ft := ft) ?_ (fun hx => ?_); subst x; rotate_left; clear_value x; rotate_right)
        | (have _t : State := x; clear _t; subst x)
        | (have _t : Work → Work := x; clear _t; subst x)
        | (have _t : Nat → Work → Work := x; clear _t; subst x)
        | (have _t : Work → Nat → Work := x; clear _t; subst x)
        | (have _t : Work → (Resident → Resident) → Work := x; clear _t; subst x)
        | clear_value x)
    | (with_reducible refine (Work.erase_each _ _ _ (fun w _ => ?_)).trans ?_)
    | (with_reducible refine (Work.erase_fold2 _ _ _ (fun _ w _ => ?_)).trans ?_)
    | (with_reducible refine (Work.erase_fold3 _ _ _ (fun _ _ w _ => ?_)).trans ?_)
    | (with_reducible refine (Work.steps_erase _ _ _ (fun w _ => ?_)).trans ?_)
    | (with_reducible refine (Work.pieceEffect_erase (by simp [hp]) _ _ _ _ (fun _ _ w => ?_)).trans ?_)
    | (split <;> try (rename_i hq; first
        | (with_reducible refine Work.erase_pair (w := w) (ft := ft) hq ?_ (fun hx => ?_); clear hq; rotate_left; clear hq; rotate_right)
        | (with_reducible refine Work.erase_triple (w := w) (ft := ft) hq ?_ (fun hx => ?_); clear hq; rotate_left; clear hq; rotate_right)
        | clear hq))
  all_goals simp [*]

@[simp] theorem Work.gradList_erase {ft : Part → Bool} (hp : ft .sent = true ∧ ft .pad = true ∧ ft .flash = true ∧ ft .sched = true ∧ ft .fns = true ∧ ft .rings = true ∧ ft .actives = true ∧ ft .pcieTx = true ∧ ft .ctxs = true ∧ ft .regions = true ∧ ft .hbm = true ∧ ft .pkgBytes = true ∧ ft .tiles = true ∧ ft .phys = true ∧ ft .nextTag = true ∧ ft .mw = true ∧ ft .hw = true ∧ ft .stop = true) (w : Work) (mv : Mover) (t : TableRec) (u : List Upset) :
    (Work.gradList w mv t u).2.erase ft = w.erase ft := by
  unfold Work.gradList
  repeat' first
    | with_reducible rfl
    | (extract_lets +onlyGivenNames x; first
        | (refine Work.erase_step (x := x) (w := w) (ft := ft) ?_ (fun hx => ?_); subst x; rotate_left; clear_value x; rotate_right)
        | (have _t : State := x; clear _t; subst x)
        | (have _t : Work → Work := x; clear _t; subst x)
        | (have _t : Nat → Work → Work := x; clear _t; subst x)
        | (have _t : Work → Nat → Work := x; clear _t; subst x)
        | (have _t : Work → (Resident → Resident) → Work := x; clear _t; subst x)
        | clear_value x)
    | (with_reducible refine (Work.erase_each _ _ _ (fun w _ => ?_)).trans ?_)
    | (with_reducible refine (Work.erase_fold2 _ _ _ (fun _ w _ => ?_)).trans ?_)
    | (with_reducible refine (Work.erase_fold3 _ _ _ (fun _ _ w _ => ?_)).trans ?_)
    | (split <;> try (rename_i hq; first
        | (with_reducible refine Work.erase_pair (w := w) (ft := ft) hq ?_ (fun hx => ?_); clear hq; rotate_left; clear hq; rotate_right)
        | (with_reducible refine Work.erase_triple (w := w) (ft := ft) hq ?_ (fun hx => ?_); clear hq; rotate_left; clear hq; rotate_right)
        | clear hq))
  all_goals simp [*]

@[simp] theorem Work.tableEffect_erase {ft : Part → Bool} (hp : ft .stop = true) (mv : Mover) (m : Nat) (w : Work) (f : Book → TableRec → Work → Effect × Work) (h_f : ∀ (y0 : Book) (y1 : TableRec) (y2 : Work), (f y0 y1 y2).2.erase ft = Work.erase ft y2) :
    (tableEffect mv m w f).2.erase ft = w.erase ft := by
  unfold tableEffect
  try dsimp only
  repeat' split
  all_goals first | with_reducible rfl | simp [hp, h_f]

@[simp] theorem Work.tblNormEffect_erase {ft : Part → Bool} (hp : ft .sent = true ∧ ft .pad = true ∧ ft .flash = true ∧ ft .sched = true ∧ ft .fns = true ∧ ft .rings = true ∧ ft .actives = true ∧ ft .pcieTx = true ∧ ft .ctxs = true ∧ ft .regions = true ∧ ft .hbm = true ∧ ft .pkgBytes = true ∧ ft .tiles = true ∧ ft .phys = true ∧ ft .nextTag = true ∧ ft .partials = true ∧ ft .mw = true ∧ ft .hw = true ∧ ft .stop = true) (u : List Upset) (mv : Mover) (m : Nat) (w : Work) :
    (tblNormEffect u mv m w).2.erase ft = w.erase ft := by
  unfold tblNormEffect
  repeat' first
    | with_reducible rfl
    | (extract_lets +onlyGivenNames x; first
        | (refine Work.erase_step (x := x) (w := w) (ft := ft) ?_ (fun hx => ?_); subst x; rotate_left; clear_value x; rotate_right)
        | (have _t : State := x; clear _t; subst x)
        | (have _t : Work → Work := x; clear _t; subst x)
        | (have _t : Nat → Work → Work := x; clear _t; subst x)
        | (have _t : Work → Nat → Work := x; clear _t; subst x)
        | (have _t : Work → (Resident → Resident) → Work := x; clear _t; subst x)
        | clear_value x)
    | (with_reducible refine (Work.erase_each _ _ _ (fun w _ => ?_)).trans ?_)
    | (with_reducible refine (Work.erase_fold2 _ _ _ (fun _ w _ => ?_)).trans ?_)
    | (with_reducible refine (Work.erase_fold3 _ _ _ (fun _ _ w _ => ?_)).trans ?_)
    | (with_reducible refine (Work.tableEffect_erase (by simp [hp]) _ _ _ _ (fun _ _ w => ?_)).trans ?_)
    | (split <;> try (rename_i hq; first
        | (with_reducible refine Work.erase_pair (w := w) (ft := ft) hq ?_ (fun hx => ?_); clear hq; rotate_left; clear hq; rotate_right)
        | (with_reducible refine Work.erase_triple (w := w) (ft := ft) hq ?_ (fun hx => ?_); clear hq; rotate_left; clear hq; rotate_right)
        | clear hq))
  all_goals simp [*]

@[simp] theorem Work.ctCloseEffect_erase {ft : Part → Bool} (hp : ft .sent = true ∧ ft .ctxs = true ∧ ft .stop = true) (mv : Mover) (m : Nat) (w : Work) :
    (ctCloseEffect mv m w).2.erase ft = w.erase ft := by
  unfold ctCloseEffect
  try dsimp only
  repeat' split
  all_goals first | with_reducible rfl | simp [hp]

@[simp] theorem Work.writeBuddy_erase {ft : Part → Bool} (hp : ft .sent = true ∧ ft .requests = true ∧ ft .nextTag = true) (w : Work) (c : Nat) (tag : Tag) (area off : Nat) (bs : List Byte) (owner : Owner) :
    (Work.writeBuddy w c tag area off bs owner).erase ft = w.erase ft := by
  unfold Work.writeBuddy
  repeat' first
    | with_reducible rfl
    | (extract_lets +onlyGivenNames x; first
        | (refine Work.erase_step (x := x) (w := w) (ft := ft) ?_ (fun hx => ?_); subst x; rotate_left; clear_value x; rotate_right)
        | (have _t : State := x; clear _t; subst x)
        | (have _t : Work → Work := x; clear _t; subst x)
        | (have _t : Nat → Work → Work := x; clear _t; subst x)
        | (have _t : Work → Nat → Work := x; clear _t; subst x)
        | (have _t : Work → (Resident → Resident) → Work := x; clear _t; subst x)
        | clear_value x)
    | (with_reducible refine (Work.erase_each _ _ _ (fun w _ => ?_)).trans ?_)
    | (with_reducible refine (Work.erase_fold2 _ _ _ (fun _ w _ => ?_)).trans ?_)
    | (with_reducible refine (Work.erase_fold3 _ _ _ (fun _ _ w _ => ?_)).trans ?_)
    | (split <;> try (rename_i hq; first
        | (with_reducible refine Work.erase_pair (w := w) (ft := ft) hq ?_ (fun hx => ?_); clear hq; rotate_left; clear hq; rotate_right)
        | (with_reducible refine Work.erase_triple (w := w) (ft := ft) hq ?_ (fun hx => ?_); clear hq; rotate_left; clear hq; rotate_right)
        | clear hq))
  all_goals simp [*]

@[simp] theorem Work.sendStaging_erase {ft : Part → Bool} (hp : ft .sent = true ∧ ft .requests = true ∧ ft .nextTag = true) (w : Work) (mv : Mover) (off : Nat) (bs : List Byte) :
    (Work.sendStaging w mv off bs).erase ft = w.erase ft := by
  unfold Work.sendStaging
  try dsimp only
  repeat' split
  all_goals first | with_reducible rfl | simp [hp]

@[simp] theorem Work.ratesOf_erase {ft : Part → Bool} (hp : ft .sent = true ∧ ft .pad = true ∧ ft .flash = true ∧ ft .sched = true ∧ ft .fns = true ∧ ft .rings = true ∧ ft .actives = true ∧ ft .pcieTx = true ∧ ft .ctxs = true ∧ ft .regions = true ∧ ft .hbm = true ∧ ft .pkgBytes = true ∧ ft .tiles = true ∧ ft .phys = true ∧ ft .nextTag = true ∧ ft .mw = true ∧ ft .hw = true) (w : Work) (mv : Mover) (b : Book) (k : Nat) (u : List Upset) :
    (Work.ratesOf w mv b k u).2.erase ft = w.erase ft := by
  unfold Work.ratesOf
  repeat' first
    | with_reducible rfl
    | (extract_lets +onlyGivenNames x; first
        | (refine Work.erase_step (x := x) (w := w) (ft := ft) ?_ (fun hx => ?_); subst x; rotate_left; clear_value x; rotate_right)
        | (have _t : State := x; clear _t; subst x)
        | (have _t : Work → Work := x; clear _t; subst x)
        | (have _t : Nat → Work → Work := x; clear _t; subst x)
        | (have _t : Work → Nat → Work := x; clear _t; subst x)
        | (have _t : Work → (Resident → Resident) → Work := x; clear _t; subst x)
        | clear_value x)
    | (with_reducible refine (Work.erase_each _ _ _ (fun w _ => ?_)).trans ?_)
    | (with_reducible refine (Work.erase_fold2 _ _ _ (fun _ w _ => ?_)).trans ?_)
    | (with_reducible refine (Work.erase_fold3 _ _ _ (fun _ _ w _ => ?_)).trans ?_)
    | (split <;> try (rename_i hq; first
        | (with_reducible refine Work.erase_pair (w := w) (ft := ft) hq ?_ (fun hx => ?_); clear hq; rotate_left; clear hq; rotate_right)
        | (with_reducible refine Work.erase_triple (w := w) (ft := ft) hq ?_ (fun hx => ?_); clear hq; rotate_left; clear hq; rotate_right)
        | clear hq))
  all_goals simp [*]

@[simp] theorem Work.updMismatch_erase {ft : Part → Bool} (hp : ft .sent = true ∧ ft .pad = true ∧ ft .flash = true ∧ ft .sched = true ∧ ft .fns = true ∧ ft .rings = true ∧ ft .actives = true ∧ ft .pcieTx = true ∧ ft .ctxs = true ∧ ft .regions = true ∧ ft .tiles = true ∧ ft .retiring = true ∧ ft .mw = true ∧ ft .hw = true) (w : Work) (mv : Mover) (item : Nat) :
    (Work.updMismatch w mv item).erase ft = w.erase ft := by
  unfold Work.updMismatch
  try dsimp only
  repeat' split
  all_goals first | with_reducible rfl | simp [hp]

@[simp] theorem Work.writePiece_erase {ft : Part → Bool} (hp : ft .sent = true ∧ ft .pad = true ∧ ft .flash = true ∧ ft .sched = true ∧ ft .fns = true ∧ ft .rings = true ∧ ft .actives = true ∧ ft .pcieTx = true ∧ ft .ctxs = true ∧ ft .regions = true ∧ ft .hbm = true ∧ ft .pkgBytes = true ∧ ft .tiles = true ∧ ft .phys = true ∧ ft .retiring = true ∧ ft .requests = true ∧ ft .nextTag = true ∧ ft .mw = true ∧ ft .hw = true) (w : Work) (mv : Mover) (p : Piece) (at_ : Nat) (bs : List Byte) (u : List Upset) (f : Work → Work) (h_f : ∀ (y0 : Work), (f y0).erase ft = Work.erase ft y0) :
    (Work.writePiece w mv p at_ bs u f).2.erase ft = w.erase ft := by
  unfold Work.writePiece
  repeat' first
    | with_reducible rfl
    | (extract_lets +onlyGivenNames x; first
        | (refine Work.erase_step (x := x) (w := w) (ft := ft) ?_ (fun hx => ?_); subst x; rotate_left; clear_value x; rotate_right)
        | (have _t : State := x; clear _t; subst x)
        | (have _t : Work → Work := x; clear _t; subst x)
        | (have _t : Nat → Work → Work := x; clear _t; subst x)
        | (have _t : Work → Nat → Work := x; clear _t; subst x)
        | (have _t : Work → (Resident → Resident) → Work := x; clear _t; subst x)
        | clear_value x)
    | (with_reducible refine (Work.erase_each _ _ _ (fun w _ => ?_)).trans ?_)
    | (with_reducible refine (Work.erase_fold2 _ _ _ (fun _ w _ => ?_)).trans ?_)
    | (with_reducible refine (Work.erase_fold3 _ _ _ (fun _ _ w _ => ?_)).trans ?_)
    | (split <;> try (rename_i hq; first
        | (with_reducible refine Work.erase_pair (w := w) (ft := ft) hq ?_ (fun hx => ?_); clear hq; rotate_left; clear hq; rotate_right)
        | (with_reducible refine Work.erase_triple (w := w) (ft := ft) hq ?_ (fun hx => ?_); clear hq; rotate_left; clear hq; rotate_right)
        | clear hq))
  all_goals simp [*]

@[simp] theorem Work.applyPiece_erase {ft : Part → Bool} (hp : ft .sent = true ∧ ft .pad = true ∧ ft .flash = true ∧ ft .sched = true ∧ ft .fns = true ∧ ft .rings = true ∧ ft .actives = true ∧ ft .pcieTx = true ∧ ft .ctxs = true ∧ ft .regions = true ∧ ft .hbm = true ∧ ft .pkgBytes = true ∧ ft .tiles = true ∧ ft .phys = true ∧ ft .retiring = true ∧ ft .requests = true ∧ ft .nextTag = true ∧ ft .mw = true ∧ ft .hw = true) (w : Work) (mv : Mover) (b : Book) (h : TensorHead) (r : List Byte) (p : Piece) (u : List Upset) :
    (Work.applyPiece w mv b h r p u).2.erase ft = w.erase ft := by
  unfold Work.applyPiece
  repeat' first
    | with_reducible rfl
    | (extract_lets +onlyGivenNames x; first
        | (refine Work.erase_step (x := x) (w := w) (ft := ft) ?_ (fun hx => ?_); subst x; rotate_left; clear_value x; rotate_right)
        | (have _t : State := x; clear _t; subst x)
        | (have _t : Work → Work := x; clear _t; subst x)
        | (have _t : Nat → Work → Work := x; clear _t; subst x)
        | (have _t : Work → Nat → Work := x; clear _t; subst x)
        | (have _t : Work → (Resident → Resident) → Work := x; clear _t; subst x)
        | clear_value x)
    | (with_reducible refine (Work.erase_each _ _ _ (fun w _ => ?_)).trans ?_)
    | (with_reducible refine (Work.erase_fold2 _ _ _ (fun _ w _ => ?_)).trans ?_)
    | (with_reducible refine (Work.erase_fold3 _ _ _ (fun _ _ w _ => ?_)).trans ?_)
    | (with_reducible refine (Work.writePiece_erase (by simp [hp]) _ _ _ _ _ _ _ (fun w => ?_)).trans ?_)
    | (split <;> try (rename_i hq; first
        | (with_reducible refine Work.erase_pair (w := w) (ft := ft) hq ?_ (fun hx => ?_); clear hq; rotate_left; clear hq; rotate_right)
        | (with_reducible refine Work.erase_triple (w := w) (ft := ft) hq ?_ (fun hx => ?_); clear hq; rotate_left; clear hq; rotate_right)
        | clear hq))
  all_goals simp [*]

@[simp] theorem Work.updApplyEffect_erase {ft : Part → Bool} (hp : ft .sent = true ∧ ft .pad = true ∧ ft .flash = true ∧ ft .sched = true ∧ ft .fns = true ∧ ft .rings = true ∧ ft .actives = true ∧ ft .pcieTx = true ∧ ft .ctxs = true ∧ ft .regions = true ∧ ft .hbm = true ∧ ft .pkgBytes = true ∧ ft .tiles = true ∧ ft .phys = true ∧ ft .retiring = true ∧ ft .requests = true ∧ ft .nextTag = true ∧ ft .mw = true ∧ ft .hw = true ∧ ft .stop = true) (u : List Upset) (mv : Mover) (m : Nat) (w : Work) :
    (updApplyEffect u mv m w).2.erase ft = w.erase ft := by
  unfold updApplyEffect
  repeat' first
    | with_reducible rfl
    | (extract_lets +onlyGivenNames x; first
        | (refine Work.erase_step (x := x) (w := w) (ft := ft) ?_ (fun hx => ?_); subst x; rotate_left; clear_value x; rotate_right)
        | (have _t : State := x; clear _t; subst x)
        | (have _t : Work → Work := x; clear _t; subst x)
        | (have _t : Nat → Work → Work := x; clear _t; subst x)
        | (have _t : Work → Nat → Work := x; clear _t; subst x)
        | (have _t : Work → (Resident → Resident) → Work := x; clear _t; subst x)
        | clear_value x)
    | (with_reducible refine (Work.erase_each _ _ _ (fun w _ => ?_)).trans ?_)
    | (with_reducible refine (Work.erase_fold2 _ _ _ (fun _ w _ => ?_)).trans ?_)
    | (with_reducible refine (Work.erase_fold3 _ _ _ (fun _ _ w _ => ?_)).trans ?_)
    | (with_reducible refine (Work.steps_erase _ _ _ (fun w _ => ?_)).trans ?_)
    | (with_reducible refine (Work.pieceEffect_erase (by simp [hp]) _ _ _ _ (fun _ _ w => ?_)).trans ?_)
    | (split <;> try (rename_i hq; first
        | (with_reducible refine Work.erase_pair (w := w) (ft := ft) hq ?_ (fun hx => ?_); clear hq; rotate_left; clear hq; rotate_right)
        | (with_reducible refine Work.erase_triple (w := w) (ft := ft) hq ?_ (fun hx => ?_); clear hq; rotate_left; clear hq; rotate_right)
        | clear hq))
  all_goals simp [*]

@[simp] theorem Work.retierItems_erase {ft : Part → Bool} (hp : ft .sent = true ∧ ft .pad = true ∧ ft .flash = true ∧ ft .sched = true ∧ ft .fns = true ∧ ft .rings = true ∧ ft .actives = true ∧ ft .pcieTx = true ∧ ft .ctxs = true ∧ ft .regions = true ∧ ft .hbm = true ∧ ft .pkgBytes = true ∧ ft .tiles = true ∧ ft .phys = true ∧ ft .nextTag = true ∧ ft .mw = true ∧ ft .hw = true) (w : Work) (mv : Mover) (h : Nat) (t : TableRec) (u : List Upset) :
    (Work.retierItems w mv h t u).2.erase ft = w.erase ft := by
  unfold Work.retierItems
  repeat' first
    | with_reducible rfl
    | (extract_lets +onlyGivenNames x; first
        | (refine Work.erase_step (x := x) (w := w) (ft := ft) ?_ (fun hx => ?_); subst x; rotate_left; clear_value x; rotate_right)
        | (have _t : State := x; clear _t; subst x)
        | (have _t : Work → Work := x; clear _t; subst x)
        | (have _t : Nat → Work → Work := x; clear _t; subst x)
        | (have _t : Work → Nat → Work := x; clear _t; subst x)
        | (have _t : Work → (Resident → Resident) → Work := x; clear _t; subst x)
        | clear_value x)
    | (with_reducible refine (Work.erase_each _ _ _ (fun w _ => ?_)).trans ?_)
    | (with_reducible refine (Work.erase_fold2 _ _ _ (fun _ w _ => ?_)).trans ?_)
    | (with_reducible refine (Work.erase_fold3 _ _ _ (fun _ _ w _ => ?_)).trans ?_)
    | (split <;> try (rename_i hq; first
        | (with_reducible refine Work.erase_pair (w := w) (ft := ft) hq ?_ (fun hx => ?_); clear hq; rotate_left; clear hq; rotate_right)
        | (with_reducible refine Work.erase_triple (w := w) (ft := ft) hq ?_ (fun hx => ?_); clear hq; rotate_left; clear hq; rotate_right)
        | clear hq))
  all_goals simp [*]

@[simp] theorem Work.countCopy_erase {ft : Part → Bool} (hp : ft .regions = true) (w : Work) (r : Nat) (moved : Bool) :
    (Work.countCopy w r moved).erase ft = w.erase ft := by
  unfold Work.countCopy
  try dsimp only
  repeat' split
  all_goals first | with_reducible rfl | simp [hp]

@[simp] theorem Work.journalRow_erase {ft : Part → Bool} (hp : ft .sent = true ∧ ft .pad = true ∧ ft .flash = true ∧ ft .sched = true ∧ ft .fns = true ∧ ft .rings = true ∧ ft .actives = true ∧ ft .pcieTx = true ∧ ft .ctxs = true ∧ ft .regions = true ∧ ft .hbm = true ∧ ft .pkgBytes = true ∧ ft .tiles = true ∧ ft .phys = true ∧ ft .requests = true ∧ ft .nextTag = true ∧ ft .journal = true ∧ ft .mw = true ∧ ft .hw = true) (w : Work) (mv : Mover) (h : Nat) (t : TableRec) (i : Nat) (u : List Upset) :
    (Work.journalRow w mv h t i u).2.erase ft = w.erase ft := by
  unfold Work.journalRow
  repeat' first
    | with_reducible rfl
    | (extract_lets +onlyGivenNames x; first
        | (refine Work.erase_step (x := x) (w := w) (ft := ft) ?_ (fun hx => ?_); subst x; rotate_left; clear_value x; rotate_right)
        | (have _t : State := x; clear _t; subst x)
        | (have _t : Work → Work := x; clear _t; subst x)
        | (have _t : Nat → Work → Work := x; clear _t; subst x)
        | (have _t : Work → Nat → Work := x; clear _t; subst x)
        | (have _t : Work → (Resident → Resident) → Work := x; clear _t; subst x)
        | clear_value x)
    | (with_reducible refine (Work.erase_each _ _ _ (fun w _ => ?_)).trans ?_)
    | (with_reducible refine (Work.erase_fold2 _ _ _ (fun _ w _ => ?_)).trans ?_)
    | (with_reducible refine (Work.erase_fold3 _ _ _ (fun _ _ w _ => ?_)).trans ?_)
    | (split <;> try (rename_i hq; first
        | (with_reducible refine Work.erase_pair (w := w) (ft := ft) hq ?_ (fun hx => ?_); clear hq; rotate_left; clear hq; rotate_right)
        | (with_reducible refine Work.erase_triple (w := w) (ft := ft) hq ?_ (fun hx => ?_); clear hq; rotate_left; clear hq; rotate_right)
        | clear hq))
  all_goals simp [*]

@[simp] theorem Work.updateRow_erase {ft : Part → Bool} (hp : ft .sent = true ∧ ft .pad = true ∧ ft .flash = true ∧ ft .sched = true ∧ ft .fns = true ∧ ft .rings = true ∧ ft .actives = true ∧ ft .pcieTx = true ∧ ft .ctxs = true ∧ ft .regions = true ∧ ft .hbm = true ∧ ft .pkgBytes = true ∧ ft .tiles = true ∧ ft .phys = true ∧ ft .retiring = true ∧ ft .requests = true ∧ ft .nextTag = true ∧ ft .journal = true ∧ ft .mw = true ∧ ft .hw = true) (w : Work) (mv : Mover) (h : Nat) (t : TableRec) (r : Rates) (stream clip : Nat) (u : List Upset) (i : Nat)
    (g : Option (List Byte)) (item : Option (Nat × Nat)) :
    (Work.updateRow w mv h t r stream clip u i g item).2.erase ft = w.erase ft := by
  unfold Work.updateRow
  repeat' first
    | with_reducible rfl
    | (extract_lets +onlyGivenNames x; first
        | (refine Work.erase_step (x := x) (w := w) (ft := ft) ?_ (fun hx => ?_); subst x; rotate_left; clear_value x; rotate_right)
        | (have _t : State := x; clear _t; subst x)
        | (have _t : Work → Work := x; clear _t; subst x)
        | (have _t : Nat → Work → Work := x; clear _t; subst x)
        | (have _t : Work → Nat → Work := x; clear _t; subst x)
        | (have _t : Work → (Resident → Resident) → Work := x; clear _t; subst x)
        | clear_value x)
    | (with_reducible refine (Work.erase_each _ _ _ (fun w _ => ?_)).trans ?_)
    | (with_reducible refine (Work.erase_fold2 _ _ _ (fun _ w _ => ?_)).trans ?_)
    | (with_reducible refine (Work.erase_fold3 _ _ _ (fun _ _ w _ => ?_)).trans ?_)
    | (split <;> try (rename_i hq; first
        | (with_reducible refine Work.erase_pair (w := w) (ft := ft) hq ?_ (fun hx => ?_); clear hq; rotate_left; clear hq; rotate_right)
        | (with_reducible refine Work.erase_triple (w := w) (ft := ft) hq ?_ (fun hx => ?_); clear hq; rotate_left; clear hq; rotate_right)
        | clear hq))
  all_goals simp [*]

@[simp] theorem Work.sendGradList_erase {ft : Part → Bool} (hp : ft .sent = true ∧ ft .requests = true ∧ ft .nextTag = true) (w : Work) (mv : Mover) (t : TableRec) (gs : List (Nat × List Byte)) :
    (Work.sendGradList w mv t gs).erase ft = w.erase ft := by
  unfold Work.sendGradList
  try dsimp only
  repeat' split
  all_goals first | with_reducible rfl | simp [hp]

@[simp] theorem Work.updateTable_erase {ft : Part → Bool} (hp : ft .sent = true ∧ ft .pad = true ∧ ft .flash = true ∧ ft .sched = true ∧ ft .fns = true ∧ ft .rings = true ∧ ft .actives = true ∧ ft .pcieTx = true ∧ ft .ctxs = true ∧ ft .regions = true ∧ ft .hbm = true ∧ ft .pkgBytes = true ∧ ft .tiles = true ∧ ft .phys = true ∧ ft .retiring = true ∧ ft .requests = true ∧ ft .nextTag = true ∧ ft .journal = true ∧ ft .retierDone = true ∧ ft .mw = true ∧ ft .hw = true ∧ ft .stop = true) (w : Work) (mv : Mover) (b : Book) (t : TableRec) (r : List Byte) (u : List Upset) :
    (Work.updateTable w mv b t r u).2.erase ft = w.erase ft := by
  unfold Work.updateTable
  repeat' first
    | with_reducible rfl
    | (extract_lets +onlyGivenNames x; first
        | (refine Work.erase_step (x := x) (w := w) (ft := ft) ?_ (fun hx => ?_); subst x; rotate_left; clear_value x; rotate_right)
        | (have _t : State := x; clear _t; subst x)
        | (have _t : Work → Work := x; clear _t; subst x)
        | (have _t : Nat → Work → Work := x; clear _t; subst x)
        | (have _t : Work → Nat → Work := x; clear _t; subst x)
        | (have _t : Work → (Resident → Resident) → Work := x; clear _t; subst x)
        | clear_value x)
    | (with_reducible refine (Work.erase_each _ _ _ (fun w _ => ?_)).trans ?_)
    | (with_reducible refine (Work.erase_fold2 _ _ _ (fun _ w _ => ?_)).trans ?_)
    | (with_reducible refine (Work.erase_fold3 _ _ _ (fun _ _ w _ => ?_)).trans ?_)
    | (with_reducible refine (Work.steps_erase _ _ _ (fun w _ => ?_)).trans ?_)
    | (split <;> try (rename_i hq; first
        | (with_reducible refine Work.erase_pair (w := w) (ft := ft) hq ?_ (fun hx => ?_); clear hq; rotate_left; clear hq; rotate_right)
        | (with_reducible refine Work.erase_triple (w := w) (ft := ft) hq ?_ (fun hx => ?_); clear hq; rotate_left; clear hq; rotate_right)
        | clear hq))
  all_goals simp [*]

@[simp] theorem Work.tblUpdateEffect_erase {ft : Part → Bool} (hp : ft .sent = true ∧ ft .pad = true ∧ ft .flash = true ∧ ft .sched = true ∧ ft .fns = true ∧ ft .rings = true ∧ ft .actives = true ∧ ft .pcieTx = true ∧ ft .ctxs = true ∧ ft .regions = true ∧ ft .hbm = true ∧ ft .pkgBytes = true ∧ ft .tiles = true ∧ ft .phys = true ∧ ft .retiring = true ∧ ft .requests = true ∧ ft .nextTag = true ∧ ft .journal = true ∧ ft .retierDone = true ∧ ft .mw = true ∧ ft .hw = true ∧ ft .stop = true) (u : List Upset) (mv : Mover) (m : Nat) (w : Work) :
    (tblUpdateEffect u mv m w).2.erase ft = w.erase ft := by
  unfold tblUpdateEffect
  repeat' first
    | with_reducible rfl
    | (extract_lets +onlyGivenNames x; first
        | (refine Work.erase_step (x := x) (w := w) (ft := ft) ?_ (fun hx => ?_); subst x; rotate_left; clear_value x; rotate_right)
        | (have _t : State := x; clear _t; subst x)
        | (have _t : Work → Work := x; clear _t; subst x)
        | (have _t : Nat → Work → Work := x; clear _t; subst x)
        | (have _t : Work → Nat → Work := x; clear _t; subst x)
        | (have _t : Work → (Resident → Resident) → Work := x; clear _t; subst x)
        | clear_value x)
    | (with_reducible refine (Work.erase_each _ _ _ (fun w _ => ?_)).trans ?_)
    | (with_reducible refine (Work.erase_fold2 _ _ _ (fun _ w _ => ?_)).trans ?_)
    | (with_reducible refine (Work.erase_fold3 _ _ _ (fun _ _ w _ => ?_)).trans ?_)
    | (with_reducible refine (Work.tableEffect_erase (by simp [hp]) _ _ _ _ (fun _ _ w => ?_)).trans ?_)
    | (split <;> try (rename_i hq; first
        | (with_reducible refine Work.erase_pair (w := w) (ft := ft) hq ?_ (fun hx => ?_); clear hq; rotate_left; clear hq; rotate_right)
        | (with_reducible refine Work.erase_triple (w := w) (ft := ft) hq ?_ (fun hx => ?_); clear hq; rotate_left; clear hq; rotate_right)
        | clear hq))
  all_goals simp [*]

@[simp] theorem Work.resumeMove_erase {ft : Part → Bool} (hp : ft .sent = true ∧ ft .pad = true ∧ ft .flash = true ∧ ft .sched = true ∧ ft .fns = true ∧ ft .rings = true ∧ ft .actives = true ∧ ft .pcieTx = true ∧ ft .ctxs = true ∧ ft .regions = true ∧ ft .hbm = true ∧ ft .pkgBytes = true ∧ ft .tiles = true ∧ ft .phys = true ∧ ft .retiring = true ∧ ft .requests = true ∧ ft .nextTag = true ∧ ft .journal = true ∧ ft .retierDone = true ∧ ft .skel = true ∧ ft .mw = true ∧ ft .hw = true ∧ ft .stop = true) (w : Work) (c n : Nat) (f : Flight) :
    (Work.resumeMove w c n f).erase ft = w.erase ft := by
  unfold Work.resumeMove
  repeat' first
    | with_reducible rfl
    | (extract_lets +onlyGivenNames x; first
        | (refine Work.erase_step (x := x) (w := w) (ft := ft) ?_ (fun hx => ?_); subst x; rotate_left; clear_value x; rotate_right)
        | (have _t : State := x; clear _t; subst x)
        | (have _t : Work → Work := x; clear _t; subst x)
        | (have _t : Nat → Work → Work := x; clear _t; subst x)
        | (have _t : Work → Nat → Work := x; clear _t; subst x)
        | (have _t : Work → (Resident → Resident) → Work := x; clear _t; subst x)
        | clear_value x)
    | (with_reducible refine (Work.erase_each _ _ _ (fun w _ => ?_)).trans ?_)
    | (with_reducible refine (Work.erase_fold2 _ _ _ (fun _ w _ => ?_)).trans ?_)
    | (with_reducible refine (Work.erase_fold3 _ _ _ (fun _ _ w _ => ?_)).trans ?_)
    | (split <;> try (rename_i hq; first
        | (with_reducible refine Work.erase_pair (w := w) (ft := ft) hq ?_ (fun hx => ?_); clear hq; rotate_left; clear hq; rotate_right)
        | (with_reducible refine Work.erase_triple (w := w) (ft := ft) hq ?_ (fun hx => ?_); clear hq; rotate_left; clear hq; rotate_right)
        | clear hq))
  all_goals simp [*]

@[simp] theorem Work.resumeUpdates_erase {ft : Part → Bool} (hp : ft .sent = true ∧ ft .pad = true ∧ ft .flash = true ∧ ft .sched = true ∧ ft .fns = true ∧ ft .rings = true ∧ ft .actives = true ∧ ft .pcieTx = true ∧ ft .ctxs = true ∧ ft .regions = true ∧ ft .hbm = true ∧ ft .pkgBytes = true ∧ ft .tiles = true ∧ ft .phys = true ∧ ft .retiring = true ∧ ft .requests = true ∧ ft .nextTag = true ∧ ft .journal = true ∧ ft .retierDone = true ∧ ft .skel = true ∧ ft .mw = true ∧ ft .hw = true ∧ ft .stop = true) (w : Work) (c : Nat) :
    (Work.resumeUpdates w c).erase ft = w.erase ft := by
  unfold Work.resumeUpdates
  repeat' first
    | with_reducible rfl
    | (extract_lets +onlyGivenNames x; first
        | (refine Work.erase_step (x := x) (w := w) (ft := ft) ?_ (fun hx => ?_); subst x; rotate_left; clear_value x; rotate_right)
        | (have _t : State := x; clear _t; subst x)
        | (have _t : Work → Work := x; clear _t; subst x)
        | (have _t : Nat → Work → Work := x; clear _t; subst x)
        | (have _t : Work → Nat → Work := x; clear _t; subst x)
        | (have _t : Work → (Resident → Resident) → Work := x; clear _t; subst x)
        | clear_value x)
    | (with_reducible refine (Work.erase_each _ _ _ (fun w _ => ?_)).trans ?_)
    | (with_reducible refine (Work.erase_fold2 _ _ _ (fun _ w _ => ?_)).trans ?_)
    | (with_reducible refine (Work.erase_fold3 _ _ _ (fun _ _ w _ => ?_)).trans ?_)
    | (split <;> try (rename_i hq; first
        | (with_reducible refine Work.erase_pair (w := w) (ft := ft) hq ?_ (fun hx => ?_); clear hq; rotate_left; clear hq; rotate_right)
        | (with_reducible refine Work.erase_triple (w := w) (ft := ft) hq ?_ (fun hx => ?_); clear hq; rotate_left; clear hq; rotate_right)
        | clear hq))
  all_goals simp [*]

@[simp] theorem Work.writeRecord_erase {ft : Part → Bool} (hp : ft .sent = true ∧ ft .pad = true ∧ ft .flash = true ∧ ft .sched = true ∧ ft .fns = true ∧ ft .rings = true ∧ ft .actives = true ∧ ft .pcieTx = true ∧ ft .ctxs = true ∧ ft .regions = true ∧ ft .hbm = true ∧ ft .pkgBytes = true ∧ ft .tiles = true ∧ ft .phys = true ∧ ft .requests = true ∧ ft .nextTag = true ∧ ft .mw = true ∧ ft .hw = true) (w : Work) (c : Nat) (b : Book) (r : List Byte) (u : List Upset) :
    (Work.writeRecord w c b r u).2.erase ft = w.erase ft := by
  unfold Work.writeRecord
  repeat' first
    | with_reducible rfl
    | (extract_lets +onlyGivenNames x; first
        | (refine Work.erase_step (x := x) (w := w) (ft := ft) ?_ (fun hx => ?_); subst x; rotate_left; clear_value x; rotate_right)
        | (have _t : State := x; clear _t; subst x)
        | (have _t : Work → Work := x; clear _t; subst x)
        | (have _t : Nat → Work → Work := x; clear _t; subst x)
        | (have _t : Work → Nat → Work := x; clear _t; subst x)
        | (have _t : Work → (Resident → Resident) → Work := x; clear _t; subst x)
        | clear_value x)
    | (with_reducible refine (Work.erase_each _ _ _ (fun w _ => ?_)).trans ?_)
    | (with_reducible refine (Work.erase_fold2 _ _ _ (fun _ w _ => ?_)).trans ?_)
    | (with_reducible refine (Work.erase_fold3 _ _ _ (fun _ _ w _ => ?_)).trans ?_)
    | (split <;> try (rename_i hq; first
        | (with_reducible refine Work.erase_pair (w := w) (ft := ft) hq ?_ (fun hx => ?_); clear hq; rotate_left; clear hq; rotate_right)
        | (with_reducible refine Work.erase_triple (w := w) (ft := ft) hq ?_ (fun hx => ?_); clear hq; rotate_left; clear hq; rotate_right)
        | clear hq))
  all_goals simp [*]

@[simp] theorem Work.newBuddy_erase {ft : Part → Bool} (hp : ft .ctxs = true) (w : Work) (c : Nat) :
    (Work.newBuddy w c).erase ft = w.erase ft := by
  unfold Work.newBuddy
  try dsimp only
  repeat' split
  all_goals first | with_reducible rfl | simp [hp]

@[simp] theorem Work.applyBoundary_erase {ft : Part → Bool} (hp : ft .sent = true ∧ ft .sched = true ∧ ft .ctxs = true ∧ ft .ports = true ∧ ft .form = true) (w : Work) :
    (Work.applyBoundary w).erase ft = w.erase ft := by
  unfold Work.applyBoundary
  repeat' first
    | with_reducible rfl
    | (extract_lets +onlyGivenNames x; first
        | (refine Work.erase_step (x := x) (w := w) (ft := ft) ?_ (fun hx => ?_); subst x; rotate_left; clear_value x; rotate_right)
        | (have _t : State := x; clear _t; subst x)
        | (have _t : Work → Work := x; clear _t; subst x)
        | (have _t : Nat → Work → Work := x; clear _t; subst x)
        | (have _t : Work → Nat → Work := x; clear _t; subst x)
        | (have _t : Work → (Resident → Resident) → Work := x; clear _t; subst x)
        | clear_value x)
    | (with_reducible refine (Work.erase_each _ _ _ (fun w _ => ?_)).trans ?_)
    | (with_reducible refine (Work.erase_fold2 _ _ _ (fun _ w _ => ?_)).trans ?_)
    | (with_reducible refine (Work.erase_fold3 _ _ _ (fun _ _ w _ => ?_)).trans ?_)
    | (split <;> try (rename_i hq; first
        | (with_reducible refine Work.erase_pair (w := w) (ft := ft) hq ?_ (fun hx => ?_); clear hq; rotate_left; clear hq; rotate_right)
        | (with_reducible refine Work.erase_triple (w := w) (ft := ft) hq ?_ (fun hx => ?_); clear hq; rotate_left; clear hq; rotate_right)
        | clear hq))
  all_goals simp [*]

@[simp] theorem Work.setMissing_erase {ft : Part → Bool} (hp : ft .sent = true ∧ ft .sched = true ∧ ft .ctxs = true ∧ ft .ports = true ∧ ft .form = true) (w : Work) (l : List Xyz) :
    (Work.setMissing w l).erase ft = w.erase ft := by
  unfold Work.setMissing
  try dsimp only
  repeat' split
  all_goals first | with_reducible rfl | simp [hp]

@[simp] theorem Work.changeMissing_erase {ft : Part → Bool} (hp : ft .sent = true ∧ ft .sched = true ∧ ft .ctxs = true ∧ ft .ports = true ∧ ft .form = true) (w : Work) (l : List Xyz) :
    (Work.changeMissing w l).erase ft = w.erase ft := by
  unfold Work.changeMissing
  try dsimp only
  repeat' split
  all_goals first | with_reducible rfl | simp [hp]

@[simp] theorem Work.decideTurn_erase {ft : Part → Bool} (hp : ft .sent = true ∧ ft .bank = true) (w : Work) (key : Nat) (d : Decision) (act : Work → Work) (h_act : ∀ (y0 : Work), (act y0).erase ft = Work.erase ft y0) :
    (Work.decideTurn w key d act).erase ft = w.erase ft := by
  unfold Work.decideTurn
  try dsimp only
  repeat' split
  all_goals first | with_reducible rfl | simp [hp, h_act]

@[simp] theorem Work.decideBy_erase {ft : Part → Bool} (hp : ft .sent = true ∧ ft .bank = true) (w : Work) (d : Decision) (act : Work → Work) (h_act : ∀ (y0 : Work), (act y0).erase ft = Work.erase ft y0) :
    (Work.decideBy w d act).erase ft = w.erase ft := by
  unfold Work.decideBy
  repeat' first
    | with_reducible rfl
    | (extract_lets +onlyGivenNames x; first
        | (refine Work.erase_step (x := x) (w := w) (ft := ft) ?_ (fun hx => ?_); subst x; rotate_left; clear_value x; rotate_right)
        | (have _t : State := x; clear _t; subst x)
        | (have _t : Work → Work := x; clear _t; subst x)
        | (have _t : Nat → Work → Work := x; clear _t; subst x)
        | (have _t : Work → Nat → Work := x; clear _t; subst x)
        | (have _t : Work → (Resident → Resident) → Work := x; clear _t; subst x)
        | clear_value x)
    | (with_reducible refine (Work.erase_each _ _ _ (fun w _ => ?_)).trans ?_)
    | (with_reducible refine (Work.erase_fold2 _ _ _ (fun _ w _ => ?_)).trans ?_)
    | (with_reducible refine (Work.erase_fold3 _ _ _ (fun _ _ w _ => ?_)).trans ?_)
    | (with_reducible refine (Work.decideTurn_erase (by simp [hp, h_act]) _ _ _ _ (fun w => ?_)).trans ?_)
    | (split <;> try (rename_i hq; first
        | (with_reducible refine Work.erase_pair (w := w) (ft := ft) hq ?_ (fun hx => ?_); clear hq; rotate_left; clear hq; rotate_right)
        | (with_reducible refine Work.erase_triple (w := w) (ft := ft) hq ?_ (fun hx => ?_); clear hq; rotate_left; clear hq; rotate_right)
        | clear hq))
  all_goals simp [*]

@[simp] theorem Work.answerAll_erase {ft : Part → Bool} (hp : ft .sent = true ∧ ft .fns = true ∧ ft .rings = true ∧ ft .actives = true ∧ ft .pcieTx = true ∧ ft .hw = true) (w : Work) (f : Await → Bool) (status reason p0 : Nat) :
    (Work.answerAll w f status reason p0).erase ft = w.erase ft := by
  unfold Work.answerAll
  try dsimp only
  repeat' split
  all_goals first | with_reducible rfl | simp [hp]

@[simp] theorem Work.stopJob_erase {ft : Part → Bool} (hp : ft .sent = true ∧ ft .pad = true ∧ ft .flash = true ∧ ft .sched = true ∧ ft .fns = true ∧ ft .rings = true ∧ ft .actives = true ∧ ft .pcieTx = true ∧ ft .ctxs = true ∧ ft .tiles = true ∧ ft .hw = true) (w : Work) (job : Nat) :
    (Work.stopJob w job).erase ft = w.erase ft := by
  unfold Work.stopJob
  try dsimp only
  repeat' split
  all_goals first | with_reducible rfl | simp [hp]

@[simp] theorem Work.takeRole_erase {ft : Part → Bool} (hp : ft .sent = true ∧ ft .sched = true ∧ ft .fns = true ∧ ft .form = true) (w : Work) (job : Nat) (rank : Xyz) :
    (Work.takeRole w job rank).erase ft = w.erase ft := by
  unfold Work.takeRole
  try dsimp only
  repeat' split
  all_goals first | with_reducible rfl | simp [hp]

@[simp] theorem Work.enactAssign_erase {ft : Part → Bool} (hp : ft .sent = true ∧ ft .pad = true ∧ ft .flash = true ∧ ft .sched = true ∧ ft .fns = true ∧ ft .rings = true ∧ ft .actives = true ∧ ft .pcieTx = true ∧ ft .ctxs = true ∧ ft .form = true ∧ ft .bank = true ∧ ft .jobs = true ∧ ft .hw = true) (w : Work) (job : Nat) (rank to_ : Xyz) :
    (Work.enactAssign w job rank to_).erase ft = w.erase ft := by
  unfold Work.enactAssign
  repeat' first
    | with_reducible rfl
    | (extract_lets +onlyGivenNames x; first
        | (refine Work.erase_step (x := x) (w := w) (ft := ft) ?_ (fun hx => ?_); subst x; rotate_left; clear_value x; rotate_right)
        | (have _t : State := x; clear _t; subst x)
        | (have _t : Work → Work := x; clear _t; subst x)
        | (have _t : Nat → Work → Work := x; clear _t; subst x)
        | (have _t : Work → Nat → Work := x; clear _t; subst x)
        | (have _t : Work → (Resident → Resident) → Work := x; clear _t; subst x)
        | clear_value x)
    | (with_reducible refine (Work.erase_each _ _ _ (fun w _ => ?_)).trans ?_)
    | (with_reducible refine (Work.erase_fold2 _ _ _ (fun _ w _ => ?_)).trans ?_)
    | (with_reducible refine (Work.erase_fold3 _ _ _ (fun _ _ w _ => ?_)).trans ?_)
    | (split <;> try (rename_i hq; first
        | (with_reducible refine Work.erase_pair (w := w) (ft := ft) hq ?_ (fun hx => ?_); clear hq; rotate_left; clear hq; rotate_right)
        | (with_reducible refine Work.erase_triple (w := w) (ft := ft) hq ?_ (fun hx => ?_); clear hq; rotate_left; clear hq; rotate_right)
        | clear hq))
  all_goals simp [*]

@[simp] theorem Work.enactLost_erase {ft : Part → Bool} (hp : ft .sent = true ∧ ft .free = true ∧ ft .pad = true ∧ ft .flash = true ∧ ft .sched = true ∧ ft .fns = true ∧ ft .rings = true ∧ ft .actives = true ∧ ft .pcieTx = true ∧ ft .ctxs = true ∧ ft .ports = true ∧ ft .form = true ∧ ft .bank = true ∧ ft .jobs = true ∧ ft .tiles = true ∧ ft .hw = true) (w : Work) (src : Xyz) :
    (Work.enactLost w src).erase ft = w.erase ft := by
  unfold Work.enactLost
  repeat' first
    | with_reducible rfl
    | (extract_lets +onlyGivenNames x; first
        | (refine Work.erase_step (x := x) (w := w) (ft := ft) ?_ (fun hx => ?_); subst x; rotate_left; clear_value x; rotate_right)
        | (have _t : State := x; clear _t; subst x)
        | (have _t : Work → Work := x; clear _t; subst x)
        | (have _t : Nat → Work → Work := x; clear _t; subst x)
        | (have _t : Work → Nat → Work := x; clear _t; subst x)
        | (have _t : Work → (Resident → Resident) → Work := x; clear _t; subst x)
        | clear_value x)
    | (with_reducible refine (Work.erase_each _ _ _ (fun w _ => ?_)).trans ?_)
    | (with_reducible refine (Work.erase_fold2 _ _ _ (fun _ w _ => ?_)).trans ?_)
    | (with_reducible refine (Work.erase_fold3 _ _ _ (fun _ _ w _ => ?_)).trans ?_)
    | (with_reducible refine (Work.decideBy_erase (by simp [hp]) _ _ _ (fun w => ?_)).trans ?_)
    | (split <;> try (rename_i hq; first
        | (with_reducible refine Work.erase_pair (w := w) (ft := ft) hq ?_ (fun hx => ?_); clear hq; rotate_left; clear hq; rotate_right)
        | (with_reducible refine Work.erase_triple (w := w) (ft := ft) hq ?_ (fun hx => ?_); clear hq; rotate_left; clear hq; rotate_right)
        | clear hq))
  all_goals simp [*]

@[simp] theorem Work.declareLost_erase {ft : Part → Bool} (hp : ft .sent = true ∧ ft .free = true ∧ ft .pad = true ∧ ft .flash = true ∧ ft .sched = true ∧ ft .fns = true ∧ ft .rings = true ∧ ft .actives = true ∧ ft .pcieTx = true ∧ ft .ctxs = true ∧ ft .ports = true ∧ ft .form = true ∧ ft .bank = true ∧ ft .jobs = true ∧ ft .tiles = true ∧ ft .hw = true) (w : Work) (src : Xyz) (cause : Nat) :
    (Work.declareLost w src cause).erase ft = w.erase ft := by
  unfold Work.declareLost
  repeat' first
    | with_reducible rfl
    | (extract_lets +onlyGivenNames x; first
        | (refine Work.erase_step (x := x) (w := w) (ft := ft) ?_ (fun hx => ?_); subst x; rotate_left; clear_value x; rotate_right)
        | (have _t : State := x; clear _t; subst x)
        | (have _t : Work → Work := x; clear _t; subst x)
        | (have _t : Nat → Work → Work := x; clear _t; subst x)
        | (have _t : Work → Nat → Work := x; clear _t; subst x)
        | (have _t : Work → (Resident → Resident) → Work := x; clear _t; subst x)
        | clear_value x)
    | (with_reducible refine (Work.erase_each _ _ _ (fun w _ => ?_)).trans ?_)
    | (with_reducible refine (Work.erase_fold2 _ _ _ (fun _ w _ => ?_)).trans ?_)
    | (with_reducible refine (Work.erase_fold3 _ _ _ (fun _ _ w _ => ?_)).trans ?_)
    | (with_reducible refine (Work.decideBy_erase (by simp [hp]) _ _ _ (fun w => ?_)).trans ?_)
    | (split <;> try (rename_i hq; first
        | (with_reducible refine Work.erase_pair (w := w) (ft := ft) hq ?_ (fun hx => ?_); clear hq; rotate_left; clear hq; rotate_right)
        | (with_reducible refine Work.erase_triple (w := w) (ft := ft) hq ?_ (fun hx => ?_); clear hq; rotate_left; clear hq; rotate_right)
        | clear hq))
  all_goals simp [*]

@[simp] theorem Work.broadcastCommit_erase {ft : Part → Bool} (hp : ft .sent = true ∧ ft .free = true ∧ ft .pad = true ∧ ft .flash = true ∧ ft .sched = true ∧ ft .fns = true ∧ ft .rings = true ∧ ft .actives = true ∧ ft .pcieTx = true ∧ ft .ctxs = true ∧ ft .ports = true ∧ ft .form = true ∧ ft .bank = true ∧ ft .jobs = true ∧ ft .tiles = true ∧ ft .hw = true) (w : Work) (key turn attempt : Nat) :
    (Work.broadcastCommit w key turn attempt).erase ft = w.erase ft := by
  unfold Work.broadcastCommit
  repeat' first
    | with_reducible rfl
    | (extract_lets +onlyGivenNames x; first
        | (refine Work.erase_step (x := x) (w := w) (ft := ft) ?_ (fun hx => ?_); subst x; rotate_left; clear_value x; rotate_right)
        | (have _t : State := x; clear _t; subst x)
        | (have _t : Work → Work := x; clear _t; subst x)
        | (have _t : Nat → Work → Work := x; clear _t; subst x)
        | (have _t : Work → Nat → Work := x; clear _t; subst x)
        | (have _t : Work → (Resident → Resident) → Work := x; clear _t; subst x)
        | clear_value x)
    | (with_reducible refine (Work.erase_each _ _ _ (fun w _ => ?_)).trans ?_)
    | (with_reducible refine (Work.erase_fold2 _ _ _ (fun _ w _ => ?_)).trans ?_)
    | (with_reducible refine (Work.erase_fold3 _ _ _ (fun _ _ w _ => ?_)).trans ?_)
    | (split <;> try (rename_i hq; first
        | (with_reducible refine Work.erase_pair (w := w) (ft := ft) hq ?_ (fun hx => ?_); clear hq; rotate_left; clear hq; rotate_right)
        | (with_reducible refine Work.erase_triple (w := w) (ft := ft) hq ?_ (fun hx => ?_); clear hq; rotate_left; clear hq; rotate_right)
        | clear hq))
  all_goals simp [*]

@[simp] theorem Work.broadcastCancel_erase {ft : Part → Bool} (hp : ft .sent = true ∧ ft .jobs = true) (w : Work) (key turn : Nat) :
    (Work.broadcastCancel w key turn).erase ft = w.erase ft := by
  unfold Work.broadcastCancel
  try dsimp only
  repeat' split
  all_goals first | with_reducible rfl | simp [hp]

@[simp] theorem Work.placed_erase {ft : Part → Bool} (hp : ft .sent = true ∧ ft .time = true ∧ ft .sched = true ∧ ft .form = true) (w : Work) (a : Assign) :
    (Work.placed w a).erase ft = w.erase ft := by
  unfold Work.placed
  try dsimp only
  repeat' split
  all_goals first | with_reducible rfl | simp [hp]

@[simp] theorem Work.nameStandby_erase {ft : Part → Bool} (hp : ft .sent = true ∧ ft .pad = true ∧ ft .flash = true ∧ ft .fns = true ∧ ft .form = true) (w : Work) (not_ : List Xyz) :
    (Work.nameStandby w not_).erase ft = w.erase ft := by
  unfold Work.nameStandby
  try dsimp only
  repeat' split
  all_goals first | with_reducible rfl | simp [hp]

@[simp] theorem Work.copyFormation_erase {ft : Part → Bool} (hp : ft .sent = true ∧ ft .bank = true) (w : Work) :
    (Work.copyFormation w).erase ft = w.erase ft := by
  unfold Work.copyFormation
  repeat' first
    | with_reducible rfl
    | (extract_lets +onlyGivenNames x; first
        | (refine Work.erase_step (x := x) (w := w) (ft := ft) ?_ (fun hx => ?_); subst x; rotate_left; clear_value x; rotate_right)
        | (have _t : State := x; clear _t; subst x)
        | (have _t : Work → Work := x; clear _t; subst x)
        | (have _t : Nat → Work → Work := x; clear _t; subst x)
        | (have _t : Work → Nat → Work := x; clear _t; subst x)
        | (have _t : Work → (Resident → Resident) → Work := x; clear _t; subst x)
        | clear_value x)
    | (with_reducible refine (Work.erase_each _ _ _ (fun w _ => ?_)).trans ?_)
    | (with_reducible refine (Work.erase_fold2 _ _ _ (fun _ w _ => ?_)).trans ?_)
    | (with_reducible refine (Work.erase_fold3 _ _ _ (fun _ _ w _ => ?_)).trans ?_)
    | (split <;> try (rename_i hq; first
        | (with_reducible refine Work.erase_pair (w := w) (ft := ft) hq ?_ (fun hx => ?_); clear hq; rotate_left; clear hq; rotate_right)
        | (with_reducible refine Work.erase_triple (w := w) (ft := ft) hq ?_ (fun hx => ?_); clear hq; rotate_left; clear hq; rotate_right)
        | clear hq))
  all_goals simp [*]

@[simp] theorem Work.formDone_erase {ft : Part → Bool} (hp : ft .sent = true ∧ ft .fns = true ∧ ft .rings = true ∧ ft .actives = true ∧ ft .pcieTx = true ∧ ft .bank = true ∧ ft .hw = true) (w : Work) :
    (Work.formDone w).erase ft = w.erase ft := by
  unfold Work.formDone
  try dsimp only
  repeat' split
  all_goals first | with_reducible rfl | simp [hp]

@[simp] theorem Work.enactFormed_erase {ft : Part → Bool} (hp : ft .sent = true ∧ ft .time = true ∧ ft .pad = true ∧ ft .flash = true ∧ ft .sched = true ∧ ft .fns = true ∧ ft .rings = true ∧ ft .actives = true ∧ ft .pcieTx = true ∧ ft .form = true ∧ ft .bank = true ∧ ft .hw = true) (w : Work) (ps : List Placed) (missing : List Xyz) :
    (Work.enactFormed w ps missing).erase ft = w.erase ft := by
  unfold Work.enactFormed
  repeat' first
    | with_reducible rfl
    | (extract_lets +onlyGivenNames x; first
        | (refine Work.erase_step (x := x) (w := w) (ft := ft) ?_ (fun hx => ?_); subst x; rotate_left; clear_value x; rotate_right)
        | (have _t : State := x; clear _t; subst x)
        | (have _t : Work → Work := x; clear _t; subst x)
        | (have _t : Nat → Work → Work := x; clear _t; subst x)
        | (have _t : Work → Nat → Work := x; clear _t; subst x)
        | (have _t : Work → (Resident → Resident) → Work := x; clear _t; subst x)
        | clear_value x)
    | (with_reducible refine (Work.erase_each _ _ _ (fun w _ => ?_)).trans ?_)
    | (with_reducible refine (Work.erase_fold2 _ _ _ (fun _ w _ => ?_)).trans ?_)
    | (with_reducible refine (Work.erase_fold3 _ _ _ (fun _ _ w _ => ?_)).trans ?_)
    | (split <;> try (rename_i hq; first
        | (with_reducible refine Work.erase_pair (w := w) (ft := ft) hq ?_ (fun hx => ?_); clear hq; rotate_left; clear hq; rotate_right)
        | (with_reducible refine Work.erase_triple (w := w) (ft := ft) hq ?_ (fun hx => ?_); clear hq; rotate_left; clear hq; rotate_right)
        | clear hq))
  all_goals simp [*]

@[simp] theorem Work.enactPlace_erase {ft : Part → Bool} (hp : ft .sent = true ∧ ft .sched = true ∧ ft .fns = true ∧ ft .rings = true ∧ ft .actives = true ∧ ft .pcieTx = true ∧ ft .form = true ∧ ft .bank = true ∧ ft .jobs = true ∧ ft .hw = true) (w : Work) (j : Job) :
    (Work.enactPlace w j).erase ft = w.erase ft := by
  unfold Work.enactPlace
  try dsimp only
  repeat' split
  all_goals first | with_reducible rfl | simp [hp]

@[simp] theorem Work.enactRemove_erase {ft : Part → Bool} (hp : ft .sent = true ∧ ft .sched = true ∧ ft .fns = true ∧ ft .rings = true ∧ ft .actives = true ∧ ft .pcieTx = true ∧ ft .form = true ∧ ft .bank = true ∧ ft .jobs = true ∧ ft .hw = true) (w : Work) (job : Nat) :
    (Work.enactRemove w job).erase ft = w.erase ft := by
  unfold Work.enactRemove
  repeat' first
    | with_reducible rfl
    | (extract_lets +onlyGivenNames x; first
        | (refine Work.erase_step (x := x) (w := w) (ft := ft) ?_ (fun hx => ?_); subst x; rotate_left; clear_value x; rotate_right)
        | (have _t : State := x; clear _t; subst x)
        | (have _t : Work → Work := x; clear _t; subst x)
        | (have _t : Nat → Work → Work := x; clear _t; subst x)
        | (have _t : Work → Nat → Work := x; clear _t; subst x)
        | (have _t : Work → (Resident → Resident) → Work := x; clear _t; subst x)
        | clear_value x)
    | (with_reducible refine (Work.erase_each _ _ _ (fun w _ => ?_)).trans ?_)
    | (with_reducible refine (Work.erase_fold2 _ _ _ (fun _ w _ => ?_)).trans ?_)
    | (with_reducible refine (Work.erase_fold3 _ _ _ (fun _ _ w _ => ?_)).trans ?_)
    | (split <;> try (rename_i hq; first
        | (with_reducible refine Work.erase_pair (w := w) (ft := ft) hq ?_ (fun hx => ?_); clear hq; rotate_left; clear hq; rotate_right)
        | (with_reducible refine Work.erase_triple (w := w) (ft := ft) hq ?_ (fun hx => ?_); clear hq; rotate_left; clear hq; rotate_right)
        | clear hq))
  all_goals simp [*]

@[simp] theorem Work.enactJoined_erase {ft : Part → Bool} (hp : ft .sent = true ∧ ft .sched = true ∧ ft .ctxs = true ∧ ft .ports = true ∧ ft .form = true ∧ ft .bank = true) (w : Work) (p : Placed) :
    (Work.enactJoined w p).erase ft = w.erase ft := by
  unfold Work.enactJoined
  repeat' first
    | with_reducible rfl
    | (extract_lets +onlyGivenNames x; first
        | (refine Work.erase_step (x := x) (w := w) (ft := ft) ?_ (fun hx => ?_); subst x; rotate_left; clear_value x; rotate_right)
        | (have _t : State := x; clear _t; subst x)
        | (have _t : Work → Work := x; clear _t; subst x)
        | (have _t : Nat → Work → Work := x; clear _t; subst x)
        | (have _t : Work → Nat → Work := x; clear _t; subst x)
        | (have _t : Work → (Resident → Resident) → Work := x; clear _t; subst x)
        | clear_value x)
    | (with_reducible refine (Work.erase_each _ _ _ (fun w _ => ?_)).trans ?_)
    | (with_reducible refine (Work.erase_fold2 _ _ _ (fun _ w _ => ?_)).trans ?_)
    | (with_reducible refine (Work.erase_fold3 _ _ _ (fun _ _ w _ => ?_)).trans ?_)
    | (split <;> try (rename_i hq; first
        | (with_reducible refine Work.erase_pair (w := w) (ft := ft) hq ?_ (fun hx => ?_); clear hq; rotate_left; clear hq; rotate_right)
        | (with_reducible refine Work.erase_triple (w := w) (ft := ft) hq ?_ (fun hx => ?_); clear hq; rotate_left; clear hq; rotate_right)
        | clear hq))
  all_goals simp [*]

@[simp] theorem Work.enactExclude_erase {ft : Part → Bool} (hp : ft .sent = true ∧ ft .fns = true ∧ ft .rings = true ∧ ft .actives = true ∧ ft .pcieTx = true ∧ ft .bank = true ∧ ft .hw = true) (w : Work) (at_ : Xyz) (out : Bool) :
    (Work.enactExclude w at_ out).erase ft = w.erase ft := by
  unfold Work.enactExclude
  try dsimp only
  repeat' split
  all_goals first | with_reducible rfl | simp [hp]

@[simp] theorem Work.enact_erase {ft : Part → Bool} (hp : ft .sent = true ∧ ft .free = true ∧ ft .time = true ∧ ft .pad = true ∧ ft .flash = true ∧ ft .sched = true ∧ ft .fns = true ∧ ft .rings = true ∧ ft .actives = true ∧ ft .pcieTx = true ∧ ft .ctxs = true ∧ ft .ports = true ∧ ft .form = true ∧ ft .bank = true ∧ ft .jobs = true ∧ ft .tiles = true ∧ ft .hw = true) (w : Work) (x0 : Decision) :
    (Work.enact w x0).erase ft = w.erase ft := by
  unfold Work.enact
  try dsimp only
  repeat' split
  all_goals first | with_reducible rfl | simp [hp]

theorem Work.placeStore_erase {ft : Part → Bool} (hp : ft .ctxs = true ∧ ft .mw = true) (w : Work) (c h n : Nat) {a : Nat} {b : Nat} {v : Work}
    (hw : Work.placeStore w c h n = some (a, b, v)) : v.erase ft = w.erase ft := by
  unfold Work.placeStore at hw
  split at hw
  split at hw
  · simp at hw
  · split at hw
    · simp at hw
    · rename_i h1
      split at hw
      · simp at hw
      · rename_i h2
        simp only [Option.some.injEq, Prod.mk.injEq] at hw
        rw [← hw.2.2, Work.takePages_erase hp _ _ _ _ _ h2, Work.takePages_erase hp _ _ _ _ _ h1]

@[simp] theorem Work.refuseBook_erase {ft : Part → Bool} (hp : ft .sent = true ∧ ft .pad = true ∧ ft .flash = true ∧ ft .fns = true ∧ ft .rings = true ∧ ft .actives = true ∧ ft .pcieTx = true ∧ ft .hw = true) (w : Work) (a : Active) (status reason : Nat) :
    (Work.refuseBook w a status reason).erase ft = w.erase ft := by
  unfold Work.refuseBook
  try dsimp only
  repeat' split
  all_goals first | with_reducible rfl | simp [hp]

@[simp] theorem Work.clearSavedOnce_erase {ft : Part → Bool} (hp : ft .mw = true) (w : Work) (c : Nat) :
    (Work.clearSavedOnce w c).erase ft = w.erase ft := by
  unfold Work.clearSavedOnce
  repeat' first
    | with_reducible rfl
    | (extract_lets +onlyGivenNames x; first
        | (refine Work.erase_step (x := x) (w := w) (ft := ft) ?_ (fun hx => ?_); subst x; rotate_left; clear_value x; rotate_right)
        | (have _t : State := x; clear _t; subst x)
        | (have _t : Work → Work := x; clear _t; subst x)
        | (have _t : Nat → Work → Work := x; clear _t; subst x)
        | (have _t : Work → Nat → Work := x; clear _t; subst x)
        | (have _t : Work → (Resident → Resident) → Work := x; clear _t; subst x)
        | clear_value x)
    | (with_reducible refine (Work.erase_each _ _ _ (fun w _ => ?_)).trans ?_)
    | (with_reducible refine (Work.erase_fold2 _ _ _ (fun _ w _ => ?_)).trans ?_)
    | (with_reducible refine (Work.erase_fold3 _ _ _ (fun _ _ w _ => ?_)).trans ?_)
    | (split <;> try (rename_i hq; first
        | (with_reducible refine Work.erase_pair (w := w) (ft := ft) hq ?_ (fun hx => ?_); clear hq; rotate_left; clear hq; rotate_right)
        | (with_reducible refine Work.erase_triple (w := w) (ft := ft) hq ?_ (fun hx => ?_); clear hq; rotate_left; clear hq; rotate_right)
        | clear hq))
  all_goals simp [*]

theorem Work.storeBook_erase {ft : Part → Bool} (hp : ft .ctxs = true ∧ ft .hbm = true ∧ ft .pkgBytes = true ∧ ft .tiles = true ∧ ft .phys = true ∧ ft .mw = true) (w : Work) (c h : Nat) (img : List Byte) (p q : Nat) {v : Work}
    (hw : Work.storeBook w c h img p q = some v) : v.erase ft = w.erase ft := by
  unfold Work.storeBook at hw
  dsimp only at hw
  split at hw
  · simp at hw
  · rename_i h1
    simp only [Option.some.injEq] at hw
    rw [← hw]
    simp [hp, Work.needLeaf_erase (ft := ft) (by simp [hp]) _ _ _ h1]

@[simp] theorem Work.keepJournals_erase {ft : Part → Bool} (hp : ft .ctxs = true) (w : Work) (c : Nat) (h : Nat) (b : Book) :
    (Work.keepJournals w c h b).erase ft = w.erase ft := by
  unfold Work.keepJournals
  repeat' first
    | with_reducible rfl
    | (extract_lets +onlyGivenNames x; first
        | (refine Work.erase_step (x := x) (w := w) (ft := ft) ?_ (fun hx => ?_); subst x; rotate_left; clear_value x; rotate_right)
        | (have _t : State := x; clear _t; subst x)
        | (have _t : Work → Work := x; clear _t; subst x)
        | (have _t : Nat → Work → Work := x; clear _t; subst x)
        | (have _t : Work → Nat → Work := x; clear _t; subst x)
        | (have _t : Work → (Resident → Resident) → Work := x; clear _t; subst x)
        | clear_value x)
    | (with_reducible refine (Work.erase_each _ _ _ (fun w _ => ?_)).trans ?_)
    | (with_reducible refine (Work.erase_fold2 _ _ _ (fun _ w _ => ?_)).trans ?_)
    | (with_reducible refine (Work.erase_fold3 _ _ _ (fun _ _ w _ => ?_)).trans ?_)
    | (split <;> try (rename_i hq; first
        | (with_reducible refine Work.erase_pair (w := w) (ft := ft) hq ?_ (fun hx => ?_); clear hq; rotate_left; clear hq; rotate_right)
        | (with_reducible refine Work.erase_triple (w := w) (ft := ft) hq ?_ (fun hx => ?_); clear hq; rotate_left; clear hq; rotate_right)
        | clear hq))
  all_goals simp [*]

@[simp] theorem Work.mirrorRange_erase {ft : Part → Bool} (hp : ft .sent = true ∧ ft .hbm = true ∧ ft .pkgBytes = true ∧ ft .phys = true ∧ ft .requests = true ∧ ft .nextTag = true) (w : Work) (c a n off : Nat) :
    (Work.mirrorRange w c a n off).erase ft = w.erase ft := by
  unfold Work.mirrorRange
  repeat' first
    | with_reducible rfl
    | (extract_lets +onlyGivenNames x; first
        | (refine Work.erase_step (x := x) (w := w) (ft := ft) ?_ (fun hx => ?_); subst x; rotate_left; clear_value x; rotate_right)
        | (have _t : State := x; clear _t; subst x)
        | (have _t : Work → Work := x; clear _t; subst x)
        | (have _t : Nat → Work → Work := x; clear _t; subst x)
        | (have _t : Work → Nat → Work := x; clear _t; subst x)
        | (have _t : Work → (Resident → Resident) → Work := x; clear _t; subst x)
        | clear_value x)
    | (with_reducible refine (Work.erase_each _ _ _ (fun w _ => ?_)).trans ?_)
    | (with_reducible refine (Work.erase_fold2 _ _ _ (fun _ w _ => ?_)).trans ?_)
    | (with_reducible refine (Work.erase_fold3 _ _ _ (fun _ _ w _ => ?_)).trans ?_)
    | (split <;> try (rename_i hq; first
        | (with_reducible refine Work.erase_pair (w := w) (ft := ft) hq ?_ (fun hx => ?_); clear hq; rotate_left; clear hq; rotate_right)
        | (with_reducible refine Work.erase_triple (w := w) (ft := ft) hq ?_ (fun hx => ?_); clear hq; rotate_left; clear hq; rotate_right)
        | clear hq))
  all_goals simp [*]

@[simp] theorem Work.copyToBuddy_erase {ft : Part → Bool} (hp : ft .sent = true ∧ ft .ctxs = true ∧ ft .hbm = true ∧ ft .pkgBytes = true ∧ ft .phys = true ∧ ft .requests = true ∧ ft .nextTag = true) (w : Work) (c : Nat) :
    (Work.copyToBuddy w c).erase ft = w.erase ft := by
  unfold Work.copyToBuddy
  repeat' first
    | with_reducible rfl
    | (extract_lets +onlyGivenNames x; first
        | (refine Work.erase_step (x := x) (w := w) (ft := ft) ?_ (fun hx => ?_); subst x; rotate_left; clear_value x; rotate_right)
        | (have _t : State := x; clear _t; subst x)
        | (have _t : Work → Work := x; clear _t; subst x)
        | (have _t : Nat → Work → Work := x; clear _t; subst x)
        | (have _t : Work → Nat → Work := x; clear _t; subst x)
        | (have _t : Work → (Resident → Resident) → Work := x; clear _t; subst x)
        | clear_value x)
    | (with_reducible refine (Work.erase_each _ _ _ (fun w _ => ?_)).trans ?_)
    | (with_reducible refine (Work.erase_fold2 _ _ _ (fun _ w _ => ?_)).trans ?_)
    | (with_reducible refine (Work.erase_fold3 _ _ _ (fun _ _ w _ => ?_)).trans ?_)
    | (split <;> try (rename_i hq; first
        | (with_reducible refine Work.erase_pair (w := w) (ft := ft) hq ?_ (fun hx => ?_); clear hq; rotate_left; clear hq; rotate_right)
        | (with_reducible refine Work.erase_triple (w := w) (ft := ft) hq ?_ (fun hx => ?_); clear hq; rotate_left; clear hq; rotate_right)
        | clear hq))
  all_goals simp [*]

@[simp] theorem Work.firstRun_erase {ft : Part → Bool} (hp : ft .ctxs = true) (w : Work) (c h : Nat) (b : Book) :
    (Work.firstRun w c h b).erase ft = w.erase ft := by
  unfold Work.firstRun
  try dsimp only
  repeat' split
  all_goals first | with_reducible rfl | simp [hp]

@[simp] theorem Work.freshTile_erase {ft : Part → Bool} (hp : ft .tiles = true ∧ ft .phys = true ∧ ft .skel = true ∧ ft .mw = true) (w : Work) (c : Nat) (n : Nat) (active : Bool) :
    (Work.freshTile w c n active).erase ft = w.erase ft := by
  unfold Work.freshTile
  repeat' first
    | with_reducible rfl
    | (extract_lets +onlyGivenNames x; first
        | (refine Work.erase_step (x := x) (w := w) (ft := ft) ?_ (fun hx => ?_); subst x; rotate_left; clear_value x; rotate_right)
        | (have _t : State := x; clear _t; subst x)
        | (have _t : Work → Work := x; clear _t; subst x)
        | (have _t : Nat → Work → Work := x; clear _t; subst x)
        | (have _t : Work → Nat → Work := x; clear _t; subst x)
        | (have _t : Work → (Resident → Resident) → Work := x; clear _t; subst x)
        | clear_value x)
    | (with_reducible refine (Work.erase_each _ _ _ (fun w _ => ?_)).trans ?_)
    | (with_reducible refine (Work.erase_fold2 _ _ _ (fun _ w _ => ?_)).trans ?_)
    | (with_reducible refine (Work.erase_fold3 _ _ _ (fun _ _ w _ => ?_)).trans ?_)
    | (split <;> try (rename_i hq; first
        | (with_reducible refine Work.erase_pair (w := w) (ft := ft) hq ?_ (fun hx => ?_); clear hq; rotate_left; clear hq; rotate_right)
        | (with_reducible refine Work.erase_triple (w := w) (ft := ft) hq ?_ (fun hx => ?_); clear hq; rotate_left; clear hq; rotate_right)
        | clear hq))
  all_goals simp [*]

@[simp] theorem Work.putWord_erase {ft : Part → Bool} (hp : ft .hbm = true ∧ ft .pkgBytes = true ∧ ft .phys = true ∧ ft .mw = true ∧ ft .stop = true) (w : Work) (n : Nat) (at_ : Nat) (bs : List Byte) :
    (Work.putWord w n at_ bs).erase ft = w.erase ft := by
  unfold Work.putWord
  repeat' first
    | with_reducible rfl
    | (extract_lets +onlyGivenNames x; first
        | (refine Work.erase_step (x := x) (w := w) (ft := ft) ?_ (fun hx => ?_); subst x; rotate_left; clear_value x; rotate_right)
        | (have _t : State := x; clear _t; subst x)
        | (have _t : Work → Work := x; clear _t; subst x)
        | (have _t : Nat → Work → Work := x; clear _t; subst x)
        | (have _t : Work → Nat → Work := x; clear _t; subst x)
        | (have _t : Work → (Resident → Resident) → Work := x; clear _t; subst x)
        | clear_value x)
    | (with_reducible refine (Work.erase_each _ _ _ (fun w _ => ?_)).trans ?_)
    | (with_reducible refine (Work.erase_fold2 _ _ _ (fun _ w _ => ?_)).trans ?_)
    | (with_reducible refine (Work.erase_fold3 _ _ _ (fun _ _ w _ => ?_)).trans ?_)
    | (split <;> try (rename_i hq; first
        | (with_reducible refine Work.erase_pair (w := w) (ft := ft) hq ?_ (fun hx => ?_); clear hq; rotate_left; clear hq; rotate_right)
        | (with_reducible refine Work.erase_triple (w := w) (ft := ft) hq ?_ (fun hx => ?_); clear hq; rotate_left; clear hq; rotate_right)
        | clear hq))
  all_goals simp [*]

@[simp] theorem Work.selectionWords_erase {ft : Part → Bool} (hp : ft .hbm = true ∧ ft .pkgBytes = true ∧ ft .phys = true ∧ ft .mw = true ∧ ft .stop = true) (w : Work) (b : Book) (n : Nat) :
    (Work.selectionWords w b n).erase ft = w.erase ft := by
  unfold Work.selectionWords
  try dsimp only
  repeat' split
  all_goals first | with_reducible rfl | simp [hp]

@[simp] theorem Work.keepWord_erase {ft : Part → Bool} (hp : ft .hbm = true ∧ ft .pkgBytes = true ∧ ft .phys = true ∧ ft .mw = true ∧ ft .stop = true) (w : Work) (c : Nat) (b : Book) (n : Nat) :
    (Work.keepWord w c b n).erase ft = w.erase ft := by
  unfold Work.keepWord
  try dsimp only
  repeat' split
  all_goals first | with_reducible rfl | simp [hp]

@[simp] theorem Work.cleanRows_erase {ft : Part → Bool} (hp : ft .sent = true ∧ ft .pad = true ∧ ft .flash = true ∧ ft .sched = true ∧ ft .fns = true ∧ ft .rings = true ∧ ft .actives = true ∧ ft .pcieTx = true ∧ ft .ctxs = true ∧ ft .regions = true ∧ ft .hbm = true ∧ ft .pkgBytes = true ∧ ft .tiles = true ∧ ft .phys = true ∧ ft .requests = true ∧ ft .nextTag = true ∧ ft .mw = true ∧ ft .hw = true) (w : Work) (c : Nat) (list : Nat) (dir : Nat) (n : Nat) :
    (Work.cleanRows w c list dir n).erase ft = w.erase ft := by
  unfold Work.cleanRows
  repeat' first
    | with_reducible rfl
    | (extract_lets +onlyGivenNames x; first
        | (refine Work.erase_step (x := x) (w := w) (ft := ft) ?_ (fun hx => ?_); subst x; rotate_left; clear_value x; rotate_right)
        | (have _t : State := x; clear _t; subst x)
        | (have _t : Work → Work := x; clear _t; subst x)
        | (have _t : Nat → Work → Work := x; clear _t; subst x)
        | (have _t : Work → Nat → Work := x; clear _t; subst x)
        | (have _t : Work → (Resident → Resident) → Work := x; clear _t; subst x)
        | clear_value x)
    | (with_reducible refine (Work.erase_each _ _ _ (fun w _ => ?_)).trans ?_)
    | (with_reducible refine (Work.erase_fold2 _ _ _ (fun _ w _ => ?_)).trans ?_)
    | (with_reducible refine (Work.erase_fold3 _ _ _ (fun _ _ w _ => ?_)).trans ?_)
    | (with_reducible refine (Work.steps_erase _ _ _ (fun w _ => ?_)).trans ?_)
    | (split <;> try (rename_i hq; first
        | (with_reducible refine Work.erase_pair (w := w) (ft := ft) hq ?_ (fun hx => ?_); clear hq; rotate_left; clear hq; rotate_right)
        | (with_reducible refine Work.erase_triple (w := w) (ft := ft) hq ?_ (fun hx => ?_); clear hq; rotate_left; clear hq; rotate_right)
        | clear hq))
  all_goals simp [*]

@[simp] theorem Work.cleanJournals_erase {ft : Part → Bool} (hp : ft .sent = true ∧ ft .pad = true ∧ ft .flash = true ∧ ft .sched = true ∧ ft .fns = true ∧ ft .rings = true ∧ ft .actives = true ∧ ft .pcieTx = true ∧ ft .ctxs = true ∧ ft .regions = true ∧ ft .hbm = true ∧ ft .pkgBytes = true ∧ ft .tiles = true ∧ ft .phys = true ∧ ft .requests = true ∧ ft .nextTag = true ∧ ft .journal = true ∧ ft .mw = true ∧ ft .hw = true) (w : Work) (c : Nat) :
    (Work.cleanJournals w c).erase ft = w.erase ft := by
  unfold Work.cleanJournals
  repeat' first
    | with_reducible rfl
    | (extract_lets +onlyGivenNames x; first
        | (refine Work.erase_step (x := x) (w := w) (ft := ft) ?_ (fun hx => ?_); subst x; rotate_left; clear_value x; rotate_right)
        | (have _t : State := x; clear _t; subst x)
        | (have _t : Work → Work := x; clear _t; subst x)
        | (have _t : Nat → Work → Work := x; clear _t; subst x)
        | (have _t : Work → Nat → Work := x; clear _t; subst x)
        | (have _t : Work → (Resident → Resident) → Work := x; clear _t; subst x)
        | clear_value x)
    | (with_reducible refine (Work.erase_each _ _ _ (fun w _ => ?_)).trans ?_)
    | (with_reducible refine (Work.erase_fold2 _ _ _ (fun _ w _ => ?_)).trans ?_)
    | (with_reducible refine (Work.erase_fold3 _ _ _ (fun _ _ w _ => ?_)).trans ?_)
    | (split <;> try (rename_i hq; first
        | (with_reducible refine Work.erase_pair (w := w) (ft := ft) hq ?_ (fun hx => ?_); clear hq; rotate_left; clear hq; rotate_right)
        | (with_reducible refine Work.erase_triple (w := w) (ft := ft) hq ?_ (fun hx => ?_); clear hq; rotate_left; clear hq; rotate_right)
        | clear hq))
  all_goals simp [*]

@[simp] theorem Work.prepare_erase {ft : Part → Bool} (hp : ft .sent = true ∧ ft .pad = true ∧ ft .flash = true ∧ ft .sched = true ∧ ft .fns = true ∧ ft .rings = true ∧ ft .actives = true ∧ ft .pcieTx = true ∧ ft .ctxs = true ∧ ft .regions = true ∧ ft .hbm = true ∧ ft .pkgBytes = true ∧ ft .tiles = true ∧ ft .phys = true ∧ ft .arrivals = true ∧ ft .lanesNow = true ∧ ft .requests = true ∧ ft .nextTag = true ∧ ft .resident = true ∧ ft .partials = true ∧ ft .journal = true ∧ ft .retierDone = true ∧ ft .skel = true ∧ ft .mw = true ∧ ft .hw = true ∧ ft .stop = true) (w : Work) (c h : Nat) (b : Book) :
    (Work.prepare w c h b).erase ft = w.erase ft := by
  unfold Work.prepare
  repeat' first
    | with_reducible rfl
    | (extract_lets +onlyGivenNames x; first
        | (refine Work.erase_step (x := x) (w := w) (ft := ft) ?_ (fun hx => ?_); subst x; rotate_left; clear_value x; rotate_right)
        | (have _t : State := x; clear _t; subst x)
        | (have _t : Work → Work := x; clear _t; subst x)
        | (have _t : Nat → Work → Work := x; clear _t; subst x)
        | (have _t : Work → Nat → Work := x; clear _t; subst x)
        | (have _t : Work → (Resident → Resident) → Work := x; clear _t; subst x)
        | clear_value x)
    | (with_reducible refine (Work.erase_each _ _ _ (fun w _ => ?_)).trans ?_)
    | (with_reducible refine (Work.erase_fold2 _ _ _ (fun _ w _ => ?_)).trans ?_)
    | (with_reducible refine (Work.erase_fold3 _ _ _ (fun _ _ w _ => ?_)).trans ?_)
    | (split <;> try (rename_i hq; first
        | (with_reducible refine Work.erase_pair (w := w) (ft := ft) hq ?_ (fun hx => ?_); clear hq; rotate_left; clear hq; rotate_right)
        | (with_reducible refine Work.erase_triple (w := w) (ft := ft) hq ?_ (fun hx => ?_); clear hq; rotate_left; clear hq; rotate_right)
        | clear hq))
  all_goals simp [*]

@[simp] theorem Work.report_erase {ft : Part → Bool} (hp : ft .sent = true ∧ ft .ctxs = true ∧ ft .form = true) (w : Work) (c : Nat) :
    (Work.report w c).erase ft = w.erase ft := by
  unfold Work.report
  repeat' first
    | with_reducible rfl
    | (extract_lets +onlyGivenNames x; first
        | (refine Work.erase_step (x := x) (w := w) (ft := ft) ?_ (fun hx => ?_); subst x; rotate_left; clear_value x; rotate_right)
        | (have _t : State := x; clear _t; subst x)
        | (have _t : Work → Work := x; clear _t; subst x)
        | (have _t : Nat → Work → Work := x; clear _t; subst x)
        | (have _t : Work → Nat → Work := x; clear _t; subst x)
        | (have _t : Work → (Resident → Resident) → Work := x; clear _t; subst x)
        | clear_value x)
    | (with_reducible refine (Work.erase_each _ _ _ (fun w _ => ?_)).trans ?_)
    | (with_reducible refine (Work.erase_fold2 _ _ _ (fun _ w _ => ?_)).trans ?_)
    | (with_reducible refine (Work.erase_fold3 _ _ _ (fun _ _ w _ => ?_)).trans ?_)
    | (split <;> try (rename_i hq; first
        | (with_reducible refine Work.erase_pair (w := w) (ft := ft) hq ?_ (fun hx => ?_); clear hq; rotate_left; clear hq; rotate_right)
        | (with_reducible refine Work.erase_triple (w := w) (ft := ft) hq ?_ (fun hx => ?_); clear hq; rotate_left; clear hq; rotate_right)
        | clear hq))
  all_goals simp [*]

@[simp] theorem Work.startCopy_erase {ft : Part → Bool} (hp : ft .sent = true ∧ ft .ctxs = true ∧ ft .hbm = true ∧ ft .pkgBytes = true ∧ ft .phys = true ∧ ft .requests = true ∧ ft .nextTag = true) (w : Work) (c h : Nat) (b : Book) :
    (Work.startCopy w c h b).erase ft = w.erase ft := by
  unfold Work.startCopy
  try dsimp only
  repeat' split
  all_goals first | with_reducible rfl | simp [hp]

@[simp] theorem Work.abandon_erase {ft : Part → Bool} (hp : ft .regions = true ∧ ft .tiles = true ∧ ft .arrivals = true ∧ ft .requests = true ∧ ft .resident = true ∧ ft .skel = true) (w : Work) (c : Nat) :
    (Work.abandon w c).erase ft = w.erase ft := by
  unfold Work.abandon
  repeat' first
    | with_reducible rfl
    | (extract_lets +onlyGivenNames x; first
        | (refine Work.erase_step (x := x) (w := w) (ft := ft) ?_ (fun hx => ?_); subst x; rotate_left; clear_value x; rotate_right)
        | (have _t : State := x; clear _t; subst x)
        | (have _t : Work → Work := x; clear _t; subst x)
        | (have _t : Nat → Work → Work := x; clear _t; subst x)
        | (have _t : Work → Nat → Work := x; clear _t; subst x)
        | (have _t : Work → (Resident → Resident) → Work := x; clear _t; subst x)
        | clear_value x)
    | (with_reducible refine (Work.erase_each _ _ _ (fun w _ => ?_)).trans ?_)
    | (with_reducible refine (Work.erase_fold2 _ _ _ (fun _ w _ => ?_)).trans ?_)
    | (with_reducible refine (Work.erase_fold3 _ _ _ (fun _ _ w _ => ?_)).trans ?_)
    | (split <;> try (rename_i hq; first
        | (with_reducible refine Work.erase_pair (w := w) (ft := ft) hq ?_ (fun hx => ?_); clear hq; rotate_left; clear hq; rotate_right)
        | (with_reducible refine Work.erase_triple (w := w) (ft := ft) hq ?_ (fun hx => ?_); clear hq; rotate_left; clear hq; rotate_right)
        | clear hq))
  all_goals simp [*]

@[simp] theorem Work.limitLost_erase {ft : Part → Bool} (hp : ft .sent = true ∧ ft .pad = true ∧ ft .flash = true ∧ ft .sched = true ∧ ft .fns = true ∧ ft .rings = true ∧ ft .actives = true ∧ ft .pcieTx = true ∧ ft .ctxs = true ∧ ft .tiles = true ∧ ft .hw = true) (w : Work) (c : Nat) :
    (Work.limitLost w c).erase ft = w.erase ft := by
  unfold Work.limitLost
  try dsimp only
  repeat' split
  all_goals first | with_reducible rfl | simp [hp]

@[simp] theorem Work.countTallyReplay_erase {ft : Part → Bool} (hp : ft .sent = true ∧ ft .pad = true ∧ ft .flash = true ∧ ft .sched = true ∧ ft .fns = true ∧ ft .rings = true ∧ ft .actives = true ∧ ft .pcieTx = true ∧ ft .ctxs = true ∧ ft .tiles = true ∧ ft .hw = true) (w : Work) (c : Nat) (attempt : Nat) :
    (Work.countTallyReplay w c attempt).erase ft = w.erase ft := by
  unfold Work.countTallyReplay
  repeat' first
    | with_reducible rfl
    | (extract_lets +onlyGivenNames x; first
        | (refine Work.erase_step (x := x) (w := w) (ft := ft) ?_ (fun hx => ?_); subst x; rotate_left; clear_value x; rotate_right)
        | (have _t : State := x; clear _t; subst x)
        | (have _t : Work → Work := x; clear _t; subst x)
        | (have _t : Nat → Work → Work := x; clear _t; subst x)
        | (have _t : Work → Nat → Work := x; clear _t; subst x)
        | (have _t : Work → (Resident → Resident) → Work := x; clear _t; subst x)
        | clear_value x)
    | (with_reducible refine (Work.erase_each _ _ _ (fun w _ => ?_)).trans ?_)
    | (with_reducible refine (Work.erase_fold2 _ _ _ (fun _ w _ => ?_)).trans ?_)
    | (with_reducible refine (Work.erase_fold3 _ _ _ (fun _ _ w _ => ?_)).trans ?_)
    | (split <;> try (rename_i hq; first
        | (with_reducible refine Work.erase_pair (w := w) (ft := ft) hq ?_ (fun hx => ?_); clear hq; rotate_left; clear hq; rotate_right)
        | (with_reducible refine Work.erase_triple (w := w) (ft := ft) hq ?_ (fun hx => ?_); clear hq; rotate_left; clear hq; rotate_right)
        | clear hq))
  all_goals simp [*]

@[simp] theorem Work.replayRunning_erase {ft : Part → Bool} (hp : ft .sent = true ∧ ft .pad = true ∧ ft .flash = true ∧ ft .sched = true ∧ ft .fns = true ∧ ft .rings = true ∧ ft .actives = true ∧ ft .pcieTx = true ∧ ft .ctxs = true ∧ ft .regions = true ∧ ft .hbm = true ∧ ft .tiles = true ∧ ft .arrivals = true ∧ ft .retiring = true ∧ ft .requests = true ∧ ft .resident = true ∧ ft .skel = true ∧ ft .mw = true ∧ ft .hw = true) (w : Work) (c : Nat) (attempt : Nat) (cause : Nat) :
    (Work.replayRunning w c attempt cause).erase ft = w.erase ft := by
  unfold Work.replayRunning
  repeat' first
    | with_reducible rfl
    | (extract_lets +onlyGivenNames x; first
        | (refine Work.erase_step (x := x) (w := w) (ft := ft) ?_ (fun hx => ?_); subst x; rotate_left; clear_value x; rotate_right)
        | (have _t : State := x; clear _t; subst x)
        | (have _t : Work → Work := x; clear _t; subst x)
        | (have _t : Nat → Work → Work := x; clear _t; subst x)
        | (have _t : Work → Nat → Work := x; clear _t; subst x)
        | (have _t : Work → (Resident → Resident) → Work := x; clear _t; subst x)
        | clear_value x)
    | (with_reducible refine (Work.erase_each _ _ _ (fun w _ => ?_)).trans ?_)
    | (with_reducible refine (Work.erase_fold2 _ _ _ (fun _ w _ => ?_)).trans ?_)
    | (with_reducible refine (Work.erase_fold3 _ _ _ (fun _ _ w _ => ?_)).trans ?_)
    | (split <;> try (rename_i hq; first
        | (with_reducible refine Work.erase_pair (w := w) (ft := ft) hq ?_ (fun hx => ?_); clear hq; rotate_left; clear hq; rotate_right)
        | (with_reducible refine Work.erase_triple (w := w) (ft := ft) hq ?_ (fun hx => ?_); clear hq; rotate_left; clear hq; rotate_right)
        | clear hq))
  all_goals simp [*]

@[simp] theorem Work.abortQueued_erase {ft : Part → Bool} (hp : ft .sent = true ∧ ft .fns = true ∧ ft .rings = true ∧ ft .actives = true ∧ ft .pcieTx = true ∧ ft .ctxs = true ∧ ft .hw = true) (w : Work) (c : Nat) :
    (Work.abortQueued w c).erase ft = w.erase ft := by
  unfold Work.abortQueued
  try dsimp only
  repeat' split
  all_goals first | with_reducible rfl | simp [hp]

@[simp] theorem Work.stopRuns_erase {ft : Part → Bool} (hp : ft .sent = true ∧ ft .free = true ∧ ft .pad = true ∧ ft .flash = true ∧ ft .sched = true ∧ ft .fns = true ∧ ft .rings = true ∧ ft .actives = true ∧ ft .pcieTx = true ∧ ft .ctxs = true ∧ ft .regions = true ∧ ft .hbm = true ∧ ft .pkgBytes = true ∧ ft .tiles = true ∧ ft .phys = true ∧ ft .arrivals = true ∧ ft .retiring = true ∧ ft .requests = true ∧ ft .nextTag = true ∧ ft .resident = true ∧ ft .skel = true ∧ ft .mw = true ∧ ft .hw = true) (w : Work) (c : Nat) (now : Bool) :
    (Work.stopRuns w c now).erase ft = w.erase ft := by
  unfold Work.stopRuns
  repeat' first
    | with_reducible rfl
    | (extract_lets +onlyGivenNames x; first
        | (refine Work.erase_step (x := x) (w := w) (ft := ft) ?_ (fun hx => ?_); subst x; rotate_left; clear_value x; rotate_right)
        | (have _t : State := x; clear _t; subst x)
        | (have _t : Work → Work := x; clear _t; subst x)
        | (have _t : Nat → Work → Work := x; clear _t; subst x)
        | (have _t : Work → Nat → Work := x; clear _t; subst x)
        | (have _t : Work → (Resident → Resident) → Work := x; clear _t; subst x)
        | clear_value x)
    | (with_reducible refine (Work.erase_each _ _ _ (fun w _ => ?_)).trans ?_)
    | (with_reducible refine (Work.erase_fold2 _ _ _ (fun _ w _ => ?_)).trans ?_)
    | (with_reducible refine (Work.erase_fold3 _ _ _ (fun _ _ w _ => ?_)).trans ?_)
    | (split <;> try (rename_i hq; first
        | (with_reducible refine Work.erase_pair (w := w) (ft := ft) hq ?_ (fun hx => ?_); clear hq; rotate_left; clear hq; rotate_right)
        | (with_reducible refine Work.erase_triple (w := w) (ft := ft) hq ?_ (fun hx => ?_); clear hq; rotate_left; clear hq; rotate_right)
        | clear hq))
  all_goals simp [*]

@[simp] theorem Work.bankerStop_erase {ft : Part → Bool} (hp : ft .sent = true ∧ ft .free = true ∧ ft .pad = true ∧ ft .flash = true ∧ ft .sched = true ∧ ft .fns = true ∧ ft .rings = true ∧ ft .actives = true ∧ ft .pcieTx = true ∧ ft .ctxs = true ∧ ft .regions = true ∧ ft .hbm = true ∧ ft .pkgBytes = true ∧ ft .jobs = true ∧ ft .tiles = true ∧ ft .phys = true ∧ ft .arrivals = true ∧ ft .retiring = true ∧ ft .requests = true ∧ ft .nextTag = true ∧ ft .resident = true ∧ ft .skel = true ∧ ft .mw = true ∧ ft .hw = true) (w : Work) (key mode : Nat) :
    (Work.bankerStop w key mode).erase ft = w.erase ft := by
  unfold Work.bankerStop
  repeat' first
    | with_reducible rfl
    | (extract_lets +onlyGivenNames x; first
        | (refine Work.erase_step (x := x) (w := w) (ft := ft) ?_ (fun hx => ?_); subst x; rotate_left; clear_value x; rotate_right)
        | (have _t : State := x; clear _t; subst x)
        | (have _t : Work → Work := x; clear _t; subst x)
        | (have _t : Nat → Work → Work := x; clear _t; subst x)
        | (have _t : Work → Nat → Work := x; clear _t; subst x)
        | (have _t : Work → (Resident → Resident) → Work := x; clear _t; subst x)
        | clear_value x)
    | (with_reducible refine (Work.erase_each _ _ _ (fun w _ => ?_)).trans ?_)
    | (with_reducible refine (Work.erase_fold2 _ _ _ (fun _ w _ => ?_)).trans ?_)
    | (with_reducible refine (Work.erase_fold3 _ _ _ (fun _ _ w _ => ?_)).trans ?_)
    | (split <;> try (rename_i hq; first
        | (with_reducible refine Work.erase_pair (w := w) (ft := ft) hq ?_ (fun hx => ?_); clear hq; rotate_left; clear hq; rotate_right)
        | (with_reducible refine Work.erase_triple (w := w) (ft := ft) hq ?_ (fun hx => ?_); clear hq; rotate_left; clear hq; rotate_right)
        | clear hq))
  all_goals simp [*]

@[simp] theorem Work.turnStop_erase {ft : Part → Bool} (hp : ft .sent = true ∧ ft .free = true ∧ ft .pad = true ∧ ft .flash = true ∧ ft .sched = true ∧ ft .fns = true ∧ ft .rings = true ∧ ft .actives = true ∧ ft .pcieTx = true ∧ ft .ctxs = true ∧ ft .regions = true ∧ ft .hbm = true ∧ ft .pkgBytes = true ∧ ft .jobs = true ∧ ft .tiles = true ∧ ft .phys = true ∧ ft .arrivals = true ∧ ft .retiring = true ∧ ft .requests = true ∧ ft .nextTag = true ∧ ft .resident = true ∧ ft .skel = true ∧ ft .mw = true ∧ ft .hw = true) (w : Work) (c mode : Nat) :
    (Work.turnStop w c mode).erase ft = w.erase ft := by
  unfold Work.turnStop
  try dsimp only
  repeat' split
  all_goals first | with_reducible rfl | simp [hp]

@[simp] theorem Work.cancelTurn_erase {ft : Part → Bool} (hp : ft .sent = true ∧ ft .fns = true ∧ ft .rings = true ∧ ft .actives = true ∧ ft .pcieTx = true ∧ ft .ctxs = true ∧ ft .hw = true) (w : Work) (c turn : Nat) :
    (Work.cancelTurn w c turn).erase ft = w.erase ft := by
  unfold Work.cancelTurn
  try dsimp only
  repeat' split
  all_goals first | with_reducible rfl | simp [hp]

@[simp] theorem Work.retierPass_erase {ft : Part → Bool} (hp : ft .sent = true ∧ ft .pad = true ∧ ft .flash = true ∧ ft .sched = true ∧ ft .fns = true ∧ ft .rings = true ∧ ft .actives = true ∧ ft .pcieTx = true ∧ ft .ctxs = true ∧ ft .regions = true ∧ ft .hbm = true ∧ ft .pkgBytes = true ∧ ft .tiles = true ∧ ft .phys = true ∧ ft .requests = true ∧ ft .nextTag = true ∧ ft .mw = true ∧ ft .hw = true) (w : Work) (c : Nat) (t : TableRec) (turn : Nat) :
    (Work.retierPass w c t turn).erase ft = w.erase ft := by
  unfold Work.retierPass
  repeat' first
    | with_reducible rfl
    | (extract_lets +onlyGivenNames x; first
        | (refine Work.erase_step (x := x) (w := w) (ft := ft) ?_ (fun hx => ?_); subst x; rotate_left; clear_value x; rotate_right)
        | (have _t : State := x; clear _t; subst x)
        | (have _t : Work → Work := x; clear _t; subst x)
        | (have _t : Nat → Work → Work := x; clear _t; subst x)
        | (have _t : Work → Nat → Work := x; clear _t; subst x)
        | (have _t : Work → (Resident → Resident) → Work := x; clear _t; subst x)
        | clear_value x)
    | (with_reducible refine (Work.erase_each _ _ _ (fun w _ => ?_)).trans ?_)
    | (with_reducible refine (Work.erase_fold2 _ _ _ (fun _ w _ => ?_)).trans ?_)
    | (with_reducible refine (Work.erase_fold3 _ _ _ (fun _ _ w _ => ?_)).trans ?_)
    | (split <;> try (rename_i hq; first
        | (with_reducible refine Work.erase_pair (w := w) (ft := ft) hq ?_ (fun hx => ?_); clear hq; rotate_left; clear hq; rotate_right)
        | (with_reducible refine Work.erase_triple (w := w) (ft := ft) hq ?_ (fun hx => ?_); clear hq; rotate_left; clear hq; rotate_right)
        | clear hq))
  all_goals simp [*]

@[simp] theorem Work.retierPasses_erase {ft : Part → Bool} (hp : ft .sent = true ∧ ft .pad = true ∧ ft .flash = true ∧ ft .sched = true ∧ ft .fns = true ∧ ft .rings = true ∧ ft .actives = true ∧ ft .pcieTx = true ∧ ft .ctxs = true ∧ ft .regions = true ∧ ft .hbm = true ∧ ft .pkgBytes = true ∧ ft .tiles = true ∧ ft .phys = true ∧ ft .requests = true ∧ ft .nextTag = true ∧ ft .retierList = true ∧ ft .retierDue = true ∧ ft .mw = true ∧ ft .hw = true) (w : Work) (c e : Nat) :
    (Work.retierPasses w c e).erase ft = w.erase ft := by
  unfold Work.retierPasses
  try dsimp only
  repeat' split
  all_goals first | with_reducible rfl | simp [hp]

@[simp] theorem Work.exchange_erase {ft : Part → Bool} (hp : ft .ctxs = true ∧ ft .mw = true) (w : Work) (c i j : Nat) :
    (Work.exchange w c i j).erase ft = w.erase ft := by
  unfold Work.exchange
  repeat' first
    | with_reducible rfl
    | (extract_lets +onlyGivenNames x; first
        | (refine Work.erase_step (x := x) (w := w) (ft := ft) ?_ (fun hx => ?_); subst x; rotate_left; clear_value x; rotate_right)
        | (have _t : State := x; clear _t; subst x)
        | (have _t : Work → Work := x; clear _t; subst x)
        | (have _t : Nat → Work → Work := x; clear _t; subst x)
        | (have _t : Work → Nat → Work := x; clear _t; subst x)
        | (have _t : Work → (Resident → Resident) → Work := x; clear _t; subst x)
        | clear_value x)
    | (with_reducible refine (Work.erase_each _ _ _ (fun w _ => ?_)).trans ?_)
    | (with_reducible refine (Work.erase_fold2 _ _ _ (fun _ w _ => ?_)).trans ?_)
    | (with_reducible refine (Work.erase_fold3 _ _ _ (fun _ _ w _ => ?_)).trans ?_)
    | (split <;> try (rename_i hq; first
        | (with_reducible refine Work.erase_pair (w := w) (ft := ft) hq ?_ (fun hx => ?_); clear hq; rotate_left; clear hq; rotate_right)
        | (with_reducible refine Work.erase_triple (w := w) (ft := ft) hq ?_ (fun hx => ?_); clear hq; rotate_left; clear hq; rotate_right)
        | clear hq))
  all_goals simp [*]

@[simp] theorem Work.flipWindows_erase {ft : Part → Bool} (hp : ft .ctxs = true ∧ ft .mw = true) (w : Work) (c : Nat) (b : Book) (r : Option (List Byte)) :
    (Work.flipWindows w c b r).erase ft = w.erase ft := by
  unfold Work.flipWindows
  try dsimp only
  repeat' split
  all_goals first | with_reducible rfl | simp [hp]

@[simp] theorem Work.startRetrain_erase {ft : Part → Bool} (hp : ft .hbm = true) (w : Work) (c : Nat) :
    (Work.startRetrain w c).erase ft = w.erase ft := by
  unfold Work.startRetrain
  repeat' first
    | with_reducible rfl
    | (extract_lets +onlyGivenNames x; first
        | (refine Work.erase_step (x := x) (w := w) (ft := ft) ?_ (fun hx => ?_); subst x; rotate_left; clear_value x; rotate_right)
        | (have _t : State := x; clear _t; subst x)
        | (have _t : Work → Work := x; clear _t; subst x)
        | (have _t : Nat → Work → Work := x; clear _t; subst x)
        | (have _t : Work → Nat → Work := x; clear _t; subst x)
        | (have _t : Work → (Resident → Resident) → Work := x; clear _t; subst x)
        | clear_value x)
    | (with_reducible refine (Work.erase_each _ _ _ (fun w _ => ?_)).trans ?_)
    | (with_reducible refine (Work.erase_fold2 _ _ _ (fun _ w _ => ?_)).trans ?_)
    | (with_reducible refine (Work.erase_fold3 _ _ _ (fun _ _ w _ => ?_)).trans ?_)
    | (split <;> try (rename_i hq; first
        | (with_reducible refine Work.erase_pair (w := w) (ft := ft) hq ?_ (fun hx => ?_); clear hq; rotate_left; clear hq; rotate_right)
        | (with_reducible refine Work.erase_triple (w := w) (ft := ft) hq ?_ (fun hx => ?_); clear hq; rotate_left; clear hq; rotate_right)
        | clear hq))
  all_goals simp [*]

@[simp] theorem Work.commitTurn_erase {ft : Part → Bool} (hp : ft .sent = true ∧ ft .free = true ∧ ft .pad = true ∧ ft .flash = true ∧ ft .sched = true ∧ ft .fns = true ∧ ft .rings = true ∧ ft .actives = true ∧ ft .pcieTx = true ∧ ft .ctxs = true ∧ ft .regions = true ∧ ft .hbm = true ∧ ft .pkgBytes = true ∧ ft .tiles = true ∧ ft .phys = true ∧ ft .lanes = true ∧ ft .retiring = true ∧ ft .requests = true ∧ ft .nextTag = true ∧ ft .retierList = true ∧ ft .retierDone = true ∧ ft .retierDue = true ∧ ft .skel = true ∧ ft .mw = true ∧ ft .hw = true) (w : Work) (c : Nat) (a : Active) (b : Book) :
    (Work.commitTurn w c a b).erase ft = w.erase ft := by
  unfold Work.commitTurn
  repeat' first
    | with_reducible rfl
    | (extract_lets +onlyGivenNames x; first
        | (refine Work.erase_step (x := x) (w := w) (ft := ft) ?_ (fun hx => ?_); subst x; rotate_left; clear_value x; rotate_right)
        | (have _t : State := x; clear _t; subst x)
        | (have _t : Work → Work := x; clear _t; subst x)
        | (have _t : Nat → Work → Work := x; clear _t; subst x)
        | (have _t : Work → Nat → Work := x; clear _t; subst x)
        | (have _t : Work → (Resident → Resident) → Work := x; clear _t; subst x)
        | clear_value x)
    | (with_reducible refine (Work.erase_each _ _ _ (fun w _ => ?_)).trans ?_)
    | (with_reducible refine (Work.erase_fold2 _ _ _ (fun _ w _ => ?_)).trans ?_)
    | (with_reducible refine (Work.erase_fold3 _ _ _ (fun _ _ w _ => ?_)).trans ?_)
    | (split <;> try (rename_i hq; first
        | (with_reducible refine Work.erase_pair (w := w) (ft := ft) hq ?_ (fun hx => ?_); clear hq; rotate_left; clear hq; rotate_right)
        | (with_reducible refine Work.erase_triple (w := w) (ft := ft) hq ?_ (fun hx => ?_); clear hq; rotate_left; clear hq; rotate_right)
        | clear hq))
  all_goals simp [*]

@[simp] theorem Work.mirrorLost_erase {ft : Part → Bool} (hp : ft .sent = true ∧ ft .ctxs = true) (w : Work) (c : Nat) :
    (Work.mirrorLost w c).erase ft = w.erase ft := by
  unfold Work.mirrorLost
  try dsimp only
  repeat' split
  all_goals first | with_reducible rfl | simp [hp]

@[simp] theorem Work.mirrorMismatch_erase {ft : Part → Bool} (hp : ft .sent = true ∧ ft .pad = true ∧ ft .flash = true ∧ ft .sched = true ∧ ft .fns = true ∧ ft .rings = true ∧ ft .actives = true ∧ ft .pcieTx = true ∧ ft .ctxs = true ∧ ft .regions = true ∧ ft .tiles = true ∧ ft .retiring = true ∧ ft .mw = true ∧ ft .hw = true) (w : Work) (c r item : Nat) :
    (Work.mirrorMismatch w c r item).erase ft = w.erase ft := by
  unfold Work.mirrorMismatch
  try dsimp only
  repeat' split
  all_goals first | with_reducible rfl | simp [hp]

@[simp] theorem Work.mirrorRead_erase {ft : Part → Bool} (hp : ft .sent = true ∧ ft .pad = true ∧ ft .flash = true ∧ ft .sched = true ∧ ft .fns = true ∧ ft .rings = true ∧ ft .actives = true ∧ ft .pcieTx = true ∧ ft .ctxs = true ∧ ft .regions = true ∧ ft .hbm = true ∧ ft .pkgBytes = true ∧ ft .tiles = true ∧ ft .phys = true ∧ ft .mw = true ∧ ft .hw = true) (w : Work) (c a n : Nat) (u : List Upset) :
    (Work.mirrorRead w c a n u).2.erase ft = w.erase ft := by
  unfold Work.mirrorRead
  repeat' first
    | with_reducible rfl
    | (extract_lets +onlyGivenNames x; first
        | (refine Work.erase_step (x := x) (w := w) (ft := ft) ?_ (fun hx => ?_); subst x; rotate_left; clear_value x; rotate_right)
        | (have _t : State := x; clear _t; subst x)
        | (have _t : Work → Work := x; clear _t; subst x)
        | (have _t : Nat → Work → Work := x; clear _t; subst x)
        | (have _t : Work → Nat → Work := x; clear _t; subst x)
        | (have _t : Work → (Resident → Resident) → Work := x; clear _t; subst x)
        | clear_value x)
    | (with_reducible refine (Work.erase_each _ _ _ (fun w _ => ?_)).trans ?_)
    | (with_reducible refine (Work.erase_fold2 _ _ _ (fun _ w _ => ?_)).trans ?_)
    | (with_reducible refine (Work.erase_fold3 _ _ _ (fun _ _ w _ => ?_)).trans ?_)
    | (split <;> try (rename_i hq; first
        | (with_reducible refine Work.erase_pair (w := w) (ft := ft) hq ?_ (fun hx => ?_); clear hq; rotate_left; clear hq; rotate_right)
        | (with_reducible refine Work.erase_triple (w := w) (ft := ft) hq ?_ (fun hx => ?_); clear hq; rotate_left; clear hq; rotate_right)
        | clear hq))
  all_goals simp [*]

@[simp] theorem Work.mirrorWrite_erase {ft : Part → Bool} (hp : ft .sent = true ∧ ft .pad = true ∧ ft .flash = true ∧ ft .sched = true ∧ ft .fns = true ∧ ft .rings = true ∧ ft .actives = true ∧ ft .pcieTx = true ∧ ft .ctxs = true ∧ ft .regions = true ∧ ft .hbm = true ∧ ft .pkgBytes = true ∧ ft .tiles = true ∧ ft .phys = true ∧ ft .requests = true ∧ ft .nextTag = true ∧ ft .mw = true ∧ ft .hw = true) (w : Work) (c a : Nat) (bs : List Byte) :
    (Work.mirrorWrite w c a bs).2.erase ft = w.erase ft := by
  unfold Work.mirrorWrite
  repeat' first
    | with_reducible rfl
    | (extract_lets +onlyGivenNames x; first
        | (refine Work.erase_step (x := x) (w := w) (ft := ft) ?_ (fun hx => ?_); subst x; rotate_left; clear_value x; rotate_right)
        | (have _t : State := x; clear _t; subst x)
        | (have _t : Work → Work := x; clear _t; subst x)
        | (have _t : Nat → Work → Work := x; clear _t; subst x)
        | (have _t : Work → Nat → Work := x; clear _t; subst x)
        | (have _t : Work → (Resident → Resident) → Work := x; clear _t; subst x)
        | clear_value x)
    | (with_reducible refine (Work.erase_each _ _ _ (fun w _ => ?_)).trans ?_)
    | (with_reducible refine (Work.erase_fold2 _ _ _ (fun _ w _ => ?_)).trans ?_)
    | (with_reducible refine (Work.erase_fold3 _ _ _ (fun _ _ w _ => ?_)).trans ?_)
    | (split <;> try (rename_i hq; first
        | (with_reducible refine Work.erase_pair (w := w) (ft := ft) hq ?_ (fun hx => ?_); clear hq; rotate_left; clear hq; rotate_right)
        | (with_reducible refine Work.erase_triple (w := w) (ft := ft) hq ?_ (fun hx => ?_); clear hq; rotate_left; clear hq; rotate_right)
        | clear hq))
  all_goals simp [*]

@[simp] theorem Work.mirrorRates_erase {ft : Part → Bool} (hp : ft .sent = true ∧ ft .pad = true ∧ ft .flash = true ∧ ft .sched = true ∧ ft .fns = true ∧ ft .rings = true ∧ ft .actives = true ∧ ft .pcieTx = true ∧ ft .ctxs = true ∧ ft .regions = true ∧ ft .hbm = true ∧ ft .pkgBytes = true ∧ ft .tiles = true ∧ ft .phys = true ∧ ft .mw = true ∧ ft .hw = true) (w : Work) (k : Apply) (n : Nat) (u : List Upset) :
    (Work.mirrorRates w k n u).2.erase ft = w.erase ft := by
  unfold Work.mirrorRates
  repeat' first
    | with_reducible rfl
    | (extract_lets +onlyGivenNames x; first
        | (refine Work.erase_step (x := x) (w := w) (ft := ft) ?_ (fun hx => ?_); subst x; rotate_left; clear_value x; rotate_right)
        | (have _t : State := x; clear _t; subst x)
        | (have _t : Work → Work := x; clear _t; subst x)
        | (have _t : Nat → Work → Work := x; clear _t; subst x)
        | (have _t : Work → Nat → Work := x; clear _t; subst x)
        | (have _t : Work → (Resident → Resident) → Work := x; clear _t; subst x)
        | clear_value x)
    | (with_reducible refine (Work.erase_each _ _ _ (fun w _ => ?_)).trans ?_)
    | (with_reducible refine (Work.erase_fold2 _ _ _ (fun _ w _ => ?_)).trans ?_)
    | (with_reducible refine (Work.erase_fold3 _ _ _ (fun _ _ w _ => ?_)).trans ?_)
    | (split <;> try (rename_i hq; first
        | (with_reducible refine Work.erase_pair (w := w) (ft := ft) hq ?_ (fun hx => ?_); clear hq; rotate_left; clear hq; rotate_right)
        | (with_reducible refine Work.erase_triple (w := w) (ft := ft) hq ?_ (fun hx => ?_); clear hq; rotate_left; clear hq; rotate_right)
        | clear hq))
  all_goals simp [*]

@[simp] theorem Work.mirrorPiece_erase {ft : Part → Bool} (hp : ft .sent = true ∧ ft .pad = true ∧ ft .flash = true ∧ ft .sched = true ∧ ft .fns = true ∧ ft .rings = true ∧ ft .actives = true ∧ ft .pcieTx = true ∧ ft .ctxs = true ∧ ft .regions = true ∧ ft .hbm = true ∧ ft .pkgBytes = true ∧ ft .tiles = true ∧ ft .phys = true ∧ ft .retiring = true ∧ ft .requests = true ∧ ft .nextTag = true ∧ ft .mw = true ∧ ft .hw = true) (w : Work) (k : Apply) (p : Piece) (u : List Upset) :
    (Work.mirrorPiece w k p u).2.erase ft = w.erase ft := by
  unfold Work.mirrorPiece
  repeat' first
    | with_reducible rfl
    | (extract_lets +onlyGivenNames x; first
        | (refine Work.erase_step (x := x) (w := w) (ft := ft) ?_ (fun hx => ?_); subst x; rotate_left; clear_value x; rotate_right)
        | (have _t : State := x; clear _t; subst x)
        | (have _t : Work → Work := x; clear _t; subst x)
        | (have _t : Nat → Work → Work := x; clear _t; subst x)
        | (have _t : Work → Nat → Work := x; clear _t; subst x)
        | (have _t : Work → (Resident → Resident) → Work := x; clear _t; subst x)
        | clear_value x)
    | (with_reducible refine (Work.erase_each _ _ _ (fun w _ => ?_)).trans ?_)
    | (with_reducible refine (Work.erase_fold2 _ _ _ (fun _ w _ => ?_)).trans ?_)
    | (with_reducible refine (Work.erase_fold3 _ _ _ (fun _ _ w _ => ?_)).trans ?_)
    | (split <;> try (rename_i hq; first
        | (with_reducible refine Work.erase_pair (w := w) (ft := ft) hq ?_ (fun hx => ?_); clear hq; rotate_left; clear hq; rotate_right)
        | (with_reducible refine Work.erase_triple (w := w) (ft := ft) hq ?_ (fun hx => ?_); clear hq; rotate_left; clear hq; rotate_right)
        | clear hq))
  all_goals simp [*]

@[simp] theorem Work.mirrorGrads_erase {ft : Part → Bool} (hp : ft .sent = true ∧ ft .pad = true ∧ ft .flash = true ∧ ft .sched = true ∧ ft .fns = true ∧ ft .rings = true ∧ ft .actives = true ∧ ft .pcieTx = true ∧ ft .ctxs = true ∧ ft .regions = true ∧ ft .hbm = true ∧ ft .pkgBytes = true ∧ ft .tiles = true ∧ ft .phys = true ∧ ft .mw = true ∧ ft .hw = true) (w : Work) (k : Apply) (t : TableRec) (rows : Nat) (u : List Upset) :
    (Work.mirrorGrads w k t rows u).2.erase ft = w.erase ft := by
  unfold Work.mirrorGrads
  repeat' first
    | with_reducible rfl
    | (extract_lets +onlyGivenNames x; first
        | (refine Work.erase_step (x := x) (w := w) (ft := ft) ?_ (fun hx => ?_); subst x; rotate_left; clear_value x; rotate_right)
        | (have _t : State := x; clear _t; subst x)
        | (have _t : Work → Work := x; clear _t; subst x)
        | (have _t : Nat → Work → Work := x; clear _t; subst x)
        | (have _t : Work → Nat → Work := x; clear _t; subst x)
        | (have _t : Work → (Resident → Resident) → Work := x; clear _t; subst x)
        | clear_value x)
    | (with_reducible refine (Work.erase_each _ _ _ (fun w _ => ?_)).trans ?_)
    | (with_reducible refine (Work.erase_fold2 _ _ _ (fun _ w _ => ?_)).trans ?_)
    | (with_reducible refine (Work.erase_fold3 _ _ _ (fun _ _ w _ => ?_)).trans ?_)
    | (split <;> try (rename_i hq; first
        | (with_reducible refine Work.erase_pair (w := w) (ft := ft) hq ?_ (fun hx => ?_); clear hq; rotate_left; clear hq; rotate_right)
        | (with_reducible refine Work.erase_triple (w := w) (ft := ft) hq ?_ (fun hx => ?_); clear hq; rotate_left; clear hq; rotate_right)
        | clear hq))
  all_goals simp [*]

@[simp] theorem Work.mirrorItems_erase {ft : Part → Bool} (hp : ft .sent = true ∧ ft .pad = true ∧ ft .flash = true ∧ ft .sched = true ∧ ft .fns = true ∧ ft .rings = true ∧ ft .actives = true ∧ ft .pcieTx = true ∧ ft .ctxs = true ∧ ft .regions = true ∧ ft .hbm = true ∧ ft .pkgBytes = true ∧ ft .tiles = true ∧ ft .phys = true ∧ ft .mw = true ∧ ft .hw = true) (w : Work) (k : Apply) (t : TableRec) (u : List Upset) :
    (Work.mirrorItems w k t u).2.erase ft = w.erase ft := by
  unfold Work.mirrorItems
  repeat' first
    | with_reducible rfl
    | (extract_lets +onlyGivenNames x; first
        | (refine Work.erase_step (x := x) (w := w) (ft := ft) ?_ (fun hx => ?_); subst x; rotate_left; clear_value x; rotate_right)
        | (have _t : State := x; clear _t; subst x)
        | (have _t : Work → Work := x; clear _t; subst x)
        | (have _t : Nat → Work → Work := x; clear _t; subst x)
        | (have _t : Work → Nat → Work := x; clear _t; subst x)
        | (have _t : Work → (Resident → Resident) → Work := x; clear _t; subst x)
        | clear_value x)
    | (with_reducible refine (Work.erase_each _ _ _ (fun w _ => ?_)).trans ?_)
    | (with_reducible refine (Work.erase_fold2 _ _ _ (fun _ w _ => ?_)).trans ?_)
    | (with_reducible refine (Work.erase_fold3 _ _ _ (fun _ _ w _ => ?_)).trans ?_)
    | (split <;> try (rename_i hq; first
        | (with_reducible refine Work.erase_pair (w := w) (ft := ft) hq ?_ (fun hx => ?_); clear hq; rotate_left; clear hq; rotate_right)
        | (with_reducible refine Work.erase_triple (w := w) (ft := ft) hq ?_ (fun hx => ?_); clear hq; rotate_left; clear hq; rotate_right)
        | clear hq))
  all_goals simp [*]

@[simp] theorem Work.mirrorRow_erase {ft : Part → Bool} (hp : ft .sent = true ∧ ft .pad = true ∧ ft .flash = true ∧ ft .sched = true ∧ ft .fns = true ∧ ft .rings = true ∧ ft .actives = true ∧ ft .pcieTx = true ∧ ft .ctxs = true ∧ ft .regions = true ∧ ft .hbm = true ∧ ft .pkgBytes = true ∧ ft .tiles = true ∧ ft .phys = true ∧ ft .retiring = true ∧ ft .requests = true ∧ ft .nextTag = true ∧ ft .mw = true ∧ ft .hw = true) (w : Work) (k : Apply) (t : TableRec) (r : Rates) (stream clip : Nat) (u : List Upset) (i : Nat)
    (g : Option (List Byte)) (item : Option (Nat × Nat)) :
    (Work.mirrorRow w k t r stream clip u i g item).2.erase ft = w.erase ft := by
  unfold Work.mirrorRow
  repeat' first
    | with_reducible rfl
    | (extract_lets +onlyGivenNames x; first
        | (refine Work.erase_step (x := x) (w := w) (ft := ft) ?_ (fun hx => ?_); subst x; rotate_left; clear_value x; rotate_right)
        | (have _t : State := x; clear _t; subst x)
        | (have _t : Work → Work := x; clear _t; subst x)
        | (have _t : Nat → Work → Work := x; clear _t; subst x)
        | (have _t : Work → Nat → Work := x; clear _t; subst x)
        | (have _t : Work → (Resident → Resident) → Work := x; clear _t; subst x)
        | clear_value x)
    | (with_reducible refine (Work.erase_each _ _ _ (fun w _ => ?_)).trans ?_)
    | (with_reducible refine (Work.erase_fold2 _ _ _ (fun _ w _ => ?_)).trans ?_)
    | (with_reducible refine (Work.erase_fold3 _ _ _ (fun _ _ w _ => ?_)).trans ?_)
    | (split <;> try (rename_i hq; first
        | (with_reducible refine Work.erase_pair (w := w) (ft := ft) hq ?_ (fun hx => ?_); clear hq; rotate_left; clear hq; rotate_right)
        | (with_reducible refine Work.erase_triple (w := w) (ft := ft) hq ?_ (fun hx => ?_); clear hq; rotate_left; clear hq; rotate_right)
        | clear hq))
  all_goals simp [*]

@[simp] theorem Work.mirrorTable_erase {ft : Part → Bool} (hp : ft .sent = true ∧ ft .pad = true ∧ ft .flash = true ∧ ft .sched = true ∧ ft .fns = true ∧ ft .rings = true ∧ ft .actives = true ∧ ft .pcieTx = true ∧ ft .ctxs = true ∧ ft .regions = true ∧ ft .hbm = true ∧ ft .pkgBytes = true ∧ ft .tiles = true ∧ ft .phys = true ∧ ft .retiring = true ∧ ft .requests = true ∧ ft .nextTag = true ∧ ft .mw = true ∧ ft .hw = true) (w : Work) (k : Apply) (t0 : TableRec) (u : List Upset) :
    (Work.mirrorTable w k t0 u).2.erase ft = w.erase ft := by
  unfold Work.mirrorTable
  repeat' first
    | with_reducible rfl
    | (extract_lets +onlyGivenNames x; first
        | (refine Work.erase_step (x := x) (w := w) (ft := ft) ?_ (fun hx => ?_); subst x; rotate_left; clear_value x; rotate_right)
        | (have _t : State := x; clear _t; subst x)
        | (have _t : Work → Work := x; clear _t; subst x)
        | (have _t : Nat → Work → Work := x; clear _t; subst x)
        | (have _t : Work → Nat → Work := x; clear _t; subst x)
        | (have _t : Work → (Resident → Resident) → Work := x; clear _t; subst x)
        | clear_value x)
    | (with_reducible refine (Work.erase_each _ _ _ (fun w _ => ?_)).trans ?_)
    | (with_reducible refine (Work.erase_fold2 _ _ _ (fun _ w _ => ?_)).trans ?_)
    | (with_reducible refine (Work.erase_fold3 _ _ _ (fun _ _ w _ => ?_)).trans ?_)
    | (with_reducible refine (Work.steps_erase _ _ _ (fun w _ => ?_)).trans ?_)
    | (split <;> try (rename_i hq; first
        | (with_reducible refine Work.erase_pair (w := w) (ft := ft) hq ?_ (fun hx => ?_); clear hq; rotate_left; clear hq; rotate_right)
        | (with_reducible refine Work.erase_triple (w := w) (ft := ft) hq ?_ (fun hx => ?_); clear hq; rotate_left; clear hq; rotate_right)
        | clear hq))
  all_goals simp [*]

@[simp] theorem Work.applyMirror_erase {ft : Part → Bool} (hp : ft .sent = true ∧ ft .pad = true ∧ ft .flash = true ∧ ft .sched = true ∧ ft .fns = true ∧ ft .rings = true ∧ ft .actives = true ∧ ft .pcieTx = true ∧ ft .ctxs = true ∧ ft .regions = true ∧ ft .hbm = true ∧ ft .pkgBytes = true ∧ ft .tiles = true ∧ ft .phys = true ∧ ft .retiring = true ∧ ft .requests = true ∧ ft .nextTag = true ∧ ft .mw = true ∧ ft .hw = true) (w : Work) (k : Apply) (u : List Upset) :
    (Work.applyMirror w k u).2.erase ft = w.erase ft := by
  unfold Work.applyMirror
  repeat' first
    | with_reducible rfl
    | (extract_lets +onlyGivenNames x; first
        | (refine Work.erase_step (x := x) (w := w) (ft := ft) ?_ (fun hx => ?_); subst x; rotate_left; clear_value x; rotate_right)
        | (have _t : State := x; clear _t; subst x)
        | (have _t : Work → Work := x; clear _t; subst x)
        | (have _t : Nat → Work → Work := x; clear _t; subst x)
        | (have _t : Work → Nat → Work := x; clear _t; subst x)
        | (have _t : Work → (Resident → Resident) → Work := x; clear _t; subst x)
        | clear_value x)
    | (with_reducible refine (Work.erase_each _ _ _ (fun w _ => ?_)).trans ?_)
    | (with_reducible refine (Work.erase_fold2 _ _ _ (fun _ w _ => ?_)).trans ?_)
    | (with_reducible refine (Work.erase_fold3 _ _ _ (fun _ _ w _ => ?_)).trans ?_)
    | (with_reducible refine (Work.steps_erase _ _ _ (fun w _ => ?_)).trans ?_)
    | (split <;> try (rename_i hq; first
        | (with_reducible refine Work.erase_pair (w := w) (ft := ft) hq ?_ (fun hx => ?_); clear hq; rotate_left; clear hq; rotate_right)
        | (with_reducible refine Work.erase_triple (w := w) (ft := ft) hq ?_ (fun hx => ?_); clear hq; rotate_left; clear hq; rotate_right)
        | clear hq))
  all_goals simp [*]

@[simp] theorem Work.mirrorPasses_erase {ft : Part → Bool} (hp : ft .sent = true ∧ ft .pad = true ∧ ft .flash = true ∧ ft .sched = true ∧ ft .fns = true ∧ ft .rings = true ∧ ft .actives = true ∧ ft .pcieTx = true ∧ ft .ctxs = true ∧ ft .regions = true ∧ ft .hbm = true ∧ ft .pkgBytes = true ∧ ft .tiles = true ∧ ft .phys = true ∧ ft .requests = true ∧ ft .nextTag = true ∧ ft .mw = true ∧ ft .hw = true) (w : Work) (k : Apply) :
    (Work.mirrorPasses w k).2.erase ft = w.erase ft := by
  unfold Work.mirrorPasses
  repeat' first
    | with_reducible rfl
    | (extract_lets +onlyGivenNames x; first
        | (refine Work.erase_step (x := x) (w := w) (ft := ft) ?_ (fun hx => ?_); subst x; rotate_left; clear_value x; rotate_right)
        | (have _t : State := x; clear _t; subst x)
        | (have _t : Work → Work := x; clear _t; subst x)
        | (have _t : Nat → Work → Work := x; clear _t; subst x)
        | (have _t : Work → Nat → Work := x; clear _t; subst x)
        | (have _t : Work → (Resident → Resident) → Work := x; clear _t; subst x)
        | clear_value x)
    | (with_reducible refine (Work.erase_each _ _ _ (fun w _ => ?_)).trans ?_)
    | (with_reducible refine (Work.erase_fold2 _ _ _ (fun _ w _ => ?_)).trans ?_)
    | (with_reducible refine (Work.erase_fold3 _ _ _ (fun _ _ w _ => ?_)).trans ?_)
    | (split <;> try (rename_i hq; first
        | (with_reducible refine Work.erase_pair (w := w) (ft := ft) hq ?_ (fun hx => ?_); clear hq; rotate_left; clear hq; rotate_right)
        | (with_reducible refine Work.erase_triple (w := w) (ft := ft) hq ?_ (fun hx => ?_); clear hq; rotate_left; clear hq; rotate_right)
        | clear hq))
  all_goals simp [*]

@[simp] theorem Work.mirrorStep_erase {ft : Part → Bool} (hp : ft .sent = true ∧ ft .pad = true ∧ ft .flash = true ∧ ft .sched = true ∧ ft .fns = true ∧ ft .rings = true ∧ ft .actives = true ∧ ft .pcieTx = true ∧ ft .ctxs = true ∧ ft .regions = true ∧ ft .hbm = true ∧ ft .pkgBytes = true ∧ ft .tiles = true ∧ ft .phys = true ∧ ft .retiring = true ∧ ft .requests = true ∧ ft .nextTag = true ∧ ft .mw = true ∧ ft .hw = true) (w : Work) (c : Nat) (small : Option Small) (u : List Upset) :
    (Work.mirrorStep w c small u).erase ft = w.erase ft := by
  unfold Work.mirrorStep
  repeat' first
    | with_reducible rfl
    | (extract_lets +onlyGivenNames x; first
        | (refine Work.erase_step (x := x) (w := w) (ft := ft) ?_ (fun hx => ?_); subst x; rotate_left; clear_value x; rotate_right)
        | (have _t : State := x; clear _t; subst x)
        | (have _t : Work → Work := x; clear _t; subst x)
        | (have _t : Nat → Work → Work := x; clear _t; subst x)
        | (have _t : Work → Nat → Work := x; clear _t; subst x)
        | (have _t : Work → (Resident → Resident) → Work := x; clear _t; subst x)
        | clear_value x)
    | (with_reducible refine (Work.erase_each _ _ _ (fun w _ => ?_)).trans ?_)
    | (with_reducible refine (Work.erase_fold2 _ _ _ (fun _ w _ => ?_)).trans ?_)
    | (with_reducible refine (Work.erase_fold3 _ _ _ (fun _ _ w _ => ?_)).trans ?_)
    | (split <;> try (rename_i hq; first
        | (with_reducible refine Work.erase_pair (w := w) (ft := ft) hq ?_ (fun hx => ?_); clear hq; rotate_left; clear hq; rotate_right)
        | (with_reducible refine Work.erase_triple (w := w) (ft := ft) hq ?_ (fun hx => ?_); clear hq; rotate_left; clear hq; rotate_right)
        | clear hq))
  all_goals simp [*]

@[simp] theorem Work.saveTile_erase {ft : Part → Bool} (hp : ft .hbm = true ∧ ft .pkgBytes = true ∧ ft .phys = true ∧ ft .mw = true) (w : Work) (c n : Nat) :
    (Work.saveTile w c n).erase ft = w.erase ft := by
  unfold Work.saveTile
  repeat' first
    | with_reducible rfl
    | (extract_lets +onlyGivenNames x; first
        | (refine Work.erase_step (x := x) (w := w) (ft := ft) ?_ (fun hx => ?_); subst x; rotate_left; clear_value x; rotate_right)
        | (have _t : State := x; clear _t; subst x)
        | (have _t : Work → Work := x; clear _t; subst x)
        | (have _t : Nat → Work → Work := x; clear _t; subst x)
        | (have _t : Work → Nat → Work := x; clear _t; subst x)
        | (have _t : Work → (Resident → Resident) → Work := x; clear _t; subst x)
        | clear_value x)
    | (with_reducible refine (Work.erase_each _ _ _ (fun w _ => ?_)).trans ?_)
    | (with_reducible refine (Work.erase_fold2 _ _ _ (fun _ w _ => ?_)).trans ?_)
    | (with_reducible refine (Work.erase_fold3 _ _ _ (fun _ _ w _ => ?_)).trans ?_)
    | (split <;> try (rename_i hq; first
        | (with_reducible refine Work.erase_pair (w := w) (ft := ft) hq ?_ (fun hx => ?_); clear hq; rotate_left; clear hq; rotate_right)
        | (with_reducible refine Work.erase_triple (w := w) (ft := ft) hq ?_ (fun hx => ?_); clear hq; rotate_left; clear hq; rotate_right)
        | clear hq))
  all_goals simp [*]

@[simp] theorem Work.emptyTile_erase {ft : Part → Bool} (hp : ft .tiles = true ∧ ft .skel = true ∧ ft .mw = true) (w : Work) (n once : Nat) :
    (Work.emptyTile w n once).erase ft = w.erase ft := by
  unfold Work.emptyTile
  try dsimp only
  repeat' split
  all_goals first | with_reducible rfl | simp [hp]

@[simp] theorem Work.restoreTile_erase {ft : Part → Bool} (hp : ft .hbm = true ∧ ft .pkgBytes = true ∧ ft .tiles = true ∧ ft .phys = true ∧ ft .skel = true ∧ ft .mw = true) (w : Work) (d n : Nat) :
    (Work.restoreTile w d n).erase ft = w.erase ft := by
  unfold Work.restoreTile
  repeat' first
    | with_reducible rfl
    | (extract_lets +onlyGivenNames x; first
        | (refine Work.erase_step (x := x) (w := w) (ft := ft) ?_ (fun hx => ?_); subst x; rotate_left; clear_value x; rotate_right)
        | (have _t : State := x; clear _t; subst x)
        | (have _t : Work → Work := x; clear _t; subst x)
        | (have _t : Nat → Work → Work := x; clear _t; subst x)
        | (have _t : Work → Nat → Work := x; clear _t; subst x)
        | (have _t : Work → (Resident → Resident) → Work := x; clear _t; subst x)
        | clear_value x)
    | (with_reducible refine (Work.erase_each _ _ _ (fun w _ => ?_)).trans ?_)
    | (with_reducible refine (Work.erase_fold2 _ _ _ (fun _ w _ => ?_)).trans ?_)
    | (with_reducible refine (Work.erase_fold3 _ _ _ (fun _ _ w _ => ?_)).trans ?_)
    | (split <;> try (rename_i hq; first
        | (with_reducible refine Work.erase_pair (w := w) (ft := ft) hq ?_ (fun hx => ?_); clear hq; rotate_left; clear hq; rotate_right)
        | (with_reducible refine Work.erase_triple (w := w) (ft := ft) hq ?_ (fun hx => ?_); clear hq; rotate_left; clear hq; rotate_right)
        | clear hq))
  all_goals simp [*]

@[simp] theorem Work.saveHeader_erase {ft : Part → Bool} (hp : ft .mw = true) (w : Work) (c : Nat) :
    (Work.saveHeader w c).erase ft = w.erase ft := by
  unfold Work.saveHeader
  try dsimp only
  repeat' split
  all_goals first | with_reducible rfl | simp [hp]

@[simp] theorem Work.switchRegion_erase {ft : Part → Bool} (hp : ft .regions = true ∧ ft .hbm = true ∧ ft .pkgBytes = true ∧ ft .tiles = true ∧ ft .phys = true ∧ ft .skel = true ∧ ft .mw = true) (w : Work) (d r : Nat) :
    (Work.switchRegion w d r).erase ft = w.erase ft := by
  unfold Work.switchRegion
  try dsimp only
  repeat' split
  all_goals first | with_reducible rfl | simp [hp]

end Sys2Proof.Machine
end

