-- ==== Sys2Proof/Laws/Frame5.lean ====
section
/-! SUPPORT. Footprints of the operations of Tables, Hbm, Links, Packets, Form, Time, Boot: each leaves alone whatever its parts do not name. -/

namespace Sys2Proof.Machine

@[simp] theorem Work.withTable_erase {ft : Part → Bool} (hp : ft .sent = true ∧ ft .fns = true ∧ ft .rings = true ∧ ft .actives = true ∧ ft .pcieTx = true ∧ ft .hw = true) (w : Work) (a : Active) (h n : Nat) (f : TableRec → Work → Work) (h_f : ∀ (y0 : TableRec) (y1 : Work), (f y0 y1).erase ft = Work.erase ft y1) :
    (Work.withTable w a h n f).erase ft = w.erase ft := by
  unfold Work.withTable
  try dsimp only
  repeat' split
  all_goals first | with_reducible rfl | simp [hp, h_f]

@[simp] theorem Work.ghostAll_erase {ft : Part → Bool} (hp : ft .phys = true) (w : Work) (c : Nat) :
    (Work.ghostAll w c).erase ft = w.erase ft := by
  unfold Work.ghostAll
  try dsimp only
  repeat' split
  all_goals first | with_reducible rfl | simp [hp]

@[simp] theorem Work.published_erase {ft : Part → Bool} (hp : ft .phys = true ∧ ft .flips = true) (w : Work) (c h table : Nat) :
    (Work.published w c h table).erase ft = w.erase ft := by
  unfold Work.published
  try dsimp only
  repeat' split
  all_goals first | with_reducible rfl | simp [hp]

@[simp] theorem Work.countFence_erase {ft : Part → Bool} (hp : ft .regions = true) (w : Work) (c h : Nat) (t : TableRec) :
    (Work.countFence w c h t).erase ft = w.erase ft := by
  unfold Work.countFence
  try dsimp only
  repeat' split
  all_goals first | with_reducible rfl | simp [hp]

@[simp] theorem Work.publishFor_erase {ft : Part → Bool} (hp : ft .regions = true ∧ ft .phys = true ∧ ft .flips = true) (w : Work) (a : Active) (h : Nat) (t : TableRec) (i : Nat) :
    (Work.publishFor w a h t i).2.erase ft = w.erase ft := by
  unfold Work.publishFor
  repeat' first
    | with_reducible rfl
    | (extract_lets +onlyGivenNames x; first
        | (refine Work.erase_step (x := x) (w := w) (ft := ft) ?_ (fun hx => ?_); subst x; rotate_left; clear_value x; rotate_right)
        | (have _t : State := x; clear _t; subst x)
        | (have _t : Work → Work := x; clear _t; subst x)
        | (have _t : Nat → Work → Work := x; clear _t; subst x)
        | (have _t : Work → Nat → Work := x; clear _t; subst x)
        | (have _t : Work → (Resident → Resident) → Work := x; clear _t; subst x)
        | clear_value x)
    | (with_reducible refine (Work.erase_each _ _ _ (fun w _ => ?_)).trans ?_)
    | (with_reducible refine (Work.erase_fold2 _ _ _ (fun _ w _ => ?_)).trans ?_)
    | (with_reducible refine (Work.erase_fold3 _ _ _ (fun _ _ w _ => ?_)).trans ?_)
    | (split <;> try (rename_i hq; first
        | (with_reducible refine Work.erase_pair (w := w) (ft := ft) hq ?_ (fun hx => ?_); clear hq; rotate_left; clear hq; rotate_right)
        | (with_reducible refine Work.erase_triple (w := w) (ft := ft) hq ?_ (fun hx => ?_); clear hq; rotate_left; clear hq; rotate_right)
        | clear hq))
  all_goals simp [*]

@[simp] theorem Work.rowMismatch_erase {ft : Part → Bool} (hp : ft .sent = true ∧ ft .pad = true ∧ ft .flash = true ∧ ft .sched = true ∧ ft .fns = true ∧ ft .rings = true ∧ ft .actives = true ∧ ft .pcieTx = true ∧ ft .ctxs = true ∧ ft .regions = true ∧ ft .tiles = true ∧ ft .retiring = true ∧ ft .mw = true ∧ ft .hw = true) (w : Work) (c : Nat) (t : TableRec) :
    (Work.rowMismatch w c t).erase ft = w.erase ft := by
  unfold Work.rowMismatch
  try dsimp only
  repeat' split
  all_goals first | with_reducible rfl | simp [hp]

@[simp] theorem Work.rowBytes_erase {ft : Part → Bool} (hp : ft .hbm = true ∧ ft .pkgBytes = true ∧ ft .phys = true) (w : Work) (c a n : Nat) (u : List Upset) :
    (Work.rowBytes w c a n u).2.erase ft = w.erase ft := by
  unfold Work.rowBytes
  repeat' first
    | with_reducible rfl
    | (extract_lets +onlyGivenNames x; first
        | (refine Work.erase_step (x := x) (w := w) (ft := ft) ?_ (fun hx => ?_); subst x; rotate_left; clear_value x; rotate_right)
        | (have _t : State := x; clear _t; subst x)
        | (have _t : Work → Work := x; clear _t; subst x)
        | (have _t : Nat → Work → Work := x; clear _t; subst x)
        | (have _t : Work → Nat → Work := x; clear _t; subst x)
        | (have _t : Work → (Resident → Resident) → Work := x; clear _t; subst x)
        | clear_value x)
    | (with_reducible refine (Work.erase_each _ _ _ (fun w _ => ?_)).trans ?_)
    | (with_reducible refine (Work.erase_fold2 _ _ _ (fun _ w _ => ?_)).trans ?_)
    | (with_reducible refine (Work.erase_fold3 _ _ _ (fun _ _ w _ => ?_)).trans ?_)
    | (split <;> try (rename_i hq; first
        | (with_reducible refine Work.erase_pair (w := w) (ft := ft) hq ?_ (fun hx => ?_); clear hq; rotate_left; clear hq; rotate_right)
        | (with_reducible refine Work.erase_triple (w := w) (ft := ft) hq ?_ (fun hx => ?_); clear hq; rotate_left; clear hq; rotate_right)
        | clear hq))
  all_goals simp [*]

@[simp] theorem Work.putRow_erase {ft : Part → Bool} (hp : ft .sent = true ∧ ft .ctxs = true ∧ ft .regions = true ∧ ft .hbm = true ∧ ft .pkgBytes = true ∧ ft .phys = true ∧ ft .requests = true ∧ ft .nextTag = true ∧ ft .mw = true) (w : Work) (a : Active) (t : TableRec) (i at_ : Nat) (bs : List Byte) (e : Entry) (moved : Bool) :
    (Work.putRow w a t i at_ bs e moved).2.erase ft = w.erase ft := by
  unfold Work.putRow
  repeat' first
    | with_reducible rfl
    | (extract_lets +onlyGivenNames x; first
        | (refine Work.erase_step (x := x) (w := w) (ft := ft) ?_ (fun hx => ?_); subst x; rotate_left; clear_value x; rotate_right)
        | (have _t : State := x; clear _t; subst x)
        | (have _t : Work → Work := x; clear _t; subst x)
        | (have _t : Nat → Work → Work := x; clear _t; subst x)
        | (have _t : Work → Nat → Work := x; clear _t; subst x)
        | (have _t : Work → (Resident → Resident) → Work := x; clear _t; subst x)
        | clear_value x)
    | (with_reducible refine (Work.erase_each _ _ _ (fun w _ => ?_)).trans ?_)
    | (with_reducible refine (Work.erase_fold2 _ _ _ (fun _ w _ => ?_)).trans ?_)
    | (with_reducible refine (Work.erase_fold3 _ _ _ (fun _ _ w _ => ?_)).trans ?_)
    | (split <;> try (rename_i hq; first
        | (with_reducible refine Work.erase_pair (w := w) (ft := ft) hq ?_ (fun hx => ?_); clear hq; rotate_left; clear hq; rotate_right)
        | (with_reducible refine Work.erase_triple (w := w) (ft := ft) hq ?_ (fun hx => ?_); clear hq; rotate_left; clear hq; rotate_right)
        | clear hq))
  all_goals simp [*]

@[simp] theorem Work.noteFlip_erase {ft : Part → Bool} (hp : ft .flips = true) (w : Work) (c h : Nat) (t : TableRec) (i : Nat) (e : Entry) :
    (Work.noteFlip w c h t i e).erase ft = w.erase ft := by
  unfold Work.noteFlip
  try dsimp only
  repeat' split
  all_goals first | with_reducible rfl | simp [hp]

@[simp] theorem Work.flipRow_erase {ft : Part → Bool} (hp : ft .sent = true ∧ ft .pad = true ∧ ft .flash = true ∧ ft .sched = true ∧ ft .fns = true ∧ ft .rings = true ∧ ft .actives = true ∧ ft .pcieTx = true ∧ ft .ctxs = true ∧ ft .regions = true ∧ ft .hbm = true ∧ ft .pkgBytes = true ∧ ft .tiles = true ∧ ft .phys = true ∧ ft .retiring = true ∧ ft .requests = true ∧ ft .nextTag = true ∧ ft .flips = true ∧ ft .mw = true ∧ ft .hw = true) (w : Work) (a : Active) (h : Nat) (t : TableRec) (i : Nat) (row : List Byte) (u : List Upset) :
    (Work.flipRow w a h t i row u).2.erase ft = w.erase ft := by
  unfold Work.flipRow
  repeat' first
    | with_reducible rfl
    | (extract_lets +onlyGivenNames x; first
        | (refine Work.erase_step (x := x) (w := w) (ft := ft) ?_ (fun hx => ?_); subst x; rotate_left; clear_value x; rotate_right)
        | (have _t : State := x; clear _t; subst x)
        | (have _t : Work → Work := x; clear _t; subst x)
        | (have _t : Nat → Work → Work := x; clear _t; subst x)
        | (have _t : Work → Nat → Work := x; clear _t; subst x)
        | (have _t : Work → (Resident → Resident) → Work := x; clear _t; subst x)
        | clear_value x)
    | (with_reducible refine (Work.erase_each _ _ _ (fun w _ => ?_)).trans ?_)
    | (with_reducible refine (Work.erase_fold2 _ _ _ (fun _ w _ => ?_)).trans ?_)
    | (with_reducible refine (Work.erase_fold3 _ _ _ (fun _ _ w _ => ?_)).trans ?_)
    | (split <;> try (rename_i hq; first
        | (with_reducible refine Work.erase_pair (w := w) (ft := ft) hq ?_ (fun hx => ?_); clear hq; rotate_left; clear hq; rotate_right)
        | (with_reducible refine Work.erase_triple (w := w) (ft := ft) hq ?_ (fun hx => ?_); clear hq; rotate_left; clear hq; rotate_right)
        | clear hq))
  all_goals simp [*]

@[simp] theorem Work.retierRow_erase {ft : Part → Bool} (hp : ft .sent = true ∧ ft .pad = true ∧ ft .flash = true ∧ ft .sched = true ∧ ft .fns = true ∧ ft .rings = true ∧ ft .actives = true ∧ ft .pcieTx = true ∧ ft .ctxs = true ∧ ft .regions = true ∧ ft .hbm = true ∧ ft .pkgBytes = true ∧ ft .tiles = true ∧ ft .phys = true ∧ ft .retiring = true ∧ ft .requests = true ∧ ft .nextTag = true ∧ ft .flips = true ∧ ft .mw = true ∧ ft .hw = true) (w : Work) (a : Active) (h : Nat) (t : TableRec) (i tier : Nat) (u : List Upset) :
    (Work.retierRow w a h t i tier u).2.erase ft = w.erase ft := by
  unfold Work.retierRow
  repeat' first
    | with_reducible rfl
    | (extract_lets +onlyGivenNames x; first
        | (refine Work.erase_step (x := x) (w := w) (ft := ft) ?_ (fun hx => ?_); subst x; rotate_left; clear_value x; rotate_right)
        | (have _t : State := x; clear _t; subst x)
        | (have _t : Work → Work := x; clear _t; subst x)
        | (have _t : Nat → Work → Work := x; clear _t; subst x)
        | (have _t : Work → Nat → Work := x; clear _t; subst x)
        | (have _t : Work → (Resident → Resident) → Work := x; clear _t; subst x)
        | clear_value x)
    | (with_reducible refine (Work.erase_each _ _ _ (fun w _ => ?_)).trans ?_)
    | (with_reducible refine (Work.erase_fold2 _ _ _ (fun _ w _ => ?_)).trans ?_)
    | (with_reducible refine (Work.erase_fold3 _ _ _ (fun _ _ w _ => ?_)).trans ?_)
    | (split <;> try (rename_i hq; first
        | (with_reducible refine Work.erase_pair (w := w) (ft := ft) hq ?_ (fun hx => ?_); clear hq; rotate_left; clear hq; rotate_right)
        | (with_reducible refine Work.erase_triple (w := w) (ft := ft) hq ?_ (fun hx => ?_); clear hq; rotate_left; clear hq; rotate_right)
        | clear hq))
  all_goals simp [*]

@[simp] theorem Work.rows_erase {ft : Part → Bool} {α : Type} (w : Work) (r : RowRun) (xs : List α) (f : Work → α → RowEnd × Work) (h_f : ∀ (y0 : Work) (y1 : α), (f y0 y1).2.erase ft = Work.erase ft y0) :
    (Work.rows w r xs f).2.erase ft = w.erase ft := by
  unfold Work.rows
  repeat' first
    | with_reducible rfl
    | (extract_lets +onlyGivenNames x; first
        | (refine Work.erase_step (x := x) (w := w) (ft := ft) ?_ (fun hx => ?_); subst x; rotate_left; clear_value x; rotate_right)
        | (have _t : State := x; clear _t; subst x)
        | (have _t : Work → Work := x; clear _t; subst x)
        | (have _t : Nat → Work → Work := x; clear _t; subst x)
        | (have _t : Work → Nat → Work := x; clear _t; subst x)
        | (have _t : Work → (Resident → Resident) → Work := x; clear _t; subst x)
        | clear_value x)
    | (with_reducible refine (Work.erase_each _ _ _ (fun w _ => ?_)).trans ?_)
    | (with_reducible refine (Work.erase_fold2 _ _ _ (fun _ w _ => ?_)).trans ?_)
    | (with_reducible refine (Work.erase_fold3 _ _ _ (fun _ _ w _ => ?_)).trans ?_)
    | (split <;> try (rename_i hq; first
        | (with_reducible refine Work.erase_pair (w := w) (ft := ft) hq ?_ (fun hx => ?_); clear hq; rotate_left; clear hq; rotate_right)
        | (with_reducible refine Work.erase_triple (w := w) (ft := ft) hq ?_ (fun hx => ?_); clear hq; rotate_left; clear hq; rotate_right)
        | clear hq))
  all_goals simp [*]

@[simp] theorem Work.rowsReply_erase {ft : Part → Bool} (hp : ft .sent = true ∧ ft .free = true ∧ ft .pad = true ∧ ft .flash = true ∧ ft .sched = true ∧ ft .fns = true ∧ ft .rings = true ∧ ft .actives = true ∧ ft .pcieTx = true ∧ ft .ctxs = true ∧ ft .regions = true ∧ ft .hbm = true ∧ ft .tiles = true ∧ ft .phys = true ∧ ft .mw = true ∧ ft .hw = true) (w : Work) (a : Active) (r : RowRun) :
    (Work.rowsReply w a r).erase ft = w.erase ft := by
  unfold Work.rowsReply
  repeat' first
    | with_reducible rfl
    | (extract_lets +onlyGivenNames x; first
        | (refine Work.erase_step (x := x) (w := w) (ft := ft) ?_ (fun hx => ?_); subst x; rotate_left; clear_value x; rotate_right)
        | (have _t : State := x; clear _t; subst x)
        | (have _t : Work → Work := x; clear _t; subst x)
        | (have _t : Nat → Work → Work := x; clear _t; subst x)
        | (have _t : Work → Nat → Work := x; clear _t; subst x)
        | (have _t : Work → (Resident → Resident) → Work := x; clear _t; subst x)
        | clear_value x)
    | (with_reducible refine (Work.erase_each _ _ _ (fun w _ => ?_)).trans ?_)
    | (with_reducible refine (Work.erase_fold2 _ _ _ (fun _ w _ => ?_)).trans ?_)
    | (with_reducible refine (Work.erase_fold3 _ _ _ (fun _ _ w _ => ?_)).trans ?_)
    | (split <;> try (rename_i hq; first
        | (with_reducible refine Work.erase_pair (w := w) (ft := ft) hq ?_ (fun hx => ?_); clear hq; rotate_left; clear hq; rotate_right)
        | (with_reducible refine Work.erase_triple (w := w) (ft := ft) hq ?_ (fun hx => ?_); clear hq; rotate_left; clear hq; rotate_right)
        | clear hq))
  all_goals simp [*]

@[simp] theorem Work.runRows_erase {ft : Part → Bool} (hp : ft .sent = true ∧ ft .free = true ∧ ft .pad = true ∧ ft .flash = true ∧ ft .sched = true ∧ ft .fns = true ∧ ft .rings = true ∧ ft .actives = true ∧ ft .pcieTx = true ∧ ft .ctxs = true ∧ ft .regions = true ∧ ft .hbm = true ∧ ft .pkgBytes = true ∧ ft .tiles = true ∧ ft .phys = true ∧ ft .retiring = true ∧ ft .requests = true ∧ ft .nextTag = true ∧ ft .flips = true ∧ ft .mw = true ∧ ft .hw = true) (w : Work) (a : Active) (h : Nat) (t : TableRec) (r : RowRun) (todo : List (Nat × RowJob)) (u : List Upset) :
    (Work.runRows w a h t r todo u).erase ft = w.erase ft := by
  unfold Work.runRows
  repeat' first
    | with_reducible rfl
    | (extract_lets +onlyGivenNames x; first
        | (refine Work.erase_step (x := x) (w := w) (ft := ft) ?_ (fun hx => ?_); subst x; rotate_left; clear_value x; rotate_right)
        | (have _t : State := x; clear _t; subst x)
        | (have _t : Work → Work := x; clear _t; subst x)
        | (have _t : Nat → Work → Work := x; clear _t; subst x)
        | (have _t : Work → Nat → Work := x; clear _t; subst x)
        | (have _t : Work → (Resident → Resident) → Work := x; clear _t; subst x)
        | clear_value x)
    | (with_reducible refine (Work.erase_each _ _ _ (fun w _ => ?_)).trans ?_)
    | (with_reducible refine (Work.erase_fold2 _ _ _ (fun _ w _ => ?_)).trans ?_)
    | (with_reducible refine (Work.erase_fold3 _ _ _ (fun _ _ w _ => ?_)).trans ?_)
    | (with_reducible refine (Work.rows_erase _ _ _ _ (fun w _ => ?_)).trans ?_)
    | (split <;> try (rename_i hq; first
        | (with_reducible refine Work.erase_pair (w := w) (ft := ft) hq ?_ (fun hx => ?_); clear hq; rotate_left; clear hq; rotate_right)
        | (with_reducible refine Work.erase_triple (w := w) (ft := ft) hq ?_ (fun hx => ?_); clear hq; rotate_left; clear hq; rotate_right)
        | clear hq))
  all_goals simp [*]

@[simp] theorem Work.afterPublish_erase {ft : Part → Bool} (hp : ft .sent = true ∧ ft .free = true ∧ ft .pad = true ∧ ft .flash = true ∧ ft .sched = true ∧ ft .fns = true ∧ ft .rings = true ∧ ft .actives = true ∧ ft .pcieTx = true ∧ ft .ctxs = true ∧ ft .regions = true ∧ ft .hbm = true ∧ ft .pkgBytes = true ∧ ft .tiles = true ∧ ft .phys = true ∧ ft .retiring = true ∧ ft .requests = true ∧ ft .nextTag = true ∧ ft .flips = true ∧ ft .mw = true ∧ ft .hw = true) (w : Work) (handle : Nat) (table : Nat) (u : List Upset) (a : Active) :
    (Work.afterPublish w handle table u a).erase ft = w.erase ft := by
  unfold Work.afterPublish
  repeat' first
    | with_reducible rfl
    | (extract_lets +onlyGivenNames x; first
        | (refine Work.erase_step (x := x) (w := w) (ft := ft) ?_ (fun hx => ?_); subst x; rotate_left; clear_value x; rotate_right)
        | (have _t : State := x; clear _t; subst x)
        | (have _t : Work → Work := x; clear _t; subst x)
        | (have _t : Nat → Work → Work := x; clear _t; subst x)
        | (have _t : Work → Nat → Work := x; clear _t; subst x)
        | (have _t : Work → (Resident → Resident) → Work := x; clear _t; subst x)
        | clear_value x)
    | (with_reducible refine (Work.erase_each _ _ _ (fun w _ => ?_)).trans ?_)
    | (with_reducible refine (Work.erase_fold2 _ _ _ (fun _ w _ => ?_)).trans ?_)
    | (with_reducible refine (Work.erase_fold3 _ _ _ (fun _ _ w _ => ?_)).trans ?_)
    | (split <;> try (rename_i hq; first
        | (with_reducible refine Work.erase_pair (w := w) (ft := ft) hq ?_ (fun hx => ?_); clear hq; rotate_left; clear hq; rotate_right)
        | (with_reducible refine Work.erase_triple (w := w) (ft := ft) hq ?_ (fun hx => ?_); clear hq; rotate_left; clear hq; rotate_right)
        | clear hq))
  all_goals simp [*]

@[simp] theorem Work.hostWrite_erase {ft : Part → Bool} (hp : ft .sent = true ∧ ft .pad = true ∧ ft .flash = true ∧ ft .sched = true ∧ ft .fns = true ∧ ft .rings = true ∧ ft .actives = true ∧ ft .pcieTx = true ∧ ft .ctxs = true ∧ ft .regions = true ∧ ft .hbm = true ∧ ft .pkgBytes = true ∧ ft .tiles = true ∧ ft .phys = true ∧ ft .requests = true ∧ ft .nextTag = true ∧ ft .mw = true ∧ ft .hw = true) (w : Work) (a : Active) (addr : Nat) (bs : List Byte) (u : List Upset) :
    (Work.hostWrite w a addr bs u).erase ft = w.erase ft := by
  unfold Work.hostWrite
  repeat' first
    | with_reducible rfl
    | (extract_lets +onlyGivenNames x; first
        | (refine Work.erase_step (x := x) (w := w) (ft := ft) ?_ (fun hx => ?_); subst x; rotate_left; clear_value x; rotate_right)
        | (have _t : State := x; clear _t; subst x)
        | (have _t : Work → Work := x; clear _t; subst x)
        | (have _t : Nat → Work → Work := x; clear _t; subst x)
        | (have _t : Work → Nat → Work := x; clear _t; subst x)
        | (have _t : Work → (Resident → Resident) → Work := x; clear _t; subst x)
        | clear_value x)
    | (with_reducible refine (Work.erase_each _ _ _ (fun w _ => ?_)).trans ?_)
    | (with_reducible refine (Work.erase_fold2 _ _ _ (fun _ w _ => ?_)).trans ?_)
    | (with_reducible refine (Work.erase_fold3 _ _ _ (fun _ _ w _ => ?_)).trans ?_)
    | (split <;> try (rename_i hq; first
        | (with_reducible refine Work.erase_pair (w := w) (ft := ft) hq ?_ (fun hx => ?_); clear hq; rotate_left; clear hq; rotate_right)
        | (with_reducible refine Work.erase_triple (w := w) (ft := ft) hq ?_ (fun hx => ?_); clear hq; rotate_left; clear hq; rotate_right)
        | clear hq))
  all_goals simp [*]

@[simp] theorem Work.hostArrived_erase {ft : Part → Bool} (hp : ft .sent = true ∧ ft .free = true ∧ ft .pad = true ∧ ft .flash = true ∧ ft .sched = true ∧ ft .fns = true ∧ ft .rings = true ∧ ft .actives = true ∧ ft .pcieTx = true ∧ ft .ctxs = true ∧ ft .regions = true ∧ ft .hbm = true ∧ ft .pkgBytes = true ∧ ft .tiles = true ∧ ft .phys = true ∧ ft .retiring = true ∧ ft .requests = true ∧ ft .nextTag = true ∧ ft .flips = true ∧ ft .mw = true ∧ ft .hw = true) (w : Work) (a : Active) (use : HostUse) (bs : List Byte) (u : List Upset) :
    (Work.hostArrived w a use bs u).erase ft = w.erase ft := by
  unfold Work.hostArrived
  repeat' first
    | with_reducible rfl
    | (extract_lets +onlyGivenNames x; first
        | (refine Work.erase_step (x := x) (w := w) (ft := ft) ?_ (fun hx => ?_); subst x; rotate_left; clear_value x; rotate_right)
        | (have _t : State := x; clear _t; subst x)
        | (have _t : Work → Work := x; clear _t; subst x)
        | (have _t : Nat → Work → Work := x; clear _t; subst x)
        | (have _t : Work → Nat → Work := x; clear _t; subst x)
        | (have _t : Work → (Resident → Resident) → Work := x; clear _t; subst x)
        | clear_value x)
    | (with_reducible refine (Work.erase_each _ _ _ (fun w _ => ?_)).trans ?_)
    | (with_reducible refine (Work.erase_fold2 _ _ _ (fun _ w _ => ?_)).trans ?_)
    | (with_reducible refine (Work.erase_fold3 _ _ _ (fun _ _ w _ => ?_)).trans ?_)
    | (with_reducible refine (Work.rows_erase (by simp [hp]) _ _ _ (fun w _ => ?_)).trans ?_)
    | (split <;> try (rename_i hq; first
        | (with_reducible refine Work.erase_pair (w := w) (ft := ft) hq ?_ (fun hx => ?_); clear hq; rotate_left; clear hq; rotate_right)
        | (with_reducible refine Work.erase_triple (w := w) (ft := ft) hq ?_ (fun hx => ?_); clear hq; rotate_left; clear hq; rotate_right)
        | clear hq))
  all_goals simp [*]

@[simp] theorem Work.resetFunction_erase {ft : Part → Bool} (hp : ft .sent = true ∧ ft .free = true ∧ ft .pad = true ∧ ft .flash = true ∧ ft .sched = true ∧ ft .progs = true ∧ ft .fns = true ∧ ft .rings = true ∧ ft .actives = true ∧ ft .latch = true ∧ ft .pcieTx = true ∧ ft .ctxs = true ∧ ft .regions = true ∧ ft .jobs = true ∧ ft .tiles = true ∧ ft .lanes = true ∧ ft .lanesNow = true ∧ ft .windows = true ∧ ft .retiring = true ∧ ft .requests = true ∧ ft .resident = true ∧ ft .partials = true ∧ ft .journal = true ∧ ft .flips = true ∧ ft .retierList = true ∧ ft .retierDone = true ∧ ft .retierDue = true ∧ ft .traceDesc = true ∧ ft .traceNext = true ∧ ft .idleNs = true ∧ ft .skel = true ∧ ft .mw = true ∧ ft .hw = true ∧ ft .sw = true) (w : Work) (f : Nat) :
    (Work.resetFunction w f).erase ft = w.erase ft := by
  unfold Work.resetFunction
  repeat' first
    | with_reducible rfl
    | (extract_lets +onlyGivenNames x; first
        | (refine Work.erase_step (x := x) (w := w) (ft := ft) ?_ (fun hx => ?_); subst x; rotate_left; clear_value x; rotate_right)
        | (have _t : State := x; clear _t; subst x)
        | (have _t : Work → Work := x; clear _t; subst x)
        | (have _t : Nat → Work → Work := x; clear _t; subst x)
        | (have _t : Work → Nat → Work := x; clear _t; subst x)
        | (have _t : Work → (Resident → Resident) → Work := x; clear _t; subst x)
        | clear_value x)
    | (with_reducible refine (Work.erase_each _ _ _ (fun w _ => ?_)).trans ?_)
    | (with_reducible refine (Work.erase_fold2 _ _ _ (fun _ w _ => ?_)).trans ?_)
    | (with_reducible refine (Work.erase_fold3 _ _ _ (fun _ _ w _ => ?_)).trans ?_)
    | (split <;> try (rename_i hq; first
        | (with_reducible refine Work.erase_pair (w := w) (ft := ft) hq ?_ (fun hx => ?_); clear hq; rotate_left; clear hq; rotate_right)
        | (with_reducible refine Work.erase_triple (w := w) (ft := ft) hq ?_ (fun hx => ?_); clear hq; rotate_left; clear hq; rotate_right)
        | clear hq))
  all_goals simp [*]

@[simp] theorem Work.hbmFound_erase {ft : Part → Bool} (hp : ft .sent = true ∧ ft .pad = true ∧ ft .flash = true ∧ ft .sched = true ∧ ft .fns = true ∧ ft .rings = true ∧ ft .actives = true ∧ ft .pcieTx = true ∧ ft .ctxs = true ∧ ft .regions = true ∧ ft .hbm = true ∧ ft .pkgBytes = true ∧ ft .tiles = true ∧ ft .phys = true ∧ ft .mw = true ∧ ft .hw = true) (w : Work) (k off lane src : Nat) (e : ErrKind) :
    (Work.hbmFound w k off lane src e).erase ft = w.erase ft := by
  unfold Work.hbmFound
  try dsimp only
  repeat' split
  all_goals first | with_reducible rfl | simp [hp]

@[simp] theorem Work.serveHbm_erase {ft : Part → Bool} (hp : ft .sent = true ∧ ft .pad = true ∧ ft .flash = true ∧ ft .sched = true ∧ ft .fns = true ∧ ft .rings = true ∧ ft .actives = true ∧ ft .pcieTx = true ∧ ft .ctxs = true ∧ ft .regions = true ∧ ft .hbm = true ∧ ft .pkgBytes = true ∧ ft .tiles = true ∧ ft .phys = true ∧ ft .mw = true ∧ ft .hw = true) (w : Work) (q : HbmReq) (sector : Bool) :
    (Work.serveHbm w q sector).erase ft = w.erase ft := by
  unfold Work.serveHbm
  repeat' first
    | with_reducible rfl
    | (extract_lets +onlyGivenNames x; first
        | (refine Work.erase_step (x := x) (w := w) (ft := ft) ?_ (fun hx => ?_); subst x; rotate_left; clear_value x; rotate_right)
        | (have _t : State := x; clear _t; subst x)
        | (have _t : Work → Work := x; clear _t; subst x)
        | (have _t : Nat → Work → Work := x; clear _t; subst x)
        | (have _t : Work → Nat → Work := x; clear _t; subst x)
        | (have _t : Work → (Resident → Resident) → Work := x; clear _t; subst x)
        | clear_value x)
    | (with_reducible refine (Work.erase_each _ _ _ (fun w _ => ?_)).trans ?_)
    | (with_reducible refine (Work.erase_fold2 _ _ _ (fun _ w _ => ?_)).trans ?_)
    | (with_reducible refine (Work.erase_fold3 _ _ _ (fun _ _ w _ => ?_)).trans ?_)
    | (split <;> try (rename_i hq; first
        | (with_reducible refine Work.erase_pair (w := w) (ft := ft) hq ?_ (fun hx => ?_); clear hq; rotate_left; clear hq; rotate_right)
        | (with_reducible refine Work.erase_triple (w := w) (ft := ft) hq ?_ (fun hx => ?_); clear hq; rotate_left; clear hq; rotate_right)
        | clear hq))
  all_goals simp [*]

@[simp] theorem Work.hbmRequest_erase {ft : Part → Bool} (hp : ft .sent = true ∧ ft .pad = true ∧ ft .flash = true ∧ ft .sched = true ∧ ft .fns = true ∧ ft .rings = true ∧ ft .actives = true ∧ ft .pcieTx = true ∧ ft .ctxs = true ∧ ft .regions = true ∧ ft .hbm = true ∧ ft .pkgBytes = true ∧ ft .tiles = true ∧ ft .phys = true ∧ ft .mw = true ∧ ft .hw = true) (w : Work) (q : HbmReq) (sector : Bool) :
    (Work.hbmRequest w q sector).erase ft = w.erase ft := by
  unfold Work.hbmRequest
  try dsimp only
  repeat' split
  all_goals first | with_reducible rfl | simp [hp]

@[simp] theorem Work.serveWaiting_erase {ft : Part → Bool} (hp : ft .sent = true ∧ ft .pad = true ∧ ft .flash = true ∧ ft .sched = true ∧ ft .fns = true ∧ ft .rings = true ∧ ft .actives = true ∧ ft .pcieTx = true ∧ ft .ctxs = true ∧ ft .regions = true ∧ ft .hbm = true ∧ ft .pkgBytes = true ∧ ft .tiles = true ∧ ft .phys = true ∧ ft .mw = true ∧ ft .hw = true) (w : Work) (stack : Nat) :
    (Work.serveWaiting w stack).erase ft = w.erase ft := by
  unfold Work.serveWaiting
  repeat' first
    | with_reducible rfl
    | (extract_lets +onlyGivenNames x; first
        | (refine Work.erase_step (x := x) (w := w) (ft := ft) ?_ (fun hx => ?_); subst x; rotate_left; clear_value x; rotate_right)
        | (have _t : State := x; clear _t; subst x)
        | (have _t : Work → Work := x; clear _t; subst x)
        | (have _t : Nat → Work → Work := x; clear _t; subst x)
        | (have _t : Work → Nat → Work := x; clear _t; subst x)
        | (have _t : Work → (Resident → Resident) → Work := x; clear _t; subst x)
        | clear_value x)
    | (with_reducible refine (Work.erase_each _ _ _ (fun w _ => ?_)).trans ?_)
    | (with_reducible refine (Work.erase_fold2 _ _ _ (fun _ w _ => ?_)).trans ?_)
    | (with_reducible refine (Work.erase_fold3 _ _ _ (fun _ _ w _ => ?_)).trans ?_)
    | (split <;> try (rename_i hq; first
        | (with_reducible refine Work.erase_pair (w := w) (ft := ft) hq ?_ (fun hx => ?_); clear hq; rotate_left; clear hq; rotate_right)
        | (with_reducible refine Work.erase_triple (w := w) (ft := ft) hq ?_ (fun hx => ?_); clear hq; rotate_left; clear hq; rotate_right)
        | clear hq))
  all_goals simp [*]

@[simp] theorem Work.holdStack_erase {ft : Part → Bool} (hp : ft .hbm = true) (w : Work) (k : Nat) (ns : Nat) :
    (Work.holdStack w k ns).erase ft = w.erase ft := by
  unfold Work.holdStack
  repeat' first
    | with_reducible rfl
    | (extract_lets +onlyGivenNames x; first
        | (refine Work.erase_step (x := x) (w := w) (ft := ft) ?_ (fun hx => ?_); subst x; rotate_left; clear_value x; rotate_right)
        | (have _t : State := x; clear _t; subst x)
        | (have _t : Work → Work := x; clear _t; subst x)
        | (have _t : Nat → Work → Work := x; clear _t; subst x)
        | (have _t : Work → Nat → Work := x; clear _t; subst x)
        | (have _t : Work → (Resident → Resident) → Work := x; clear _t; subst x)
        | clear_value x)
    | (with_reducible refine (Work.erase_each _ _ _ (fun w _ => ?_)).trans ?_)
    | (with_reducible refine (Work.erase_fold2 _ _ _ (fun _ w _ => ?_)).trans ?_)
    | (with_reducible refine (Work.erase_fold3 _ _ _ (fun _ _ w _ => ?_)).trans ?_)
    | (split <;> try (rename_i hq; first
        | (with_reducible refine Work.erase_pair (w := w) (ft := ft) hq ?_ (fun hx => ?_); clear hq; rotate_left; clear hq; rotate_right)
        | (with_reducible refine Work.erase_triple (w := w) (ft := ft) hq ?_ (fun hx => ?_); clear hq; rotate_left; clear hq; rotate_right)
        | clear hq))
  all_goals simp [*]

@[simp] theorem Work.endScrubNap_erase {ft : Part → Bool} (hp : ft .regions = true) (w : Work) (r : Nat) :
    (Work.endScrubNap w r).erase ft = w.erase ft := by
  unfold Work.endScrubNap
  repeat' first
    | with_reducible rfl
    | (extract_lets +onlyGivenNames x; first
        | (refine Work.erase_step (x := x) (w := w) (ft := ft) ?_ (fun hx => ?_); subst x; rotate_left; clear_value x; rotate_right)
        | (have _t : State := x; clear _t; subst x)
        | (have _t : Work → Work := x; clear _t; subst x)
        | (have _t : Nat → Work → Work := x; clear _t; subst x)
        | (have _t : Work → Nat → Work := x; clear _t; subst x)
        | (have _t : Work → (Resident → Resident) → Work := x; clear _t; subst x)
        | clear_value x)
    | (with_reducible refine (Work.erase_each _ _ _ (fun w _ => ?_)).trans ?_)
    | (with_reducible refine (Work.erase_fold2 _ _ _ (fun _ w _ => ?_)).trans ?_)
    | (with_reducible refine (Work.erase_fold3 _ _ _ (fun _ _ w _ => ?_)).trans ?_)
    | (split <;> try (rename_i hq; first
        | (with_reducible refine Work.erase_pair (w := w) (ft := ft) hq ?_ (fun hx => ?_); clear hq; rotate_left; clear hq; rotate_right)
        | (with_reducible refine Work.erase_triple (w := w) (ft := ft) hq ?_ (fun hx => ?_); clear hq; rotate_left; clear hq; rotate_right)
        | clear hq))
  all_goals simp [*]

@[simp] theorem Work.scrubError_erase {ft : Part → Bool} (hp : ft .sent = true ∧ ft .pad = true ∧ ft .flash = true ∧ ft .fns = true ∧ ft .tiles = true ∧ ft .phys = true ∧ ft .mw = true) (w : Work) (p : Nat) (n : Option Nat) (kind : Nat) (word : Nat) (err : ErrKind) :
    (Work.scrubError w p n kind word err).erase ft = w.erase ft := by
  unfold Work.scrubError
  repeat' first
    | with_reducible rfl
    | (extract_lets +onlyGivenNames x; first
        | (refine Work.erase_step (x := x) (w := w) (ft := ft) ?_ (fun hx => ?_); subst x; rotate_left; clear_value x; rotate_right)
        | (have _t : State := x; clear _t; subst x)
        | (have _t : Work → Work := x; clear _t; subst x)
        | (have _t : Nat → Work → Work := x; clear _t; subst x)
        | (have _t : Work → Nat → Work := x; clear _t; subst x)
        | (have _t : Work → (Resident → Resident) → Work := x; clear _t; subst x)
        | clear_value x)
    | (with_reducible refine (Work.erase_each _ _ _ (fun w _ => ?_)).trans ?_)
    | (with_reducible refine (Work.erase_fold2 _ _ _ (fun _ w _ => ?_)).trans ?_)
    | (with_reducible refine (Work.erase_fold3 _ _ _ (fun _ _ w _ => ?_)).trans ?_)
    | (split <;> try (rename_i hq; first
        | (with_reducible refine Work.erase_pair (w := w) (ft := ft) hq ?_ (fun hx => ?_); clear hq; rotate_left; clear hq; rotate_right)
        | (with_reducible refine Work.erase_triple (w := w) (ft := ft) hq ?_ (fun hx => ?_); clear hq; rotate_left; clear hq; rotate_right)
        | clear hq))
  all_goals simp [*]

@[simp] theorem Work.pump_erase {ft : Part → Bool} (hp : ft .sent = true ∧ ft .ports = true) (w : Work) (port : Nat) (x0 : Nat) :
    (Work.pump w port x0).erase ft = w.erase ft := by
  induction x0 generalizing w
  all_goals unfold Work.pump
  all_goals try dsimp only
  all_goals repeat' split
  all_goals first | with_reducible rfl | simp [*]

@[simp] theorem Work.pumpPort_erase {ft : Part → Bool} (hp : ft .sent = true ∧ ft .ports = true) (w : Work) (port : Nat) :
    (Work.pumpPort w port).erase ft = w.erase ft := by
  unfold Work.pumpPort
  try dsimp only
  repeat' split
  all_goals first | with_reducible rfl | simp [hp]

@[simp] theorem Work.sendPort_erase {ft : Part → Bool} (hp : ft .sent = true ∧ ft .ports = true) (w : Work) (port : Nat) (p : Parcel) :
    (Work.sendPort w port p).erase ft = w.erase ft := by
  unfold Work.sendPort
  try dsimp only
  repeat' split
  all_goals first | with_reducible rfl | simp [hp]

@[simp] theorem Work.resend_erase {ft : Part → Bool} (hp : ft .sent = true) (w : Work) (port : Nat) :
    (Work.resend w port).erase ft = w.erase ft := by
  unfold Work.resend
  try dsimp only
  repeat' split
  all_goals first | with_reducible rfl | simp [hp]

@[simp] theorem Work.sendReport_erase {ft : Part → Bool} (hp : ft .sent = true ∧ ft .ports = true) (w : Work) (port code : Nat) :
    (Work.sendReport w port code).erase ft = w.erase ft := by
  unfold Work.sendReport
  try dsimp only
  repeat' split
  all_goals first | with_reducible rfl | simp [hp]

@[simp] theorem Work.acked_erase {ft : Part → Bool} (hp : ft .sent = true ∧ ft .ports = true) (w : Work) (port ack : Nat) :
    (Work.acked w port ack).erase ft = w.erase ft := by
  unfold Work.acked
  try dsimp only
  repeat' split
  all_goals first | with_reducible rfl | simp [hp]

@[simp] theorem Work.credited_erase {ft : Part → Bool} (hp : ft .sent = true ∧ ft .ports = true) (w : Work) (port : Nat) (freed : List Nat) :
    (Work.credited w port freed).erase ft = w.erase ft := by
  unfold Work.credited
  try dsimp only
  repeat' split
  all_goals first | with_reducible rfl | simp [hp]

@[simp] theorem Work.raiseLevels_erase {ft : Part → Bool} (hp : ft .boot = true) (w : Work) :
    (Work.raiseLevels w).erase ft = w.erase ft := by
  unfold Work.raiseLevels
  repeat' first
    | with_reducible rfl
    | (extract_lets +onlyGivenNames x; first
        | (refine Work.erase_step (x := x) (w := w) (ft := ft) ?_ (fun hx => ?_); subst x; rotate_left; clear_value x; rotate_right)
        | (have _t : State := x; clear _t; subst x)
        | (have _t : Work → Work := x; clear _t; subst x)
        | (have _t : Nat → Work → Work := x; clear _t; subst x)
        | (have _t : Work → Nat → Work := x; clear _t; subst x)
        | (have _t : Work → (Resident → Resident) → Work := x; clear _t; subst x)
        | clear_value x)
    | (with_reducible refine (Work.erase_each _ _ _ (fun w _ => ?_)).trans ?_)
    | (with_reducible refine (Work.erase_fold2 _ _ _ (fun _ w _ => ?_)).trans ?_)
    | (with_reducible refine (Work.erase_fold3 _ _ _ (fun _ _ w _ => ?_)).trans ?_)
    | (split <;> try (rename_i hq; first
        | (with_reducible refine Work.erase_pair (w := w) (ft := ft) hq ?_ (fun hx => ?_); clear hq; rotate_left; clear hq; rotate_right)
        | (with_reducible refine Work.erase_triple (w := w) (ft := ft) hq ?_ (fun hx => ?_); clear hq; rotate_left; clear hq; rotate_right)
        | clear hq))
  all_goals simp [*]

@[simp] theorem Work.travel_erase {ft : Part → Bool} (hp : ft .sent = true) (w : Work) (a : Nat × Nat) (b : Nat × Nat) (p : Parcel) :
    (Work.travel w a b p).erase ft = w.erase ft := by
  unfold Work.travel
  repeat' first
    | with_reducible rfl
    | (extract_lets +onlyGivenNames x; first
        | (refine Work.erase_step (x := x) (w := w) (ft := ft) ?_ (fun hx => ?_); subst x; rotate_left; clear_value x; rotate_right)
        | (have _t : State := x; clear _t; subst x)
        | (have _t : Work → Work := x; clear _t; subst x)
        | (have _t : Nat → Work → Work := x; clear _t; subst x)
        | (have _t : Work → Nat → Work := x; clear _t; subst x)
        | (have _t : Work → (Resident → Resident) → Work := x; clear _t; subst x)
        | clear_value x)
    | (with_reducible refine (Work.erase_each _ _ _ (fun w _ => ?_)).trans ?_)
    | (with_reducible refine (Work.erase_fold2 _ _ _ (fun _ w _ => ?_)).trans ?_)
    | (with_reducible refine (Work.erase_fold3 _ _ _ (fun _ _ w _ => ?_)).trans ?_)
    | (split <;> try (rename_i hq; first
        | (with_reducible refine Work.erase_pair (w := w) (ft := ft) hq ?_ (fun hx => ?_); clear hq; rotate_left; clear hq; rotate_right)
        | (with_reducible refine Work.erase_triple (w := w) (ft := ft) hq ?_ (fun hx => ?_); clear hq; rotate_left; clear hq; rotate_right)
        | clear hq))
  all_goals simp [*]

@[simp] theorem Work.across_erase {ft : Part → Bool} (hp : ft .sent = true) (w : Work) (from_ : Stand) (to_ : Option (Nat × Nat)) (p : Parcel) :
    (Work.across w from_ to_ p).erase ft = w.erase ft := by
  unfold Work.across
  repeat' first
    | with_reducible rfl
    | (extract_lets +onlyGivenNames x; first
        | (refine Work.erase_step (x := x) (w := w) (ft := ft) ?_ (fun hx => ?_); subst x; rotate_left; clear_value x; rotate_right)
        | (have _t : State := x; clear _t; subst x)
        | (have _t : Work → Work := x; clear _t; subst x)
        | (have _t : Nat → Work → Work := x; clear _t; subst x)
        | (have _t : Work → Nat → Work := x; clear _t; subst x)
        | (have _t : Work → (Resident → Resident) → Work := x; clear _t; subst x)
        | clear_value x)
    | (with_reducible refine (Work.erase_each _ _ _ (fun w _ => ?_)).trans ?_)
    | (with_reducible refine (Work.erase_fold2 _ _ _ (fun _ w _ => ?_)).trans ?_)
    | (with_reducible refine (Work.erase_fold3 _ _ _ (fun _ _ w _ => ?_)).trans ?_)
    | (split <;> try (rename_i hq; first
        | (with_reducible refine Work.erase_pair (w := w) (ft := ft) hq ?_ (fun hx => ?_); clear hq; rotate_left; clear hq; rotate_right)
        | (with_reducible refine Work.erase_triple (w := w) (ft := ft) hq ?_ (fun hx => ?_); clear hq; rotate_left; clear hq; rotate_right)
        | clear hq))
  all_goals simp [*]

@[simp] theorem Work.arrive_erase {ft : Part → Bool} (hp : ft .sent = true ∧ ft .pad = true ∧ ft .flash = true ∧ ft .fns = true ∧ ft .ports = true ∧ ft .routeDrops = true) (w : Work) (from_ : Stand) (p : Parcel) :
    (Work.arrive w from_ p).erase ft = w.erase ft := by
  unfold Work.arrive
  repeat' first
    | with_reducible rfl
    | (extract_lets +onlyGivenNames x; first
        | (refine Work.erase_step (x := x) (w := w) (ft := ft) ?_ (fun hx => ?_); subst x; rotate_left; clear_value x; rotate_right)
        | (have _t : State := x; clear _t; subst x)
        | (have _t : Work → Work := x; clear _t; subst x)
        | (have _t : Nat → Work → Work := x; clear _t; subst x)
        | (have _t : Work → Nat → Work := x; clear _t; subst x)
        | (have _t : Work → (Resident → Resident) → Work := x; clear _t; subst x)
        | clear_value x)
    | (with_reducible refine (Work.erase_each _ _ _ (fun w _ => ?_)).trans ?_)
    | (with_reducible refine (Work.erase_fold2 _ _ _ (fun _ w _ => ?_)).trans ?_)
    | (with_reducible refine (Work.erase_fold3 _ _ _ (fun _ _ w _ => ?_)).trans ?_)
    | (split <;> try (rename_i hq; first
        | (with_reducible refine Work.erase_pair (w := w) (ft := ft) hq ?_ (fun hx => ?_); clear hq; rotate_left; clear hq; rotate_right)
        | (with_reducible refine Work.erase_triple (w := w) (ft := ft) hq ?_ (fun hx => ?_); clear hq; rotate_left; clear hq; rotate_right)
        | clear hq))
  all_goals simp [*]

@[simp] theorem Work.reroute_erase {ft : Part → Bool} (hp : ft .sent = true ∧ ft .pad = true ∧ ft .flash = true ∧ ft .fns = true ∧ ft .ports = true ∧ ft .routeDrops = true) (w : Work) (port : Nat) :
    (Work.reroute w port).erase ft = w.erase ft := by
  unfold Work.reroute
  try dsimp only
  repeat' split
  all_goals first | with_reducible rfl | simp [hp]

@[simp] theorem Work.requestLost_erase {ft : Part → Bool} (hp : ft .sent = true ∧ ft .fns = true ∧ ft .rings = true ∧ ft .actives = true ∧ ft .pcieTx = true ∧ ft .requests = true ∧ ft .hw = true) (w : Work) (q : Request) :
    (Work.requestLost w q).erase ft = w.erase ft := by
  unfold Work.requestLost
  try dsimp only
  repeat' split
  all_goals first | with_reducible rfl | simp [hp]

@[simp] theorem Work.portLost_erase {ft : Part → Bool} (hp : ft .sent = true ∧ ft .pad = true ∧ ft .flash = true ∧ ft .fns = true ∧ ft .rings = true ∧ ft .actives = true ∧ ft .pcieTx = true ∧ ft .ctxs = true ∧ ft .ports = true ∧ ft .requests = true ∧ ft .routeDrops = true ∧ ft .hw = true) (w : Work) (port cause : Nat) :
    (Work.portLost w port cause).erase ft = w.erase ft := by
  unfold Work.portLost
  repeat' first
    | with_reducible rfl
    | (extract_lets +onlyGivenNames x; first
        | (refine Work.erase_step (x := x) (w := w) (ft := ft) ?_ (fun hx => ?_); subst x; rotate_left; clear_value x; rotate_right)
        | (have _t : State := x; clear _t; subst x)
        | (have _t : Work → Work := x; clear _t; subst x)
        | (have _t : Nat → Work → Work := x; clear _t; subst x)
        | (have _t : Work → Nat → Work := x; clear _t; subst x)
        | (have _t : Work → (Resident → Resident) → Work := x; clear _t; subst x)
        | clear_value x)
    | (with_reducible refine (Work.erase_each _ _ _ (fun w _ => ?_)).trans ?_)
    | (with_reducible refine (Work.erase_fold2 _ _ _ (fun _ w _ => ?_)).trans ?_)
    | (with_reducible refine (Work.erase_fold3 _ _ _ (fun _ _ w _ => ?_)).trans ?_)
    | (split <;> try (rename_i hq; first
        | (with_reducible refine Work.erase_pair (w := w) (ft := ft) hq ?_ (fun hx => ?_); clear hq; rotate_left; clear hq; rotate_right)
        | (with_reducible refine Work.erase_triple (w := w) (ft := ft) hq ?_ (fun hx => ?_); clear hq; rotate_left; clear hq; rotate_right)
        | clear hq))
  all_goals simp [*]

@[simp] theorem Work.sendChange_erase {ft : Part → Bool} (hp : ft .sent = true) (w : Work) (port mask : Nat) (answer : Bool) :
    (Work.sendChange w port mask answer).erase ft = w.erase ft := by
  unfold Work.sendChange
  try dsimp only
  repeat' split
  all_goals first | with_reducible rfl | simp [hp]

@[simp] theorem Work.markLane_erase {ft : Part → Bool} (hp : ft .sent = true ∧ ft .pad = true ∧ ft .flash = true ∧ ft .fns = true ∧ ft .rings = true ∧ ft .actives = true ∧ ft .pcieTx = true ∧ ft .ctxs = true ∧ ft .ports = true ∧ ft .requests = true ∧ ft .routeDrops = true ∧ ft .hw = true) (w : Work) (port : Nat) (lane : Nat) :
    (Work.markLane w port lane).erase ft = w.erase ft := by
  unfold Work.markLane
  repeat' first
    | with_reducible rfl
    | (extract_lets +onlyGivenNames x; first
        | (refine Work.erase_step (x := x) (w := w) (ft := ft) ?_ (fun hx => ?_); subst x; rotate_left; clear_value x; rotate_right)
        | (have _t : State := x; clear _t; subst x)
        | (have _t : Work → Work := x; clear _t; subst x)
        | (have _t : Nat → Work → Work := x; clear _t; subst x)
        | (have _t : Work → Nat → Work := x; clear _t; subst x)
        | (have _t : Work → (Resident → Resident) → Work := x; clear _t; subst x)
        | clear_value x)
    | (with_reducible refine (Work.erase_each _ _ _ (fun w _ => ?_)).trans ?_)
    | (with_reducible refine (Work.erase_fold2 _ _ _ (fun _ w _ => ?_)).trans ?_)
    | (with_reducible refine (Work.erase_fold3 _ _ _ (fun _ _ w _ => ?_)).trans ?_)
    | (split <;> try (rename_i hq; first
        | (with_reducible refine Work.erase_pair (w := w) (ft := ft) hq ?_ (fun hx => ?_); clear hq; rotate_left; clear hq; rotate_right)
        | (with_reducible refine Work.erase_triple (w := w) (ft := ft) hq ?_ (fun hx => ?_); clear hq; rotate_left; clear hq; rotate_right)
        | clear hq))
  all_goals simp [*]

@[simp] theorem Work.sendNak_erase {ft : Part → Bool} (hp : ft .sent = true ∧ ft .pad = true ∧ ft .flash = true ∧ ft .fns = true ∧ ft .rings = true ∧ ft .actives = true ∧ ft .pcieTx = true ∧ ft .ctxs = true ∧ ft .ports = true ∧ ft .requests = true ∧ ft .routeDrops = true ∧ ft .hw = true) (w : Work) (port : Nat) :
    (Work.sendNak w port).erase ft = w.erase ft := by
  unfold Work.sendNak
  repeat' first
    | with_reducible rfl
    | (extract_lets +onlyGivenNames x; first
        | (refine Work.erase_step (x := x) (w := w) (ft := ft) ?_ (fun hx => ?_); subst x; rotate_left; clear_value x; rotate_right)
        | (have _t : State := x; clear _t; subst x)
        | (have _t : Work → Work := x; clear _t; subst x)
        | (have _t : Nat → Work → Work := x; clear _t; subst x)
        | (have _t : Work → Nat → Work := x; clear _t; subst x)
        | (have _t : Work → (Resident → Resident) → Work := x; clear _t; subst x)
        | clear_value x)
    | (with_reducible refine (Work.erase_each _ _ _ (fun w _ => ?_)).trans ?_)
    | (with_reducible refine (Work.erase_fold2 _ _ _ (fun _ w _ => ?_)).trans ?_)
    | (with_reducible refine (Work.erase_fold3 _ _ _ (fun _ _ w _ => ?_)).trans ?_)
    | (split <;> try (rename_i hq; first
        | (with_reducible refine Work.erase_pair (w := w) (ft := ft) hq ?_ (fun hx => ?_); clear hq; rotate_left; clear hq; rotate_right)
        | (with_reducible refine Work.erase_triple (w := w) (ft := ft) hq ?_ (fun hx => ?_); clear hq; rotate_left; clear hq; rotate_right)
        | clear hq))
  all_goals simp [*]

@[simp] theorem Work.nak_erase {ft : Part → Bool} (hp : ft .sent = true ∧ ft .pad = true ∧ ft .flash = true ∧ ft .fns = true ∧ ft .rings = true ∧ ft .actives = true ∧ ft .pcieTx = true ∧ ft .ctxs = true ∧ ft .ports = true ∧ ft .requests = true ∧ ft .routeDrops = true ∧ ft .hw = true) (w : Work) (port : Nat) :
    (Work.nak w port).erase ft = w.erase ft := by
  unfold Work.nak
  try dsimp only
  repeat' split
  all_goals first | with_reducible rfl | simp [hp]

@[simp] theorem Work.acceptFlit_erase {ft : Part → Bool} (hp : ft .sent = true ∧ ft .ports = true) (w : Work) (port vc : Nat) :
    (Work.acceptFlit w port vc).erase ft = w.erase ft := by
  unfold Work.acceptFlit
  try dsimp only
  repeat' split
  all_goals first | with_reducible rfl | simp [hp]

@[simp] theorem Work.serveNak_erase {ft : Part → Bool} (hp : ft .sent = true ∧ ft .ports = true) (w : Work) (port ack : Nat) :
    (Work.serveNak w port ack).erase ft = w.erase ft := by
  unfold Work.serveNak
  try dsimp only
  repeat' split
  all_goals first | with_reducible rfl | simp [hp]

@[simp] theorem Work.laneChange_erase {ft : Part → Bool} (hp : ft .sent = true ∧ ft .pad = true ∧ ft .flash = true ∧ ft .fns = true ∧ ft .rings = true ∧ ft .actives = true ∧ ft .pcieTx = true ∧ ft .ctxs = true ∧ ft .ports = true ∧ ft .requests = true ∧ ft .routeDrops = true ∧ ft .hw = true) (w : Work) (port mask : Nat) (answer : Bool) :
    (Work.laneChange w port mask answer).erase ft = w.erase ft := by
  unfold Work.laneChange
  repeat' first
    | with_reducible rfl
    | (extract_lets +onlyGivenNames x; first
        | (refine Work.erase_step (x := x) (w := w) (ft := ft) ?_ (fun hx => ?_); subst x; rotate_left; clear_value x; rotate_right)
        | (have _t : State := x; clear _t; subst x)
        | (have _t : Work → Work := x; clear _t; subst x)
        | (have _t : Nat → Work → Work := x; clear _t; subst x)
        | (have _t : Work → Nat → Work := x; clear _t; subst x)
        | (have _t : Work → (Resident → Resident) → Work := x; clear _t; subst x)
        | clear_value x)
    | (with_reducible refine (Work.erase_each _ _ _ (fun w _ => ?_)).trans ?_)
    | (with_reducible refine (Work.erase_fold2 _ _ _ (fun _ w _ => ?_)).trans ?_)
    | (with_reducible refine (Work.erase_fold3 _ _ _ (fun _ _ w _ => ?_)).trans ?_)
    | (split <;> try (rename_i hq; first
        | (with_reducible refine Work.erase_pair (w := w) (ft := ft) hq ?_ (fun hx => ?_); clear hq; rotate_left; clear hq; rotate_right)
        | (with_reducible refine Work.erase_triple (w := w) (ft := ft) hq ?_ (fun hx => ?_); clear hq; rotate_left; clear hq; rotate_right)
        | clear hq))
  all_goals simp [*]

@[simp] theorem Work.reframe_erase {ft : Part → Bool} (hp : ft .sent = true ∧ ft .pad = true ∧ ft .flash = true ∧ ft .fns = true ∧ ft .ports = true) (w : Work) (port : Nat) (tx : Bool) (k : LaneChange) :
    (Work.reframe w port tx k).erase ft = w.erase ft := by
  unfold Work.reframe
  repeat' first
    | with_reducible rfl
    | (extract_lets +onlyGivenNames x; first
        | (refine Work.erase_step (x := x) (w := w) (ft := ft) ?_ (fun hx => ?_); subst x; rotate_left; clear_value x; rotate_right)
        | (have _t : State := x; clear _t; subst x)
        | (have _t : Work → Work := x; clear _t; subst x)
        | (have _t : Nat → Work → Work := x; clear _t; subst x)
        | (have _t : Work → Nat → Work := x; clear _t; subst x)
        | (have _t : Work → (Resident → Resident) → Work := x; clear _t; subst x)
        | clear_value x)
    | (with_reducible refine (Work.erase_each _ _ _ (fun w _ => ?_)).trans ?_)
    | (with_reducible refine (Work.erase_fold2 _ _ _ (fun _ w _ => ?_)).trans ?_)
    | (with_reducible refine (Work.erase_fold3 _ _ _ (fun _ _ w _ => ?_)).trans ?_)
    | (split <;> try (rename_i hq; first
        | (with_reducible refine Work.erase_pair (w := w) (ft := ft) hq ?_ (fun hx => ?_); clear hq; rotate_left; clear hq; rotate_right)
        | (with_reducible refine Work.erase_triple (w := w) (ft := ft) hq ?_ (fun hx => ?_); clear hq; rotate_left; clear hq; rotate_right)
        | clear hq))
  all_goals simp [*]

@[simp] theorem Work.sendHello_erase {ft : Part → Bool} (hp : ft .sent = true) (w : Work) (port : Nat) :
    (Work.sendHello w port).erase ft = w.erase ft := by
  unfold Work.sendHello
  try dsimp only
  repeat' split
  all_goals first | with_reducible rfl | simp [hp]

@[simp] theorem Work.trainFail_erase {ft : Part → Bool} (hp : ft .boot = true ∧ ft .ports = true) (w : Work) (port st : Nat) :
    (Work.trainFail w port st).erase ft = w.erase ft := by
  unfold Work.trainFail
  try dsimp only
  repeat' split
  all_goals first | with_reducible rfl | simp [hp]

@[simp] theorem Work.portUpNow_erase {ft : Part → Bool} (hp : ft .sent = true ∧ ft .boot = true ∧ ft .pad = true ∧ ft .flash = true ∧ ft .fns = true ∧ ft .ports = true) (w : Work) (port : Nat) :
    (Work.portUpNow w port).erase ft = w.erase ft := by
  unfold Work.portUpNow
  repeat' first
    | with_reducible rfl
    | (extract_lets +onlyGivenNames x; first
        | (refine Work.erase_step (x := x) (w := w) (ft := ft) ?_ (fun hx => ?_); subst x; rotate_left; clear_value x; rotate_right)
        | (have _t : State := x; clear _t; subst x)
        | (have _t : Work → Work := x; clear _t; subst x)
        | (have _t : Nat → Work → Work := x; clear _t; subst x)
        | (have _t : Work → Nat → Work := x; clear _t; subst x)
        | (have _t : Work → (Resident → Resident) → Work := x; clear _t; subst x)
        | clear_value x)
    | (with_reducible refine (Work.erase_each _ _ _ (fun w _ => ?_)).trans ?_)
    | (with_reducible refine (Work.erase_fold2 _ _ _ (fun _ w _ => ?_)).trans ?_)
    | (with_reducible refine (Work.erase_fold3 _ _ _ (fun _ _ w _ => ?_)).trans ?_)
    | (split <;> try (rename_i hq; first
        | (with_reducible refine Work.erase_pair (w := w) (ft := ft) hq ?_ (fun hx => ?_); clear hq; rotate_left; clear hq; rotate_right)
        | (with_reducible refine Work.erase_triple (w := w) (ft := ft) hq ?_ (fun hx => ?_); clear hq; rotate_left; clear hq; rotate_right)
        | clear hq))
  all_goals simp [*]

@[simp] theorem Work.meshError_erase {ft : Part → Bool} (hp : ft .sent = true ∧ ft .pad = true ∧ ft .flash = true ∧ ft .fns = true ∧ ft .ctxs = true) (w : Work) (p : Parcel) (meshUe : Option Nat) :
    (Work.meshError w p meshUe).erase ft = w.erase ft := by
  unfold Work.meshError
  try dsimp only
  repeat' split
  all_goals first | with_reducible rfl | simp [hp]

@[simp] theorem Work.respond_erase {ft : Part → Bool} (hp : ft .sent = true) (w : Work) (p : Parcel) (type len : Nat) (data : List Byte) (poison : Bool) :
    (Work.respond w p type len data poison).erase ft = w.erase ft := by
  unfold Work.respond
  try dsimp only
  repeat' split
  all_goals first | with_reducible rfl | simp [hp]

@[simp] theorem Work.deny_erase {ft : Part → Bool} (hp : ft .sent = true ∧ ft .pad = true ∧ ft .flash = true ∧ ft .fns = true) (w : Work) (p : Parcel) (answer : Bool) :
    (Work.deny w p answer).erase ft = w.erase ft := by
  unfold Work.deny
  try dsimp only
  repeat' split
  all_goals first | with_reducible rfl | simp [hp]

@[simp] theorem Work.ingress_erase {ft : Part → Bool} (hp : ft .sent = true ∧ ft .pad = true ∧ ft .flash = true ∧ ft .fns = true) (w : Work) (p : Parcel) (answer : Bool) (f : Nat → Work → Work) (h_f : ∀ (y0 : Nat) (y1 : Work), (f y0 y1).erase ft = Work.erase ft y1) :
    (Work.ingress w p answer f).erase ft = w.erase ft := by
  unfold Work.ingress
  try dsimp only
  repeat' split
  all_goals first | with_reducible rfl | simp [hp, h_f]

@[simp] theorem Work.landWrite_erase {ft : Part → Bool} (hp : ft .hbm = true ∧ ft .pkgBytes = true ∧ ft .phys = true ∧ ft .arrivals = true ∧ ft .mw = true) (w : Work) (p : Packet) :
    (Work.landWrite w p).erase ft = w.erase ft := by
  unfold Work.landWrite
  try dsimp only
  repeat' split
  all_goals first | with_reducible rfl | simp [hp]

@[simp] theorem Work.atRegion_erase {ft : Part → Bool} (hp : ft .regions = true) (w : Work) (type : Nat) (p : Parcel) (u : List Upset) (f : Work → Work) (h_f : ∀ (y0 : Work), (f y0).erase ft = Work.erase ft y0) :
    (Work.atRegion w type p u f).erase ft = w.erase ft := by
  unfold Work.atRegion
  repeat' first
    | with_reducible rfl
    | (extract_lets +onlyGivenNames x; first
        | (refine Work.erase_step (x := x) (w := w) (ft := ft) ?_ (fun hx => ?_); subst x; rotate_left; clear_value x; rotate_right)
        | (have _t : State := x; clear _t; subst x)
        | (have _t : Work → Work := x; clear _t; subst x)
        | (have _t : Nat → Work → Work := x; clear _t; subst x)
        | (have _t : Work → Nat → Work := x; clear _t; subst x)
        | (have _t : Work → (Resident → Resident) → Work := x; clear _t; subst x)
        | clear_value x)
    | (with_reducible refine (Work.erase_each _ _ _ (fun w _ => ?_)).trans ?_)
    | (with_reducible refine (Work.erase_fold2 _ _ _ (fun _ w _ => ?_)).trans ?_)
    | (with_reducible refine (Work.erase_fold3 _ _ _ (fun _ _ w _ => ?_)).trans ?_)
    | (split <;> try (rename_i hq; first
        | (with_reducible refine Work.erase_pair (w := w) (ft := ft) hq ?_ (fun hx => ?_); clear hq; rotate_left; clear hq; rotate_right)
        | (with_reducible refine Work.erase_triple (w := w) (ft := ft) hq ?_ (fun hx => ?_); clear hq; rotate_left; clear hq; rotate_right)
        | clear hq))
  all_goals simp [*]

@[simp] theorem Work.takeArrival_erase {ft : Part → Bool} (hp : ft .regions = true ∧ ft .arrivals = true) (w : Work) (p : Parcel) :
    (Work.takeArrival w p).erase ft = w.erase ft := by
  unfold Work.takeArrival
  repeat' first
    | with_reducible rfl
    | (extract_lets +onlyGivenNames x; first
        | (refine Work.erase_step (x := x) (w := w) (ft := ft) ?_ (fun hx => ?_); subst x; rotate_left; clear_value x; rotate_right)
        | (have _t : State := x; clear _t; subst x)
        | (have _t : Work → Work := x; clear _t; subst x)
        | (have _t : Nat → Work → Work := x; clear _t; subst x)
        | (have _t : Work → Nat → Work := x; clear _t; subst x)
        | (have _t : Work → (Resident → Resident) → Work := x; clear _t; subst x)
        | clear_value x)
    | (with_reducible refine (Work.erase_each _ _ _ (fun w _ => ?_)).trans ?_)
    | (with_reducible refine (Work.erase_fold2 _ _ _ (fun _ w _ => ?_)).trans ?_)
    | (with_reducible refine (Work.erase_fold3 _ _ _ (fun _ _ w _ => ?_)).trans ?_)
    | (with_reducible refine (Work.atRegion_erase (by simp [hp]) _ _ _ _ _ (fun w => ?_)).trans ?_)
    | (split <;> try (rename_i hq; first
        | (with_reducible refine Work.erase_pair (w := w) (ft := ft) hq ?_ (fun hx => ?_); clear hq; rotate_left; clear hq; rotate_right)
        | (with_reducible refine Work.erase_triple (w := w) (ft := ft) hq ?_ (fun hx => ?_); clear hq; rotate_left; clear hq; rotate_right)
        | clear hq))
  all_goals simp [*]

@[simp] theorem Work.takeRead_erase {ft : Part → Bool} (hp : ft .sent = true ∧ ft .pad = true ∧ ft .flash = true ∧ ft .sched = true ∧ ft .fns = true ∧ ft .rings = true ∧ ft .actives = true ∧ ft .pcieTx = true ∧ ft .ctxs = true ∧ ft .regions = true ∧ ft .hbm = true ∧ ft .pkgBytes = true ∧ ft .tiles = true ∧ ft .phys = true ∧ ft .mw = true ∧ ft .hw = true) (w : Work) (p : Parcel) (u : List Upset) :
    (Work.takeRead w p u).erase ft = w.erase ft := by
  unfold Work.takeRead
  repeat' first
    | with_reducible rfl
    | (extract_lets +onlyGivenNames x; first
        | (refine Work.erase_step (x := x) (w := w) (ft := ft) ?_ (fun hx => ?_); subst x; rotate_left; clear_value x; rotate_right)
        | (have _t : State := x; clear _t; subst x)
        | (have _t : Work → Work := x; clear _t; subst x)
        | (have _t : Nat → Work → Work := x; clear _t; subst x)
        | (have _t : Work → Nat → Work := x; clear _t; subst x)
        | (have _t : Work → (Resident → Resident) → Work := x; clear _t; subst x)
        | clear_value x)
    | (with_reducible refine (Work.erase_each _ _ _ (fun w _ => ?_)).trans ?_)
    | (with_reducible refine (Work.erase_fold2 _ _ _ (fun _ w _ => ?_)).trans ?_)
    | (with_reducible refine (Work.erase_fold3 _ _ _ (fun _ _ w _ => ?_)).trans ?_)
    | (split <;> try (rename_i hq; first
        | (with_reducible refine Work.erase_pair (w := w) (ft := ft) hq ?_ (fun hx => ?_); clear hq; rotate_left; clear hq; rotate_right)
        | (with_reducible refine Work.erase_triple (w := w) (ft := ft) hq ?_ (fun hx => ?_); clear hq; rotate_left; clear hq; rotate_right)
        | clear hq))
  all_goals simp [*]

@[simp] theorem Work.packet_erase {ft : Part → Bool} (hp : ft .sent = true ∧ ft .pad = true ∧ ft .flash = true ∧ ft .sched = true ∧ ft .fns = true ∧ ft .rings = true ∧ ft .actives = true ∧ ft .pcieTx = true ∧ ft .ctxs = true ∧ ft .regions = true ∧ ft .hbm = true ∧ ft .pkgBytes = true ∧ ft .tiles = true ∧ ft .phys = true ∧ ft .arrivals = true ∧ ft .mw = true ∧ ft .hw = true) (w : Work) (type : Nat) (p : Parcel) (u : List Upset) :
    (Work.packet w type p u).erase ft = w.erase ft := by
  unfold Work.packet
  repeat' first
    | with_reducible rfl
    | (extract_lets +onlyGivenNames x; first
        | (refine Work.erase_step (x := x) (w := w) (ft := ft) ?_ (fun hx => ?_); subst x; rotate_left; clear_value x; rotate_right)
        | (have _t : State := x; clear _t; subst x)
        | (have _t : Work → Work := x; clear _t; subst x)
        | (have _t : Nat → Work → Work := x; clear _t; subst x)
        | (have _t : Work → Nat → Work := x; clear _t; subst x)
        | (have _t : Work → (Resident → Resident) → Work := x; clear _t; subst x)
        | clear_value x)
    | (with_reducible refine (Work.erase_each _ _ _ (fun w _ => ?_)).trans ?_)
    | (with_reducible refine (Work.erase_fold2 _ _ _ (fun _ w _ => ?_)).trans ?_)
    | (with_reducible refine (Work.erase_fold3 _ _ _ (fun _ _ w _ => ?_)).trans ?_)
    | (with_reducible refine (Work.ingress_erase (by simp [hp]) _ _ _ _ (fun _ w => ?_)).trans ?_)
    | (with_reducible refine (Work.atRegion_erase (by simp [hp]) _ _ _ _ _ (fun w => ?_)).trans ?_)
    | (split <;> try (rename_i hq; first
        | (with_reducible refine Work.erase_pair (w := w) (ft := ft) hq ?_ (fun hx => ?_); clear hq; rotate_left; clear hq; rotate_right)
        | (with_reducible refine Work.erase_triple (w := w) (ft := ft) hq ?_ (fun hx => ?_); clear hq; rotate_left; clear hq; rotate_right)
        | clear hq))
  all_goals simp [*]

@[simp] theorem Work.settle_erase {ft : Part → Bool} (hp : ft .sent = true ∧ ft .fns = true ∧ ft .rings = true ∧ ft .actives = true ∧ ft .pcieTx = true ∧ ft .requests = true ∧ ft .hw = true) (w : Work) (qs : List Request) (owner : Owner) :
    (Work.settle w qs owner).erase ft = w.erase ft := by
  unfold Work.settle
  try dsimp only
  repeat' split
  all_goals first | with_reducible rfl | simp [hp]

@[simp] theorem Work.deliver_erase {ft : Part → Bool} (hp : ft .sent = true ∧ ft .pcieTx = true ∧ ft .hbm = true ∧ ft .pkgBytes = true ∧ ft .phys = true ∧ ft .requests = true ∧ ft .nextTag = true ∧ ft .mw = true ∧ ft .hw = true ∧ ft .sw = true) (w : Work) (q : Request) (bs : List Byte) (poison : Bool) :
    (Work.deliver w q bs poison).erase ft = w.erase ft := by
  unfold Work.deliver
  repeat' first
    | with_reducible rfl
    | (extract_lets +onlyGivenNames x; first
        | (refine Work.erase_step (x := x) (w := w) (ft := ft) ?_ (fun hx => ?_); subst x; rotate_left; clear_value x; rotate_right)
        | (have _t : State := x; clear _t; subst x)
        | (have _t : Work → Work := x; clear _t; subst x)
        | (have _t : Nat → Work → Work := x; clear _t; subst x)
        | (have _t : Work → Nat → Work := x; clear _t; subst x)
        | (have _t : Work → (Resident → Resident) → Work := x; clear _t; subst x)
        | clear_value x)
    | (with_reducible refine (Work.erase_each _ _ _ (fun w _ => ?_)).trans ?_)
    | (with_reducible refine (Work.erase_fold2 _ _ _ (fun _ w _ => ?_)).trans ?_)
    | (with_reducible refine (Work.erase_fold3 _ _ _ (fun _ _ w _ => ?_)).trans ?_)
    | (split <;> try (rename_i hq; first
        | (with_reducible refine Work.erase_pair (w := w) (ft := ft) hq ?_ (fun hx => ?_); clear hq; rotate_left; clear hq; rotate_right)
        | (with_reducible refine Work.erase_triple (w := w) (ft := ft) hq ?_ (fun hx => ?_); clear hq; rotate_left; clear hq; rotate_right)
        | clear hq))
  all_goals simp [*]

@[simp] theorem Work.sendProbes_erase {ft : Part → Bool} (hp : ft .sent = true) (w : Work) (except : Option Nat) (epoch delaySum : Nat) :
    (Work.sendProbes w except epoch delaySum).erase ft = w.erase ft := by
  unfold Work.sendProbes
  try dsimp only
  repeat' split
  all_goals first | with_reducible rfl | simp [hp]

@[simp] theorem Work.formSystem_erase {ft : Part → Bool} (hp : ft .sent = true ∧ ft .sched = true ∧ ft .fns = true ∧ ft .rings = true ∧ ft .actives = true ∧ ft .pcieTx = true ∧ ft .form = true ∧ ft .bank = true ∧ ft .hw = true) (w : Work) (a : Active) (ex ey ez : Nat) :
    (Work.formSystem w a ex ey ez).erase ft = w.erase ft := by
  unfold Work.formSystem
  repeat' first
    | with_reducible rfl
    | (extract_lets +onlyGivenNames x; first
        | (refine Work.erase_step (x := x) (w := w) (ft := ft) ?_ (fun hx => ?_); subst x; rotate_left; clear_value x; rotate_right)
        | (have _t : State := x; clear _t; subst x)
        | (have _t : Work → Work := x; clear _t; subst x)
        | (have _t : Nat → Work → Work := x; clear _t; subst x)
        | (have _t : Work → Nat → Work := x; clear _t; subst x)
        | (have _t : Work → (Resident → Resident) → Work := x; clear _t; subst x)
        | clear_value x)
    | (with_reducible refine (Work.erase_each _ _ _ (fun w _ => ?_)).trans ?_)
    | (with_reducible refine (Work.erase_fold2 _ _ _ (fun _ w _ => ?_)).trans ?_)
    | (with_reducible refine (Work.erase_fold3 _ _ _ (fun _ _ w _ => ?_)).trans ?_)
    | (split <;> try (rename_i hq; first
        | (with_reducible refine Work.erase_pair (w := w) (ft := ft) hq ?_ (fun hx => ?_); clear hq; rotate_left; clear hq; rotate_right)
        | (with_reducible refine Work.erase_triple (w := w) (ft := ft) hq ?_ (fun hx => ?_); clear hq; rotate_left; clear hq; rotate_right)
        | clear hq))
  all_goals simp [*]

@[simp] theorem Work.follow_erase {ft : Part → Bool} (hp : ft .sent = true ∧ ft .time = true ∧ ft .pad = true ∧ ft .flash = true ∧ ft .sched = true ∧ ft .fns = true ∧ ft .rings = true ∧ ft .actives = true ∧ ft .pcieTx = true ∧ ft .ctxs = true ∧ ft .form = true ∧ ft .bank = true ∧ ft .tiles = true ∧ ft .hw = true) (w : Work) (epoch : Nat) :
    (Work.follow w epoch).erase ft = w.erase ft := by
  unfold Work.follow
  repeat' first
    | with_reducible rfl
    | (extract_lets +onlyGivenNames x; first
        | (refine Work.erase_step (x := x) (w := w) (ft := ft) ?_ (fun hx => ?_); subst x; rotate_left; clear_value x; rotate_right)
        | (have _t : State := x; clear _t; subst x)
        | (have _t : Work → Work := x; clear _t; subst x)
        | (have _t : Nat → Work → Work := x; clear _t; subst x)
        | (have _t : Work → Nat → Work := x; clear _t; subst x)
        | (have _t : Work → (Resident → Resident) → Work := x; clear _t; subst x)
        | clear_value x)
    | (with_reducible refine (Work.erase_each _ _ _ (fun w _ => ?_)).trans ?_)
    | (with_reducible refine (Work.erase_fold2 _ _ _ (fun _ w _ => ?_)).trans ?_)
    | (with_reducible refine (Work.erase_fold3 _ _ _ (fun _ _ w _ => ?_)).trans ?_)
    | (split <;> try (rename_i hq; first
        | (with_reducible refine Work.erase_pair (w := w) (ft := ft) hq ?_ (fun hx => ?_); clear hq; rotate_left; clear hq; rotate_right)
        | (with_reducible refine Work.erase_triple (w := w) (ft := ft) hq ?_ (fun hx => ?_); clear hq; rotate_left; clear hq; rotate_right)
        | clear hq))
  all_goals simp [*]

@[simp] theorem Work.control_erase {ft : Part → Bool} (hp : ft .sent = true ∧ ft .time = true ∧ ft .pad = true ∧ ft .flash = true ∧ ft .sched = true ∧ ft .fns = true ∧ ft .rings = true ∧ ft .actives = true ∧ ft .pcieTx = true ∧ ft .ctxs = true ∧ ft .form = true ∧ ft .bank = true ∧ ft .tiles = true ∧ ft .hw = true) (w : Work) (epoch : Nat) (f : Work → Work) (h_f : ∀ (y0 : Work), (f y0).erase ft = Work.erase ft y0) :
    (Work.control w epoch f).erase ft = w.erase ft := by
  unfold Work.control
  try dsimp only
  repeat' split
  all_goals first | with_reducible rfl | simp [hp, h_f]

@[simp] theorem Work.asBanker_erase {ft : Part → Bool} (hp : ft .sent = true ∧ ft .fns = true ∧ ft .rings = true ∧ ft .actives = true ∧ ft .pcieTx = true ∧ ft .hw = true) (w : Work) (a : Active) (f : Work → Work) (h_f : ∀ (y0 : Work), (f y0).erase ft = Work.erase ft y0) :
    (Work.asBanker w a f).erase ft = w.erase ft := by
  unfold Work.asBanker
  try dsimp only
  repeat' split
  all_goals first | with_reducible rfl | simp [hp, h_f]

@[simp] theorem Work.joinPackage_erase {ft : Part → Bool} (hp : ft .sent = true ∧ ft .sched = true ∧ ft .fns = true ∧ ft .rings = true ∧ ft .actives = true ∧ ft .pcieTx = true ∧ ft .ctxs = true ∧ ft .ports = true ∧ ft .form = true ∧ ft .bank = true ∧ ft .hw = true) (w : Work) (a : Active) (at_ : Xyz) :
    (Work.joinPackage w a at_).erase ft = w.erase ft := by
  unfold Work.joinPackage
  repeat' first
    | with_reducible rfl
    | (extract_lets +onlyGivenNames x; first
        | (refine Work.erase_step (x := x) (w := w) (ft := ft) ?_ (fun hx => ?_); subst x; rotate_left; clear_value x; rotate_right)
        | (have _t : State := x; clear _t; subst x)
        | (have _t : Work → Work := x; clear _t; subst x)
        | (have _t : Nat → Work → Work := x; clear _t; subst x)
        | (have _t : Work → Nat → Work := x; clear _t; subst x)
        | (have _t : Work → (Resident → Resident) → Work := x; clear _t; subst x)
        | clear_value x)
    | (with_reducible refine (Work.erase_each _ _ _ (fun w _ => ?_)).trans ?_)
    | (with_reducible refine (Work.erase_fold2 _ _ _ (fun _ w _ => ?_)).trans ?_)
    | (with_reducible refine (Work.erase_fold3 _ _ _ (fun _ _ w _ => ?_)).trans ?_)
    | (with_reducible refine (Work.asBanker_erase (by simp [hp]) _ _ _ (fun w => ?_)).trans ?_)
    | (with_reducible refine (Work.decideBy_erase (by simp [hp]) _ _ _ (fun w => ?_)).trans ?_)
    | (split <;> try (rename_i hq; first
        | (with_reducible refine Work.erase_pair (w := w) (ft := ft) hq ?_ (fun hx => ?_); clear hq; rotate_left; clear hq; rotate_right)
        | (with_reducible refine Work.erase_triple (w := w) (ft := ft) hq ?_ (fun hx => ?_); clear hq; rotate_left; clear hq; rotate_right)
        | clear hq))
  all_goals simp [*]

@[simp] theorem Work.placeJob_erase {ft : Part → Bool} (hp : ft .sent = true ∧ ft .sched = true ∧ ft .fns = true ∧ ft .rings = true ∧ ft .actives = true ∧ ft .pcieTx = true ∧ ft .form = true ∧ ft .bank = true ∧ ft .jobs = true ∧ ft .hw = true) (w : Work) (a : Active) (origin shape : Xyz) :
    (Work.placeJob w a origin shape).erase ft = w.erase ft := by
  unfold Work.placeJob
  repeat' first
    | with_reducible rfl
    | (extract_lets +onlyGivenNames x; first
        | (refine Work.erase_step (x := x) (w := w) (ft := ft) ?_ (fun hx => ?_); subst x; rotate_left; clear_value x; rotate_right)
        | (have _t : State := x; clear _t; subst x)
        | (have _t : Work → Work := x; clear _t; subst x)
        | (have _t : Nat → Work → Work := x; clear _t; subst x)
        | (have _t : Work → Nat → Work := x; clear _t; subst x)
        | (have _t : Work → (Resident → Resident) → Work := x; clear _t; subst x)
        | clear_value x)
    | (with_reducible refine (Work.erase_each _ _ _ (fun w _ => ?_)).trans ?_)
    | (with_reducible refine (Work.erase_fold2 _ _ _ (fun _ w _ => ?_)).trans ?_)
    | (with_reducible refine (Work.erase_fold3 _ _ _ (fun _ _ w _ => ?_)).trans ?_)
    | (with_reducible refine (Work.asBanker_erase (by simp [hp]) _ _ _ (fun w => ?_)).trans ?_)
    | (with_reducible refine (Work.decideBy_erase (by simp [hp]) _ _ _ (fun w => ?_)).trans ?_)
    | (split <;> try (rename_i hq; first
        | (with_reducible refine Work.erase_pair (w := w) (ft := ft) hq ?_ (fun hx => ?_); clear hq; rotate_left; clear hq; rotate_right)
        | (with_reducible refine Work.erase_triple (w := w) (ft := ft) hq ?_ (fun hx => ?_); clear hq; rotate_left; clear hq; rotate_right)
        | clear hq))
  all_goals simp [*]

@[simp] theorem Work.removeJob_erase {ft : Part → Bool} (hp : ft .sent = true ∧ ft .free = true ∧ ft .sched = true ∧ ft .fns = true ∧ ft .rings = true ∧ ft .actives = true ∧ ft .pcieTx = true ∧ ft .form = true ∧ ft .bank = true ∧ ft .jobs = true ∧ ft .hw = true) (w : Work) (a : Active) (job : Nat) :
    (Work.removeJob w a job).erase ft = w.erase ft := by
  unfold Work.removeJob
  repeat' first
    | with_reducible rfl
    | (extract_lets +onlyGivenNames x; first
        | (refine Work.erase_step (x := x) (w := w) (ft := ft) ?_ (fun hx => ?_); subst x; rotate_left; clear_value x; rotate_right)
        | (have _t : State := x; clear _t; subst x)
        | (have _t : Work → Work := x; clear _t; subst x)
        | (have _t : Nat → Work → Work := x; clear _t; subst x)
        | (have _t : Work → Nat → Work := x; clear _t; subst x)
        | (have _t : Work → (Resident → Resident) → Work := x; clear _t; subst x)
        | clear_value x)
    | (with_reducible refine (Work.erase_each _ _ _ (fun w _ => ?_)).trans ?_)
    | (with_reducible refine (Work.erase_fold2 _ _ _ (fun _ w _ => ?_)).trans ?_)
    | (with_reducible refine (Work.erase_fold3 _ _ _ (fun _ _ w _ => ?_)).trans ?_)
    | (with_reducible refine (Work.asBanker_erase (by simp [hp]) _ _ _ (fun w => ?_)).trans ?_)
    | (with_reducible refine (Work.decideBy_erase (by simp [hp]) _ _ _ (fun w => ?_)).trans ?_)
    | (split <;> try (rename_i hq; first
        | (with_reducible refine Work.erase_pair (w := w) (ft := ft) hq ?_ (fun hx => ?_); clear hq; rotate_left; clear hq; rotate_right)
        | (with_reducible refine Work.erase_triple (w := w) (ft := ft) hq ?_ (fun hx => ?_); clear hq; rotate_left; clear hq; rotate_right)
        | clear hq))
  all_goals simp [*]

@[simp] theorem Work.replayOwn_erase {ft : Part → Bool} (hp : ft .sent = true ∧ ft .jobs = true) (w : Work) (c : Nat) :
    (Work.replayOwn w c).erase ft = w.erase ft := by
  unfold Work.replayOwn
  try dsimp only
  repeat' split
  all_goals first | with_reducible rfl | simp [hp]

@[simp] theorem Work.portReport_erase {ft : Part → Bool} (hp : ft .sent = true ∧ ft .free = true ∧ ft .pad = true ∧ ft .flash = true ∧ ft .sched = true ∧ ft .fns = true ∧ ft .rings = true ∧ ft .actives = true ∧ ft .pcieTx = true ∧ ft .ctxs = true ∧ ft .ports = true ∧ ft .form = true ∧ ft .bank = true ∧ ft .jobs = true ∧ ft .tiles = true ∧ ft .hw = true) (w : Work) (src : Xyz) (by_ : Xyz) :
    (Work.portReport w src by_).erase ft = w.erase ft := by
  unfold Work.portReport
  repeat' first
    | with_reducible rfl
    | (extract_lets +onlyGivenNames x; first
        | (refine Work.erase_step (x := x) (w := w) (ft := ft) ?_ (fun hx => ?_); subst x; rotate_left; clear_value x; rotate_right)
        | (have _t : State := x; clear _t; subst x)
        | (have _t : Work → Work := x; clear _t; subst x)
        | (have _t : Nat → Work → Work := x; clear _t; subst x)
        | (have _t : Work → Nat → Work := x; clear _t; subst x)
        | (have _t : Work → (Resident → Resident) → Work := x; clear _t; subst x)
        | clear_value x)
    | (with_reducible refine (Work.erase_each _ _ _ (fun w _ => ?_)).trans ?_)
    | (with_reducible refine (Work.erase_fold2 _ _ _ (fun _ w _ => ?_)).trans ?_)
    | (with_reducible refine (Work.erase_fold3 _ _ _ (fun _ _ w _ => ?_)).trans ?_)
    | (split <;> try (rename_i hq; first
        | (with_reducible refine Work.erase_pair (w := w) (ft := ft) hq ?_ (fun hx => ?_); clear hq; rotate_left; clear hq; rotate_right)
        | (with_reducible refine Work.erase_triple (w := w) (ft := ft) hq ?_ (fun hx => ?_); clear hq; rotate_left; clear hq; rotate_right)
        | clear hq))
  all_goals simp [*]

@[simp] theorem Work.rehomeQuery_erase {ft : Part → Bool} (hp : ft .sent = true ∧ ft .fns = true ∧ ft .rings = true ∧ ft .actives = true ∧ ft .pcieTx = true ∧ ft .hw = true) (w : Work) (a : Active) :
    (Work.rehomeQuery w a).erase ft = w.erase ft := by
  unfold Work.rehomeQuery
  repeat' first
    | with_reducible rfl
    | (extract_lets +onlyGivenNames x; first
        | (refine Work.erase_step (x := x) (w := w) (ft := ft) ?_ (fun hx => ?_); subst x; rotate_left; clear_value x; rotate_right)
        | (have _t : State := x; clear _t; subst x)
        | (have _t : Work → Work := x; clear _t; subst x)
        | (have _t : Nat → Work → Work := x; clear _t; subst x)
        | (have _t : Work → Nat → Work := x; clear _t; subst x)
        | (have _t : Work → (Resident → Resident) → Work := x; clear _t; subst x)
        | clear_value x)
    | (with_reducible refine (Work.erase_each _ _ _ (fun w _ => ?_)).trans ?_)
    | (with_reducible refine (Work.erase_fold2 _ _ _ (fun _ w _ => ?_)).trans ?_)
    | (with_reducible refine (Work.erase_fold3 _ _ _ (fun _ _ w _ => ?_)).trans ?_)
    | (with_reducible refine (Work.asBanker_erase (by simp [hp]) _ _ _ (fun w => ?_)).trans ?_)
    | (split <;> try (rename_i hq; first
        | (with_reducible refine Work.erase_pair (w := w) (ft := ft) hq ?_ (fun hx => ?_); clear hq; rotate_left; clear hq; rotate_right)
        | (with_reducible refine Work.erase_triple (w := w) (ft := ft) hq ?_ (fun hx => ?_); clear hq; rotate_left; clear hq; rotate_right)
        | clear hq))
  all_goals simp [*]

@[simp] theorem Work.rehomeMove_erase {ft : Part → Bool} (hp : ft .sent = true ∧ ft .free = true ∧ ft .pad = true ∧ ft .flash = true ∧ ft .sched = true ∧ ft .fns = true ∧ ft .rings = true ∧ ft .actives = true ∧ ft .pcieTx = true ∧ ft .ctxs = true ∧ ft .ports = true ∧ ft .form = true ∧ ft .bank = true ∧ ft .jobs = true ∧ ft .tiles = true ∧ ft .hw = true) (w : Work) (a : Active) (src dst : Xyz) :
    (Work.rehomeMove w a src dst).erase ft = w.erase ft := by
  unfold Work.rehomeMove
  repeat' first
    | with_reducible rfl
    | (extract_lets +onlyGivenNames x; first
        | (refine Work.erase_step (x := x) (w := w) (ft := ft) ?_ (fun hx => ?_); subst x; rotate_left; clear_value x; rotate_right)
        | (have _t : State := x; clear _t; subst x)
        | (have _t : Work → Work := x; clear _t; subst x)
        | (have _t : Nat → Work → Work := x; clear _t; subst x)
        | (have _t : Work → Nat → Work := x; clear _t; subst x)
        | (have _t : Work → (Resident → Resident) → Work := x; clear _t; subst x)
        | clear_value x)
    | (with_reducible refine (Work.erase_each _ _ _ (fun w _ => ?_)).trans ?_)
    | (with_reducible refine (Work.erase_fold2 _ _ _ (fun _ w _ => ?_)).trans ?_)
    | (with_reducible refine (Work.erase_fold3 _ _ _ (fun _ _ w _ => ?_)).trans ?_)
    | (with_reducible refine (Work.asBanker_erase (by simp [hp]) _ _ _ (fun w => ?_)).trans ?_)
    | (split <;> try (rename_i hq; first
        | (with_reducible refine Work.erase_pair (w := w) (ft := ft) hq ?_ (fun hx => ?_); clear hq; rotate_left; clear hq; rotate_right)
        | (with_reducible refine Work.erase_triple (w := w) (ft := ft) hq ?_ (fun hx => ?_); clear hq; rotate_left; clear hq; rotate_right)
        | clear hq))
  all_goals simp [*]

@[simp] theorem Work.rehomeLost_erase {ft : Part → Bool} (hp : ft .sent = true ∧ ft .free = true ∧ ft .pad = true ∧ ft .flash = true ∧ ft .sched = true ∧ ft .fns = true ∧ ft .rings = true ∧ ft .actives = true ∧ ft .pcieTx = true ∧ ft .ctxs = true ∧ ft .ports = true ∧ ft .form = true ∧ ft .bank = true ∧ ft .jobs = true ∧ ft .tiles = true ∧ ft .hw = true) (w : Work) (a : Active) (src : Xyz) :
    (Work.rehomeLost w a src).erase ft = w.erase ft := by
  unfold Work.rehomeLost
  repeat' first
    | with_reducible rfl
    | (extract_lets +onlyGivenNames x; first
        | (refine Work.erase_step (x := x) (w := w) (ft := ft) ?_ (fun hx => ?_); subst x; rotate_left; clear_value x; rotate_right)
        | (have _t : State := x; clear _t; subst x)
        | (have _t : Work → Work := x; clear _t; subst x)
        | (have _t : Nat → Work → Work := x; clear _t; subst x)
        | (have _t : Work → Nat → Work := x; clear _t; subst x)
        | (have _t : Work → (Resident → Resident) → Work := x; clear _t; subst x)
        | clear_value x)
    | (with_reducible refine (Work.erase_each _ _ _ (fun w _ => ?_)).trans ?_)
    | (with_reducible refine (Work.erase_fold2 _ _ _ (fun _ w _ => ?_)).trans ?_)
    | (with_reducible refine (Work.erase_fold3 _ _ _ (fun _ _ w _ => ?_)).trans ?_)
    | (with_reducible refine (Work.asBanker_erase (by simp [hp]) _ _ _ (fun w => ?_)).trans ?_)
    | (split <;> try (rename_i hq; first
        | (with_reducible refine Work.erase_pair (w := w) (ft := ft) hq ?_ (fun hx => ?_); clear hq; rotate_left; clear hq; rotate_right)
        | (with_reducible refine Work.erase_triple (w := w) (ft := ft) hq ?_ (fun hx => ?_); clear hq; rotate_left; clear hq; rotate_right)
        | clear hq))
  all_goals simp [*]

@[simp] theorem Work.rehomeExclude_erase {ft : Part → Bool} (hp : ft .sent = true ∧ ft .fns = true ∧ ft .rings = true ∧ ft .actives = true ∧ ft .pcieTx = true ∧ ft .bank = true ∧ ft .hw = true) (w : Work) (a : Active) (flags : Nat) (src : Xyz) :
    (Work.rehomeExclude w a flags src).erase ft = w.erase ft := by
  unfold Work.rehomeExclude
  repeat' first
    | with_reducible rfl
    | (extract_lets +onlyGivenNames x; first
        | (refine Work.erase_step (x := x) (w := w) (ft := ft) ?_ (fun hx => ?_); subst x; rotate_left; clear_value x; rotate_right)
        | (have _t : State := x; clear _t; subst x)
        | (have _t : Work → Work := x; clear _t; subst x)
        | (have _t : Nat → Work → Work := x; clear _t; subst x)
        | (have _t : Work → Nat → Work := x; clear _t; subst x)
        | (have _t : Work → (Resident → Resident) → Work := x; clear _t; subst x)
        | clear_value x)
    | (with_reducible refine (Work.erase_each _ _ _ (fun w _ => ?_)).trans ?_)
    | (with_reducible refine (Work.erase_fold2 _ _ _ (fun _ w _ => ?_)).trans ?_)
    | (with_reducible refine (Work.erase_fold3 _ _ _ (fun _ _ w _ => ?_)).trans ?_)
    | (with_reducible refine (Work.asBanker_erase (by simp [hp]) _ _ _ (fun w => ?_)).trans ?_)
    | (with_reducible refine (Work.decideBy_erase (by simp [hp]) _ _ _ (fun w => ?_)).trans ?_)
    | (split <;> try (rename_i hq; first
        | (with_reducible refine Work.erase_pair (w := w) (ft := ft) hq ?_ (fun hx => ?_); clear hq; rotate_left; clear hq; rotate_right)
        | (with_reducible refine Work.erase_triple (w := w) (ft := ft) hq ?_ (fun hx => ?_); clear hq; rotate_left; clear hq; rotate_right)
        | clear hq))
  all_goals simp [*]

@[simp] theorem Work.setIdle_erase {ft : Part → Bool} (hp : ft .tiles = true) (w : Work) (c : Nat) (n : Nat) (i : Nat) :
    (Work.setIdle w c n i).erase ft = w.erase ft := by
  unfold Work.setIdle
  repeat' first
    | with_reducible rfl
    | (extract_lets +onlyGivenNames x; first
        | (refine Work.erase_step (x := x) (w := w) (ft := ft) ?_ (fun hx => ?_); subst x; rotate_left; clear_value x; rotate_right)
        | (have _t : State := x; clear _t; subst x)
        | (have _t : Work → Work := x; clear _t; subst x)
        | (have _t : Nat → Work → Work := x; clear _t; subst x)
        | (have _t : Work → Nat → Work := x; clear _t; subst x)
        | (have _t : Work → (Resident → Resident) → Work := x; clear _t; subst x)
        | clear_value x)
    | (with_reducible refine (Work.erase_each _ _ _ (fun w _ => ?_)).trans ?_)
    | (with_reducible refine (Work.erase_fold2 _ _ _ (fun _ w _ => ?_)).trans ?_)
    | (with_reducible refine (Work.erase_fold3 _ _ _ (fun _ _ w _ => ?_)).trans ?_)
    | (split <;> try (rename_i hq; first
        | (with_reducible refine Work.erase_pair (w := w) (ft := ft) hq ?_ (fun hx => ?_); clear hq; rotate_left; clear hq; rotate_right)
        | (with_reducible refine Work.erase_triple (w := w) (ft := ft) hq ?_ (fun hx => ?_); clear hq; rotate_left; clear hq; rotate_right)
        | clear hq))
  all_goals simp [*]

@[simp] theorem Work.countTick_erase {ft : Part → Bool} (hp : ft .tiles = true ∧ ft .idleNs = true) (w : Work) (c n : Nat) :
    (Work.countTick w c n).erase ft = w.erase ft := by
  unfold Work.countTick
  repeat' first
    | with_reducible rfl
    | (extract_lets +onlyGivenNames x; first
        | (refine Work.erase_step (x := x) (w := w) (ft := ft) ?_ (fun hx => ?_); subst x; rotate_left; clear_value x; rotate_right)
        | (have _t : State := x; clear _t; subst x)
        | (have _t : Work → Work := x; clear _t; subst x)
        | (have _t : Nat → Work → Work := x; clear _t; subst x)
        | (have _t : Work → Nat → Work := x; clear _t; subst x)
        | (have _t : Work → (Resident → Resident) → Work := x; clear _t; subst x)
        | clear_value x)
    | (with_reducible refine (Work.erase_each _ _ _ (fun w _ => ?_)).trans ?_)
    | (with_reducible refine (Work.erase_fold2 _ _ _ (fun _ w _ => ?_)).trans ?_)
    | (with_reducible refine (Work.erase_fold3 _ _ _ (fun _ _ w _ => ?_)).trans ?_)
    | (split <;> try (rename_i hq; first
        | (with_reducible refine Work.erase_pair (w := w) (ft := ft) hq ?_ (fun hx => ?_); clear hq; rotate_left; clear hq; rotate_right)
        | (with_reducible refine Work.erase_triple (w := w) (ft := ft) hq ?_ (fun hx => ?_); clear hq; rotate_left; clear hq; rotate_right)
        | clear hq))
  all_goals simp [*]

@[simp] theorem Work.quietTick_erase {ft : Part → Bool} (hp : ft .ctxs = true) (w : Work) (c : Nat) :
    (Work.quietTick w c).erase ft = w.erase ft := by
  unfold Work.quietTick
  repeat' first
    | with_reducible rfl
    | (extract_lets +onlyGivenNames x; first
        | (refine Work.erase_step (x := x) (w := w) (ft := ft) ?_ (fun hx => ?_); subst x; rotate_left; clear_value x; rotate_right)
        | (have _t : State := x; clear _t; subst x)
        | (have _t : Work → Work := x; clear _t; subst x)
        | (have _t : Nat → Work → Work := x; clear _t; subst x)
        | (have _t : Work → Nat → Work := x; clear _t; subst x)
        | (have _t : Work → (Resident → Resident) → Work := x; clear _t; subst x)
        | clear_value x)
    | (with_reducible refine (Work.erase_each _ _ _ (fun w _ => ?_)).trans ?_)
    | (with_reducible refine (Work.erase_fold2 _ _ _ (fun _ w _ => ?_)).trans ?_)
    | (with_reducible refine (Work.erase_fold3 _ _ _ (fun _ _ w _ => ?_)).trans ?_)
    | (split <;> try (rename_i hq; first
        | (with_reducible refine Work.erase_pair (w := w) (ft := ft) hq ?_ (fun hx => ?_); clear hq; rotate_left; clear hq; rotate_right)
        | (with_reducible refine Work.erase_triple (w := w) (ft := ft) hq ?_ (fun hx => ?_); clear hq; rotate_left; clear hq; rotate_right)
        | clear hq))
  all_goals simp [*]

@[simp] theorem Work.bootRecord_erase {ft : Part → Bool} (hp : ft .sent = true ∧ ft .boot = true ∧ ft .pad = true ∧ ft .flash = true ∧ ft .fns = true) (w : Work) :
    (Work.bootRecord w).erase ft = w.erase ft := by
  unfold Work.bootRecord
  try dsimp only
  repeat' split
  all_goals first | with_reducible rfl | simp [hp]

@[simp] theorem Work.imageTries_erase {ft : Part → Bool} (hp : ft .sent = true ∧ ft .pad = true ∧ ft .flash = true ∧ ft .fns = true) (w : Work) (i : Nat) (ok0 ok1 : Bool) :
    (Work.imageTries w i ok0 ok1).erase ft = w.erase ft := by
  unfold Work.imageTries
  try dsimp only
  repeat' split
  all_goals first | with_reducible rfl | simp [hp]

@[simp] theorem Work.bootRegion_erase {ft : Part → Bool} (hp : ft .sent = true ∧ ft .pad = true ∧ ft .flash = true ∧ ft .sched = true ∧ ft .fns = true ∧ ft .rings = true ∧ ft .actives = true ∧ ft .pcieTx = true ∧ ft .ctxs = true ∧ ft .regions = true ∧ ft .tiles = true ∧ ft .mw = true ∧ ft .hw = true) (w : Work) (r : Nat) :
    (Work.bootRegion w r).erase ft = w.erase ft := by
  unfold Work.bootRegion
  try dsimp only
  repeat' split
  all_goals first | with_reducible rfl | simp [hp]

@[simp] theorem Work.bootEngines_erase {ft : Part → Bool} (hp : ft .sent = true ∧ ft .pad = true ∧ ft .flash = true ∧ ft .sched = true ∧ ft .fns = true ∧ ft .rings = true ∧ ft .actives = true ∧ ft .pcieTx = true ∧ ft .ctxs = true ∧ ft .regions = true ∧ ft .tiles = true ∧ ft .hw = true) (w : Work) (r : Nat) :
    (Work.bootEngines w r).erase ft = w.erase ft := by
  unfold Work.bootEngines
  try dsimp only
  repeat' split
  all_goals first | with_reducible rfl | simp [hp]

@[simp] theorem Work.hostLevel_erase {ft : Part → Bool} (hp : ft .boot = true) (w : Work) :
    (Work.hostLevel w).erase ft = w.erase ft := by
  unfold Work.hostLevel
  try dsimp only
  repeat' split
  all_goals first | with_reducible rfl | simp [hp]

@[simp] theorem Work.sysCommand_erase {ft : Part → Bool} (hp : ft .sent = true ∧ ft .free = true ∧ ft .time = true ∧ ft .pad = true ∧ ft .flash = true ∧ ft .sched = true ∧ ft .fns = true ∧ ft .rings = true ∧ ft .actives = true ∧ ft .pcieTx = true ∧ ft .ctxs = true ∧ ft .ports = true ∧ ft .form = true ∧ ft .bank = true ∧ ft .jobs = true ∧ ft .tiles = true ∧ ft .hw = true ∧ ft .stop = true) (w : Work) (a : Active) (opcode : Nat) (body : List Byte) :
    (Work.sysCommand w a opcode body).erase ft = w.erase ft := by
  unfold Work.sysCommand
  repeat' first
    | with_reducible rfl
    | (extract_lets +onlyGivenNames x; first
        | (refine Work.erase_step (x := x) (w := w) (ft := ft) ?_ (fun hx => ?_); subst x; rotate_left; clear_value x; rotate_right)
        | (have _t : State := x; clear _t; subst x)
        | (have _t : Work → Work := x; clear _t; subst x)
        | (have _t : Nat → Work → Work := x; clear _t; subst x)
        | (have _t : Work → Nat → Work := x; clear _t; subst x)
        | (have _t : Work → (Resident → Resident) → Work := x; clear _t; subst x)
        | clear_value x)
    | (with_reducible refine (Work.erase_each _ _ _ (fun w _ => ?_)).trans ?_)
    | (with_reducible refine (Work.erase_fold2 _ _ _ (fun _ w _ => ?_)).trans ?_)
    | (with_reducible refine (Work.erase_fold3 _ _ _ (fun _ _ w _ => ?_)).trans ?_)
    | (split <;> try (rename_i hq; first
        | (with_reducible refine Work.erase_pair (w := w) (ft := ft) hq ?_ (fun hx => ?_); clear hq; rotate_left; clear hq; rotate_right)
        | (with_reducible refine Work.erase_triple (w := w) (ft := ft) hq ?_ (fun hx => ?_); clear hq; rotate_left; clear hq; rotate_right)
        | clear hq))
  all_goals simp [*]

end Sys2Proof.Machine
end

