-- ==== Sys2Proof/Laws/Run.lean ====
section
/-! SUPPORT. What every command does: it is a run of some work, it leaves the queue alone, and it keeps the memories in
canonical form; and how a byte of memory reads after a run. -/

namespace Sys2Proof.Machine

/-- The state that a work with no stop leaves behind. -/
def Work.result (w : Work) (s : State) : State :=
  { w.s with
    pending := s.pending
    mem := w.mw.foldr (fun op m => op.apply m) s.mem
    poison := w.mw.foldr (fun op m => op.applyPoison m) s.poison
    host := w.hw.foldr (fun c m => m.put 0 c.1 c.2) s.host
    space := w.sw.foldr (fun op m => op.apply m) s.space }

/-- A run answers a next state just where its work has not stopped, and then it is the work's result. -/
theorem run_next_iff (s t : State) (f : Work → Work) :
    run s f = .next t ↔ (f (Work.start s)).stop = none ∧ t = (f (Work.start s)).result s := by
  unfold run commit
  cases h : (f (Work.start s)).stop with
  | none => simp [Work.result, eq_comm]
  | some r => simp

/-- A run whose work has not stopped. -/
theorem run_of_ok {s : State} {f : Work → Work} (h : (f (Work.start s)).stop = none) :
    run s f = .next ((f (Work.start s)).result s) := (run_next_iff s _ f).2 ⟨h, rfl⟩

/-- The next state of a run, from the work it ends in. -/
theorem run_to {s t : State} {f : Work → Work} {w : Work} (hf : f (Work.start s) = w) (hs : w.stop = none)
    (ht : w.result s = t) : run s f = .next t := by
  rw [run_of_ok (by rw [hf]; exact hs), hf, ht]

/-- The next state of a command, from the work it ends in. -/
theorem run_is {c : Instr} {s t : State} {f : Work → Work} {w : Work} (hx : exec c s = run s f) (hf : f (Work.start s) = w)
    (hs : w.stop = none) (ht : w.result s = t) : exec c s = .next t := by
  rw [hx, run_of_ok (by rw [hf]; exact hs), hf, ht]

/-- A run never answers a refusal. -/
theorem run_not_refused (s : State) (f : Work → Work) (r : Refusal) : run s f ≠ .refused r := by
  unfold run commit
  split <;> simp

@[simp] theorem Work.result_pending (w : Work) (s : State) : (w.result s).pending = s.pending := rfl

/-- Every command is a run of some work. -/
theorem exec_run (i : Instr) (s : State) : ∃ f, exec i s = run s f := by
  cases i <;> (unfold exec; exact ⟨_, rfl⟩)

/-- A change of memory keeps the canonical form. -/
theorem MemOp.wf_apply {m : Table Byte} (h : m.wf 0 = true) (op : MemOp) : (op.apply m).wf 0 = true := by
  cases op with
  | byte a v p => exact Table.wf_put h a v
  | zero lo n => exact Table.wf_clear h lo n
  | copy src dst n => exact Table.wf_copyRange h src dst n

/-- A change of the marks keeps their canonical form. -/
theorem MemOp.wf_applyPoison {m : Table Bool} (h : m.wf false = true) (op : MemOp) : (op.applyPoison m).wf false = true := by
  cases op with
  | byte a v p => exact Table.wf_put h a p
  | zero lo n => exact Table.wf_clear h lo n
  | copy src dst n => exact Table.wf_copyRange h src dst n

/-- Changes applied one after the other keep the canonical form. -/
theorem wf_changes {m : Table Byte} (h : m.wf 0 = true) (ops : List MemOp) : (ops.foldr (fun op m => op.apply m) m).wf 0 = true := by
  induction ops with
  | nil => exact h
  | cons op ops ih => exact MemOp.wf_apply ih op

/-- The same of the marks. -/
theorem wf_marks {m : Table Bool} (h : m.wf false = true) (ops : List MemOp) :
    (ops.foldr (fun op m => op.applyPoison m) m).wf false = true := by
  induction ops with
  | nil => exact h
  | cons op ops ih => exact MemOp.wf_applyPoison ih op

/-- The same of host memory. -/
theorem wf_hostWrites {m : Table Byte} (h : m.wf 0 = true) (ws : List (Nat × Byte)) :
    (ws.foldr (fun c m => m.put 0 c.1 c.2) m).wf 0 = true := by
  induction ws with
  | nil => exact h
  | cons c ws ih => exact Table.wf_put ih c.1 c.2

/-- A run keeps the memories in canonical form. -/
theorem Work.result_memOk (w : Work) {s : State} (h : s.memOk = true) : (w.result s).memOk = true := by
  simp only [State.memOk, Bool.and_eq_true] at h ⊢
  exact ⟨⟨⟨wf_changes h.1.1.1 w.mw, wf_marks h.1.1.2 w.mw⟩, wf_hostWrites h.1.2 w.hw⟩, wf_changes h.2 w.sw⟩

/-- A byte under a list of changes reads as in the memory they leave behind. -/
theorem lookMem_eq {m : Table Byte} (h : m.wf 0 = true) (ops : List MemOp) (a : Nat) :
    (ops.foldr (fun op m => op.apply m) m).get 0 a = lookMem m ops a := by
  induction ops generalizing a with
  | nil => rfl
  | cons op ops ih =>
    have hw := wf_changes h ops
    rw [List.foldr_cons]
    generalize List.foldr (fun op m => op.apply m) m ops = k at hw ih ⊢
    cases op with
    | byte b v p =>
      by_cases hab : a = b
      · simp only [MemOp.apply, lookMem, hab, if_true, Table.get_put_same]
      · simp only [MemOp.apply, lookMem, hab, if_false, Table.get_put_other _ v hab, ih]
    | zero lo n => simp only [MemOp.apply, lookMem, Table.get_clear, ih]
    | copy src dst n => simp only [MemOp.apply, lookMem, Table.get_copyRange hw, ih]

/-- A byte of the state that a run leaves reads as the work last saw it. -/
theorem Work.result_byteAt (w : Work) {s : State} (h : s.memOk = true) (hs : w.s.mem = s.mem) (a : Nat) :
    (w.result s).byteAt a = w.rd a := by
  simp only [State.memOk, Bool.and_eq_true] at h
  simp only [State.byteAt, Work.result, Work.rd, hs]
  exact lookMem_eq h.1.1.1 w.mw (normAddr a)

/-- A command that has changed nothing. -/
@[simp] theorem Work.result_start (s : State) : (Work.start s).result s = s := by
  cases s
  rfl

end Sys2Proof.Machine
end

