-- ==== Sys2Proof/Laws/Keep.lean ====
section
/-! SUPPORT. The next state of a command whose footprint is known: the parts outside the footprint are as they were. -/

namespace Sys2Proof.Machine

/-- `t` in the parts that `ft` names, `s` in every other part. -/
def State.mix (ft : Part → Bool) (t s : State) : State where
  pending := s.pending
  sent := if ft .sent then t.sent else s.sent
  free := if ft .free then t.free else s.free
  mem := if ft .mw then t.mem else s.mem
  poison := if ft .mw then t.poison else s.poison
  host := if ft .hw then t.host else s.host
  pins := if ft .pins then t.pins else s.pins
  boot := if ft .boot then t.boot else s.boot
  power := if ft .power then t.power else s.power
  time := if ft .time then t.time else s.time
  pad := if ft .pad then t.pad else s.pad
  flash := if ft .flash then t.flash else s.flash
  mgt := if ft .mgt then t.mgt else s.mgt
  sched := if ft .sched then t.sched else s.sched
  progs := if ft .progs then t.progs else s.progs
  space := if ft .sw then t.space else s.space
  fns := if ft .fns then t.fns else s.fns
  rings := if ft .rings then t.rings else s.rings
  actives := if ft .actives then t.actives else s.actives
  latch := if ft .latch then t.latch else s.latch
  vfEnable := if ft .vfEnable then t.vfEnable else s.vfEnable
  pcieRx := if ft .pcieRx then t.pcieRx else s.pcieRx
  pcieTx := if ft .pcieTx then t.pcieTx else s.pcieTx
  ctxs := if ft .ctxs then t.ctxs else s.ctxs
  regions := if ft .regions then t.regions else s.regions
  hbm := if ft .hbm then t.hbm else s.hbm
  pkgBytes := if ft .pkgBytes then t.pkgBytes else s.pkgBytes
  ports := if ft .ports then t.ports else s.ports
  form := if ft .form then t.form else s.form
  bank := if ft .bank then t.bank else s.bank
  jobs := if ft .jobs then t.jobs else s.jobs
  tiles := if ft .tiles then t.tiles else s.tiles
  phys := if ft .phys then t.phys else s.phys
  arrivals := if ft .arrivals then t.arrivals else s.arrivals
  lanes := if ft .lanes then t.lanes else s.lanes
  lanesNow := if ft .lanesNow then t.lanesNow else s.lanesNow
  windows := if ft .windows then t.windows else s.windows
  tests := if ft .tests then t.tests else s.tests
  retiring := if ft .retiring then t.retiring else s.retiring
  requests := if ft .requests then t.requests else s.requests
  nextTag := if ft .nextTag then t.nextTag else s.nextTag
  routeDrops := if ft .routeDrops then t.routeDrops else s.routeDrops
  resident := if ft .resident then t.resident else s.resident
  partials := if ft .partials then t.partials else s.partials
  journal := if ft .journal then t.journal else s.journal
  flips := if ft .flips then t.flips else s.flips
  retierList := if ft .retierList then t.retierList else s.retierList
  retierDone := if ft .retierDone then t.retierDone else s.retierDone
  retierDue := if ft .retierDue then t.retierDue else s.retierDue
  traceDesc := if ft .traceDesc then t.traceDesc else s.traceDesc
  traceNext := if ft .traceNext then t.traceNext else s.traceNext
  idleNs := if ft .idleNs then t.idleNs else s.idleNs

/-- The result of a work with footprint `ft`. -/
theorem Work.result_mix {w : Work} {s : State} {ft : Part → Bool} (h : w.erase ft = (Work.start s).erase ft) :
    w.result s = State.mix ft (w.result s) s := by
  have h_sent : (w.result s).sent = if ft .sent then (w.result s).sent else s.sent := by
    cases hp : ft .sent with
    | true => rfl
    | false => exact Work.keeps_sent h hp
  have h_free : (w.result s).free = if ft .free then (w.result s).free else s.free := by
    cases hp : ft .free with
    | true => rfl
    | false => exact Work.keeps_free h hp
  have h_mem : (w.result s).mem = if ft .mw then (w.result s).mem else s.mem := by
    cases hp : ft .mw with
    | true => rfl
    | false => simp only [Work.result, Work.keeps_mw h hp]; rfl
  have h_poison : (w.result s).poison = if ft .mw then (w.result s).poison else s.poison := by
    cases hp : ft .mw with
    | true => rfl
    | false => simp only [Work.result, Work.keeps_mw h hp]; rfl
  have h_host : (w.result s).host = if ft .hw then (w.result s).host else s.host := by
    cases hp : ft .hw with
    | true => rfl
    | false => simp only [Work.result, Work.keeps_hw h hp]; rfl
  have h_pins : (w.result s).pins = if ft .pins then (w.result s).pins else s.pins := by
    cases hp : ft .pins with
    | true => rfl
    | false => exact Work.keeps_pins h hp
  have h_boot : (w.result s).boot = if ft .boot then (w.result s).boot else s.boot := by
    cases hp : ft .boot with
    | true => rfl
    | false => exact Work.keeps_boot h hp
  have h_power : (w.result s).power = if ft .power then (w.result s).power else s.power := by
    cases hp : ft .power with
    | true => rfl
    | false => exact Work.keeps_power h hp
  have h_time : (w.result s).time = if ft .time then (w.result s).time else s.time := by
    cases hp : ft .time with
    | true => rfl
    | false => exact Work.keeps_time h hp
  have h_pad : (w.result s).pad = if ft .pad then (w.result s).pad else s.pad := by
    cases hp : ft .pad with
    | true => rfl
    | false => exact Work.keeps_pad h hp
  have h_flash : (w.result s).flash = if ft .flash then (w.result s).flash else s.flash := by
    cases hp : ft .flash with
    | true => rfl
    | false => exact Work.keeps_flash h hp
  have h_mgt : (w.result s).mgt = if ft .mgt then (w.result s).mgt else s.mgt := by
    cases hp : ft .mgt with
    | true => rfl
    | false => exact Work.keeps_mgt h hp
  have h_sched : (w.result s).sched = if ft .sched then (w.result s).sched else s.sched := by
    cases hp : ft .sched with
    | true => rfl
    | false => exact Work.keeps_sched h hp
  have h_progs : (w.result s).progs = if ft .progs then (w.result s).progs else s.progs := by
    cases hp : ft .progs with
    | true => rfl
    | false => exact Work.keeps_progs h hp
  have h_space : (w.result s).space = if ft .sw then (w.result s).space else s.space := by
    cases hp : ft .sw with
    | true => rfl
    | false => simp only [Work.result, Work.keeps_sw h hp]; rfl
  have h_fns : (w.result s).fns = if ft .fns then (w.result s).fns else s.fns := by
    cases hp : ft .fns with
    | true => rfl
    | false => exact Work.keeps_fns h hp
  have h_rings : (w.result s).rings = if ft .rings then (w.result s).rings else s.rings := by
    cases hp : ft .rings with
    | true => rfl
    | false => exact Work.keeps_rings h hp
  have h_actives : (w.result s).actives = if ft .actives then (w.result s).actives else s.actives := by
    cases hp : ft .actives with
    | true => rfl
    | false => exact Work.keeps_actives h hp
  have h_latch : (w.result s).latch = if ft .latch then (w.result s).latch else s.latch := by
    cases hp : ft .latch with
    | true => rfl
    | false => exact Work.keeps_latch h hp
  have h_vfEnable : (w.result s).vfEnable = if ft .vfEnable then (w.result s).vfEnable else s.vfEnable := by
    cases hp : ft .vfEnable with
    | true => rfl
    | false => exact Work.keeps_vfEnable h hp
  have h_pcieRx : (w.result s).pcieRx = if ft .pcieRx then (w.result s).pcieRx else s.pcieRx := by
    cases hp : ft .pcieRx with
    | true => rfl
    | false => exact Work.keeps_pcieRx h hp
  have h_pcieTx : (w.result s).pcieTx = if ft .pcieTx then (w.result s).pcieTx else s.pcieTx := by
    cases hp : ft .pcieTx with
    | true => rfl
    | false => exact Work.keeps_pcieTx h hp
  have h_ctxs : (w.result s).ctxs = if ft .ctxs then (w.result s).ctxs else s.ctxs := by
    cases hp : ft .ctxs with
    | true => rfl
    | false => exact Work.keeps_ctxs h hp
  have h_regions : (w.result s).regions = if ft .regions then (w.result s).regions else s.regions := by
    cases hp : ft .regions with
    | true => rfl
    | false => exact Work.keeps_regions h hp
  have h_hbm : (w.result s).hbm = if ft .hbm then (w.result s).hbm else s.hbm := by
    cases hp : ft .hbm with
    | true => rfl
    | false => exact Work.keeps_hbm h hp
  have h_pkgBytes : (w.result s).pkgBytes = if ft .pkgBytes then (w.result s).pkgBytes else s.pkgBytes := by
    cases hp : ft .pkgBytes with
    | true => rfl
    | false => exact Work.keeps_pkgBytes h hp
  have h_ports : (w.result s).ports = if ft .ports then (w.result s).ports else s.ports := by
    cases hp : ft .ports with
    | true => rfl
    | false => exact Work.keeps_ports h hp
  have h_form : (w.result s).form = if ft .form then (w.result s).form else s.form := by
    cases hp : ft .form with
    | true => rfl
    | false => exact Work.keeps_form h hp
  have h_bank : (w.result s).bank = if ft .bank then (w.result s).bank else s.bank := by
    cases hp : ft .bank with
    | true => rfl
    | false => exact Work.keeps_bank h hp
  have h_jobs : (w.result s).jobs = if ft .jobs then (w.result s).jobs else s.jobs := by
    cases hp : ft .jobs with
    | true => rfl
    | false => exact Work.keeps_jobs h hp
  have h_tiles : (w.result s).tiles = if ft .tiles then (w.result s).tiles else s.tiles := by
    cases hp : ft .tiles with
    | true => rfl
    | false => exact Work.keeps_tiles h hp
  have h_phys : (w.result s).phys = if ft .phys then (w.result s).phys else s.phys := by
    cases hp : ft .phys with
    | true => rfl
    | false => exact Work.keeps_phys h hp
  have h_arrivals : (w.result s).arrivals = if ft .arrivals then (w.result s).arrivals else s.arrivals := by
    cases hp : ft .arrivals with
    | true => rfl
    | false => exact Work.keeps_arrivals h hp
  have h_lanes : (w.result s).lanes = if ft .lanes then (w.result s).lanes else s.lanes := by
    cases hp : ft .lanes with
    | true => rfl
    | false => exact Work.keeps_lanes h hp
  have h_lanesNow : (w.result s).lanesNow = if ft .lanesNow then (w.result s).lanesNow else s.lanesNow := by
    cases hp : ft .lanesNow with
    | true => rfl
    | false => exact Work.keeps_lanesNow h hp
  have h_windows : (w.result s).windows = if ft .windows then (w.result s).windows else s.windows := by
    cases hp : ft .windows with
    | true => rfl
    | false => exact Work.keeps_windows h hp
  have h_tests : (w.result s).tests = if ft .tests then (w.result s).tests else s.tests := by
    cases hp : ft .tests with
    | true => rfl
    | false => exact Work.keeps_tests h hp
  have h_retiring : (w.result s).retiring = if ft .retiring then (w.result s).retiring else s.retiring := by
    cases hp : ft .retiring with
    | true => rfl
    | false => exact Work.keeps_retiring h hp
  have h_requests : (w.result s).requests = if ft .requests then (w.result s).requests else s.requests := by
    cases hp : ft .requests with
    | true => rfl
    | false => exact Work.keeps_requests h hp
  have h_nextTag : (w.result s).nextTag = if ft .nextTag then (w.result s).nextTag else s.nextTag := by
    cases hp : ft .nextTag with
    | true => rfl
    | false => exact Work.keeps_nextTag h hp
  have h_routeDrops : (w.result s).routeDrops = if ft .routeDrops then (w.result s).routeDrops else s.routeDrops := by
    cases hp : ft .routeDrops with
    | true => rfl
    | false => exact Work.keeps_routeDrops h hp
  have h_resident : (w.result s).resident = if ft .resident then (w.result s).resident else s.resident := by
    cases hp : ft .resident with
    | true => rfl
    | false => exact Work.keeps_resident h hp
  have h_partials : (w.result s).partials = if ft .partials then (w.result s).partials else s.partials := by
    cases hp : ft .partials with
    | true => rfl
    | false => exact Work.keeps_partials h hp
  have h_journal : (w.result s).journal = if ft .journal then (w.result s).journal else s.journal := by
    cases hp : ft .journal with
    | true => rfl
    | false => exact Work.keeps_journal h hp
  have h_flips : (w.result s).flips = if ft .flips then (w.result s).flips else s.flips := by
    cases hp : ft .flips with
    | true => rfl
    | false => exact Work.keeps_flips h hp
  have h_retierList : (w.result s).retierList = if ft .retierList then (w.result s).retierList else s.retierList := by
    cases hp : ft .retierList with
    | true => rfl
    | false => exact Work.keeps_retierList h hp
  have h_retierDone : (w.result s).retierDone = if ft .retierDone then (w.result s).retierDone else s.retierDone := by
    cases hp : ft .retierDone with
    | true => rfl
    | false => exact Work.keeps_retierDone h hp
  have h_retierDue : (w.result s).retierDue = if ft .retierDue then (w.result s).retierDue else s.retierDue := by
    cases hp : ft .retierDue with
    | true => rfl
    | false => exact Work.keeps_retierDue h hp
  have h_traceDesc : (w.result s).traceDesc = if ft .traceDesc then (w.result s).traceDesc else s.traceDesc := by
    cases hp : ft .traceDesc with
    | true => rfl
    | false => exact Work.keeps_traceDesc h hp
  have h_traceNext : (w.result s).traceNext = if ft .traceNext then (w.result s).traceNext else s.traceNext := by
    cases hp : ft .traceNext with
    | true => rfl
    | false => exact Work.keeps_traceNext h hp
  have h_idleNs : (w.result s).idleNs = if ft .idleNs then (w.result s).idleNs else s.idleNs := by
    cases hp : ft .idleNs with
    | true => rfl
    | false => exact Work.keeps_idleNs h hp
  generalize hr : w.result s = r at *
  have hp : r.pending = s.pending := by rw [← hr]; rfl
  cases r
  dsimp only at *
  unfold State.mix
  dsimp only
  congr

/-- A work that has not touched the stop has not stopped. -/
theorem Work.ok {w : Work} (s : State) (h : w.erase (fun p => decide (p ≠ .stop)) = (Work.start s).erase (fun p => decide (p ≠ .stop))) :
    w.stop = none := Work.same_stop h

/-- A run whose footprint leaves the stop alone answers a next state, which differs from `s` in the footprint alone. -/
theorem run_keeps {s : State} {f : Work → Work} {w : Work} (ft : Part → Bool) (hf : f (Work.start s) = w)
    (h : w.erase ft = (Work.start s).erase ft) (hs : ft .stop = false) :
    run s f = .next (w.result s) ∧ w.result s = State.mix ft (w.result s) s :=
  ⟨run_to hf (Work.keeps_stop h hs) rfl, Work.result_mix h⟩


theorem Work.same_fn {w v : Work} (h : w.erase (fun p => decide (p ≠ .fns)) = v.erase (fun p => decide (p ≠ .fns))) (i : Nat) :
    w.s.fn i = v.s.fn i := by
  simp only [State.fn, Work.same_fns h]

theorem Work.same_ring {w v : Work} (h : w.erase (fun p => decide (p ≠ .rings)) = v.erase (fun p => decide (p ≠ .rings))) (i : Nat) :
    w.s.ring i = v.s.ring i := by
  simp only [State.ring, Work.same_rings h]

theorem Work.same_ctx {w v : Work} (h : w.erase (fun p => decide (p ≠ .ctxs)) = v.erase (fun p => decide (p ≠ .ctxs))) (i : Nat) :
    w.s.ctx i = v.s.ctx i := by
  simp only [State.ctx, Work.same_ctxs h]

theorem Work.same_region {w v : Work} (h : w.erase (fun p => decide (p ≠ .regions)) = v.erase (fun p => decide (p ≠ .regions))) (i : Nat) :
    w.s.region i = v.s.region i := by
  simp only [State.region, Work.same_regions h]

theorem Work.same_stack {w v : Work} (h : w.erase (fun p => decide (p ≠ .hbm)) = v.erase (fun p => decide (p ≠ .hbm))) (i : Nat) :
    w.s.stack i = v.s.stack i := by
  simp only [State.stack, Work.same_hbm h]

theorem Work.same_port {w v : Work} (h : w.erase (fun p => decide (p ≠ .ports)) = v.erase (fun p => decide (p ≠ .ports))) (i : Nat) :
    w.s.port i = v.s.port i := by
  simp only [State.port, Work.same_ports h]

theorem Work.same_job {w v : Work} (h : w.erase (fun p => decide (p ≠ .jobs)) = v.erase (fun p => decide (p ≠ .jobs))) (i : Nat) :
    w.s.job i = v.s.job i := by
  simp only [State.job, Work.same_jobs h]

theorem Work.same_tile {w v : Work} (h : w.erase (fun p => decide (p ≠ .tiles)) = v.erase (fun p => decide (p ≠ .tiles))) (i : Nat) :
    w.s.tile i = v.s.tile i := by
  simp only [State.tile, Work.same_tiles h]

theorem Work.same_ph {w v : Work} (h : w.erase (fun p => decide (p ≠ .phys)) = v.erase (fun p => decide (p ≠ .phys))) (i : Nat) :
    w.s.ph i = v.s.ph i := by
  simp only [State.ph, Work.same_phys h]

theorem Work.same_prog {w v : Work} (h : w.erase (fun p => decide (p ≠ .progs)) = v.erase (fun p => decide (p ≠ .progs))) (i : Nat) :
    w.s.prog i = v.s.prog i := by
  simp only [State.prog, Work.same_progs h]

theorem Work.same_thread {w v : Work} (h : w.erase (fun p => decide (p ≠ .sched)) = v.erase (fun p => decide (p ≠ .sched))) (i : Nat) :
    w.s.thread i = v.s.thread i := by
  simp only [State.thread, Work.same_sched h]

theorem Work.same_core {w v : Work} (h : w.erase (fun p => decide (p ≠ .sched)) = v.erase (fun p => decide (p ≠ .sched))) (i : Nat) :
    w.s.core i = v.s.core i := by
  simp only [State.core, Work.same_sched h]
@[simp] theorem Work.result_fn (w : Work) (s : State) (i : Nat) : (w.result s).fn i = w.s.fn i := rfl
@[simp] theorem Work.result_ring (w : Work) (s : State) (i : Nat) : (w.result s).ring i = w.s.ring i := rfl
@[simp] theorem Work.result_ctx (w : Work) (s : State) (i : Nat) : (w.result s).ctx i = w.s.ctx i := rfl
@[simp] theorem Work.result_region (w : Work) (s : State) (i : Nat) : (w.result s).region i = w.s.region i := rfl
@[simp] theorem Work.result_stack (w : Work) (s : State) (i : Nat) : (w.result s).stack i = w.s.stack i := rfl
@[simp] theorem Work.result_port (w : Work) (s : State) (i : Nat) : (w.result s).port i = w.s.port i := rfl
@[simp] theorem Work.result_job (w : Work) (s : State) (i : Nat) : (w.result s).job i = w.s.job i := rfl
@[simp] theorem Work.result_tile (w : Work) (s : State) (i : Nat) : (w.result s).tile i = w.s.tile i := rfl
@[simp] theorem Work.result_ph (w : Work) (s : State) (i : Nat) : (w.result s).ph i = w.s.ph i := rfl
@[simp] theorem Work.result_prog (w : Work) (s : State) (i : Nat) : (w.result s).prog i = w.s.prog i := rfl
@[simp] theorem Work.result_thread (w : Work) (s : State) (i : Nat) : (w.result s).thread i = w.s.thread i := rfl
@[simp] theorem Work.result_core (w : Work) (s : State) (i : Nat) : (w.result s).core i = w.s.core i := rfl
@[simp] theorem Work.result_sent (w : Work) (s : State) : (w.result s).sent = w.s.sent := rfl
@[simp] theorem Work.result_free (w : Work) (s : State) : (w.result s).free = w.s.free := rfl
@[simp] theorem Work.result_pins (w : Work) (s : State) : (w.result s).pins = w.s.pins := rfl
@[simp] theorem Work.result_boot (w : Work) (s : State) : (w.result s).boot = w.s.boot := rfl
@[simp] theorem Work.result_power (w : Work) (s : State) : (w.result s).power = w.s.power := rfl
@[simp] theorem Work.result_time (w : Work) (s : State) : (w.result s).time = w.s.time := rfl
@[simp] theorem Work.result_pad (w : Work) (s : State) : (w.result s).pad = w.s.pad := rfl
@[simp] theorem Work.result_flash (w : Work) (s : State) : (w.result s).flash = w.s.flash := rfl
@[simp] theorem Work.result_mgt (w : Work) (s : State) : (w.result s).mgt = w.s.mgt := rfl
@[simp] theorem Work.result_sched (w : Work) (s : State) : (w.result s).sched = w.s.sched := rfl
@[simp] theorem Work.result_progs (w : Work) (s : State) : (w.result s).progs = w.s.progs := rfl
@[simp] theorem Work.result_fns (w : Work) (s : State) : (w.result s).fns = w.s.fns := rfl
@[simp] theorem Work.result_rings (w : Work) (s : State) : (w.result s).rings = w.s.rings := rfl
@[simp] theorem Work.result_actives (w : Work) (s : State) : (w.result s).actives = w.s.actives := rfl
@[simp] theorem Work.result_latch (w : Work) (s : State) : (w.result s).latch = w.s.latch := rfl
@[simp] theorem Work.result_vfEnable (w : Work) (s : State) : (w.result s).vfEnable = w.s.vfEnable := rfl
@[simp] theorem Work.result_pcieRx (w : Work) (s : State) : (w.result s).pcieRx = w.s.pcieRx := rfl
@[simp] theorem Work.result_pcieTx (w : Work) (s : State) : (w.result s).pcieTx = w.s.pcieTx := rfl
@[simp] theorem Work.result_ctxs (w : Work) (s : State) : (w.result s).ctxs = w.s.ctxs := rfl
@[simp] theorem Work.result_regions (w : Work) (s : State) : (w.result s).regions = w.s.regions := rfl
@[simp] theorem Work.result_hbm (w : Work) (s : State) : (w.result s).hbm = w.s.hbm := rfl
@[simp] theorem Work.result_pkgBytes (w : Work) (s : State) : (w.result s).pkgBytes = w.s.pkgBytes := rfl
@[simp] theorem Work.result_ports (w : Work) (s : State) : (w.result s).ports = w.s.ports := rfl
@[simp] theorem Work.result_form (w : Work) (s : State) : (w.result s).form = w.s.form := rfl
@[simp] theorem Work.result_bank (w : Work) (s : State) : (w.result s).bank = w.s.bank := rfl
@[simp] theorem Work.result_jobs (w : Work) (s : State) : (w.result s).jobs = w.s.jobs := rfl
@[simp] theorem Work.result_tiles (w : Work) (s : State) : (w.result s).tiles = w.s.tiles := rfl
@[simp] theorem Work.result_phys (w : Work) (s : State) : (w.result s).phys = w.s.phys := rfl
@[simp] theorem Work.result_arrivals (w : Work) (s : State) : (w.result s).arrivals = w.s.arrivals := rfl
@[simp] theorem Work.result_lanes (w : Work) (s : State) : (w.result s).lanes = w.s.lanes := rfl
@[simp] theorem Work.result_lanesNow (w : Work) (s : State) : (w.result s).lanesNow = w.s.lanesNow := rfl
@[simp] theorem Work.result_windows (w : Work) (s : State) : (w.result s).windows = w.s.windows := rfl
@[simp] theorem Work.result_tests (w : Work) (s : State) : (w.result s).tests = w.s.tests := rfl
@[simp] theorem Work.result_retiring (w : Work) (s : State) : (w.result s).retiring = w.s.retiring := rfl
@[simp] theorem Work.result_requests (w : Work) (s : State) : (w.result s).requests = w.s.requests := rfl
@[simp] theorem Work.result_nextTag (w : Work) (s : State) : (w.result s).nextTag = w.s.nextTag := rfl
@[simp] theorem Work.result_routeDrops (w : Work) (s : State) : (w.result s).routeDrops = w.s.routeDrops := rfl
@[simp] theorem Work.result_resident (w : Work) (s : State) : (w.result s).resident = w.s.resident := rfl
@[simp] theorem Work.result_partials (w : Work) (s : State) : (w.result s).partials = w.s.partials := rfl
@[simp] theorem Work.result_journal (w : Work) (s : State) : (w.result s).journal = w.s.journal := rfl
@[simp] theorem Work.result_flips (w : Work) (s : State) : (w.result s).flips = w.s.flips := rfl
@[simp] theorem Work.result_retierList (w : Work) (s : State) : (w.result s).retierList = w.s.retierList := rfl
@[simp] theorem Work.result_retierDone (w : Work) (s : State) : (w.result s).retierDone = w.s.retierDone := rfl
@[simp] theorem Work.result_retierDue (w : Work) (s : State) : (w.result s).retierDue = w.s.retierDue := rfl
@[simp] theorem Work.result_traceDesc (w : Work) (s : State) : (w.result s).traceDesc = w.s.traceDesc := rfl
@[simp] theorem Work.result_traceNext (w : Work) (s : State) : (w.result s).traceNext = w.s.traceNext := rfl
@[simp] theorem Work.result_idleNs (w : Work) (s : State) : (w.result s).idleNs = w.s.idleNs := rfl
@[simp] theorem Work.result_now (w : Work) (s : State) : (w.result s).now = w.s.now := rfl

end Sys2Proof.Machine
end

