-- ==== Sys2Proof/Laws/State.lean ====
section
/-! SUPPORT. What each update of the working state leaves alone, one lemma for each field and update, and what a read after
an update gives. -/

namespace Sys2Proof.Machine

@[simp] theorem Work.setFn_pending (w : Work) (i : Nat) (v : Fn) : (w.setFn i v).s.pending = w.s.pending := rfl
@[simp] theorem Work.setFn_sent (w : Work) (i : Nat) (v : Fn) : (w.setFn i v).s.sent = w.s.sent := rfl
@[simp] theorem Work.setFn_free (w : Work) (i : Nat) (v : Fn) : (w.setFn i v).s.free = w.s.free := rfl
@[simp] theorem Work.setFn_mem (w : Work) (i : Nat) (v : Fn) : (w.setFn i v).s.mem = w.s.mem := rfl
@[simp] theorem Work.setFn_poison (w : Work) (i : Nat) (v : Fn) : (w.setFn i v).s.poison = w.s.poison := rfl
@[simp] theorem Work.setFn_host (w : Work) (i : Nat) (v : Fn) : (w.setFn i v).s.host = w.s.host := rfl
@[simp] theorem Work.setFn_pins (w : Work) (i : Nat) (v : Fn) : (w.setFn i v).s.pins = w.s.pins := rfl
@[simp] theorem Work.setFn_boot (w : Work) (i : Nat) (v : Fn) : (w.setFn i v).s.boot = w.s.boot := rfl
@[simp] theorem Work.setFn_power (w : Work) (i : Nat) (v : Fn) : (w.setFn i v).s.power = w.s.power := rfl
@[simp] theorem Work.setFn_time (w : Work) (i : Nat) (v : Fn) : (w.setFn i v).s.time = w.s.time := rfl
@[simp] theorem Work.setFn_pad (w : Work) (i : Nat) (v : Fn) : (w.setFn i v).s.pad = w.s.pad := rfl
@[simp] theorem Work.setFn_flash (w : Work) (i : Nat) (v : Fn) : (w.setFn i v).s.flash = w.s.flash := rfl
@[simp] theorem Work.setFn_mgt (w : Work) (i : Nat) (v : Fn) : (w.setFn i v).s.mgt = w.s.mgt := rfl
@[simp] theorem Work.setFn_sched (w : Work) (i : Nat) (v : Fn) : (w.setFn i v).s.sched = w.s.sched := rfl
@[simp] theorem Work.setFn_progs (w : Work) (i : Nat) (v : Fn) : (w.setFn i v).s.progs = w.s.progs := rfl
@[simp] theorem Work.setFn_space (w : Work) (i : Nat) (v : Fn) : (w.setFn i v).s.space = w.s.space := rfl
@[simp] theorem Work.setFn_rings (w : Work) (i : Nat) (v : Fn) : (w.setFn i v).s.rings = w.s.rings := rfl
@[simp] theorem Work.setFn_actives (w : Work) (i : Nat) (v : Fn) : (w.setFn i v).s.actives = w.s.actives := rfl
@[simp] theorem Work.setFn_latch (w : Work) (i : Nat) (v : Fn) : (w.setFn i v).s.latch = w.s.latch := rfl
@[simp] theorem Work.setFn_vfEnable (w : Work) (i : Nat) (v : Fn) : (w.setFn i v).s.vfEnable = w.s.vfEnable := rfl
@[simp] theorem Work.setFn_pcieRx (w : Work) (i : Nat) (v : Fn) : (w.setFn i v).s.pcieRx = w.s.pcieRx := rfl
@[simp] theorem Work.setFn_pcieTx (w : Work) (i : Nat) (v : Fn) : (w.setFn i v).s.pcieTx = w.s.pcieTx := rfl
@[simp] theorem Work.setFn_ctxs (w : Work) (i : Nat) (v : Fn) : (w.setFn i v).s.ctxs = w.s.ctxs := rfl
@[simp] theorem Work.setFn_regions (w : Work) (i : Nat) (v : Fn) : (w.setFn i v).s.regions = w.s.regions := rfl
@[simp] theorem Work.setFn_hbm (w : Work) (i : Nat) (v : Fn) : (w.setFn i v).s.hbm = w.s.hbm := rfl
@[simp] theorem Work.setFn_pkgBytes (w : Work) (i : Nat) (v : Fn) : (w.setFn i v).s.pkgBytes = w.s.pkgBytes := rfl
@[simp] theorem Work.setFn_ports (w : Work) (i : Nat) (v : Fn) : (w.setFn i v).s.ports = w.s.ports := rfl
@[simp] theorem Work.setFn_form (w : Work) (i : Nat) (v : Fn) : (w.setFn i v).s.form = w.s.form := rfl
@[simp] theorem Work.setFn_bank (w : Work) (i : Nat) (v : Fn) : (w.setFn i v).s.bank = w.s.bank := rfl
@[simp] theorem Work.setFn_jobs (w : Work) (i : Nat) (v : Fn) : (w.setFn i v).s.jobs = w.s.jobs := rfl
@[simp] theorem Work.setFn_tiles (w : Work) (i : Nat) (v : Fn) : (w.setFn i v).s.tiles = w.s.tiles := rfl
@[simp] theorem Work.setFn_phys (w : Work) (i : Nat) (v : Fn) : (w.setFn i v).s.phys = w.s.phys := rfl
@[simp] theorem Work.setFn_arrivals (w : Work) (i : Nat) (v : Fn) : (w.setFn i v).s.arrivals = w.s.arrivals := rfl
@[simp] theorem Work.setFn_lanes (w : Work) (i : Nat) (v : Fn) : (w.setFn i v).s.lanes = w.s.lanes := rfl
@[simp] theorem Work.setFn_lanesNow (w : Work) (i : Nat) (v : Fn) : (w.setFn i v).s.lanesNow = w.s.lanesNow := rfl
@[simp] theorem Work.setFn_windows (w : Work) (i : Nat) (v : Fn) : (w.setFn i v).s.windows = w.s.windows := rfl
@[simp] theorem Work.setFn_tests (w : Work) (i : Nat) (v : Fn) : (w.setFn i v).s.tests = w.s.tests := rfl
@[simp] theorem Work.setFn_retiring (w : Work) (i : Nat) (v : Fn) : (w.setFn i v).s.retiring = w.s.retiring := rfl
@[simp] theorem Work.setFn_requests (w : Work) (i : Nat) (v : Fn) : (w.setFn i v).s.requests = w.s.requests := rfl
@[simp] theorem Work.setFn_nextTag (w : Work) (i : Nat) (v : Fn) : (w.setFn i v).s.nextTag = w.s.nextTag := rfl
@[simp] theorem Work.setFn_routeDrops (w : Work) (i : Nat) (v : Fn) : (w.setFn i v).s.routeDrops = w.s.routeDrops := rfl
@[simp] theorem Work.setFn_resident (w : Work) (i : Nat) (v : Fn) : (w.setFn i v).s.resident = w.s.resident := rfl
@[simp] theorem Work.setFn_partials (w : Work) (i : Nat) (v : Fn) : (w.setFn i v).s.partials = w.s.partials := rfl
@[simp] theorem Work.setFn_journal (w : Work) (i : Nat) (v : Fn) : (w.setFn i v).s.journal = w.s.journal := rfl
@[simp] theorem Work.setFn_flips (w : Work) (i : Nat) (v : Fn) : (w.setFn i v).s.flips = w.s.flips := rfl
@[simp] theorem Work.setFn_retierList (w : Work) (i : Nat) (v : Fn) : (w.setFn i v).s.retierList = w.s.retierList := rfl
@[simp] theorem Work.setFn_retierDone (w : Work) (i : Nat) (v : Fn) : (w.setFn i v).s.retierDone = w.s.retierDone := rfl
@[simp] theorem Work.setFn_retierDue (w : Work) (i : Nat) (v : Fn) : (w.setFn i v).s.retierDue = w.s.retierDue := rfl
@[simp] theorem Work.setFn_traceDesc (w : Work) (i : Nat) (v : Fn) : (w.setFn i v).s.traceDesc = w.s.traceDesc := rfl
@[simp] theorem Work.setFn_traceNext (w : Work) (i : Nat) (v : Fn) : (w.setFn i v).s.traceNext = w.s.traceNext := rfl
@[simp] theorem Work.setFn_idleNs (w : Work) (i : Nat) (v : Fn) : (w.setFn i v).s.idleNs = w.s.idleNs := rfl
@[simp] theorem Work.setFn_mw (w : Work) (i : Nat) (v : Fn) : (w.setFn i v).mw = w.mw := rfl
@[simp] theorem Work.setFn_hw (w : Work) (i : Nat) (v : Fn) : (w.setFn i v).hw = w.hw := rfl
@[simp] theorem Work.setFn_sw (w : Work) (i : Nat) (v : Fn) : (w.setFn i v).sw = w.sw := rfl
@[simp] theorem Work.setFn_stop (w : Work) (i : Nat) (v : Fn) : (w.setFn i v).stop = w.stop := rfl
@[simp] theorem Work.setFn_ring (w : Work) (i : Nat) (v : Fn) (j : Nat) : (w.setFn i v).s.ring j = w.s.ring j := rfl
@[simp] theorem Work.setFn_ctx (w : Work) (i : Nat) (v : Fn) (j : Nat) : (w.setFn i v).s.ctx j = w.s.ctx j := rfl
@[simp] theorem Work.setFn_region (w : Work) (i : Nat) (v : Fn) (j : Nat) : (w.setFn i v).s.region j = w.s.region j := rfl
@[simp] theorem Work.setFn_stack (w : Work) (i : Nat) (v : Fn) (j : Nat) : (w.setFn i v).s.stack j = w.s.stack j := rfl
@[simp] theorem Work.setFn_port (w : Work) (i : Nat) (v : Fn) (j : Nat) : (w.setFn i v).s.port j = w.s.port j := rfl
@[simp] theorem Work.setFn_job (w : Work) (i : Nat) (v : Fn) (j : Nat) : (w.setFn i v).s.job j = w.s.job j := rfl
@[simp] theorem Work.setFn_tile (w : Work) (i : Nat) (v : Fn) (j : Nat) : (w.setFn i v).s.tile j = w.s.tile j := rfl
@[simp] theorem Work.setFn_ph (w : Work) (i : Nat) (v : Fn) (j : Nat) : (w.setFn i v).s.ph j = w.s.ph j := rfl
@[simp] theorem Work.setFn_prog (w : Work) (i : Nat) (v : Fn) (j : Nat) : (w.setFn i v).s.prog j = w.s.prog j := rfl
@[simp] theorem Work.setFn_thread (w : Work) (i : Nat) (v : Fn) (j : Nat) : (w.setFn i v).s.thread j = w.s.thread j := rfl
@[simp] theorem Work.setFn_core (w : Work) (i : Nat) (v : Fn) (j : Nat) : (w.setFn i v).s.core j = w.s.core j := rfl
@[simp] theorem Work.setFn_now (w : Work) (i : Nat) (v : Fn) : (w.setFn i v).s.now = w.s.now := rfl
/-- A read after the update. -/
theorem Work.setFn_get (w : Work) (i : Nat) (v : Fn) (j : Nat) : (w.setFn i v).s.fn j = if j = i then v else w.s.fn j := by
  simp only [Work.setFn, State.fn, Table.get_put]
@[simp] theorem Work.setFn_same (w : Work) (i : Nat) (v : Fn) : (w.setFn i v).s.fn i = v := by rw [Work.setFn_get, if_pos rfl]
theorem Work.setFn_other (w : Work) (i : Nat) (v : Fn) {j : Nat} (h : j ≠ i) : (w.setFn i v).s.fn j = w.s.fn j := by rw [Work.setFn_get, if_neg h]

@[simp] theorem Work.setRing_pending (w : Work) (i : Nat) (v : Ring) : (w.setRing i v).s.pending = w.s.pending := rfl
@[simp] theorem Work.setRing_sent (w : Work) (i : Nat) (v : Ring) : (w.setRing i v).s.sent = w.s.sent := rfl
@[simp] theorem Work.setRing_free (w : Work) (i : Nat) (v : Ring) : (w.setRing i v).s.free = w.s.free := rfl
@[simp] theorem Work.setRing_mem (w : Work) (i : Nat) (v : Ring) : (w.setRing i v).s.mem = w.s.mem := rfl
@[simp] theorem Work.setRing_poison (w : Work) (i : Nat) (v : Ring) : (w.setRing i v).s.poison = w.s.poison := rfl
@[simp] theorem Work.setRing_host (w : Work) (i : Nat) (v : Ring) : (w.setRing i v).s.host = w.s.host := rfl
@[simp] theorem Work.setRing_pins (w : Work) (i : Nat) (v : Ring) : (w.setRing i v).s.pins = w.s.pins := rfl
@[simp] theorem Work.setRing_boot (w : Work) (i : Nat) (v : Ring) : (w.setRing i v).s.boot = w.s.boot := rfl
@[simp] theorem Work.setRing_power (w : Work) (i : Nat) (v : Ring) : (w.setRing i v).s.power = w.s.power := rfl
@[simp] theorem Work.setRing_time (w : Work) (i : Nat) (v : Ring) : (w.setRing i v).s.time = w.s.time := rfl
@[simp] theorem Work.setRing_pad (w : Work) (i : Nat) (v : Ring) : (w.setRing i v).s.pad = w.s.pad := rfl
@[simp] theorem Work.setRing_flash (w : Work) (i : Nat) (v : Ring) : (w.setRing i v).s.flash = w.s.flash := rfl
@[simp] theorem Work.setRing_mgt (w : Work) (i : Nat) (v : Ring) : (w.setRing i v).s.mgt = w.s.mgt := rfl
@[simp] theorem Work.setRing_sched (w : Work) (i : Nat) (v : Ring) : (w.setRing i v).s.sched = w.s.sched := rfl
@[simp] theorem Work.setRing_progs (w : Work) (i : Nat) (v : Ring) : (w.setRing i v).s.progs = w.s.progs := rfl
@[simp] theorem Work.setRing_space (w : Work) (i : Nat) (v : Ring) : (w.setRing i v).s.space = w.s.space := rfl
@[simp] theorem Work.setRing_fns (w : Work) (i : Nat) (v : Ring) : (w.setRing i v).s.fns = w.s.fns := rfl
@[simp] theorem Work.setRing_actives (w : Work) (i : Nat) (v : Ring) : (w.setRing i v).s.actives = w.s.actives := rfl
@[simp] theorem Work.setRing_latch (w : Work) (i : Nat) (v : Ring) : (w.setRing i v).s.latch = w.s.latch := rfl
@[simp] theorem Work.setRing_vfEnable (w : Work) (i : Nat) (v : Ring) : (w.setRing i v).s.vfEnable = w.s.vfEnable := rfl
@[simp] theorem Work.setRing_pcieRx (w : Work) (i : Nat) (v : Ring) : (w.setRing i v).s.pcieRx = w.s.pcieRx := rfl
@[simp] theorem Work.setRing_pcieTx (w : Work) (i : Nat) (v : Ring) : (w.setRing i v).s.pcieTx = w.s.pcieTx := rfl
@[simp] theorem Work.setRing_ctxs (w : Work) (i : Nat) (v : Ring) : (w.setRing i v).s.ctxs = w.s.ctxs := rfl
@[simp] theorem Work.setRing_regions (w : Work) (i : Nat) (v : Ring) : (w.setRing i v).s.regions = w.s.regions := rfl
@[simp] theorem Work.setRing_hbm (w : Work) (i : Nat) (v : Ring) : (w.setRing i v).s.hbm = w.s.hbm := rfl
@[simp] theorem Work.setRing_pkgBytes (w : Work) (i : Nat) (v : Ring) : (w.setRing i v).s.pkgBytes = w.s.pkgBytes := rfl
@[simp] theorem Work.setRing_ports (w : Work) (i : Nat) (v : Ring) : (w.setRing i v).s.ports = w.s.ports := rfl
@[simp] theorem Work.setRing_form (w : Work) (i : Nat) (v : Ring) : (w.setRing i v).s.form = w.s.form := rfl
@[simp] theorem Work.setRing_bank (w : Work) (i : Nat) (v : Ring) : (w.setRing i v).s.bank = w.s.bank := rfl
@[simp] theorem Work.setRing_jobs (w : Work) (i : Nat) (v : Ring) : (w.setRing i v).s.jobs = w.s.jobs := rfl
@[simp] theorem Work.setRing_tiles (w : Work) (i : Nat) (v : Ring) : (w.setRing i v).s.tiles = w.s.tiles := rfl
@[simp] theorem Work.setRing_phys (w : Work) (i : Nat) (v : Ring) : (w.setRing i v).s.phys = w.s.phys := rfl
@[simp] theorem Work.setRing_arrivals (w : Work) (i : Nat) (v : Ring) : (w.setRing i v).s.arrivals = w.s.arrivals := rfl
@[simp] theorem Work.setRing_lanes (w : Work) (i : Nat) (v : Ring) : (w.setRing i v).s.lanes = w.s.lanes := rfl
@[simp] theorem Work.setRing_lanesNow (w : Work) (i : Nat) (v : Ring) : (w.setRing i v).s.lanesNow = w.s.lanesNow := rfl
@[simp] theorem Work.setRing_windows (w : Work) (i : Nat) (v : Ring) : (w.setRing i v).s.windows = w.s.windows := rfl
@[simp] theorem Work.setRing_tests (w : Work) (i : Nat) (v : Ring) : (w.setRing i v).s.tests = w.s.tests := rfl
@[simp] theorem Work.setRing_retiring (w : Work) (i : Nat) (v : Ring) : (w.setRing i v).s.retiring = w.s.retiring := rfl
@[simp] theorem Work.setRing_requests (w : Work) (i : Nat) (v : Ring) : (w.setRing i v).s.requests = w.s.requests := rfl
@[simp] theorem Work.setRing_nextTag (w : Work) (i : Nat) (v : Ring) : (w.setRing i v).s.nextTag = w.s.nextTag := rfl
@[simp] theorem Work.setRing_routeDrops (w : Work) (i : Nat) (v : Ring) : (w.setRing i v).s.routeDrops = w.s.routeDrops := rfl
@[simp] theorem Work.setRing_resident (w : Work) (i : Nat) (v : Ring) : (w.setRing i v).s.resident = w.s.resident := rfl
@[simp] theorem Work.setRing_partials (w : Work) (i : Nat) (v : Ring) : (w.setRing i v).s.partials = w.s.partials := rfl
@[simp] theorem Work.setRing_journal (w : Work) (i : Nat) (v : Ring) : (w.setRing i v).s.journal = w.s.journal := rfl
@[simp] theorem Work.setRing_flips (w : Work) (i : Nat) (v : Ring) : (w.setRing i v).s.flips = w.s.flips := rfl
@[simp] theorem Work.setRing_retierList (w : Work) (i : Nat) (v : Ring) : (w.setRing i v).s.retierList = w.s.retierList := rfl
@[simp] theorem Work.setRing_retierDone (w : Work) (i : Nat) (v : Ring) : (w.setRing i v).s.retierDone = w.s.retierDone := rfl
@[simp] theorem Work.setRing_retierDue (w : Work) (i : Nat) (v : Ring) : (w.setRing i v).s.retierDue = w.s.retierDue := rfl
@[simp] theorem Work.setRing_traceDesc (w : Work) (i : Nat) (v : Ring) : (w.setRing i v).s.traceDesc = w.s.traceDesc := rfl
@[simp] theorem Work.setRing_traceNext (w : Work) (i : Nat) (v : Ring) : (w.setRing i v).s.traceNext = w.s.traceNext := rfl
@[simp] theorem Work.setRing_idleNs (w : Work) (i : Nat) (v : Ring) : (w.setRing i v).s.idleNs = w.s.idleNs := rfl
@[simp] theorem Work.setRing_mw (w : Work) (i : Nat) (v : Ring) : (w.setRing i v).mw = w.mw := rfl
@[simp] theorem Work.setRing_hw (w : Work) (i : Nat) (v : Ring) : (w.setRing i v).hw = w.hw := rfl
@[simp] theorem Work.setRing_sw (w : Work) (i : Nat) (v : Ring) : (w.setRing i v).sw = w.sw := rfl
@[simp] theorem Work.setRing_stop (w : Work) (i : Nat) (v : Ring) : (w.setRing i v).stop = w.stop := rfl
@[simp] theorem Work.setRing_fn (w : Work) (i : Nat) (v : Ring) (j : Nat) : (w.setRing i v).s.fn j = w.s.fn j := rfl
@[simp] theorem Work.setRing_ctx (w : Work) (i : Nat) (v : Ring) (j : Nat) : (w.setRing i v).s.ctx j = w.s.ctx j := rfl
@[simp] theorem Work.setRing_region (w : Work) (i : Nat) (v : Ring) (j : Nat) : (w.setRing i v).s.region j = w.s.region j := rfl
@[simp] theorem Work.setRing_stack (w : Work) (i : Nat) (v : Ring) (j : Nat) : (w.setRing i v).s.stack j = w.s.stack j := rfl
@[simp] theorem Work.setRing_port (w : Work) (i : Nat) (v : Ring) (j : Nat) : (w.setRing i v).s.port j = w.s.port j := rfl
@[simp] theorem Work.setRing_job (w : Work) (i : Nat) (v : Ring) (j : Nat) : (w.setRing i v).s.job j = w.s.job j := rfl
@[simp] theorem Work.setRing_tile (w : Work) (i : Nat) (v : Ring) (j : Nat) : (w.setRing i v).s.tile j = w.s.tile j := rfl
@[simp] theorem Work.setRing_ph (w : Work) (i : Nat) (v : Ring) (j : Nat) : (w.setRing i v).s.ph j = w.s.ph j := rfl
@[simp] theorem Work.setRing_prog (w : Work) (i : Nat) (v : Ring) (j : Nat) : (w.setRing i v).s.prog j = w.s.prog j := rfl
@[simp] theorem Work.setRing_thread (w : Work) (i : Nat) (v : Ring) (j : Nat) : (w.setRing i v).s.thread j = w.s.thread j := rfl
@[simp] theorem Work.setRing_core (w : Work) (i : Nat) (v : Ring) (j : Nat) : (w.setRing i v).s.core j = w.s.core j := rfl
@[simp] theorem Work.setRing_now (w : Work) (i : Nat) (v : Ring) : (w.setRing i v).s.now = w.s.now := rfl
/-- A read after the update. -/
theorem Work.setRing_get (w : Work) (i : Nat) (v : Ring) (j : Nat) : (w.setRing i v).s.ring j = if j = i then v else w.s.ring j := by
  simp only [Work.setRing, State.ring, Table.get_put]
@[simp] theorem Work.setRing_same (w : Work) (i : Nat) (v : Ring) : (w.setRing i v).s.ring i = v := by rw [Work.setRing_get, if_pos rfl]
theorem Work.setRing_other (w : Work) (i : Nat) (v : Ring) {j : Nat} (h : j ≠ i) : (w.setRing i v).s.ring j = w.s.ring j := by rw [Work.setRing_get, if_neg h]

@[simp] theorem Work.setCtx_pending (w : Work) (i : Nat) (v : Ctx) : (w.setCtx i v).s.pending = w.s.pending := rfl
@[simp] theorem Work.setCtx_sent (w : Work) (i : Nat) (v : Ctx) : (w.setCtx i v).s.sent = w.s.sent := rfl
@[simp] theorem Work.setCtx_free (w : Work) (i : Nat) (v : Ctx) : (w.setCtx i v).s.free = w.s.free := rfl
@[simp] theorem Work.setCtx_mem (w : Work) (i : Nat) (v : Ctx) : (w.setCtx i v).s.mem = w.s.mem := rfl
@[simp] theorem Work.setCtx_poison (w : Work) (i : Nat) (v : Ctx) : (w.setCtx i v).s.poison = w.s.poison := rfl
@[simp] theorem Work.setCtx_host (w : Work) (i : Nat) (v : Ctx) : (w.setCtx i v).s.host = w.s.host := rfl
@[simp] theorem Work.setCtx_pins (w : Work) (i : Nat) (v : Ctx) : (w.setCtx i v).s.pins = w.s.pins := rfl
@[simp] theorem Work.setCtx_boot (w : Work) (i : Nat) (v : Ctx) : (w.setCtx i v).s.boot = w.s.boot := rfl
@[simp] theorem Work.setCtx_power (w : Work) (i : Nat) (v : Ctx) : (w.setCtx i v).s.power = w.s.power := rfl
@[simp] theorem Work.setCtx_time (w : Work) (i : Nat) (v : Ctx) : (w.setCtx i v).s.time = w.s.time := rfl
@[simp] theorem Work.setCtx_pad (w : Work) (i : Nat) (v : Ctx) : (w.setCtx i v).s.pad = w.s.pad := rfl
@[simp] theorem Work.setCtx_flash (w : Work) (i : Nat) (v : Ctx) : (w.setCtx i v).s.flash = w.s.flash := rfl
@[simp] theorem Work.setCtx_mgt (w : Work) (i : Nat) (v : Ctx) : (w.setCtx i v).s.mgt = w.s.mgt := rfl
@[simp] theorem Work.setCtx_sched (w : Work) (i : Nat) (v : Ctx) : (w.setCtx i v).s.sched = w.s.sched := rfl
@[simp] theorem Work.setCtx_progs (w : Work) (i : Nat) (v : Ctx) : (w.setCtx i v).s.progs = w.s.progs := rfl
@[simp] theorem Work.setCtx_space (w : Work) (i : Nat) (v : Ctx) : (w.setCtx i v).s.space = w.s.space := rfl
@[simp] theorem Work.setCtx_fns (w : Work) (i : Nat) (v : Ctx) : (w.setCtx i v).s.fns = w.s.fns := rfl
@[simp] theorem Work.setCtx_rings (w : Work) (i : Nat) (v : Ctx) : (w.setCtx i v).s.rings = w.s.rings := rfl
@[simp] theorem Work.setCtx_actives (w : Work) (i : Nat) (v : Ctx) : (w.setCtx i v).s.actives = w.s.actives := rfl
@[simp] theorem Work.setCtx_latch (w : Work) (i : Nat) (v : Ctx) : (w.setCtx i v).s.latch = w.s.latch := rfl
@[simp] theorem Work.setCtx_vfEnable (w : Work) (i : Nat) (v : Ctx) : (w.setCtx i v).s.vfEnable = w.s.vfEnable := rfl
@[simp] theorem Work.setCtx_pcieRx (w : Work) (i : Nat) (v : Ctx) : (w.setCtx i v).s.pcieRx = w.s.pcieRx := rfl
@[simp] theorem Work.setCtx_pcieTx (w : Work) (i : Nat) (v : Ctx) : (w.setCtx i v).s.pcieTx = w.s.pcieTx := rfl
@[simp] theorem Work.setCtx_regions (w : Work) (i : Nat) (v : Ctx) : (w.setCtx i v).s.regions = w.s.regions := rfl
@[simp] theorem Work.setCtx_hbm (w : Work) (i : Nat) (v : Ctx) : (w.setCtx i v).s.hbm = w.s.hbm := rfl
@[simp] theorem Work.setCtx_pkgBytes (w : Work) (i : Nat) (v : Ctx) : (w.setCtx i v).s.pkgBytes = w.s.pkgBytes := rfl
@[simp] theorem Work.setCtx_ports (w : Work) (i : Nat) (v : Ctx) : (w.setCtx i v).s.ports = w.s.ports := rfl
@[simp] theorem Work.setCtx_form (w : Work) (i : Nat) (v : Ctx) : (w.setCtx i v).s.form = w.s.form := rfl
@[simp] theorem Work.setCtx_bank (w : Work) (i : Nat) (v : Ctx) : (w.setCtx i v).s.bank = w.s.bank := rfl
@[simp] theorem Work.setCtx_jobs (w : Work) (i : Nat) (v : Ctx) : (w.setCtx i v).s.jobs = w.s.jobs := rfl
@[simp] theorem Work.setCtx_tiles (w : Work) (i : Nat) (v : Ctx) : (w.setCtx i v).s.tiles = w.s.tiles := rfl
@[simp] theorem Work.setCtx_phys (w : Work) (i : Nat) (v : Ctx) : (w.setCtx i v).s.phys = w.s.phys := rfl
@[simp] theorem Work.setCtx_arrivals (w : Work) (i : Nat) (v : Ctx) : (w.setCtx i v).s.arrivals = w.s.arrivals := rfl
@[simp] theorem Work.setCtx_lanes (w : Work) (i : Nat) (v : Ctx) : (w.setCtx i v).s.lanes = w.s.lanes := rfl
@[simp] theorem Work.setCtx_lanesNow (w : Work) (i : Nat) (v : Ctx) : (w.setCtx i v).s.lanesNow = w.s.lanesNow := rfl
@[simp] theorem Work.setCtx_windows (w : Work) (i : Nat) (v : Ctx) : (w.setCtx i v).s.windows = w.s.windows := rfl
@[simp] theorem Work.setCtx_tests (w : Work) (i : Nat) (v : Ctx) : (w.setCtx i v).s.tests = w.s.tests := rfl
@[simp] theorem Work.setCtx_retiring (w : Work) (i : Nat) (v : Ctx) : (w.setCtx i v).s.retiring = w.s.retiring := rfl
@[simp] theorem Work.setCtx_requests (w : Work) (i : Nat) (v : Ctx) : (w.setCtx i v).s.requests = w.s.requests := rfl
@[simp] theorem Work.setCtx_nextTag (w : Work) (i : Nat) (v : Ctx) : (w.setCtx i v).s.nextTag = w.s.nextTag := rfl
@[simp] theorem Work.setCtx_routeDrops (w : Work) (i : Nat) (v : Ctx) : (w.setCtx i v).s.routeDrops = w.s.routeDrops := rfl
@[simp] theorem Work.setCtx_resident (w : Work) (i : Nat) (v : Ctx) : (w.setCtx i v).s.resident = w.s.resident := rfl
@[simp] theorem Work.setCtx_partials (w : Work) (i : Nat) (v : Ctx) : (w.setCtx i v).s.partials = w.s.partials := rfl
@[simp] theorem Work.setCtx_journal (w : Work) (i : Nat) (v : Ctx) : (w.setCtx i v).s.journal = w.s.journal := rfl
@[simp] theorem Work.setCtx_flips (w : Work) (i : Nat) (v : Ctx) : (w.setCtx i v).s.flips = w.s.flips := rfl
@[simp] theorem Work.setCtx_retierList (w : Work) (i : Nat) (v : Ctx) : (w.setCtx i v).s.retierList = w.s.retierList := rfl
@[simp] theorem Work.setCtx_retierDone (w : Work) (i : Nat) (v : Ctx) : (w.setCtx i v).s.retierDone = w.s.retierDone := rfl
@[simp] theorem Work.setCtx_retierDue (w : Work) (i : Nat) (v : Ctx) : (w.setCtx i v).s.retierDue = w.s.retierDue := rfl
@[simp] theorem Work.setCtx_traceDesc (w : Work) (i : Nat) (v : Ctx) : (w.setCtx i v).s.traceDesc = w.s.traceDesc := rfl
@[simp] theorem Work.setCtx_traceNext (w : Work) (i : Nat) (v : Ctx) : (w.setCtx i v).s.traceNext = w.s.traceNext := rfl
@[simp] theorem Work.setCtx_idleNs (w : Work) (i : Nat) (v : Ctx) : (w.setCtx i v).s.idleNs = w.s.idleNs := rfl
@[simp] theorem Work.setCtx_mw (w : Work) (i : Nat) (v : Ctx) : (w.setCtx i v).mw = w.mw := rfl
@[simp] theorem Work.setCtx_hw (w : Work) (i : Nat) (v : Ctx) : (w.setCtx i v).hw = w.hw := rfl
@[simp] theorem Work.setCtx_sw (w : Work) (i : Nat) (v : Ctx) : (w.setCtx i v).sw = w.sw := rfl
@[simp] theorem Work.setCtx_stop (w : Work) (i : Nat) (v : Ctx) : (w.setCtx i v).stop = w.stop := rfl
@[simp] theorem Work.setCtx_fn (w : Work) (i : Nat) (v : Ctx) (j : Nat) : (w.setCtx i v).s.fn j = w.s.fn j := rfl
@[simp] theorem Work.setCtx_ring (w : Work) (i : Nat) (v : Ctx) (j : Nat) : (w.setCtx i v).s.ring j = w.s.ring j := rfl
@[simp] theorem Work.setCtx_region (w : Work) (i : Nat) (v : Ctx) (j : Nat) : (w.setCtx i v).s.region j = w.s.region j := rfl
@[simp] theorem Work.setCtx_stack (w : Work) (i : Nat) (v : Ctx) (j : Nat) : (w.setCtx i v).s.stack j = w.s.stack j := rfl
@[simp] theorem Work.setCtx_port (w : Work) (i : Nat) (v : Ctx) (j : Nat) : (w.setCtx i v).s.port j = w.s.port j := rfl
@[simp] theorem Work.setCtx_job (w : Work) (i : Nat) (v : Ctx) (j : Nat) : (w.setCtx i v).s.job j = w.s.job j := rfl
@[simp] theorem Work.setCtx_tile (w : Work) (i : Nat) (v : Ctx) (j : Nat) : (w.setCtx i v).s.tile j = w.s.tile j := rfl
@[simp] theorem Work.setCtx_ph (w : Work) (i : Nat) (v : Ctx) (j : Nat) : (w.setCtx i v).s.ph j = w.s.ph j := rfl
@[simp] theorem Work.setCtx_prog (w : Work) (i : Nat) (v : Ctx) (j : Nat) : (w.setCtx i v).s.prog j = w.s.prog j := rfl
@[simp] theorem Work.setCtx_thread (w : Work) (i : Nat) (v : Ctx) (j : Nat) : (w.setCtx i v).s.thread j = w.s.thread j := rfl
@[simp] theorem Work.setCtx_core (w : Work) (i : Nat) (v : Ctx) (j : Nat) : (w.setCtx i v).s.core j = w.s.core j := rfl
@[simp] theorem Work.setCtx_now (w : Work) (i : Nat) (v : Ctx) : (w.setCtx i v).s.now = w.s.now := rfl
/-- A read after the update. -/
theorem Work.setCtx_get (w : Work) (i : Nat) (v : Ctx) (j : Nat) : (w.setCtx i v).s.ctx j = if j = i then v else w.s.ctx j := by
  simp only [Work.setCtx, State.ctx, Table.get_put]
@[simp] theorem Work.setCtx_same (w : Work) (i : Nat) (v : Ctx) : (w.setCtx i v).s.ctx i = v := by rw [Work.setCtx_get, if_pos rfl]
theorem Work.setCtx_other (w : Work) (i : Nat) (v : Ctx) {j : Nat} (h : j ≠ i) : (w.setCtx i v).s.ctx j = w.s.ctx j := by rw [Work.setCtx_get, if_neg h]

@[simp] theorem Work.setRegion_pending (w : Work) (i : Nat) (v : Region) : (w.setRegion i v).s.pending = w.s.pending := rfl
@[simp] theorem Work.setRegion_sent (w : Work) (i : Nat) (v : Region) : (w.setRegion i v).s.sent = w.s.sent := rfl
@[simp] theorem Work.setRegion_free (w : Work) (i : Nat) (v : Region) : (w.setRegion i v).s.free = w.s.free := rfl
@[simp] theorem Work.setRegion_mem (w : Work) (i : Nat) (v : Region) : (w.setRegion i v).s.mem = w.s.mem := rfl
@[simp] theorem Work.setRegion_poison (w : Work) (i : Nat) (v : Region) : (w.setRegion i v).s.poison = w.s.poison := rfl
@[simp] theorem Work.setRegion_host (w : Work) (i : Nat) (v : Region) : (w.setRegion i v).s.host = w.s.host := rfl
@[simp] theorem Work.setRegion_pins (w : Work) (i : Nat) (v : Region) : (w.setRegion i v).s.pins = w.s.pins := rfl
@[simp] theorem Work.setRegion_boot (w : Work) (i : Nat) (v : Region) : (w.setRegion i v).s.boot = w.s.boot := rfl
@[simp] theorem Work.setRegion_power (w : Work) (i : Nat) (v : Region) : (w.setRegion i v).s.power = w.s.power := rfl
@[simp] theorem Work.setRegion_time (w : Work) (i : Nat) (v : Region) : (w.setRegion i v).s.time = w.s.time := rfl
@[simp] theorem Work.setRegion_pad (w : Work) (i : Nat) (v : Region) : (w.setRegion i v).s.pad = w.s.pad := rfl
@[simp] theorem Work.setRegion_flash (w : Work) (i : Nat) (v : Region) : (w.setRegion i v).s.flash = w.s.flash := rfl
@[simp] theorem Work.setRegion_mgt (w : Work) (i : Nat) (v : Region) : (w.setRegion i v).s.mgt = w.s.mgt := rfl
@[simp] theorem Work.setRegion_sched (w : Work) (i : Nat) (v : Region) : (w.setRegion i v).s.sched = w.s.sched := rfl
@[simp] theorem Work.setRegion_progs (w : Work) (i : Nat) (v : Region) : (w.setRegion i v).s.progs = w.s.progs := rfl
@[simp] theorem Work.setRegion_space (w : Work) (i : Nat) (v : Region) : (w.setRegion i v).s.space = w.s.space := rfl
@[simp] theorem Work.setRegion_fns (w : Work) (i : Nat) (v : Region) : (w.setRegion i v).s.fns = w.s.fns := rfl
@[simp] theorem Work.setRegion_rings (w : Work) (i : Nat) (v : Region) : (w.setRegion i v).s.rings = w.s.rings := rfl
@[simp] theorem Work.setRegion_actives (w : Work) (i : Nat) (v : Region) : (w.setRegion i v).s.actives = w.s.actives := rfl
@[simp] theorem Work.setRegion_latch (w : Work) (i : Nat) (v : Region) : (w.setRegion i v).s.latch = w.s.latch := rfl
@[simp] theorem Work.setRegion_vfEnable (w : Work) (i : Nat) (v : Region) : (w.setRegion i v).s.vfEnable = w.s.vfEnable := rfl
@[simp] theorem Work.setRegion_pcieRx (w : Work) (i : Nat) (v : Region) : (w.setRegion i v).s.pcieRx = w.s.pcieRx := rfl
@[simp] theorem Work.setRegion_pcieTx (w : Work) (i : Nat) (v : Region) : (w.setRegion i v).s.pcieTx = w.s.pcieTx := rfl
@[simp] theorem Work.setRegion_ctxs (w : Work) (i : Nat) (v : Region) : (w.setRegion i v).s.ctxs = w.s.ctxs := rfl
@[simp] theorem Work.setRegion_hbm (w : Work) (i : Nat) (v : Region) : (w.setRegion i v).s.hbm = w.s.hbm := rfl
@[simp] theorem Work.setRegion_pkgBytes (w : Work) (i : Nat) (v : Region) : (w.setRegion i v).s.pkgBytes = w.s.pkgBytes := rfl
@[simp] theorem Work.setRegion_ports (w : Work) (i : Nat) (v : Region) : (w.setRegion i v).s.ports = w.s.ports := rfl
@[simp] theorem Work.setRegion_form (w : Work) (i : Nat) (v : Region) : (w.setRegion i v).s.form = w.s.form := rfl
@[simp] theorem Work.setRegion_bank (w : Work) (i : Nat) (v : Region) : (w.setRegion i v).s.bank = w.s.bank := rfl
@[simp] theorem Work.setRegion_jobs (w : Work) (i : Nat) (v : Region) : (w.setRegion i v).s.jobs = w.s.jobs := rfl
@[simp] theorem Work.setRegion_tiles (w : Work) (i : Nat) (v : Region) : (w.setRegion i v).s.tiles = w.s.tiles := rfl
@[simp] theorem Work.setRegion_phys (w : Work) (i : Nat) (v : Region) : (w.setRegion i v).s.phys = w.s.phys := rfl
@[simp] theorem Work.setRegion_arrivals (w : Work) (i : Nat) (v : Region) : (w.setRegion i v).s.arrivals = w.s.arrivals := rfl
@[simp] theorem Work.setRegion_lanes (w : Work) (i : Nat) (v : Region) : (w.setRegion i v).s.lanes = w.s.lanes := rfl
@[simp] theorem Work.setRegion_lanesNow (w : Work) (i : Nat) (v : Region) : (w.setRegion i v).s.lanesNow = w.s.lanesNow := rfl
@[simp] theorem Work.setRegion_windows (w : Work) (i : Nat) (v : Region) : (w.setRegion i v).s.windows = w.s.windows := rfl
@[simp] theorem Work.setRegion_tests (w : Work) (i : Nat) (v : Region) : (w.setRegion i v).s.tests = w.s.tests := rfl
@[simp] theorem Work.setRegion_retiring (w : Work) (i : Nat) (v : Region) : (w.setRegion i v).s.retiring = w.s.retiring := rfl
@[simp] theorem Work.setRegion_requests (w : Work) (i : Nat) (v : Region) : (w.setRegion i v).s.requests = w.s.requests := rfl
@[simp] theorem Work.setRegion_nextTag (w : Work) (i : Nat) (v : Region) : (w.setRegion i v).s.nextTag = w.s.nextTag := rfl
@[simp] theorem Work.setRegion_routeDrops (w : Work) (i : Nat) (v : Region) : (w.setRegion i v).s.routeDrops = w.s.routeDrops := rfl
@[simp] theorem Work.setRegion_resident (w : Work) (i : Nat) (v : Region) : (w.setRegion i v).s.resident = w.s.resident := rfl
@[simp] theorem Work.setRegion_partials (w : Work) (i : Nat) (v : Region) : (w.setRegion i v).s.partials = w.s.partials := rfl
@[simp] theorem Work.setRegion_journal (w : Work) (i : Nat) (v : Region) : (w.setRegion i v).s.journal = w.s.journal := rfl
@[simp] theorem Work.setRegion_flips (w : Work) (i : Nat) (v : Region) : (w.setRegion i v).s.flips = w.s.flips := rfl
@[simp] theorem Work.setRegion_retierList (w : Work) (i : Nat) (v : Region) : (w.setRegion i v).s.retierList = w.s.retierList := rfl
@[simp] theorem Work.setRegion_retierDone (w : Work) (i : Nat) (v : Region) : (w.setRegion i v).s.retierDone = w.s.retierDone := rfl
@[simp] theorem Work.setRegion_retierDue (w : Work) (i : Nat) (v : Region) : (w.setRegion i v).s.retierDue = w.s.retierDue := rfl
@[simp] theorem Work.setRegion_traceDesc (w : Work) (i : Nat) (v : Region) : (w.setRegion i v).s.traceDesc = w.s.traceDesc := rfl
@[simp] theorem Work.setRegion_traceNext (w : Work) (i : Nat) (v : Region) : (w.setRegion i v).s.traceNext = w.s.traceNext := rfl
@[simp] theorem Work.setRegion_idleNs (w : Work) (i : Nat) (v : Region) : (w.setRegion i v).s.idleNs = w.s.idleNs := rfl
@[simp] theorem Work.setRegion_mw (w : Work) (i : Nat) (v : Region) : (w.setRegion i v).mw = w.mw := rfl
@[simp] theorem Work.setRegion_hw (w : Work) (i : Nat) (v : Region) : (w.setRegion i v).hw = w.hw := rfl
@[simp] theorem Work.setRegion_sw (w : Work) (i : Nat) (v : Region) : (w.setRegion i v).sw = w.sw := rfl
@[simp] theorem Work.setRegion_stop (w : Work) (i : Nat) (v : Region) : (w.setRegion i v).stop = w.stop := rfl
@[simp] theorem Work.setRegion_fn (w : Work) (i : Nat) (v : Region) (j : Nat) : (w.setRegion i v).s.fn j = w.s.fn j := rfl
@[simp] theorem Work.setRegion_ring (w : Work) (i : Nat) (v : Region) (j : Nat) : (w.setRegion i v).s.ring j = w.s.ring j := rfl
@[simp] theorem Work.setRegion_ctx (w : Work) (i : Nat) (v : Region) (j : Nat) : (w.setRegion i v).s.ctx j = w.s.ctx j := rfl
@[simp] theorem Work.setRegion_stack (w : Work) (i : Nat) (v : Region) (j : Nat) : (w.setRegion i v).s.stack j = w.s.stack j := rfl
@[simp] theorem Work.setRegion_port (w : Work) (i : Nat) (v : Region) (j : Nat) : (w.setRegion i v).s.port j = w.s.port j := rfl
@[simp] theorem Work.setRegion_job (w : Work) (i : Nat) (v : Region) (j : Nat) : (w.setRegion i v).s.job j = w.s.job j := rfl
@[simp] theorem Work.setRegion_tile (w : Work) (i : Nat) (v : Region) (j : Nat) : (w.setRegion i v).s.tile j = w.s.tile j := rfl
@[simp] theorem Work.setRegion_ph (w : Work) (i : Nat) (v : Region) (j : Nat) : (w.setRegion i v).s.ph j = w.s.ph j := rfl
@[simp] theorem Work.setRegion_prog (w : Work) (i : Nat) (v : Region) (j : Nat) : (w.setRegion i v).s.prog j = w.s.prog j := rfl
@[simp] theorem Work.setRegion_thread (w : Work) (i : Nat) (v : Region) (j : Nat) : (w.setRegion i v).s.thread j = w.s.thread j := rfl
@[simp] theorem Work.setRegion_core (w : Work) (i : Nat) (v : Region) (j : Nat) : (w.setRegion i v).s.core j = w.s.core j := rfl
@[simp] theorem Work.setRegion_now (w : Work) (i : Nat) (v : Region) : (w.setRegion i v).s.now = w.s.now := rfl
/-- A read after the update. -/
theorem Work.setRegion_get (w : Work) (i : Nat) (v : Region) (j : Nat) : (w.setRegion i v).s.region j = if j = i then v else w.s.region j := by
  simp only [Work.setRegion, State.region, Table.get_put]
@[simp] theorem Work.setRegion_same (w : Work) (i : Nat) (v : Region) : (w.setRegion i v).s.region i = v := by rw [Work.setRegion_get, if_pos rfl]
theorem Work.setRegion_other (w : Work) (i : Nat) (v : Region) {j : Nat} (h : j ≠ i) : (w.setRegion i v).s.region j = w.s.region j := by rw [Work.setRegion_get, if_neg h]

@[simp] theorem Work.setStack_pending (w : Work) (i : Nat) (v : Stack) : (w.setStack i v).s.pending = w.s.pending := rfl
@[simp] theorem Work.setStack_sent (w : Work) (i : Nat) (v : Stack) : (w.setStack i v).s.sent = w.s.sent := rfl
@[simp] theorem Work.setStack_free (w : Work) (i : Nat) (v : Stack) : (w.setStack i v).s.free = w.s.free := rfl
@[simp] theorem Work.setStack_mem (w : Work) (i : Nat) (v : Stack) : (w.setStack i v).s.mem = w.s.mem := rfl
@[simp] theorem Work.setStack_poison (w : Work) (i : Nat) (v : Stack) : (w.setStack i v).s.poison = w.s.poison := rfl
@[simp] theorem Work.setStack_host (w : Work) (i : Nat) (v : Stack) : (w.setStack i v).s.host = w.s.host := rfl
@[simp] theorem Work.setStack_pins (w : Work) (i : Nat) (v : Stack) : (w.setStack i v).s.pins = w.s.pins := rfl
@[simp] theorem Work.setStack_boot (w : Work) (i : Nat) (v : Stack) : (w.setStack i v).s.boot = w.s.boot := rfl
@[simp] theorem Work.setStack_power (w : Work) (i : Nat) (v : Stack) : (w.setStack i v).s.power = w.s.power := rfl
@[simp] theorem Work.setStack_time (w : Work) (i : Nat) (v : Stack) : (w.setStack i v).s.time = w.s.time := rfl
@[simp] theorem Work.setStack_pad (w : Work) (i : Nat) (v : Stack) : (w.setStack i v).s.pad = w.s.pad := rfl
@[simp] theorem Work.setStack_flash (w : Work) (i : Nat) (v : Stack) : (w.setStack i v).s.flash = w.s.flash := rfl
@[simp] theorem Work.setStack_mgt (w : Work) (i : Nat) (v : Stack) : (w.setStack i v).s.mgt = w.s.mgt := rfl
@[simp] theorem Work.setStack_sched (w : Work) (i : Nat) (v : Stack) : (w.setStack i v).s.sched = w.s.sched := rfl
@[simp] theorem Work.setStack_progs (w : Work) (i : Nat) (v : Stack) : (w.setStack i v).s.progs = w.s.progs := rfl
@[simp] theorem Work.setStack_space (w : Work) (i : Nat) (v : Stack) : (w.setStack i v).s.space = w.s.space := rfl
@[simp] theorem Work.setStack_fns (w : Work) (i : Nat) (v : Stack) : (w.setStack i v).s.fns = w.s.fns := rfl
@[simp] theorem Work.setStack_rings (w : Work) (i : Nat) (v : Stack) : (w.setStack i v).s.rings = w.s.rings := rfl
@[simp] theorem Work.setStack_actives (w : Work) (i : Nat) (v : Stack) : (w.setStack i v).s.actives = w.s.actives := rfl
@[simp] theorem Work.setStack_latch (w : Work) (i : Nat) (v : Stack) : (w.setStack i v).s.latch = w.s.latch := rfl
@[simp] theorem Work.setStack_vfEnable (w : Work) (i : Nat) (v : Stack) : (w.setStack i v).s.vfEnable = w.s.vfEnable := rfl
@[simp] theorem Work.setStack_pcieRx (w : Work) (i : Nat) (v : Stack) : (w.setStack i v).s.pcieRx = w.s.pcieRx := rfl
@[simp] theorem Work.setStack_pcieTx (w : Work) (i : Nat) (v : Stack) : (w.setStack i v).s.pcieTx = w.s.pcieTx := rfl
@[simp] theorem Work.setStack_ctxs (w : Work) (i : Nat) (v : Stack) : (w.setStack i v).s.ctxs = w.s.ctxs := rfl
@[simp] theorem Work.setStack_regions (w : Work) (i : Nat) (v : Stack) : (w.setStack i v).s.regions = w.s.regions := rfl
@[simp] theorem Work.setStack_pkgBytes (w : Work) (i : Nat) (v : Stack) : (w.setStack i v).s.pkgBytes = w.s.pkgBytes := rfl
@[simp] theorem Work.setStack_ports (w : Work) (i : Nat) (v : Stack) : (w.setStack i v).s.ports = w.s.ports := rfl
@[simp] theorem Work.setStack_form (w : Work) (i : Nat) (v : Stack) : (w.setStack i v).s.form = w.s.form := rfl
@[simp] theorem Work.setStack_bank (w : Work) (i : Nat) (v : Stack) : (w.setStack i v).s.bank = w.s.bank := rfl
@[simp] theorem Work.setStack_jobs (w : Work) (i : Nat) (v : Stack) : (w.setStack i v).s.jobs = w.s.jobs := rfl
@[simp] theorem Work.setStack_tiles (w : Work) (i : Nat) (v : Stack) : (w.setStack i v).s.tiles = w.s.tiles := rfl
@[simp] theorem Work.setStack_phys (w : Work) (i : Nat) (v : Stack) : (w.setStack i v).s.phys = w.s.phys := rfl
@[simp] theorem Work.setStack_arrivals (w : Work) (i : Nat) (v : Stack) : (w.setStack i v).s.arrivals = w.s.arrivals := rfl
@[simp] theorem Work.setStack_lanes (w : Work) (i : Nat) (v : Stack) : (w.setStack i v).s.lanes = w.s.lanes := rfl
@[simp] theorem Work.setStack_lanesNow (w : Work) (i : Nat) (v : Stack) : (w.setStack i v).s.lanesNow = w.s.lanesNow := rfl
@[simp] theorem Work.setStack_windows (w : Work) (i : Nat) (v : Stack) : (w.setStack i v).s.windows = w.s.windows := rfl
@[simp] theorem Work.setStack_tests (w : Work) (i : Nat) (v : Stack) : (w.setStack i v).s.tests = w.s.tests := rfl
@[simp] theorem Work.setStack_retiring (w : Work) (i : Nat) (v : Stack) : (w.setStack i v).s.retiring = w.s.retiring := rfl
@[simp] theorem Work.setStack_requests (w : Work) (i : Nat) (v : Stack) : (w.setStack i v).s.requests = w.s.requests := rfl
@[simp] theorem Work.setStack_nextTag (w : Work) (i : Nat) (v : Stack) : (w.setStack i v).s.nextTag = w.s.nextTag := rfl
@[simp] theorem Work.setStack_routeDrops (w : Work) (i : Nat) (v : Stack) : (w.setStack i v).s.routeDrops = w.s.routeDrops := rfl
@[simp] theorem Work.setStack_resident (w : Work) (i : Nat) (v : Stack) : (w.setStack i v).s.resident = w.s.resident := rfl
@[simp] theorem Work.setStack_partials (w : Work) (i : Nat) (v : Stack) : (w.setStack i v).s.partials = w.s.partials := rfl
@[simp] theorem Work.setStack_journal (w : Work) (i : Nat) (v : Stack) : (w.setStack i v).s.journal = w.s.journal := rfl
@[simp] theorem Work.setStack_flips (w : Work) (i : Nat) (v : Stack) : (w.setStack i v).s.flips = w.s.flips := rfl
@[simp] theorem Work.setStack_retierList (w : Work) (i : Nat) (v : Stack) : (w.setStack i v).s.retierList = w.s.retierList := rfl
@[simp] theorem Work.setStack_retierDone (w : Work) (i : Nat) (v : Stack) : (w.setStack i v).s.retierDone = w.s.retierDone := rfl
@[simp] theorem Work.setStack_retierDue (w : Work) (i : Nat) (v : Stack) : (w.setStack i v).s.retierDue = w.s.retierDue := rfl
@[simp] theorem Work.setStack_traceDesc (w : Work) (i : Nat) (v : Stack) : (w.setStack i v).s.traceDesc = w.s.traceDesc := rfl
@[simp] theorem Work.setStack_traceNext (w : Work) (i : Nat) (v : Stack) : (w.setStack i v).s.traceNext = w.s.traceNext := rfl
@[simp] theorem Work.setStack_idleNs (w : Work) (i : Nat) (v : Stack) : (w.setStack i v).s.idleNs = w.s.idleNs := rfl
@[simp] theorem Work.setStack_mw (w : Work) (i : Nat) (v : Stack) : (w.setStack i v).mw = w.mw := rfl
@[simp] theorem Work.setStack_hw (w : Work) (i : Nat) (v : Stack) : (w.setStack i v).hw = w.hw := rfl
@[simp] theorem Work.setStack_sw (w : Work) (i : Nat) (v : Stack) : (w.setStack i v).sw = w.sw := rfl
@[simp] theorem Work.setStack_stop (w : Work) (i : Nat) (v : Stack) : (w.setStack i v).stop = w.stop := rfl
@[simp] theorem Work.setStack_fn (w : Work) (i : Nat) (v : Stack) (j : Nat) : (w.setStack i v).s.fn j = w.s.fn j := rfl
@[simp] theorem Work.setStack_ring (w : Work) (i : Nat) (v : Stack) (j : Nat) : (w.setStack i v).s.ring j = w.s.ring j := rfl
@[simp] theorem Work.setStack_ctx (w : Work) (i : Nat) (v : Stack) (j : Nat) : (w.setStack i v).s.ctx j = w.s.ctx j := rfl
@[simp] theorem Work.setStack_region (w : Work) (i : Nat) (v : Stack) (j : Nat) : (w.setStack i v).s.region j = w.s.region j := rfl
@[simp] theorem Work.setStack_port (w : Work) (i : Nat) (v : Stack) (j : Nat) : (w.setStack i v).s.port j = w.s.port j := rfl
@[simp] theorem Work.setStack_job (w : Work) (i : Nat) (v : Stack) (j : Nat) : (w.setStack i v).s.job j = w.s.job j := rfl
@[simp] theorem Work.setStack_tile (w : Work) (i : Nat) (v : Stack) (j : Nat) : (w.setStack i v).s.tile j = w.s.tile j := rfl
@[simp] theorem Work.setStack_ph (w : Work) (i : Nat) (v : Stack) (j : Nat) : (w.setStack i v).s.ph j = w.s.ph j := rfl
@[simp] theorem Work.setStack_prog (w : Work) (i : Nat) (v : Stack) (j : Nat) : (w.setStack i v).s.prog j = w.s.prog j := rfl
@[simp] theorem Work.setStack_thread (w : Work) (i : Nat) (v : Stack) (j : Nat) : (w.setStack i v).s.thread j = w.s.thread j := rfl
@[simp] theorem Work.setStack_core (w : Work) (i : Nat) (v : Stack) (j : Nat) : (w.setStack i v).s.core j = w.s.core j := rfl
@[simp] theorem Work.setStack_now (w : Work) (i : Nat) (v : Stack) : (w.setStack i v).s.now = w.s.now := rfl
/-- A read after the update. -/
theorem Work.setStack_get (w : Work) (i : Nat) (v : Stack) (j : Nat) : (w.setStack i v).s.stack j = if j = i then v else w.s.stack j := by
  simp only [Work.setStack, State.stack, Table.get_put]
@[simp] theorem Work.setStack_same (w : Work) (i : Nat) (v : Stack) : (w.setStack i v).s.stack i = v := by rw [Work.setStack_get, if_pos rfl]
theorem Work.setStack_other (w : Work) (i : Nat) (v : Stack) {j : Nat} (h : j ≠ i) : (w.setStack i v).s.stack j = w.s.stack j := by rw [Work.setStack_get, if_neg h]

@[simp] theorem Work.setPort_pending (w : Work) (i : Nat) (v : Port) : (w.setPort i v).s.pending = w.s.pending := rfl
@[simp] theorem Work.setPort_sent (w : Work) (i : Nat) (v : Port) : (w.setPort i v).s.sent = w.s.sent := rfl
@[simp] theorem Work.setPort_free (w : Work) (i : Nat) (v : Port) : (w.setPort i v).s.free = w.s.free := rfl
@[simp] theorem Work.setPort_mem (w : Work) (i : Nat) (v : Port) : (w.setPort i v).s.mem = w.s.mem := rfl
@[simp] theorem Work.setPort_poison (w : Work) (i : Nat) (v : Port) : (w.setPort i v).s.poison = w.s.poison := rfl
@[simp] theorem Work.setPort_host (w : Work) (i : Nat) (v : Port) : (w.setPort i v).s.host = w.s.host := rfl
@[simp] theorem Work.setPort_pins (w : Work) (i : Nat) (v : Port) : (w.setPort i v).s.pins = w.s.pins := rfl
@[simp] theorem Work.setPort_boot (w : Work) (i : Nat) (v : Port) : (w.setPort i v).s.boot = w.s.boot := rfl
@[simp] theorem Work.setPort_power (w : Work) (i : Nat) (v : Port) : (w.setPort i v).s.power = w.s.power := rfl
@[simp] theorem Work.setPort_time (w : Work) (i : Nat) (v : Port) : (w.setPort i v).s.time = w.s.time := rfl
@[simp] theorem Work.setPort_pad (w : Work) (i : Nat) (v : Port) : (w.setPort i v).s.pad = w.s.pad := rfl
@[simp] theorem Work.setPort_flash (w : Work) (i : Nat) (v : Port) : (w.setPort i v).s.flash = w.s.flash := rfl
@[simp] theorem Work.setPort_mgt (w : Work) (i : Nat) (v : Port) : (w.setPort i v).s.mgt = w.s.mgt := rfl
@[simp] theorem Work.setPort_sched (w : Work) (i : Nat) (v : Port) : (w.setPort i v).s.sched = w.s.sched := rfl
@[simp] theorem Work.setPort_progs (w : Work) (i : Nat) (v : Port) : (w.setPort i v).s.progs = w.s.progs := rfl
@[simp] theorem Work.setPort_space (w : Work) (i : Nat) (v : Port) : (w.setPort i v).s.space = w.s.space := rfl
@[simp] theorem Work.setPort_fns (w : Work) (i : Nat) (v : Port) : (w.setPort i v).s.fns = w.s.fns := rfl
@[simp] theorem Work.setPort_rings (w : Work) (i : Nat) (v : Port) : (w.setPort i v).s.rings = w.s.rings := rfl
@[simp] theorem Work.setPort_actives (w : Work) (i : Nat) (v : Port) : (w.setPort i v).s.actives = w.s.actives := rfl
@[simp] theorem Work.setPort_latch (w : Work) (i : Nat) (v : Port) : (w.setPort i v).s.latch = w.s.latch := rfl
@[simp] theorem Work.setPort_vfEnable (w : Work) (i : Nat) (v : Port) : (w.setPort i v).s.vfEnable = w.s.vfEnable := rfl
@[simp] theorem Work.setPort_pcieRx (w : Work) (i : Nat) (v : Port) : (w.setPort i v).s.pcieRx = w.s.pcieRx := rfl
@[simp] theorem Work.setPort_pcieTx (w : Work) (i : Nat) (v : Port) : (w.setPort i v).s.pcieTx = w.s.pcieTx := rfl
@[simp] theorem Work.setPort_ctxs (w : Work) (i : Nat) (v : Port) : (w.setPort i v).s.ctxs = w.s.ctxs := rfl
@[simp] theorem Work.setPort_regions (w : Work) (i : Nat) (v : Port) : (w.setPort i v).s.regions = w.s.regions := rfl
@[simp] theorem Work.setPort_hbm (w : Work) (i : Nat) (v : Port) : (w.setPort i v).s.hbm = w.s.hbm := rfl
@[simp] theorem Work.setPort_pkgBytes (w : Work) (i : Nat) (v : Port) : (w.setPort i v).s.pkgBytes = w.s.pkgBytes := rfl
@[simp] theorem Work.setPort_form (w : Work) (i : Nat) (v : Port) : (w.setPort i v).s.form = w.s.form := rfl
@[simp] theorem Work.setPort_bank (w : Work) (i : Nat) (v : Port) : (w.setPort i v).s.bank = w.s.bank := rfl
@[simp] theorem Work.setPort_jobs (w : Work) (i : Nat) (v : Port) : (w.setPort i v).s.jobs = w.s.jobs := rfl
@[simp] theorem Work.setPort_tiles (w : Work) (i : Nat) (v : Port) : (w.setPort i v).s.tiles = w.s.tiles := rfl
@[simp] theorem Work.setPort_phys (w : Work) (i : Nat) (v : Port) : (w.setPort i v).s.phys = w.s.phys := rfl
@[simp] theorem Work.setPort_arrivals (w : Work) (i : Nat) (v : Port) : (w.setPort i v).s.arrivals = w.s.arrivals := rfl
@[simp] theorem Work.setPort_lanes (w : Work) (i : Nat) (v : Port) : (w.setPort i v).s.lanes = w.s.lanes := rfl
@[simp] theorem Work.setPort_lanesNow (w : Work) (i : Nat) (v : Port) : (w.setPort i v).s.lanesNow = w.s.lanesNow := rfl
@[simp] theorem Work.setPort_windows (w : Work) (i : Nat) (v : Port) : (w.setPort i v).s.windows = w.s.windows := rfl
@[simp] theorem Work.setPort_tests (w : Work) (i : Nat) (v : Port) : (w.setPort i v).s.tests = w.s.tests := rfl
@[simp] theorem Work.setPort_retiring (w : Work) (i : Nat) (v : Port) : (w.setPort i v).s.retiring = w.s.retiring := rfl
@[simp] theorem Work.setPort_requests (w : Work) (i : Nat) (v : Port) : (w.setPort i v).s.requests = w.s.requests := rfl
@[simp] theorem Work.setPort_nextTag (w : Work) (i : Nat) (v : Port) : (w.setPort i v).s.nextTag = w.s.nextTag := rfl
@[simp] theorem Work.setPort_routeDrops (w : Work) (i : Nat) (v : Port) : (w.setPort i v).s.routeDrops = w.s.routeDrops := rfl
@[simp] theorem Work.setPort_resident (w : Work) (i : Nat) (v : Port) : (w.setPort i v).s.resident = w.s.resident := rfl
@[simp] theorem Work.setPort_partials (w : Work) (i : Nat) (v : Port) : (w.setPort i v).s.partials = w.s.partials := rfl
@[simp] theorem Work.setPort_journal (w : Work) (i : Nat) (v : Port) : (w.setPort i v).s.journal = w.s.journal := rfl
@[simp] theorem Work.setPort_flips (w : Work) (i : Nat) (v : Port) : (w.setPort i v).s.flips = w.s.flips := rfl
@[simp] theorem Work.setPort_retierList (w : Work) (i : Nat) (v : Port) : (w.setPort i v).s.retierList = w.s.retierList := rfl
@[simp] theorem Work.setPort_retierDone (w : Work) (i : Nat) (v : Port) : (w.setPort i v).s.retierDone = w.s.retierDone := rfl
@[simp] theorem Work.setPort_retierDue (w : Work) (i : Nat) (v : Port) : (w.setPort i v).s.retierDue = w.s.retierDue := rfl
@[simp] theorem Work.setPort_traceDesc (w : Work) (i : Nat) (v : Port) : (w.setPort i v).s.traceDesc = w.s.traceDesc := rfl
@[simp] theorem Work.setPort_traceNext (w : Work) (i : Nat) (v : Port) : (w.setPort i v).s.traceNext = w.s.traceNext := rfl
@[simp] theorem Work.setPort_idleNs (w : Work) (i : Nat) (v : Port) : (w.setPort i v).s.idleNs = w.s.idleNs := rfl
@[simp] theorem Work.setPort_mw (w : Work) (i : Nat) (v : Port) : (w.setPort i v).mw = w.mw := rfl
@[simp] theorem Work.setPort_hw (w : Work) (i : Nat) (v : Port) : (w.setPort i v).hw = w.hw := rfl
@[simp] theorem Work.setPort_sw (w : Work) (i : Nat) (v : Port) : (w.setPort i v).sw = w.sw := rfl
@[simp] theorem Work.setPort_stop (w : Work) (i : Nat) (v : Port) : (w.setPort i v).stop = w.stop := rfl
@[simp] theorem Work.setPort_fn (w : Work) (i : Nat) (v : Port) (j : Nat) : (w.setPort i v).s.fn j = w.s.fn j := rfl
@[simp] theorem Work.setPort_ring (w : Work) (i : Nat) (v : Port) (j : Nat) : (w.setPort i v).s.ring j = w.s.ring j := rfl
@[simp] theorem Work.setPort_ctx (w : Work) (i : Nat) (v : Port) (j : Nat) : (w.setPort i v).s.ctx j = w.s.ctx j := rfl
@[simp] theorem Work.setPort_region (w : Work) (i : Nat) (v : Port) (j : Nat) : (w.setPort i v).s.region j = w.s.region j := rfl
@[simp] theorem Work.setPort_stack (w : Work) (i : Nat) (v : Port) (j : Nat) : (w.setPort i v).s.stack j = w.s.stack j := rfl
@[simp] theorem Work.setPort_job (w : Work) (i : Nat) (v : Port) (j : Nat) : (w.setPort i v).s.job j = w.s.job j := rfl
@[simp] theorem Work.setPort_tile (w : Work) (i : Nat) (v : Port) (j : Nat) : (w.setPort i v).s.tile j = w.s.tile j := rfl
@[simp] theorem Work.setPort_ph (w : Work) (i : Nat) (v : Port) (j : Nat) : (w.setPort i v).s.ph j = w.s.ph j := rfl
@[simp] theorem Work.setPort_prog (w : Work) (i : Nat) (v : Port) (j : Nat) : (w.setPort i v).s.prog j = w.s.prog j := rfl
@[simp] theorem Work.setPort_thread (w : Work) (i : Nat) (v : Port) (j : Nat) : (w.setPort i v).s.thread j = w.s.thread j := rfl
@[simp] theorem Work.setPort_core (w : Work) (i : Nat) (v : Port) (j : Nat) : (w.setPort i v).s.core j = w.s.core j := rfl
@[simp] theorem Work.setPort_now (w : Work) (i : Nat) (v : Port) : (w.setPort i v).s.now = w.s.now := rfl
/-- A read after the update. -/
theorem Work.setPort_get (w : Work) (i : Nat) (v : Port) (j : Nat) : (w.setPort i v).s.port j = if j = i then v else w.s.port j := by
  simp only [Work.setPort, State.port, Table.get_put]
@[simp] theorem Work.setPort_same (w : Work) (i : Nat) (v : Port) : (w.setPort i v).s.port i = v := by rw [Work.setPort_get, if_pos rfl]
theorem Work.setPort_other (w : Work) (i : Nat) (v : Port) {j : Nat} (h : j ≠ i) : (w.setPort i v).s.port j = w.s.port j := by rw [Work.setPort_get, if_neg h]

@[simp] theorem Work.setJob_pending (w : Work) (i : Nat) (v : JobTurn) : (w.setJob i v).s.pending = w.s.pending := rfl
@[simp] theorem Work.setJob_sent (w : Work) (i : Nat) (v : JobTurn) : (w.setJob i v).s.sent = w.s.sent := rfl
@[simp] theorem Work.setJob_free (w : Work) (i : Nat) (v : JobTurn) : (w.setJob i v).s.free = w.s.free := rfl
@[simp] theorem Work.setJob_mem (w : Work) (i : Nat) (v : JobTurn) : (w.setJob i v).s.mem = w.s.mem := rfl
@[simp] theorem Work.setJob_poison (w : Work) (i : Nat) (v : JobTurn) : (w.setJob i v).s.poison = w.s.poison := rfl
@[simp] theorem Work.setJob_host (w : Work) (i : Nat) (v : JobTurn) : (w.setJob i v).s.host = w.s.host := rfl
@[simp] theorem Work.setJob_pins (w : Work) (i : Nat) (v : JobTurn) : (w.setJob i v).s.pins = w.s.pins := rfl
@[simp] theorem Work.setJob_boot (w : Work) (i : Nat) (v : JobTurn) : (w.setJob i v).s.boot = w.s.boot := rfl
@[simp] theorem Work.setJob_power (w : Work) (i : Nat) (v : JobTurn) : (w.setJob i v).s.power = w.s.power := rfl
@[simp] theorem Work.setJob_time (w : Work) (i : Nat) (v : JobTurn) : (w.setJob i v).s.time = w.s.time := rfl
@[simp] theorem Work.setJob_pad (w : Work) (i : Nat) (v : JobTurn) : (w.setJob i v).s.pad = w.s.pad := rfl
@[simp] theorem Work.setJob_flash (w : Work) (i : Nat) (v : JobTurn) : (w.setJob i v).s.flash = w.s.flash := rfl
@[simp] theorem Work.setJob_mgt (w : Work) (i : Nat) (v : JobTurn) : (w.setJob i v).s.mgt = w.s.mgt := rfl
@[simp] theorem Work.setJob_sched (w : Work) (i : Nat) (v : JobTurn) : (w.setJob i v).s.sched = w.s.sched := rfl
@[simp] theorem Work.setJob_progs (w : Work) (i : Nat) (v : JobTurn) : (w.setJob i v).s.progs = w.s.progs := rfl
@[simp] theorem Work.setJob_space (w : Work) (i : Nat) (v : JobTurn) : (w.setJob i v).s.space = w.s.space := rfl
@[simp] theorem Work.setJob_fns (w : Work) (i : Nat) (v : JobTurn) : (w.setJob i v).s.fns = w.s.fns := rfl
@[simp] theorem Work.setJob_rings (w : Work) (i : Nat) (v : JobTurn) : (w.setJob i v).s.rings = w.s.rings := rfl
@[simp] theorem Work.setJob_actives (w : Work) (i : Nat) (v : JobTurn) : (w.setJob i v).s.actives = w.s.actives := rfl
@[simp] theorem Work.setJob_latch (w : Work) (i : Nat) (v : JobTurn) : (w.setJob i v).s.latch = w.s.latch := rfl
@[simp] theorem Work.setJob_vfEnable (w : Work) (i : Nat) (v : JobTurn) : (w.setJob i v).s.vfEnable = w.s.vfEnable := rfl
@[simp] theorem Work.setJob_pcieRx (w : Work) (i : Nat) (v : JobTurn) : (w.setJob i v).s.pcieRx = w.s.pcieRx := rfl
@[simp] theorem Work.setJob_pcieTx (w : Work) (i : Nat) (v : JobTurn) : (w.setJob i v).s.pcieTx = w.s.pcieTx := rfl
@[simp] theorem Work.setJob_ctxs (w : Work) (i : Nat) (v : JobTurn) : (w.setJob i v).s.ctxs = w.s.ctxs := rfl
@[simp] theorem Work.setJob_regions (w : Work) (i : Nat) (v : JobTurn) : (w.setJob i v).s.regions = w.s.regions := rfl
@[simp] theorem Work.setJob_hbm (w : Work) (i : Nat) (v : JobTurn) : (w.setJob i v).s.hbm = w.s.hbm := rfl
@[simp] theorem Work.setJob_pkgBytes (w : Work) (i : Nat) (v : JobTurn) : (w.setJob i v).s.pkgBytes = w.s.pkgBytes := rfl
@[simp] theorem Work.setJob_ports (w : Work) (i : Nat) (v : JobTurn) : (w.setJob i v).s.ports = w.s.ports := rfl
@[simp] theorem Work.setJob_form (w : Work) (i : Nat) (v : JobTurn) : (w.setJob i v).s.form = w.s.form := rfl
@[simp] theorem Work.setJob_bank (w : Work) (i : Nat) (v : JobTurn) : (w.setJob i v).s.bank = w.s.bank := rfl
@[simp] theorem Work.setJob_tiles (w : Work) (i : Nat) (v : JobTurn) : (w.setJob i v).s.tiles = w.s.tiles := rfl
@[simp] theorem Work.setJob_phys (w : Work) (i : Nat) (v : JobTurn) : (w.setJob i v).s.phys = w.s.phys := rfl
@[simp] theorem Work.setJob_arrivals (w : Work) (i : Nat) (v : JobTurn) : (w.setJob i v).s.arrivals = w.s.arrivals := rfl
@[simp] theorem Work.setJob_lanes (w : Work) (i : Nat) (v : JobTurn) : (w.setJob i v).s.lanes = w.s.lanes := rfl
@[simp] theorem Work.setJob_lanesNow (w : Work) (i : Nat) (v : JobTurn) : (w.setJob i v).s.lanesNow = w.s.lanesNow := rfl
@[simp] theorem Work.setJob_windows (w : Work) (i : Nat) (v : JobTurn) : (w.setJob i v).s.windows = w.s.windows := rfl
@[simp] theorem Work.setJob_tests (w : Work) (i : Nat) (v : JobTurn) : (w.setJob i v).s.tests = w.s.tests := rfl
@[simp] theorem Work.setJob_retiring (w : Work) (i : Nat) (v : JobTurn) : (w.setJob i v).s.retiring = w.s.retiring := rfl
@[simp] theorem Work.setJob_requests (w : Work) (i : Nat) (v : JobTurn) : (w.setJob i v).s.requests = w.s.requests := rfl
@[simp] theorem Work.setJob_nextTag (w : Work) (i : Nat) (v : JobTurn) : (w.setJob i v).s.nextTag = w.s.nextTag := rfl
@[simp] theorem Work.setJob_routeDrops (w : Work) (i : Nat) (v : JobTurn) : (w.setJob i v).s.routeDrops = w.s.routeDrops := rfl
@[simp] theorem Work.setJob_resident (w : Work) (i : Nat) (v : JobTurn) : (w.setJob i v).s.resident = w.s.resident := rfl
@[simp] theorem Work.setJob_partials (w : Work) (i : Nat) (v : JobTurn) : (w.setJob i v).s.partials = w.s.partials := rfl
@[simp] theorem Work.setJob_journal (w : Work) (i : Nat) (v : JobTurn) : (w.setJob i v).s.journal = w.s.journal := rfl
@[simp] theorem Work.setJob_flips (w : Work) (i : Nat) (v : JobTurn) : (w.setJob i v).s.flips = w.s.flips := rfl
@[simp] theorem Work.setJob_retierList (w : Work) (i : Nat) (v : JobTurn) : (w.setJob i v).s.retierList = w.s.retierList := rfl
@[simp] theorem Work.setJob_retierDone (w : Work) (i : Nat) (v : JobTurn) : (w.setJob i v).s.retierDone = w.s.retierDone := rfl
@[simp] theorem Work.setJob_retierDue (w : Work) (i : Nat) (v : JobTurn) : (w.setJob i v).s.retierDue = w.s.retierDue := rfl
@[simp] theorem Work.setJob_traceDesc (w : Work) (i : Nat) (v : JobTurn) : (w.setJob i v).s.traceDesc = w.s.traceDesc := rfl
@[simp] theorem Work.setJob_traceNext (w : Work) (i : Nat) (v : JobTurn) : (w.setJob i v).s.traceNext = w.s.traceNext := rfl
@[simp] theorem Work.setJob_idleNs (w : Work) (i : Nat) (v : JobTurn) : (w.setJob i v).s.idleNs = w.s.idleNs := rfl
@[simp] theorem Work.setJob_mw (w : Work) (i : Nat) (v : JobTurn) : (w.setJob i v).mw = w.mw := rfl
@[simp] theorem Work.setJob_hw (w : Work) (i : Nat) (v : JobTurn) : (w.setJob i v).hw = w.hw := rfl
@[simp] theorem Work.setJob_sw (w : Work) (i : Nat) (v : JobTurn) : (w.setJob i v).sw = w.sw := rfl
@[simp] theorem Work.setJob_stop (w : Work) (i : Nat) (v : JobTurn) : (w.setJob i v).stop = w.stop := rfl
@[simp] theorem Work.setJob_fn (w : Work) (i : Nat) (v : JobTurn) (j : Nat) : (w.setJob i v).s.fn j = w.s.fn j := rfl
@[simp] theorem Work.setJob_ring (w : Work) (i : Nat) (v : JobTurn) (j : Nat) : (w.setJob i v).s.ring j = w.s.ring j := rfl
@[simp] theorem Work.setJob_ctx (w : Work) (i : Nat) (v : JobTurn) (j : Nat) : (w.setJob i v).s.ctx j = w.s.ctx j := rfl
@[simp] theorem Work.setJob_region (w : Work) (i : Nat) (v : JobTurn) (j : Nat) : (w.setJob i v).s.region j = w.s.region j := rfl
@[simp] theorem Work.setJob_stack (w : Work) (i : Nat) (v : JobTurn) (j : Nat) : (w.setJob i v).s.stack j = w.s.stack j := rfl
@[simp] theorem Work.setJob_port (w : Work) (i : Nat) (v : JobTurn) (j : Nat) : (w.setJob i v).s.port j = w.s.port j := rfl
@[simp] theorem Work.setJob_tile (w : Work) (i : Nat) (v : JobTurn) (j : Nat) : (w.setJob i v).s.tile j = w.s.tile j := rfl
@[simp] theorem Work.setJob_ph (w : Work) (i : Nat) (v : JobTurn) (j : Nat) : (w.setJob i v).s.ph j = w.s.ph j := rfl
@[simp] theorem Work.setJob_prog (w : Work) (i : Nat) (v : JobTurn) (j : Nat) : (w.setJob i v).s.prog j = w.s.prog j := rfl
@[simp] theorem Work.setJob_thread (w : Work) (i : Nat) (v : JobTurn) (j : Nat) : (w.setJob i v).s.thread j = w.s.thread j := rfl
@[simp] theorem Work.setJob_core (w : Work) (i : Nat) (v : JobTurn) (j : Nat) : (w.setJob i v).s.core j = w.s.core j := rfl
@[simp] theorem Work.setJob_now (w : Work) (i : Nat) (v : JobTurn) : (w.setJob i v).s.now = w.s.now := rfl
/-- A read after the update. -/
theorem Work.setJob_get (w : Work) (i : Nat) (v : JobTurn) (j : Nat) : (w.setJob i v).s.job j = if j = i then v else w.s.job j := by
  simp only [Work.setJob, State.job, Table.get_put]
@[simp] theorem Work.setJob_same (w : Work) (i : Nat) (v : JobTurn) : (w.setJob i v).s.job i = v := by rw [Work.setJob_get, if_pos rfl]
theorem Work.setJob_other (w : Work) (i : Nat) (v : JobTurn) {j : Nat} (h : j ≠ i) : (w.setJob i v).s.job j = w.s.job j := by rw [Work.setJob_get, if_neg h]

@[simp] theorem Work.setTile_pending (w : Work) (i : Nat) (v : Tile) : (w.setTile i v).s.pending = w.s.pending := rfl
@[simp] theorem Work.setTile_sent (w : Work) (i : Nat) (v : Tile) : (w.setTile i v).s.sent = w.s.sent := rfl
@[simp] theorem Work.setTile_free (w : Work) (i : Nat) (v : Tile) : (w.setTile i v).s.free = w.s.free := rfl
@[simp] theorem Work.setTile_mem (w : Work) (i : Nat) (v : Tile) : (w.setTile i v).s.mem = w.s.mem := rfl
@[simp] theorem Work.setTile_poison (w : Work) (i : Nat) (v : Tile) : (w.setTile i v).s.poison = w.s.poison := rfl
@[simp] theorem Work.setTile_host (w : Work) (i : Nat) (v : Tile) : (w.setTile i v).s.host = w.s.host := rfl
@[simp] theorem Work.setTile_pins (w : Work) (i : Nat) (v : Tile) : (w.setTile i v).s.pins = w.s.pins := rfl
@[simp] theorem Work.setTile_boot (w : Work) (i : Nat) (v : Tile) : (w.setTile i v).s.boot = w.s.boot := rfl
@[simp] theorem Work.setTile_power (w : Work) (i : Nat) (v : Tile) : (w.setTile i v).s.power = w.s.power := rfl
@[simp] theorem Work.setTile_time (w : Work) (i : Nat) (v : Tile) : (w.setTile i v).s.time = w.s.time := rfl
@[simp] theorem Work.setTile_pad (w : Work) (i : Nat) (v : Tile) : (w.setTile i v).s.pad = w.s.pad := rfl
@[simp] theorem Work.setTile_flash (w : Work) (i : Nat) (v : Tile) : (w.setTile i v).s.flash = w.s.flash := rfl
@[simp] theorem Work.setTile_mgt (w : Work) (i : Nat) (v : Tile) : (w.setTile i v).s.mgt = w.s.mgt := rfl
@[simp] theorem Work.setTile_sched (w : Work) (i : Nat) (v : Tile) : (w.setTile i v).s.sched = w.s.sched := rfl
@[simp] theorem Work.setTile_progs (w : Work) (i : Nat) (v : Tile) : (w.setTile i v).s.progs = w.s.progs := rfl
@[simp] theorem Work.setTile_space (w : Work) (i : Nat) (v : Tile) : (w.setTile i v).s.space = w.s.space := rfl
@[simp] theorem Work.setTile_fns (w : Work) (i : Nat) (v : Tile) : (w.setTile i v).s.fns = w.s.fns := rfl
@[simp] theorem Work.setTile_rings (w : Work) (i : Nat) (v : Tile) : (w.setTile i v).s.rings = w.s.rings := rfl
@[simp] theorem Work.setTile_actives (w : Work) (i : Nat) (v : Tile) : (w.setTile i v).s.actives = w.s.actives := rfl
@[simp] theorem Work.setTile_latch (w : Work) (i : Nat) (v : Tile) : (w.setTile i v).s.latch = w.s.latch := rfl
@[simp] theorem Work.setTile_vfEnable (w : Work) (i : Nat) (v : Tile) : (w.setTile i v).s.vfEnable = w.s.vfEnable := rfl
@[simp] theorem Work.setTile_pcieRx (w : Work) (i : Nat) (v : Tile) : (w.setTile i v).s.pcieRx = w.s.pcieRx := rfl
@[simp] theorem Work.setTile_pcieTx (w : Work) (i : Nat) (v : Tile) : (w.setTile i v).s.pcieTx = w.s.pcieTx := rfl
@[simp] theorem Work.setTile_ctxs (w : Work) (i : Nat) (v : Tile) : (w.setTile i v).s.ctxs = w.s.ctxs := rfl
@[simp] theorem Work.setTile_regions (w : Work) (i : Nat) (v : Tile) : (w.setTile i v).s.regions = w.s.regions := rfl
@[simp] theorem Work.setTile_hbm (w : Work) (i : Nat) (v : Tile) : (w.setTile i v).s.hbm = w.s.hbm := rfl
@[simp] theorem Work.setTile_pkgBytes (w : Work) (i : Nat) (v : Tile) : (w.setTile i v).s.pkgBytes = w.s.pkgBytes := rfl
@[simp] theorem Work.setTile_ports (w : Work) (i : Nat) (v : Tile) : (w.setTile i v).s.ports = w.s.ports := rfl
@[simp] theorem Work.setTile_form (w : Work) (i : Nat) (v : Tile) : (w.setTile i v).s.form = w.s.form := rfl
@[simp] theorem Work.setTile_bank (w : Work) (i : Nat) (v : Tile) : (w.setTile i v).s.bank = w.s.bank := rfl
@[simp] theorem Work.setTile_jobs (w : Work) (i : Nat) (v : Tile) : (w.setTile i v).s.jobs = w.s.jobs := rfl
@[simp] theorem Work.setTile_phys (w : Work) (i : Nat) (v : Tile) : (w.setTile i v).s.phys = w.s.phys := rfl
@[simp] theorem Work.setTile_arrivals (w : Work) (i : Nat) (v : Tile) : (w.setTile i v).s.arrivals = w.s.arrivals := rfl
@[simp] theorem Work.setTile_lanes (w : Work) (i : Nat) (v : Tile) : (w.setTile i v).s.lanes = w.s.lanes := rfl
@[simp] theorem Work.setTile_lanesNow (w : Work) (i : Nat) (v : Tile) : (w.setTile i v).s.lanesNow = w.s.lanesNow := rfl
@[simp] theorem Work.setTile_windows (w : Work) (i : Nat) (v : Tile) : (w.setTile i v).s.windows = w.s.windows := rfl
@[simp] theorem Work.setTile_tests (w : Work) (i : Nat) (v : Tile) : (w.setTile i v).s.tests = w.s.tests := rfl
@[simp] theorem Work.setTile_retiring (w : Work) (i : Nat) (v : Tile) : (w.setTile i v).s.retiring = w.s.retiring := rfl
@[simp] theorem Work.setTile_requests (w : Work) (i : Nat) (v : Tile) : (w.setTile i v).s.requests = w.s.requests := rfl
@[simp] theorem Work.setTile_nextTag (w : Work) (i : Nat) (v : Tile) : (w.setTile i v).s.nextTag = w.s.nextTag := rfl
@[simp] theorem Work.setTile_routeDrops (w : Work) (i : Nat) (v : Tile) : (w.setTile i v).s.routeDrops = w.s.routeDrops := rfl
@[simp] theorem Work.setTile_resident (w : Work) (i : Nat) (v : Tile) : (w.setTile i v).s.resident = w.s.resident := rfl
@[simp] theorem Work.setTile_partials (w : Work) (i : Nat) (v : Tile) : (w.setTile i v).s.partials = w.s.partials := rfl
@[simp] theorem Work.setTile_journal (w : Work) (i : Nat) (v : Tile) : (w.setTile i v).s.journal = w.s.journal := rfl
@[simp] theorem Work.setTile_flips (w : Work) (i : Nat) (v : Tile) : (w.setTile i v).s.flips = w.s.flips := rfl
@[simp] theorem Work.setTile_retierList (w : Work) (i : Nat) (v : Tile) : (w.setTile i v).s.retierList = w.s.retierList := rfl
@[simp] theorem Work.setTile_retierDone (w : Work) (i : Nat) (v : Tile) : (w.setTile i v).s.retierDone = w.s.retierDone := rfl
@[simp] theorem Work.setTile_retierDue (w : Work) (i : Nat) (v : Tile) : (w.setTile i v).s.retierDue = w.s.retierDue := rfl
@[simp] theorem Work.setTile_traceDesc (w : Work) (i : Nat) (v : Tile) : (w.setTile i v).s.traceDesc = w.s.traceDesc := rfl
@[simp] theorem Work.setTile_traceNext (w : Work) (i : Nat) (v : Tile) : (w.setTile i v).s.traceNext = w.s.traceNext := rfl
@[simp] theorem Work.setTile_idleNs (w : Work) (i : Nat) (v : Tile) : (w.setTile i v).s.idleNs = w.s.idleNs := rfl
@[simp] theorem Work.setTile_mw (w : Work) (i : Nat) (v : Tile) : (w.setTile i v).mw = w.mw := rfl
@[simp] theorem Work.setTile_hw (w : Work) (i : Nat) (v : Tile) : (w.setTile i v).hw = w.hw := rfl
@[simp] theorem Work.setTile_sw (w : Work) (i : Nat) (v : Tile) : (w.setTile i v).sw = w.sw := rfl
@[simp] theorem Work.setTile_stop (w : Work) (i : Nat) (v : Tile) : (w.setTile i v).stop = w.stop := rfl
@[simp] theorem Work.setTile_fn (w : Work) (i : Nat) (v : Tile) (j : Nat) : (w.setTile i v).s.fn j = w.s.fn j := rfl
@[simp] theorem Work.setTile_ring (w : Work) (i : Nat) (v : Tile) (j : Nat) : (w.setTile i v).s.ring j = w.s.ring j := rfl
@[simp] theorem Work.setTile_ctx (w : Work) (i : Nat) (v : Tile) (j : Nat) : (w.setTile i v).s.ctx j = w.s.ctx j := rfl
@[simp] theorem Work.setTile_region (w : Work) (i : Nat) (v : Tile) (j : Nat) : (w.setTile i v).s.region j = w.s.region j := rfl
@[simp] theorem Work.setTile_stack (w : Work) (i : Nat) (v : Tile) (j : Nat) : (w.setTile i v).s.stack j = w.s.stack j := rfl
@[simp] theorem Work.setTile_port (w : Work) (i : Nat) (v : Tile) (j : Nat) : (w.setTile i v).s.port j = w.s.port j := rfl
@[simp] theorem Work.setTile_job (w : Work) (i : Nat) (v : Tile) (j : Nat) : (w.setTile i v).s.job j = w.s.job j := rfl
@[simp] theorem Work.setTile_ph (w : Work) (i : Nat) (v : Tile) (j : Nat) : (w.setTile i v).s.ph j = w.s.ph j := rfl
@[simp] theorem Work.setTile_prog (w : Work) (i : Nat) (v : Tile) (j : Nat) : (w.setTile i v).s.prog j = w.s.prog j := rfl
@[simp] theorem Work.setTile_thread (w : Work) (i : Nat) (v : Tile) (j : Nat) : (w.setTile i v).s.thread j = w.s.thread j := rfl
@[simp] theorem Work.setTile_core (w : Work) (i : Nat) (v : Tile) (j : Nat) : (w.setTile i v).s.core j = w.s.core j := rfl
@[simp] theorem Work.setTile_now (w : Work) (i : Nat) (v : Tile) : (w.setTile i v).s.now = w.s.now := rfl
/-- A read after the update. -/
theorem Work.setTile_get (w : Work) (i : Nat) (v : Tile) (j : Nat) : (w.setTile i v).s.tile j = if j = i then v else w.s.tile j := by
  simp only [Work.setTile, State.tile, Table.get_put]
@[simp] theorem Work.setTile_same (w : Work) (i : Nat) (v : Tile) : (w.setTile i v).s.tile i = v := by rw [Work.setTile_get, if_pos rfl]
theorem Work.setTile_other (w : Work) (i : Nat) (v : Tile) {j : Nat} (h : j ≠ i) : (w.setTile i v).s.tile j = w.s.tile j := by rw [Work.setTile_get, if_neg h]

@[simp] theorem Work.setPh_pending (w : Work) (i : Nat) (v : Phys) : (w.setPh i v).s.pending = w.s.pending := rfl
@[simp] theorem Work.setPh_sent (w : Work) (i : Nat) (v : Phys) : (w.setPh i v).s.sent = w.s.sent := rfl
@[simp] theorem Work.setPh_free (w : Work) (i : Nat) (v : Phys) : (w.setPh i v).s.free = w.s.free := rfl
@[simp] theorem Work.setPh_mem (w : Work) (i : Nat) (v : Phys) : (w.setPh i v).s.mem = w.s.mem := rfl
@[simp] theorem Work.setPh_poison (w : Work) (i : Nat) (v : Phys) : (w.setPh i v).s.poison = w.s.poison := rfl
@[simp] theorem Work.setPh_host (w : Work) (i : Nat) (v : Phys) : (w.setPh i v).s.host = w.s.host := rfl
@[simp] theorem Work.setPh_pins (w : Work) (i : Nat) (v : Phys) : (w.setPh i v).s.pins = w.s.pins := rfl
@[simp] theorem Work.setPh_boot (w : Work) (i : Nat) (v : Phys) : (w.setPh i v).s.boot = w.s.boot := rfl
@[simp] theorem Work.setPh_power (w : Work) (i : Nat) (v : Phys) : (w.setPh i v).s.power = w.s.power := rfl
@[simp] theorem Work.setPh_time (w : Work) (i : Nat) (v : Phys) : (w.setPh i v).s.time = w.s.time := rfl
@[simp] theorem Work.setPh_pad (w : Work) (i : Nat) (v : Phys) : (w.setPh i v).s.pad = w.s.pad := rfl
@[simp] theorem Work.setPh_flash (w : Work) (i : Nat) (v : Phys) : (w.setPh i v).s.flash = w.s.flash := rfl
@[simp] theorem Work.setPh_mgt (w : Work) (i : Nat) (v : Phys) : (w.setPh i v).s.mgt = w.s.mgt := rfl
@[simp] theorem Work.setPh_sched (w : Work) (i : Nat) (v : Phys) : (w.setPh i v).s.sched = w.s.sched := rfl
@[simp] theorem Work.setPh_progs (w : Work) (i : Nat) (v : Phys) : (w.setPh i v).s.progs = w.s.progs := rfl
@[simp] theorem Work.setPh_space (w : Work) (i : Nat) (v : Phys) : (w.setPh i v).s.space = w.s.space := rfl
@[simp] theorem Work.setPh_fns (w : Work) (i : Nat) (v : Phys) : (w.setPh i v).s.fns = w.s.fns := rfl
@[simp] theorem Work.setPh_rings (w : Work) (i : Nat) (v : Phys) : (w.setPh i v).s.rings = w.s.rings := rfl
@[simp] theorem Work.setPh_actives (w : Work) (i : Nat) (v : Phys) : (w.setPh i v).s.actives = w.s.actives := rfl
@[simp] theorem Work.setPh_latch (w : Work) (i : Nat) (v : Phys) : (w.setPh i v).s.latch = w.s.latch := rfl
@[simp] theorem Work.setPh_vfEnable (w : Work) (i : Nat) (v : Phys) : (w.setPh i v).s.vfEnable = w.s.vfEnable := rfl
@[simp] theorem Work.setPh_pcieRx (w : Work) (i : Nat) (v : Phys) : (w.setPh i v).s.pcieRx = w.s.pcieRx := rfl
@[simp] theorem Work.setPh_pcieTx (w : Work) (i : Nat) (v : Phys) : (w.setPh i v).s.pcieTx = w.s.pcieTx := rfl
@[simp] theorem Work.setPh_ctxs (w : Work) (i : Nat) (v : Phys) : (w.setPh i v).s.ctxs = w.s.ctxs := rfl
@[simp] theorem Work.setPh_regions (w : Work) (i : Nat) (v : Phys) : (w.setPh i v).s.regions = w.s.regions := rfl
@[simp] theorem Work.setPh_hbm (w : Work) (i : Nat) (v : Phys) : (w.setPh i v).s.hbm = w.s.hbm := rfl
@[simp] theorem Work.setPh_pkgBytes (w : Work) (i : Nat) (v : Phys) : (w.setPh i v).s.pkgBytes = w.s.pkgBytes := rfl
@[simp] theorem Work.setPh_ports (w : Work) (i : Nat) (v : Phys) : (w.setPh i v).s.ports = w.s.ports := rfl
@[simp] theorem Work.setPh_form (w : Work) (i : Nat) (v : Phys) : (w.setPh i v).s.form = w.s.form := rfl
@[simp] theorem Work.setPh_bank (w : Work) (i : Nat) (v : Phys) : (w.setPh i v).s.bank = w.s.bank := rfl
@[simp] theorem Work.setPh_jobs (w : Work) (i : Nat) (v : Phys) : (w.setPh i v).s.jobs = w.s.jobs := rfl
@[simp] theorem Work.setPh_tiles (w : Work) (i : Nat) (v : Phys) : (w.setPh i v).s.tiles = w.s.tiles := rfl
@[simp] theorem Work.setPh_arrivals (w : Work) (i : Nat) (v : Phys) : (w.setPh i v).s.arrivals = w.s.arrivals := rfl
@[simp] theorem Work.setPh_lanes (w : Work) (i : Nat) (v : Phys) : (w.setPh i v).s.lanes = w.s.lanes := rfl
@[simp] theorem Work.setPh_lanesNow (w : Work) (i : Nat) (v : Phys) : (w.setPh i v).s.lanesNow = w.s.lanesNow := rfl
@[simp] theorem Work.setPh_windows (w : Work) (i : Nat) (v : Phys) : (w.setPh i v).s.windows = w.s.windows := rfl
@[simp] theorem Work.setPh_tests (w : Work) (i : Nat) (v : Phys) : (w.setPh i v).s.tests = w.s.tests := rfl
@[simp] theorem Work.setPh_retiring (w : Work) (i : Nat) (v : Phys) : (w.setPh i v).s.retiring = w.s.retiring := rfl
@[simp] theorem Work.setPh_requests (w : Work) (i : Nat) (v : Phys) : (w.setPh i v).s.requests = w.s.requests := rfl
@[simp] theorem Work.setPh_nextTag (w : Work) (i : Nat) (v : Phys) : (w.setPh i v).s.nextTag = w.s.nextTag := rfl
@[simp] theorem Work.setPh_routeDrops (w : Work) (i : Nat) (v : Phys) : (w.setPh i v).s.routeDrops = w.s.routeDrops := rfl
@[simp] theorem Work.setPh_resident (w : Work) (i : Nat) (v : Phys) : (w.setPh i v).s.resident = w.s.resident := rfl
@[simp] theorem Work.setPh_partials (w : Work) (i : Nat) (v : Phys) : (w.setPh i v).s.partials = w.s.partials := rfl
@[simp] theorem Work.setPh_journal (w : Work) (i : Nat) (v : Phys) : (w.setPh i v).s.journal = w.s.journal := rfl
@[simp] theorem Work.setPh_flips (w : Work) (i : Nat) (v : Phys) : (w.setPh i v).s.flips = w.s.flips := rfl
@[simp] theorem Work.setPh_retierList (w : Work) (i : Nat) (v : Phys) : (w.setPh i v).s.retierList = w.s.retierList := rfl
@[simp] theorem Work.setPh_retierDone (w : Work) (i : Nat) (v : Phys) : (w.setPh i v).s.retierDone = w.s.retierDone := rfl
@[simp] theorem Work.setPh_retierDue (w : Work) (i : Nat) (v : Phys) : (w.setPh i v).s.retierDue = w.s.retierDue := rfl
@[simp] theorem Work.setPh_traceDesc (w : Work) (i : Nat) (v : Phys) : (w.setPh i v).s.traceDesc = w.s.traceDesc := rfl
@[simp] theorem Work.setPh_traceNext (w : Work) (i : Nat) (v : Phys) : (w.setPh i v).s.traceNext = w.s.traceNext := rfl
@[simp] theorem Work.setPh_idleNs (w : Work) (i : Nat) (v : Phys) : (w.setPh i v).s.idleNs = w.s.idleNs := rfl
@[simp] theorem Work.setPh_mw (w : Work) (i : Nat) (v : Phys) : (w.setPh i v).mw = w.mw := rfl
@[simp] theorem Work.setPh_hw (w : Work) (i : Nat) (v : Phys) : (w.setPh i v).hw = w.hw := rfl
@[simp] theorem Work.setPh_sw (w : Work) (i : Nat) (v : Phys) : (w.setPh i v).sw = w.sw := rfl
@[simp] theorem Work.setPh_stop (w : Work) (i : Nat) (v : Phys) : (w.setPh i v).stop = w.stop := rfl
@[simp] theorem Work.setPh_fn (w : Work) (i : Nat) (v : Phys) (j : Nat) : (w.setPh i v).s.fn j = w.s.fn j := rfl
@[simp] theorem Work.setPh_ring (w : Work) (i : Nat) (v : Phys) (j : Nat) : (w.setPh i v).s.ring j = w.s.ring j := rfl
@[simp] theorem Work.setPh_ctx (w : Work) (i : Nat) (v : Phys) (j : Nat) : (w.setPh i v).s.ctx j = w.s.ctx j := rfl
@[simp] theorem Work.setPh_region (w : Work) (i : Nat) (v : Phys) (j : Nat) : (w.setPh i v).s.region j = w.s.region j := rfl
@[simp] theorem Work.setPh_stack (w : Work) (i : Nat) (v : Phys) (j : Nat) : (w.setPh i v).s.stack j = w.s.stack j := rfl
@[simp] theorem Work.setPh_port (w : Work) (i : Nat) (v : Phys) (j : Nat) : (w.setPh i v).s.port j = w.s.port j := rfl
@[simp] theorem Work.setPh_job (w : Work) (i : Nat) (v : Phys) (j : Nat) : (w.setPh i v).s.job j = w.s.job j := rfl
@[simp] theorem Work.setPh_tile (w : Work) (i : Nat) (v : Phys) (j : Nat) : (w.setPh i v).s.tile j = w.s.tile j := rfl
@[simp] theorem Work.setPh_prog (w : Work) (i : Nat) (v : Phys) (j : Nat) : (w.setPh i v).s.prog j = w.s.prog j := rfl
@[simp] theorem Work.setPh_thread (w : Work) (i : Nat) (v : Phys) (j : Nat) : (w.setPh i v).s.thread j = w.s.thread j := rfl
@[simp] theorem Work.setPh_core (w : Work) (i : Nat) (v : Phys) (j : Nat) : (w.setPh i v).s.core j = w.s.core j := rfl
@[simp] theorem Work.setPh_now (w : Work) (i : Nat) (v : Phys) : (w.setPh i v).s.now = w.s.now := rfl
/-- A read after the update. -/
theorem Work.setPh_get (w : Work) (i : Nat) (v : Phys) (j : Nat) : (w.setPh i v).s.ph j = if j = i then v else w.s.ph j := by
  simp only [Work.setPh, State.ph, Table.get_put]
@[simp] theorem Work.setPh_same (w : Work) (i : Nat) (v : Phys) : (w.setPh i v).s.ph i = v := by rw [Work.setPh_get, if_pos rfl]
theorem Work.setPh_other (w : Work) (i : Nat) (v : Phys) {j : Nat} (h : j ≠ i) : (w.setPh i v).s.ph j = w.s.ph j := by rw [Work.setPh_get, if_neg h]

@[simp] theorem Work.setProg_pending (w : Work) (i : Nat) (v : Option Prog) : (w.setProg i v).s.pending = w.s.pending := rfl
@[simp] theorem Work.setProg_sent (w : Work) (i : Nat) (v : Option Prog) : (w.setProg i v).s.sent = w.s.sent := rfl
@[simp] theorem Work.setProg_free (w : Work) (i : Nat) (v : Option Prog) : (w.setProg i v).s.free = w.s.free := rfl
@[simp] theorem Work.setProg_mem (w : Work) (i : Nat) (v : Option Prog) : (w.setProg i v).s.mem = w.s.mem := rfl
@[simp] theorem Work.setProg_poison (w : Work) (i : Nat) (v : Option Prog) : (w.setProg i v).s.poison = w.s.poison := rfl
@[simp] theorem Work.setProg_host (w : Work) (i : Nat) (v : Option Prog) : (w.setProg i v).s.host = w.s.host := rfl
@[simp] theorem Work.setProg_pins (w : Work) (i : Nat) (v : Option Prog) : (w.setProg i v).s.pins = w.s.pins := rfl
@[simp] theorem Work.setProg_boot (w : Work) (i : Nat) (v : Option Prog) : (w.setProg i v).s.boot = w.s.boot := rfl
@[simp] theorem Work.setProg_power (w : Work) (i : Nat) (v : Option Prog) : (w.setProg i v).s.power = w.s.power := rfl
@[simp] theorem Work.setProg_time (w : Work) (i : Nat) (v : Option Prog) : (w.setProg i v).s.time = w.s.time := rfl
@[simp] theorem Work.setProg_pad (w : Work) (i : Nat) (v : Option Prog) : (w.setProg i v).s.pad = w.s.pad := rfl
@[simp] theorem Work.setProg_flash (w : Work) (i : Nat) (v : Option Prog) : (w.setProg i v).s.flash = w.s.flash := rfl
@[simp] theorem Work.setProg_mgt (w : Work) (i : Nat) (v : Option Prog) : (w.setProg i v).s.mgt = w.s.mgt := rfl
@[simp] theorem Work.setProg_sched (w : Work) (i : Nat) (v : Option Prog) : (w.setProg i v).s.sched = w.s.sched := rfl
@[simp] theorem Work.setProg_space (w : Work) (i : Nat) (v : Option Prog) : (w.setProg i v).s.space = w.s.space := rfl
@[simp] theorem Work.setProg_fns (w : Work) (i : Nat) (v : Option Prog) : (w.setProg i v).s.fns = w.s.fns := rfl
@[simp] theorem Work.setProg_rings (w : Work) (i : Nat) (v : Option Prog) : (w.setProg i v).s.rings = w.s.rings := rfl
@[simp] theorem Work.setProg_actives (w : Work) (i : Nat) (v : Option Prog) : (w.setProg i v).s.actives = w.s.actives := rfl
@[simp] theorem Work.setProg_latch (w : Work) (i : Nat) (v : Option Prog) : (w.setProg i v).s.latch = w.s.latch := rfl
@[simp] theorem Work.setProg_vfEnable (w : Work) (i : Nat) (v : Option Prog) : (w.setProg i v).s.vfEnable = w.s.vfEnable := rfl
@[simp] theorem Work.setProg_pcieRx (w : Work) (i : Nat) (v : Option Prog) : (w.setProg i v).s.pcieRx = w.s.pcieRx := rfl
@[simp] theorem Work.setProg_pcieTx (w : Work) (i : Nat) (v : Option Prog) : (w.setProg i v).s.pcieTx = w.s.pcieTx := rfl
@[simp] theorem Work.setProg_ctxs (w : Work) (i : Nat) (v : Option Prog) : (w.setProg i v).s.ctxs = w.s.ctxs := rfl
@[simp] theorem Work.setProg_regions (w : Work) (i : Nat) (v : Option Prog) : (w.setProg i v).s.regions = w.s.regions := rfl
@[simp] theorem Work.setProg_hbm (w : Work) (i : Nat) (v : Option Prog) : (w.setProg i v).s.hbm = w.s.hbm := rfl
@[simp] theorem Work.setProg_pkgBytes (w : Work) (i : Nat) (v : Option Prog) : (w.setProg i v).s.pkgBytes = w.s.pkgBytes := rfl
@[simp] theorem Work.setProg_ports (w : Work) (i : Nat) (v : Option Prog) : (w.setProg i v).s.ports = w.s.ports := rfl
@[simp] theorem Work.setProg_form (w : Work) (i : Nat) (v : Option Prog) : (w.setProg i v).s.form = w.s.form := rfl
@[simp] theorem Work.setProg_bank (w : Work) (i : Nat) (v : Option Prog) : (w.setProg i v).s.bank = w.s.bank := rfl
@[simp] theorem Work.setProg_jobs (w : Work) (i : Nat) (v : Option Prog) : (w.setProg i v).s.jobs = w.s.jobs := rfl
@[simp] theorem Work.setProg_tiles (w : Work) (i : Nat) (v : Option Prog) : (w.setProg i v).s.tiles = w.s.tiles := rfl
@[simp] theorem Work.setProg_phys (w : Work) (i : Nat) (v : Option Prog) : (w.setProg i v).s.phys = w.s.phys := rfl
@[simp] theorem Work.setProg_arrivals (w : Work) (i : Nat) (v : Option Prog) : (w.setProg i v).s.arrivals = w.s.arrivals := rfl
@[simp] theorem Work.setProg_lanes (w : Work) (i : Nat) (v : Option Prog) : (w.setProg i v).s.lanes = w.s.lanes := rfl
@[simp] theorem Work.setProg_lanesNow (w : Work) (i : Nat) (v : Option Prog) : (w.setProg i v).s.lanesNow = w.s.lanesNow := rfl
@[simp] theorem Work.setProg_windows (w : Work) (i : Nat) (v : Option Prog) : (w.setProg i v).s.windows = w.s.windows := rfl
@[simp] theorem Work.setProg_tests (w : Work) (i : Nat) (v : Option Prog) : (w.setProg i v).s.tests = w.s.tests := rfl
@[simp] theorem Work.setProg_retiring (w : Work) (i : Nat) (v : Option Prog) : (w.setProg i v).s.retiring = w.s.retiring := rfl
@[simp] theorem Work.setProg_requests (w : Work) (i : Nat) (v : Option Prog) : (w.setProg i v).s.requests = w.s.requests := rfl
@[simp] theorem Work.setProg_nextTag (w : Work) (i : Nat) (v : Option Prog) : (w.setProg i v).s.nextTag = w.s.nextTag := rfl
@[simp] theorem Work.setProg_routeDrops (w : Work) (i : Nat) (v : Option Prog) : (w.setProg i v).s.routeDrops = w.s.routeDrops := rfl
@[simp] theorem Work.setProg_resident (w : Work) (i : Nat) (v : Option Prog) : (w.setProg i v).s.resident = w.s.resident := rfl
@[simp] theorem Work.setProg_partials (w : Work) (i : Nat) (v : Option Prog) : (w.setProg i v).s.partials = w.s.partials := rfl
@[simp] theorem Work.setProg_journal (w : Work) (i : Nat) (v : Option Prog) : (w.setProg i v).s.journal = w.s.journal := rfl
@[simp] theorem Work.setProg_flips (w : Work) (i : Nat) (v : Option Prog) : (w.setProg i v).s.flips = w.s.flips := rfl
@[simp] theorem Work.setProg_retierList (w : Work) (i : Nat) (v : Option Prog) : (w.setProg i v).s.retierList = w.s.retierList := rfl
@[simp] theorem Work.setProg_retierDone (w : Work) (i : Nat) (v : Option Prog) : (w.setProg i v).s.retierDone = w.s.retierDone := rfl
@[simp] theorem Work.setProg_retierDue (w : Work) (i : Nat) (v : Option Prog) : (w.setProg i v).s.retierDue = w.s.retierDue := rfl
@[simp] theorem Work.setProg_traceDesc (w : Work) (i : Nat) (v : Option Prog) : (w.setProg i v).s.traceDesc = w.s.traceDesc := rfl
@[simp] theorem Work.setProg_traceNext (w : Work) (i : Nat) (v : Option Prog) : (w.setProg i v).s.traceNext = w.s.traceNext := rfl
@[simp] theorem Work.setProg_idleNs (w : Work) (i : Nat) (v : Option Prog) : (w.setProg i v).s.idleNs = w.s.idleNs := rfl
@[simp] theorem Work.setProg_mw (w : Work) (i : Nat) (v : Option Prog) : (w.setProg i v).mw = w.mw := rfl
@[simp] theorem Work.setProg_hw (w : Work) (i : Nat) (v : Option Prog) : (w.setProg i v).hw = w.hw := rfl
@[simp] theorem Work.setProg_sw (w : Work) (i : Nat) (v : Option Prog) : (w.setProg i v).sw = w.sw := rfl
@[simp] theorem Work.setProg_stop (w : Work) (i : Nat) (v : Option Prog) : (w.setProg i v).stop = w.stop := rfl
@[simp] theorem Work.setProg_fn (w : Work) (i : Nat) (v : Option Prog) (j : Nat) : (w.setProg i v).s.fn j = w.s.fn j := rfl
@[simp] theorem Work.setProg_ring (w : Work) (i : Nat) (v : Option Prog) (j : Nat) : (w.setProg i v).s.ring j = w.s.ring j := rfl
@[simp] theorem Work.setProg_ctx (w : Work) (i : Nat) (v : Option Prog) (j : Nat) : (w.setProg i v).s.ctx j = w.s.ctx j := rfl
@[simp] theorem Work.setProg_region (w : Work) (i : Nat) (v : Option Prog) (j : Nat) : (w.setProg i v).s.region j = w.s.region j := rfl
@[simp] theorem Work.setProg_stack (w : Work) (i : Nat) (v : Option Prog) (j : Nat) : (w.setProg i v).s.stack j = w.s.stack j := rfl
@[simp] theorem Work.setProg_port (w : Work) (i : Nat) (v : Option Prog) (j : Nat) : (w.setProg i v).s.port j = w.s.port j := rfl
@[simp] theorem Work.setProg_job (w : Work) (i : Nat) (v : Option Prog) (j : Nat) : (w.setProg i v).s.job j = w.s.job j := rfl
@[simp] theorem Work.setProg_tile (w : Work) (i : Nat) (v : Option Prog) (j : Nat) : (w.setProg i v).s.tile j = w.s.tile j := rfl
@[simp] theorem Work.setProg_ph (w : Work) (i : Nat) (v : Option Prog) (j : Nat) : (w.setProg i v).s.ph j = w.s.ph j := rfl
@[simp] theorem Work.setProg_thread (w : Work) (i : Nat) (v : Option Prog) (j : Nat) : (w.setProg i v).s.thread j = w.s.thread j := rfl
@[simp] theorem Work.setProg_core (w : Work) (i : Nat) (v : Option Prog) (j : Nat) : (w.setProg i v).s.core j = w.s.core j := rfl
@[simp] theorem Work.setProg_now (w : Work) (i : Nat) (v : Option Prog) : (w.setProg i v).s.now = w.s.now := rfl
/-- A read after the update. -/
theorem Work.setProg_get (w : Work) (i : Nat) (v : Option Prog) (j : Nat) : (w.setProg i v).s.prog j = if j = i then v else w.s.prog j := by
  simp only [Work.setProg, State.prog, Table.get_put]
@[simp] theorem Work.setProg_same (w : Work) (i : Nat) (v : Option Prog) : (w.setProg i v).s.prog i = v := by rw [Work.setProg_get, if_pos rfl]
theorem Work.setProg_other (w : Work) (i : Nat) (v : Option Prog) {j : Nat} (h : j ≠ i) : (w.setProg i v).s.prog j = w.s.prog j := by rw [Work.setProg_get, if_neg h]

@[simp] theorem Work.setThread_pending (w : Work) (i : Nat) (v : Thread) : (w.setThread i v).s.pending = w.s.pending := rfl
@[simp] theorem Work.setThread_sent (w : Work) (i : Nat) (v : Thread) : (w.setThread i v).s.sent = w.s.sent := rfl
@[simp] theorem Work.setThread_free (w : Work) (i : Nat) (v : Thread) : (w.setThread i v).s.free = w.s.free := rfl
@[simp] theorem Work.setThread_mem (w : Work) (i : Nat) (v : Thread) : (w.setThread i v).s.mem = w.s.mem := rfl
@[simp] theorem Work.setThread_poison (w : Work) (i : Nat) (v : Thread) : (w.setThread i v).s.poison = w.s.poison := rfl
@[simp] theorem Work.setThread_host (w : Work) (i : Nat) (v : Thread) : (w.setThread i v).s.host = w.s.host := rfl
@[simp] theorem Work.setThread_pins (w : Work) (i : Nat) (v : Thread) : (w.setThread i v).s.pins = w.s.pins := rfl
@[simp] theorem Work.setThread_boot (w : Work) (i : Nat) (v : Thread) : (w.setThread i v).s.boot = w.s.boot := rfl
@[simp] theorem Work.setThread_power (w : Work) (i : Nat) (v : Thread) : (w.setThread i v).s.power = w.s.power := rfl
@[simp] theorem Work.setThread_time (w : Work) (i : Nat) (v : Thread) : (w.setThread i v).s.time = w.s.time := rfl
@[simp] theorem Work.setThread_pad (w : Work) (i : Nat) (v : Thread) : (w.setThread i v).s.pad = w.s.pad := rfl
@[simp] theorem Work.setThread_flash (w : Work) (i : Nat) (v : Thread) : (w.setThread i v).s.flash = w.s.flash := rfl
@[simp] theorem Work.setThread_mgt (w : Work) (i : Nat) (v : Thread) : (w.setThread i v).s.mgt = w.s.mgt := rfl
@[simp] theorem Work.setThread_progs (w : Work) (i : Nat) (v : Thread) : (w.setThread i v).s.progs = w.s.progs := rfl
@[simp] theorem Work.setThread_space (w : Work) (i : Nat) (v : Thread) : (w.setThread i v).s.space = w.s.space := rfl
@[simp] theorem Work.setThread_fns (w : Work) (i : Nat) (v : Thread) : (w.setThread i v).s.fns = w.s.fns := rfl
@[simp] theorem Work.setThread_rings (w : Work) (i : Nat) (v : Thread) : (w.setThread i v).s.rings = w.s.rings := rfl
@[simp] theorem Work.setThread_actives (w : Work) (i : Nat) (v : Thread) : (w.setThread i v).s.actives = w.s.actives := rfl
@[simp] theorem Work.setThread_latch (w : Work) (i : Nat) (v : Thread) : (w.setThread i v).s.latch = w.s.latch := rfl
@[simp] theorem Work.setThread_vfEnable (w : Work) (i : Nat) (v : Thread) : (w.setThread i v).s.vfEnable = w.s.vfEnable := rfl
@[simp] theorem Work.setThread_pcieRx (w : Work) (i : Nat) (v : Thread) : (w.setThread i v).s.pcieRx = w.s.pcieRx := rfl
@[simp] theorem Work.setThread_pcieTx (w : Work) (i : Nat) (v : Thread) : (w.setThread i v).s.pcieTx = w.s.pcieTx := rfl
@[simp] theorem Work.setThread_ctxs (w : Work) (i : Nat) (v : Thread) : (w.setThread i v).s.ctxs = w.s.ctxs := rfl
@[simp] theorem Work.setThread_regions (w : Work) (i : Nat) (v : Thread) : (w.setThread i v).s.regions = w.s.regions := rfl
@[simp] theorem Work.setThread_hbm (w : Work) (i : Nat) (v : Thread) : (w.setThread i v).s.hbm = w.s.hbm := rfl
@[simp] theorem Work.setThread_pkgBytes (w : Work) (i : Nat) (v : Thread) : (w.setThread i v).s.pkgBytes = w.s.pkgBytes := rfl
@[simp] theorem Work.setThread_ports (w : Work) (i : Nat) (v : Thread) : (w.setThread i v).s.ports = w.s.ports := rfl
@[simp] theorem Work.setThread_form (w : Work) (i : Nat) (v : Thread) : (w.setThread i v).s.form = w.s.form := rfl
@[simp] theorem Work.setThread_bank (w : Work) (i : Nat) (v : Thread) : (w.setThread i v).s.bank = w.s.bank := rfl
@[simp] theorem Work.setThread_jobs (w : Work) (i : Nat) (v : Thread) : (w.setThread i v).s.jobs = w.s.jobs := rfl
@[simp] theorem Work.setThread_tiles (w : Work) (i : Nat) (v : Thread) : (w.setThread i v).s.tiles = w.s.tiles := rfl
@[simp] theorem Work.setThread_phys (w : Work) (i : Nat) (v : Thread) : (w.setThread i v).s.phys = w.s.phys := rfl
@[simp] theorem Work.setThread_arrivals (w : Work) (i : Nat) (v : Thread) : (w.setThread i v).s.arrivals = w.s.arrivals := rfl
@[simp] theorem Work.setThread_lanes (w : Work) (i : Nat) (v : Thread) : (w.setThread i v).s.lanes = w.s.lanes := rfl
@[simp] theorem Work.setThread_lanesNow (w : Work) (i : Nat) (v : Thread) : (w.setThread i v).s.lanesNow = w.s.lanesNow := rfl
@[simp] theorem Work.setThread_windows (w : Work) (i : Nat) (v : Thread) : (w.setThread i v).s.windows = w.s.windows := rfl
@[simp] theorem Work.setThread_tests (w : Work) (i : Nat) (v : Thread) : (w.setThread i v).s.tests = w.s.tests := rfl
@[simp] theorem Work.setThread_retiring (w : Work) (i : Nat) (v : Thread) : (w.setThread i v).s.retiring = w.s.retiring := rfl
@[simp] theorem Work.setThread_requests (w : Work) (i : Nat) (v : Thread) : (w.setThread i v).s.requests = w.s.requests := rfl
@[simp] theorem Work.setThread_nextTag (w : Work) (i : Nat) (v : Thread) : (w.setThread i v).s.nextTag = w.s.nextTag := rfl
@[simp] theorem Work.setThread_routeDrops (w : Work) (i : Nat) (v : Thread) : (w.setThread i v).s.routeDrops = w.s.routeDrops := rfl
@[simp] theorem Work.setThread_resident (w : Work) (i : Nat) (v : Thread) : (w.setThread i v).s.resident = w.s.resident := rfl
@[simp] theorem Work.setThread_partials (w : Work) (i : Nat) (v : Thread) : (w.setThread i v).s.partials = w.s.partials := rfl
@[simp] theorem Work.setThread_journal (w : Work) (i : Nat) (v : Thread) : (w.setThread i v).s.journal = w.s.journal := rfl
@[simp] theorem Work.setThread_flips (w : Work) (i : Nat) (v : Thread) : (w.setThread i v).s.flips = w.s.flips := rfl
@[simp] theorem Work.setThread_retierList (w : Work) (i : Nat) (v : Thread) : (w.setThread i v).s.retierList = w.s.retierList := rfl
@[simp] theorem Work.setThread_retierDone (w : Work) (i : Nat) (v : Thread) : (w.setThread i v).s.retierDone = w.s.retierDone := rfl
@[simp] theorem Work.setThread_retierDue (w : Work) (i : Nat) (v : Thread) : (w.setThread i v).s.retierDue = w.s.retierDue := rfl
@[simp] theorem Work.setThread_traceDesc (w : Work) (i : Nat) (v : Thread) : (w.setThread i v).s.traceDesc = w.s.traceDesc := rfl
@[simp] theorem Work.setThread_traceNext (w : Work) (i : Nat) (v : Thread) : (w.setThread i v).s.traceNext = w.s.traceNext := rfl
@[simp] theorem Work.setThread_idleNs (w : Work) (i : Nat) (v : Thread) : (w.setThread i v).s.idleNs = w.s.idleNs := rfl
@[simp] theorem Work.setThread_mw (w : Work) (i : Nat) (v : Thread) : (w.setThread i v).mw = w.mw := rfl
@[simp] theorem Work.setThread_hw (w : Work) (i : Nat) (v : Thread) : (w.setThread i v).hw = w.hw := rfl
@[simp] theorem Work.setThread_sw (w : Work) (i : Nat) (v : Thread) : (w.setThread i v).sw = w.sw := rfl
@[simp] theorem Work.setThread_stop (w : Work) (i : Nat) (v : Thread) : (w.setThread i v).stop = w.stop := rfl
@[simp] theorem Work.setThread_fn (w : Work) (i : Nat) (v : Thread) (j : Nat) : (w.setThread i v).s.fn j = w.s.fn j := rfl
@[simp] theorem Work.setThread_ring (w : Work) (i : Nat) (v : Thread) (j : Nat) : (w.setThread i v).s.ring j = w.s.ring j := rfl
@[simp] theorem Work.setThread_ctx (w : Work) (i : Nat) (v : Thread) (j : Nat) : (w.setThread i v).s.ctx j = w.s.ctx j := rfl
@[simp] theorem Work.setThread_region (w : Work) (i : Nat) (v : Thread) (j : Nat) : (w.setThread i v).s.region j = w.s.region j := rfl
@[simp] theorem Work.setThread_stack (w : Work) (i : Nat) (v : Thread) (j : Nat) : (w.setThread i v).s.stack j = w.s.stack j := rfl
@[simp] theorem Work.setThread_port (w : Work) (i : Nat) (v : Thread) (j : Nat) : (w.setThread i v).s.port j = w.s.port j := rfl
@[simp] theorem Work.setThread_job (w : Work) (i : Nat) (v : Thread) (j : Nat) : (w.setThread i v).s.job j = w.s.job j := rfl
@[simp] theorem Work.setThread_tile (w : Work) (i : Nat) (v : Thread) (j : Nat) : (w.setThread i v).s.tile j = w.s.tile j := rfl
@[simp] theorem Work.setThread_ph (w : Work) (i : Nat) (v : Thread) (j : Nat) : (w.setThread i v).s.ph j = w.s.ph j := rfl
@[simp] theorem Work.setThread_prog (w : Work) (i : Nat) (v : Thread) (j : Nat) : (w.setThread i v).s.prog j = w.s.prog j := rfl
@[simp] theorem Work.setThread_now (w : Work) (i : Nat) (v : Thread) : (w.setThread i v).s.now = w.s.now := rfl
/-- A read after the update. -/
theorem Work.setThread_get (w : Work) (i : Nat) (v : Thread) (j : Nat) : (w.setThread i v).s.thread j = if j = i then v else w.s.thread j := by
  simp only [Work.setThread, State.thread, Table.get_put]
@[simp] theorem Work.setThread_same (w : Work) (i : Nat) (v : Thread) : (w.setThread i v).s.thread i = v := by rw [Work.setThread_get, if_pos rfl]
theorem Work.setThread_other (w : Work) (i : Nat) (v : Thread) {j : Nat} (h : j ≠ i) : (w.setThread i v).s.thread j = w.s.thread j := by rw [Work.setThread_get, if_neg h]

@[simp] theorem Work.setCore_pending (w : Work) (i : Nat) (v : HubCore) : (w.setCore i v).s.pending = w.s.pending := rfl
@[simp] theorem Work.setCore_sent (w : Work) (i : Nat) (v : HubCore) : (w.setCore i v).s.sent = w.s.sent := rfl
@[simp] theorem Work.setCore_free (w : Work) (i : Nat) (v : HubCore) : (w.setCore i v).s.free = w.s.free := rfl
@[simp] theorem Work.setCore_mem (w : Work) (i : Nat) (v : HubCore) : (w.setCore i v).s.mem = w.s.mem := rfl
@[simp] theorem Work.setCore_poison (w : Work) (i : Nat) (v : HubCore) : (w.setCore i v).s.poison = w.s.poison := rfl
@[simp] theorem Work.setCore_host (w : Work) (i : Nat) (v : HubCore) : (w.setCore i v).s.host = w.s.host := rfl
@[simp] theorem Work.setCore_pins (w : Work) (i : Nat) (v : HubCore) : (w.setCore i v).s.pins = w.s.pins := rfl
@[simp] theorem Work.setCore_boot (w : Work) (i : Nat) (v : HubCore) : (w.setCore i v).s.boot = w.s.boot := rfl
@[simp] theorem Work.setCore_power (w : Work) (i : Nat) (v : HubCore) : (w.setCore i v).s.power = w.s.power := rfl
@[simp] theorem Work.setCore_time (w : Work) (i : Nat) (v : HubCore) : (w.setCore i v).s.time = w.s.time := rfl
@[simp] theorem Work.setCore_pad (w : Work) (i : Nat) (v : HubCore) : (w.setCore i v).s.pad = w.s.pad := rfl
@[simp] theorem Work.setCore_flash (w : Work) (i : Nat) (v : HubCore) : (w.setCore i v).s.flash = w.s.flash := rfl
@[simp] theorem Work.setCore_mgt (w : Work) (i : Nat) (v : HubCore) : (w.setCore i v).s.mgt = w.s.mgt := rfl
@[simp] theorem Work.setCore_progs (w : Work) (i : Nat) (v : HubCore) : (w.setCore i v).s.progs = w.s.progs := rfl
@[simp] theorem Work.setCore_space (w : Work) (i : Nat) (v : HubCore) : (w.setCore i v).s.space = w.s.space := rfl
@[simp] theorem Work.setCore_fns (w : Work) (i : Nat) (v : HubCore) : (w.setCore i v).s.fns = w.s.fns := rfl
@[simp] theorem Work.setCore_rings (w : Work) (i : Nat) (v : HubCore) : (w.setCore i v).s.rings = w.s.rings := rfl
@[simp] theorem Work.setCore_actives (w : Work) (i : Nat) (v : HubCore) : (w.setCore i v).s.actives = w.s.actives := rfl
@[simp] theorem Work.setCore_latch (w : Work) (i : Nat) (v : HubCore) : (w.setCore i v).s.latch = w.s.latch := rfl
@[simp] theorem Work.setCore_vfEnable (w : Work) (i : Nat) (v : HubCore) : (w.setCore i v).s.vfEnable = w.s.vfEnable := rfl
@[simp] theorem Work.setCore_pcieRx (w : Work) (i : Nat) (v : HubCore) : (w.setCore i v).s.pcieRx = w.s.pcieRx := rfl
@[simp] theorem Work.setCore_pcieTx (w : Work) (i : Nat) (v : HubCore) : (w.setCore i v).s.pcieTx = w.s.pcieTx := rfl
@[simp] theorem Work.setCore_ctxs (w : Work) (i : Nat) (v : HubCore) : (w.setCore i v).s.ctxs = w.s.ctxs := rfl
@[simp] theorem Work.setCore_regions (w : Work) (i : Nat) (v : HubCore) : (w.setCore i v).s.regions = w.s.regions := rfl
@[simp] theorem Work.setCore_hbm (w : Work) (i : Nat) (v : HubCore) : (w.setCore i v).s.hbm = w.s.hbm := rfl
@[simp] theorem Work.setCore_pkgBytes (w : Work) (i : Nat) (v : HubCore) : (w.setCore i v).s.pkgBytes = w.s.pkgBytes := rfl
@[simp] theorem Work.setCore_ports (w : Work) (i : Nat) (v : HubCore) : (w.setCore i v).s.ports = w.s.ports := rfl
@[simp] theorem Work.setCore_form (w : Work) (i : Nat) (v : HubCore) : (w.setCore i v).s.form = w.s.form := rfl
@[simp] theorem Work.setCore_bank (w : Work) (i : Nat) (v : HubCore) : (w.setCore i v).s.bank = w.s.bank := rfl
@[simp] theorem Work.setCore_jobs (w : Work) (i : Nat) (v : HubCore) : (w.setCore i v).s.jobs = w.s.jobs := rfl
@[simp] theorem Work.setCore_tiles (w : Work) (i : Nat) (v : HubCore) : (w.setCore i v).s.tiles = w.s.tiles := rfl
@[simp] theorem Work.setCore_phys (w : Work) (i : Nat) (v : HubCore) : (w.setCore i v).s.phys = w.s.phys := rfl
@[simp] theorem Work.setCore_arrivals (w : Work) (i : Nat) (v : HubCore) : (w.setCore i v).s.arrivals = w.s.arrivals := rfl
@[simp] theorem Work.setCore_lanes (w : Work) (i : Nat) (v : HubCore) : (w.setCore i v).s.lanes = w.s.lanes := rfl
@[simp] theorem Work.setCore_lanesNow (w : Work) (i : Nat) (v : HubCore) : (w.setCore i v).s.lanesNow = w.s.lanesNow := rfl
@[simp] theorem Work.setCore_windows (w : Work) (i : Nat) (v : HubCore) : (w.setCore i v).s.windows = w.s.windows := rfl
@[simp] theorem Work.setCore_tests (w : Work) (i : Nat) (v : HubCore) : (w.setCore i v).s.tests = w.s.tests := rfl
@[simp] theorem Work.setCore_retiring (w : Work) (i : Nat) (v : HubCore) : (w.setCore i v).s.retiring = w.s.retiring := rfl
@[simp] theorem Work.setCore_requests (w : Work) (i : Nat) (v : HubCore) : (w.setCore i v).s.requests = w.s.requests := rfl
@[simp] theorem Work.setCore_nextTag (w : Work) (i : Nat) (v : HubCore) : (w.setCore i v).s.nextTag = w.s.nextTag := rfl
@[simp] theorem Work.setCore_routeDrops (w : Work) (i : Nat) (v : HubCore) : (w.setCore i v).s.routeDrops = w.s.routeDrops := rfl
@[simp] theorem Work.setCore_resident (w : Work) (i : Nat) (v : HubCore) : (w.setCore i v).s.resident = w.s.resident := rfl
@[simp] theorem Work.setCore_partials (w : Work) (i : Nat) (v : HubCore) : (w.setCore i v).s.partials = w.s.partials := rfl
@[simp] theorem Work.setCore_journal (w : Work) (i : Nat) (v : HubCore) : (w.setCore i v).s.journal = w.s.journal := rfl
@[simp] theorem Work.setCore_flips (w : Work) (i : Nat) (v : HubCore) : (w.setCore i v).s.flips = w.s.flips := rfl
@[simp] theorem Work.setCore_retierList (w : Work) (i : Nat) (v : HubCore) : (w.setCore i v).s.retierList = w.s.retierList := rfl
@[simp] theorem Work.setCore_retierDone (w : Work) (i : Nat) (v : HubCore) : (w.setCore i v).s.retierDone = w.s.retierDone := rfl
@[simp] theorem Work.setCore_retierDue (w : Work) (i : Nat) (v : HubCore) : (w.setCore i v).s.retierDue = w.s.retierDue := rfl
@[simp] theorem Work.setCore_traceDesc (w : Work) (i : Nat) (v : HubCore) : (w.setCore i v).s.traceDesc = w.s.traceDesc := rfl
@[simp] theorem Work.setCore_traceNext (w : Work) (i : Nat) (v : HubCore) : (w.setCore i v).s.traceNext = w.s.traceNext := rfl
@[simp] theorem Work.setCore_idleNs (w : Work) (i : Nat) (v : HubCore) : (w.setCore i v).s.idleNs = w.s.idleNs := rfl
@[simp] theorem Work.setCore_mw (w : Work) (i : Nat) (v : HubCore) : (w.setCore i v).mw = w.mw := rfl
@[simp] theorem Work.setCore_hw (w : Work) (i : Nat) (v : HubCore) : (w.setCore i v).hw = w.hw := rfl
@[simp] theorem Work.setCore_sw (w : Work) (i : Nat) (v : HubCore) : (w.setCore i v).sw = w.sw := rfl
@[simp] theorem Work.setCore_stop (w : Work) (i : Nat) (v : HubCore) : (w.setCore i v).stop = w.stop := rfl
@[simp] theorem Work.setCore_fn (w : Work) (i : Nat) (v : HubCore) (j : Nat) : (w.setCore i v).s.fn j = w.s.fn j := rfl
@[simp] theorem Work.setCore_ring (w : Work) (i : Nat) (v : HubCore) (j : Nat) : (w.setCore i v).s.ring j = w.s.ring j := rfl
@[simp] theorem Work.setCore_ctx (w : Work) (i : Nat) (v : HubCore) (j : Nat) : (w.setCore i v).s.ctx j = w.s.ctx j := rfl
@[simp] theorem Work.setCore_region (w : Work) (i : Nat) (v : HubCore) (j : Nat) : (w.setCore i v).s.region j = w.s.region j := rfl
@[simp] theorem Work.setCore_stack (w : Work) (i : Nat) (v : HubCore) (j : Nat) : (w.setCore i v).s.stack j = w.s.stack j := rfl
@[simp] theorem Work.setCore_port (w : Work) (i : Nat) (v : HubCore) (j : Nat) : (w.setCore i v).s.port j = w.s.port j := rfl
@[simp] theorem Work.setCore_job (w : Work) (i : Nat) (v : HubCore) (j : Nat) : (w.setCore i v).s.job j = w.s.job j := rfl
@[simp] theorem Work.setCore_tile (w : Work) (i : Nat) (v : HubCore) (j : Nat) : (w.setCore i v).s.tile j = w.s.tile j := rfl
@[simp] theorem Work.setCore_ph (w : Work) (i : Nat) (v : HubCore) (j : Nat) : (w.setCore i v).s.ph j = w.s.ph j := rfl
@[simp] theorem Work.setCore_prog (w : Work) (i : Nat) (v : HubCore) (j : Nat) : (w.setCore i v).s.prog j = w.s.prog j := rfl
@[simp] theorem Work.setCore_now (w : Work) (i : Nat) (v : HubCore) : (w.setCore i v).s.now = w.s.now := rfl
/-- A read after the update. -/
theorem Work.setCore_get (w : Work) (i : Nat) (v : HubCore) (j : Nat) : (w.setCore i v).s.core j = if j = i then v else w.s.core j := by
  simp only [Work.setCore, State.core, Table.get_put]
@[simp] theorem Work.setCore_same (w : Work) (i : Nat) (v : HubCore) : (w.setCore i v).s.core i = v := by rw [Work.setCore_get, if_pos rfl]
theorem Work.setCore_other (w : Work) (i : Nat) (v : HubCore) {j : Nat} (h : j ≠ i) : (w.setCore i v).s.core j = w.s.core j := by rw [Work.setCore_get, if_neg h]

@[simp] theorem Work.setThread_core (w : Work) (i : Nat) (v : Thread) (j : Nat) : (w.setThread i v).s.core j = w.s.core j := rfl
@[simp] theorem Work.setCore_thread (w : Work) (i : Nat) (v : HubCore) (j : Nat) : (w.setCore i v).s.thread j = w.s.thread j := rfl

@[simp] theorem Work.send_pending (w : Work) (m : Sent) : (w.send m).s.pending = w.s.pending := rfl
@[simp] theorem Work.send_free (w : Work) (m : Sent) : (w.send m).s.free = w.s.free := rfl
@[simp] theorem Work.send_mem (w : Work) (m : Sent) : (w.send m).s.mem = w.s.mem := rfl
@[simp] theorem Work.send_poison (w : Work) (m : Sent) : (w.send m).s.poison = w.s.poison := rfl
@[simp] theorem Work.send_host (w : Work) (m : Sent) : (w.send m).s.host = w.s.host := rfl
@[simp] theorem Work.send_pins (w : Work) (m : Sent) : (w.send m).s.pins = w.s.pins := rfl
@[simp] theorem Work.send_boot (w : Work) (m : Sent) : (w.send m).s.boot = w.s.boot := rfl
@[simp] theorem Work.send_power (w : Work) (m : Sent) : (w.send m).s.power = w.s.power := rfl
@[simp] theorem Work.send_time (w : Work) (m : Sent) : (w.send m).s.time = w.s.time := rfl
@[simp] theorem Work.send_pad (w : Work) (m : Sent) : (w.send m).s.pad = w.s.pad := rfl
@[simp] theorem Work.send_flash (w : Work) (m : Sent) : (w.send m).s.flash = w.s.flash := rfl
@[simp] theorem Work.send_mgt (w : Work) (m : Sent) : (w.send m).s.mgt = w.s.mgt := rfl
@[simp] theorem Work.send_sched (w : Work) (m : Sent) : (w.send m).s.sched = w.s.sched := rfl
@[simp] theorem Work.send_progs (w : Work) (m : Sent) : (w.send m).s.progs = w.s.progs := rfl
@[simp] theorem Work.send_space (w : Work) (m : Sent) : (w.send m).s.space = w.s.space := rfl
@[simp] theorem Work.send_fns (w : Work) (m : Sent) : (w.send m).s.fns = w.s.fns := rfl
@[simp] theorem Work.send_rings (w : Work) (m : Sent) : (w.send m).s.rings = w.s.rings := rfl
@[simp] theorem Work.send_actives (w : Work) (m : Sent) : (w.send m).s.actives = w.s.actives := rfl
@[simp] theorem Work.send_latch (w : Work) (m : Sent) : (w.send m).s.latch = w.s.latch := rfl
@[simp] theorem Work.send_vfEnable (w : Work) (m : Sent) : (w.send m).s.vfEnable = w.s.vfEnable := rfl
@[simp] theorem Work.send_pcieRx (w : Work) (m : Sent) : (w.send m).s.pcieRx = w.s.pcieRx := rfl
@[simp] theorem Work.send_pcieTx (w : Work) (m : Sent) : (w.send m).s.pcieTx = w.s.pcieTx := rfl
@[simp] theorem Work.send_ctxs (w : Work) (m : Sent) : (w.send m).s.ctxs = w.s.ctxs := rfl
@[simp] theorem Work.send_regions (w : Work) (m : Sent) : (w.send m).s.regions = w.s.regions := rfl
@[simp] theorem Work.send_hbm (w : Work) (m : Sent) : (w.send m).s.hbm = w.s.hbm := rfl
@[simp] theorem Work.send_pkgBytes (w : Work) (m : Sent) : (w.send m).s.pkgBytes = w.s.pkgBytes := rfl
@[simp] theorem Work.send_ports (w : Work) (m : Sent) : (w.send m).s.ports = w.s.ports := rfl
@[simp] theorem Work.send_form (w : Work) (m : Sent) : (w.send m).s.form = w.s.form := rfl
@[simp] theorem Work.send_bank (w : Work) (m : Sent) : (w.send m).s.bank = w.s.bank := rfl
@[simp] theorem Work.send_jobs (w : Work) (m : Sent) : (w.send m).s.jobs = w.s.jobs := rfl
@[simp] theorem Work.send_tiles (w : Work) (m : Sent) : (w.send m).s.tiles = w.s.tiles := rfl
@[simp] theorem Work.send_phys (w : Work) (m : Sent) : (w.send m).s.phys = w.s.phys := rfl
@[simp] theorem Work.send_arrivals (w : Work) (m : Sent) : (w.send m).s.arrivals = w.s.arrivals := rfl
@[simp] theorem Work.send_lanes (w : Work) (m : Sent) : (w.send m).s.lanes = w.s.lanes := rfl
@[simp] theorem Work.send_lanesNow (w : Work) (m : Sent) : (w.send m).s.lanesNow = w.s.lanesNow := rfl
@[simp] theorem Work.send_windows (w : Work) (m : Sent) : (w.send m).s.windows = w.s.windows := rfl
@[simp] theorem Work.send_tests (w : Work) (m : Sent) : (w.send m).s.tests = w.s.tests := rfl
@[simp] theorem Work.send_retiring (w : Work) (m : Sent) : (w.send m).s.retiring = w.s.retiring := rfl
@[simp] theorem Work.send_requests (w : Work) (m : Sent) : (w.send m).s.requests = w.s.requests := rfl
@[simp] theorem Work.send_nextTag (w : Work) (m : Sent) : (w.send m).s.nextTag = w.s.nextTag := rfl
@[simp] theorem Work.send_routeDrops (w : Work) (m : Sent) : (w.send m).s.routeDrops = w.s.routeDrops := rfl
@[simp] theorem Work.send_resident (w : Work) (m : Sent) : (w.send m).s.resident = w.s.resident := rfl
@[simp] theorem Work.send_partials (w : Work) (m : Sent) : (w.send m).s.partials = w.s.partials := rfl
@[simp] theorem Work.send_journal (w : Work) (m : Sent) : (w.send m).s.journal = w.s.journal := rfl
@[simp] theorem Work.send_flips (w : Work) (m : Sent) : (w.send m).s.flips = w.s.flips := rfl
@[simp] theorem Work.send_retierList (w : Work) (m : Sent) : (w.send m).s.retierList = w.s.retierList := rfl
@[simp] theorem Work.send_retierDone (w : Work) (m : Sent) : (w.send m).s.retierDone = w.s.retierDone := rfl
@[simp] theorem Work.send_retierDue (w : Work) (m : Sent) : (w.send m).s.retierDue = w.s.retierDue := rfl
@[simp] theorem Work.send_traceDesc (w : Work) (m : Sent) : (w.send m).s.traceDesc = w.s.traceDesc := rfl
@[simp] theorem Work.send_traceNext (w : Work) (m : Sent) : (w.send m).s.traceNext = w.s.traceNext := rfl
@[simp] theorem Work.send_idleNs (w : Work) (m : Sent) : (w.send m).s.idleNs = w.s.idleNs := rfl
@[simp] theorem Work.send_fn (w : Work) (m : Sent) (j : Nat) : (w.send m).s.fn j = w.s.fn j := rfl
@[simp] theorem Work.send_ring (w : Work) (m : Sent) (j : Nat) : (w.send m).s.ring j = w.s.ring j := rfl
@[simp] theorem Work.send_ctx (w : Work) (m : Sent) (j : Nat) : (w.send m).s.ctx j = w.s.ctx j := rfl
@[simp] theorem Work.send_region (w : Work) (m : Sent) (j : Nat) : (w.send m).s.region j = w.s.region j := rfl
@[simp] theorem Work.send_stack (w : Work) (m : Sent) (j : Nat) : (w.send m).s.stack j = w.s.stack j := rfl
@[simp] theorem Work.send_port (w : Work) (m : Sent) (j : Nat) : (w.send m).s.port j = w.s.port j := rfl
@[simp] theorem Work.send_job (w : Work) (m : Sent) (j : Nat) : (w.send m).s.job j = w.s.job j := rfl
@[simp] theorem Work.send_tile (w : Work) (m : Sent) (j : Nat) : (w.send m).s.tile j = w.s.tile j := rfl
@[simp] theorem Work.send_ph (w : Work) (m : Sent) (j : Nat) : (w.send m).s.ph j = w.s.ph j := rfl
@[simp] theorem Work.send_prog (w : Work) (m : Sent) (j : Nat) : (w.send m).s.prog j = w.s.prog j := rfl
@[simp] theorem Work.send_thread (w : Work) (m : Sent) (j : Nat) : (w.send m).s.thread j = w.s.thread j := rfl
@[simp] theorem Work.send_core (w : Work) (m : Sent) (j : Nat) : (w.send m).s.core j = w.s.core j := rfl
@[simp] theorem Work.send_now (w : Work) (m : Sent) : (w.send m).s.now = w.s.now := rfl
@[simp] theorem Work.send_mw (w : Work) (m : Sent) : (w.send m).mw = w.mw := rfl
@[simp] theorem Work.send_hw (w : Work) (m : Sent) : (w.send m).hw = w.hw := rfl
@[simp] theorem Work.send_sw (w : Work) (m : Sent) : (w.send m).sw = w.sw := rfl
@[simp] theorem Work.send_stop (w : Work) (m : Sent) : (w.send m).stop = w.stop := rfl
@[simp] theorem Work.fail_s (w : Work) (r : Nat) : (w.fail r).s = w.s := rfl
@[simp] theorem Work.fail_mw (w : Work) (r : Nat) : (w.fail r).mw = w.mw := rfl
@[simp] theorem Work.fail_hw (w : Work) (r : Nat) : (w.fail r).hw = w.hw := rfl
@[simp] theorem Work.fail_sw (w : Work) (r : Nat) : (w.fail r).sw = w.sw := rfl
@[simp] theorem Work.zero_s (w : Work) (a n : Nat) : (w.zero a n).s = w.s := rfl
@[simp] theorem Work.zero_hw (w : Work) (a n : Nat) : (w.zero a n).hw = w.hw := rfl
@[simp] theorem Work.zero_sw (w : Work) (a n : Nat) : (w.zero a n).sw = w.sw := rfl
@[simp] theorem Work.zero_stop (w : Work) (a n : Nat) : (w.zero a n).stop = w.stop := rfl
@[simp] theorem Work.copy_s (w : Work) (a b n : Nat) : (w.copy a b n).s = w.s := rfl
@[simp] theorem Work.copy_hw (w : Work) (a b n : Nat) : (w.copy a b n).hw = w.hw := rfl
@[simp] theorem Work.copy_sw (w : Work) (a b n : Nat) : (w.copy a b n).sw = w.sw := rfl
@[simp] theorem Work.copy_stop (w : Work) (a b n : Nat) : (w.copy a b n).stop = w.stop := rfl
@[simp] theorem Work.wrP_s (w : Work) (a : Nat) (v : Byte) (p : Bool) : (w.wrP a v p).s = w.s := rfl
@[simp] theorem Work.wrP_hw (w : Work) (a : Nat) (v : Byte) (p : Bool) : (w.wrP a v p).hw = w.hw := rfl
@[simp] theorem Work.wrP_sw (w : Work) (a : Nat) (v : Byte) (p : Bool) : (w.wrP a v p).sw = w.sw := rfl
@[simp] theorem Work.wrP_stop (w : Work) (a : Nat) (v : Byte) (p : Bool) : (w.wrP a v p).stop = w.stop := rfl
@[simp] theorem Work.wrHost_pending (w : Work) (f a : Nat) (vs : List Byte) : (w.wrHost f a vs).s.pending = w.s.pending := rfl
@[simp] theorem Work.wrHost_sent (w : Work) (f a : Nat) (vs : List Byte) : (w.wrHost f a vs).s.sent = w.s.sent := rfl
@[simp] theorem Work.wrHost_free (w : Work) (f a : Nat) (vs : List Byte) : (w.wrHost f a vs).s.free = w.s.free := rfl
@[simp] theorem Work.wrHost_mem (w : Work) (f a : Nat) (vs : List Byte) : (w.wrHost f a vs).s.mem = w.s.mem := rfl
@[simp] theorem Work.wrHost_poison (w : Work) (f a : Nat) (vs : List Byte) : (w.wrHost f a vs).s.poison = w.s.poison := rfl
@[simp] theorem Work.wrHost_host (w : Work) (f a : Nat) (vs : List Byte) : (w.wrHost f a vs).s.host = w.s.host := rfl
@[simp] theorem Work.wrHost_pins (w : Work) (f a : Nat) (vs : List Byte) : (w.wrHost f a vs).s.pins = w.s.pins := rfl
@[simp] theorem Work.wrHost_boot (w : Work) (f a : Nat) (vs : List Byte) : (w.wrHost f a vs).s.boot = w.s.boot := rfl
@[simp] theorem Work.wrHost_power (w : Work) (f a : Nat) (vs : List Byte) : (w.wrHost f a vs).s.power = w.s.power := rfl
@[simp] theorem Work.wrHost_time (w : Work) (f a : Nat) (vs : List Byte) : (w.wrHost f a vs).s.time = w.s.time := rfl
@[simp] theorem Work.wrHost_pad (w : Work) (f a : Nat) (vs : List Byte) : (w.wrHost f a vs).s.pad = w.s.pad := rfl
@[simp] theorem Work.wrHost_flash (w : Work) (f a : Nat) (vs : List Byte) : (w.wrHost f a vs).s.flash = w.s.flash := rfl
@[simp] theorem Work.wrHost_mgt (w : Work) (f a : Nat) (vs : List Byte) : (w.wrHost f a vs).s.mgt = w.s.mgt := rfl
@[simp] theorem Work.wrHost_sched (w : Work) (f a : Nat) (vs : List Byte) : (w.wrHost f a vs).s.sched = w.s.sched := rfl
@[simp] theorem Work.wrHost_progs (w : Work) (f a : Nat) (vs : List Byte) : (w.wrHost f a vs).s.progs = w.s.progs := rfl
@[simp] theorem Work.wrHost_space (w : Work) (f a : Nat) (vs : List Byte) : (w.wrHost f a vs).s.space = w.s.space := rfl
@[simp] theorem Work.wrHost_fns (w : Work) (f a : Nat) (vs : List Byte) : (w.wrHost f a vs).s.fns = w.s.fns := rfl
@[simp] theorem Work.wrHost_rings (w : Work) (f a : Nat) (vs : List Byte) : (w.wrHost f a vs).s.rings = w.s.rings := rfl
@[simp] theorem Work.wrHost_actives (w : Work) (f a : Nat) (vs : List Byte) : (w.wrHost f a vs).s.actives = w.s.actives := rfl
@[simp] theorem Work.wrHost_latch (w : Work) (f a : Nat) (vs : List Byte) : (w.wrHost f a vs).s.latch = w.s.latch := rfl
@[simp] theorem Work.wrHost_vfEnable (w : Work) (f a : Nat) (vs : List Byte) : (w.wrHost f a vs).s.vfEnable = w.s.vfEnable := rfl
@[simp] theorem Work.wrHost_pcieRx (w : Work) (f a : Nat) (vs : List Byte) : (w.wrHost f a vs).s.pcieRx = w.s.pcieRx := rfl
@[simp] theorem Work.wrHost_ctxs (w : Work) (f a : Nat) (vs : List Byte) : (w.wrHost f a vs).s.ctxs = w.s.ctxs := rfl
@[simp] theorem Work.wrHost_regions (w : Work) (f a : Nat) (vs : List Byte) : (w.wrHost f a vs).s.regions = w.s.regions := rfl
@[simp] theorem Work.wrHost_hbm (w : Work) (f a : Nat) (vs : List Byte) : (w.wrHost f a vs).s.hbm = w.s.hbm := rfl
@[simp] theorem Work.wrHost_pkgBytes (w : Work) (f a : Nat) (vs : List Byte) : (w.wrHost f a vs).s.pkgBytes = w.s.pkgBytes := rfl
@[simp] theorem Work.wrHost_ports (w : Work) (f a : Nat) (vs : List Byte) : (w.wrHost f a vs).s.ports = w.s.ports := rfl
@[simp] theorem Work.wrHost_form (w : Work) (f a : Nat) (vs : List Byte) : (w.wrHost f a vs).s.form = w.s.form := rfl
@[simp] theorem Work.wrHost_bank (w : Work) (f a : Nat) (vs : List Byte) : (w.wrHost f a vs).s.bank = w.s.bank := rfl
@[simp] theorem Work.wrHost_jobs (w : Work) (f a : Nat) (vs : List Byte) : (w.wrHost f a vs).s.jobs = w.s.jobs := rfl
@[simp] theorem Work.wrHost_tiles (w : Work) (f a : Nat) (vs : List Byte) : (w.wrHost f a vs).s.tiles = w.s.tiles := rfl
@[simp] theorem Work.wrHost_phys (w : Work) (f a : Nat) (vs : List Byte) : (w.wrHost f a vs).s.phys = w.s.phys := rfl
@[simp] theorem Work.wrHost_arrivals (w : Work) (f a : Nat) (vs : List Byte) : (w.wrHost f a vs).s.arrivals = w.s.arrivals := rfl
@[simp] theorem Work.wrHost_lanes (w : Work) (f a : Nat) (vs : List Byte) : (w.wrHost f a vs).s.lanes = w.s.lanes := rfl
@[simp] theorem Work.wrHost_lanesNow (w : Work) (f a : Nat) (vs : List Byte) : (w.wrHost f a vs).s.lanesNow = w.s.lanesNow := rfl
@[simp] theorem Work.wrHost_windows (w : Work) (f a : Nat) (vs : List Byte) : (w.wrHost f a vs).s.windows = w.s.windows := rfl
@[simp] theorem Work.wrHost_tests (w : Work) (f a : Nat) (vs : List Byte) : (w.wrHost f a vs).s.tests = w.s.tests := rfl
@[simp] theorem Work.wrHost_retiring (w : Work) (f a : Nat) (vs : List Byte) : (w.wrHost f a vs).s.retiring = w.s.retiring := rfl
@[simp] theorem Work.wrHost_requests (w : Work) (f a : Nat) (vs : List Byte) : (w.wrHost f a vs).s.requests = w.s.requests := rfl
@[simp] theorem Work.wrHost_nextTag (w : Work) (f a : Nat) (vs : List Byte) : (w.wrHost f a vs).s.nextTag = w.s.nextTag := rfl
@[simp] theorem Work.wrHost_routeDrops (w : Work) (f a : Nat) (vs : List Byte) : (w.wrHost f a vs).s.routeDrops = w.s.routeDrops := rfl
@[simp] theorem Work.wrHost_resident (w : Work) (f a : Nat) (vs : List Byte) : (w.wrHost f a vs).s.resident = w.s.resident := rfl
@[simp] theorem Work.wrHost_partials (w : Work) (f a : Nat) (vs : List Byte) : (w.wrHost f a vs).s.partials = w.s.partials := rfl
@[simp] theorem Work.wrHost_journal (w : Work) (f a : Nat) (vs : List Byte) : (w.wrHost f a vs).s.journal = w.s.journal := rfl
@[simp] theorem Work.wrHost_flips (w : Work) (f a : Nat) (vs : List Byte) : (w.wrHost f a vs).s.flips = w.s.flips := rfl
@[simp] theorem Work.wrHost_retierList (w : Work) (f a : Nat) (vs : List Byte) : (w.wrHost f a vs).s.retierList = w.s.retierList := rfl
@[simp] theorem Work.wrHost_retierDone (w : Work) (f a : Nat) (vs : List Byte) : (w.wrHost f a vs).s.retierDone = w.s.retierDone := rfl
@[simp] theorem Work.wrHost_retierDue (w : Work) (f a : Nat) (vs : List Byte) : (w.wrHost f a vs).s.retierDue = w.s.retierDue := rfl
@[simp] theorem Work.wrHost_traceDesc (w : Work) (f a : Nat) (vs : List Byte) : (w.wrHost f a vs).s.traceDesc = w.s.traceDesc := rfl
@[simp] theorem Work.wrHost_traceNext (w : Work) (f a : Nat) (vs : List Byte) : (w.wrHost f a vs).s.traceNext = w.s.traceNext := rfl
@[simp] theorem Work.wrHost_idleNs (w : Work) (f a : Nat) (vs : List Byte) : (w.wrHost f a vs).s.idleNs = w.s.idleNs := rfl
@[simp] theorem Work.wrHost_fn (w : Work) (f a : Nat) (vs : List Byte) (j : Nat) : (w.wrHost f a vs).s.fn j = w.s.fn j := rfl
@[simp] theorem Work.wrHost_ring (w : Work) (f a : Nat) (vs : List Byte) (j : Nat) : (w.wrHost f a vs).s.ring j = w.s.ring j := rfl
@[simp] theorem Work.wrHost_ctx (w : Work) (f a : Nat) (vs : List Byte) (j : Nat) : (w.wrHost f a vs).s.ctx j = w.s.ctx j := rfl
@[simp] theorem Work.wrHost_region (w : Work) (f a : Nat) (vs : List Byte) (j : Nat) : (w.wrHost f a vs).s.region j = w.s.region j := rfl
@[simp] theorem Work.wrHost_stack (w : Work) (f a : Nat) (vs : List Byte) (j : Nat) : (w.wrHost f a vs).s.stack j = w.s.stack j := rfl
@[simp] theorem Work.wrHost_port (w : Work) (f a : Nat) (vs : List Byte) (j : Nat) : (w.wrHost f a vs).s.port j = w.s.port j := rfl
@[simp] theorem Work.wrHost_job (w : Work) (f a : Nat) (vs : List Byte) (j : Nat) : (w.wrHost f a vs).s.job j = w.s.job j := rfl
@[simp] theorem Work.wrHost_tile (w : Work) (f a : Nat) (vs : List Byte) (j : Nat) : (w.wrHost f a vs).s.tile j = w.s.tile j := rfl
@[simp] theorem Work.wrHost_ph (w : Work) (f a : Nat) (vs : List Byte) (j : Nat) : (w.wrHost f a vs).s.ph j = w.s.ph j := rfl
@[simp] theorem Work.wrHost_prog (w : Work) (f a : Nat) (vs : List Byte) (j : Nat) : (w.wrHost f a vs).s.prog j = w.s.prog j := rfl
@[simp] theorem Work.wrHost_thread (w : Work) (f a : Nat) (vs : List Byte) (j : Nat) : (w.wrHost f a vs).s.thread j = w.s.thread j := rfl
@[simp] theorem Work.wrHost_core (w : Work) (f a : Nat) (vs : List Byte) (j : Nat) : (w.wrHost f a vs).s.core j = w.s.core j := rfl
@[simp] theorem Work.wrHost_now (w : Work) (f a : Nat) (vs : List Byte) : (w.wrHost f a vs).s.now = w.s.now := rfl
@[simp] theorem Work.wrHost_mw (w : Work) (f a : Nat) (vs : List Byte) : (w.wrHost f a vs).mw = w.mw := rfl
@[simp] theorem Work.wrHost_sw (w : Work) (f a : Nat) (vs : List Byte) : (w.wrHost f a vs).sw = w.sw := rfl
@[simp] theorem Work.wrHost_stop (w : Work) (f a : Nat) (vs : List Byte) : (w.wrHost f a vs).stop = w.stop := rfl
@[simp] theorem Work.send_sent (w : Work) (m : Sent) : (w.send m).s.sent = w.s.sent ++ [m] := rfl

@[simp] theorem Work.start_s (s : State) : (Work.start s).s = s := rfl
@[simp] theorem Work.start_mw (s : State) : (Work.start s).mw = [] := rfl
@[simp] theorem Work.start_hw (s : State) : (Work.start s).hw = [] := rfl
@[simp] theorem Work.start_sw (s : State) : (Work.start s).sw = [] := rfl
@[simp] theorem Work.start_stop (s : State) : (Work.start s).stop = none := rfl

end Sys2Proof.Machine
end

