-- ==== Sys2Proof/Laws/Host.lean ====
section
/-! SUPPORT. Host memory after a run, how a host command starts, and what its reply does. -/

namespace Sys2Proof.Machine

/-! ### Host memory -/

/-- One byte of host memory under the writes of a command, the last of them first. -/
def lookHost (m : Table Byte) : List (Nat × Byte) → Nat → Byte
  | [], k => m.get 0 k
  | c :: rest, k => if k = c.1 then c.2 else lookHost m rest k

/-- A byte of host memory after a command. -/
theorem lookHost_eq (m : Table Byte) (ws : List (Nat × Byte)) (k : Nat) :
    (ws.foldr (fun c m => Table.put m 0 c.1 c.2) m).get 0 k = lookHost m ws k := by
  induction ws with
  | nil => rfl
  | cons c ws ih => rw [List.foldr_cons, Table.get_put, lookHost, ih]

theorem Work.result_hostByte (w : Work) (s : State) (f a : Nat) :
    (w.result s).hostByte f a = lookHost s.host w.hw (hostKey f a) := lookHost_eq _ _ _

/-- Writes that never meet a key leave it as it was. -/
theorem lookHost_append_of_ne {m : Table Byte} {xs ys : List (Nat × Byte)} {k : Nat} (h : ∀ c ∈ xs, c.1 ≠ k) :
    lookHost m (xs ++ ys) k = lookHost m ys k := by
  induction xs with
  | nil => rfl
  | cons c xs ih =>
    have h1 : k ≠ c.1 := fun he => h c (List.mem_cons_self ..) he.symm
    rw [List.cons_append, lookHost, if_neg h1]
    exact ih (fun c hc => h c (List.mem_cons_of_mem _ hc))

/-- A write that meets a key, and no other of the list does. -/
theorem lookHost_append_of_mem {m : Table Byte} {xs ys : List (Nat × Byte)} {k : Nat} {v : Byte} (hv : (k, v) ∈ xs)
    (hu : ∀ c ∈ xs, c.1 = k → c.2 = v) : lookHost m (xs ++ ys) k = v := by
  induction xs with
  | nil => cases hv
  | cons c xs ih =>
    rw [List.cons_append, lookHost]
    by_cases hc : k = c.1
    · rw [if_pos hc]
      exact hu c (List.mem_cons_self ..) hc.symm
    · rw [if_neg hc]
      rcases List.mem_cons.1 hv with rfl | hv
      · exact absurd rfl hc
      · exact ih hv (fun c hc => hu c (List.mem_cons_of_mem _ hc))

theorem hostKey_inj {f a i j : Nat} (hi : i < 2 ^ 64) (hj : j < 2 ^ 64) (h : hostKey f (a + i) = hostKey f (a + j)) : i = j := by
  simp only [hostKey] at h
  omega

/-- A byte that a write to host memory has stored. -/
theorem Work.wrHost_look (w : Work) (m : Table Byte) (f a : Nat) (vs : List Byte) (i : Nat) (hi : i < vs.length)
    (hn : vs.length ≤ 2 ^ 64) : lookHost m (w.wrHost f a vs).hw (hostKey f (a + i)) = vs.getD i 0 := by
  have hmem : ∀ (c : Nat × Byte), c ∈ ((List.range vs.length).zip vs).reverse.map (fun p => (hostKey f (a + p.1), p.2)) ↔
      ∃ j, j < vs.length ∧ c = (hostKey f (a + j), vs.getD j 0) := by
    intro c
    simp only [List.mem_map, List.mem_reverse]
    constructor
    · rintro ⟨p, hp, rfl⟩
      obtain ⟨j, hj, he⟩ := List.mem_iff_getElem.1 hp
      simp only [List.length_zip, List.length_range, Nat.min_self] at hj
      refine ⟨j, hj, ?_⟩
      rw [← he]
      simp [List.getElem_zip, hj]
    · rintro ⟨j, hj, rfl⟩
      refine ⟨(j, vs.getD j 0), List.mem_iff_getElem.2 ⟨j, by simp [hj], ?_⟩, rfl⟩
      simp [List.getElem_zip, hj]
  refine lookHost_append_of_mem ((hmem _).2 ⟨i, hi, rfl⟩) (fun c hc hk => ?_)
  obtain ⟨j, hj, rfl⟩ := (hmem c).1 hc
  have := hostKey_inj (by omega) (by omega) hk
  subst this
  rfl

/-- The writes of one stretch of host memory, in the order of the result. -/
theorem foldr_hostWrites (xs : List (Nat × Byte)) (k : Nat × Byte → Nat × Byte) (ws : List (Nat × Byte)) (m : Table Byte) :
    (xs.reverse.map k ++ ws).foldr (fun c m => Table.put m 0 c.1 c.2) m =
      xs.foldl (fun m p => Table.put m 0 (k p).1 (k p).2) (ws.foldr (fun c m => Table.put m 0 c.1 c.2) m) := by
  rw [List.foldr_append, List.foldr_map, List.foldr_reverse]

/-- The result of a work that has written to host memory. -/
theorem Work.result_wrHost (w : Work) (s : State) (f a : Nat) (bs : List Byte) :
    (w.wrHost f a bs).result s = (w.result s).withHost f a bs := by
  unfold Work.result State.withHost
  dsimp only
  rw [show (w.wrHost f a bs).hw = ((List.range bs.length).zip bs).reverse.map (fun p => (hostKey f (a + p.1), p.2)) ++ w.hw from rfl,
    foldr_hostWrites]
  rfl

/-! ### The start of a host command -/

/-- An accepted command acts. -/
theorem Accepts.command {s : State} {h : Hdr} {need : Nat} {pf : Bool} {adm : Admit} (hA : Accepts s h need pf adm) (op : Nat)
    (f : Active → Work → Work) :
    (Work.start s).command h op need pf adm f = f (h.active s op h.fn) ((Work.start s).begin (h.active s op h.fn)) := by
  have h1 := hA.start
  have h2 : ¬ h.length * 16 < need := Nat.not_lt.2 hA.length
  have h4 : admitted ((Work.start s).begin (h.active s op h.fn)).s adm = true := by
    have := hA.opened
    cases adm with
    | always => rfl
    | ctx c => exact this
  have h3 := hA.owner
  unfold Work.command
  simp only [Work.start_s, h1, not_true_eq_false, if_false, h2, h4]
  cases pf with
  | true =>
    simp only [if_true] at h3
    simp [h3]
  | false =>
    simp only [Bool.false_eq_true, if_false] at h3
    simp [h3]

/-- An accepted command's run is that of its effect. -/
theorem Accepts.run_eq {s : State} {h : Hdr} {need : Nat} {pf : Bool} {adm : Admit} (hA : Accepts s h need pf adm) (op : Nat)
    (f : Active → Work → Work) : run s (fun w => w.command h op need pf adm f) =
      run s (fun _ => f (h.active s op h.fn) ((Work.start s).begin (h.active s op h.fn))) := by
  unfold Machine.run
  simp only [hA.command]

/-- What a start leaves: the ring moved on, the command among the started. -/
theorem Work.begin_ring (s : State) (h : Hdr) (op c : Nat) :
    ((Work.start s).begin (h.active s op c)).s.ring h.dev = (s.ring h.dev).advance := by
  show (((Work.start s).setRing h.dev _).s).ring h.dev = _
  rw [Work.setRing_same]
  rfl

theorem Work.begin_actives (s : State) (a : Active) : ((Work.start s).begin a).s.actives = s.actives ++ [a] := rfl

@[simp] theorem Ring.advance_waiting (r : Ring) : r.advance.waiting = r.waiting := rfl
@[simp] theorem Ring.advance_room (r : Ring) : r.advance.room = r.room := rfl
@[simp] theorem Ring.advance_t (r : Ring) : r.advance.t = r.t := rfl
@[simp] theorem Ring.advance_cqBase (r : Ring) : r.advance.cqBase = r.cqBase := rfl
@[simp] theorem Ring.advance_entries (r : Ring) : r.advance.entries = r.entries := rfl

/-! ### Replies -/

/-- A cause is set once it is raised. -/
theorem Work.cause_bit (w : Work) (f vec : Nat) : bit ((w.cause f vec).s.fn f).intStatus vec = true := by
  unfold Work.cause
  dsimp only
  split
  · assumption
  · have h1 : ∀ x : Nat, bit (x ||| 2 ^ vec) vec = true := by
      intro x
      simp [bit, Nat.testBit_or, Nat.testBit_two_pow_self]
    split
    · rw [Work.setFn_same]
      exact h1 _
    · split
      · unfold Work.modFn
        rw [Work.setFn_same, Work.setFn_same]
        exact h1 _
      · unfold Work.message
        dsimp only
        split
        · rw [Work.send_fn, Work.setFn_same, Work.setFn_same]
          exact h1 _
        · rw [Work.setFn_same, Work.setFn_same]
          exact h1 _

theorem Work.cause_keeps (w : Work) (f vec : Nat) :
    (w.cause f vec).s.rings = w.s.rings ∧ (w.cause f vec).s.actives = w.s.actives ∧ (w.cause f vec).hw = w.hw ∧
      (w.cause f vec).stop = w.stop ∧ (w.cause f vec).s.ctxs = w.s.ctxs := by
  have h := Work.cause_erase (ft := fun p => decide (p = .sent ∨ p = .fns)) (by simp) w f vec
  exact ⟨Work.keeps_rings h (by decide), Work.keeps_actives h (by decide), Work.keeps_hw h (by decide),
    Work.keeps_stop h (by decide), Work.keeps_ctxs h (by decide)⟩

/-- A message changes its own function and sends at most one thing. -/
theorem Work.message_only (w : Work) (f vec : Nat) :
    (∀ g, g ≠ f → (w.message f vec).s.fn g = w.s.fn g) ∧ ∃ xs, (w.message f vec).s.sent = w.s.sent ++ xs := by
  unfold Work.message
  dsimp only
  split
  · exact ⟨fun g hg => Work.setFn_other _ _ _ hg, _, rfl⟩
  · exact ⟨fun g hg => Work.setFn_other _ _ _ hg, [], by simp⟩

/-- A cause changes its own function alone. -/
theorem Work.cause_only (w : Work) (f vec : Nat) :
    (∀ g, g ≠ f → (w.cause f vec).s.fn g = w.s.fn g) ∧ ∃ xs, (w.cause f vec).s.sent = w.s.sent ++ xs := by
  unfold Work.cause
  dsimp only
  split
  · exact ⟨fun _ _ => rfl, [], by simp⟩
  · split
    · exact ⟨fun g hg => Work.setFn_other _ _ _ hg, [], by simp⟩
    · split
      · refine ⟨fun g hg => ?_, [], by simp [Work.modFn]⟩
        unfold Work.modFn
        rw [Work.setFn_other _ _ _ hg, Work.setFn_other _ _ _ hg]
      · have hm := Work.message_only (w.setFn f { w.s.fn f with intStatus := (w.s.fn f).intStatus ||| 2 ^ vec }) f vec
        exact ⟨fun g hg => by rw [hm.1 g hg, Work.setFn_other _ _ _ hg], hm.2⟩

theorem Work.cause_other (w : Work) (f vec : Nat) {g : Nat} (hg : g ≠ f) : (w.cause f vec).s.fn g = w.s.fn g :=
  (Work.cause_only w f vec).1 g hg

theorem Work.cause_sent (w : Work) (f vec : Nat) : ∃ xs, (w.cause f vec).s.sent = w.s.sent ++ xs := (Work.cause_only w f vec).2

/-- A written reply: its ring's tail, its bytes, no stop. -/
theorem Work.writeReply_does (w : Work) (d : Nat) (y : Reply) :
    (w.writeReply d y).s.ring d = { w.s.ring d with t := wrapAdd 32 (w.s.ring d).t 1 } ∧
      (w.writeReply d y).hw =
        (w.wrHost (d / 4) ((w.s.ring d).cqBase + (w.s.ring d).t % (w.s.ring d).entries * entrySize w.s d) y.bytes).hw ∧
      (w.writeReply d y).stop = w.stop := by
  unfold Work.writeReply
  dsimp only
  generalize { w.s.ring d with t := wrapAdd 32 (w.s.ring d).t 1 } = r
  have hs : (w.wrHost (d / 4) ((w.s.ring d).cqBase + (w.s.ring d).t % (w.s.ring d).entries * entrySize w.s d) y.bytes).stop = w.stop :=
    rfl
  revert hs
  generalize w.wrHost (d / 4) ((w.s.ring d).cqBase + (w.s.ring d).t % (w.s.ring d).entries * entrySize w.s d) y.bytes = v
  intro hs
  have hv : (v.setRing d r).s.ring d = r := Work.setRing_same _ _ _
  split
  · have k := Work.cause_keeps (v.setRing d r) (d / 4) (d % 4)
    exact ⟨(congrArg (fun x : Table Ring => x.get {} d) k.1).trans hv, k.2.2.1, k.2.2.2.1.trans hs⟩
  · exact ⟨hv, rfl, hs⟩

/-- The only waiting reply, once there is room. -/
theorem Work.drainReplies_one (w : Work) (d : Nat) (y : Reply) (h1 : (w.s.ring d).waiting = [y]) (h2 : (w.s.ring d).room = true) :
    w.drainReplies d 1 = (w.setRing d { w.s.ring d with waiting := [] }).writeReply d y := by
  unfold Work.drainReplies
  dsimp only
  rw [h1]
  dsimp only
  rw [if_pos h2]
  rfl

/-- A reply that can be written at once is, before any FENCE behind it. -/
theorem Work.finish_eq (w : Work) (a : Active) (status reason p0 p1 : Nat) (hr : a.ring ≠ mgtRing)
    (hw : (w.s.ring a.ring).waiting = []) (hroom : (w.s.ring a.ring).room = true) :
    w.finish a status reason p0 p1 =
      ({ w with s.actives := w.s.actives.filter (fun b => !a.same b) }).writeReply a.ring
        { bytes := replyBytes (w.s.ctx (a.ring / 4)).compat status reason a.op a.ring a.index a.tag p0 p1 w.s.now
          irq := a.irq } := by
  unfold Work.finish
  rw [if_neg hr]
  unfold Work.postReply
  have h1 : ({ w with s.actives := w.s.actives.filter (fun b => !a.same b) } : Work).s.ring a.ring = w.s.ring a.ring := rfl
  simp only [h1, hw, hroom, List.isEmpty_nil, Bool.and_self, if_true]

/-- A reply that can be written at once is. -/
theorem Work.reply_eq (w : Work) (a : Active) (status reason p0 p1 : Nat) (hr : a.ring ≠ mgtRing)
    (hw : (w.s.ring a.ring).waiting = []) (hroom : (w.s.ring a.ring).room = true)
    (hact : ∀ b ∈ w.s.actives, b.ring = a.ring → a.same b = true) :
    w.reply a status reason p0 p1 =
      ({ w with s.actives := w.s.actives.filter (fun b => !a.same b) }).writeReply a.ring
        { bytes := replyBytes (w.s.ctx (a.ring / 4)).compat status reason a.op a.ring a.index a.tag p0 p1 w.s.now
          irq := a.irq } := by
  have hf := Work.finish_eq w a status reason p0 p1 hr hw hroom
  unfold Work.reply
  rw [hf]
  generalize hv : Work.writeReply _ _ _ = v
  have hva : v.s.actives = w.s.actives.filter (fun b => !a.same b) := by
    rw [← hv]
    unfold Work.writeReply
    dsimp only
    split
    · rw [(Work.cause_keeps _ _ _).2.1]
      rfl
    · rfl
  have hd : doneFence v.s a.ring = none := by
    unfold doneFence
    have : v.s.actives.find? (fun b => decide (b.ring = a.ring)) = none := by
      rw [List.find?_eq_none]
      intro b hb hba
      rw [hva, List.mem_filter] at hb
      have h2 := hact b hb.1 (by simpa using hba)
      simp [h2] at hb
    rw [this]
  cases w.s.actives.length with
  | zero => rfl
  | succ n => simp only [Work.settleFences, hd]

theorem Work.finish_actives (w : Work) (a : Active) (status reason p0 p1 : Nat) :
    (w.finish a status reason p0 p1).s.actives = w.s.actives.filter (fun b => !a.same b) := by
  unfold Work.finish
  split
  · rfl
  · have h : ∀ (v : Work) (d : Nat) (y : Reply), (v.postReply d y).s.actives = v.s.actives := by
      intro v d y
      unfold Work.postReply
      dsimp only
      split
      · unfold Work.writeReply
        dsimp only
        split
        · exact (Work.cause_keeps _ _ _).2.1
        · rfl
      · rfl
    exact h _ _ _

/-- Once its reply is made, a command is no longer among the started, and no other has joined them. -/
theorem Work.reply_actives (w : Work) (a : Active) (status reason p0 p1 : Nat) :
    ∀ b ∈ (w.reply a status reason p0 p1).s.actives, b ∈ w.s.actives ∧ a.same b = false := by
  have hs : ∀ (n ring : Nat) (v : Work) (b : Active), b ∈ (v.settleFences ring n).s.actives → b ∈ v.s.actives := by
    intro n ring
    induction n with
    | zero => exact fun v b hb => hb
    | succ n ih =>
      intro v b hb
      unfold Work.settleFences at hb
      split at hb
      · exact hb
      · have := ih _ b hb
        rw [Work.finish_actives] at this
        exact (List.mem_filter.1 this).1
  intro b hb
  have := hs _ _ _ b hb
  rw [Work.finish_actives, List.mem_filter] at this
  exact ⟨this.1, by simpa using this.2⟩

/-- The work just before the interrupt of a reply: the reply's bytes are written and its entry taken. -/
def Work.replied (w : Work) (s : State) (h : Hdr) (op c status reason p0 p1 : Nat) : Work :=
  let r := s.ring h.dev
  (({ w with s.actives := w.s.actives.filter (fun b => !(h.active s op c).same b) }).wrHost h.fn
    (r.cqBase + r.t % r.entries * entrySize w.s h.dev)
    (replyBytes (w.s.ctx h.fn).compat status reason op h.dev r.c h.tag p0 p1 w.s.now)).setRing h.dev
    { r.advance with t := wrapAdd 32 r.t 1 }

theorem canStart_bounds {s : State} {h : Hdr} (hs : canStart s h = true) : h.fn < 16 ∧ h.ring < 4 := by
  simp only [canStart, Bool.and_eq_true, decide_eq_true_eq] at hs
  exact ⟨hs.1.1.2, hs.1.2⟩

theorem Hdr.dev_div {h : Hdr} (hb : h.ring < 4) : h.dev / 4 = h.fn ∧ h.dev % 4 = h.ring := by
  simp only [Hdr.dev]
  omega

/-- The reply of a ring's only started packet, whatever its command did before, as long as it left the ring and the started
packets of it alone. -/
theorem Work.reply_form {w : Work} {s : State} {h : Hdr} {op : Nat} (hC : CanAnswer s h) (hstart : canStart s h = true)
    (c : Nat) (status reason p0 p1 : Nat) (hring : w.s.ring h.dev = (s.ring h.dev).advance)
    (hact : ∀ b ∈ w.s.actives, b.ring = h.dev → b = h.active s op c) :
    w.reply (h.active s op c) status reason p0 p1 =
      if h.irq then (w.replied s h op c status reason p0 p1).cause h.fn h.ring else w.replied s h op c status reason p0 p1 := by
  have hb := canStart_bounds hstart
  have hdev : (h.active s op c).ring = h.dev := rfl
  have hm : (h.active s op c).ring ≠ mgtRing := by
    rw [hdev]
    simp only [Hdr.dev, mgtRing]
    omega
  have hq := Hdr.dev_div hb.2
  have hsame : ∀ b ∈ w.s.actives, b.ring = (h.active s op c).ring → (h.active s op c).same b = true := by
    intro b hb hr
    rw [hact b hb hr]
    simp [Active.same]
  rw [Work.reply_eq w _ status reason p0 p1 hm (by rw [hdev, hring]; exact hC.none_waits)
    (by rw [hdev, hring]; exact hC.room) hsame]
  have hv0r : ({ w with s.actives := w.s.actives.filter (fun b => !(h.active s op c).same b) } : Work).s.ring h.dev =
      (s.ring h.dev).advance := hring
  unfold Work.writeReply
  simp only [hdev, hq, hv0r, Ring.advance_t, Ring.advance_cqBase, Ring.advance_entries]
  rfl

/-- What is left of the started packets. -/
theorem Work.replied_actives (w : Work) (s : State) (h : Hdr) (op c status reason p0 p1 : Nat)
    (hact : ∀ b ∈ w.s.actives, b.ring = h.dev → b = h.active s op c) :
    (w.replied s h op c status reason p0 p1).s.actives = w.s.actives.filter (fun a => decide (a.ring ≠ h.dev)) := by
  show w.s.actives.filter (fun b => !(h.active s op c).same b) = _
  refine List.filter_congr (fun b hb => ?_)
  by_cases hr : b.ring = h.dev
  · rw [hact b hb hr]
    simp [Active.same, Hdr.active]
  · simp only [hr, ne_eq, not_false_eq_true, decide_true, Bool.not_eq_true']
    simp only [Active.same, Bool.and_eq_false_iff, decide_eq_false_iff_not]
    left
    exact fun he => hr he.symm

theorem Work.replied_bytes_length (w : Work) (s : State) (h : Hdr) (op status reason p0 p1 : Nat) :
    (replyBytes (w.s.ctx h.fn).compat status reason op h.dev (s.ring h.dev).c h.tag p0 p1 w.s.now).length ≤ 32 := by
  unfold replyBytes
  split <;> simp [leBytes]

/-- The record of the reply. -/
theorem Work.reply_replied {w : Work} {s : State} {h : Hdr} {op : Nat} (hC : CanAnswer s h) (hstart : canStart s h = true)
    (c : Nat) (status reason p0 p1 : Nat) (hring : w.s.ring h.dev = (s.ring h.dev).advance)
    (hact : ∀ b ∈ w.s.actives, b.ring = h.dev → b = h.active s op c) (hstop : w.stop = none) :
    (w.reply (h.active s op c) status reason p0 p1).stop = none ∧
      Replied s ((w.reply (h.active s op c) status reason p0 p1).result s) h op status reason p0 p1 w.s.now := by
  have hq := Hdr.dev_div (canStart_bounds hstart).2
  have hlen := Work.replied_bytes_length w s h op status reason p0 p1
  have hra := Work.replied_actives w s h op c status reason p0 p1 hact
  rw [Work.reply_form hC hstart c status reason p0 p1 hring hact]
  have hk : ∀ (v : Work), v = (if h.irq then (w.replied s h op c status reason p0 p1).cause h.fn h.ring
      else w.replied s h op c status reason p0 p1) → v.s.rings = (w.replied s h op c status reason p0 p1).s.rings ∧
      v.s.actives = (w.replied s h op c status reason p0 p1).s.actives ∧ v.hw = (w.replied s h op c status reason p0 p1).hw ∧
      v.stop = w.stop ∧ v.s.ctxs = w.s.ctxs ∧ (h.irq = true → bit (v.s.fn h.fn).intStatus h.ring = true) := by
    intro v hv
    by_cases hi : h.irq = true
    · rw [if_pos hi] at hv
      have := Work.cause_keeps (w.replied s h op c status reason p0 p1) h.fn h.ring
      rw [hv]
      exact ⟨this.1, this.2.1, this.2.2.1, this.2.2.2.1, this.2.2.2.2, fun _ => Work.cause_bit _ _ _⟩
    · rw [if_neg hi] at hv
      rw [hv]
      exact ⟨rfl, rfl, rfl, rfl, rfl, fun h => absurd h hi⟩
  generalize hvv : (if h.irq then (w.replied s h op c status reason p0 p1).cause h.fn h.ring
      else w.replied s h op c status reason p0 p1) = v
  obtain ⟨k1, k2, k3, k4, k5, k6⟩ := hk v hvv.symm
  refine ⟨by rw [k4]; exact hstop, ?_, ?_, ?_, k6⟩
  · show (v.s.rings.get {} h.dev) = _
    rw [k1]
    exact Work.setRing_same _ _ _
  · intro b hb hbr
    change b ∈ v.s.actives at hb
    rw [k2, hra, List.mem_filter] at hb
    simp [hbr] at hb
  · intro i hi
    have hc : (v.result s).ctx h.fn = w.s.ctx h.fn := by
      show v.s.ctxs.get {} h.fn = _
      rw [k5]
      rfl
    have hes : entrySize (v.result s) h.dev = entrySize w.s h.dev := by
      simp only [entrySize, hq, hc]
    rw [hc] at hi ⊢
    rw [Work.result_hostByte, k3]
    simp only [entryAddr, hes]
    exact Work.wrHost_look _ s.host h.fn _ _ i hi (by omega)

/-- A byte of host memory outside a write. -/
theorem Work.wrHost_look_other (w : Work) (m : Table Byte) (f a : Nat) (vs : List Byte) (k : Nat)
    (hk : ∀ i, i < vs.length → k ≠ hostKey f (a + i)) : lookHost m (w.wrHost f a vs).hw k = lookHost m w.hw k := by
  refine lookHost_append_of_ne (fun c hc => ?_)
  simp only [List.mem_map, List.mem_reverse] at hc
  obtain ⟨p, hp, rfl⟩ := hc
  have hp1 := (List.of_mem_zip hp).1
  rw [List.mem_range] at hp1
  exact fun he => hk p.1 hp1 he.symm

/-- What the reply leaves alone. -/
theorem Work.reply_frame {w : Work} {s : State} {h : Hdr} {op : Nat} (hC : CanAnswer s h) (hstart : canStart s h = true)
    (c : Nat) (status reason p0 p1 : Nat) (hring : w.s.ring h.dev = (s.ring h.dev).advance)
    (hact : ∀ b ∈ w.s.actives, b.ring = h.dev → b = h.active s op c) :
    ReplyFrame s (w.result s) ((w.reply (h.active s op c) status reason p0 p1).result s) h := by
  have hq := Hdr.dev_div (canStart_bounds hstart).2
  have hlen := Work.replied_bytes_length w s h op status reason p0 p1
  have he := Work.reply_erase (ft := fun p => decide (p = .sent ∨ p = .fns ∨ p = .rings ∨ p = .actives ∨ p = .pcieTx ∨ p = .hw))
    (by simp) w (h.active s op c) status reason p0 p1
  have hra := Work.replied_actives w s h op c status reason p0 p1 hact
  have hf := Work.reply_form hC hstart c status reason p0 p1 hring hact
  rw [hf] at he ⊢
  generalize hvv : (if h.irq then (w.replied s h op c status reason p0 p1).cause h.fn h.ring
      else w.replied s h op c status reason p0 p1) = v at he ⊢
  have hv : v.s.rings = (w.replied s h op c status reason p0 p1).s.rings ∧
      v.s.actives = (w.replied s h op c status reason p0 p1).s.actives ∧ v.hw = (w.replied s h op c status reason p0 p1).hw ∧
      v.s.ctxs = w.s.ctxs ∧ (∀ f, f ≠ h.fn → v.s.fn f = w.s.fn f) ∧ (∃ xs, v.s.sent = w.s.sent ++ xs) := by
    rw [← hvv]
    split
    · have k := Work.cause_keeps (w.replied s h op c status reason p0 p1) h.fn h.ring
      exact ⟨k.1, k.2.1, k.2.2.1, k.2.2.2.2, fun f hne => Work.cause_other _ _ _ hne, Work.cause_sent _ _ _⟩
    · exact ⟨rfl, rfl, rfl, rfl, fun _ _ => rfl, [], by simp [Work.replied]⟩
  obtain ⟨k1, k2, k3, k5, k6, k7⟩ := hv
  refine ⟨?_, ?_, k6, ?_, ?_, k7⟩
  · unfold Work.result
    dsimp only
    rw [show v.s.free = w.s.free from Work.keeps_free he (by decide)]
    rw [show v.s.pins = w.s.pins from Work.keeps_pins he (by decide)]
    rw [show v.s.boot = w.s.boot from Work.keeps_boot he (by decide)]
    rw [show v.s.power = w.s.power from Work.keeps_power he (by decide)]
    rw [show v.s.time = w.s.time from Work.keeps_time he (by decide)]
    rw [show v.s.pad = w.s.pad from Work.keeps_pad he (by decide)]
    rw [show v.s.flash = w.s.flash from Work.keeps_flash he (by decide)]
    rw [show v.s.mgt = w.s.mgt from Work.keeps_mgt he (by decide)]
    rw [show v.s.sched = w.s.sched from Work.keeps_sched he (by decide)]
    rw [show v.s.progs = w.s.progs from Work.keeps_progs he (by decide)]
    rw [show v.s.latch = w.s.latch from Work.keeps_latch he (by decide)]
    rw [show v.s.vfEnable = w.s.vfEnable from Work.keeps_vfEnable he (by decide)]
    rw [show v.s.pcieRx = w.s.pcieRx from Work.keeps_pcieRx he (by decide)]
    rw [show v.s.ctxs = w.s.ctxs from Work.keeps_ctxs he (by decide)]
    rw [show v.s.regions = w.s.regions from Work.keeps_regions he (by decide)]
    rw [show v.s.hbm = w.s.hbm from Work.keeps_hbm he (by decide)]
    rw [show v.s.pkgBytes = w.s.pkgBytes from Work.keeps_pkgBytes he (by decide)]
    rw [show v.s.ports = w.s.ports from Work.keeps_ports he (by decide)]
    rw [show v.s.form = w.s.form from Work.keeps_form he (by decide)]
    rw [show v.s.bank = w.s.bank from Work.keeps_bank he (by decide)]
    rw [show v.s.jobs = w.s.jobs from Work.keeps_jobs he (by decide)]
    rw [show v.s.tiles = w.s.tiles from Work.keeps_tiles he (by decide)]
    rw [show v.s.phys = w.s.phys from Work.keeps_phys he (by decide)]
    rw [show v.s.arrivals = w.s.arrivals from Work.keeps_arrivals he (by decide)]
    rw [show v.s.lanes = w.s.lanes from Work.keeps_lanes he (by decide)]
    rw [show v.s.lanesNow = w.s.lanesNow from Work.keeps_lanesNow he (by decide)]
    rw [show v.s.windows = w.s.windows from Work.keeps_windows he (by decide)]
    rw [show v.s.tests = w.s.tests from Work.keeps_tests he (by decide)]
    rw [show v.s.retiring = w.s.retiring from Work.keeps_retiring he (by decide)]
    rw [show v.s.requests = w.s.requests from Work.keeps_requests he (by decide)]
    rw [show v.s.nextTag = w.s.nextTag from Work.keeps_nextTag he (by decide)]
    rw [show v.s.routeDrops = w.s.routeDrops from Work.keeps_routeDrops he (by decide)]
    rw [show v.s.resident = w.s.resident from Work.keeps_resident he (by decide)]
    rw [show v.s.partials = w.s.partials from Work.keeps_partials he (by decide)]
    rw [show v.s.journal = w.s.journal from Work.keeps_journal he (by decide)]
    rw [show v.s.flips = w.s.flips from Work.keeps_flips he (by decide)]
    rw [show v.s.retierList = w.s.retierList from Work.keeps_retierList he (by decide)]
    rw [show v.s.retierDone = w.s.retierDone from Work.keeps_retierDone he (by decide)]
    rw [show v.s.retierDue = w.s.retierDue from Work.keeps_retierDue he (by decide)]
    rw [show v.s.traceDesc = w.s.traceDesc from Work.keeps_traceDesc he (by decide)]
    rw [show v.s.traceNext = w.s.traceNext from Work.keeps_traceNext he (by decide)]
    rw [show v.s.idleNs = w.s.idleNs from Work.keeps_idleNs he (by decide)]
    rw [show v.mw = w.mw from Work.keeps_mw he (by decide), show v.sw = w.sw from Work.keeps_sw he (by decide)]
  · intro d hd
    show v.s.rings.get {} d = w.s.rings.get {} d
    rw [k1]
    exact Work.setRing_other _ _ _ hd
  · show v.s.actives = w.s.actives.filter _
    rw [k2, hra]
  · intro f a hne
    have hc : (v.result s).ctx h.fn = w.s.ctx h.fn := by
      show v.s.ctxs.get {} h.fn = _
      rw [k5]
      rfl
    have hes : entrySize (v.result s) h.dev = entrySize w.s h.dev := by
      simp only [entrySize, hq, hc]
    rw [Work.result_hostByte, Work.result_hostByte, k3]
    refine Work.wrHost_look_other _ s.host h.fn _ _ _ (fun i hi => ?_)
    have := hne i (by omega)
    simp only [entryAddr, hes] at this
    exact this

/-- A host command whose effect ends in the reply of its own packet. -/
theorem Accepts.answered {s : State} {h : Hdr} {need : Nat} {pf : Bool} {adm : Admit} (hA : Accepts s h need pf adm)
    (hC : CanAnswer s h) {op : Nat} {f : Active → Work → Work} {g : Work} {status reason p0 p1 : Nat}
    (hf : f (h.active s op h.fn) ((Work.start s).begin (h.active s op h.fn)) = g.reply (h.active s op h.fn) status reason p0 p1)
    (hring : g.s.ring h.dev = (s.ring h.dev).advance)
    (hact : ∀ b ∈ g.s.actives, b.ring = h.dev → b = h.active s op h.fn) (hstop : g.stop = none) :
    ∃ t, run s (fun w => w.command h op need pf adm f) = .next t ∧ t = (g.reply (h.active s op h.fn) status reason p0 p1).result s ∧
      Answered s (g.result s) t h op status reason p0 p1 := by
  have h1 := Work.reply_replied hC hA.start h.fn status reason p0 p1 hring hact hstop
  have h2 := Work.reply_frame hC hA.start h.fn status reason p0 p1 hring hact
  have hw : (Work.start s).command h op need pf adm f = g.reply (h.active s op h.fn) status reason p0 p1 := by
    rw [hA.command, hf]
  refine ⟨_, ?_, rfl, ⟨h1.2, h2⟩⟩
  rw [run_of_ok (f := fun w => w.command h op need pf adm f) (by rw [hw]; exact h1.1), hw]

/-- The same, for an effect that leaves the rings and the started packets alone: `u` is the state it makes. -/
theorem Accepts.answers {s u : State} {h : Hdr} {need : Nat} {pf : Bool} {adm : Admit} (hA : Accepts s h need pf adm)
    (hC : CanAnswer s h) {op : Nat} {f : Active → Work → Work} {g : Work} {status reason p0 p1 : Nat}
    (hf : f (h.active s op h.fn) ((Work.start s).begin (h.active s op h.fn)) = g.reply (h.active s op h.fn) status reason p0 p1)
    (hring : g.s.rings = ((Work.start s).begin (h.active s op h.fn)).s.rings)
    (hact : g.s.actives = s.actives ++ [h.active s op h.fn]) (hstop : g.stop = none)
    (hu : { g.result s with rings := s.rings, actives := s.actives } = u) :
    ∃ t, run s (fun w => w.command h op need pf adm f) = .next t ∧ t = (g.reply (h.active s op h.fn) status reason p0 p1).result s ∧
      Answered s u t h op status reason p0 p1 := by
  have hr : g.s.ring h.dev = (s.ring h.dev).advance := by
    show g.s.rings.get {} h.dev = _
    rw [hring]
    exact Work.begin_ring s h op h.fn
  have hb : ∀ b ∈ g.s.actives, b.ring = h.dev → b = h.active s op h.fn := by
    intro b hb hbr
    rw [hact, List.mem_append] at hb
    rcases hb with hb | hb
    · exact absurd hbr (hC.alone b hb)
    · simpa using hb
  obtain ⟨t, h1, h2, h3⟩ := hA.answered hC hf hr hb hstop
  refine ⟨t, h1, h2, ?_⟩
  subst hu
  refine ⟨h3.reply, ⟨h3.frame.rest, fun d hd => ?_, h3.frame.fns, ?_, h3.frame.host, h3.frame.sent⟩⟩
  · rw [h3.frame.rings d hd]
    show g.s.rings.get {} d = s.rings.get {} d
    rw [hring]
    exact Work.setRing_other _ _ _ hd
  · rw [h3.frame.others]
    show g.s.actives.filter _ = s.actives.filter _
    rw [hact, List.filter_append]
    simp [Hdr.active]

/-- The same, said of a command. -/
theorem Accepts.done {x : Host.Outcome State Fault Refusal} {s u : State} {h : Hdr} {need : Nat} {pf : Bool} {adm : Admit}
    (hA : Accepts s h need pf adm) (hC : CanAnswer s h) {op : Nat} {f : Active → Work → Work}
    (hx : x = run s (fun w => w.command h op need pf adm f)) {status reason p0 p1 : Nat} (g : Work)
    (hf : f (h.active s op h.fn) ((Work.start s).begin (h.active s op h.fn)) = g.reply (h.active s op h.fn) status reason p0 p1)
    (hring : g.s.rings = ((Work.start s).begin (h.active s op h.fn)).s.rings)
    (hact : g.s.actives = s.actives ++ [h.active s op h.fn]) (hstop : g.stop = none)
    (hu : { g.result s with rings := s.rings, actives := s.actives } = u) :
    ∃ t, x = .next t ∧ Answered s u t h op status reason p0 p1 := by
  obtain ⟨t, h1, _, h2⟩ := hA.answers hC hf hring hact hstop hu
  exact ⟨t, hx.trans h1, h2⟩

/-- The same, for an effect described by what holds of its state. -/
theorem Accepts.does {c : Instr} {s : State} {h : Hdr} {need : Nat} {pf : Bool} {adm : Admit} (hA : Accepts s h need pf adm)
    (hC : CanAnswer s h) {op : Nat} {f : Active → Work → Work} (hx : exec c s = run s (fun w => w.command h op need pf adm f))
    {status reason p0 p1 : Nat} {P : State → Prop} (g : Work)
    (hf : f (h.active s op h.fn) ((Work.start s).begin (h.active s op h.fn)) = g.reply (h.active s op h.fn) status reason p0 p1)
    (hring : g.s.rings = ((Work.start s).begin (h.active s op h.fn)).s.rings)
    (hact : g.s.actives = s.actives ++ [h.active s op h.fn]) (hstop : g.stop = none)
    (hP : P { g.result s with rings := s.rings, actives := s.actives }) : Answers c s h op status reason p0 p1 P := by
  obtain ⟨t, h1, h2⟩ := hA.done hC hx g hf hring hact hstop rfl
  exact ⟨_, t, h1, h2, hP⟩

/-- A command that only replies leaves its own state as it was. -/
theorem Work.begin_result (s : State) (a : Active) :
    { ((Work.start s).begin a).result s with rings := s.rings, actives := s.actives } = s := by
  cases s
  rfl

theorem State.withHost_with (x : State) (f a : Nat) (bs : List Byte) (r : Table Ring) (l : List Active) :
    { x.withHost f a bs with rings := r, actives := l } = ({ x with rings := r, actives := l } : State).withHost f a bs := rfl

/-- A host command whose own effect has a footprint `ft`, which leaves the rings, the started packets and the stop alone: it is
answered, what its effect makes of `s` differs from `s` in the footprint alone, and of that `P` holds. -/
theorem Accepts.acts {c : Instr} {s : State} {h : Hdr} {need : Nat} {pf : Bool} {adm : Admit} (hA : Accepts s h need pf adm)
    (hC : CanAnswer s h) {op : Nat} {f : Active → Work → Work} (hx : exec c s = run s (fun w => w.command h op need pf adm f))
    {status reason p0 p1 : Nat} {P : State → Prop} (g : Work) (ft : Part → Bool)
    (hf : f (h.active s op h.fn) ((Work.start s).begin (h.active s op h.fn)) = g.reply (h.active s op h.fn) status reason p0 p1)
    (he : g.erase ft = ((Work.start s).begin (h.active s op h.fn)).erase ft)
    (h1 : ft .rings = false ∧ ft .actives = false ∧ ft .stop = false)
    (hP : ∀ u, u = { g.result s with rings := s.rings, actives := s.actives } → u = State.mix ft u s → P u) :
    Answers c s h op status reason p0 p1 P := by
  refine hA.does hC hx g hf (Work.keeps_rings he h1.1) (Work.keeps_actives he h1.2.1) (Work.keeps_stop he h1.2.2) (hP _ rfl ?_)
  have hb : ((Work.start s).begin (h.active s op h.fn)).result s =
      { s with rings := ((Work.start s).begin (h.active s op h.fn)).s.rings, actives := s.actives ++ [h.active s op h.fn] } := by
    cases s
    rfl
  have hv : ((Work.start s).begin (h.active s op h.fn)).mw = [] ∧ ((Work.start s).begin (h.active s op h.fn)).hw = [] ∧
      ((Work.start s).begin (h.active s op h.fn)).sw = [] := ⟨rfl, rfl, rfl⟩
  generalize hw : (Work.start s).begin (h.active s op h.fn) = v at he hb hv
  have h_pending : (g.result s).pending = s.pending := rfl
  have h_sent : (g.result s).sent = if ft .sent then (g.result s).sent else s.sent := by
    cases hp : ft .sent with
    | true => rfl
    | false => exact (Work.keeps_sent he hp).trans (show (v.result s).sent = s.sent by rw [hb])
  have h_free : (g.result s).free = if ft .free then (g.result s).free else s.free := by
    cases hp : ft .free with
    | true => rfl
    | false => exact (Work.keeps_free he hp).trans (show (v.result s).free = s.free by rw [hb])
  have h_mem : (g.result s).mem = if ft .mw then (g.result s).mem else s.mem := by
    cases hp : ft .mw with
    | true => rfl
    | false => rw [show (g.result s).mem = g.mw.foldr _ s.mem from rfl, Work.keeps_mw he hp, hv.1]; rfl
  have h_poison : (g.result s).poison = if ft .mw then (g.result s).poison else s.poison := by
    cases hp : ft .mw with
    | true => rfl
    | false => rw [show (g.result s).poison = g.mw.foldr _ s.poison from rfl, Work.keeps_mw he hp, hv.1]; rfl
  have h_host : (g.result s).host = if ft .hw then (g.result s).host else s.host := by
    cases hp : ft .hw with
    | true => rfl
    | false => rw [show (g.result s).host = g.hw.foldr _ s.host from rfl, Work.keeps_hw he hp, hv.2.1]; rfl
  have h_pins : (g.result s).pins = if ft .pins then (g.result s).pins else s.pins := by
    cases hp : ft .pins with
    | true => rfl
    | false => exact (Work.keeps_pins he hp).trans (show (v.result s).pins = s.pins by rw [hb])
  have h_boot : (g.result s).boot = if ft .boot then (g.result s).boot else s.boot := by
    cases hp : ft .boot with
    | true => rfl
    | false => exact (Work.keeps_boot he hp).trans (show (v.result s).boot = s.boot by rw [hb])
  have h_power : (g.result s).power = if ft .power then (g.result s).power else s.power := by
    cases hp : ft .power with
    | true => rfl
    | false => exact (Work.keeps_power he hp).trans (show (v.result s).power = s.power by rw [hb])
  have h_time : (g.result s).time = if ft .time then (g.result s).time else s.time := by
    cases hp : ft .time with
    | true => rfl
    | false => exact (Work.keeps_time he hp).trans (show (v.result s).time = s.time by rw [hb])
  have h_pad : (g.result s).pad = if ft .pad then (g.result s).pad else s.pad := by
    cases hp : ft .pad with
    | true => rfl
    | false => exact (Work.keeps_pad he hp).trans (show (v.result s).pad = s.pad by rw [hb])
  have h_flash : (g.result s).flash = if ft .flash then (g.result s).flash else s.flash := by
    cases hp : ft .flash with
    | true => rfl
    | false => exact (Work.keeps_flash he hp).trans (show (v.result s).flash = s.flash by rw [hb])
  have h_mgt : (g.result s).mgt = if ft .mgt then (g.result s).mgt else s.mgt := by
    cases hp : ft .mgt with
    | true => rfl
    | false => exact (Work.keeps_mgt he hp).trans (show (v.result s).mgt = s.mgt by rw [hb])
  have h_sched : (g.result s).sched = if ft .sched then (g.result s).sched else s.sched := by
    cases hp : ft .sched with
    | true => rfl
    | false => exact (Work.keeps_sched he hp).trans (show (v.result s).sched = s.sched by rw [hb])
  have h_progs : (g.result s).progs = if ft .progs then (g.result s).progs else s.progs := by
    cases hp : ft .progs with
    | true => rfl
    | false => exact (Work.keeps_progs he hp).trans (show (v.result s).progs = s.progs by rw [hb])
  have h_space : (g.result s).space = if ft .sw then (g.result s).space else s.space := by
    cases hp : ft .sw with
    | true => rfl
    | false => rw [show (g.result s).space = g.sw.foldr _ s.space from rfl, Work.keeps_sw he hp, hv.2.2]; rfl
  have h_fns : (g.result s).fns = if ft .fns then (g.result s).fns else s.fns := by
    cases hp : ft .fns with
    | true => rfl
    | false => exact (Work.keeps_fns he hp).trans (show (v.result s).fns = s.fns by rw [hb])
  have h_latch : (g.result s).latch = if ft .latch then (g.result s).latch else s.latch := by
    cases hp : ft .latch with
    | true => rfl
    | false => exact (Work.keeps_latch he hp).trans (show (v.result s).latch = s.latch by rw [hb])
  have h_vfEnable : (g.result s).vfEnable = if ft .vfEnable then (g.result s).vfEnable else s.vfEnable := by
    cases hp : ft .vfEnable with
    | true => rfl
    | false => exact (Work.keeps_vfEnable he hp).trans (show (v.result s).vfEnable = s.vfEnable by rw [hb])
  have h_pcieRx : (g.result s).pcieRx = if ft .pcieRx then (g.result s).pcieRx else s.pcieRx := by
    cases hp : ft .pcieRx with
    | true => rfl
    | false => exact (Work.keeps_pcieRx he hp).trans (show (v.result s).pcieRx = s.pcieRx by rw [hb])
  have h_pcieTx : (g.result s).pcieTx = if ft .pcieTx then (g.result s).pcieTx else s.pcieTx := by
    cases hp : ft .pcieTx with
    | true => rfl
    | false => exact (Work.keeps_pcieTx he hp).trans (show (v.result s).pcieTx = s.pcieTx by rw [hb])
  have h_ctxs : (g.result s).ctxs = if ft .ctxs then (g.result s).ctxs else s.ctxs := by
    cases hp : ft .ctxs with
    | true => rfl
    | false => exact (Work.keeps_ctxs he hp).trans (show (v.result s).ctxs = s.ctxs by rw [hb])
  have h_regions : (g.result s).regions = if ft .regions then (g.result s).regions else s.regions := by
    cases hp : ft .regions with
    | true => rfl
    | false => exact (Work.keeps_regions he hp).trans (show (v.result s).regions = s.regions by rw [hb])
  have h_hbm : (g.result s).hbm = if ft .hbm then (g.result s).hbm else s.hbm := by
    cases hp : ft .hbm with
    | true => rfl
    | false => exact (Work.keeps_hbm he hp).trans (show (v.result s).hbm = s.hbm by rw [hb])
  have h_pkgBytes : (g.result s).pkgBytes = if ft .pkgBytes then (g.result s).pkgBytes else s.pkgBytes := by
    cases hp : ft .pkgBytes with
    | true => rfl
    | false => exact (Work.keeps_pkgBytes he hp).trans (show (v.result s).pkgBytes = s.pkgBytes by rw [hb])
  have h_ports : (g.result s).ports = if ft .ports then (g.result s).ports else s.ports := by
    cases hp : ft .ports with
    | true => rfl
    | false => exact (Work.keeps_ports he hp).trans (show (v.result s).ports = s.ports by rw [hb])
  have h_form : (g.result s).form = if ft .form then (g.result s).form else s.form := by
    cases hp : ft .form with
    | true => rfl
    | false => exact (Work.keeps_form he hp).trans (show (v.result s).form = s.form by rw [hb])
  have h_bank : (g.result s).bank = if ft .bank then (g.result s).bank else s.bank := by
    cases hp : ft .bank with
    | true => rfl
    | false => exact (Work.keeps_bank he hp).trans (show (v.result s).bank = s.bank by rw [hb])
  have h_jobs : (g.result s).jobs = if ft .jobs then (g.result s).jobs else s.jobs := by
    cases hp : ft .jobs with
    | true => rfl
    | false => exact (Work.keeps_jobs he hp).trans (show (v.result s).jobs = s.jobs by rw [hb])
  have h_tiles : (g.result s).tiles = if ft .tiles then (g.result s).tiles else s.tiles := by
    cases hp : ft .tiles with
    | true => rfl
    | false => exact (Work.keeps_tiles he hp).trans (show (v.result s).tiles = s.tiles by rw [hb])
  have h_phys : (g.result s).phys = if ft .phys then (g.result s).phys else s.phys := by
    cases hp : ft .phys with
    | true => rfl
    | false => exact (Work.keeps_phys he hp).trans (show (v.result s).phys = s.phys by rw [hb])
  have h_arrivals : (g.result s).arrivals = if ft .arrivals then (g.result s).arrivals else s.arrivals := by
    cases hp : ft .arrivals with
    | true => rfl
    | false => exact (Work.keeps_arrivals he hp).trans (show (v.result s).arrivals = s.arrivals by rw [hb])
  have h_lanes : (g.result s).lanes = if ft .lanes then (g.result s).lanes else s.lanes := by
    cases hp : ft .lanes with
    | true => rfl
    | false => exact (Work.keeps_lanes he hp).trans (show (v.result s).lanes = s.lanes by rw [hb])
  have h_lanesNow : (g.result s).lanesNow = if ft .lanesNow then (g.result s).lanesNow else s.lanesNow := by
    cases hp : ft .lanesNow with
    | true => rfl
    | false => exact (Work.keeps_lanesNow he hp).trans (show (v.result s).lanesNow = s.lanesNow by rw [hb])
  have h_windows : (g.result s).windows = if ft .windows then (g.result s).windows else s.windows := by
    cases hp : ft .windows with
    | true => rfl
    | false => exact (Work.keeps_windows he hp).trans (show (v.result s).windows = s.windows by rw [hb])
  have h_tests : (g.result s).tests = if ft .tests then (g.result s).tests else s.tests := by
    cases hp : ft .tests with
    | true => rfl
    | false => exact (Work.keeps_tests he hp).trans (show (v.result s).tests = s.tests by rw [hb])
  have h_retiring : (g.result s).retiring = if ft .retiring then (g.result s).retiring else s.retiring := by
    cases hp : ft .retiring with
    | true => rfl
    | false => exact (Work.keeps_retiring he hp).trans (show (v.result s).retiring = s.retiring by rw [hb])
  have h_requests : (g.result s).requests = if ft .requests then (g.result s).requests else s.requests := by
    cases hp : ft .requests with
    | true => rfl
    | false => exact (Work.keeps_requests he hp).trans (show (v.result s).requests = s.requests by rw [hb])
  have h_nextTag : (g.result s).nextTag = if ft .nextTag then (g.result s).nextTag else s.nextTag := by
    cases hp : ft .nextTag with
    | true => rfl
    | false => exact (Work.keeps_nextTag he hp).trans (show (v.result s).nextTag = s.nextTag by rw [hb])
  have h_routeDrops : (g.result s).routeDrops = if ft .routeDrops then (g.result s).routeDrops else s.routeDrops := by
    cases hp : ft .routeDrops with
    | true => rfl
    | false => exact (Work.keeps_routeDrops he hp).trans (show (v.result s).routeDrops = s.routeDrops by rw [hb])
  have h_resident : (g.result s).resident = if ft .resident then (g.result s).resident else s.resident := by
    cases hp : ft .resident with
    | true => rfl
    | false => exact (Work.keeps_resident he hp).trans (show (v.result s).resident = s.resident by rw [hb])
  have h_partials : (g.result s).partials = if ft .partials then (g.result s).partials else s.partials := by
    cases hp : ft .partials with
    | true => rfl
    | false => exact (Work.keeps_partials he hp).trans (show (v.result s).partials = s.partials by rw [hb])
  have h_journal : (g.result s).journal = if ft .journal then (g.result s).journal else s.journal := by
    cases hp : ft .journal with
    | true => rfl
    | false => exact (Work.keeps_journal he hp).trans (show (v.result s).journal = s.journal by rw [hb])
  have h_flips : (g.result s).flips = if ft .flips then (g.result s).flips else s.flips := by
    cases hp : ft .flips with
    | true => rfl
    | false => exact (Work.keeps_flips he hp).trans (show (v.result s).flips = s.flips by rw [hb])
  have h_retierList : (g.result s).retierList = if ft .retierList then (g.result s).retierList else s.retierList := by
    cases hp : ft .retierList with
    | true => rfl
    | false => exact (Work.keeps_retierList he hp).trans (show (v.result s).retierList = s.retierList by rw [hb])
  have h_retierDone : (g.result s).retierDone = if ft .retierDone then (g.result s).retierDone else s.retierDone := by
    cases hp : ft .retierDone with
    | true => rfl
    | false => exact (Work.keeps_retierDone he hp).trans (show (v.result s).retierDone = s.retierDone by rw [hb])
  have h_retierDue : (g.result s).retierDue = if ft .retierDue then (g.result s).retierDue else s.retierDue := by
    cases hp : ft .retierDue with
    | true => rfl
    | false => exact (Work.keeps_retierDue he hp).trans (show (v.result s).retierDue = s.retierDue by rw [hb])
  have h_traceDesc : (g.result s).traceDesc = if ft .traceDesc then (g.result s).traceDesc else s.traceDesc := by
    cases hp : ft .traceDesc with
    | true => rfl
    | false => exact (Work.keeps_traceDesc he hp).trans (show (v.result s).traceDesc = s.traceDesc by rw [hb])
  have h_traceNext : (g.result s).traceNext = if ft .traceNext then (g.result s).traceNext else s.traceNext := by
    cases hp : ft .traceNext with
    | true => rfl
    | false => exact (Work.keeps_traceNext he hp).trans (show (v.result s).traceNext = s.traceNext by rw [hb])
  have h_idleNs : (g.result s).idleNs = if ft .idleNs then (g.result s).idleNs else s.idleNs := by
    cases hp : ft .idleNs with
    | true => rfl
    | false => exact (Work.keeps_idleNs he hp).trans (show (v.result s).idleNs = s.idleNs by rw [hb])
  generalize g.result s = r at *
  cases r
  dsimp only at *
  unfold State.mix
  dsimp only
  rw [ite_self, ite_self]
  congr

end Sys2Proof.Machine
end

