-- ==== Sys2Proof/Laws/Mem.lean ====
section
/-! SUPPORT. What bytes read as once a command has written them, in package memory and in a program's writable space. -/

namespace Sys2Proof.Machine

/-- Two addresses of one window name one byte only if they are the same address (R324). -/
theorem normAddr_inj {a b : Nat} (hs : (spreadBase ≤ a ∧ a < spreadEnd) ↔ (spreadBase ≤ b ∧ b < spreadEnd)) (h : normAddr a = normAddr b) : a = b := by
  unfold normAddr at h
  by_cases hb : spreadBase ≤ b ∧ b < spreadEnd
  · rw [if_pos hb, if_pos (hs.2 hb)] at h
    have h1 := hs.2 hb
    generalize hx : a - spreadBase = x at h
    generalize hy : b - spreadBase = y at h
    have hlx : x / 4096 / 12 < 16777216 := by
      have : x < 0xBD00000000 := by simp only [spreadBase, spreadEnd] at *; omega
      omega
    have hly : y / 4096 / 12 < 16777216 := by
      have : y < 0xBD00000000 := by simp only [spreadBase, spreadEnd] at *; omega
      omega
    have hxy : x = y := by
      simp only [stackBase] at h
      omega
    simp only [spreadBase] at *
    omega
  · rw [if_neg hb, if_neg (fun hh => hb (hs.1 hh))] at h
    exact h

/-- A range inside one 4 KiB page is one access. -/
theorem cutsOf_one {a n : Nat} (h1 : 1 ≤ n) (h2 : a % 4096 + n ≤ 4096) : cutsOf a a n = [(0, n)] := by
  have hk : Nat.min n (Nat.min (4096 - (a + 0) % 4096) (4096 - (a + 0) % 4096)) = n := by
    simp only [Nat.add_zero, Nat.min_self]
    exact Nat.min_eq_left (by omega)
  obtain ⟨m, rfl⟩ : ∃ m, n = m + 1 := ⟨n - 1, by omega⟩
  unfold cutsOf
  rw [cuts]
  · rw [hk, Nat.sub_self]
    cases (m + 1) / 2048 + 3 <;> rfl
  · omega

/-- The board range of a context range inside one page. -/
theorem Work.spans_one (w : Work) (c : Nat) {a n t : Nat} {write : Bool} {ue : Option Bool} (h1 : 1 ≤ n) (h2 : a % 4096 + n ≤ 4096)
    (ht : w.translate c a n write ue = .ok t) : w.spans c a a n write ue = ([(0, n, t)], none) := by
  unfold Work.spans
  rw [cutsOf_one h1 h2]
  simp only [List.foldl_cons, List.foldl_nil, Nat.add_zero, ht, List.nil_append]

/-- The same for a translation that fails. -/
theorem Work.spans_fails (w : Work) (c : Nat) {a n : Nat} {e : WalkErr} {write : Bool} {ue : Option Bool} (h1 : 1 ≤ n)
    (h2 : a % 4096 + n ≤ 4096) (ht : w.translate c a n write ue = .error e) : w.spans c a a n write ue = ([], some e) := by
  unfold Work.spans
  rw [cutsOf_one h1 h2]
  simp only [List.foldl_cons, List.foldl_nil, Nat.add_zero, ht]

/-- A byte that a write has stored. -/
theorem Work.rd_wrBytesP (a : Nat) (p : Bool) (vs : List Byte) : ∀ (w : Work) (k : Nat),
    (∀ i, i < vs.length → normAddr (a + i) ≠ k) → lookMem w.s.mem (w.wrBytesP a p vs).mw k = lookMem w.s.mem w.mw k := by
  induction vs generalizing a with
  | nil => intro w k _; rfl
  | cons v vs ih =>
    intro w k h
    have h1 := ih (a + 1) (w.wrP a v p) k (fun i hi => by
      have := h (i + 1) (by simpa using hi)
      rwa [show a + (i + 1) = a + 1 + i by omega] at this)
    refine Eq.trans h1 ?_
    have h0 := h 0 (by simp)
    show (if k = normAddr a then v else lookMem w.s.mem w.mw k) = _
    rw [if_neg (fun he => h0 (by rw [Nat.add_zero]; exact he.symm))]

/-- The bytes that a write has stored. -/
theorem Work.rd_wrBytesP_same (p : Bool) (vs : List Byte) : ∀ (a : Nat) (w : Work) (i : Nat), i < vs.length →
    (∀ i j, i < vs.length → j < vs.length → normAddr (a + i) = normAddr (a + j) → i = j) →
    lookMem w.s.mem (w.wrBytesP a p vs).mw (normAddr (a + i)) = vs.getD i 0 := by
  induction vs with
  | nil => intro a w i hi; exact absurd hi (Nat.not_lt_zero _)
  | cons v vs ih =>
    intro a w i hi hinj
    cases i with
    | zero =>
      refine Eq.trans (Work.rd_wrBytesP (a + 1) p vs (w.wrP a v p) (normAddr (a + 0)) (fun j hj he => ?_)) ?_
      · have := hinj (j + 1) 0 (by simpa using hj) (by simp) (by rw [show a + (j + 1) = a + 1 + j by omega]; exact he)
        exact absurd this (by simp)
      · show (if normAddr (a + 0) = normAddr a then v else _) = v
        rw [if_pos (by rw [Nat.add_zero])]
    | succ i =>
      have := ih (a + 1) (w.wrP a v p) i (by simpa using hi) (fun x y hx hy he => by
        have := hinj (x + 1) (y + 1) (by simpa using hx) (by simpa using hy) (by
          rw [show a + (x + 1) = a + 1 + x by omega, show a + (y + 1) = a + 1 + y by omega]
          exact he)
        omega)
      rw [show a + (i + 1) = a + 1 + i by omega]
      exact this

/-- What a write leaves of the working memory list. -/
theorem Work.wrBytesP_mw (p : Bool) (vs : List Byte) : ∀ (a : Nat) (w : Work), ∃ l, (w.wrBytesP a p vs).mw = l ++ w.mw := by
  induction vs with
  | nil => exact fun a w => ⟨[], rfl⟩
  | cons v vs ih =>
    intro a w
    obtain ⟨l, hl⟩ := ih (a + 1) (w.wrP a v p)
    exact ⟨l ++ [.byte (normAddr a) v p], by rw [show (w.wrBytesP a p (v :: vs)) = (w.wrP a v p).wrBytesP (a + 1) p vs from rfl, hl]; simp [Work.wrP]⟩

/-- The bytes of the state after a command whose only memory write is one stretch. -/
theorem Work.result_stored {w : Work} {s : State} (hs : s.memOk = true) {a : Nat} {p : Bool} {vs : List Byte}
    (hm : w.mw = ((Work.start s).wrBytesP a p vs).mw) :
    (∀ i, i < vs.length → (∀ i j, i < vs.length → j < vs.length → normAddr (a + i) = normAddr (a + j) → i = j) →
      (w.result s).byteAt (a + i) = vs.getD i 0) ∧
    ∀ x, (∀ i, i < vs.length → normAddr (a + i) ≠ normAddr x) → (w.result s).byteAt x = s.byteAt x := by
  simp only [State.memOk, Bool.and_eq_true] at hs
  have h : ∀ x, (w.result s).byteAt x = lookMem s.mem ((Work.start s).wrBytesP a p vs).mw (normAddr x) := by
    intro x
    simp only [State.byteAt, Work.result, hm]
    exact lookMem_eq hs.1.1.1 _ _
  refine ⟨fun i hi hinj => ?_, fun x hx => ?_⟩
  · rw [h]
    have := Work.rd_wrBytesP_same p vs a (Work.start s) i hi hinj
    rwa [Work.start_s] at this
  · rw [h]
    have := Work.rd_wrBytesP a p vs (Work.start s) (normAddr x) hx
    rw [Work.start_s] at this
    rw [this]
    rfl

/-- A command that writes no memory leaves every byte. -/
theorem Work.result_unstored {w : Work} {s : State} (hm : w.mw = []) (x : Nat) : (w.result s).byteAt x = s.byteAt x := by
  unfold State.byteAt
  have h : (w.result s).mem = w.mw.foldr (fun op m => op.apply m) s.mem := rfl
  rw [h, hm, List.foldr_nil]

/-- Bytes under changes at the keys `f 0`, `f 1`, … in their order. -/
theorem lookMem_keys (m : Table Byte) (f : Nat → Nat) (bs : List Byte) :
    (∀ i, i < bs.length → (∀ i j, f i = f j → i = j) →
      lookMem m ((((List.range bs.length).zip bs).reverse).map (fun p => MemOp.byte (f p.1) p.2 false)) (f i) = bs.getD i 0) ∧
    ∀ k, (∀ i, i < bs.length → f i ≠ k) →
      lookMem m ((((List.range bs.length).zip bs).reverse).map (fun p => MemOp.byte (f p.1) p.2 false)) k = m.get 0 k := by
  have hl : ∀ (xs : List (Nat × Byte)) (k : Nat),
      lookMem m (xs.map (fun p => MemOp.byte (f p.1) p.2 false)) k =
        match xs.find? (fun p => decide (f p.1 = k)) with | some p => p.2 | none => m.get 0 k := by
    intro xs k
    induction xs with
    | nil => rfl
    | cons x xs ih =>
      rw [List.map_cons, lookMem, List.find?_cons]
      by_cases hk : k = f x.1
      · rw [if_pos hk, decide_eq_true hk.symm]
      · rw [if_neg hk, decide_eq_false (fun he => hk he.symm)]
        exact ih
  have hmem : ∀ (c : Nat × Byte), c ∈ ((List.range bs.length).zip bs).reverse ↔ c.1 < bs.length ∧ c.2 = bs.getD c.1 0 := by
    intro c
    simp only [List.mem_reverse]
    constructor
    · intro hp
      obtain ⟨j, hj, he⟩ := List.mem_iff_getElem.1 hp
      simp only [List.length_zip, List.length_range, Nat.min_self] at hj
      rw [← he]
      simp [List.getElem_zip, hj]
    · rintro ⟨hj, he⟩
      refine List.mem_iff_getElem.2 ⟨c.1, by simp [hj], ?_⟩
      rw [List.getElem_zip]
      refine Prod.ext (by simp) ?_
      rw [he]
      simp [hj]
  refine ⟨fun i hi hf => ?_, fun k hk => ?_⟩
  · rw [hl]
    cases hx : ((List.range bs.length).zip bs).reverse.find? (fun p => decide (f p.1 = f i)) with
    | none =>
      have := List.find?_eq_none.1 hx (i, bs.getD i 0) ((hmem _).2 ⟨hi, rfl⟩)
      simp at this
    | some p =>
      have h1 := List.find?_some hx
      have h2 := (hmem _).1 (List.mem_of_find?_eq_some hx)
      dsimp only
      rw [h2.2, hf p.1 i (of_decide_eq_true h1)]
  · rw [hl]
    cases hx : ((List.range bs.length).zip bs).reverse.find? (fun p => decide (f p.1 = k)) with
    | none => rfl
    | some p =>
      have h1 := List.find?_some hx
      have h2 := (hmem _).1 (List.mem_of_find?_eq_some hx)
      exact absurd (of_decide_eq_true h1) (hk p.1 h2.1)

theorem spaceKey_inj {id off i j : Nat} (h : spaceKey id (off + i) = spaceKey id (off + j)) : i = j := by
  unfold spaceKey at h
  generalize id * 2 ^ 32 = b at h
  omega

/-- The bytes of a program's writable space after a command whose only write there is one stretch. -/
theorem Work.result_spaced {w : Work} {s : State} (hs : s.memOk = true) {id off : Nat} {bs : List Byte}
    (hm : w.sw = ((Work.start s).putSpace id off bs).sw) :
    (∀ i, i < bs.length → (w.result s).space.get 0 (spaceKey id (off + i)) = bs.getD i 0) ∧
    ∀ k, (∀ i, i < bs.length → spaceKey id (off + i) ≠ k) → (w.result s).space.get 0 k = s.space.get 0 k := by
  simp only [State.memOk, Bool.and_eq_true] at hs
  have hk := lookMem_keys s.space (fun i => spaceKey id (off + i)) bs
  have hsw : ((Work.start s).putSpace id off bs).sw =
      (((List.range bs.length).zip bs).reverse).map (fun p => MemOp.byte (spaceKey id (off + p.1)) p.2 false) := List.append_nil _
  have h : ∀ k, (w.result s).space.get 0 k =
      lookMem s.space ((((List.range bs.length).zip bs).reverse).map (fun p => MemOp.byte (spaceKey id (off + p.1)) p.2 false)) k := by
    intro k
    have hw : (w.result s).space = w.sw.foldr (fun op m => op.apply m) s.space := rfl
    rw [hw, hm, hsw]
    exact lookMem_eq hs.2 _ _
  refine ⟨fun i hi => ?_, fun k hne => ?_⟩
  · rw [h]
    exact hk.1 i hi (fun _ _ he => spaceKey_inj he)
  · rw [h]
    exact hk.2 k hne

end Sys2Proof.Machine
end

