-- ==== Sys2Proof/Laws/Sched.lean ====
section
/-! SUPPORT. What the scheduler's operations do to threads, cores and the ready list. -/

namespace Sys2Proof.Machine

@[simp] theorem Work.setThread_ready (w : Work) (i : Nat) (v : Thread) : (w.setThread i v).s.sched.ready = w.s.sched.ready := rfl
@[simp] theorem Work.setThread_pendingEv (w : Work) (i : Nat) (v : Thread) :
    (w.setThread i v).s.sched.pendingEv = w.s.sched.pendingEv := rfl
@[simp] theorem Work.setCore_ready (w : Work) (i : Nat) (v : HubCore) : (w.setCore i v).s.sched.ready = w.s.sched.ready := rfl
@[simp] theorem Work.setCore_pendingEv (w : Work) (i : Nat) (v : HubCore) :
    (w.setCore i v).s.sched.pendingEv = w.s.sched.pendingEv := rfl

/-- Giving back a thread: the core is free, the thread keeps its state, nothing else of the scheduler changes. -/
theorem Work.giveBack_does (w : Work) (core : Nat) :
    ((w.giveBack core).s.core core).thread = none ∧
      (∀ k, ((w.giveBack core).s.core k).asking = (w.s.core k).asking) ∧
      (w.giveBack core).s.sched.ready = w.s.sched.ready ∧
      (w.giveBack core).s.sched.pendingEv = w.s.sched.pendingEv ∧
      (∀ k, k ≠ core → (w.giveBack core).s.core k = w.s.core k) ∧
      (∀ m, (w.s.core core).thread ≠ some m → (w.giveBack core).s.thread m = w.s.thread m) ∧
      (∀ m, ((w.giveBack core).s.thread m).st = (w.s.thread m).st) := by
  unfold Work.giveBack
  dsimp only
  cases h : (w.s.core core).thread with
  | none => exact ⟨h, fun _ => rfl, rfl, rfl, fun _ _ => rfl, fun _ _ => rfl, fun _ => rfl⟩
  | some t =>
    refine ⟨by simp, fun k => ?_, rfl, rfl, fun k hk => ?_, fun m hm => ?_, fun m => ?_⟩
    · rw [Work.setCore_get]
      by_cases hk : k = core
      · rw [if_pos hk, hk]
      · rw [if_neg hk]; rfl
    · rw [Work.setCore_other _ _ _ hk]; rfl
    · rw [Work.setCore_thread, Work.setThread_other]
      exact fun he => hm (by rw [he])
    · rw [Work.setCore_thread, Work.setThread_get]
      by_cases hm : m = t
      · rw [if_pos hm, hm]
      · rw [if_neg hm]

/-- A PREEMPT changes no thread's state, no ready list, and no core's asking or thread. -/
theorem Work.raise_does (w : Work) (t : Nat) :
    (w.raise t).s.sched.ready = w.s.sched.ready ∧ (w.raise t).s.sched.pendingEv = w.s.sched.pendingEv ∧
      (∀ m, ((w.raise t).s.thread m).st = (w.s.thread m).st) ∧
      (∀ k, ((w.raise t).s.core k).thread = (w.s.core k).thread ∧ ((w.raise t).s.core k).asking = (w.s.core k).asking) ∧
      (w.raise t).s.sent = w.s.sent := by
  unfold Work.raise
  dsimp only
  split
  · exact ⟨rfl, rfl, fun _ => rfl, fun _ => ⟨rfl, rfl⟩, rfl⟩
  · split
    · exact ⟨rfl, rfl, fun _ => rfl, fun _ => ⟨rfl, rfl⟩, rfl⟩
    · rename_i j _
      generalize hv : (w.setCore j { w.s.core j with preempt := true }).setThread t { w.s.thread t with raised := some j } = v
      have h1 : ∀ m, (v.s.thread m).st = (w.s.thread m).st := by
        intro m
        rw [← hv, Work.setThread_get]
        by_cases hm : m = t
        · rw [if_pos hm, hm]
        · rw [if_neg hm]
          rfl
      have h2 : ∀ k, (v.s.core k).thread = (w.s.core k).thread ∧ (v.s.core k).asking = (w.s.core k).asking := by
        intro k
        rw [← hv, Work.setThread_core, Work.setCore_get]
        by_cases hk : k = j
        · rw [if_pos hk, hk]
          exact ⟨rfl, rfl⟩
        · rw [if_neg hk]
          exact ⟨rfl, rfl⟩
      have h3 : v.s.sched.ready = w.s.sched.ready ∧ v.s.sched.pendingEv = w.s.sched.pendingEv ∧ v.s.sent = w.s.sent := by
        rw [← hv]
        exact ⟨rfl, rfl, rfl⟩
      exact ⟨h3.1, h3.2.1, h1, h2, h3.2.2⟩

/-- A thread wakes while no core asks: it joins the tail of its ready list and stays there. -/
theorem Work.wake_one (w : Work) (t : Nat) (hno : ∀ k, (w.s.core k).asking = false) :
    ((w.wake [t]).s.thread t).st = .ready ∧ (w.wake [t]).s.sched.ready = w.s.sched.ready.filter (fun x => x ≠ t) ++ [t] ∧
      (w.wake [t]).s.sched.pendingEv = w.s.sched.pendingEv ∧
      (∀ k, ((w.wake [t]).s.core k).thread = (w.s.core k).thread) ∧ (w.wake [t]).s.sent = w.s.sent := by
  have hw : w.wake [t] = (w.enqueue t).raise t := by
    show ((w.enqueue t).place t) = _
    unfold Work.place
    have hst : ((w.enqueue t).s.thread t).st = .ready := by
      show ((w.setThread t _).s.thread t).st = _
      rw [Work.setThread_same]
    dsimp only
    rw [if_neg (by simp [hst])]
    have hf : (List.range 12).filter (fun k => ((w.enqueue t).s.core k).waits && eligible ((w.enqueue t).s.thread t) k) = [] := by
      rw [List.filter_eq_nil_iff]
      intro k _
      have : ((w.enqueue t).s.core k).waits = false := by
        have := hno k
        show HubCore.waits (w.s.core k) = false
        simp [HubCore.waits, this]
      simp [this]
    rw [hf]
    rfl
  rw [hw]
  obtain ⟨h1, h2, h3, h4, h5⟩ := Work.raise_does (w.enqueue t) t
  refine ⟨?_, h1, h2, fun k => (h4 k).1, h5⟩
  rw [h3]
  show ((w.setThread t _).s.thread t).st = _
  rw [Work.setThread_same]

/-- A thread assigned to a core. -/
theorem Work.assign_does (w : Work) (t core : Nat) :
    ((w.assign t core).s.core core).thread = some t ∧
      ((w.assign t core).s.core core).dispatchReg = dispatchWord w.s t core ∧
      ((w.assign t core).s.thread t).st = .running ∧
      (w.assign t core).s.sched.ready = w.s.sched.ready.filter (fun x => x ≠ t) ∧
      (w.assign t core).s.sent = w.s.sent ++ [.value (16 + core) (dispatchWord w.s t core)] := by
  unfold Work.assign
  dsimp only
  refine ⟨?_, ?_, ?_, rfl, rfl⟩
  · show ((Work.setCore _ _ _).s.core core).thread = _
    rw [Work.setCore_same]
  · show ((Work.setCore _ _ _).s.core core).dispatchReg = _
    rw [Work.setCore_same]
  · show ((Work.setThread _ _ _).s.thread t).st = _
    rw [Work.setThread_same]

/-- A thread placed on a core, or not, changes no pending bit. -/
theorem Work.place_pendingEv (w : Work) (t : Nat) : (w.place t).s.sched.pendingEv = w.s.sched.pendingEv := by
  unfold Work.place
  dsimp only
  split
  · rfl
  · split
    · rfl
    · split
      · rfl
      · exact (Work.raise_does w t).2.1

/-- Waking threads changes no pending bit. -/
theorem Work.wake_pendingEv (w : Work) (ts : List Nat) : (w.wake ts).s.sched.pendingEv = w.s.sched.pendingEv := by
  have h1 : ∀ (l : List Nat) (w : Work), (w.each l Work.enqueue).s.sched.pendingEv = w.s.sched.pendingEv := by
    intro l
    induction l with
    | nil => exact fun _ => rfl
    | cons a l ih => exact fun w => ih (w.enqueue a)
  have h2 : ∀ (l : List Nat) (w : Work), (w.each l Work.place).s.sched.pendingEv = w.s.sched.pendingEv := by
    intro l
    induction l with
    | nil => exact fun _ => rfl
    | cons a l ih => exact fun w => (ih (w.place a)).trans (Work.place_pendingEv w a)
  exact (h2 _ _).trans (h1 _ _)

/-- What the scheduler's choice reads of the state (R421). -/
theorem select_congr {s s' : State} (core : Nat) (hr : s'.sched.ready = s.sched.ready) (hn : s'.now = s.now)
    (ha : s'.sched.affinityUs = s.sched.affinityUs)
    (ht : ∀ m, (s'.thread m).prio = (s.thread m).prio ∧ (s'.thread m).elig = (s.thread m).elig ∧
      (s'.thread m).lastCore = (s.thread m).lastCore ∧ (s'.thread m).lastEnd = (s.thread m).lastEnd) :
    select s' core = select s core ∧ ∀ m, dispatchWord s' m core = dispatchWord s m core := by
  have h1 : ∀ m k, eligible (s'.thread m) k = eligible (s.thread m) k := by
    intro m k
    simp only [eligible, (ht m).2.1]
  have h2 : ∀ m k, warm s' (s'.thread m) k = warm s (s.thread m) k := by
    intro m k
    simp only [warm, (ht m).2.2.1, (ht m).2.2.2, hn, ha]
  have h3 : ∀ ts, topPrio s' ts = topPrio s ts := by
    intro ts
    simp only [topPrio, (fun m => (ht m).1)]
  constructor
  · simp only [select, hr, h1, h2, h3, (fun m => (ht m).1)]
  · intro m
    simp only [dispatchWord, h2, (ht m).1]

/-- What forgetting the PREEMPTs raised on a core leaves as it was. -/
theorem Work.forget_does (ths : List (Nat × Thread)) : ∀ (w : Work),
    let v := w.each ths (fun w p => w.setThread p.1 { w.s.thread p.1 with raised := none })
    v.s.sched.ready = w.s.sched.ready ∧ (∀ k, v.s.core k = w.s.core k) ∧ v.s.sent = w.s.sent ∧ v.s.now = w.s.now ∧
      v.s.sched.affinityUs = w.s.sched.affinityUs ∧
      ∀ m, (v.s.thread m).prio = (w.s.thread m).prio ∧ (v.s.thread m).elig = (w.s.thread m).elig ∧
        (v.s.thread m).lastCore = (w.s.thread m).lastCore ∧ (v.s.thread m).lastEnd = (w.s.thread m).lastEnd := by
  induction ths with
  | nil => exact fun w => ⟨rfl, fun _ => rfl, rfl, rfl, rfl, fun _ => ⟨rfl, rfl, rfl, rfl⟩⟩
  | cons p ths ih =>
    intro w
    obtain ⟨h1, h2, h3, h4, h5, h6⟩ := ih (w.setThread p.1 { w.s.thread p.1 with raised := none })
    refine ⟨h1, h2, h3, h4, h5, fun m => ?_⟩
    have := h6 m
    rw [Work.setThread_get] at this
    by_cases hm : m = p.1
    · rw [if_pos hm] at this
      rw [hm] at this ⊢
      exact this
    · rw [if_neg hm] at this
      exact this

/-- A core that asks gets the scheduler's choice, or waits. -/
theorem Work.ask_does (w : Work) (core : Nat) :
    (select w.s core = none → (w.ask core).s.core core = { w.s.core core with asking := true } ∧
      (w.ask core).s.sched.ready = w.s.sched.ready ∧ (w.ask core).s.sent = w.s.sent) ∧
    (∀ t, select w.s core = some t → ((w.ask core).s.core core).thread = some t ∧
      ((w.ask core).s.core core).dispatchReg = dispatchWord w.s t core ∧ ((w.ask core).s.thread t).st = .running ∧
      (w.ask core).s.sched.ready = w.s.sched.ready.filter (fun x => x ≠ t) ∧
      (w.ask core).s.sent = w.s.sent ++ [.value (16 + core) (dispatchWord w.s t core)]) := by
  unfold Work.ask
  dsimp only
  have hf := Work.forget_does (w.s.sched.threads.filter (fun p => p.2.raised = some core)) w
  dsimp only at hf
  generalize w.each (w.s.sched.threads.filter (fun p => p.2.raised = some core)) _ = v at hf
  obtain ⟨h1, h2, h3, h4, h5, h6⟩ := hf
  have hc := select_congr core h1 h4 h5 h6
  rw [hc.1]
  constructor
  · intro h
    rw [h]
    refine ⟨?_, h1, h3⟩
    dsimp only
    rw [Work.setCore_same, h2]
  · intro t h
    rw [h]
    dsimp only
    have ha := Work.assign_does v t core
    rw [hc.2, h1, h3] at ha
    exact ha

end Sys2Proof.Machine
end

