-- ==== Sys2Proof/Tests/Slice0.lean ====
section
/-! SUPPORT. Tests: ill-formed commands that the well-formedness check refuses; and for every statement with hypotheses concrete
states and operands that meet them, clause by clause, at the bounds where a clause has some. -/

namespace Sys2Proof.Tests

open Sys2Proof Sys2Proof.Machine

/-! ### Well-formed commands: one ill-formed term for each check (R10, R32, R354, R356, R389, R451, R483, R517) -/

/-- A header of context 0 in the PF's first ring. -/
def h0 : Hdr := { fn := 0, ring := 0, irq := true, ordered := false, length := 4, context := 0, tag := 7 }

/-- A header of context 1 in the first ring of VF 1. -/
def h1 : Hdr := { h0 with fn := 1, context := 1 }

/-- A management request without authorization. -/
def m0 : MgtHdr := { reqId := 1, raw := [], auth := none }

/-- A packet to package (0, 0, 0). -/
def p0 : Parcel :=
  { vc := 0, tag := { turn := 0, attempt := 0, untagged := true, job := 0 }
    pkt := { type := 1, len := 4, sig := false, poison := false, detour := false, holdAxis := 0, hold := 0, dst := {}, addr := 0
             sigTally := 0, sigTile := 0, src := {}, tag := 0, data := [1#8, 2#8, 3#8, 4#8] } }

/-- A request of four bytes to a stack. -/
def q0 : HbmReq := { stack := 0, off := 0, len := 32, write := false, data := [], src := 0, err := .none, lane := 0 }

theorem test_wf_accepts : [Instr.nop h0, .nop h1, .mgtStatus m0, .pktWrite p0, .sectorRequest q0,
    .nop { h0 with fn := 15, ring := 3, length := 255, context := 15, tag := 2 ^ 32 - 1 }, .observationEnd (.tile 143),
    .lost { x := 15, y := 15, z := 15 } 0 {}, .hostReadData 64 0 none []].all Instr.wf = true := by decide
theorem test_wf_refuses_headers : [Instr.nop { h0 with fn := 16 }, .nop { h0 with ring := 4 }, .nop { h0 with length := 256 },
    .nop { h0 with context := 16 }, .nop { h0 with tag := 2 ^ 32 }, .mgtStatus { m0 with reqId := 2 ^ 32 },
    .mgtStatus { m0 with auth := some [] }].any Instr.wf = false := by decide
theorem test_wf_refuses_units : [Instr.observationEnd (.tile 144), .observationEnd (.spinner 12), .observationEnd (.update 12),
    .lost { x := 16 } 0 {}, .lost { y := 16 } 0 {}, .lost { z := 16 } 0 {}].any Instr.wf = false := by decide
theorem test_wf_refuses_packets : [Instr.pktWrite { p0 with vc := 5 }, .pktWrite { p0 with pkt.type := 16 },
    .pktWrite { p0 with pkt.len := 225 }, .pktWrite { p0 with pkt.dst.x := 16 }, .pktWrite { p0 with pkt.src.x := 16 },
    .pktWrite { p0 with pkt.addr := 2 ^ 44 }, .pktWrite { p0 with pkt.tag := 2 ^ 16 }].any Instr.wf = false := by decide
theorem test_wf_refuses_numbers : [Instr.ctxSegAllocStack h0 0 false 12 0, .sqDoorbell 16 0 0, .sqDoorbell 0 4 0,
    .coreDispatch 12, .seqNop 16 0, .seqNop 0 132, .ready 0 4096 0 0, .ready 0 0 (2 ^ 32) 0, .ready 0 0 0 256,
    .missingList 65536 [], .publishComplete 0 4 0 [], .demandWake 12, .windowEnd (some 12), .ackStall 6, .hbmCalibration 12 0,
    .hostReadData 65 0 none [], .flr 16].any Instr.wf = false := by decide
theorem test_wf_refuses_more_numbers : [Instr.abort h0 4 0 0 0 false, .sectorRequest { q0 with stack := 12 }, .routeHop p0 (.port 6) none,
    .intStatusClear 16 0, .joinReport {} 6 ⟨0, false, false, 0, [], 0⟩].any Instr.wf = false := by decide

/-! ### States that meet the statements' hypotheses

A package that has booted; one whose context 0 has a segment of one page at package address 0x3000 (root table at 0x1000, leaf page at
0x2000), with a packet visible in its first ring. -/

/-- A package after boot, at fabric time 1,000,000 ns. -/
def up : State :=
  { State.reset with
    boot := { stage := 5, level := 2, fwReady := true, host := true, compute := true }
    mgt := { running := true }, time := { count := 1000000 }, pins := { aonN := true, pwrGood := true, pkgN := true, perstN := true } }

/-- A ring of 16 slots and 16 entries with `n` packets to start. -/
def ringOf (n : Nat) : Ring := { log2Slots := 4, log2Entries := 4, enabled := true, p := n }

/-- The root table, the leaf page and the one entry of context 0: VALID, WRITE, one page, TARGET 0x3000. -/
def segMem : Table Byte := [(0x1000, 0x01#8), (0x1001, 0x20#8), (0x2000, 0x03#8), (0x2009, 0x30#8), (0x3000, 0x55#8)]

/-- An open context that holds region 0. -/
def ctx0 : Ctx := { st := .opened, mask := 1, root := 0x1000 }

/-- The booted package with context 0 as given and a packet in its first ring. -/
def live (x : Ctx) : State :=
  { up with rings := [(0, ringOf 1)], ctxs := [(0, x)], regions := [(0, { holder := some 0, pwr := .run, mhz := 1800 })], mem := segMem }

/-- A translation that answers an address. -/
def answers (e : Except WalkErr Nat) (b : Nat) : Bool := match e with | .ok x => decide (x = b) | .error _ => false

theorem of_answers {e : Except WalkErr Nat} {b : Nat} (h : answers e b = true) : e = .ok b := by
  cases e with
  | ok x => simp only [answers, decide_eq_true_eq] at h; rw [h]
  | error x => simp [answers] at h

/-! #### Steps and the scheduler -/

theorem test_meets_StepRunsFront : { up with pending := [Instr.refclkTick] }.pending = .refclkTick :: [] ∧ up.pending = [] := by decide
theorem test_meets_CommandsLeaveQueue : neverStops (.flr 15) = true ∧ neverStops (.hostReadData 64 0 none []) = true ∧
    neverStops .vio18Return = true ∧ neverStops (.nop h0) = false := by decide
theorem test_meets_StepKeepsMemories : (live ctx0).memOk = true ∧
    ∃ t, step { live ctx0 with pending := [.refclkTick] } = .next t := ⟨by decide, _, rfl⟩

theorem test_meets_RecordStoresStayInBounds : State.reset.pad.recs.length ≤ 65536 ∧
    (State.reset.pad.recs.filter (fun r => decide (r.sev ≠ 6))).length ≤ 64512 ∧ State.reset.flash.log.length ≤ 4096 ∧
    ∃ t, step { State.reset with pending := [.aonRelease { bankerEn := false, standbyEn := false, slot := 0, legacy := false, raMode := 0 } true true] } = .next t ∧
      t.pad.recs.length = 1 := by
  refine ⟨by decide, by decide, by decide, _, rfl, by decide⟩
theorem test_meets_AccumulatorsFoldSegments : ({ m := 1, e := 128 } : Dy).rne.over = true ∧ ({ m := 1, e := 0 } : Dy).rne.over = false ∧
    (((fp32Dy 0x7F7FFFFF).add ({ m := 2 ^ 24 - 1, e := 104 } : Dy).rne).rne).over = true ∧ ({} : Acc).st = 0 ∧
    (∃ x : Mma, x.pure = true ∧ x.k16 = 3) :=
  ⟨by decide, by decide, by decide, by decide,
    ⟨{ a := mmaView 0 4 0 0 48, b := mmaView 0 4 0 0 48, aTrans := false, bTrans := true, sparse := false, m16 := 1, n16 := 1, k16 := 3,
       outAt := 0, outPitch := 64, outScale := 0, outSide := 0, bitmap := 0, q := QCtl.ofNat 0 }, by decide⟩⟩

/-- Core 4 runs thread 5 of program 0, whose context is 0; core 5 has no work; thread 6 is READY, 7 and 9 are blocked on event 0x100, 8
until time 1,000,000. -/
def work : State :=
  { live ctx0 with
    sched := {
      threads := [(5, { prio := 3, elig := 1, st := .running, prog := some 0 }), (6, { prio := 3, elig := 1, st := .ready }),
        (7, { prio := 3, elig := 1, st := .blocked, event := some 0x100 }), (8, { prio := 3, elig := 1, st := .blocked, deadline := some 1000000 })]
      ready := [6], pendingEv := [0x200], cores := [(4, { released := true, thread := some 5 }), (5, { released := true })] }
    progs := [(0, some { ctx := 0, count := 2, textSize := 4096, dataSize := 4096, stackSize := 4096, entry := 0, image := [], stack := 0, pages := 0, exits := 0, anyInvalid := false, anyAborted := false, code0 := none, ended := 0 })] }

/-- The same with core 5 waiting for work and nothing READY. -/
def waits5 : State :=
  { work with sched := { work.sched with
      ready := [], threads := [(7, { prio := 3, elig := 1, st := .blocked, event := some 0x100 }), (8, { prio := 3, elig := 1, st := .blocked, deadline := some 1000000 }), (9, { prio := 3, elig := 1, st := .blocked, event := some 0x100 })]
      cores := [(4, { released := true }), (5, { released := true, asking := true })] } }

/-- The same with the last core run by thread 8 so lately that it is warm on core 5. -/
def warm5 : State :=
  { waits5 with sched := { waits5.sched with
      threads := [(8, { prio := 3, elig := 1, st := .blocked, deadline := some 1000000, lastCore := some 5, lastEnd := 980001 })] } }

theorem work_none_asks (k : Nat) : (work.core k).asking = false := by
  simp only [State.core, work, Table.get]
  split
  · rfl
  · split <;> rfl

theorem test_meets_SelectPicksByPriority : select work 5 = some 6 ∧ select work 0 = none ∧
    select { work with sched := { work.sched with cores := [(0, { released := true })] } } 0 = none ∧
    warm warm5 (warm5.thread 8) 5 = true ∧
    warm { warm5 with time := { count := 1000001 } } (warm5.thread 8) 5 = false := by decide
theorem test_meets_ReadyThreadsGoToWaitingCores :
    ((waits5.thread 8).deadline = some 1000000 ∧ (waits5.thread 8).st = .blocked ∧ 1000000 ≤ waits5.now ∧ (waits5.core 5).waits = true ∧
      eligible (waits5.thread 8) 5 = true ∧ warm waits5 (waits5.thread 8) 5 = false ∧
      ∀ j, j < 12 → (waits5.core j).waits = true → 5 ≤ j) ∧
    ((warm5.core 5).waits = true ∧ warm warm5 (warm5.thread 8) 5 = true) ∧
    (waits5.core 4).takes = true ∧ blockedOn waits5 0x100 = [7, 9] ∧ eligible (waits5.thread 7) 5 = true ∧
    eligible (waits5.thread 9) 5 = true ∧ ∀ j, j < 12 → (waits5.core j).waits = true → j = 5 := by decide
theorem test_meets_CoresTakeAndReleaseThreads :
    ((work.core 5).takes = true ∧ (work.core 5).thread = none ∧ (work.core 5).asking = false) ∧ (work.core 0).takes = false ∧
    (work.core 4).thread = some 5 ∧ 0x100 ∉ work.sched.pendingEv ∧ 0x200 ∈ work.sched.pendingEv ∧
    (work.sched.ready.any (fun u => decide ((work.thread u).prio = (work.thread 5).prio) && eligible (work.thread u) 4)) = true ∧
    ([] : List Nat).any (fun u => decide ((work.thread u).prio = (work.thread 5).prio) && eligible (work.thread u) 4) = false := by decide
theorem test_meets_SignalsAndWindows : (work.core 4).takes = true ∧ blockedOn work 0x300 = [] ∧ blockedOn work 0x100 = [7] := by decide

/-! #### Programs, traps and core stops -/

/-- The program of `work`. -/
def prog0 : Prog := { ctx := 0, count := 2, textSize := 4096, dataSize := 4096, stackSize := 4096, entry := 0, image := [], stack := 0, pages := 0, exits := 0, anyInvalid := false, anyAborted := false, code0 := none, ended := 0 }

/-- The same with one of its two threads ended, and thread 5 with a handler. -/
def work2 : State :=
  { work with
    progs := [(0, some { prog0 with ended := 1 })]
    sched := { work.sched with threads := [(5, { prio := 3, elig := 1, st := .running, prog := some 0, handler := 64 })] } }

theorem test_meets_ProgramThreadsWaitAndExit : callerOf work 4 = some (5, 0, prog0) ∧
    (0x800 + 128 * prog0.ctx ≤ 0x87F ∧ 0x87F ≤ 0x87F + 128 * prog0.ctx) ∧ 0x87F + 128 * prog0.ctx < 0x880 ∧ 1000000 ≤ work.now ∧
    work.now < 1000001 ∧ ((work.thread 8).deadline = some 1000000 ∧ (work.thread 8).st = .blocked) ∧
    prog0.ended + 1 < prog0.count ∧ callerOf work2 4 = some (5, 0, { prog0 with ended := 1 }) ∧ prog0.count ≤ 1 + 1 := by decide
theorem test_meets_ProgramCallsAct : callerOf work 4 = some (5, 0, prog0) ∧ work.memOk = true ∧ 0 % 4096 + 4096 ≤ 4096 ∧
    (4096 ≤ prog0.dataSize ∧ 0 + 4096 ≤ prog0.dataSize) ∧
    ownSlot work 0x3000 = true ∧ inOneWindow (pkgAddr 0x3000) 4096 = true ∧
    (Work.start work).translate prog0.ctx 0 4096 false none = .ok 0x3000 ∧
    (Work.start work).translate prog0.ctx 0 4096 true none = .ok 0x3000 :=
  ⟨by decide, by decide, by decide, by decide, by decide, by decide, of_answers (by decide), of_answers (by decide)⟩
theorem test_meets_TrapsReachHandlers : callerOf work 4 = some (5, 0, prog0) ∧ work.memOk = true ∧ (work.thread 5).handler = 0 ∧
    callerOf work2 4 = some (5, 0, { prog0 with ended := 1 }) ∧ work2.memOk = true ∧
    ((work2.thread 5).handler ≠ 0 ∧ (work2.thread 5).inHandler = false) ∧ (4096 - 272) / 16 * 16 + 272 ≤ prog0.dataSize ∧
    prog0.dataSize < (4112 - 272) / 16 * 16 + 272 := by decide
/-- The same with two stops of core 5 within the last 24 hours. -/
def stopped2 : State :=
  { work with sched := { work.sched with
      cores := [(0, { released := true }), (4, { released := true }), (5, { released := true, stops := [1, 2] })] } }

theorem test_meets_CoreStopsAreCounted :
    ((work.core 5).takes = true ∧ work.mgt.running = true ∧ (work.core 5).thread = none ∧
      ((work.core 5).stops.filter (fun x => decide (work.now < x + dayNs))).length < 2) ∧
    ((stopped2.core 5).takes = true ∧ stopped2.mgt.running = true ∧ (stopped2.core 5).thread = none ∧
      2 ≤ ((stopped2.core 5).stops.filter (fun x => decide (stopped2.now < x + dayNs))).length ∧ (stopped2.core 0).retired = false ∧
      (stopped2.core 4).retired = false) ∧
    (work.core 0).takes = false ∧ ({ work with mgt := {} }.mgt.running = false ∧ ({ work with mgt := {} }.core 5).takes = true) ∧
    work.boot.stage ≠ 0 ∧ work.boot.stage ≠ 6 ∧ ∀ k, k < 12 → (work.core k).halted = false := by decide

/-! #### Rings, registers and counters -/

/-- A ring with a reply that waits for room. -/
def fullRing : Ring := { ringOf 1 with t := 16, waiting := [{ bytes := [1#8], irq := true }] }

theorem test_meets_DoorbellsMoveIndices :
    ((live ctx0).boot.fwReady = true ∧ ((live ctx0).ring (4 * 0 + 0)).flushing = false ∧
      modSub 32 16 ((live ctx0).ring 0).c ≤ ((live ctx0).ring 0).slots ∧ ((live ctx0).ring 0).slots < modSub 32 17 ((live ctx0).ring 0).c ∧
      blockedOn (live ctx0) 0 = [] ∧ ((live ctx0).ring 0).waiting = []) ∧
    State.reset.boot.fwReady = false ∧
    ({ live ctx0 with rings := [(0, fullRing)] }.ring 0).waiting = [{ bytes := [1#8], irq := true }] ∧
    { fullRing with cqHost := 1 % 2 ^ 32 }.room = true ∧ { fullRing with cqHost := 0 % 2 ^ 32 }.room = false := by decide
theorem test_meets_RingsFlushAndStart : (live ctx0).boot.fwReady = true ∧ ((live ctx0).ring (4 * 0 + 0)).enabled = true ∧
    ((live ctx0).ring (4 * 0 + 1)).enabled = false := by decide
/-- Vector 0 of the PF and vector 5 of VF 1 are held back, the second with its cause cleared. -/
def moderated : State :=
  { live ctx0 with fns := [(0, { intCtrl := 0x101, intStatus := 1, delayed := 1 }), (1, { delayed := 0x20 })] }

theorem test_meets_RegistersTakeTheirBits :
    (bit (moderated.fn 0).delayed 0 = true ∧ bit (moderated.fn 0).intStatus 0 = true ∧ (moderated.fn 0).enabled 0 = true ∧
      ((moderated.fn 0).msix.get {} 0).live = true) ∧
    (bit (moderated.fn 1).delayed 5 = true ∧ bit (moderated.fn 1).intStatus 5 = false) ∧
    (((live ctx0).ring (4 * 0 + 3)).enabled = false ∧ ((live ctx0).ring (4 * 0 + 0)).enabled = true ∧ (live ctx0).boot.fwReady = true) ∧
    (0xFF3F &&& 0xFF3F = 0xFF3F ∧ 0x40 &&& 0xFF3F ≠ 0x40 ∧ 0x22 % 4 ≠ 0) := by decide

theorem test_meets_CountersLatch : anyCounter (live ctx0) 0 0x4000010 = some 1000000 ∧ anyCounter (live ctx0) 0 0x3000 = some 0 ∧
    callerOf work 4 = some (5, 0, prog0) ∧ counter64 work prog0.ctx 0x1000 = some 1000000 ∧ counter64 work prog0.ctx 0 = none ∧
    counter64 work prog0.ctx 0x2004 = none ∧ counter64 work prog0.ctx 0x2000 = none ∧ 0x1002 % 4 ≠ 0 := by decide

/-! #### Host commands -/

/-- What `Accepts` says, as a test. -/
def accepts (s : State) (h : Hdr) (need : Nat) (pf : Bool) (adm : Admit) : Bool :=
  canStart s h && decide (need ≤ h.length * 16) && decide (if pf then h.fn = 0 else h.context = h.fn) && admitted s adm

/-- What `CanAnswer` says, as a test. -/
def canAnswer (s : State) (h : Hdr) : Bool :=
  (s.ring h.dev).waiting.isEmpty && (s.ring h.dev).room && s.actives.all (fun a => decide (a.ring ≠ h.dev))

theorem of_accepts {s : State} {h : Hdr} {need : Nat} {pf : Bool} {adm : Admit} (e : accepts s h need pf adm = true) :
    Accepts s h need pf adm := by
  simp only [accepts, Bool.and_eq_true, decide_eq_true_eq] at e
  exact ⟨e.1.1.1, e.1.1.2, e.1.2, e.2⟩

theorem of_canAnswer {s : State} {h : Hdr} (e : canAnswer s h = true) : CanAnswer s h := by
  simp only [canAnswer, Bool.and_eq_true, List.isEmpty_iff, List.all_eq_true, decide_eq_true_eq] at e
  exact ⟨e.1.1, e.1.2, e.2⟩

/-- A started command of the first ring. -/
def started (x : Await) : Active := { ring := 0, index := 5, op := 0x12, irq := false, tag := 0, ctx := 0, claimed := false, wait := x }

/-- The package with a command of the first ring started before the packet. -/
def behind (x : Await) : State := { live ctx0 with actives := [started x] }

/-- The package with a packet in the first ring of VF 1, whose context is as given. -/
def vf1 (x : Ctx) : State := { live ctx0 with rings := [(4, ringOf 1)], ctxs := [(0, ctx0), (1, x)] }

theorem test_meets_HostChecksInOrder : canStart State.reset h0 = false ∧
    (canStart (live ctx0) { h0 with length := 0 } = true ∧ 0 * 16 < 8) ∧ 64 ≤ h0.length * 16 ∧
    (canStart (vf1 {}) h1 = true ∧ h1.fn ≠ 0 ∧ { h1 with context := 0 }.context ≠ h1.fn ∧ admitted (vf1 {}) (.ctx h1.fn) = false) ∧
    CanAnswer (vf1 {}) h1 ∧ hostForm (.ctxClose h1) = some (h1, 0x04, 0, true, .ctx 1) ∧ hostForm (.turnStatus h1) = some (h1, 0x14, 0, false, .ctx 1) :=
  ⟨by decide, by decide, by decide, by decide, of_canAnswer (by decide), rfl, rfl⟩

/-- A packet that passes its checks, with each operand at an end of its range; and past it. -/
theorem test_meets_HostChecksInOrder_operands :
    Accepts (live ctx0) { h0 with length := 255 } (16 + 16 * 1) false (.ctx 0) ∧
    [Instr.ctxSegRelease h0 0xFFFF, .ctxSegAllocStack h0 0xFFFF true 11 0xFFFFF, .ctxSegAllocSpread h0 0 true 0xFFFFF,
      .ctxSegMapBoard h0 0 true 0 (2 ^ 48 - 4096) true, .ctxSegMapTile h0 0 true 0 255, .abort h0 3 0 0 0 false, .memWrite h0 0 0 1,
      .memRead h0 0 0 (2 ^ 40) none [], .memFill h0 4 4 0 [], .memCopy h0 0 8 8 [], .graphLoad h0 0 0 1, .graphPatch h0 [(2, 0, 2)] [],
      .chkFraction h0 4, .spRead h0 0 65536 0 none, .turnStatus h0].all (operandsLegal (live ctx0)) = true ∧
    [Instr.ctxSegRelease h0 0x10000, .ctxSegAllocStack h0 0 true 12 0, .ctxSegMapBoard h0 0 true 0 4095 true, .memWrite h0 0 0 0,
      .memFill h0 2 4 0 [], .memCopy h0 0 7 8 [], .graphPatch h0 [(2, 0, 4)] [], .chkFraction h0 5, .spRead h0 0 0 0 none].any
        (operandsLegal (live ctx0)) = false :=
  ⟨of_accepts (by decide), by decide, by decide⟩
theorem padTo_length (n : Nat) (bs : List Byte) : (padTo n bs).length = n := by
  simp only [padTo, List.length_append, List.length_take, List.length_replicate]
  omega

theorem test_meets_PlainCommandsReply :
    (Accepts (live {}) h0 8 false .always ∧ CanAnswer (live {}) h0) ∧ (devicePage (live {}) 0).length ≤ 256 ∧ 255 < (devicePage (live {}) 0).length ∧
    Accepts (behind (.turnRun 0)) h0 0 false .always ∧
    (∀ a ∈ (behind (.turnRun 0)).actives, a.ring = h0.dev → a.index ≠ ((behind (.turnRun 0)).ring h0.dev).c) ∧
    (∃ a ∈ (behind (.turnRun 0)).actives, a.ring = h0.dev) ∧ doneFence (behind (.turnRun 0)) h0.dev = none :=
  ⟨⟨of_accepts (by decide), of_canAnswer (by decide)⟩, Nat.le_of_eq (padTo_length _ _), by
    rw [devicePage, padTo_length]; decide, of_accepts (by decide),
    by decide, by decide, by decide⟩

/-- CTX_OPEN's context over regions 0 and 11 with 1 MiB of stack 0. -/
def opening : Ctx := { st := .opened, mask := 0x801, quota := [(0, 1)] }

theorem test_meets_CtxOpenOpens : Accepts (live {}) h0 64 true .always ∧ CanAnswer (live {}) h0 ∧ ((live {}).ctx 0).st = .closed ∧
    (live {}).memOk = true ∧ (List.range 12).foldl (fun (m : Table Nat) k => m.put 0 k ([1].getD k 0)) [] = [(0, 1)] ∧
    (regionsOk (live {}) (lowBits 12 0x801) = true ∧ regionTaken (live {}) (lowBits 12 0x801) 0 = false) ∧
    (∀ k, k < 12 → Table.get [(0, 1)] 0 k + spreadShare 0 ≤ freeMib (live {}) k) ∧
    findRun { live {} with ctxs := (live {}).ctxs.put {} 0 opening } opening.tableStack 4096 = some 0 ∧
    ((live ctx0).ctx h0.context).st ≠ .closed :=
  ⟨of_accepts (by decide), of_canAnswer (by decide), by decide, by decide, by decide, by decide, by decide, by decide, by decide⟩
theorem test_meets_ContextsCloseAndResume :
    (Accepts (live ctx0) h0 24 true (.ctx 0) ∧ Accepts (live ctx0) h0 24 false (.ctx 0) ∧ CanAnswer (live ctx0) h0) ∧
    (progsOf (live ctx0) 0 = [] ∧ (live ctx0).retiring = [] ∧ ∀ a ∈ (live ctx0).actives, a.ring / 4 ≠ 0) ∧
    ((live { ctx0 with seedLocked := true }).ctx 0).seedLocked = true ∧
    Accepts (live { ctx0 with st := .stopped }) h0 24 false (.ctx 0) ∧ ((live { ctx0 with st := .stopped }).ctx 0).seedLocked = false :=
  ⟨⟨of_accepts (by decide), of_accepts (by decide), of_canAnswer (by decide)⟩, by decide, by decide, of_accepts (by decide), by decide⟩

/-- The context with quota left in stack 0 and in the spread window, its pages at 0x1000. -/
def roomy : Ctx := { ctx0 with quota := [(0, 1)], spreadMib := 12, allocs := [{ addr := 0x1000, bytes := 8192, use := .root }] }

theorem normAddr_low {a : Nat} (h : a < 0x10000000000) : normAddr a = a := by
  unfold normAddr
  rw [if_neg]
  intro e
  exact absurd e.1 (Nat.not_le.mpr h)

theorem test_meets_SegmentsAreMappedAndReleased :
    (Accepts (live roomy) h0 24 false (.ctx 0) ∧ CanAnswer (live roomy) h0 ∧ (live roomy).memOk = true) ∧
    ((Work.start (live roomy)).rdLe (((live roomy).ctx 0).root + 8 * (1 / 256)) 8 = 0x2001 ∧ bit 0x2001 0 = true) ∧
    leafOf 0x2001 + 16 * (1 % 256) = 0x2010 ∧ (SegEntry.ofNat ((Work.start (live roomy)).rdLe 0x2010 16)).valid = false ∧
    (SegEntry.ofNat ((Work.start (live roomy)).rdLe 0x2000 16)).valid = true ∧
    (2 ^ 48 - 2 ^ 44 < 2 ^ 48 ∧ inOneWindow (pkgAddr (2 ^ 48 - 2 ^ 44)) 4096 = true ∧ ownSlot (live roomy) (2 ^ 48 - 2 ^ 44) = false) ∧
    (10 < 11 * regionCount ((live roomy).ctx 0) ∧ 0xFFFF < 0x10000) ∧
    findRun (((Work.start (live roomy)).freeSeg 0 1).s) 0 4096 = some 0 ∧
    4096 ≤ ((((Work.start (live roomy)).freeSeg 0 1).s).ctx 0).left 0 ∧
    findSpread (((Work.start (live roomy)).freeSeg 0 1).s) 4096 = some 0 ∧
    (∀ k, k < 12 → (spreadPart 0 4096 k).2 = 0 ∨
      ((((Work.start (live roomy)).freeSeg 0 1).s).ctx 0).spreadIn k + (spreadPart 0 4096 k).2 ≤ spreadShare ((live roomy).ctx 0).spreadMib * mib) ∧
    (∀ i, i < 8 → ∀ k, k < 12 → normAddr (0x1000 + 8 * (1 / 256) + i) < stackBase k + (spreadPart 0 4096 k).1 ∨
      stackBase k + (spreadPart 0 4096 k).1 + (spreadPart 0 4096 k).2 ≤ normAddr (0x1000 + 8 * (1 / 256) + i)) ∧
    (∀ i j, i < 16 → j < 8 → normAddr (0x2010 + i) ≠ normAddr (0x1000 + 8 * (1 / 256) + j)) :=
  ⟨⟨of_accepts (by decide), of_canAnswer (by decide), by decide⟩, by decide, by decide, by decide, by decide, by decide, by decide, by decide,
    by decide, by decide, by decide, by decide, by
      intro i j hi hj
      rw [normAddr_low (by omega), normAddr_low (by omega)]
      omega⟩
/-- The context while it runs, and a window that no range fits. -/
theorem test_meets_SegmentsAreMappedAndReleased_refusals :
    (Accepts (live { roomy with st := .running }) h0 24 false (.ctx 0) ∧ Fresh (live { roomy with st := .running }) h0 ∧
      ((Work.start (live { roomy with st := .running })).segEntry 0 0).valid = true) ∧
    inOneWindow (pkgAddr (2 ^ 44 - 4096)) 8192 = false ∧
    (ownSlot (live roomy) 0x3000 = true ∧ allocated ((live roomy).ctx 0) (pkgAddr 0x3000) 4096 = false ∧
      allocated { roomy with allocs := [{ addr := 0x3000, bytes := 4096, use := .segment 0 }] } (pkgAddr 0x3000) 4096 = true) ∧
    11 * regionCount ((live roomy).ctx 0) ≤ 11 ∧
    ((((Work.start (live roomy)).freeSeg 0 1).s).ctx 0).left 0 < (0xFFFFF + 1) * 4096 :=
  ⟨⟨of_accepts (by decide), by intro a ha; simp [live, up, State.reset] at ha, by decide⟩, by decide, by decide, by decide, by decide⟩
theorem test_segments_pages_apart (x i : Nat) (h : 0 ≤ x ∧ x < 4096) (hi : i < 16) :
    normAddr (0x1000 + i) ≠ x ∧ normAddr (0x2010 + i) ≠ x := by
  rw [normAddr_low (by omega), normAddr_low (by omega)]
  omega

theorem test_meets_HostDataIsFetchedAndStored :
    (Accepts (live ctx0) h0 24 false (.ctx 0) ∧ Fresh (live ctx0) h0) ∧ (live ctx0).actives.find? (fun a => a.ring = 0 && a.index = 5) = none ∧
    (behind (.hostData 0 4096 (.memWrite 0))).actives.find? (fun a => a.ring = 0 && a.index = 5) = some (started (.hostData 0 4096 (.memWrite 0))) ∧
    (behind (.hostData 0 4096 (.memWrite 0))).memOk = true ∧ ((live ctx0).ctx 0).st ≠ .running ∧
    (Work.start (behind (.hostData 0 4096 (.memWrite 0)))).translate 0 0 4096 true none = .ok 0x3000 ∧
    CanPost (behind (.hostData 0 4096 (.memWrite 0))) (started (.hostData 0 4096 (.memWrite 0))) :=
  ⟨⟨of_accepts (by decide), by intro a ha; simp [live, up, State.reset] at ha⟩, by decide, by decide, by decide, by decide, of_answers (by decide),
    ⟨by decide, by decide, by decide, by decide⟩⟩

/-- The package with the last byte of the segment poisoned. -/
def poisoned : State := { live ctx0 with poison := [(0x3FFF, true)] }

theorem test_no_translation : ∃ e, (Work.start (live ctx0)).translate 0 0 4097 true none = .error e := by
  cases h : (Work.start (live ctx0)).translate 0 0 4097 true none with
  | error e => exact ⟨e, rfl⟩
  | ok b =>
    have h1 : answers ((Work.start (live ctx0)).translate 0 0 4097 true none) b = true := by simp [h, answers]
    have h2 : ((Work.start (live ctx0)).translate 0 0 4097 true none).isOk = false := by decide
    simp [h, Except.isOk, Except.toBool] at h2

theorem test_meets_MemoryCommandsMoveBytes :
    (Accepts (live ctx0) h0 24 false (.ctx 0) ∧ CanAnswer (live ctx0) h0 ∧ (live ctx0).memOk = true ∧ OwesNothing (live ctx0) h0) ∧
    (Work.start (live ctx0)).translate 0 0 4096 false none = .ok 0x3000 ∧ (Work.start (live ctx0)).translate 0 0 4096 true none = .ok 0x3000 ∧
    (Work.start (live ctx0)).rdPoison (pkgAddr 0x3000) 8 = false ∧ (Work.start poisoned).rdPoison (pkgAddr 0x3FF8) 8 = true ∧
    Accepts poisoned h0 24 false (.ctx 0) ∧ (Work.start poisoned).translate 0 4088 8 false none = .ok 0x3FF8 :=
  ⟨⟨of_accepts (by decide), of_canAnswer (by decide), by decide, by intro q hq; simp [live, up, State.reset] at hq⟩, of_answers (by decide),
    of_answers (by decide), by decide, by decide, of_accepts (by decide), of_answers (by decide)⟩

/-- A context with two pages behind segment entry 0: a copy from the first to the second. -/
def twoPages : State := { live ctx0 with mem := [(0x1000, 0x01#8), (0x1001, 0x20#8), (0x2000, 0x03#8), (0x2001, 0x01#8), (0x2009, 0x30#8)] }

theorem test_meets_MemCopy : Accepts twoPages h0 24 false (.ctx 0) ∧ (0 + 8 ≤ 4096 ∧ 0 % 4096 = 4096 % 4096) ∧
    (Work.start twoPages).translate 0 0 8 false none = .ok 0x3000 ∧ (Work.start twoPages).translate 0 4096 8 true none = .ok 0x4000 ∧
    (Work.start twoPages).rdPoison (pkgAddr 0x3000) 8 = false :=
  ⟨of_accepts (by decide), by decide, of_answers (by decide), of_answers (by decide), by decide⟩
theorem test_meets_DeferredEffects :
    (Accepts (live ctx0) h0 32 false (.ctx 0) ∧ ((live ctx0).ctx 0).st ≠ .running ∧ CanAnswer (live ctx0) h0) ∧
    (Accepts (live { ctx0 with st := .running }) h0 32 false (.ctx 0) ∧ Fresh (live { ctx0 with st := .running }) h0) ∧
    (Accepts (live ctx0) h0 1 false (.ctx 0) ∧ Accepts (live ctx0) h0 2 false (.ctx 0) ∧ OwesNothing (live ctx0) h0) ∧
    (4092 % 4 = 0 ∧ ownSlot (live ctx0) 0x3FFC = true ∧ inOneWindow (pkgAddr 0x3FFC) 4 = true ∧ (live ctx0).memOk = true) ∧
    (Work.start (live ctx0)).translate 0 4092 4 true none = .ok 0x3FFC :=
  ⟨⟨of_accepts (by decide), by decide, of_canAnswer (by decide)⟩,
    ⟨of_accepts (by decide), by intro a ha; simp [live, up, State.reset] at ha⟩,
    ⟨of_accepts (by decide), of_accepts (by decide), by intro q hq; simp [live, up, State.reset] at hq⟩, by decide, of_answers (by decide)⟩

/-! #### Reports, keys, snapshots, traces, power and time -/

/-- The package with a clear key and one stored record. -/
def keyed : State :=
  { live ctx0 with
    flash := { clearKey := some [1#8], mgtKey := some [2#8] }
    pad := { seq := 1, recs := [⟨0, 0x7006, 2, 0xC60, 0, 0, 0, 0, 0, some 0, false, false, false⟩] } }

theorem test_meets_ReportsReachHostAndClearNeedsTheKey :
    (Accepts keyed h0 20 true .always ∧ CanAnswer keyed h0 ∧ Accepts keyed h0 16 false (if h0.fn = 0 then .always else .ctx h0.fn)) ∧
    (live ctx0).flash.clearKey = none ∧ keyed.flash.clearKey = some [1#8] ∧ 0 ≠ keyed.pad.seq ∧
    (∃ auth, mac16 [1#8] (nonce keyed ++ leBytes 4 1) = auth ∧ 1 = keyed.pad.seq) ∧
    (Accepts (vf1 ctx0) h1 16 false (if h1.fn = 0 then .always else .ctx h1.fn) ∧ CanAnswer (vf1 ctx0) h1) :=
  ⟨⟨of_accepts (by decide), of_canAnswer (by decide), of_accepts (by decide)⟩, by decide, by decide, by decide, ⟨_, rfl, by decide⟩,
    of_accepts (by decide), of_canAnswer (by decide)⟩
theorem test_meets_SnapshotTracePowerAndTime :
    (Accepts (live ctx0) h0 12 false (.ctx 0) ∧ Accepts (live ctx0) h0 32 false (.ctx 0) ∧ CanAnswer (live ctx0) h0) ∧
    Accepts (live ctx0) h0 16 true (if bit 0xF 2 then .ctx h0.context else .always) ∧ (live ctx0).pins.bankerEn = false ∧
    (∃ s : State, Accepts s h0 16 true .always ∧ CanAnswer s h0 ∧ s.pins.bankerEn = true ∧ s.form.form ≠ 1 ∧ s.form.form ≠ 2 ∧ s.time.isSet = false) ∧
    ∃ s : State, Accepts s h0 16 true .always ∧ CanAnswer s h0 ∧ s.pins.bankerEn = true ∧ s.time.isSet = true :=
  ⟨⟨of_accepts (by decide), of_accepts (by decide), of_canAnswer (by decide)⟩, of_accepts (by decide), by decide,
    ⟨{ live ctx0 with pins := { (live ctx0).pins with bankerEn := true } }, of_accepts (by decide), of_canAnswer (by decide), by decide⟩,
    ⟨{ live ctx0 with pins := { (live ctx0).pins with bankerEn := true }, time := { isSet := true } }, of_accepts (by decide), of_canAnswer (by decide),
      by decide⟩⟩
theorem test_meets_RecordsTakeTokens : ((live ctx0).pins.aonN = true ∧ State.reset.pins.aonN = false) ∧
    (exemptCode 0x6001 = false ∧ 0 < (live ctx0).pad.storeMin ∧ (live ctx0).pad.storeMin ≤ 1) ∧ (live ctx0).pad.hasTokens 0x6001 1 = true ∧
    ({ (live ctx0).pad with buckets := [(0x6001, { missing := 8 })] } : Pad).hasTokens 0x6001 1 = false ∧ (live ctx0).pad.recs.length < 64512 := by
  decide

/-! #### The management port -/

/-- A package whose management processor has answered 999 requests in this second, and then 1,000. -/
def busy (n : Nat) : State := { keyed with mgt := { running := true, reqCount := n, collector := some (1, 2) } }

/-- A request whose AUTH verifies. -/
def mOk : MgtHdr := { m0 with auth := some (mac16 [2#8] (nonce (busy 999) ++ m0.raw)) }

theorem test_meets_ManagementReads : MgtOpen (busy 999) ∧ 1000 ≤ (busy 1000).mgtUsed ∧
    ({ up with mgt := {} }.mgt.running = false ∧ { up with mgt := {} }.boot.stage ≠ 6) ∧ (1 ≤ 64 ∧ 0x3FC % 4 = 0) ∧
    (counter64 (busy 999) 0 0x3FC = none ∧ counter64 (busy 999) 0 (0x3FC - 4) = none) ∧ (busy 999).mgt.collector = some (1, 2) ∧
    up.mgt.collector = none ∧ ∃ v, sensorReading (busy 999) 1 = some v := by
  refine ⟨by unfold MgtOpen; decide, by decide, by decide, by decide, by decide, by decide, by decide, ⟨_, rfl⟩⟩
theorem test_meets_ManagementActs : MgtOpen (busy 999) ∧ mgtAuthOk (busy 999) m0 = false ∧ mgtAuthOk (busy 999) mOk = true ∧
    (busy 999).flash.mgtKey.isSome = true ∧ up.flash.mgtKey = none ∧ MgtOpen up ∧
    ({ work with flash := keyed.flash }.core 5).takes = true ∧ (∀ a ∈ (busy 999).actives, a.ring ≠ 64) ∧
    (up.flash.clearKey = none ∧ (busy 999).flash.clearKey = some [1#8] ∧ 0 ≠ (busy 999).pad.seq) ∧
    (∃ auth, mac16 [1#8] (nonce (busy 999) ++ leBytes 4 1) = auth ∧ 1 = (busy 999).pad.seq) := by
  refine ⟨by unfold MgtOpen; decide, by decide, ?_, by decide, by decide, by unfold MgtOpen; decide, by decide, by decide, by decide, ⟨_, rfl, by decide⟩⟩
  show decide (mac16 [2#8] (nonce (busy 999) ++ m0.raw) = mac16 [2#8] (nonce (busy 999) ++ m0.raw)) = true
  simp

/-! #### Rulebooks, programs, Turns from the host, tables -/

/-- A stored Rulebook at 0x10000 with a TABLES section of one untrained table of one row of 32 elements: directory at context address 0,
pools at 0x100, 0x200 and 0x300 with one pair each; and the row's entry, in tier 0 with no pending copy. -/
def tableMem : Table Byte :=
  [(0x1000, 0x01#8), (0x1001, 0x20#8), (0x2000, 0x03#8), (0x2009, 0x30#8), (0x3007, 0x30#8), (0x10012, 0x01#8), (0x10015, 0x01#8),
    (0x10100, 0x16#8), (0x10105, 0x02#8), (0x10108, 0x90#8), (0x10200, 0x01#8), (0x10214, 0x01#8), (0x10218, 0x20#8), (0x10231, 0x01#8),
    (0x10239, 0x02#8), (0x10241, 0x03#8), (0x10248, 0x01#8), (0x1024C, 0x01#8), (0x10250, 0x01#8)]

/-- The book of `tableMem`. -/
def book0 : Book := { addr := 0x10000, copy := 0x20000, bytes := 4096 }

/-- The package with that book loaded, and a packet in the first ring. -/
def booked : State := { live { ctx0 with books := [(0, some book0)] } with mem := tableMem }

/-- The same with the table under training. -/
def trains : State :=
  { live { ctx0 with books := [(0, some { book0 with started := true, named := true })] } with mem := tableMem.put 0 0x10210 0x01#8 }

/-- Table 0 of the book. -/
def table0 : TableRec := TableRec.read ((Work.start booked).reader book0 0x16) 0

/-- The spans of a context range, all in this package. -/
def ownSpans (s : State) (c a n : Nat) : Bool :=
  match (Work.start s).spans c a a n false none with
  | (ss, e) => e.isNone && ss.all (fun p => ownSlot s p.2.2)

/-- Their bytes. -/
def bytesAt (s : State) (c a n : Nat) : List Byte :=
  ((Work.start s).spans c a a n false none).1.flatMap (fun p => (Work.start s).rdBytes (pkgAddr p.2.2) p.2.1)

theorem rdPoison_none {s : State} (h : s.poison = []) (a n : Nat) : (Work.start s).rdPoison a n = false := by
  simp [Work.rdPoison, Work.start, lookPoison, h, Table.get]

theorem reads_of {s : State} {c a n : Nat} (hp : s.poison = []) (h : ownSpans s c a n = true) : s.reads c a n = some (bytesAt s c a n) := by
  unfold ownSpans at h
  unfold State.reads bytesAt
  rcases e : (Work.start s).spans c a a n false none with ⟨ss, x⟩
  rw [e] at h
  cases x with
  | some x => simp at h
  | none =>
    simp only [Option.isNone_none, Bool.true_and] at h
    dsimp only
    rw [if_pos (by simpa [rdPoison_none hp] using h)]

/-- A package that holds, at context address 0, bytes that begin with a Rulebook's magic word, its format and a size of 4,096 bytes; and then
only the format of another kind of image. -/
def imaged (m : Table Byte) : State := { live ctx0 with mem := segMem.take 4 ++ m }
def bookMem : Table Byte := [(0x3000, 0x54#8), (0x3001, 0x57#8), (0x3002, 0x42#8), (0x3003, 0x32#8), (0x3005, 0x02#8), (0x3009, 0x10#8)]

theorem test_meets_RulebooksAreLoaded : Accepts (imaged bookMem) h0 16 false (.ctx 0) ∧ CanAnswer (imaged bookMem) h0 ∧
    (∃ hb, (imaged bookMem).reads 0 0 (Nat.min 4096 256) = some hb ∧
      headerChecks ((imaged bookMem).ctx 0) (padTo 256 hb) 4096 = none ∧ ofLe (slice hb 8 4) = 4096 ∧
      ∃ img, (imaged bookMem).reads 0 0 4096 = some img) ∧
    ∃ hb, (live ctx0).reads 0 0 (Nat.min 4096 256) = some hb ∧
      ∃ st r, headerChecks ((live ctx0).ctx 0) (padTo 256 hb) 4096 = some (st, r) :=
  ⟨of_accepts (by decide), of_canAnswer (by decide),
    ⟨_, reads_of rfl (by decide), by decide, by decide, ⟨_, reads_of rfl (by decide)⟩⟩, ⟨_, reads_of rfl (by decide), 0x08, 1, by decide⟩⟩
theorem test_meets_TurnRunsWait :
    (Accepts booked h0 1 false (.ctx 0) ∧ CanAnswer booked h0 ∧ Fresh booked h0) ∧
    ((booked.ctx 0).book 1 = none ∧ (booked.ctx 0).book 0 = some book0 ∧ bookInUse booked 0 0 = false ∧ (booked.ctx 0).st ≠ .stopped) ∧
    ((booked.ctx 0).turn.num + (turnRuns booked 0).length ∉ (booked.ctx 0).turn.cancelled ∧ (booked.ctx 0).turn.ran = false) ∧
    (book0.started = false ∧ restoring booked 0 = false ∧ ((trains.ctx 0).book 0 = some { book0 with started := true, named := true })) ∧
    (∃ x : Ctx, Accepts (live x) h0 1 false (.ctx 0) ∧ CanAnswer (live x) h0 ∧ ((live x).ctx 0).st ≠ .stopped ∧
      ((live x).ctx 0).book 3 = some book0 ∧ ((live x).ctx 0).turn.num + (turnRuns (live x) 0).length ∈ ((live x).ctx 0).turn.cancelled) ∧
    (∃ s : State, Accepts s h0 1 false (.ctx 0) ∧ CanAnswer s h0 ∧ (s.ctx 0).book 0 ≠ none ∧ bookInUse s 0 0 = true) ∧
    (∃ x : Ctx, Accepts (live x) h0 1 false (.ctx 0) ∧ CanAnswer (live x) h0 ∧ ((live x).ctx 0).st ≠ .stopped ∧
      ((live x).ctx 0).book 0 = some book0 ∧ x.turn.ran = true ∧ x.turn.started = false ∧ 256 ≤ x.turn.after) ∧
    ∃ x : Ctx, Accepts (live x) h0 1 false (.ctx 0) ∧ CanAnswer (live x) h0 ∧ ((live x).ctx 0).st = .stopped :=
  ⟨⟨of_accepts (by decide), of_canAnswer (by decide), by intro a ha; simp [booked, live, up, State.reset] at ha⟩, by decide, by decide, by decide,
    ⟨{ ctx0 with books := [(3, some book0)], turn := { cancelled := [0] } }, of_accepts (by decide), of_canAnswer (by decide), by decide⟩,
    ⟨{ booked with actives := [{ started (.turnRun 0) with ring := 1 }] }, of_accepts (by decide), of_canAnswer (by decide), by decide⟩,
    ⟨{ ctx0 with books := [(0, some book0)], turn := { ran := true, after := 256 } }, of_accepts (by decide), of_canAnswer (by decide), by decide⟩,
    ⟨{ ctx0 with st := .stopped }, of_accepts (by decide), of_canAnswer (by decide), by decide⟩⟩

/-- A package that holds, at context address 0, a program header: one thread, sizes of 4,096 bytes, key slot 0, which holds a key. (A signature
that verifies is not shown here: the kernel does not evaluate one.) -/
def offers : State :=
  { live { ctx0 with quota := [(0, 1)] } with
    mem := segMem.take 4 ++ [(0x3000, 0x53#8), (0x3001, 0x52#8), (0x3002, 0x56#8), (0x3003, 0x50#8), (0x3005, 0x01#8), (0x3006, 0x01#8),
      (0x3009, 0x10#8), (0x300D, 0x10#8), (0x3011, 0x10#8), (0x3019, 0x10#8)]
    flash := { keySlots := [(0, [1#8])] } }
def head0 : ProgHead := ⟨0x50565253, 0x0100, 1, 0, 4096, 4096, 4096, 0, 4096, 0⟩
def noPolicy : Policy := ⟨0, 0, 0, 0⟩

theorem test_meets_ProgramsStart : Accepts offers h0 32 false (.ctx 0) ∧ CanAnswer offers h0 ∧ Fresh offers h0 ∧
    (bit noPolicy.set 0 = false ∧ bit noPolicy.set 1 = false ∧ bit noPolicy.set 2 = false) ∧
    (∃ hb, offers.reads 0 0 64 = some hb ∧ ProgHead.ofBytes hb = head0 ∧
      ∃ img, offers.reads 0 0 (Nat.min head0.size 0x400000) = some img ∧
        (List.range 12).find? (fun k => decide (head0.size ≤ (offers.ctx 0).left k) && (findRun offers k head0.size).isSome) = some 0) ∧
    (head0.magic = 0x50565253 ∧ head0.format = 0x0100 ∧ head0.sizesOk = true ∧ offers.flash.keySlots.get [] head0.slot ≠ [] ∧
      (progsOf offers 0).length < 4 ∧ heldThreads offers 0 + head0.threads ≤ (offers.ctx 0).threadLimit) ∧
    head0.threads ≤ (freeThreads offers).length ∧ ∀ k, (offers.core k).asking = false :=
  ⟨of_accepts (by decide), of_canAnswer (by decide), by intro a ha; simp [offers, live, up, State.reset] at ha, by decide,
    ⟨_, reads_of rfl (by decide), by decide, _, reads_of rfl (by decide), by decide⟩, by decide,
    by
      have h : freeThreads offers = (List.range 768).map (· + 256) := List.filter_eq_self.mpr (fun _ _ => rfl)
      rw [h, List.length_map, List.length_range]
      decide,
    fun _ => rfl⟩

/-- Context 0 in a job whose Banker is another package; three packets wait in the second ring. -/
def joined : State := { live { ctx0 with job := 5 } with rings := [(0, ringOf 1), (1, ringOf 3)] }

theorem test_meets_StopsAndAborts :
    (Accepts joined h0 8 false (.ctx 0) ∧ CanAnswer joined h0) ∧ (5 = keyOf (joined.ctx 0) 0 ∧ decidesFor joined 5 = false) ∧
    (0x10000 = keyOf ((live ctx0).ctx 0) 0 ∧ decidesFor (live ctx0) 0x10000 = true ∧
      (∀ c ∈ contextsOf (live ctx0) 0x10000, turnRuns (live ctx0) c = [] ∧ ((live ctx0).ctx c).st ≠ .running) ∧
      ((live ctx0).job 0x10000).gone = false ∧ ((live ctx0).job 0x10000).deciding = false ∧ ((live ctx0).job 0x10000).committed = false) ∧
    ((joined.ring 1).visible 3 = false ∧ (joined.ring 1).visible 2 = true ∧ (joined.ring 1).visible 0 = true ∧ 1 ≠ h0.dev) ∧
    (∀ a ∈ joined.actives, a.ring = 1 → a.index ≠ 2) ∧ modSub 32 2 (joined.ring 1).c < 2 ^ 31 ∧ 2 ∉ (joined.ring 1).skip ∧
    ((joined.ring 1).waiting = [] ∧ (joined.ring 1).room = true) ∧
    ∃ a : Active, ({ joined with actives := [a] }.actives.find? (fun b => b.ring = 1 && b.index = 0) = some a) ∧ a.claimed = true :=
  ⟨⟨of_accepts (by decide), of_canAnswer (by decide)⟩, by decide, by decide, by decide, by decide, by decide, by decide, by decide,
    ⟨{ started .fence with ring := 1, index := 0, claimed := true }, by decide⟩⟩
theorem test_meets_TablesAreCreated :
    (Accepts booked h0 24 false (.ctx 0) ∧ CanAnswer booked h0 ∧ Fresh booked h0 ∧ booked.memOk = true) ∧
    (Work.start booked).tableOf 0 0 0 = some table0 ∧ (Work.start booked).tableOf 0 0 1 = none ∧
    (Accepts trains h0 24 false (.ctx 0) ∧ ∃ t, (Work.start trains).tableOf 0 0 0 = some t ∧ trained trains 0 0 t = true) ∧
    (trained booked 0 0 table0 = false ∧ table0.rows = 1 ∧ 1 ≤ table0.pairs.getD 2 0 ∧ table0.dir % 4096 + 16 ≤ 4096 ∧
      table0.copyAddr 2 0 0 % 4096 + table0.copyBytes 2 ≤ 4096 ∧ table0.copyAddr 2 0 0 = 0x300 ∧ table0.copyBytes 2 = 32) ∧
    (Work.start booked).translate 0 table0.dir 16 true none = .ok 0x3000 ∧
    ((Work.start booked).storeBytes (pkgAddr 0x3000) (leBytes 16 (2 * 2 ^ 28 + 3 * 2 ^ 60)) false).translate 0 (table0.copyAddr 2 0 0)
      (table0.copyBytes 2) true none = .ok 0x3300 ∧
    inOneWindow (pkgAddr 0x3300) 32 = true :=
  ⟨⟨of_accepts (by decide), of_canAnswer (by decide), by intro a ha; simp [booked, live, up, State.reset] at ha, by decide⟩, by decide, by decide,
    ⟨of_accepts (by decide), _, rfl, by decide⟩, by decide, of_answers (by decide), of_answers (by decide), by decide⟩
theorem test_meets_RowsMoveBetweenTiers :
    (Accepts booked h0 16 false (.ctx 0) ∧ CanAnswer booked h0 ∧ booked.memOk = true) ∧ (Work.start booked).tableOf 0 0 0 = some table0 ∧
    ((Entry.ofNat ((Work.start booked).rdLe (pkgAddr 0x3000) 16)).resolve (booked.ctx 0).turn.num = Entry.ofNat (3 * 2 ^ 60) ∧
      (Entry.ofNat (3 * 2 ^ 60)).curTier = 0) ∧
    (booked.flips = [] ∧ trained booked 0 0 table0 = false ∧ table0.index = 0 ∧ 0 < table0.rows ∧ (table0.dir + 16 * 0) % 4096 + 16 ≤ 4096 ∧
      ownSlot booked 0x3000 = true ∧ (Work.start booked).rdPoison (pkgAddr 0x3000) 16 = false ∧ ownSlot booked 0x3100 = true ∧
      ownSlot booked 0x3200 = true ∧ (Work.start booked).rdPoison (pkgAddr 0x3100) (table0.copyBytes 0) = false ∧
      table0.copyAddr 1 0 0 % 4096 + table0.copyBytes 1 ≤ 4096 ∧ 1 ≤ table0.copyBytes 1 ∧ inOneWindow (pkgAddr 0x3200) (table0.copyBytes 1) = true) ∧
    (Work.start booked).translate 0 table0.dir 16 false none = .ok 0x3000 ∧
    freePair table0 ((Work.start booked).entries 0 table0) [] 1 = some 0 ∧ freePair table0 ((Work.start booked).entries 0 table0) [(1, 0)] 1 = none ∧
    (Work.start booked).translate 0 (table0.copyAddr 0 0 0) (table0.copyBytes 0) false none = .ok 0x3100 ∧
    (Work.start booked).translate 0 (table0.copyAddr 1 0 0) (table0.copyBytes 1) true none = .ok 0x3200 :=
  ⟨⟨of_accepts (by decide), of_canAnswer (by decide), by decide⟩, by decide, by decide, by decide, of_answers (by decide), by decide, by decide,
    of_answers (by decide), of_answers (by decide)⟩
theorem test_meets_PublishesAreFenced :
    (Accepts booked h0 2 false (.ctx 0) ∧ Fresh booked h0 ∧ (Work.start booked).readers 0 0 0 = false) ∧
    (behind (.publish 0 0)).actives.filter (fun a => a.ctx = 0 && a.wait.publishes 0 0 && !owesFlips (behind (.publish 0 0)) a 0 0) =
      [started (.publish 0 0)] ∧
    (Work.start (behind (.publish 0 0))).readers 0 0 0 = false ∧ CanPost (behind (.publish 0 0)) (started (.publish 0 0)) ∧
    booked.actives.filter (fun a => a.ctx = 0 && a.wait.publishes 0 0 && !owesFlips booked a 0 0) = [] :=
  ⟨⟨of_accepts (by decide), by intro a ha; simp [booked, live, up, State.reset] at ha, by decide⟩, by decide, by decide,
    ⟨by decide, by decide, by decide, by decide⟩, by decide⟩

/-! #### The system -/

/-- A package at coordinates that the Banker has placed. -/
def placedAt (x y : Nat) : Placed := { at_ := { x := x, y := y }, serial := x + 4 * y, bankerEn := true, standbyEn := false, slot := x + 4 * y, delaySum := 0 }

/-- The Banker of a formed system of 4 by 4 packages with package (3, 3) missing, a standby at (1, 0), job 0 on (2, 0), and a packet in
the PF's ring. -/
def banker : State :=
  { live ctx0 with
    boot := { up.boot with level := 4, system := true }
    pins := { up.pins with bankerEn := true }
    form := { form := 2, banker := true, ext := { x := 4, y := 4, z := 1 }, missing := [{ x := 3, y := 3 }], standbyAt := some { x := 1 }, epoch := 7 }
    bank := {
      placed := [placedAt 0 0, placedAt 1 0, placedAt 2 0, placedAt 3 0, placedAt 2 3]
      jobs := [{ job := 1, origin := { x := 2 }, shape := { x := 1, y := 1, z := 1 }, moved := [] }]
      candidates := [({ x := 3, y := 3 }, ⟨9, false, false, 15, [], 0⟩)] } }

/-- The same before a job is placed, with nothing missing; and a package that is not the Banker. -/
def bankerNew : State := { banker with bank := { banker.bank with jobs := [] }, form := { banker.form with missing := [] } }
def member : State := { banker with form := { banker.form with banker := false, standby := true, recorded := [.commit 1 2 3] } }

/-- A package strapped as Banker at the system level, before formation, and while it forms. -/
def unformed : State := { banker with form := {}, bank := {} }
def formsNow : State := { unformed with form := { form := 1 }, actives := [{ started .form with claimed := true }] }

/-- A report of a package alone in its system. -/
def solo (n : Nat) (b : Bool) : PkgReport := ⟨n, b, false, 0, List.replicate 6 (3, 0, 0), 0⟩

theorem test_solo_is_placed (n : Nat) (b : Bool) : placement [solo n b] none = .ok ([⟨{}, n, b, false, 0, 0, []⟩], []) := by
  have h : layout [solo n b] = some [(solo n b, {})] := by
    simp [layout, solo, PkgReport.portSt, spread, spotOf, PkgReport.links, pairwise, List.range, List.range.loop, List.replicate]
  simp only [placement, h]
  rfl

theorem test_meets_SystemCommandsNeedTheBanker :
    (Accepts member h0 16 true .always ∧ CanAnswer member h0 ∧ member.form.form = 2 ∧ member.form.banker = false) ∧
    (Accepts unformed h0 16 true .always ∧ CanAnswer unformed h0 ∧ Fresh unformed h0 ∧ unformed.form.form ≠ 2 ∧ unformed.pins.bankerEn = true ∧
      4 ≤ unformed.boot.level ∧ unformed.form.form ≠ 1) ∧
    ∃ s, Accepts s h0 16 true .always ∧ CanAnswer s h0 ∧ s.form.form ≠ 2 ∧ s.pins.bankerEn = true ∧ s.boot.level < 4 :=
  ⟨⟨of_accepts (by decide), of_canAnswer (by decide), by decide, by decide⟩,
    ⟨of_accepts (by decide), of_canAnswer (by decide), by intro a ha; simp [unformed, banker, live, up, State.reset] at ha, by decide⟩,
    { unformed with boot := up.boot }, of_accepts (by decide), of_canAnswer (by decide), by decide⟩
theorem test_meets_DecisionsGoToTheStandby :
    (Accepts banker h0 16 true .always ∧ Banks banker ∧ CanAnswer banker h0 ∧ Fresh banker h0) ∧
    (banker.bank.jobs.any (fun j => decide (j.job = 1)) = true ∧ banker.bank.jobs.any (fun j => decide (j.job = 2)) = false) ∧
    (∃ r : PkgReport, banker.bank.candidates.find? (fun c => c.1 = { x := 3, y := 3, z := 0 }) = some ({ x := 3, y := 3, z := 0 }, r) ∧
      banker.missingNow.contains { x := 3, y := 3, z := 0 } = true ∧ r.slot = 3 % 4 + 4 * (3 % 4)) ∧
    (Accepts bankerNew h0 16 true .always ∧ Banks bankerNew ∧ Fresh bankerNew h0 ∧ bankerNew.bank.jobs = [] ∧ bankerNew.bank.waiting = [] ∧
      bankerNew.missingNow = [] ∧ 3 + 1 ≤ bankerNew.form.ext.x) ∧
    (banker.bank.roleOf { x := 2 } = some (1, {}) ∧ banker.present { x := 2 } = true ∧ banker.reserve { x := 3 } = true ∧
      (banker.job 1).gone = false ∧ turnRuns? ({ banker with jobs := [(1, { gone := true })] }.job 1) = true) :=
  ⟨⟨of_accepts (by decide), ⟨by decide, by decide, by decide⟩, of_canAnswer (by decide), by intro a ha; simp [banker, live, up, State.reset] at ha⟩,
    by decide, ⟨_, rfl, by decide, by decide⟩,
    ⟨of_accepts (by decide), ⟨by decide, by decide, by decide⟩, by intro a ha; simp [bankerNew, banker, live, up, State.reset] at ha, by decide⟩, by decide⟩
theorem test_meets_FormationMessages :
    (4 ≤ unformed.boot.level ∧ unformed.form.form ≠ 2 ∧ unformed.form.probeEpoch ≠ some 1 ∧ banker.form.form = 2) ∧
    (formsNow.form.form = 1 ∧ forming formsNow = some { started .form with claimed := true } ∧ CanPost formsNow { started .form with claimed := true }) ∧
    ({ unformed with form := { form := 1 } }.form.form = 1 ∧ forming { unformed with form := { form := 1 } } = none) ∧
    placement [] none = .error 1 ∧
    (placement [solo Config.serial true] none = .ok ([⟨{}, Config.serial, true, false, 0, 0, []⟩], []) ∧
      (lowestSerial [⟨{}, Config.serial, true, false, 0, 0, []⟩] (fun p => p.bankerEn)).map (·.serial) = some Config.serial) ∧
    (placement [solo (Config.serial + 1) true] none = .ok ([⟨{}, Config.serial + 1, true, false, 0, 0, []⟩], []) ∧
      (lowestSerial [⟨{}, Config.serial + 1, true, false, 0, 0, []⟩] (fun p => p.bankerEn)).map (·.serial) ≠ some Config.serial) ∧
    (epochAbove unformed.form.epoch 1 = false ∧ epochAbove banker.form.epoch 6 = true) ∧
    (banker.form.banker = true ∧ banker.bank.placed.find? (fun q => q.serial = 1) = some (placedAt 1 0) ∧
      ∀ a ∈ banker.actives, a.wait ≠ .form ∧ a.wait ≠ .join (placedAt 1 0).at_) ∧
    (banker.bank.placed.find? (fun q => q.at_ = { x := 2, y := 3 }) = some (placedAt 2 3) ∧
      (⟨2, 3, 0⟩ : Xyz).step 0 = some ⟨3, 3, 0⟩ ∧ banker.missingNow.contains ⟨3, 3, 0⟩ = true ∧ banker.missingNow.contains ⟨3, 0, 0⟩ = false) ∧
    (midTurn banker = false ∧ midTurn { banker with ctxs := [(0, { ctx0 with turn := { started := true, phase := 2 } })] } = true) :=
  ⟨by decide, ⟨by decide, by decide, by decide, by decide, by decide, by decide⟩, by decide, rfl, ⟨test_solo_is_placed _ _, rfl⟩,
    ⟨test_solo_is_placed _ _, by simp [lowestSerial]⟩, by decide, by decide, by decide, by decide⟩
theorem test_meets_FormAckOfJoin :
    (behind (.join { x := 1 })).actives.filter (fun b => decide (b.wait = Await.join (placedAt 1 0).at_)) = [started (.join { x := 1 })] ∧
    (∀ b ∈ (behind (.join { x := 1 })).actives, b.wait ≠ .form) ∧ CanPost (behind (.join { x := 1 })) (started (.join { x := 1 })) :=
  ⟨by decide, by decide, ⟨by decide, by decide, by decide, by decide⟩⟩
theorem test_meets_StandbyTakesOver :
    (member.form.form = 2 ∧ member.form.banker = false ∧ member.form.standby = true ∧ member.form.lastBeat + 100000 ≤ member.now) ∧
    { member with form := { member.form with lastBeat := 900001 } }.now < 900001 + 100000 ∧
    (∃ s : State, s.form.banker = true ∧ s.bank.waiting.find? (fun p => p.1 = 4) = some (4, .commit 1 2 3) ∧ s.bank.moves = []) ∧
    (∃ s : State, s.form.banker = true ∧ s.bank.waiting.find? (fun p => p.1 = 4) = some (4, .cancel 1 2) ∧ (s.job 1).turn = 2 ∧ (s.job 1).gone = false) ∧
    ∃ s : State, s.form.banker = true ∧ s.bank.waiting.find? (fun p => p.1 = 4) = some (4, .exclude {} true) ∧ ∀ a ∈ s.actives, a.wait ≠ .exclude {} :=
  ⟨by decide, by decide, ⟨{ banker with bank := { banker.bank with waiting := [(4, .commit 1 2 3)] } }, by decide⟩,
    ⟨{ banker with bank := { banker.bank with waiting := [(4, .cancel 1 2)] }, jobs := [(1, { turn := 2 })] }, by decide⟩,
    ⟨{ banker with bank := { banker.bank with waiting := [(4, .exclude {} true)] } }, by decide⟩⟩

/-- A reserve package that a re-home has given its role, while context 0 waits for the successor's copy. -/
def rehomed : State :=
  { live { ctx0 with job := 1, books := [(0, some book0)], turn := { awaitCopy := true } } with
    form := { form := 2, rehomed := true, roleJob := 1 } }

theorem test_meets_LostRolesMove :
    (banker.form.banker = true ∧ banker.present { x := 2 } = true ∧ banker.form.standbyAt ≠ none) ∧
    banker.bank.alive.get 0 (rankNum { x := 2 }) + 1000000 ≤ banker.now ∧
    (∀ job rank, banker.bank.roleOf { x := 2 } = some (job, rank) → (banker.job job).gone = false) ∧
    (banker.bank.lostPorts.find? (fun p => p.1 = { x := 2 }) = none ∧ 1 < facing banker { x := 2 }) ∧
    (holdsRole member = false ∧ roleContexts (Work.start member) = [] ∧ holdsRole rehomed = true) ∧
    ((rehomed.ctx 0).running = some book0 ∧ rehomed.memOk = true ∧ (rehomed.ctx 0).st ≠ .closed ∧ restoring rehomed 0 = true ∧
      (rehomed.ctx 0).turn.awaitCopy = true ∧ inHbm 0x3000 = true ∧ inOneWindow 0x3000 4 = true) ∧
    restoring banker 0 = false :=
  ⟨by decide, by decide, by intro job rank _; rfl, by decide, by decide, by decide, by decide⟩

/-! #### Turns -/

/-- Context 0 with its book loaded, its Turn in a phase, its segment of three pages. -/
def turnCtx (phase : Nat) : Ctx :=
  { ctx0 with
    st := if 2 ≤ phase then .running else .opened
    books := [(0, some { book0 with started := true, mirrored := true })]
    turn := { num := 3, attempt := 1, phase := phase, started := decide (0 < phase), ran := decide (2 ≤ phase) } }

/-- The package with that context, its TURN_RUN started from the second ring, and what else the memory lists. -/
def turning (phase : Nat) (m : Table Byte) : State :=
  { live (turnCtx phase) with
    mem := [(0x1000, 0x01#8), (0x1001, 0x20#8), (0x2000, 0x03#8), (0x2001, 0x02#8), (0x2009, 0x30#8)] ++ m
    actives := [{ started (.turnRun 0) with ring := 1, claimed := decide (2 ≤ phase) }] }

/-- Its TURN_RUN. -/
def turnRun0 (claimed : Bool) : Active := { started (.turnRun 0) with ring := 1, claimed := claimed }

/-- A change of context 0's Turn. -/
def turned (s : State) (f : Turn → Turn) : State := { s with ctxs := [(0, { s.ctx 0 with turn := f (s.ctx 0).turn })] }

theorem test_meets_AttemptsAreDecided :
    (decidesFor banker 1 = true ∧ decidesFor member 1 = false ∧ olderAttempt 0 0 (banker.job 1).turn (banker.job 1).attempt = false ∧
      olderAttempt 0 0 1 0 = true ∧ ∀ p ∈ banker.bank.rehomes, p.1 ≠ 1) ∧
    (((banker.job 1).at 0 0).gone = false ∧ ((banker.job 1).at 0 0).poisoned = false) ∧
    (∃ s : State, decidesFor s 1 = true ∧ ((s.job 1).at 3 1).poisoned = true ∧ ((s.job 1).at 3 1).deciding = false ∧ ((s.job 1).at 3 1).committed = false ∧
      olderAttempt 3 1 (s.job 1).turn (s.job 1).attempt = false) ∧
    (∃ (s : State) (ks : Nat → Contribution), decidesFor s 1 = true ∧ (s.job 1).turn = 3 ∧ (s.job 1).gone = true ∧ (s.job 1).poisoned = false ∧
      ∀ r ∈ ranksOf (jobShape s 1), r ≠ 0 → (s.job 1).contribs.get none r = some (ks r)) ∧
    (∃ s : State, decidesFor s 1 = true ∧ (s.job 1).turn = 3 ∧ (s.job 1).attempt = 1 ∧ (s.job 1).gone = true ∧ (s.job 1).poisoned = false ∧
      (s.job 1).deciding = false ∧ (s.job 1).committed = false ∧ (∀ r ∈ ranksOf (jobShape s 1), r ∈ insertNat 0 (s.job 1).yes) ∧
      s.form.standbyAt ≠ none ∧ 1 < 0x10000) ∧
    (∃ s : State, decidesFor s 1 = true ∧ (s.job 1).gone = true ∧ (∃ r ∈ ranksOf (jobShape s 1), r ∉ insertNat 0 (s.job 1).yes) ∧
      (∃ r ∈ ranksOf (jobShape s 1), r ≠ 0 ∧ (s.job 1).contribs.get none r = none)) ∧
    (decidesFor (turning 4 []) 0x10000 = true ∧ (turning 4 []).bank.moves = [] ∧ (turning 4 []).form.standbyAt = none) ∧
    ((banker.job 1).turn ≤ 0 ∧ (banker.job 1).gone = false ∧ contextsOf banker 1 = []) :=
  ⟨by decide, by decide, ⟨{ banker with jobs := [(1, { turn := 3, attempt := 1, poisoned := true })] }, by decide⟩,
    ⟨{ banker with jobs := [(1, { turn := 3, gone := true })] }, fun _ => { norms := [], nonfinite := false, vsat := [], satTotal := 0 }, by decide⟩,
    ⟨{ banker with jobs := [(1, { turn := 3, attempt := 1, gone := true })] }, by decide⟩,
    ⟨{ banker with
        jobs := [(1, { gone := true })]
        bank := { banker.bank with jobs := [{ job := 1, origin := {}, shape := { x := 2, y := 1, z := 1 }, moved := [] }] } }, by decide⟩, by decide, by decide⟩
theorem test_meets_AttemptsRunOnThePackage :
    ((turning 0 []).form.nextMissing = none ∧ (∀ p, p < 6 → ((turning 0 []).port p).barred = false) ∧
      headRun (turning 0 []) 0 = some (turnRun0 false) ∧ ((turning 0 []).ctx 0).book 0 = some { book0 with started := true, mirrored := true } ∧
      mayStart (turning 0 []) 0 = true ∧ mustPoison (turning 0 []) 0 = false ∧ mustPoison { turning 0 [] with retiring := [.tile 0] } 0 = true) ∧
    (∃ s : State, headRun s 0 = some (turnRun0 false) ∧ (s.ctx 0).book 0 = some book0 ∧ mayStart s 0 = true ∧ (Work.start s).solo 0 = false) ∧
    (headRun (turning 1 []) 0 = some (turnRun0 false) ∧ ((turning 1 []).ctx 0).turn.started = true ∧ ((turning 1 []).ctx 0).turn.phase = 1 ∧
      ((turning 1 []).ctx 0).turn.num = 3 ∧ ((turning 1 []).ctx 0).turn.attempt = 1 ∧ ∀ n ∈ ctxTiles ((turning 1 []).ctx 0), ((turning 1 []).tile n).buffer = []) ∧
    (((turning 2 []).ctx 0).turn.phase ≠ 0 ∧ ((turning 2 []).ctx 0).turn.phase ≠ 5 ∧ ((turning 2 []).ctx 0).turn.poison = false ∧
      ((turning 2 []).ctx 0).st = .running ∧ ((turning 2 []).ctx 0).turn.causes.get 0 1 < 2 ∧ (turning 2 []).retiring = [] ∧
      pagesFor (turning 2 []) 0 false = []) ∧
    ((turned (turning 2 []) (fun t => { t with causes := [(1, 1)] })).ctx 0).turn.causes.get 0 1 = 1 ∧
    ((turned (turning 2 []) (fun t => { t with attempt := 255 })).ctx 0).turn.attempt = 255 ∧
    (contextsOf (turning 1 []) 0x10000 = [0] ∧ contextsOf (turning 1 []) 7 = [] ∧ (turnRuns (turning 1 []) 0)[3 - 3]? = some (turnRun0 false) ∧
      (turnRuns (turning 2 []) 0)[3 - 3]? = some (turnRun0 true) ∧ (turnRuns (turning 1 []) 0)[4 - 3]? = none) ∧
    CanPost (turning 1 []) (turnRun0 false) ∧
    (∃ s : State, decidesFor s 5 = false ∧ contextsOf s 5 = [0] ∧ (s.ctx 0).st = .running ∧ turnRuns s 0 = [turnRun0 true] ∧
      CanPost s (turnRun0 true) ∧ s.retiring = [] ∧ pagesFor s 0 false = [] ∧ ∀ b ∈ s.actives, b.ctx = 0 → ∀ d, b.wait ≠ .deferred d) ∧
    ∃ s : State, decidesFor s 5 = false ∧ contextsOf s 5 = [0] ∧ (s.ctx 0).st ≠ .running ∧
      (turnRuns s 0).filter (fun b => !b.claimed) = [turnRun0 false] ∧ CanPost s (turnRun0 false) :=
  ⟨by decide, ⟨{ turning 0 [(0x10018, 0x02#8), (0x10019, 0x01#8), (0x1001A, 0x01#8)] with
      ctxs := [(0, { turnCtx 0 with job := 5, books := [(0, some book0)] })] }, by decide⟩, by decide, by decide, by decide, by decide, by decide,
    ⟨by decide, by decide, by decide, by decide⟩,
    ⟨{ turning 2 [] with ctxs := [(0, { turnCtx 2 with job := 5 })] }, by decide, by decide, by decide, by decide,
      ⟨by decide, by decide, by decide, by decide⟩, by decide, by decide, by
        intro b hb _ d
        simp only [turning, List.mem_singleton] at hb
        rw [hb]
        exact Await.noConfusion⟩,
    ⟨{ turning 1 [] with ctxs := [(0, { turnCtx 1 with job := 5 })] }, by decide, by decide, by decide, by decide,
      ⟨by decide, by decide, by decide, by decide⟩⟩⟩

/-- Book 0 with a TENSOR_TABLE section of no tensors whose CT_ADDR is context address 0. -/
def tensorMem : Table Byte := [(0x10012, 0x01#8), (0x10015, 0x01#8), (0x10100, 0x12#8), (0x10105, 0x02#8), (0x10108, 0x40#8)]

/-- The book of `turning`, and a record whose ACTION is SKIP. -/
def book1 : Book := { book0 with started := true, mirrored := true }
def skipRecord : List Byte := [0#8, 0#8, 0#8, 0#8, 0#8, 0#8, 1#8]

/-- The preparation of an attempt with its words and the other memory apart; a role that has moved; and a REPLAY of the attempt before the one
that is about to start, or of one that has not. -/
theorem test_meets_AttemptsRunOnThePackage_replay :
    (WordsFit (turning 0 []) book1 ∧ ApartFrom (turning 0 []) 0 book1 ∧ (∀ k n, (turning 0 []).journal.get 0 (journalKey 0 k n) = 0) ∧
      ((turning 0 []).ctx 0).turn.left = []) ∧
    (restoring (turning 0 []) 0 = false ∧
      ∃ s : State, restoring s 0 = true ∧ mayStart s 0 = true ∧ mustPoison s 0 = false ∧ s.form.nextMissing = none) ∧
    (((turning 1 []).ctx 0).turn.attempt = 0 + 1 ∧ ((turning 1 []).ctx 0).turn.tallied ≠ 0 + 1 ∧
      ((turning 1 []).ctx 0).turn.causes.get 0 1 = 0 ∧
      ((turned (turning 1 []) (fun t => { t with tallied := 1 })).ctx 0).turn.tallied = 0 + 1) ∧
    (((turning 0 []).ctx 0).st ≠ .closed ∧ ((turning 0 []).ctx 0).st ≠ .stopped ∧ ((turning 0 []).ctx 0).turn.phase ≠ 5 ∧
      ((turning 0 []).ctx 0).turn.current ≠ 255 ∧ ((turning 0 []).ctx 0).turn.started = false) ∧
    ((turning 2 []).ctx 0).turn.tallied ≠ 1 + 1 := by
  refine ⟨⟨⟨?_, ?_⟩, ⟨by decide, ?_⟩, fun _ _ => rfl, rfl⟩, ⟨by decide, ?_⟩, by decide, by decide, by decide⟩
  · intro e h
    have : (Work.start (turning 0 [])).sect book1 0x14 = none := by decide
    rw [this] at h
    cases h
  · intro h e
    have : (Work.start (turning 0 [])).tensorHead book1 = none := by decide
    rw [this] at e
    cases e
  · intro o ho
    have : book1.addr = 0x10000 := rfl
    rw [this, normAddr_low (by omega)]
    refine ⟨.inl (by unfold tileWindowBase; omega), fun r _ => .inl ?_⟩
    unfold partialAddr stackBase
    omega
  · exact ⟨{ turning 0 [] with
      form := { form := 2, rehomed := true, roleJob := 1 }, ctxs := [(0, { turnCtx 0 with job := 1 })] }, by decide, by decide, by decide, by decide⟩

theorem test_meets_TurnsCommit_commit :
    headRun (turning 4 []) 0 = some (turnRun0 true) ∧ ((turning 4 []).ctx 0).running = some book1 ∧ ((turning 4 []).ctx 0).turn.started = true ∧
    ((turning 4 []).ctx 0).turn.phase = 4 ∧ (turning 4 []).lanesNow.wf 0 = true ∧ recAction skipRecord = 1 ∧
    (Work.start (turning 4 [])).tables book1 = [] ∧ pagesFor (turning 4 []) 0 true = [] ∧ CanPost (turning 4 []) (turnRun0 true) ∧
    (∀ d ∈ (turning 4 []).actives, d.ctx = 0 → ∀ e, d.wait ≠ .deferred e) ∧
    ((turned (turning 4 []) (fun t => { t with record := some skipRecord })).ctx 0).turn.record = some skipRecord :=
  ⟨by decide, by decide, by decide, by decide, by decide, by decide, by decide, by decide, ⟨by decide, by decide, by decide, by decide⟩, by
    intro b hb _ d
    simp only [turning, List.mem_singleton] at hb
    rw [hb]
    exact Await.noConfusion, by decide⟩

/-- The attempt after CT_CLOSE, before the record. -/
def closing (m : Table Byte) : State := turned (turning 2 m) (fun t => { t with closed := true, closeSig := some 9 })

theorem test_meets_TurnsCommit_record :
    (((closing []).ctx 0).running = some book1 ∧ ((closing []).ctx 0).turn.live = true ∧ ((closing []).ctx 0).turn.closed = true ∧
      ((closing []).ctx 0).turn.recordHere = false ∧ ((closing []).ctx 0).turn.poison = false ∧ ∀ n ∈ ctxTiles ((closing []).ctx 0), ∀ f ∈ ((closing []).tile n).flights, f.out ≠ 3) ∧
    ((Work.start (closing [])).tensorHead book1 = none ∧ ((Work.start (closing [])).tensorReader book1).isNone = true) ∧
    recAction (ownRecord none skipRecord) ≠ 3 ∧
    (∃ h, (Work.start (closing tensorMem)).tensorHead book1 = some h) ∧
    ((Work.start (closing tensorMem)).tensorHead book1).map (·.ctAddr) = some 0 ∧
    (Work.start (closing tensorMem)).translate 0 0 1088 true none = .ok 0x3000 :=
  ⟨by decide, ⟨by decide, by decide⟩, by decide, ⟨_, rfl⟩, by decide, of_answers (by decide)⟩
theorem test_record_may_stop : ∃ r : Nat → Nat → Nat, recAction (ownRecord (some r) [0#8, 0#8, 0#8, 0#8, 0#8, 1#8]) = 3 :=
  ⟨fun o _ => if o = 0x38 then 2 else 0, by decide⟩

/-- The mirror copy of a context without tables. -/
def copy0 : MirrorCopy := { rank := 1, small := ⟨3, 0, [], [], []⟩, sections := [], retier := [], due := [] }

/-- The package with context 0 as a buddy that has a Turn to apply, and waiting for its own copy. -/
def mirrors : State := live { turnCtx 0 with mirror := { valid := true, todo := [(3, [])], held := [copy0] }, turn := { awaitCopy := true } }

/-- Context 0 holds region 0 at a Turn boundary and context 1 waits for it; context 2 waits for region 1, which none holds. -/
def slices : State :=
  { live { ctx0 with st := .opened } with
    ctxs := [(0, ctx0), (1, { ctx0 with slice := 1 }), (2, { ctx0 with mask := 2 })]
    actives := [{ started (.turnRun 0) with ring := 4, ctx := 1 }, { started (.turnRun 0) with ring := 8, ctx := 2 }] }

/-- The attempt with a tile that has not ended. -/
def stalled : State := { turning 2 [] with tiles := [(3, { active := true })] }

theorem test_meets_TurnsCommit_rest :
    ((mirrors.ctx 0).st ≠ .closed ∧ (mirrors.ctx 0).mirror.valid = true ∧ (mirrors.ctx 0).mirror.todo = [(3, [])] ∧
      (mirrors.ctx 0).mirror.copyOf none = some copy0 ∧ (mirrors.ctx 0).mirror.copyOf (some copy0.small) = some copy0 ∧
      (mirrors.ctx 0).mirror.copyOf (some { copy0.small with handle := 1 }) = none ∧ (mirrors.ctx 0).running = some book1 ∧ copy0.tables = [] ∧ (mirrors.ctx 0).turn.awaitCopy = true ∧
      (∀ n ∈ ctxTiles (mirrors.ctx 0), ∀ f ∈ (mirrors.tile n).flights, f.out ≠ 3) ∧ ∀ q ∈ mirrors.requests, q.owner ≠ .mirror 0) ∧
    (waitsForRegions slices 2 = true ∧ (slices.region 1).holder = none ∧ 1 ∈ setBits 12 (slices.ctx 2).mask) ∧
    (waitsForRegions slices 0 = false ∧ mayYield slices 0 = true ∧ nextWaiting slices 0 = some 1 ∧ nextWaiting (live ctx0) 0 = none) ∧
    ((stalled.ctx 0).turn.live = true ∧ waking stalled (stalled.ctx 0) = false ∧
      (Work.start stalled).progressNs 0 ≤ (stalled.ctx 0).turn.quietNs ∧ 3 ∈ ctxTiles (stalled.ctx 0) ∧ (stalled.tile 3).active = true ∧ (stalled.tile 3).ended = false ∧
      ∀ k ∈ ctxTiles (stalled.ctx 0), k < 3 → (stalled.tile k).active = false ∨ (stalled.tile k).ended = true) := by decide

/-! #### Moves -/

/-- A move of a class without a slot, with other bits. -/
def mv (cls rest : Nat) : Nat := cls + 0xFFFF * 2 ^ 62 + rest

/-- A descriptor at tile address 0 of tile 0: one row of four bytes from 0x1000 to 0x2000. -/
def descMem : Table Byte :=
  [(0xC000000001, 0x10#8), (0xC000000009, 0x20#8), (0xC000000010, 0x01#8), (0xC000000014, 0x04#8), (0xC000000018, 0x04#8),
    (0xC00000001C, 0x04#8)]

/-- The running attempt with a move at the head of tile 0, and tile 1 beside it. -/
def moving (m : Nat) : State := { turning 2 descMem with tiles := [(0, { active := true, buffer := [(0, some m)], tallies := [(1, 5)] })] }

/-- What `Issues` says, as a test. -/
def issues (s : State) (c n m : Nat) (kind : Nat → Bool) : Bool :=
  decide (headOf s n = some m) && headReady s c n && kind m && !yieldsTo s c n &&
    (mayContribute m || ((Work.start s).slotGroup c (mvSlot m)).isNone) && !doubleUse m

theorem of_issues {s : State} {c n m : Nat} {kind : Nat → Bool} (e : issues s c n m kind = true) : Issues s c n m kind := by
  simp only [issues, Bool.and_eq_true, decide_eq_true_eq, Bool.not_eq_true', Bool.or_eq_true, Option.isNone_iff_eq_none] at e
  exact ⟨e.1.1.1.1.1, e.1.1.1.1.2, e.1.1.1.2, e.1.1.2, e.1.2, e.2⟩

theorem runs_of {s : State} {x : Effect × Work} (h : x.2.stop = none) : ∃ e w r, x = (e, w) ∧ commit s w = .next r := by
  refine ⟨x.1, x.2, ?_⟩
  unfold commit
  rw [h]
  exact ⟨_, rfl, rfl⟩

theorem faults_of {s : State} {x : Effect × Work} {f : Fault} (h : x.2.stop = some f) : ∃ e w, x = (e, w) ∧ commit s w = .fault f := by
  refine ⟨x.1, x.2, rfl, ?_⟩
  unfold commit
  rw [h]

/-- An ST_FILL whose descriptor stands past the near store. -/
def badFill : Nat := mv 0x1B (0x18000 * 2 ^ 82)

theorem test_meets_UnitMovesIssue :
    (Issues (moving (mv 0x1B 0)) 0 0 (mv 0x1B 0) (ofClass 0x1B) ∧ ∃ e w r,
      storeEffect (moverOf (moving (mv 0x1B 0)) 0 0 (mv 0x1B 0)) (mv 0x1B 0) ((Work.start (moving (mv 0x1B 0))).fire 0 0 (mv 0x1B 0))
        (fillRows (moverOf (moving (mv 0x1B 0)) 0 0 (mv 0x1B 0))) = (e, w) ∧ commit (moving (mv 0x1B 0)) w = .next r) ∧
    (Issues (moving badFill) 0 0 badFill (ofClass 0x1B) ∧ ∃ e w,
      storeEffect (moverOf (moving badFill) 0 0 badFill) badFill ((Work.start (moving badFill)).fire 0 0 badFill)
        (fillRows (moverOf (moving badFill) 0 0 badFill)) = (e, w) ∧ commit (moving badFill) w = .fault (.unpredictable 144)) ∧
    doubleUse (mv 0x10 (2 ^ 6 + 2 ^ 14 + 5 * 2 ^ 22 + 5 * 2 ^ 38)) = true ∧
    headReady (moving (mv 0x10 (2 ^ 6 + 2 ^ 14 + 5 * 2 ^ 22 + 5 * 2 ^ 38))) 0 0 = true ∧
    (headReady (moving (mv 0x10 (2 ^ 6 + 6 * 2 ^ 22))) 0 0 = false ∧ mayContribute (mv 0x1B 0) = false) := by
  exact ⟨⟨of_issues (by decide), runs_of (by decide)⟩, ⟨of_issues (by decide), faults_of (by decide)⟩, by decide, by decide, by decide⟩

/-- A store move and a conversion whose descriptors and operands are as their rules ask, and a descriptor past the near store. -/
theorem test_meets_UnitMovesIssue_lawful :
    (∀ k ∈ [0x12, 0x18, 0x19, 0x1A, 0x1B, 0x1C], lawful (moving (mv k 0)) (moverOf (moving (mv k 0)) 0 0 (mv k 0)) (mv k 0) [] = true) ∧
    lawful (moving (mv 0x12 0)) (moverOf (moving (mv 0x12 0)) 0 0 (mv 0x12 0)) (mv 0x12 0) [.ceStore 0 0 0] = true ∧
    lawful (moving badFill) (moverOf (moving badFill) 0 0 badFill) badFill [] = false := by decide

/-- A descriptor of one element or row for each of the other units: ARR_MMA of one block row and column, VEC_FN, VEC_RED, a gather of one
padding record, EL_SORT of an empty slot, SEG_REDUCE of one padding record and SEG_ADD of no key. -/
def mmaMem : Table Byte :=
  [(0xC000000003, 0x08#8), (0xC000000007, 0x09#8), (0xC000000009, 0x80#8), (0xC000000010, 0x40#8), (0xC000000014, 0x40#8),
    (0xC000000030, 0x40#8), (0xC000000036, 0x01#8), (0xC000000037, 0x01#8), (0xC000000038, 0x01#8)]
def vecMem (op : Byte) : Table Byte :=
  [(0xC000000001, 0x10#8), (0xC00000000D, 0x20#8), (0xC000000010, 0x01#8), (0xC000000014, 0x01#8), (0xC000000019, 0x08#8), (0xC00000001D, op)]
def gthMem : Table Byte :=
  [(0xC000000001, 0x10#8), (0xC000000008, 0x01#8), (0xC000000011, 0x30#8), (0xC00000001C, 0x04#8), (0xC000000021, 0x20#8),
    (0xC000001004, 0x10#8)]
def sortMem : Table Byte := [(0xC000000001, 0x10#8), (0xC000000005, 0x20#8), (0xC000000008, 0xFF#8), (0xC000000009, 0xFF#8), (0xC00000000A, 0xFF#8),
  (0xC00000000B, 0xFF#8)]
def segMove : Table Byte :=
  [(0xC000000001, 0x10#8), (0xC000000008, 0x01#8), (0xC00000000E, 0x08#8), (0xC000000011, 0x30#8), (0xC000000018, 0x01#8), (0xC00000001D, 0x20#8),
    (0xC000000020, 0x08#8), (0xC000000025, 0x40#8), (0xC000000029, 0x50#8)]
def addMem : Table Byte := [(0xC00000000D, 0x20#8), (0xC00000001C, 0x01#8)]
def movingIn (m : Nat) (mem : Table Byte) : State := { moving m with mem := (turning 2 mem).mem }

theorem test_meets_UnitMovesIssue_lawful_units :
    (∀ p ∈ [(mv 8 (2 ^ 99 + 2 ^ 100), mmaMem), (mv 0x11 0, vecMem 0x20#8), (mv 0x14 0, vecMem 0x40#8), (mv 0x20 0, gthMem), (mv 0x21 0, sortMem),
        (mv 0x22 0, segMove), (mv 0x23 0, addMem)],
      lawful (movingIn p.1 p.2) (moverOf (movingIn p.1 p.2) 0 0 p.1) p.1 [] = true) := by decide

theorem test_meets_SequencerMovesAct :
    (Issues (moving (mv 0 0)) 0 0 (mv 0 0) (ofClass 0x00) ∧ Issues (moving (mv 1 0)) 0 0 (mv 1 0) (ofClass 0x01) ∧
      Issues (moving (mv 2 (2 ^ 82))) 0 0 (mv 2 (2 ^ 82)) (ofClass 0x02)) ∧
    (Issues (moving (mv 3 (0x17FFFF * 2 ^ 85))) 0 0 (mv 3 (0x17FFFF * 2 ^ 85)) (ofClass 0x03) ∧ tileAddrOk (4 * 0x17FFFF) 4 = true ∧
      tileAddrOk (4 * 0x180000) 4 = false ∧ (Work.start (moving (mv 3 (0x17FFFF * 2 ^ 85)))).rdPoison (tileAddr 0 (4 * 0x17FFFF)) 4 = false) ∧
    (Issues (moving (mv 4 (2 ^ 82 + 2 ^ 90 + 5 * 2 ^ 91))) 0 0 (mv 4 (2 ^ 82 + 2 ^ 90 + 5 * 2 ^ 91)) (ofClass 0x04) ∧
      bits (mv 4 (2 ^ 82 + 2 ^ 90 + 5 * 2 ^ 91)) 106 91 = 5 ∧ bits (mv 4 (2 ^ 82 + 2 ^ 90 + 5 * 2 ^ 91)) 89 82 = 1) ∧
    (Issues (moving (mv 5 (2 ^ 78 + 10 * 2 ^ 82))) 0 0 (mv 5 (2 ^ 78 + 10 * 2 ^ 82)) (ofClass 0x05) ∧
      bits (mv 5 (2 ^ 78 + 10 * 2 ^ 82)) 89 82 < 11 * regionCount ((moving 0).ctx 0)) ∧
    (Issues (moving (mv 6 (2 ^ 86))) 0 0 (mv 6 (2 ^ 86)) (ofClass 0x06) ∧ bits (mv 6 (2 ^ 86)) 85 82 < regionCount ((moving 0).ctx 0) ∧
      ((moving 0).region 0).want = none ∧ ((moving 0).region 0).pwr = .run ∧ Pwr.ofNum (Nat.min (bits (mv 6 (2 ^ 86)) 87 86) ((moving 0).ctx 0).deepest.num) = .nap) ∧
    (Issues (moving (mv 7 (2 ^ 83))) 0 0 (mv 7 (2 ^ 83)) (ofClass 0x07) ∧ bits (mv 7 (2 ^ 83)) 102 83 ≠ 0 ∧ bits (mv 7 0) 102 83 = 0) ∧
    (Issues (moving (mv 0x1D 0)) 0 0 (mv 0x1D 0) (fun m => ofClass 0x1D m && !bit m 82) ∧
      Issues (moving (mv 0x1D (2 ^ 82))) 0 0 (mv 0x1D (2 ^ 82)) (fun m => ofClass 0x1D m && bit m 82)) :=
  ⟨⟨of_issues (by decide), of_issues (by decide), of_issues (by decide)⟩, ⟨of_issues (by decide), by decide, by decide, by decide⟩,
    ⟨of_issues (by decide), by decide, by decide⟩, ⟨of_issues (by decide), by decide⟩, ⟨of_issues (by decide), by decide, by decide, by decide, by decide⟩,
    ⟨of_issues (by decide), by decide, by decide⟩, ⟨of_issues (by decide), of_issues (by decide)⟩⟩
/-- Region 1 of a context of two regions, in each state that SEQ_POWER can meet. -/
def powering (g : Region) (flights : List Flight) (m : Nat) : State :=
  { moving m with
    ctxs := [(0, { turnCtx 2 with mask := 3 })]
    regions := [(0, { holder := some 0, pwr := .run, mhz := 1800 }), (1, { g with holder := some 0 })]
    tiles := [(0, { active := true, buffer := [(0, some m)] }), (11, { active := true, flights := flights })] }
def toNap : Nat := mv 6 (2 ^ 82 + 2 ^ 86)
def toSleep : Nat := mv 6 (2 ^ 82 + 2 * 2 ^ 86)
def toRun : Nat := mv 6 (2 ^ 82)

theorem test_meets_SequencerMovesAct_power :
    (∀ p ∈ [(Pwr.run, toRun, Pwr.run), (.nap, toRun, .run), (.run, toNap, .nap), (.nap, toNap, .nap), (.nap, toSleep, .sleep), (.off, toSleep, .sleep)],
      issues (powering { pwr := p.1 } [] p.2.1) 0 0 p.2.1 (ofClass 0x06) = true ∧ bits p.2.1 85 82 = 1 ∧
      ctxRegion ((powering { pwr := p.1 } [] p.2.1).ctx 0) 1 = 1 ∧
      Pwr.ofNum (Nat.min (bits p.2.1 87 86) ((powering { pwr := p.1 } [] p.2.1).ctx 0).deepest.num) = p.2.2) ∧
    regionBusy (powering { pwr := .run } [] toNap) 1 = false ∧
    regionBusy (powering { pwr := .run } [⟨0, 0x10, .vector, [], none, none, false, 0, [], [], none⟩] toNap) 1 = true := by decide
theorem test_meets_StoreMovesMoveRows :
    (∀ k ∈ [0x18, 0x19, 0x1A, 0x1B, 0x1C], Issues (moving (mv k 0)) 0 0 (mv k 0) (ofClass k)) ∧ (moving (mv 0x18 0)).memOk = true ∧
    (Work.start (moving (mv 0x18 0))).storeDesc 0 (mvDesc (mv 0x18 0)) = { src := 0x1000, dst := 0x2000, rows := 1, bytes := 4, srcPitch := 4, dstPitch := 4 } ∧
    (nearOk (mvDesc (mv 0x18 0)) 32 = true ∧ nearOk (mvDesc (mv 0x18 (0x18000 * 2 ^ 82))) 32 = false) ∧
    (({ src := 0x1000, dst := 0x2000, rows := 1, bytes := 4, srcPitch := 4, dstPitch := 4 } : StoreDesc).ok = true ∧
      ({ src := 0, dst := 0, rows := 0, bytes := 4, srcPitch := 4, dstPitch := 4 } : StoreDesc).ok = false) ∧
    (tileRowsOk 0x1000 4 1 4 = true ∧ tileRowsOk 0x2000 4 1 4 = true ∧ tileRowsOk 0x600000 4 1 4 = false ∧ tileRowsOk 0x5FFFFC 4 1 4 = true) ∧
    (rowsApart 0x1000 4 4 0x2000 4 4 1 1 = true ∧ rowsApart 0x1000 4 4 0x1000 4 4 1 1 = false) ∧
    (10 < 11 * regionCount ((moving 0).ctx 0) ∧ bit (mv 0x19 (2 ^ 105)) 105 = true) ∧
    (Work.start (moving (mv 0x19 0))).translate 0 0x1000 4 false none = .ok 0x4000 ∧
    (Work.start (moving (mv 0x1A 0))).translate 0 0x2000 4 true none = .ok 0x5000 ∧
    Issues { moving (mv 0x19 (2 ^ 105)) with tiles := [(0, { active := true, buffer := [(0, some (mv 0x19 (2 ^ 105)))], once := 1 })] } 0 0
      (mv 0x19 (2 ^ 105)) (ofClass 0x19) :=
  ⟨by
    intro k hk
    simp only [List.mem_cons, List.not_mem_nil, or_false] at hk
    rcases hk with rfl | rfl | rfl | rfl | rfl <;> exact of_issues (by decide),
    by decide, by decide, by decide, by decide, by decide, by decide, by decide, of_answers (by decide), of_answers (by decide), of_issues (by decide)⟩

/-- Tile 0 hands a vector move off: its vector unit is busy with a stolen move and one of its own, and tile 1 offers. -/
def lends : Nat := mv 0x12 (2 ^ 81)
def flight (index : Nat) (u : UnitKind) (thief : Option Nat) (out : Nat) : Flight :=
  { index := index, cls := 0x12, unit := u, arrivals := [(0, 7)], thief := thief, once := none, hbm := false, out := out, errs := [] }
def lender : State :=
  { turning 2 descMem with
    tiles := [(0, { active := true, pos := 2, buffer := [(2, some lends)], flights := [flight 0 .array none 1, flight 1 .vector none 0,
                      flight 5 .vector (some 2) 0], drain := some 0, ask := some 1
                    streams := [(0, some { index := 1, chunksLeft := 3 }), (1, some { index := 2, chunksLeft := 3 })]
                    traceq := [leBytes 32 1] }),
      (1, { active := true, buffer := [(0, some (mv 0x12 (5 * 2 ^ 22 + 9 * 2 ^ 6)))], offers := [.vector] })]
    arrivals := [(0, 7)], traceDesc := [(0, some ⟨1, 0, 1, 0, 0, 0x1000, 4096, 0, 1⟩)] }

/-- Book 0 with a stream of one move for tile 0. -/
def streamMem : Table Byte := [(0x10012, 0x01#8), (0x10015, 0x01#8), (0x10100, 0x01#8), (0x10105, 0x02#8), (0x10108, 0x10#8)]

theorem test_meets_MovesCompleteAndSteal :
    (((lender.ctx 0).running = some book1 ∧ (lender.tile 0).active = true ∧ (lender.tile 0).buffer.get none 0 = none) ∧
      (Work.start (turning 2 streamMem)).stream book1 (ctxTile ((turning 2 streamMem).ctx 0) 0) = some ⟨1, 0, 0x200, 16⟩ ∧
      (Work.start lender).stream book1 0 = none) ∧
    ((lender.tile 0).drain = some 0 ∧ (lender.region 0).holder = some 0) ∧
    ((lender.tile 0).flights.find? (fun f => f.index = 1 && f.thief.isNone) = some (flight 1 .vector none 0) ∧
      (lender.tile 0).flights.find? (fun f => f.index = 5 && f.thief.isSome) = some (flight 5 .vector (some 2) 0) ∧
      (lender.tile 0).flights.find? (fun f => f.index = 9 && f.thief.isNone) = none ∧
      (lender.tile 0).flights.find? (fun f => f.index = 1 && f.thief.isNone && !f.blocked lender 0 0) = some (flight 1 .vector none 0) ∧
      (flight 0 .array none 1).blocked lender 0 0 = true) ∧
    ((0, 7) ∈ lender.arrivals ∧ (0, 8) ∉ lender.arrivals ∧ (lender.ctx 0).turn.live = true ∧ (lender.tile 0).tallies.get 0 7 ≠ 0xFFFF) ∧
    (handOff lender 0 0 = some lends ∧ offering lender 0 0 (unitOf (mvClass lends)) = [1] ∧ doubleUse lends = false ∧ handOff lender 0 1 = none ∧
      (lender.tile 0).ask = some 1) ∧
    (withLeft (lender.tile 0).streams [(0, 2), (1, 3)] = [(0, some { index := 1, chunksLeft := 2 }), (1, some { index := 2, chunksLeft := 3 })] ∧
      partnerOf lender 0 = none) ∧
    ((doubled (lender.region 0).map).contains 0 = false ∧ ∃ s : State, (doubled (s.region 0).map).contains 3 = true ∧ 2143 ∈ (s.tile 3).pages ∧
      7 ∉ (s.tile 3).pages ∧ s.memOk = true) ∧
    (lender.traceDesc.get none 0 = some ⟨1, 0, 1, 0, 0, 0x1000, 4096, 0, 1⟩ ∧ lender.traceDesc.get none 1 = none ∧ partCap 4096 = 126) ∧
    ((lender.tile 0).traceq = [leBytes 32 1] ∧ lender.memOk = true ∧ 0x1000 + (ctxTile (lender.ctx 0) 0 - 0) * 4096 = 0x1000) ∧
    (Work.start lender).translate 0 (0x1000 + 64) 32 true none = .ok 0x4040 ∧ (Work.start lender).translate 0 0x1000 64 true none = .ok 0x4000 :=
  ⟨by decide, by decide, by decide, by decide, by decide, by decide,
    ⟨by decide, { lender with
      regions := [(0, { holder := some 0, pwr := .run, map := [0, 1, 2, 2, 4, 5, 6, 7, 8, 9, 10] })]
      tiles := [(3, { pages := [2143] })] }, by decide⟩,
    by decide, by decide, of_answers (by decide), of_answers (by decide)⟩
theorem test_meets_stolen_lawful : lawful lender
    { c := 0, n := 0, phys := hostMesh lender 1, index := (lender.tile 0).pos, src := srcTile (hostMesh lender 1) } lends [] = true := by decide
theorem test_meets_stolen : ∃ e w r, stolenEffect [] { c := 0, n := 0, phys := hostMesh lender 1, index := (lender.tile 0).pos, src := srcTile (hostMesh lender 1) } lends
    ((Work.start lender).fire 0 0 lends) = (e, w) ∧ commit lender w = .next r := runs_of (by decide)
theorem test_meets_stolen_flies : (stolenEffect [] { c := 0, n := 0, phys := hostMesh lender 1, index := (lender.tile 0).pos, src := srcTile (hostMesh lender 1) } lends
    ((Work.start lender).fire 0 0 lends)).1.done = false := by decide

/-! #### HBM, scrubbers and self-tests -/

/-- A stack that runs, with an interval owed; then in self refresh; then with a channel to retrain. -/
def withStack (k : Stack) (p : Pwr) : State := { up with hbm := [(0, k)], regions := [(0, { pwr := p })] }

theorem test_meets_StacksServeAndRefresh :
    (q0.ok true = true ∧ q0.ok false = true ∧ { q0 with off := 2 ^ 36 }.ok true = false ∧
      { q0 with write := true, data := List.replicate 32 1#8, off := 2 ^ 36 - 32 }.ok true = true ∧ q0.err = .none) ∧
    (((withStack { st := 1 } .run).stack 0).st = 1 ∧ q0.held (withStack { st := 1 } .run) = false ∧ q0.follows { st := 1 } = false ∧
      q0.held (withStack { st := 1, retrainNow := [64 * channelAt up 0 0] } .run) = true ∧
      q0.follows { st := 1, waiting := [({ q0 with write := true }, true)] } = true ∧
      ((withStack { st := 2 } .off).stack 0).st = 2 ∧ (up.stack 0).st ≠ 1 ∧ (up.stack 0).st ≠ 2) ∧
    (windowOpen { withStack { st := 1 } .run with windows := [{ region := none, kinds := 1, start := 0, stop := 1000001, ran := [] }] } 0 0 = true ∧
      windowOpen (withStack { st := 1 } .run) 0 0 = false ∧ ({ st := 1, owed := [(2, 6)] } : Stack).owed.get 0 2 < 7 ∧
      7 ≤ ({ st := 1, owed := [(2, 7)] } : Stack).owed.get 0 2 ∧ ({ st := 1, calDue := [3] } : Stack).calDue.contains 3 = true ∧
      ({ st := 1 } : Stack).calDue.contains 3 = false) ∧
    (((withStack { st := 1, lastReq := 990000 } .off).region 0).pwr = .off ∧ 990000 + 10000 ≤ (withStack { st := 1 } .off).now ∧
      (withStack { st := 1 } .off).now < 990001 + 10000) ∧
    (windowOpen { withStack { st := 1 } .run with windows := [{ region := none, kinds := 2, start := 0, stop := 1000001, ran := [] }] } 0 1 = true ∧
      ({ st := 1 } : Stack).behind 1000000 = false ∧ ({ st := 1, ran := 2 * 3600000000000 } : Stack).behind 0 = true) ∧
    (∀ p ∈ ({ st := 1, waiting := [(q0, true)] } : Stack).waiting, apart p.1.off p.1.len (1 * 32) 32 = true) ∧
    (∀ p ∈ ({ st := 1, waiting := [(q0, true)] } : Stack).waiting, apart p.1.off p.1.len (0 * 32) 32 = false) ∧
    (retraining up 0 (channelAt up 0 0) = false ∧
      retraining (withStack { st := 1, retrainNow := [64 * channelAt up 0 0 + 5] } .run) 0 (channelAt up 0 0) = true) ∧
    (∀ p ∈ ({ st := 1, waiting := [(q0, true)] } : Stack).waiting, p.1.err = .none ∧ p.1.stack = 0 ∧
      ∀ o ∈ alignedPieces p.1.off p.1.len 128, channelAt (withStack { st := 1, waiting := [(q0, true)] } .run) 0 o = channelAt up 0 0) := by decide

/-- Physical tile 0 is suspect and has passed 16 runs; a window is open for its region; and a run of it that has just ended. -/
def suspects : State :=
  { turning 2 [] with
    flash := { suspects := [{ unit := .tile 0, since := -86400000000000 + 1000000, passed := 16 }] }
    windows := [{ region := some 0, kinds := 4, start := 1000000, stop := 1020000, ran := [] }] }

theorem test_meets_ScrubbersAndSelfTests :
    (regionOfMesh 143 = 11 ∧ ((suspects.region 0).pwr = .run ∧ (up.region 0).pwr = .off)) ∧ hostedTiles suspects 0 = [0] ∧
    (windowOpen suspects 0 1 = false ∧ ({ scrubStart := 1000000 } : Phys).behind 1000000 = false ∧
      ({} : Phys).behind 3600000000001 = true ∧
      (∃ s : State, windowOpen s 0 1 = true ∧ (s.region 0).pwr = .nap ∧ (s.region 0).scrubNap = some (.sleep, 5) ∧ (s.region 0).waking = none ∧
        (s.region 0).entering = none ∧ (s.region 0).wakeNext = none ∧ (s.ph 0).scrubbed + 1 = tileWords ∧
        ∀ i, i < 12 → meshOf 0 i ≠ 0 → 5 < (s.ph (meshOf 0 i)).scrubStart) ∧
      0xBFFFF < 0xC0000 ∧ 0x7FFFFF < 0x800000 ∧ hostedTiles { suspects with regions := [(0, { map := [0, 0, 2, 3, 4, 5, 6, 7, 8, 9, 10] })] } 0 = [0, 1] ∧
      hostedTiles suspects (meshOf 0 11) = []) ∧
    (∃ g : Region, g.pwr = .sleep ∧ g.downSince + 3600000000000 < 3600000000001 ∧ g.entering = none ∧ g.waking = none ∧ g.wakeNext = none) ∧
    (isSuspect suspects (.tile 0) = true ∧ isRetired suspects (.tile 0) = false ∧ (∀ t ∈ suspects.tests, t.unit ≠ .tile 0) ∧
      mayTest suspects (.tile 0) = true ∧ (1000000 ≤ suspects.now ∧ suspects.now + runNs (.tile 0) ≤ 1020000) ∧ bit 4 2 = true) ∧
    (([{ unit := .tile 0, start := 980000 }] : List TestRun).find? (fun t => t.unit = .tile 0) = some { unit := .tile 0, start := 980000 } ∧
      980000 + runNs (.tile 0) ≤ suspects.now ∧ suspects.now < 980001 + runNs (.tile 0)) ∧
    ((suspects.region (UnitId.tile 0).region).holder = some 0 ∧ (suspects.ctx 0).turn.live = true ∧ suspects.retiring = [] ∧
      regionHeld suspects (UnitId.tile 0).region = true) ∧
    (suspectOf suspects (.tile 0) = some { unit := .tile 0, since := -86400000000000 + 1000000, passed := 16 } ∧
      ((-86400000000000 + 1000000 : Int) + 86400000000000 ≤ suspects.now) ∧ suspectOf suspects (.tile 1) = none) :=
  ⟨by decide, by decide,
    ⟨by decide, by decide, by decide, ⟨{ suspects with
      windows := [{ region := none, kinds := 2, start := 0, stop := 1000001, ran := [] }]
      regions := [(0, { pwr := .nap, scrubNap := some (.sleep, 5) })]
      phys := (List.range 144).map (fun p => (p, if p = 0 then { scrubbed := tileWords - 1 } else { scrubStart := 6 })) }, by decide⟩,
      by decide, by decide, by decide, by decide⟩,
    ⟨{ pwr := .sleep }, by decide⟩, by decide, by decide, by decide, by decide⟩

/-! #### Packets -/

/-- Job 5 has context 0 open, with a page at package address 0x3000; and a packet of that job, untagged. -/
def jobbed : State :=
  { live { ctx0 with job := 5, allocs := [{ addr := 0x3000, bytes := 4096, use := .segment 0 }] } with
    ports := [(0, { st := 2 })], form := { form := 2, coord := { x := 1 }, ext := { x := 4, y := 1, z := 1 } } }
def p5 : Parcel := { p0 with tag := { p0.tag with job := 5 }, pkt := { p0.pkt with addr := 0x3000, dst := { x := 1 } } }
/-- The same job with the tiles of region 0, which runs; and a write to its tile 0. -/
def tiled : State := { jobbed with regions := [(0, { holder := some 0, pwr := .run })] }
def toTile0 : Parcel := { p5 with pkt := { p5.pkt with addr := tileWindowBase, type := 0 } }
def request0 (owner : Owner) (dest : Dest) (write : Bool) : Request :=
  { tag := 0, write := write, ctx := 0, untagged := true, to_ := {}, owner := owner, dest := dest }

theorem test_meets_PacketsReachTheirTarget :
    (jobCtx jobbed 5 = some 0 ∧ jobCtx jobbed 6 = none ∧ allocated (jobbed.ctx 0) 0x3000 (Nat.max 1 4) = true ∧
      allocated (jobbed.ctx 0) 0x4000 (Nat.max 1 4) = false ∧ allocated (jobbed.ctx 0) 0x3FFC 4 = true) ∧
    (current jobbed 0 p5.tag = true ∧ current jobbed 0 { p5.tag with untagged := false } = false ∧
      inOneWindow p5.pkt.addr p5.pkt.payload.length = true ∧ jobbed.memOk = true) ∧
    (answered { jobbed with requests := [request0 (.move 0 1) (.mem 0x3000) false] } p5 false = some (request0 (.move 0 1) (.mem 0x3000) false) ∧
      answered jobbed p5 false = none ∧ answered jobbed p5 true = none) ∧
    (answered { behind (.remote 4) with requests := [request0 (.command 0 5) .none false] } p5 false = some (request0 (.command 0 5) .none false) ∧
      (behind (.remote 4)).actives.find? (fun a => a.ring = 0 && a.index = 5) = some (started (.remote 4))) ∧
    CanPost (behind (.remote 4)) (started (.remote 4)) ∧
    (answered { jobbed with requests := [request0 (.move 0 1) .none true] } p5 true = some (request0 (.move 0 1) .none true)) ∧
    (p5.pkt.src = (request0 (.move 0 1) .none true).to_ ∧ (jobbed.ctx 0).st = .opened) ∧
    (∃ q, wayOf jobbed p5 = .deliver q ∧ placeOf jobbed q.pkt = .stack) ∧
    (∃ q, wayOf jobbed { p5 with pkt := { p5.pkt with addr := 0, type := 7 } } = .deliver q ∧ placeOf jobbed q.pkt = .hub) ∧
    (∃ q, wayOf jobbed toTile0 = .deliver q ∧ placeOf jobbed q.pkt = .tile 0 0) ∧
    (∃ q, wayOf jobbed { p5 with pkt := { p5.pkt with dst := { x := 2 } } } = .out 0 q ∧ (jobbed.port 0).maySend = true ∧ (jobbed.port 0).txq = [] ∧
      0 < (jobbed.port 0).credit q.vc ∧ q.vc < 5) ∧
    (∃ (x : State) (q : Parcel), wayOf x { p5 with pkt := { p5.pkt with dst := { x := 2 } } } = .out 0 q ∧ (x.port 0).maySend = false) ∧
    wayOf { jobbed with form := { jobbed.form with missing := [{ x := 2 }] } } { p5 with pkt := { p5.pkt with dst := { x := 2 } } } = .drop ∧
    (targetRegion 0 toTile0.pkt = some 0 ∧ allocated (tiled.ctx 0) toTile0.pkt.addr (Nat.max 1 4) = true ∧ current tiled 0 toTile0.tag = true ∧
      (tiled.region 0).keepsOut = false ∧ ({ pwr := .sleep } : Region).keepsOut = true ∧
      (ctxTiles (tiled.ctx 0)).contains p5.pkt.sigTile = true ∧ (ctxTiles (tiled.ctx 0)).contains 11 = false) ∧
    (∃ q : Packet, q.poison = true) ∧ LineErrors.corrects [] = true ∧ LineErrors.corrects ((List.range 7).map (fun i => (2 * i, 1#8))) = false ∧
    ((jobbed.port 0).naks < 7 ∧ ({ nakFor := some 0 } : Port).nakFor = some 0) ∧
    ((jobbed.port 0).st = 2 ∧ (jobbed.port 1).st ≠ 2 ∧ (jobbed.port 0).rxChange = none ∧ (jobbed.port 0).nakFor ≠ some (jobbed.port 0).x) :=
  ⟨by decide, by decide, by decide, by decide, ⟨by decide, by decide, by decide, by decide⟩, by decide, by decide, ⟨_, rfl, by decide⟩,
    ⟨_, rfl, by decide⟩, ⟨_, rfl, by decide⟩, ⟨_, rfl, by decide⟩, ⟨{ jobbed with ports := [(0, { st := 2, pause := true })] }, _, rfl, by decide⟩, by decide, by decide, ⟨{ p5.pkt with poison := true }, rfl⟩,
    by decide, by decide, by decide, by decide⟩

/-- A CRC has 20 bits, so a flit of any body and trailer can carry its own. -/
theorem crc20_bound (bs : List Bool) : crc20 bs < 2 ^ 20 := by
  have : ∀ (bs : List Bool) (c : Nat), c < 2 ^ 20 → bs.foldl (fun c b =>
      let top := c.testBit 19
      let c := c * 2 % 2 ^ 20
      if top == b then c else c ^^^ 0x85B4B) c < 2 ^ 20 := by
    intro bs
    induction bs with
    | nil => exact fun c h => h
    | cons b bs ih =>
      intro c _
      refine ih _ ?_
      dsimp only
      split
      · exact Nat.mod_lt _ (by decide)
      · exact Nat.xor_lt_two_pow (Nat.mod_lt _ (by decide)) (by decide)
  exact this bs 0xFFFFF (by decide)
theorem ofLe_leBytes : ∀ n x, ofLe (leBytes n x) = x % 256 ^ n := by
  intro n
  induction n with
  | zero => intro x; simp [leBytes, ofLe, Nat.mod_one]
  | succ n ih =>
    intro x
    simp only [leBytes, ofLe, ih, BitVec.toNat_ofNat]
    rw [show (256 : Nat) ^ (n + 1) = 256 * 256 ^ n from Nat.pow_succ', Nat.mod_mul]

/-- A data flit of zeros with the trailer `low`, its CRC right: in order, ahead, repeated, or with CTL set. -/
def flitOf (low : Nat) : List Byte := List.replicate 250 0 ++ leBytes 6 (low + flitCrc (List.replicate 250 0) low * 2 ^ 28)
theorem flitOf_reads {low : Nat} (h : low < 2 ^ 28) : (flitOf low).take 250 = List.replicate 250 0 ∧
    ofLe (slice (flitOf low) 250 6) % 2 ^ 28 = low ∧ bits (ofLe (slice (flitOf low) 250 6)) 47 28 = flitCrc (List.replicate 250 0) low := by
  have hc : flitCrc (List.replicate 250 0) low < 2 ^ 20 := crc20_bound _
  have h1 : (flitOf low).take 250 = List.replicate 250 0 := by
    unfold flitOf
    rw [List.take_left' (by rw [List.length_replicate])]
  have h2 : ofLe (slice (flitOf low) 250 6) = low + flitCrc (List.replicate 250 0) low * 2 ^ 28 := by
    unfold slice flitOf
    rw [List.drop_left' (by rw [List.length_replicate]), show ∀ x, List.take 6 (leBytes 6 x) = leBytes 6 x from fun _ => rfl, ofLe_leBytes]
    omega
  refine ⟨h1, ?_, ?_⟩
  · rw [h2]; omega
  · rw [h2, bits, Nat.shiftRight_eq_div_pow]; omega
theorem test_meets_DataFrame : (∀ low ∈ [0, 0x8000000, 1, 1023, 1024, 4095], flitCrc ((flitOf low).take 250) (ofLe (slice (flitOf low) 250 6) % 2 ^ 28) =
      bits (ofLe (slice (flitOf low) 250 6)) 47 28) ∧
    bit 0x8000000 27 = true ∧ (∀ low ∈ [0, 1, 1023, 1024, 4095], bit low 27 = false) ∧ modSub 12 (bits 0 11 0) (jobbed.port 0).x = 0 ∧
    modSub 12 (bits 1023 11 0) (jobbed.port 0).x = 1023 ∧ modSub 12 (bits 1024 11 0) (jobbed.port 0).x = 1024 ∧
    (jobbed.port 0).txq = [] := by
  refine ⟨fun low h => ?_, by decide, by decide, by decide, by decide, by decide, by decide⟩
  · have hl : low < 2 ^ 28 := by
      simp only [List.mem_cons, List.not_mem_nil, or_false] at h
      omega
    obtain ⟨h1, h2, h3⟩ := flitOf_reads hl
    rw [h1, h2, h3]

/-! #### Ports -/

/-- Port 0 as given, the other ports DOWN. -/
def wired (q : Port) : State := { up with ports := [(0, q)], form := { form := 2, coord := { x := 1 }, ext := { x := 4, y := 1, z := 1 } } }
def kept5 : Kept := { seq := 5, parcel := p5 }

/-- A port that is UP, with a kept flit; with a change of its own direction or of the other; in recalibration. -/
def upPort : Port := { st := 2, kept := [kept5], goodTx := 0xFFFF, goodRx := 0xFFFF, txW := 16, rxW := 16, nakFor := some 0 }

theorem test_meets_PortsKeepTheirFlits :
    (((wired {}).port 0).st ≠ 2 ∧ ((wired upPort).port 0).st = 2 ∧ ((wired upPort).port 0).txq = [] ∧ upPort.pause = false ∧ upPort.txChange = none ∧
      upPort.rxChange = none ∧ upPort.kept ≠ [] ∧ upPort.nakFor = some upPort.x) ∧
    (∃ q : Port, q.st = 2 ∧ q.pause = true ∧ q.heldChange = [] ∧ q.heldNak = none ∧ q.resendOwed = false) ∧
    (∃ q : Port, q.st = 2 ∧ q.pause = true ∧ q.heldChange = [] ∧ q.heldNak = none ∧ q.resendOwed = true ∧ q.txChange = none) ∧
    (∃ (q : Port) (k : LaneChange), q.st = 2 ∧ q.pause = true ∧ q.rxChange = none ∧ q.txChange = some k) ∧
    (upPort.naks < 7 ∧ ∃ q : Port, q.st = 2 ∧ q.nakFor = some q.x ∧ q.rxChange = none ∧ 7 ≤ q.naks ∧ q.worstLane < laneCount 0 ∧
      bit q.goodRx q.worstLane = true ∧ widthFor 0 (q.goodRx - (q.goodRx &&& 2 ^ q.worstLane)) ≠ 0) ∧
    (∃ q : Port, q.st = 2 ∧ q.pause = false ∧ q.txChange.isSome = true) ∧
    (0x000F &&& upPort.goodTx = 0x000F ∧ widthFor 0 0x000F = 4 ∧ widthFor 0 0x0007 = 0 ∧ widthFor 4 0x0003 = 2 ∧ widthFor 4 0x0001 = 0) ∧
    (∃ (q : Port) (k : LaneChange), q.st = 2 ∧ q.rxChange = some k ∧ k.both = true ∧ q.txChange = none ∧ widthFor 0 (k.mask &&& 0x000F) ≠ 0) ∧
    (∃ (q : Port) (k : LaneChange), q.st = 2 ∧ q.rxChange = none ∧ q.txChange = some k) ∧
    (laneCount 0 ≤ 16 ∧ 15 < laneCount 0 ∧ bit upPort.goodRx 15 = true ∧ upPort.goodRx - (upPort.goodRx &&& 2 ^ 15) = 0x7FFF ∧
      widthFor 0 0x7FFF = 14) ∧
    (∃ q : Port, q.st = 2 ∧ bit q.goodRx 3 = true ∧ widthFor 0 (q.goodRx - (q.goodRx &&& 2 ^ 3)) = 0) ∧
    Machine.behind (wired upPort) 0 = some { x := 2 } :=
  ⟨by decide, ⟨{ st := 2, pause := true }, by decide⟩, ⟨{ st := 2, pause := true, resendOwed := true }, by decide⟩,
    ⟨{ st := 2, pause := true, txChange := some { mask := 15, both := true } }, { mask := 15, both := true }, by decide⟩,
    ⟨by decide, { upPort with naks := 7 }, by decide⟩, ⟨{ st := 2, txChange := some { mask := 15, both := true } }, by decide⟩, by decide,
    ⟨{ st := 2, rxChange := some { mask := 0xFF, both := true } }, { mask := 0xFF, both := true }, by decide⟩,
    ⟨{ st := 2, txChange := some { mask := 15, both := true } }, { mask := 15, both := true }, by decide⟩, by decide,
    ⟨{ st := 2, goodRx := 15 }, by decide⟩, by decide⟩

/-- A partner's HELLO, by its port and slot. -/
def greet (port slot : Nat) : HelloBody := { port := port, slot := slot, straps := 0, deviceId := 0, serial := 9, version := 0x0200, goodLanes := 0xFFFF }

theorem test_meets_PortsTrain :
    ((((wired { st := 1, step := 5 }).port 0).st = 1 ∧ ((wired { st := 1, step := 5 }).port 0).step = 5) ∧ ((wired {}).port 0).st ≠ 1 ∧ ((wired {}).port 0).st ≠ 2) ∧
    ((∃ r : TrainResult, r.signal = true ∧ widthFor 0 (lowBits (laneCount 0) r.good) ≠ 0) ∧
      ∃ r : TrainResult, r.signal = false ∧ widthFor 0 (lowBits (laneCount 0) r.good) = 0) ∧
    (∀ n ∈ [1, 2, 3, 5, 6], ((wired { st := 1, step := n, prior := some 4 }).port 0).step = n ∧
      ((wired { st := 1, step := n, prior := some 4 }).port 0).prior ≠ none ∧ ((wired { st := 1, step := n }).port 0).txq = []) ∧
    ((greet 0 1).port ≠ (if portUp 0 then 0 + 1 else 0 - 1) ∧ (greet 1 1).port = (if portUp 0 then 0 + 1 else 0 - 1)) ∧
    (slotFits (wired {}).pins.slot 0 1 = true ∧ slotFits (wired {}).pins.slot 0 2 = false ∧ (4 ≤ 4 ∧ (greet 5 0).port = (if portUp 4 then 4 + 1 else 4 - 1))) ∧
    (widthFor 0 (0xFFFF &&& (greet 1 1).goodLanes) ≠ 0 ∧ widthFor 0 (7 &&& (greet 1 1).goodLanes) = 0) ∧
    (∃ q : Port, q.st = 1 ∧ q.step = 5 ∧ q.pValid = true) ∧
    (∃ (s : State) (q : Port), q = s.port 1 ∧ q.st = 1 ∧ q.step = 6 ∧ q.prior ≠ none ∧ q.txq = [] ∧ s.form.form = 2 ∧
      slotFits s.pins.slot 1 q.pSlot = true) ∧
    ∃ q : Port, (q.st = 3 ∨ q.st = 4) ∧ q.quiet = true ∧ (if 0 < 4 then 4 else 2) ≤ 4 :=
  ⟨by decide, ⟨⟨⟨true, 0xFFFF, 0⟩, by decide⟩, ⟨⟨false, 7, 0⟩, by decide⟩⟩, by decide, by decide, by decide, by decide,
    ⟨{ st := 1, step := 5, pValid := true }, by decide⟩,
    ⟨{ wired {} with ports := [(1, { st := 1, step := 6, prior := some 4, pSlot := 3 })], pins := { slot := 0 } }, _, rfl, by decide⟩,
    ⟨{ st := 4, quiet := true }, by decide⟩⟩

/-! #### Time, power, resets and boot -/

/-- A formed package one step along X from the Banker, its clock as given. -/
def synced (x : FTime) : State := { wired {} with time := x, ports := [(1, { st := 2 })] }

theorem test_meets_TimeFollowsItsParent :
    (clockRuns up = true ∧ clockRuns State.reset = false) ∧
    ((∃ x : FTime, 0 < x.slew ∧ 249 ≤ x.slewTicks) ∧ (∃ x : FTime, x.slew < 0 ∧ 249 ≤ x.slewTicks) ∧ ∃ x : FTime, x.slew ≠ 0 ∧ x.slewTicks < 249) ∧
    ((∀ c, c < 16 → (up.ctx c).st = .closed) ∧ ∀ k, k < 12 → (up.stack k).marked = []) ∧
    ((jobbed.ctx 0).st ≠ .closed ∧ 0 ∈ ctxTiles (jobbed.ctx 0) ∧
      ({ jobbed with regions := [(0, { holder := some 0, pwr := .nap })] }.region (0 / 11)).pwr ≠ .run) ∧
    ((synced { parent := 1 }).form.form = 2 ∧ (synced { parent := 1 }).time.root = false ∧ parentPort (synced { parent := 1 }) = some 1 ∧
      (synced {}).time.parent ≠ 1 ∧ ((synced {}).port 1).st = 2 ∧ (synced {}).time.interp ≤ 39 ∧ up.form.form ≠ 2) ∧
    (epochAbove (synced {}).form.epoch 0 = false ∧ epochAbove 1 0 = true) ∧
    ((synced { state := 1, count := 20000000, lastReply := 10000000 }).time.lastReply + 10000000 ≤ (synced { state := 1, count := 20000000, lastReply := 10000000 }).now ∧
      (synced { state := 1, count := 19999999, lastReply := 10000000 }).now < 10000000 + 10000000) ∧
    (∃ x : FTime, x.goodSince = some 0 ∧ x.state = 1) :=
  ⟨by decide, ⟨⟨{ slew := 1, slewTicks := 249 }, by decide⟩, ⟨{ slew := -1, slewTicks := 249 }, by decide⟩, ⟨{ slew := 1 }, by decide⟩⟩, by decide,
    by decide, by decide, by decide, by decide, ⟨{ goodSince := some 0, state := 1 }, by decide⟩⟩

/-- Region 2 as given. -/
def powered (g : Region) : State := { up with regions := [(2, g)] }

theorem test_meets_PowerFollowsItsSamples :
    ((powered {}).region 2).entering = none ∧
    (∃ g : Region, g.entering = some .off ∧ g.wakeNext = none) ∧ (∃ g : Region, g.entering = some .sleep ∧ g.wakeNext = some .run) ∧
    (∃ g : Region, g.pwr = .run ∧ g.want = none ∧ g.entering = none) ∧
    (wantsWake (powered {}) 2 = false ∧ ∃ g : Region, g.pwr = .sleep ∧ g.ingress ≠ [] ∧ g.entering = none ∧ g.waking = none ∧ g.wakeNext = none) ∧
    ((List.range 12).any (fun q => decide (q ≠ 2) && decide ((powered {}).now < ((powered {}).region q).rampEnd)) = false ∧
      ∃ s : State, (List.range 12).any (fun q => decide (q ≠ 2) && decide (s.now < (s.region q).rampEnd)) = true) ∧
    (∃ (s : State) (g : Region), g = s.region 0 ∧ g.waking = some .run ∧ g.want = none ∧ g.entering = none ∧ g.ingress = [(toTile0, [])] ∧
      toTile0.pkt.type = 0 ∧ jobCtx s toTile0.tag.job = some 0 ∧ allocated (s.ctx 0) toTile0.pkt.addr (Nat.max 1 toTile0.pkt.len) = true ∧
      current s 0 toTile0.tag = true ∧ inOneWindow toTile0.pkt.addr toTile0.pkt.payload.length = true ∧ s.memOk = true) ∧
    (((powered {}).region 2).pwr ≠ .run ∧ ((powered {}).region 2).entering = none ∧ ((powered {}).region 2).waking = none ∧ ((powered {}).region 2).wakeNext = none) ∧
    (∃ g : Region, g.waking = some .run ∧ g.want = none) ∧ (∃ g : Region, g.waking = some .sleep ∧ g.wakeNext = none) ∧
    (∃ g : Region, g.pendMhz = some 1200) ∧
    (up.power.lastCur + 10000 ≤ up.now ∧ up.power.lastCur + 1000000 ≤ up.now ∧ up.power.tripped = false) ∧
    (∃ x : Power, x.curMhz < 1800) ∧ (up.power.capW < 3201 ∧ 3200 ≤ up.power.capW ∧ 3104 * 100 ≥ up.power.capW * 97 ∧ 3103 * 100 < up.power.capW * 97) ∧
    ((powered {}).region 2).lastHot = 0 ∧ (powered {}).power.stackTemp.get 0 2 ≤ 950 ∧
    ((powered { thermMhz := 1750 }).region 2).thermMhz < 1800 ∧ ((powered { thermMhz := 1750 }).region 2).lastCool + 1000000 ≤ (powered {}).now ∧
    ((powered { lastHot := 900000 }).region 2).lastHot + 100000 ≤ (powered {}).now :=
  ⟨by decide, ⟨{ entering := some .off }, by decide⟩, ⟨{ entering := some .sleep, wakeNext := some .run }, by decide⟩, ⟨{ pwr := .run }, by decide⟩,
    ⟨by decide, { pwr := .sleep, ingress := [(p5, [])] }, by decide⟩, ⟨by decide, { powered {} with regions := [(3, { rampEnd := 1000001 })] }, by decide⟩,
    ⟨{ jobbed with regions := [(0, { holder := some 0, pwr := .sleep, waking := some .run, ingress := [(toTile0, [])] })] }, _, rfl, by decide⟩, by decide,
    ⟨{ waking := some .run }, by decide⟩, ⟨{ waking := some .sleep }, by decide⟩, ⟨{ pendMhz := some 1200 }, by decide⟩, by decide,
    ⟨{ curMhz := 1750 }, by decide⟩, by decide, by decide, by decide, by decide, by decide, by decide⟩

theorem test_meets_ResetInputsReset :
    (up.pins.aonN = true ∧ up.pins.vaon = true ∧ up.pins.vio18 = true ∧ up.pins.pwrGood = true ∧ up.pins.pkgN = true) ∧
    (State.reset.pins.aonN = false ∧ State.reset.pins.pwrGood = false ∧ State.reset.pins.pkgN = false ∧ State.reset.pins.vio18 = true) ∧
    (∃ p : Pins, p.vaon = false) ∧ ∃ p : Pins, p.vio18 = false :=
  ⟨by decide, by decide, ⟨{ vaon := false }, rfl⟩, ⟨{ vio18 := false }, rfl⟩⟩

/-- A package whose management firmware has run, in a boot stage. -/
def staged (n : Nat) (fw : Bool) : State := { up with boot := { stage := n, fwReady := fw }, pins := { aonN := true, perstN := true } }
def straps0 (ra : Nat) : Straps := { bankerEn := false, standbyEn := false, slot := 0, legacy := false, raMode := ra }

theorem test_meets_BootGoesInStages :
    ((State.reset.pins.aonN = false ∧ State.reset.pins.vio18 = true) ∧ (straps0 0).raMode % 4 = 0 ∧ (straps0 1).raMode % 4 ≠ 0 ∧ up.pins.aonN = true) ∧
    ((staged 1 false).mgt.running = true ∧ (staged 1 false).boot.stage = 1 ∧ ∀ u, isRetired (staged 1 false) u = false) ∧
    (∃ s : State, s.mgt.running = true ∧ s.boot.stage = 1 ∧ s.flash.failed = [meshOf 2 3] ∧ s.flash.retired = []) ∧
    ((staged 2 false).boot.stage = 2 ∧ (staged 2 false).pins.perstN = true ∧ (staged 2 false).boot.host = false ∧ ((staged 2 false).core 0).retired = false) ∧
    (((staged 2 false).stack 11).st = 0 ∧ (staged 2 false).boot.fwReady = false ∧ (staged 5 true).boot.stage ≤ 5) ∧
    ((staged 5 true).retiring = [] ∧ State.reset.pins.perstN = false ∧ up.boot.host = true ∧ up.retiring = [] ∧ (staged 3 true).boot.fwReady = true) :=
  ⟨by decide, ⟨rfl, rfl, fun u => by cases u <;> rfl⟩,
    ⟨{ staged 1 false with flash := { failed := [meshOf 2 3] } }, by decide⟩, by decide, by decide, by decide⟩

end Sys2Proof.Tests
end

section
/-! Every command is a run of some work (`exec_run`), so it keeps the queue and is never refused. A command of `neverStops` answers a next
state because the operations that its work is made of leave the stop alone: their footprints (Laws/Frame) lie in `allButStop`. -/

namespace Sys2Proof.Machine

/-- A run answers a next state with the queue it met, or stops where a rule leaves the behaviour UNPREDICTABLE. -/
theorem run_next_or_unpredictable (s : State) (f : Work → Work) :
    (∃ t, run s f = .next t ∧ t.pending = s.pending) ∨ ∃ rule, run s f = .fault (.unpredictable rule) := by
  cases h : (f (Work.start s)).stop with
  | none => exact .inl ⟨_, run_of_ok h, rfl⟩
  | some r =>
    obtain ⟨rule⟩ := r
    exact .inr ⟨rule, by simp only [run, commit, h]⟩

/-- Every part of the working state but the stop. -/
def allButStop (p : Part) : Bool := decide (p ≠ .stop)

@[simp] theorem allButStop_eq (p : Part) : allButStop p = decide (p ≠ .stop) := rfl

/-- Without all parts but the stop, two works agree just where their stops do. -/
theorem Work.erase_allButStop_iff (w v : Work) : w.erase allButStop = v.erase allButStop ↔ w.stop = v.stop :=
  ⟨fun h => Work.keeps_stop h rfl, fun h => by simp [Work.erase, Work.rest, h]⟩

/-- A command runs when its work leaves the stop alone. -/
theorem runs_of_keeps {c : Instr} {s : State} {f : Work → Work} (hx : exec c s = run s f)
    (hf : ∀ w, (f w).erase allButStop = w.erase allButStop) : Runs c s :=
  ⟨_, hx.trans (run_of_ok ((Work.erase_allButStop_iff _ _).1 (hf (Work.start s))))⟩

/-! ### What the footprint lemmas do not name -/

/-- Any update of the working state that carries the stop over. -/
@[simp] theorem Work.erase_mk (w : Work) (s : State) (mw : List MemOp) (hw : List (Nat × Byte)) (sw : List MemOp) :
    (Work.mk s mw hw sw w.stop).erase allButStop = w.erase allButStop := (Work.erase_allButStop_iff _ _).2 rfl

@[simp] theorem Work.setTile_keeps (w : Work) (i : Nat) (v : Tile) : (w.setTile i v).erase allButStop = w.erase allButStop :=
  (Work.erase_allButStop_iff _ _).2 rfl

@[simp] theorem Work.toReset_keeps (w : Work) (s : State) (cause : Nat) :
    (w.toReset s cause).erase allButStop = w.erase allButStop := (Work.erase_allButStop_iff _ _).2 rfl

@[simp] theorem Work.packageReset_keeps (w : Work) (cause : Nat) :
    (w.packageReset cause).erase allButStop = w.erase allButStop := by
  simp [Work.packageReset]

/-! ### The scheduler -/

@[simp] theorem runs_coreDispatch (core : Nat) (s : State) : Runs (.coreDispatch core) s :=
  runs_of_keeps (exec_coreDispatch ..) fun w => by simp

@[simp] theorem runs_coreReleaseYield (core : Nat) (s : State) : Runs (.coreReleaseYield core) s :=
  runs_of_keeps (exec_coreReleaseYield ..) fun w => by simp

@[simp] theorem runs_coreReleaseBlock (core event : Nat) (s : State) : Runs (.coreReleaseBlock core event) s :=
  runs_of_keeps (exec_coreReleaseBlock ..) fun w => by simp

@[simp] theorem runs_coreReleaseExit (core : Nat) (s : State) : Runs (.coreReleaseExit core) s :=
  runs_of_keeps (exec_coreReleaseExit ..) fun w => by split <;> simp

@[simp] theorem runs_coreSignal (core event : Nat) (s : State) : Runs (.coreSignal core event) s :=
  runs_of_keeps (exec_coreSignal ..) fun w => by simp

@[simp] theorem runs_corePreemptClear (core value : Nat) (s : State) : Runs (.corePreemptClear core value) s :=
  runs_of_keeps (exec_corePreemptClear ..) fun w => by simp

@[simp] theorem runs_quantumExpiry (core : Nat) (s : State) : Runs (.quantumExpiry core) s :=
  runs_of_keeps (exec_quantumExpiry ..) fun w => by split <;> simp

@[simp] theorem runs_schedulerWindowEnd (s : State) : Runs .schedulerWindowEnd s :=
  runs_of_keeps (exec_schedulerWindowEnd ..) fun w => by simp

/-! ### Rings, doorbells and function control -/

@[simp] theorem runs_cqDoorbell (fn ring value : Nat) (s : State) : Runs (.cqDoorbell fn ring value) s :=
  runs_of_keeps (exec_cqDoorbell ..) fun w => by simp

@[simp] theorem runs_flush (fn ring : Nat) (s : State) : Runs (.flush fn ring) s :=
  runs_of_keeps (exec_flush ..) fun w => by simp

@[simp] theorem runs_ringDisable (fn ring : Nat) (s : State) : Runs (.ringDisable fn ring) s :=
  runs_of_keeps (exec_ringDisable ..) fun w => by simp

@[simp] theorem runs_msixExpiry (fn vec : Nat) (s : State) : Runs (.msixExpiry fn vec) s :=
  runs_of_keeps (exec_msixExpiry ..) fun w => by simp

/-! ### Power, clocks and temperature -/

@[simp] theorem runs_regionEntryDone (region : Nat) (s : State) : Runs (.regionEntryDone region) s :=
  runs_of_keeps (exec_regionEntryDone ..) fun w => by
    dsimp only
    split <;> simp

@[simp] theorem runs_partialWakeDone (region : Nat) (s : State) : Runs (.partialWakeDone region) s :=
  runs_of_keeps (exec_partialWakeDone ..) fun w => by
    dsimp only
    split <;> simp

@[simp] theorem runs_voltageSettled (region : Nat) (s : State) : Runs (.voltageSettled region) s :=
  runs_of_keeps (exec_voltageSettled ..) fun w => by
    dsimp only
    split <;> simp

@[simp] theorem runs_currentSample (amps avg10 avg1 : Nat) (over5us : Bool) (mv : Nat) (s : State) :
    Runs (.currentSample amps avg10 avg1 over5us mv) s :=
  runs_of_keeps (exec_currentSample ..) fun w => by simp

@[simp] theorem runs_powerCapCheck (watts : Nat) (s : State) : Runs (.powerCapCheck watts) s :=
  runs_of_keeps (exec_powerCapCheck ..) fun w => by simp

@[simp] theorem runs_thermalSample (sensor tenths : Nat) (s : State) : Runs (.thermalSample sensor tenths) s :=
  runs_of_keeps (exec_thermalSample ..) fun w => by simp

/-! ### Service programs, traps and core stops -/

@[simp] theorem runs_svcExit (core code : Nat) (s : State) : Runs (.svcExit core code) s :=
  runs_of_keeps (exec_svcExit ..) fun w => by simp

@[simp] theorem runs_svcYield (core : Nat) (s : State) : Runs (.svcYield core) s :=
  runs_of_keeps (exec_svcYield ..) fun w => by simp

@[simp] theorem runs_svcWaitEvent (core event : Nat) (s : State) : Runs (.svcWaitEvent core event) s :=
  runs_of_keeps (exec_svcWaitEvent ..) fun w => by simp

@[simp] theorem runs_svcSignal (core event : Nat) (s : State) : Runs (.svcSignal core event) s :=
  runs_of_keeps (exec_svcSignal ..) fun w => by simp

@[simp] theorem runs_svcSleepUntil (core time : Nat) (s : State) : Runs (.svcSleepUntil core time) s :=
  runs_of_keeps (exec_svcSleepUntil ..) fun w => by simp

@[simp] theorem runs_sleepExpiry (thread : Nat) (s : State) : Runs (.sleepExpiry thread) s :=
  runs_of_keeps (exec_sleepExpiry ..) fun w => by split <;> simp

@[simp] theorem runs_svcTimeRead (core : Nat) (s : State) : Runs (.svcTimeRead core) s :=
  runs_of_keeps (exec_svcTimeRead ..) fun w => by simp

@[simp] theorem runs_svcSetHandler (core handler : Nat) (s : State) : Runs (.svcSetHandler core handler) s :=
  runs_of_keeps (exec_svcSetHandler ..) fun w => by simp

@[simp] theorem runs_svcUnknown (core number : Nat) (s : State) : Runs (.svcUnknown core number) s :=
  runs_of_keeps (exec_svcUnknown ..) fun w => by simp

@[simp] theorem runs_userTrap (core cause pc : Nat) (regs : List Nat) (s : State) : Runs (.userTrap core cause pc regs) s :=
  runs_of_keeps (exec_userTrap ..) fun w => by simp

@[simp] theorem runs_coreStop (core cause : Nat) (s : State) : Runs (.coreStop core cause) s :=
  runs_of_keeps (exec_coreStop ..) fun w => by simp

@[simp] theorem runs_mgtWatchdogReset (cause : Nat) (s : State) : Runs (.mgtWatchdogReset cause) s :=
  runs_of_keeps (exec_mgtWatchdogReset ..) fun w => by simp

/-! ### The tile sequencer -/

@[simp] theorem runs_moveFetchDone (c t n : Nat) (u : List Upset) (s : State) : Runs (.moveFetchDone c t n u) s :=
  runs_of_keeps (exec_moveFetchDone ..) fun w => by
    dsimp only
    (repeat' split) <;> simp

@[simp] theorem runs_windowEnd (region : Option Nat) (s : State) : Runs (.windowEnd region) s :=
  runs_of_keeps (exec_windowEnd ..) fun w => by simp

@[simp] theorem runs_drainDone (c t : Nat) (s : State) : Runs (.drainDone c t) s :=
  runs_of_keeps (exec_drainDone ..) fun w => by
    dsimp only
    (repeat' split) <;> simp

@[simp] theorem runs_laneStealChunk (c t stream : Nat) (left : List (Nat × Nat)) (take : Bool) (s : State) :
    Runs (.laneStealChunk c t stream left take) s :=
  runs_of_keeps (exec_laneStealChunk ..) fun w => by
    dsimp only
    split
    · rfl
    · split <;> simp

@[simp] theorem runs_moveCompletion (c t index : Nat) (s : State) : Runs (.moveCompletion c t index) s :=
  runs_of_keeps (exec_moveCompletion ..) fun w => by split <;> simp

@[simp] theorem runs_arrivalCounted (c t tally : Nat) (s : State) : Runs (.arrivalCounted c t tally) s :=
  runs_of_keeps (exec_arrivalCounted ..) fun w => by simp

@[simp] theorem runs_tallyStall (c : Nat) (s : State) : Runs (.tallyStall c) s :=
  runs_of_keeps (exec_tallyStall ..) fun w => by
    dsimp only
    (repeat' split) <;> simp

@[simp] theorem runs_doublesPageIn (t page evict : Nat) (s : State) : Runs (.doublesPageIn t page evict) s :=
  runs_of_keeps (exec_doublesPageIn ..) fun w => by simp

/-! ### The Scorepad, the management port and SMBus -/

@[simp] theorem runs_unsupportedOpcode (h : Hdr) (opcode : Nat) (s : State) : Runs (.unsupportedOpcode h opcode) s :=
  runs_of_keeps (exec_unsupportedOpcode ..) fun w => by simp

@[simp] theorem runs_spSubmit (code sev src p0 p1 p2 : Nat) (ctx : Option Nat) (s : State) :
    Runs (.spSubmit code sev src p0 p1 p2 ctx) s :=
  runs_of_keeps (exec_spSubmit ..) fun w => by simp

@[simp] theorem runs_tokenRefill (bucket : Option Nat) (s : State) : Runs (.tokenRefill bucket) s :=
  runs_of_keeps (exec_tokenRefill ..) fun w => by split <;> simp

@[simp] theorem runs_spPushStatus (s : State) : Runs .spPushStatus s :=
  runs_of_keeps (exec_spPushStatus ..) fun w => by split <;> simp

@[simp] theorem runs_pldmRequest (r : PldmReq) (s : State) : Runs (.pldmRequest r) s :=
  runs_of_keeps (exec_pldmRequest ..) fun w => by
    cases r with
    | reading id => (repeat' split) <;> simp
    | setEndpoint | getTypes | fru | events => simp

@[simp] theorem runs_mgtStatus (m : MgtHdr) (s : State) : Runs (.mgtStatus m) s :=
  runs_of_keeps (exec_mgtStatus ..) fun w => by simp

@[simp] theorem runs_mgtSpClear (m : MgtHdr) (auth : List Byte) (seq : Nat) (s : State) : Runs (.mgtSpClear m auth seq) s :=
  runs_of_keeps (exec_mgtSpClear ..) fun w => by simp

@[simp] theorem runs_debugMsg (m : MgtHdr) (core : Nat) (halt : Bool) (body : List Byte) (s : State) :
    Runs (.debugMsg m core halt body) s :=
  runs_of_keeps (exec_debugMsg ..) fun w => by simp

@[simp] theorem runs_addrSet (m : MgtHdr) (addr pfxLen : Nat) (s : State) : Runs (.addrSet m addr pfxLen) s :=
  runs_of_keeps (exec_addrSet ..) fun w => by simp

@[simp] theorem runs_traceQueueDrain (t n : Nat) (s : State) : Runs (.traceQueueDrain t n) s :=
  runs_of_keeps (exec_traceQueueDrain ..) fun w => by (repeat' split) <;> simp

/-! ### The gather engine and work stealing -/

@[simp] theorem runs_stealOffer (c t : Nat) (unit : UnitKind) (s : State) : Runs (.stealOffer c t unit) s :=
  runs_of_keeps (exec_stealOffer ..) fun w => by simp

@[simp] theorem runs_stealRequest (c t : Nat) (s : State) : Runs (.stealRequest c t) s :=
  runs_of_keeps (exec_stealRequest ..) fun w => by (repeat' split) <;> simp

@[simp] theorem runs_stolenMoveDone (c t index : Nat) (s : State) : Runs (.stolenMoveDone c t index) s :=
  runs_of_keeps (exec_stolenMoveDone ..) fun w => by
    dsimp only
    (repeat' split) <;> simp

/-! ### The prefetcher -/

@[simp] theorem runs_predictFetchDone (c t unit layer : Nat) (s : State) : Runs (.predictFetchDone c t unit layer) s :=
  runs_of_keeps (exec_predictFetchDone ..) fun w => by simp

/-! ### Contributions to the closing tally -/

@[simp] theorem runs_ctContribution (key rank turn attempt : Nat) (k : Contribution) (s : State) :
    Runs (.ctContribution key rank turn attempt k) s :=
  runs_of_keeps (exec_ctContribution ..) fun w => by simp

/-! ### Turns -/

@[simp] theorem runs_ready (key rank turn attempt : Nat) (s : State) : Runs (.ready key rank turn attempt) s :=
  runs_of_keeps (exec_ready ..) fun w => by simp

@[simp] theorem runs_go (c turn attempt : Nat) (s : State) : Runs (.go c turn attempt) s :=
  runs_of_keeps (exec_go ..) fun w => by (repeat' split) <;> simp

@[simp] theorem runs_poisonReceived (key rank turn attempt cause : Nat) (s : State) :
    Runs (.poisonReceived key rank turn attempt cause) s :=
  runs_of_keeps (exec_poisonReceived ..) fun w => by simp

@[simp] theorem runs_replay (c turn attempt cause : Nat) (s : State) : Runs (.replay c turn attempt cause) s :=
  runs_of_keeps (exec_replay ..) fun w => by simp

@[simp] theorem runs_vote (c : Nat) (s : State) : Runs (.vote c) s :=
  runs_of_keeps (exec_vote ..) fun w => by simp

@[simp] theorem runs_yesReceived (key rank turn attempt : Nat) (s : State) : Runs (.yesReceived key rank turn attempt) s :=
  runs_of_keeps (exec_yesReceived ..) fun w => by simp

@[simp] theorem runs_cancel (banker : Bool) (key turn : Nat) (s : State) : Runs (.cancel banker key turn) s :=
  runs_of_keeps (exec_cancel ..) fun w => by simp

@[simp] theorem runs_turnStopAtBanker (key mode : Nat) (s : State) : Runs (.turnStopAtBanker key mode) s :=
  runs_of_keeps (exec_turnStopAtBanker ..) fun w => by simp

/-! ### The closing record, commits and mirrors -/

@[simp] theorem runs_commit (c turn attempt : Nat) (s : State) : Runs (.commit c turn attempt) s :=
  runs_of_keeps (exec_commit ..) fun w => by
    dsimp only
    split <;> simp

@[simp] theorem runs_mirrorCopyDone (c : Nat) (image : List (Nat × List Byte)) (incoming : Option MirrorCopy) (s : State) :
    Runs (.mirrorCopyDone c image incoming) s :=
  runs_of_keeps (exec_mirrorCopyDone ..) fun w => by split <;> simp

@[simp] theorem runs_contextSwitch (c : Nat) (u : List Upset) (s : State) : Runs (.contextSwitch c u) s :=
  runs_of_keeps (exec_contextSwitch ..) fun w => by (repeat' split) <;> simp

/-! ### Tables and host data -/

@[simp] theorem runs_publishComplete (c handle table : Nat) (u : List Upset) (s : State) :
    Runs (.publishComplete c handle table u) s :=
  runs_of_keeps (exec_publishComplete ..) fun w => by simp

@[simp] theorem runs_flr (fn : Nat) (s : State) : Runs (.flr fn) s :=
  runs_of_keeps (exec_flr ..) fun w => by simp

@[simp] theorem runs_hostReadData (ring index : Nat) (data : Option (List Byte)) (u : List Upset) (s : State) :
    Runs (.hostReadData ring index data u) s :=
  runs_of_keeps (exec_hostReadData ..) fun w => by (repeat' split) <;> simp

/-! ### HBM -/

@[simp] theorem runs_selftestRunStart (unit : UnitId) (s : State) : Runs (.selftestRunStart unit) s :=
  runs_of_keeps (exec_selftestRunStart ..) fun w => by
    dsimp only
    (repeat' split) <;> simp

@[simp] theorem runs_selftestRunEnd (unit : UnitId) (pass : Bool) (s : State) : Runs (.selftestRunEnd unit pass) s :=
  runs_of_keeps (exec_selftestRunEnd ..) fun w => by
    dsimp only
    (repeat' split) <;> simp

@[simp] theorem runs_observationEnd (unit : UnitId) (s : State) : Runs (.observationEnd unit) s :=
  runs_of_keeps (exec_observationEnd ..) fun w => by split <;> simp

@[simp] theorem runs_tileScrub (p : Nat) (deep : Bool) (word : Nat) (err : ErrKind) (second : Bool) (s : State) :
    Runs (.tileScrub p deep word err second) s :=
  runs_of_keeps (exec_tileScrub ..) fun w => by
    dsimp only
    (repeat' split) <;> simp

@[simp] theorem runs_scrubNapWake (region : Nat) (s : State) : Runs (.scrubNapWake region) s :=
  runs_of_keeps (exec_scrubNapWake ..) fun w => by simp

@[simp] theorem runs_sectorRequest (q : HbmReq) (s : State) : Runs (.sectorRequest q) s :=
  runs_of_keeps (exec_sectorRequest ..) fun w => by simp

@[simp] theorem runs_hbmRefresh (stack bank : Nat) (s : State) : Runs (.hbmRefresh stack bank) s :=
  runs_of_keeps (exec_hbmRefresh ..) fun w => by simp

@[simp] theorem runs_hbmCalibration (stack channel : Nat) (s : State) : Runs (.hbmCalibration stack channel) s :=
  runs_of_keeps (exec_hbmCalibration ..) fun w => by simp

@[simp] theorem runs_hbmPatrolScrub (stack sector : Nat) (err : ErrKind) (lane : Nat) (s : State) :
    Runs (.hbmPatrolScrub stack sector err lane) s :=
  runs_of_keeps (exec_hbmPatrolScrub ..) fun w => by
    dsimp only
    (repeat' split) <;> simp

@[simp] theorem runs_selfRefreshEntry (stack : Nat) (s : State) : Runs (.selfRefreshEntry stack) s :=
  runs_of_keeps (exec_selfRefreshEntry ..) fun w => by simp

@[simp] theorem runs_selfRefreshExit (stack : Nat) (s : State) : Runs (.selfRefreshExit stack) s :=
  runs_of_keeps (exec_selfRefreshExit ..) fun w => by simp

@[simp] theorem runs_hbmRetrainDone (stack channel : Nat) (s : State) : Runs (.hbmRetrainDone stack channel) s :=
  runs_of_keeps (exec_hbmRetrainDone ..) fun w => by simp

@[simp] theorem runs_hbmBlockRequest (q : HbmReq) (s : State) : Runs (.hbmBlockRequest q) s :=
  runs_of_keeps (exec_hbmBlockRequest ..) fun w => by simp

/-! ### Links -/

@[simp] theorem runs_ctlIdle (port ack : Nat) (freed : List Nat) (s : State) : Runs (.ctlIdle port ack freed) s :=
  runs_of_keeps (exec_ctlIdle ..) fun w => by simp

@[simp] theorem runs_ctlNak (port ack : Nat) (freed : List Nat) (s : State) : Runs (.ctlNak port ack freed) s :=
  runs_of_keeps (exec_ctlNak ..) fun w => by simp

@[simp] theorem runs_nakRetry (port : Nat) (s : State) : Runs (.nakRetry port) s :=
  runs_of_keeps (exec_nakRetry ..) fun w => by simp

@[simp] theorem runs_ackTimeout (port : Nat) (s : State) : Runs (.ackTimeout port) s :=
  runs_of_keeps (exec_ackTimeout ..) fun w => by simp

@[simp] theorem runs_idleTimer (port : Nat) (s : State) : Runs (.idleTimer port) s :=
  runs_of_keeps (exec_idleTimer ..) fun w => by simp

@[simp] theorem runs_laneBad (port lane : Nat) (s : State) : Runs (.laneBad port lane) s :=
  runs_of_keeps (exec_laneBad ..) fun w => by simp

@[simp] theorem runs_laneChange (port ack mask width : Nat) (answer : Bool) (s : State) :
    Runs (.laneChange port ack mask width answer) s :=
  runs_of_keeps (exec_laneChange ..) fun w => by simp

@[simp] theorem runs_reframeDone (port : Nat) (s : State) : Runs (.reframeDone port) s :=
  runs_of_keeps (exec_reframeDone ..) fun w => by
    dsimp only
    (repeat' split) <;> simp

@[simp] theorem runs_reframeTimeout (port : Nat) (s : State) : Runs (.reframeTimeout port) s :=
  runs_of_keeps (exec_reframeTimeout ..) fun w => by simp

@[simp] theorem runs_ackStall (port : Nat) (s : State) : Runs (.ackStall port) s :=
  runs_of_keeps (exec_ackStall ..) fun w => by simp

@[simp] theorem runs_signalLoss (port : Nat) (s : State) : Runs (.signalLoss port) s :=
  runs_of_keeps (exec_signalLoss ..) fun w => by simp

@[simp] theorem runs_hello (port : Nat) (ident : HelloBody) (s : State) : Runs (.hello port ident) s :=
  runs_of_keeps (exec_hello ..) fun w => by simp

@[simp] theorem runs_recal (port ack pause : Nat) (s : State) : Runs (.recal port ack pause) s :=
  runs_of_keeps (exec_recal ..) fun w => by simp

@[simp] theorem runs_recalDue (port : Nat) (s : State) : Runs (.recalDue port) s :=
  runs_of_keeps (exec_recalDue ..) fun w => by simp

@[simp] theorem runs_recalPauseEnd (port delay : Nat) (s : State) : Runs (.recalPauseEnd port delay) s :=
  runs_of_keeps (exec_recalPauseEnd ..) fun w => by
    dsimp only
    (repeat' split) <;> simp

@[simp] theorem runs_trainStepDone (port : Nat) (r : TrainResult) (s : State) : Runs (.trainStepDone port r) s :=
  runs_of_keeps (exec_trainStepDone ..) fun w => by
    dsimp only
    (repeat' split) <;> simp

@[simp] theorem runs_trainTimeout (port : Nat) (s : State) : Runs (.trainTimeout port) s :=
  runs_of_keeps (exec_trainTimeout ..) fun w => by simp

@[simp] theorem runs_signalQuiet (port : Nat) (s : State) : Runs (.signalQuiet port) s :=
  runs_of_keeps (exec_signalQuiet ..) fun w => by simp

@[simp] theorem runs_signalDetect (port lanes : Nat) (s : State) : Runs (.signalDetect port lanes) s :=
  runs_of_keeps (exec_signalDetect ..) fun w => by simp

/-! ### Packets -/

@[simp] theorem runs_pktWrite (p : Parcel) (s : State) : Runs (.pktWrite p) s :=
  runs_of_keeps (exec_pktWrite ..) fun w => by simp

@[simp] theorem runs_pktWriteAcked (p : Parcel) (s : State) : Runs (.pktWriteAcked p) s :=
  runs_of_keeps (exec_pktWriteAcked ..) fun w => by simp

@[simp] theorem runs_pktRead (p : Parcel) (u : List Upset) (s : State) : Runs (.pktRead p u) s :=
  runs_of_keeps (exec_pktRead ..) fun w => by simp

@[simp] theorem runs_pktReadResp (p : Parcel) (s : State) : Runs (.pktReadResp p) s :=
  runs_of_keeps (exec_pktReadResp ..) fun w => by
    dsimp only
    (repeat' split) <;> simp

@[simp] theorem runs_pktWriteAck (p : Parcel) (s : State) : Runs (.pktWriteAck p) s :=
  runs_of_keeps (exec_pktWriteAck ..) fun w => by split <;> simp

@[simp] theorem runs_pktArrival (p : Parcel) (s : State) : Runs (.pktArrival p) s :=
  runs_of_keeps (exec_pktArrival ..) fun w => by simp

@[simp] theorem runs_pktCollective (p : Parcel) (s : State) : Runs (.pktCollective p) s :=
  runs_of_keeps (exec_pktCollective ..) fun w => by simp

@[simp] theorem runs_pktErrorResp (p : Parcel) (s : State) : Runs (.pktErrorResp p) s :=
  runs_of_keeps (exec_pktErrorResp ..) fun w => by
    dsimp only
    (repeat' split) <;> simp

@[simp] theorem runs_routeHop (p : Parcel) (from_ : Stand) (meshUe : Option Nat) (s : State) :
    Runs (.routeHop p from_ meshUe) s :=
  runs_of_keeps (exec_routeHop ..) fun w => by simp

@[simp] theorem runs_dataFrame (port : Nat) (flit : List Byte) (line : List (Nat × Byte)) (s : State) :
    Runs (.dataFrame port flit line) s :=
  runs_of_keeps (exec_dataFrame ..) fun w => by simp

@[simp] theorem runs_demandWake (region : Nat) (s : State) : Runs (.demandWake region) s :=
  runs_of_keeps (exec_demandWake ..) fun w => by simp

@[simp] theorem runs_regionWakeDone (region : Nat) (s : State) : Runs (.regionWakeDone region) s :=
  runs_of_keeps (exec_regionWakeDone ..) fun w => by simp

/-! ### Formation -/

@[simp] theorem runs_standbyRecord (epoch seq : Nat) (d : Decision) (s : State) : Runs (.standbyRecord epoch seq d) s :=
  runs_of_keeps (exec_standbyRecord ..) fun w => by simp

@[simp] theorem runs_standbyAck (epoch seq : Nat) (s : State) : Runs (.standbyAck epoch seq) s :=
  runs_of_keeps (exec_standbyAck ..) fun w => by (repeat' split) <;> simp

@[simp] theorem runs_formProbe (port epoch delaySum : Nat) (s : State) : Runs (.formProbe port epoch delaySum) s :=
  runs_of_keeps (exec_formProbe ..) fun w => by simp

@[simp] theorem runs_formReport (r : PkgReport) (s : State) : Runs (.formReport r) s :=
  runs_of_keeps (exec_formReport ..) fun w => by simp

@[simp] theorem runs_formQuiet (s : State) : Runs .formQuiet s :=
  runs_of_keeps (exec_formQuiet ..) fun w => by (repeat' split) <;> simp

@[simp] theorem runs_formAssign (a : Assign) (s : State) : Runs (.formAssign a) s :=
  runs_of_keeps (exec_formAssign ..) fun w => by simp

@[simp] theorem runs_formAck (serial : Nat) (s : State) : Runs (.formAck serial) s :=
  runs_of_keeps (exec_formAck ..) fun w => by (repeat' split) <;> simp

@[simp] theorem runs_joinReport (neighbour : Xyz) (port : Nat) (r : PkgReport) (s : State) :
    Runs (.joinReport neighbour port r) s :=
  runs_of_keeps (exec_joinReport ..) fun w => by split <;> simp

@[simp] theorem runs_missingList (epoch : Nat) (list : List Xyz) (s : State) : Runs (.missingList epoch list) s :=
  runs_of_keeps (exec_missingList ..) fun w => by simp

@[simp] theorem runs_bankerHeartbeat (s : State) : Runs .bankerHeartbeat s :=
  runs_of_keeps (exec_bankerHeartbeat ..) fun w => by simp

@[simp] theorem runs_heartbeat (epoch : Nat) (banker : Xyz) (s : State) : Runs (.heartbeat epoch banker) s :=
  runs_of_keeps (exec_heartbeat ..) fun w => by simp

@[simp] theorem runs_heartbeatTimeout (s : State) : Runs .heartbeatTimeout s :=
  runs_of_keeps (exec_heartbeatTimeout ..) fun w => by
    dsimp only
    split
    · rfl
    split
    · simp
    · simp only [Work.copyFormation_erase, Work.nameStandby_erase, allButStop_eq, ne_eq, reduceCtorEq, not_false_eq_true,
        decide_true, and_self]
      refine (Work.erase_each _ _ _ (fun w j => by simp)).trans ?_
      refine (Work.erase_each _ _ _ (fun w c => by simp)).trans ?_
      refine (Work.erase_each _ _ _ (fun w d => by split <;> simp)).trans ?_
      simp

@[simp] theorem runs_alive (src : Xyz) (s : State) : Runs (.alive src) s :=
  runs_of_keeps (exec_alive ..) fun w => by simp

@[simp] theorem runs_aliveTimeout (src : Xyz) (s : State) : Runs (.aliveTimeout src) s :=
  runs_of_keeps (exec_aliveTimeout ..) fun w => by simp

@[simp] theorem runs_lost (src : Xyz) (cause : Nat) (by_ : Xyz) (s : State) : Runs (.lost src cause by_) s :=
  runs_of_keeps (exec_lost ..) fun w => by simp

@[simp] theorem runs_rehomeAssign (epoch job : Nat) (rank : Xyz) (s : State) : Runs (.rehomeAssign epoch job rank) s :=
  runs_of_keeps (exec_rehomeAssign ..) fun w => by simp

@[simp] theorem runs_rehomeCopyDone (c : Nat) (small : Small) (image : List (Nat × List Byte)) (s : State) :
    Runs (.rehomeCopyDone c small image) s :=
  runs_of_keeps (exec_rehomeCopyDone ..) fun w => by
    dsimp only
    split <;> simp

/-! ### Fabric time -/

@[simp] theorem runs_delayProbeTimer (s : State) : Runs .delayProbeTimer s :=
  runs_of_keeps (exec_delayProbeTimer ..) fun w => by split <;> simp

@[simp] theorem runs_delayProbe (port epoch t1 ack : Nat) (s : State) : Runs (.delayProbe port epoch t1 ack) s :=
  runs_of_keeps (exec_delayProbe ..) fun w => by simp

@[simp] theorem runs_delayReply (port epoch t1 t2 t3 hops ack : Nat) (s : State) :
    Runs (.delayReply port epoch t1 t2 t3 hops ack) s :=
  runs_of_keeps (exec_delayReply ..) fun w => by simp

@[simp] theorem runs_timeHoldover (s : State) : Runs .timeHoldover s :=
  runs_of_keeps (exec_timeHoldover ..) fun w => by simp

@[simp] theorem runs_timeLock (s : State) : Runs .timeLock s :=
  runs_of_keeps (exec_timeLock ..) fun w => by split <;> simp

/-- One tick of a context's idle blocks and of its progress window. -/
theorem Work.contextTick_keeps (s : State) (w : Work) (c : Nat) :
    ((w.each (ctxTiles (s.ctx c)) (fun w n => w.countTick c n)).quietTick c).erase allButStop = w.erase allButStop := by
  simp

@[simp] theorem runs_refclkTick (s : State) : Runs .refclkTick s :=
  runs_of_keeps (exec_refclkTick ..) fun w => by simp [Work.erase_each _ _ _ (Work.contextTick_keeps s)]

/-! ### Reset and boot -/

@[simp] theorem runs_aonResetN (s : State) : Runs .aonResetN s :=
  runs_of_keeps (exec_aonResetN ..) fun w => by simp

@[simp] theorem runs_aonRelease (straps : Straps) (ok0 ok1 : Bool) (s : State) : Runs (.aonRelease straps ok0 ok1) s :=
  runs_of_keeps (exec_aonRelease ..) fun w => by simp

@[simp] theorem runs_pwrGoodLow (s : State) : Runs .pwrGoodLow s :=
  runs_of_keeps (exec_pwrGoodLow ..) fun w => by simp

@[simp] theorem runs_pkgResetN (s : State) : Runs .pkgResetN s :=
  runs_of_keeps (exec_pkgResetN ..) fun w => by simp

@[simp] theorem runs_hubStageStart (straps : Straps) (s : State) : Runs (.hubStageStart straps) s :=
  runs_of_keeps (exec_hubStageStart ..) fun w => by simp

@[simp] theorem runs_hbmTrainingDone (stack : Nat) (r : HbmTrain) (s : State) : Runs (.hbmTrainingDone stack r) s :=
  runs_of_keeps (exec_hbmTrainingDone ..) fun w => by simp

@[simp] theorem runs_perstN (s : State) : Runs .perstN s :=
  runs_of_keeps (exec_perstN ..) fun w => by simp

@[simp] theorem runs_perstRelease (s : State) : Runs .perstRelease s :=
  runs_of_keeps (exec_perstRelease ..) fun w => by simp

@[simp] theorem runs_pcieLinkUp (s : State) : Runs .pcieLinkUp s :=
  runs_of_keeps (exec_pcieLinkUp ..) fun w => by simp

@[simp] theorem runs_vcoreUnder (s : State) : Runs .vcoreUnder s :=
  runs_of_keeps (exec_vcoreUnder ..) fun w => by simp

@[simp] theorem runs_vaonFall (s : State) : Runs .vaonFall s :=
  runs_of_keeps (exec_vaonFall ..) fun w => by simp

@[simp] theorem runs_hubFirmwareVerified (ok0 ok1 : Bool) (s : State) : Runs (.hubFirmwareVerified ok0 ok1) s :=
  runs_of_keeps (exec_hubFirmwareVerified ..) fun w => by simp

@[simp] theorem runs_vio18Loss (s : State) : Runs .vio18Loss s :=
  runs_of_keeps (exec_vio18Loss ..) fun w => by simp

@[simp] theorem runs_vio18Return (s : State) : Runs .vio18Return s :=
  runs_of_keeps (exec_vio18Return ..) fun w => by simp

/-! ### All of them -/

/-- The commands of `neverStops` are those above, each by its own lemma. -/
theorem neverStops_runs {c : Instr} (s : State) (h : neverStops c = true) : Runs c s := by
  cases c with
  | unsupportedOpcode | cqDoorbell | flush | ringDisable | msixExpiry | coreDispatch | coreReleaseYield | coreReleaseBlock
  | coreReleaseExit | coreSignal | corePreemptClear | quantumExpiry | svcExit | svcYield | svcWaitEvent | svcSignal
  | svcSleepUntil | sleepExpiry | svcTimeRead | svcSetHandler | svcUnknown | userTrap | coreStop | mgtWatchdogReset
  | moveFetchDone | windowEnd | drainDone | laneStealChunk | stealOffer | stealRequest | stolenMoveDone | moveCompletion
  | arrivalCounted | tallyStall | doublesPageIn | predictFetchDone | ctContribution | ready | go | poisonReceived | replay | vote
  | yesReceived | standbyRecord | standbyAck | commit | mirrorCopyDone | contextSwitch | publishComplete | cancel
  | turnStopAtBanker | selftestRunStart | selftestRunEnd | observationEnd | tileScrub | scrubNapWake | sectorRequest | hbmRefresh
  | hbmCalibration | hbmPatrolScrub | selfRefreshEntry | pktWrite | pktWriteAcked | pktRead | pktReadResp | pktWriteAck
  | pktArrival | pktCollective | pktErrorResp | routeHop | dataFrame | ctlIdle | ctlNak | nakRetry | ackTimeout | idleTimer
  | laneBad | laneChange | reframeDone | reframeTimeout | ackStall | signalLoss | hello | recal | recalDue | recalPauseEnd
  | trainStepDone | trainTimeout | signalQuiet | signalDetect | delayProbeTimer | delayProbe | delayReply | timeHoldover
  | timeLock | refclkTick | formProbe | formReport | formQuiet | formAssign | formAck | joinReport | missingList | bankerHeartbeat
  | heartbeat | heartbeatTimeout | alive | aliveTimeout | lost | rehomeAssign | rehomeCopyDone | regionEntryDone | demandWake
  | regionWakeDone | partialWakeDone | voltageSettled | currentSample | powerCapCheck | thermalSample | aonResetN | aonRelease
  | pwrGoodLow | pkgResetN | hubStageStart | hbmTrainingDone | perstN | perstRelease | pcieLinkUp | flr | vcoreUnder | vaonFall
  | spSubmit | tokenRefill | spPushStatus | pldmRequest | mgtStatus | mgtSpClear | debugMsg | addrSet | traceQueueDrain
  | selfRefreshExit | hbmRetrainDone | hbmBlockRequest | hostReadData | schedulerWindowEnd | hubFirmwareVerified | vio18Loss
  | vio18Return => simp
  | _ => exact absurd h Bool.false_ne_true

/-- Settles O2: every command is a run, which `commit` ends with the queue it met, and the work of a command of `neverStops` leaves the stop
alone. -/
theorem commandsLeaveQueue : Obligations.CommandsLeaveQueue := by
  refine ⟨fun c s => ?_, fun c s h => neverStops_runs s h⟩
  obtain ⟨f, hf⟩ := exec_run c s
  rw [hf]
  exact run_next_or_unpredictable s f

end Sys2Proof.Machine
end

section
/-! Function control. A register write ends in one `setFn` or one `setRing`, or in a rule's number; the two frames are proved once and
each register says which of them its write is. -/

namespace Sys2Proof.Machine

/-! ### How a command's work decides its outcome -/

/-- A command whose work breaks a rule and does nothing else. -/
theorem exec_fails {c : Instr} {s : State} {f : Work → Work} {rule : Nat} (hx : exec c s = run s f)
    (hf : f (Work.start s) = (Work.start s).fail rule) : exec c s = .fault (.unpredictable rule) := by
  rw [hx, run, hf]
  rfl

/-- A command whose work does nothing. -/
theorem exec_idles {c : Instr} {s : State} {f : Work → Work} (hx : exec c s = run s f) (hf : f (Work.start s) = Work.start s) :
    exec c s = .next s := run_is hx hf rfl (Work.result_start s)

/-- A command whose work replaces the state of one function. -/
theorem exec_setsFn {c : Instr} {s : State} {f : Work → Work} {i : Nat} {v : Fn} (hx : exec c s = run s f)
    (hf : f (Work.start s) = (Work.start s).setFn i v) :
    ∃ t, exec c s = .next t ∧ t = { s with fns := t.fns } ∧ t.fn i = v ∧ ∀ g, g ≠ i → t.fn g = s.fn g :=
  ⟨_, run_is hx hf rfl rfl, rfl, Work.setFn_same .., fun _ hg => Work.setFn_other _ _ _ hg⟩

/-- A command whose work replaces the state of one function and sends a message. -/
theorem exec_setsFn_sends {c : Instr} {s : State} {f : Work → Work} {i : Nat} {v : Fn} {m : Sent} (hx : exec c s = run s f)
    (hf : f (Work.start s) = ((Work.start s).setFn i v).send m) :
    ∃ t, exec c s = .next t ∧ t = { s with fns := t.fns, sent := t.sent } ∧ t.sent = s.sent ++ [m] ∧ t.fn i = v ∧
      ∀ g, g ≠ i → t.fn g = s.fn g :=
  ⟨_, run_is hx hf rfl rfl, rfl, rfl, Work.setFn_same .., fun _ hg => Work.setFn_other _ _ _ hg⟩

/-- A command whose work replaces the state of one ring. -/
theorem exec_setsRing {c : Instr} {s : State} {f : Work → Work} {i : Nat} {v : Ring} (hx : exec c s = run s f)
    (hf : f (Work.start s) = (Work.start s).setRing i v) :
    ∃ t, exec c s = .next t ∧ t = { s with rings := t.rings } ∧ t.ring i = v ∧ ∀ d, d ≠ i → t.ring d = s.ring d :=
  ⟨_, run_is hx hf rfl rfl, rfl, Work.setRing_same .., fun _ hd => Work.setRing_other _ _ _ hd⟩

/-! ### Masks -/

/-- Clearing the bits of a mask by subtraction: write one to clear. -/
theorem bit_sub_and (x m i : Nat) : bit (x - (x &&& m)) i = (bit x i && !bit m i) := by
  unfold bit
  have hle : x &&& m ≤ x := Nat.and_le_left
  have hlow : (x &&& m) % 2 = 1 ↔ x % 2 = 1 ∧ m % 2 = 1 := Nat.and_mod_two_eq_one
  induction i generalizing x m with
  | zero =>
    simp only [Nat.testBit_zero]
    rw [Bool.eq_iff_iff]
    simp only [Bool.and_eq_true, Bool.not_eq_true', decide_eq_true_eq, decide_eq_false_iff_not]
    omega
  | succ i ih =>
    have hhalf : (x - (x &&& m)) / 2 = x / 2 - (x / 2 &&& m / 2) := by
      rw [← Nat.and_div_two]
      omega
    simp only [Nat.testBit_add_one, hhalf]
    exact ih (x / 2) (m / 2) Nat.and_le_left Nat.and_mod_two_eq_one

/-- The page-aligned 32-bit values are those without a bit outside 31:12. -/
theorem and_page_mask {v : Nat} (hv : v < 2 ^ 32) (ha : v % 4096 = 0) : v &&& 0xFFFFF000 = v := by
  have hk : v = (v / 4096) <<< 12 := by rw [Nat.shiftLeft_eq]; omega
  have hm : (0xFFFFF000 : Nat) = (2 ^ 20 - 1) <<< 12 := rfl
  rw [hk, hm, ← Nat.shiftLeft_and_distrib, Nat.and_two_pow_sub_one_of_lt_two_pow (by omega)]

/-- No bit of a vector's byte is left at the vector once it is masked out. -/
theorem bit_and_mask {vec : Nat} (h : vec < 6) (x : Nat) : bit (x &&& (255 - 2 ^ vec)) vec = false := by
  have hm : (255 - 2 ^ vec).testBit vec = false := by
    rw [show (255 : Nat) - 2 ^ vec = 2 ^ 8 - (2 ^ vec + 1) by omega, Nat.testBit_two_pow_sub_succ, Nat.testBit_two_pow_self]
    · simp
    · exact Nat.pow_lt_pow_right (by omega) (by omega)
  simp [bit, hm]

/-- A register write with no bit outside its mask takes effect. -/
theorem Work.defined_ok {mask value : Nat} (h : value &&& mask = value) (w : Work) (f : Work → Work) :
    w.defined mask value f = f w := if_pos h

/-- A register write with a bit outside its mask breaks R7. -/
theorem Work.defined_reserved {mask value : Nat} (h : value &&& mask ≠ value) (w : Work) (f : Work → Work) :
    w.defined mask value f = w.fail 7 := if_neg h

/-! ### Interrupt causes (R442) -/

/-- CMD_INT_STATUS clears the bits written as one. -/
theorem intStatusClear_clears (fn mask : Nat) (s : State) (h : mask < 64) :
    ∃ t, exec (.intStatusClear fn mask) s = .next t ∧ t = { s with fns := t.fns } ∧
      (∀ g, g ≠ fn → t.fn g = s.fn g) ∧ t.fn fn = { s.fn fn with intStatus := (t.fn fn).intStatus } ∧
      ∀ i, bit (t.fn fn).intStatus i = (bit (s.fn fn).intStatus i && !bit mask i) := by
  have hmask : mask &&& 0x3F = mask := Nat.and_two_pow_sub_one_of_lt_two_pow (n := 6) h
  obtain ⟨t, hx, ht, hfn, hg⟩ := exec_setsFn (exec_intStatusClear fn mask s) (Work.defined_ok hmask _ _)
  refine ⟨t, hx, ht, hg, by rw [hfn]; rfl, fun i => ?_⟩
  rw [hfn]
  exact bit_sub_and _ mask i

/-- A one in a reserved bit of CMD_INT_STATUS breaks R7. -/
theorem intStatusClear_reserved (fn mask : Nat) (s : State) (h : 64 ≤ mask) :
    exec (.intStatusClear fn mask) s = .fault (.unpredictable 7) := by
  have hmask : mask &&& 0x3F ≠ mask := by
    have := Nat.and_le_right (n := mask) (m := 0x3F)
    omega
  exact exec_fails (exec_intStatusClear fn mask s) (Work.defined_reserved hmask _ _)

/-- At the end of MOD_US the message is sent where the cause still stands and the vector is enabled and not masked. -/
theorem msixExpiry_sends (fn vec : Nat) (s : State) (hv : vec < 6) (hd : bit (s.fn fn).delayed vec = true)
    (hc : bit (s.fn fn).intStatus vec = true) (he : (s.fn fn).enabled vec = true) (hl : ((s.fn fn).msix.get {} vec).live = true) :
    ∃ t, exec (.msixExpiry fn vec) s = .next t ∧ t = { s with fns := t.fns, sent := t.sent } ∧
      t.sent = s.sent ++ [.msix fn vec ((s.fn fn).msix.get {} vec).addr ((s.fn fn).msix.get {} vec).data] ∧
      bit (t.fn fn).delayed vec = false ∧ ∀ g, g ≠ fn → t.fn g = s.fn g := by
  obtain ⟨t, hx, ht, hsent, hfn, hg⟩ := exec_setsFn_sends (exec_msixExpiry fn vec s)
    (by simp only [hd, hc, he, hl, Work.message, Work.start_s]; rfl)
  refine ⟨t, hx, ht, hsent, ?_, hg⟩
  rw [hfn]
  exact bit_and_mask hv _

/-- At the end of MOD_US nothing is sent where the cause is gone or the vector is disabled. -/
theorem msixExpiry_drops (fn vec : Nat) (s : State) (hd : bit (s.fn fn).delayed vec = true)
    (hc : bit (s.fn fn).intStatus vec = false ∨ (s.fn fn).enabled vec = false) :
    ∃ t, exec (.msixExpiry fn vec) s = .next t ∧ t = { s with fns := t.fns } ∧
      bit (t.fn fn).delayed vec = false ∧ ∀ g, g ≠ fn → t.fn g = s.fn g := by
  have hn : ¬ (bit (s.fn fn).intStatus vec = true ∧ (s.fn fn).enabled vec = true) := by
    rcases hc with h | h <;> simp [h]
  obtain ⟨t, hx, ht, hfn, hg⟩ := exec_setsFn (exec_msixExpiry fn vec s) (by simp only [hd, hn, if_false]; rfl)
  refine ⟨t, hx, ht, ?_, hg⟩
  rw [hfn, bit_sub_and]
  simp [bit, Nat.testBit_two_pow_self]

/-! ### Register writes (R6, R7, R442–R444) -/

/-- An access that is not of 32 bits, or not aligned, breaks R6. -/
theorem registerWrite_unaligned (fn bar off size v : Nat) (s : State) (h : size ≠ 4 ∨ off % 4 ≠ 0) :
    exec (.registerWrite fn bar off size v) s = .fault (.unpredictable 6) :=
  exec_fails (exec_registerWrite fn bar off size v s) (if_pos h)

/-- A write outside BAR0 does nothing. -/
theorem registerWrite_bar2 (fn bar off v : Nat) (s : State) (ho : off % 4 = 0) (hb : bar ≠ 0) :
    exec (.registerWrite fn bar off 4 v) s = .next s :=
  exec_idles (exec_registerWrite fn bar off 4 v s) (by simp [ho, hb])

/-- CMD_COMPAT is one write of bit 0. -/
theorem registerWrite_compat (fn v : Nat) (s : State) : exec (.registerWrite fn 0 0x0008 4 v) s =
    run s (fun w => w.defined 1 v (fun w => w.modFn fn (fun g => { g with compat := bit v 0 }))) := rfl

/-- CMD_INT_CTRL is one write of its defined bits. -/
theorem registerWrite_intCtrl (fn v : Nat) (s : State) : exec (.registerWrite fn 0 0x0020 4 v) s =
    run s (fun w => w.defined 0xFF3F v (fun w => w.modFn fn (fun g => { g with intCtrl := v &&& 0xFF3F }))) := rfl

/-- The low half of a ring's submission base is offset 0 of its block. -/
theorem registerWrite_sqBase (fn ring v : Nat) (s : State) (hr : ring < 4) :
    exec (.registerWrite fn 0 (0x100 + 0x40 * ring) 4 v) s = run s (fun w => w.writeRing (4 * fn + ring) 0 v) := by
  have ho : (0x100 + 0x40 * ring) % 4 = 0 := by omega
  have h1 : 0x100 + 0x40 * ring ≠ 0x0008 := by omega
  have h2 : 0x100 + 0x40 * ring ≠ 0x0020 := by omega
  have h3 : ¬ (0x8000 ≤ 0x100 + 0x40 * ring ∧ 0x100 + 0x40 * ring < 0x8080) := by omega
  have h4 : 0x0100 ≤ 0x100 + 0x40 * ring ∧ 0x100 + 0x40 * ring < 0x0200 := by omega
  have hd : (0x100 + 0x40 * ring - 0x100) / 0x40 = ring := by omega
  have hz : (0x100 + 0x40 * ring - 0x100) % 0x40 = 0 := by omega
  rw [exec_registerWrite, execRegisterWrite]
  simp only [ho, h1, h2, h3, h4, hd, hz, ne_eq, not_true_eq_false, or_self, if_false, if_true, and_self]

/-- The low half of a disabled ring's base takes a page-aligned value. -/
theorem Work.writeRing_sqBase {w : Work} {d v : Nat} (hf : w.s.boot.fwReady = true) (hd : (w.s.ring d).enabled = false)
    (hv : v < 2 ^ 32) (ha : v % 4096 = 0) :
    w.writeRing d 0 v = w.setRing d { w.s.ring d with sqBase := (w.s.ring d).sqBase / 2 ^ 32 * 2 ^ 32 + v } := by
  have hlow : lowBits 32 v = v := Nat.mod_eq_of_lt hv
  have hpage : v / 4096 * 4096 = v := by omega
  simp [Work.writeRing, hf, hd, hlow, hpage, Work.defined_ok (and_page_mask hv ha)]

/-- The base of an enabled ring may not be written (R443). -/
theorem Work.writeRing_enabled {w : Work} {d v : Nat} (hf : w.s.boot.fwReady = true) (hd : (w.s.ring d).enabled = true) :
    w.writeRing d 0 v = w.fail 443 := by
  simp [Work.writeRing, hf, hd]

/-- Settles O15: each register by the lemma that says what its write is. -/
theorem registersTakeTheirBits : Obligations.RegistersTakeTheirBits := by
  intro fn s
  refine ⟨fun mask => intStatusClear_clears fn mask s, fun mask => intStatusClear_reserved fn mask s,
    fun bar off size v => registerWrite_unaligned fn bar off size v s,
    fun vec hv hd => ⟨msixExpiry_sends fn vec s hv hd, msixExpiry_drops fn vec s hd⟩,
    fun bar off v => registerWrite_bar2 fn bar off v s, fun v hv => ?_, fun v hv => ?_, fun v hv => ?_, fun v hv => ?_,
    fun ring v hr hf => ⟨fun hd hv ha => ?_, fun hd => ?_⟩⟩
  · have hmask : v &&& 1 ≠ v := by
      have := Nat.and_le_right (n := v) (m := 1)
      omega
    exact exec_fails (registerWrite_compat fn v s) (Work.defined_reserved hmask _ _)
  · exact exec_fails (registerWrite_intCtrl fn v s) (Work.defined_reserved hv _ _)
  · have hmask : v &&& 1 = v := Nat.and_two_pow_sub_one_of_lt_two_pow (n := 1) (by omega)
    exact exec_setsFn (registerWrite_compat fn v s) (Work.defined_ok hmask _ _)
  · have hset := exec_setsFn (registerWrite_intCtrl fn v s) (Work.defined_ok hv _ _)
    rwa [hv] at hset
  · exact exec_setsRing (registerWrite_sqBase fn ring v s hr) (Work.writeRing_sqBase hf hd hv ha)
  · exact exec_fails (registerWrite_sqBase fn ring v s hr) (Work.writeRing_enabled hf hd)

end Sys2Proof.Machine
end

section
/-! The 64-bit counters and the readers' latches (R6, R431). -/

namespace Sys2Proof.Machine

/-- The high half of a counter, as the latch keeps it. -/
theorem bits_high (v : Nat) : bits v 63 32 = v / 2 ^ 32 % 2 ^ 32 := by
  rw [bits, Nat.shiftRight_eq_div_pow]

/-- An access of a counter's low half that is not of 32 bits, or not aligned, breaks R6. -/
theorem counterLowRead_unaligned (reader off size : Nat) (s : State) (h : size ≠ 4 ∨ off % 4 ≠ 0) :
    exec (.counterLowRead reader off size) s = .fault (.unpredictable 6) :=
  exec_fails (exec_counterLowRead reader off size s) (if_pos h)

/-- The same of its high half. -/
theorem counterHighRead_unaligned (reader off size : Nat) (s : State) (h : size ≠ 4 ∨ off % 4 ≠ 0) :
    exec (.counterHighRead reader off size) s = .fault (.unpredictable 6) :=
  exec_fails (exec_counterHighRead reader off size s) (if_pos h)

/-- A read of a counter's low half answers it and latches the high half for the reader. -/
theorem counterLowRead_latches {reader off v : Nat} {s : State} (ho : off % 4 = 0) (hv : anyCounter s reader off = some v) :
    exec (.counterLowRead reader off 4) s = .next
      ({ s with latch := s.latch.put 0 (latchOf s reader) (v / 2 ^ 32 % 2 ^ 32) }.sending (.value reader (v % 2 ^ 32))) := by
  rw [← bits_high]
  exact run_is (exec_counterLowRead reader off 4 s) (by simp only [ho, hv]; rfl) rfl rfl

/-- A read of a counter's high half answers the reader's latch. -/
theorem counterHighRead_answers {reader off v : Nat} {s : State} (ho : off % 4 = 0) (hv : anyCounter s reader off = some v) :
    exec (.counterHighRead reader (off + 4) 4) s = .next (s.sending (.value reader (s.latch.get 0 (latchOf s reader)))) := by
  have ho4 : (off + 4) % 4 = 0 := by omega
  exact run_is (w := (Work.start s).send (.value reader (s.latch.get 0 (latchOf s reader))))
    (exec_counterHighRead reader (off + 4) 4 s) (by simp [ho4, hv]) rfl rfl

/-- A service call of a program's thread is its effect. -/
theorem Work.call_of_caller {s : State} {core m id : Nat} {q : Prog} (h : callerOf s core = some (m, id, q))
    (f : Nat → Nat → Prog → Work → Work) : (Work.start s).call core f = f m id q (Work.start s) := by
  simp only [Work.call, Work.start_s, h]

/-- A read of the view at the low half of a counter. -/
theorem Work.readReg_counter {w : Work} {reader c off v : Nat} (h : counter64 w.s c off = some v) :
    w.readReg reader c off = (lowBits 32 v, { w with s.latch := w.s.latch.put 0 reader (bits v 63 32) }) := by
  simp only [Work.readReg, h]

/-- A read of the view at no half of a counter. -/
theorem Work.readReg_plain {w : Work} {reader c off : Nat} (h : counter64 w.s c off = none)
    (hh : off < 4 ∨ counter64 w.s c (off - 4) = none) :
    w.readReg reader c off = (lowBits 32 (plainReg w.s c off), w) := by
  have hn : ¬ ((counter64 w.s c (off - 4)).isSome ∧ 4 ≤ off) := by
    rintro ⟨hs, hle⟩
    rcases hh with hlt | hnone
    · omega
    · simp [hnone] at hs
  simp only [Work.readReg, h, hn, if_false]

/-- An answer of 32 bits is sent as it is. -/
theorem Work.answer_low (w : Work) (core v : Nat) : w.answer core (lowBits 32 v) = w.send (.value (16 + core) (v % 2 ^ 32)) := by
  have hlow : lowBits 64 (lowBits 32 v) = v % 2 ^ 32 := by
    unfold lowBits
    omega
  rw [Work.answer, hlow]

/-- REG_READ of a program's thread reads the view of its context for that thread. -/
theorem svcRegRead_reads {core m id off : Nat} {q : Prog} {s : State} (hc : callerOf s core = some (m, id, q))
    (ho : off % 4 = 0) : exec (.svcRegRead core off) s =
      run s (fun w => ((w.readReg (0x100 + m) q.ctx off).2).answer core (w.readReg (0x100 + m) q.ctx off).1) := by
  have hn : ¬ off % 4 ≠ 0 := by omega
  rw [exec_svcRegRead, execSvcRegRead, run, run, Work.call_of_caller hc, if_neg hn]
  rfl

/-- REG_READ at a counter's low half answers it and latches the high half for the thread. -/
theorem svcRegRead_latches {core m id off v : Nat} {q : Prog} {s : State} (hc : callerOf s core = some (m, id, q))
    (ho : off % 4 = 0) (hv : counter64 s q.ctx off = some v) :
    exec (.svcRegRead core off) s = .next
      ({ s with latch := s.latch.put 0 (0x100 + m) (v / 2 ^ 32 % 2 ^ 32) }.sending (.value (16 + core) (v % 2 ^ 32))) := by
  rw [← bits_high]
  exact run_is (w := Work.send { Work.start s with s.latch := s.latch.put 0 (0x100 + m) (bits v 63 32) }
    (.value (16 + core) (v % 2 ^ 32)))
    (svcRegRead_reads hc ho) (by rw [Work.readReg_counter (w := Work.start s) hv, Work.answer_low]; rfl) rfl rfl

/-- REG_READ of a register that is no half of a counter answers it and latches nothing. -/
theorem svcRegRead_plain {core m id off : Nat} {q : Prog} {s : State} (hc : callerOf s core = some (m, id, q))
    (ho : off % 4 = 0) (hv : counter64 s q.ctx off = none) (hh : off < 4 ∨ counter64 s q.ctx (off - 4) = none) :
    exec (.svcRegRead core off) s = .next (s.sending (.value (16 + core) (plainReg s q.ctx off % 2 ^ 32))) := by
  exact run_is (w := (Work.start s).send (.value (16 + core) (plainReg s q.ctx off % 2 ^ 32)))
    (svcRegRead_reads hc ho) (by rw [Work.readReg_plain (w := Work.start s) hv hh, Work.answer_low]; rfl) rfl rfl

/-- Settles O16: a counter's two halves for any reader, and REG_READ for the thread that calls. -/
theorem countersLatch : Obligations.CountersLatch :=
  ⟨fun reader off size s h => ⟨counterLowRead_unaligned reader off size s h, counterHighRead_unaligned reader off size s h⟩,
    fun _ _ _ _ ho hv => ⟨counterLowRead_latches ho hv, counterHighRead_answers ho hv⟩,
    fun _ _ _ _ _ _ hc ho => ⟨fun _ hv => svcRegRead_latches hc ho hv, fun hv hh => svcRegRead_plain hc ho hv hh⟩⟩

end Sys2Proof.Machine
end

section
/-! The registers right after reset: every array of the state is unlisted, so that a block's registers are those of its default entry. -/

namespace Sys2Proof.Machine

/-! ### Which block an offset of the view lies in (R444) -/

/-- The region blocks. -/
theorem plainReg_region (s : State) (c : Nat) {r o a : Nat} (hr : r < 12) (ho : o < 0x1000) (ha : a = 0x100000 + 0x1000 * r + o) :
    plainReg s c a = regionReg s r o := by
  have hblock : (a - 0x100000) / 0x1000 = r := by omega
  have hoff : a % 0x1000 = o := by omega
  rw [plainReg, if_neg (by omega), if_neg (by omega), if_neg (by omega), if_neg (by omega), if_neg (by omega),
    if_neg (by omega), if_pos (by omega), hblock, hoff]

/-- The stack blocks. -/
theorem plainReg_stack (s : State) (c : Nat) {k o a : Nat} (hk : k < 12) (ho : o < 0x1000) (ha : a = 0x200000 + 0x1000 * k + o) :
    plainReg s c a = stackReg s k o := by
  have hblock : (a - 0x200000) / 0x1000 = k := by omega
  have hoff : a % 0x1000 = o := by omega
  rw [plainReg, if_neg (by omega), if_neg (by omega), if_neg (by omega), if_neg (by omega), if_neg (by omega),
    if_neg (by omega), if_neg (by omega), if_pos (by omega), hblock, hoff]

/-- The port blocks. -/
theorem plainReg_port (s : State) (c : Nat) {p o a : Nat} (hp : p < 6) (ho : o < 0x1000) (ha : a = 0x300000 + 0x1000 * p + o) :
    plainReg s c a = portReg s p o := by
  have hblock : (a - 0x300000) / 0x1000 = p := by omega
  have hoff : a % 0x1000 = o := by omega
  rw [plainReg, if_neg (by omega), if_neg (by omega), if_neg (by omega), if_neg (by omega), if_neg (by omega),
    if_neg (by omega), if_neg (by omega), if_neg (by omega), if_pos (by omega), hblock, hoff]

/-! ### The blocks at reset -/

/-- A choice between two counters that are 0, where there is one, is 0. -/
theorem getD_ite_zero {p : Prop} [Decidable p] {a b : Option Nat} (ha : a.getD 0 = 0) (hb : b.getD 0 = 0) :
    (if p then a else b).getD 0 = 0 := by
  split <;> assumption

/-- Every 64-bit counter of the view is 0, in whichever block it lies: fabric time, bytes moved, the context's replays, the regions, the
stacks, the ports, the PCIe bytes, the tiles' idle blocks, the physical tiles. -/
theorem counter64_reset (c off : Nat) : (counter64 State.reset c off).getD 0 = 0 := by
  unfold counter64
  refine getD_ite_zero rfl <| getD_ite_zero rfl <| getD_ite_zero rfl <| getD_ite_zero (getD_ite_zero rfl rfl) <|
    getD_ite_zero ?stack <| getD_ite_zero ?port <| getD_ite_zero rfl <| getD_ite_zero rfl <|
    getD_ite_zero (getD_ite_zero rfl <| getD_ite_zero rfl <| getD_ite_zero rfl <| getD_ite_zero rfl rfl) <|
    getD_ite_zero (getD_ite_zero rfl ?tile) rfl
  case stack => dsimp only; split <;> rfl
  case port => dsimp only; split <;> rfl
  case tile => split <;> rfl

/-- Before formation the first three registers of the hub system block are 0. -/
theorem plainReg_sys_reset (c off : Nat) (h : off < 12) : plainReg State.reset c off = 0 := by
  interval_cases off <;> rfl

/-- A region is OFF, has counted nothing, and maps its logical tiles 0–10 to the physical tiles of the same index. -/
theorem regionReg_reset (r : Nat) : regionReg State.reset r 0x400 = 3 ∧ regionReg State.reset r 0x404 = 0 ∧
    regionReg State.reset r 0x004 = 0x76543210 ∧ regionReg State.reset r 0x008 = 0xA98 := by
  have hr : State.reset.region r = {} := rfl
  refine ⟨?_, ?_, ?_, ?_⟩ <;> simp only [regionReg, hr] <;> decide

/-- Every 32-bit register of a stack block is 0. -/
theorem stackReg_reset (k o : Nat) : stackReg State.reset k o = 0 := by
  have hk : State.reset.stack k = {} := rfl
  have hp : retiredPages State.reset k = 0 := rfl
  unfold stackReg
  split <;> simp [hk, hp, pack, b2n]

/-- A port is down, with no lane and no peer. -/
theorem portReg_reset (p : Nat) : portReg State.reset p 0 = 0 := by
  have hp : State.reset.port p = {} := rfl
  simp only [portReg, hp]
  decide

/-- Settles O60: block by block, from the state after reset as it is written out. -/
theorem resetGivesTheTablesValues : Obligations.ResetGivesTheTablesValues := by
  refine ⟨rfl, rfl, rfl, rfl, fun c off v h => ?_, fun _ => ⟨rfl, rfl⟩, fun _ => rfl, fun _ => ⟨rfl, rfl⟩, fun c => ?_⟩
  · simpa [h] using counter64_reset c off
  refine ⟨plainReg_sys_reset c, rfl, rfl, rfl, rfl, rfl, rfl, rfl, rfl, rfl, rfl, rfl, rfl, fun r hr => ?_,
    fun k o hk ho => ?_, fun p hp => ?_⟩
  · obtain ⟨hpwr, hwakes, hmapLo, hmapHi⟩ := regionReg_reset r
    refine ⟨?_, ?_, ?_, ?_⟩
    · rw [plainReg_region _ c (o := 0x400) hr (by omega) (by omega), hpwr]
    · rw [plainReg_region _ c (o := 0x404) hr (by omega) (by omega), hwakes]
    · rw [plainReg_region _ c (o := 0x004) hr (by omega) (by omega), hmapLo]
    · rw [plainReg_region _ c (o := 0x008) hr (by omega) (by omega), hmapHi]
  · rw [plainReg_stack _ c hk (by omega) rfl, stackReg_reset]
  · rw [plainReg_port _ c (o := 0) hp (by omega) (by omega)]
    exact portReg_reset p

end Sys2Proof.Machine
end
section
/-! What a record changes (R506–R510, R442). -/
namespace Sys2Proof.Machine

/-- The announcement of a record leaves the Scorepad alone. -/
theorem Work.announce_pad (w : Work) (r : Rec) : (w.announce r).s.pad = w.s.pad :=
  Work.keeps_pad (ft := fun p => decide (p = .sent)) (by simp) rfl

/-- The Scorepad after a submission depends on the Scorepad and on the time alone. -/
theorem Work.submit_pad_congr {w v : Work} (hp : w.s.pad = v.s.pad) (hn : w.s.now = v.s.now) (code sev src p0 p1 p2 : Nat)
    (ctx : Option Nat) (clear : Bool) :
    (w.submit code sev src p0 p1 p2 ctx clear).s.pad = (v.submit code sev src p0 p1 p2 ctx clear).s.pad := by
  have hnow (p : Pad) : ({ w.s with pad := p } : State).now = ({ v.s with pad := p } : State).now := hn
  unfold Work.submit
  simp only [hp, hnow]
  split
  · exact hp
  split
  · split
    · simp only [Work.store, Work.announce_pad]
    · rfl
  · rfl

/-- The Scorepad after a record depends on the Scorepad and on the time alone. -/
theorem Work.recordCtx_pad_congr {w v : Work} (hp : w.s.pad = v.s.pad) (hn : w.s.now = v.s.now) (code sev src p0 p1 p2 : Nat)
    (ctx : Option Nat) : (w.recordCtx code sev src p0 p1 p2 ctx).s.pad = (v.recordCtx code sev src p0 p1 p2 ctx).s.pad := by
  have hcause (u : Work) (f vec : Nat) : (u.cause f vec).s.pad = u.s.pad :=
    Work.keeps_pad (ft := fun p => decide (p = .sent ∨ p = .fns)) (by simp) rfl
  have hsub := Work.submit_pad_congr hp hn code sev src p0 p1 p2 ctx false
  have hite (u : Work) (seq : Nat) : (if 5 ≤ sev ∧ u.s.pad.seq ≠ seq then u.cause 0 5 else u).s.pad = u.s.pad := by
    split
    · exact hcause u 0 5
    · rfl
  exact (hite _ _).trans (hsub.trans (hite _ _).symm)

/-- A record of severity below CRITICAL raises no cause. -/
theorem Work.recordCtx_fns (w : Work) {sev : Nat} (h : sev < 5) (code src p0 p1 p2 : Nat) (ctx : Option Nat) :
    (w.recordCtx code sev src p0 p1 p2 ctx).s.fns = w.s.fns := by
  unfold Work.recordCtx
  rw [if_neg (by omega)]
  exact Work.keeps_fns (ft := fun p => decide (p = .sent ∨ p = .pad ∨ p = .flash)) (by simp) rfl

/-- SPI flash without its log and the saved sequence number, which are all that a record changes in it (R507, R510). -/
def Flash.unlogged (f : Flash) : Flash := { f with seqSaved := none, log := [] }

/-- A record changes nothing of SPI flash but the log and the saved sequence number. -/
@[simp] theorem Work.recordCtx_unlogged (w : Work) (code sev src p0 p1 p2 : Nat) (ctx : Option Nat) :
    (w.recordCtx code sev src p0 p1 p2 ctx).s.flash.unlogged = w.s.flash.unlogged := by
  have hann (u : Work) (r : Rec) : (u.announce r).s.flash = u.s.flash :=
    Work.keeps_flash (ft := fun p => decide (p = .sent)) (by simp) rfl
  have hsub : (w.submit code sev src p0 p1 p2 ctx false).s.flash.unlogged = w.s.flash.unlogged := by
    unfold Work.submit
    dsimp only
    split
    · rfl
    split
    · split
      · rw [Work.store, hann]
        rfl
      · rfl
    · rfl
  unfold Work.recordCtx
  dsimp only
  split
  · rw [Work.keeps_flash (ft := fun p => decide (p = .sent ∨ p = .fns)) (Work.cause_erase (by simp) _ _ _) rfl, hsub]
  · exact hsub

/-- A work that has changed neither memory nor the queue ends in its own state. -/
theorem Work.result_own {w : Work} {s : State} {ft : Part → Bool} (h : w.erase ft = (Work.start s).erase ft)
    (hft : ft .pending = false ∧ ft .mem = false ∧ ft .poison = false ∧ ft .host = false ∧ ft .space = false ∧ ft .mw = false ∧
      ft .hw = false ∧ ft .sw = false) : w.result s = w.s := by
  obtain ⟨hpending, hmem, hpoison, hhost, hspace, hmw, hhw, hsw⟩ := hft
  unfold Work.result
  rw [Work.keeps_mw h hmw, Work.keeps_hw h hhw, Work.keeps_sw h hsw]
  simp only [Work.start_mw, Work.start_hw, Work.start_sw, List.foldr_nil]
  rw [← Work.start_s s, ← Work.keeps_pending h hpending, ← Work.keeps_mem h hmem, ← Work.keeps_poison h hpoison,
    ← Work.keeps_host h hhost, ← Work.keeps_space h hspace]

end Sys2Proof.Machine
end
section
/-! Function-level resets (R442, R469, R477). -/
namespace Sys2Proof.Machine

/-! ### CMD_COMPAT

Only a reset and the host's own write change the CMD_COMPAT bit of a function: what raises interrupts leaves it alone. -/

/-- A view of the work that every step leaves alone is left alone by all of them. -/
theorem Work.each_view {α β : Type} (view : Work → β) {xs : List α} {f : Work → α → Work} (h : ∀ w x, view (f w x) = view w)
    (w : Work) : view (w.each xs f) = view w := by
  unfold Work.each
  induction xs generalizing w with
  | nil => rfl
  | cons x xs ih => exact (ih (f w x)).trans (h w x)

/-- CMD_COMPAT of every function. -/
def Work.compats (w : Work) (i : Nat) : Bool := (w.s.fn i).compat

/-- Works with the same functions have the same CMD_COMPAT bits. -/
theorem Work.compats_congr {w v : Work} (h : w.s.fns = v.s.fns) : w.compats = v.compats := by
  funext i
  simp only [Work.compats, State.fn, h]

theorem Work.compats_of_erase {ft : Part → Bool} {w v : Work} (h : w.erase ft = v.erase ft) (hf : ft .fns = false) :
    w.compats = v.compats := Work.compats_congr (Work.keeps_fns h hf)

/-- A function replaced by one with the same bit. -/
theorem Work.setFn_compats {w : Work} {i : Nat} {v : Fn} (h : v.compat = (w.s.fn i).compat) : (w.setFn i v).compats = w.compats := by
  funext j
  simp only [Work.compats, Work.setFn_get]
  split
  · simp [*]
  · rfl

/-- A function changed in a way that keeps the bit. -/
theorem Work.modFn_compats {w : Work} {i : Nat} {f : Fn → Fn} (h : ∀ g, (f g).compat = g.compat) :
    (w.modFn i f).compats = w.compats := Work.setFn_compats (h _)

@[simp] theorem Work.message_compats (w : Work) (f vec : Nat) : (w.message f vec).compats = w.compats := by
  unfold Work.message
  dsimp only
  split
  · exact Work.setFn_compats rfl
  · exact Work.setFn_compats rfl

@[simp] theorem Work.cause_compats (w : Work) (f vec : Nat) : (w.cause f vec).compats = w.compats := by
  have hset (n : Nat) : (w.setFn f { w.s.fn f with intStatus := n }).compats = w.compats := Work.setFn_compats rfl
  unfold Work.cause
  dsimp only
  split
  · rfl
  split
  · exact hset _
  split
  · exact (Work.modFn_compats (by exact fun _ => rfl)).trans (hset _)
  · rw [Work.message_compats, hset]

@[simp] theorem Work.recordCtx_compats (w : Work) (code sev src p0 p1 p2 : Nat) (ctx : Option Nat) :
    (w.recordCtx code sev src p0 p1 p2 ctx).compats = w.compats := by
  have hsub : (w.submit code sev src p0 p1 p2 ctx false).compats = w.compats :=
    Work.compats_of_erase (ft := fun p => decide (p = .sent ∨ p = .pad ∨ p = .flash)) (by simp) rfl
  unfold Work.recordCtx
  dsimp only
  split
  · rw [Work.cause_compats, hsub]
  · exact hsub

@[simp] theorem Work.record_compats (w : Work) (code sev src p0 p1 p2 : Nat) :
    (w.record code sev src p0 p1 p2).compats = w.compats := Work.recordCtx_compats ..

@[simp] theorem Work.writeReply_compats (w : Work) (ring : Nat) (y : Reply) : (w.writeReply ring y).compats = w.compats := by
  unfold Work.writeReply
  dsimp only
  split
  · rw [Work.cause_compats]
    rfl
  · rfl

@[simp] theorem Work.finish_compats (w : Work) (a : Active) (status reason p0 p1 : Nat) :
    (w.finish a status reason p0 p1).compats = w.compats := by
  unfold Work.finish Work.postReply
  dsimp only
  split
  · rfl
  split
  · rw [Work.writeReply_compats]
    rfl
  · rfl

@[simp] theorem Work.reply_compats (w : Work) (a : Active) (status reason p0 p1 : Nat) :
    (w.reply a status reason p0 p1).compats = w.compats := by
  have hfences (n : Nat) : ∀ v : Work, (v.settleFences a.ring n).compats = v.compats := by
    induction n with
    | zero => exact fun v => rfl
    | succ n ih =>
      intro v
      unfold Work.settleFences
      split
      · rfl
      · rw [ih, Work.finish_compats]
  rw [Work.reply, hfences, Work.finish_compats]

@[simp] theorem Work.faultStop_compats (w : Work) (c status reason : Nat) : (w.faultStop c status reason).compats = w.compats := by
  have htiles (v : Work) : (v.stopTiles c).compats = v.compats :=
    Work.compats_of_erase (ft := fun p => decide (p = .tiles)) (by simp) rfl
  have hstop : (w.enterStopped c status reason).compats = w.compats := by
    unfold Work.enterStopped
    dsimp only
    rw [Work.compats_of_erase (ft := fun p => decide (p = .sent ∨ p = .sched)) (Work.signal_erase (by simp) _ _) rfl,
      Work.cause_compats]
    exact (htiles _).trans (Work.recordCtx_compats ..)
  unfold Work.faultStop Work.stopTurn
  dsimp only
  split
  · rfl
  split
  · exact hstop
  split
  · exact (Work.each_view Work.compats (fun w b => Work.reply_compats ..) _).trans ((Work.reply_compats ..).trans hstop)
  · exact (Work.each_view Work.compats (fun w b => Work.reply_compats ..) _).trans hstop

@[simp] theorem Work.regionLost_compats (w : Work) (r cause : Nat) : (w.regionLost r cause).compats = w.compats := by
  unfold Work.regionLost Work.packageLost
  dsimp only
  split
  · rfl
  refine (Work.each_view Work.compats (fun w c => ?_) _).trans ?_
  · split
    · exact Work.faultStop_compats ..
    · rfl
  split
  · exact Work.record_compats ..
  · exact Work.record_compats ..

@[simp] theorem Work.placeRegion_compats (w : Work) (r : Nat) : (w.placeRegion r).compats = w.compats := by
  have hindex (v : Work) (k : Nat) : (v.placeIndex r k).compats = v.compats := by
    unfold Work.placeIndex
    dsimp only
    split
    · rfl
    split
    · rfl
    split
    · rfl
    · exact Work.regionLost_compats ..
  have hplaced := Work.each_view (xs := List.range 11) Work.compats hindex w
  have hmoved (v : Work) (ks : List Nat) : (v.each ks (fun w k => w.moved (11 * r + k))).compats = v.compats :=
    Work.each_view Work.compats (by exact fun w k => rfl) v
  unfold Work.placeRegion
  dsimp only
  split
  · rw [Work.regionLost_compats, hmoved, hplaced]
  · rw [hmoved, hplaced]

@[simp] theorem Work.placeEngine_compats (w : Work) (spn : Bool) (r : Nat) (say : Bool) :
    (w.placeEngine spn r say).compats = w.compats := by
  have hguests (qs : List Nat) : (w.each qs (fun w q => w.regionLost q 2)).compats = w.compats :=
    Work.each_view Work.compats (fun w q => Work.regionLost_compats ..) w
  unfold Work.placeEngine
  dsimp only
  split
  · rw [Work.regionLost_compats, hguests]
  split
  · rw [Work.record_compats]
    exact hguests _
  · exact hguests _

@[simp] theorem Work.settleRetiring_compats (w : Work) : w.settleRetiring.compats = w.compats := by
  unfold Work.settleRetiring
  split
  · rfl
  unfold Work.retireNow
  dsimp only
  refine (Work.each_view Work.compats (fun w u => ?_) _).trans ?_
  · cases u
    · rfl
    · exact Work.placeEngine_compats ..
    · exact Work.placeEngine_compats ..
  refine (Work.each_view Work.compats (fun w r => Work.placeRegion_compats ..) _).trans ?_
  refine (Work.each_view Work.compats (fun w u => ?_) w)
  split
  · exact Work.record_compats ..
  · rfl

/-! ### Closing a context with no reply (R477) -/

/-- What a silent close of a context changes before retirements of its regions take effect. -/
def closing (p : Part) : Bool :=
  decide (p ∈ [Part.sent, .sched, .progs, .actives, .latch, .ctxs, .regions, .jobs, .tiles, .skel, .lanes, .lanesNow, .windows,
    .requests, .resident, .partials, .journal, .flips, .retierList, .retierDone, .retierDue, .traceDesc, .traceNext, .idleNs, .sw])

/-- The states of the contexts. -/
def Work.ctxSts (w : Work) (d : Nat) : CtxSt := (w.s.ctx d).st

/-- A program that vanishes changes no context's state. -/
theorem Work.killProg_ctxSts (w : Work) (id : Nat) : (w.killProg id).ctxSts = w.ctxSts := by
  have hdrop (v : Work) : (v.dropProg id).ctxSts = v.ctxSts := by
    unfold Work.dropProg
    split
    · rfl
    · next q _ =>
      funext d
      show ((v.setCtx q.ctx _).s.ctx d).st = _
      rw [Work.setCtx_get]
      split
      · next h => rw [h]; rfl
      · rfl
  have hthreads (ts : List Nat) : (w.each ts (fun w t => w.dropThread t)).ctxSts = w.ctxSts := by
    funext d
    simp only [Work.ctxSts, State.ctx]
    rw [Work.keeps_ctxs (ft := fun p => decide (p = .sched ∨ p = .latch)) (v := w) (by simp) rfl]
  rw [Work.killProg, hdrop]
  exact hthreads _

/-- A silent close closes the context and opens none; retirements of its regions may follow. -/
theorem Work.closeCtx_silent (w : Work) (c : Nat) : ∃ v : Work, v.erase closing = w.erase closing ∧ v.ctxSts c = .closed ∧
    (∀ d, w.ctxSts d = .closed → v.ctxSts d = .closed) ∧
    (w.closeCtx c true none = v ∨ w.closeCtx c true none = v.settleRetiring) := by
  unfold Work.closeCtx
  dsimp only
  rw [if_pos rfl]
  have hkilled (v : Work) (ids : List Nat) : (v.each ids (fun w id => w.killProg id)).ctxSts = v.ctxSts :=
    Work.each_view Work.ctxSts (fun w id => w.killProg_ctxSts id) v
  have hrested (v : Work) (rs : List Nat) (f : Region → Region) :
      ((v.each rs (fun w r => w.modRegion r f)).each rs (fun w r => w.restRegion r)).s.ctxs = v.s.ctxs :=
    Work.keeps_ctxs (ft := fun p => decide (p = .regions)) (by simp) rfl
  have hsolo (v : Work) (b : Prop) [Decidable b] (m : Sent) :
      ((if b then v.send m else v).clearTiles c).s.ctxs = v.s.ctxs :=
    Work.keeps_ctxs (ft := fun p => decide (p = .sent ∨ p = .tiles ∨ p = .skel)) (by split <;> simp) rfl
  split
  · next hclosed =>
    refine ⟨_, ?_, ?_, ?_, .inl rfl⟩
    · simp [closing]
    · exact (congrFun (hkilled _ _) c).trans hclosed
    · exact fun d hd => (congrFun (hkilled _ _) d).trans hd
  · refine ⟨_, ?_, ?_, ?_, .inr rfl⟩
    · simp [closing]
    · simp only [Work.ctxSts, State.ctx, hrested, Work.setCtx, Table.get_put_same]
    · intro d hd
      simp only [Work.ctxSts, State.ctx, hrested, Work.setCtx, Table.get_put]
      split
      · rfl
      · refine (congrArg (fun t : Table Ctx => (t.get {} d).st) (hsolo _ _ _)).trans ?_
        exact (congrFun (hkilled _ _) d).trans hd

/-- Where nothing waits for its retirement, nothing is retired. -/
theorem Work.settleRetiring_none {w : Work} (h : w.s.retiring = []) : w.settleRetiring = w := by
  simp only [Work.settleRetiring, h, List.filter_nil]

/-- A silent close where no retirement waits. -/
theorem Work.closeCtx_quiet {w : Work} (hr : w.s.retiring = []) (c : Nat) :
    (w.closeCtx c true none).erase closing = w.erase closing ∧ (w.closeCtx c true none).ctxSts c = .closed ∧
      ∀ d, w.ctxSts d = .closed → (w.closeCtx c true none).ctxSts d = .closed := by
  obtain ⟨v, herase, hclosed, hstay, hv | hv⟩ := w.closeCtx_silent c
  · rw [hv]
    exact ⟨herase, hclosed, hstay⟩
  · rw [hv, Work.settleRetiring_none ((Work.keeps_retiring herase rfl).trans hr)]
    exact ⟨herase, hclosed, hstay⟩

/-- A silent close leaves the CMD_COMPAT bits alone, whatever retires after it. -/
theorem Work.closeCtx_compats (w : Work) (c : Nat) : (w.closeCtx c true none).compats = w.compats := by
  obtain ⟨v, herase, _, _, hv | hv⟩ := w.closeCtx_silent c
  · rw [hv]
    exact Work.compats_of_erase herase rfl
  · rw [hv, Work.settleRetiring_compats]
    exact Work.compats_of_erase herase rfl

/-! ### A function's reset -/

/-- What of a function a function-level reset puts at its reset state: its registers but for CMD_COMPAT, its context, its rings. -/
structure AtReset (s : State) (g : Nat) : Prop where
  fn : s.fn g = { compat := s.pins.legacy }
  ctx : (s.ctx g).st = .closed
  rings : ∀ i, i < 4 → s.ring (4 * g + i) = {}

/-- The rings of a function at reset. -/
def Work.clearRings (w : Work) (f : Nat) : Work := w.each (List.range 4) (fun w k => w.setRing (4 * f + k) {})

theorem Work.clearRings_ring (w : Work) (f d : Nat) : (w.clearRings f).s.ring d = if d / 4 = f then {} else w.s.ring d := by
  have h4 : List.range 4 = [0, 1, 2, 3] := rfl
  simp only [Work.clearRings, Work.each, h4, List.foldl_cons, List.foldl_nil, Work.setRing_get]
  grind

/-- The rings and the registers of a function at reset. -/
def Work.freshFn (w : Work) (f : Nat) : Work :=
  ({ w.clearRings f with s.latch := (w.clearRings f).s.latch.put 0 f 0 } : Work).setFn f { compat := (w.clearRings f).s.pins.legacy }

theorem Work.resetFunction_eq (w : Work) (f : Nat) : w.resetFunction f = (w.closeCtx f true none).freshFn f := by
  simp only [Work.resetFunction, Work.freshFn, Work.clearRings]

theorem Work.freshFn_does (w : Work) (f : Nat) :
    (w.freshFn f).erase (fun p => decide (p = .rings ∨ p = .latch ∨ p = .fns)) =
        w.erase (fun p => decide (p = .rings ∨ p = .latch ∨ p = .fns)) ∧
      (∀ d, (w.freshFn f).s.ring d = if d / 4 = f then {} else w.s.ring d) ∧
      ∀ g, (w.freshFn f).s.fn g = if g = f then { compat := w.s.pins.legacy } else w.s.fn g := by
  have hclear : (w.clearRings f).erase (fun p => decide (p = .rings)) = w.erase (fun p => decide (p = .rings)) := by
    simp [Work.clearRings]
  have hring := w.clearRings_ring f
  have hpins : (w.clearRings f).s.pins = w.s.pins := Work.keeps_pins hclear rfl
  have hfns : (w.clearRings f).s.fns = w.s.fns := Work.keeps_fns hclear rfl
  have hrest : (w.freshFn f).erase (fun p => decide (p = .rings ∨ p = .latch ∨ p = .fns)) =
      w.erase (fun p => decide (p = .rings ∨ p = .latch ∨ p = .fns)) := by simp [Work.freshFn, Work.clearRings]
  refine ⟨hrest, ?_⟩
  unfold Work.freshFn
  generalize w.clearRings f = v at hring hpins hfns
  refine ⟨hring, fun g => (Work.setFn_get _ f _ g).trans ?_⟩
  split
  · rw [hpins]
  · simp only [State.fn, hfns]

/-- A function's reset is the close of its context, its rings at reset, and its registers at reset. -/
theorem Work.resetFunction_close (w : Work) (f : Nat) :
    (w.resetFunction f).erase (fun p => decide (p = .rings ∨ p = .latch ∨ p = .fns)) =
        (w.closeCtx f true none).erase (fun p => decide (p = .rings ∨ p = .latch ∨ p = .fns)) ∧
      (∀ d, (w.resetFunction f).s.ring d = if d / 4 = f then {} else (w.closeCtx f true none).s.ring d) ∧
      ∀ g, (w.resetFunction f).s.fn g = if g = f then { compat := w.s.pins.legacy } else (w.closeCtx f true none).s.fn g := by
  have hpins : (w.closeCtx f true none).s.pins = w.s.pins := Work.same_pins (by simp)
  rw [Work.resetFunction_eq, ← hpins]
  exact Work.freshFn_does _ f

/-- The function's own registers and rings are at reset. -/
theorem Work.resetFunction_own (w : Work) (f : Nat) : (w.resetFunction f).s.fn f = { compat := w.s.pins.legacy } ∧
    ∀ i, i < 4 → (w.resetFunction f).s.ring (4 * f + i) = {} := by
  obtain ⟨_, hring, hfn⟩ := w.resetFunction_close f
  exact ⟨(hfn f).trans (if_pos rfl), fun i hi => (hring _).trans (if_pos (by omega))⟩

/-- No function's reset touches another's CMD_COMPAT. -/
theorem Work.resetFunction_compat_other (w : Work) {f g : Nat} (h : g ≠ f) :
    (w.resetFunction f).compats g = w.compats g := by
  obtain ⟨_, _, hfn⟩ := w.resetFunction_close f
  rw [Work.compats, hfn, if_neg h]
  exact congrFun (w.closeCtx_compats f) g

/-- What resets of functions leave alone where no retirement waits. -/
structure SameCalm (s t : State) : Prop where
  retiring : t.retiring = []
  pins : t.pins = s.pins
  pad : t.pad = s.pad
  time : t.time = s.time

/-- Where no retirement waits, a function's reset puts it at its reset state, keeps others there, and records nothing. -/
theorem Work.resetFunction_quiet {w : Work} (hr : w.s.retiring = []) (f : Nat) :
    AtReset (w.resetFunction f).s f ∧ (∀ g, AtReset w.s g → AtReset (w.resetFunction f).s g) ∧
      SameCalm w.s (w.resetFunction f).s := by
  obtain ⟨hclose, hclosed, hstay⟩ := Work.closeCtx_quiet hr f
  obtain ⟨hrest, hring, hfn⟩ := w.resetFunction_close f
  have hpins : (w.resetFunction f).s.pins = w.s.pins := (Work.keeps_pins hrest rfl).trans (Work.keeps_pins hclose rfl)
  have hctx : (w.resetFunction f).ctxSts = (w.closeCtx f true none).ctxSts := by
    funext d
    simp only [Work.ctxSts, State.ctx, Work.keeps_ctxs hrest rfl]
  have hown : AtReset (w.resetFunction f).s f := by
    obtain ⟨hfn', hring'⟩ := w.resetFunction_own f
    exact ⟨by rw [hfn', hpins], (congrFun hctx f).trans hclosed, hring'⟩
  refine ⟨hown, fun g hg => ?_, ⟨?_, hpins, ?_, ?_⟩⟩
  · by_cases hgf : g = f
    · rw [hgf]
      exact hown
    · refine ⟨?_, (congrFun hctx g).trans (hstay g hg.ctx), fun i hi => ?_⟩
      · rw [hfn, if_neg hgf, hpins, ← hg.fn]
        simp only [State.fn, Work.keeps_fns hclose rfl]
      · rw [hring, if_neg (by omega), ← hg.rings i hi]
        simp only [State.ring, Work.keeps_rings hclose rfl]
  · exact (Work.keeps_retiring hrest rfl).trans ((Work.keeps_retiring hclose rfl).trans hr)
  · exact (Work.keeps_pad hrest rfl).trans (Work.keeps_pad hclose rfl)
  · exact (Work.keeps_time hrest rfl).trans (Work.keeps_time hclose rfl)

/-- The same for functions reset one after the other. -/
theorem Work.resetFunctions_quiet (fs : List Nat) : ∀ {w : Work}, w.s.retiring = [] →
    (∀ g, g ∈ fs ∨ AtReset w.s g → AtReset (w.each fs (·.resetFunction)).s g) ∧ SameCalm w.s (w.each fs (·.resetFunction)).s := by
  induction fs with
  | nil => exact fun hr => ⟨fun g hg => hg.resolve_left (by simp), ⟨hr, rfl, rfl, rfl⟩⟩
  | cons f fs ih =>
    intro w hr
    obtain ⟨hown, hothers, hcalm⟩ := Work.resetFunction_quiet hr f
    obtain ⟨hall, hcalm'⟩ := ih hcalm.retiring
    refine ⟨fun g hg => hall g ?_, ⟨hcalm'.retiring, hcalm'.pins.trans hcalm.pins, hcalm'.pad.trans hcalm.pad,
      hcalm'.time.trans hcalm.time⟩⟩
    rcases hg with hg | hg
    · rcases List.mem_cons.1 hg with rfl | hg
      · exact .inr hown
      · exact .inl hg
    · exact .inr (hothers g hg)

/-- Resets of other functions leave a function's CMD_COMPAT alone. -/
theorem Work.resetFunctions_compat (fs : List Nat) {g : Nat} : g ∉ fs → ∀ w : Work,
    (w.each fs (·.resetFunction)).compats g = w.compats g := by
  induction fs with
  | nil => exact fun _ _ => rfl
  | cons f fs ih =>
    intro hg w
    rw [List.mem_cons, not_or] at hg
    exact (ih hg.2 (w.resetFunction f)).trans (w.resetFunction_compat_other hg.1)

/-! ### PERST_N and FLR -/

/-- PERST_N where it is high: every function is reset, VFs are disabled, the link is down. -/
theorem perstN_resets {s : State} (h : s.pins.perstN = true) : ∃ t, exec .perstN s = .next t ∧
    t.pins = { s.pins with perstN := false } ∧ t.vfEnable = false ∧ t.boot.pcieTraining = false ∧ t.boot.linkUp = false ∧
    (s.retiring = [] → ∀ f, f < 16 → t.fn f = { compat := s.pins.legacy } ∧ (t.ctx f).st = .closed ∧
      ∀ i, i < 4 → t.ring (4 * f + i) = {}) := by
  generalize hw : (Work.start s).each (List.range 16) (·.resetFunction) = w
  have hpins : w.s.pins = (Work.start s).s.pins := Work.same_pins (by rw [← hw]; simp)
  have hstop : w.stop = (Work.start s).stop := Work.same_stop (by rw [← hw]; simp)
  refine ⟨_, run_is (w := { w with
    s.pins := { w.s.pins with perstN := false }
    s.vfEnable := false
    s.boot := { w.s.boot with pcieTraining := false, linkUp := false } }) (exec_perstN s) ?_ hstop rfl,
    congrArg (fun p : Pins => { p with perstN := false }) hpins, rfl, rfl, rfl, fun hr f hf => ?_⟩
  · dsimp only
    rw [if_neg (by simp [h]), hw]
  · obtain ⟨hall, hcalm⟩ := Work.resetFunctions_quiet (List.range 16) (w := Work.start s) hr
    obtain ⟨hfn, hctx, hrings⟩ := hall f (.inl (List.mem_range.2 hf))
    rw [hcalm.pins] at hfn
    rw [hw] at hfn hctx hrings
    exact ⟨hfn, hctx, hrings⟩

theorem Work.each_nil {α : Type} (w : Work) (f : Work → α → Work) : w.each [] f = w := rfl

theorem Work.each_cons {α : Type} (w : Work) (x : α) (xs : List α) (f : Work → α → Work) : w.each (x :: xs) f = (f w x).each xs f :=
  rfl

/-- The functions that an FLR of function `f` resets: of the PF, every one (R477). -/
def flrResets (f : Nat) : List Nat := if f = 0 then 0 :: (List.range 15).map (· + 1) else [f]

theorem mem_flrResets {f g : Nat} : g ∈ flrResets f ↔ g = f ∨ (f = 0 ∧ g < 16) := by
  unfold flrResets
  split
  · simp only [List.mem_cons, List.mem_map, List.mem_range]
    constructor
    · rintro (rfl | ⟨k, hk, rfl⟩) <;> omega
    · intro h
      by_cases hg : g = 0
      · exact .inl hg
      · exact .inr ⟨g - 1, by omega, by omega⟩
  · simp [*]

/-- FLR's work: the functions are reset, VFs are disabled where the PF is one, and it is recorded. -/
def Work.flr (w : Work) (f : Nat) : Work :=
  let w := w.each (flrResets f) (·.resetFunction)
  { w with s.vfEnable := if f = 0 then false else w.s.vfEnable }.record 0x7005 3 (srcFn f) f 0 0

theorem exec_flr_runs {s : State} {f : Nat} (hf : f < 16) (hh : s.boot.host = true) : exec (.flr f) s = run s (·.flr f) := by
  have hgo : ¬ (16 ≤ f ∨ ¬ s.boot.host = true) := by simp [hh, hf]
  have hwork : ∀ w : Work, (if 16 ≤ f ∨ ¬ s.boot.host = true then w
      else (if f = 0 then { (w.resetFunction f).each ((List.range 15).map (· + 1)) (·.resetFunction) with s.vfEnable := false }
        else w.resetFunction f).record 0x7005 3 (srcFn f) f 0 0) = w.flr f := by
    intro w
    rw [if_neg hgo]
    unfold Work.flr flrResets
    by_cases hf0 : f = 0
    · simp only [hf0, if_true, Work.each_cons]
    · simp only [if_neg hf0, Work.each_cons, Work.each_nil]
  rw [exec_flr, execFlr]
  exact congrArg (run s) (funext hwork)

/-- FLR while the host is served. -/
theorem flr_resets {s : State} {f : Nat} (hf : f < 16) (hh : s.boot.host = true) :
    ∃ t, exec (.flr f) s = .next t ∧ (t.fn f).compat = s.pins.legacy ∧
      (f ≠ 0 → t.fn f = { compat := s.pins.legacy } ∧ t.vfEnable = s.vfEnable ∧ ∀ i, i < 4 → t.ring (4 * f + i) = {}) ∧
      (f = 0 → t.vfEnable = false) ∧
      (s.retiring = [] → t.pad = (s.recorded 0x7005 3 (0xC50 + f) f 0 0 none).pad ∧ ∀ g, g = f ∨ (f = 0 ∧ g < 16) →
        t.fn g = { compat := s.pins.legacy } ∧ (t.ctx g).st = .closed ∧ ∀ i, i < 4 → t.ring (4 * g + i) = {}) := by
  generalize hw : (Work.start s).each (flrResets f) (·.resetFunction) = w
  have hpins : w.s.pins = s.pins := Work.same_pins (v := Work.start s) (by rw [← hw]; simp)
  have hvf : w.s.vfEnable = s.vfEnable := Work.same_vfEnable (v := Work.start s) (by rw [← hw]; simp)
  generalize hu : { w with s.vfEnable := if f = 0 then false else w.s.vfEnable } = u
  have hrec : (u.record 0x7005 3 (srcFn f) f 0 0).erase (fun p => decide (p = .sent ∨ p = .pad ∨ p = .flash ∨ p = .fns)) =
      u.erase (fun p => decide (p = .sent ∨ p = .pad ∨ p = .flash ∨ p = .fns)) := by simp
  have hfns : (u.record 0x7005 3 (srcFn f) f 0 0).s.fns = w.s.fns := (u.recordCtx_fns (by decide) ..).trans (by rw [← hu])
  have hrings : (u.record 0x7005 3 (srcFn f) f 0 0).s.rings = w.s.rings := (Work.keeps_rings hrec rfl).trans (by rw [← hu])
  have hctxs : (u.record 0x7005 3 (srcFn f) f 0 0).s.ctxs = w.s.ctxs := (Work.keeps_ctxs hrec rfl).trans (by rw [← hu])
  have hvfEnable : (u.record 0x7005 3 (srcFn f) f 0 0).s.vfEnable = if f = 0 then false else s.vfEnable := by
    rw [Work.keeps_vfEnable hrec rfl, ← hu, ← hvf]
  have hdone : (Work.start s).flr f = u.record 0x7005 3 (srcFn f) f 0 0 := by rw [Work.flr, hw, hu]
  have hstop : (u.record 0x7005 3 (srcFn f) f 0 0).stop = none :=
    ((Work.erase_allButStop_iff _ _).1 (by rw [← hdone]; simp [Work.flr]) : _ = (Work.start s).stop)
  have hown (hf0 : f ≠ 0) : w = (Work.start s).resetFunction f := by rw [← hw, flrResets, if_neg hf0]; rfl
  refine ⟨_, run_is (exec_flr_runs hf hh) hdone hstop rfl, ?_, fun hf0 => ⟨?_, ?_, fun i hi => ?_⟩, fun hf0 => ?_, fun hr => ⟨?_, fun g hg => ?_⟩⟩
  · show (Table.get (u.record 0x7005 3 (srcFn f) f 0 0).s.fns {} f).compat = _
    rw [hfns]
    by_cases hf0 : f = 0
    · subst hf0
      have hpf := (Work.start s).resetFunction_own 0
      have hvfs := Work.resetFunctions_compat ((List.range 15).map (· + 1)) (g := 0) (by simp) ((Work.start s).resetFunction 0)
      rw [flrResets, if_pos rfl, Work.each_cons] at hw
      rw [hw, Work.compats, Work.compats, hpf.1] at hvfs
      exact hvfs
    · rw [hown hf0]
      exact congrArg Fn.compat ((Work.start s).resetFunction_own f).1
  · show Table.get (u.record 0x7005 3 (srcFn f) f 0 0).s.fns {} f = _
    rw [hfns, hown hf0]
    exact ((Work.start s).resetFunction_own f).1
  · exact hvfEnable.trans (if_neg hf0)
  · show Table.get (u.record 0x7005 3 (srcFn f) f 0 0).s.rings {} _ = _
    rw [hrings, hown hf0]
    exact ((Work.start s).resetFunction_own f).2 i hi
  · exact hvfEnable.trans (if_pos hf0)
  all_goals obtain ⟨hall, hcalm⟩ := Work.resetFunctions_quiet (flrResets f) (w := Work.start s) hr
  all_goals rw [hw] at hall hcalm
  · have hpad : u.s.pad = s.pad := (by rw [← hu] : u.s.pad = w.s.pad).trans hcalm.pad
    have hnow : u.s.now = s.now := by
      have htime : u.s.time = s.time := (by rw [← hu] : u.s.time = w.s.time).trans hcalm.time
      rw [State.now, htime, State.now]
    exact Work.recordCtx_pad_congr (v := Work.start s) hpad hnow ..
  · obtain ⟨hfn, hctx, hring⟩ := hall g (.inl (mem_flrResets.2 hg))
    rw [hpins] at hfn
    refine ⟨?_, ?_, fun i hi => ?_⟩
    · exact (congrArg (fun x : Table Fn => x.get {} g) hfns).trans hfn
    · exact (congrArg (fun t : Table Ctx => (t.get {} g).st) hctxs).trans hctx
    · exact (congrArg (fun x : Table Ring => x.get {} (4 * g + i)) hrings).trans (hring i hi)

end Sys2Proof.Machine
end
section
/-! The stages of a boot (R545–R554). -/
namespace Sys2Proof.Machine

/-! ### The always-on stage (R545–R548) -/

/-- The state once the straps are latched, fabric time starts at 0 and the boot is counted (R545). -/
def State.released (s : State) (x : Straps) : State :=
  { s with
    pins := { s.pins.latch x with aonN := true, vaon := true }
    time := {}
    flash := { s.flash with bootCount := wrapAdd 32 s.flash.bootCount 1 } }

/-- The first number of the Scorepad: the next multiple of 4,096 behind the saved one (R507). -/
def Flash.firstSeq (f : Flash) : Nat := match f.seqSaved with | some n => wrapAdd 32 n 4096 | none => 0

/-- The state once the Scorepad has its first number. -/
def State.numbered (s : State) (x : Straps) : State :=
  { s.released x with
    pad := { s.pad with seq := s.flash.firstSeq }
    flash := { (s.released x).flash with
      seqSaved := if s.flash.firstSeq % 4096 = 0 then some s.flash.firstSeq else s.flash.seqSaved } }

/-- The management firmware runs from one of its copies. -/
def Work.runMgt (w : Work) (copy : Nat) : Work :=
  { w with s.mgt.running := true, s.boot := { w.s.boot with stage := 1, level := 1, mgtCopy := copy } }.bootRecord

/-- What a release does, by what the straps and the verification say. -/
theorem aonRelease_runs {s : State} (x : Straps) (ok0 ok1 : Bool) (ha : s.pins.aonN = false) (hv : s.pins.vio18 = true) :
    exec (.aonRelease x ok0 ok1) s = run s (fun _ =>
      if x.raMode % 4 ≠ 0 then Work.start (s.released x)
      else if ¬ ok0 ∧ ¬ ok1 then
        { (Work.start (s.numbered x)).imageTries 0 ok0 ok1 with
          s.boot := { ((Work.start (s.numbered x)).imageTries 0 ok0 ok1).s.boot with stage := 6, level := 0 } }
      else ((Work.start (s.numbered x)).imageTries 0 ok0 ok1).runMgt (b2n (!ok0))) := by
  have hgo : ¬ (s.pins.aonN = true ∨ ¬ s.pins.vio18 = true) := by simp [ha, hv]
  rw [exec_aonRelease, execAonRelease]
  refine congrArg (fun w => commit s w) ?_
  dsimp only
  rw [if_neg hgo]
  rfl

/-- What the records of failed copies change. -/
def recording (p : Part) : Bool := decide (p ∈ [Part.sent, .pad, .flash, .fns])

/-- The tries of an image change what its records do. -/
theorem Work.imageTries_recording (w : Work) (i : Nat) (ok0 ok1 : Bool) :
    (w.imageTries i ok0 ok1).erase recording = w.erase recording := by simp [recording]

theorem Work.imageTries_unlogged (w : Work) (i : Nat) (ok0 ok1 : Bool) :
    (w.imageTries i ok0 ok1).s.flash.unlogged = w.s.flash.unlogged := by
  unfold Work.imageTries Work.record
  dsimp only
  cases ok0 <;> cases ok1 <;> simp

/-- The straps keep the package in another mode than that of a TW2: nothing boots. -/
theorem aonRelease_other {s : State} {x : Straps} (ok0 ok1 : Bool) (ha : s.pins.aonN = false) (hv : s.pins.vio18 = true)
    (hm : x.raMode % 4 ≠ 0) : exec (.aonRelease x ok0 ok1) s = .next (s.released x) :=
  run_is (aonRelease_runs x ok0 ok1 ha hv) (if_pos hm) rfl rfl

/-- The first copy of the management firmware verifies. -/
theorem aonRelease_first {s : State} {x : Straps} (ok1 : Bool) (ha : s.pins.aonN = false) (hv : s.pins.vio18 = true)
    (hm : x.raMode % 4 = 0) : exec (.aonRelease x true ok1) s = .next ({ s.numbered x with
        mgt := { s.mgt with running := true }
        boot := { s.boot with stage := 1, level := 1, mgtCopy := 0, cause := s.boot.nextCause, nextCause := 0 } }.recorded
      0x0001 1 0xC40 (wrapAdd 32 s.flash.bootCount 1) s.boot.nextCause Config.mgtFwVersion none) := by
  have hm' : ¬ x.raMode % 4 ≠ 0 := by simp [hm]
  generalize hs : ({ s.numbered x with
        mgt := { s.mgt with running := true }
        boot := { s.boot with stage := 1, level := 1, mgtCopy := 0, cause := s.boot.nextCause, nextCause := 0 } } : State) = u
  have hfoot : ((Work.start u).recordCtx 0x0001 1 0xC40 (wrapAdd 32 s.flash.bootCount 1) s.boot.nextCause Config.mgtFwVersion
      none).erase recording = (Work.start u).erase recording := by simp [recording]
  have hdone : ((Work.start (s.numbered x)).imageTries 0 true ok1).runMgt (b2n (!true)) =
      (Work.start u).recordCtx 0x0001 1 0xC40 (wrapAdd 32 s.flash.bootCount 1) s.boot.nextCause Config.mgtFwVersion none := by
    rw [← hs]
    rfl
  refine run_is (aonRelease_runs x true ok1 ha hv) (((if_neg hm').trans (if_neg (by simp))).trans hdone)
    (Work.keeps_stop hfoot rfl) ?_
  refine Eq.trans ?_ (Work.result_own hfoot (by decide))
  rw [← hs]
  rfl

/-- What a release changes once the Scorepad has its first number. -/
def releasing (p : Part) : Bool := decide (p ∈ [Part.sent, .pad, .flash, .fns, .mgt, .boot])

theorem Work.runMgt_unlogged (w : Work) (copy : Nat) : (w.runMgt copy).s.flash.unlogged = w.s.flash.unlogged :=
  Work.recordCtx_unlogged ..

theorem Work.runMgt_boot (w : Work) (copy : Nat) : (w.runMgt copy).s.mgt = { w.s.mgt with running := true } ∧
    (w.runMgt copy).s.boot =
      { w.s.boot with stage := 1, level := 1, mgtCopy := copy, cause := w.s.boot.nextCause, nextCause := 0 } := by
  unfold Work.runMgt Work.bootRecord
  exact ⟨Work.keeps_mgt (ft := recording) (Work.record_erase (by decide) ..) rfl,
    Work.keeps_boot (ft := recording) (Work.record_erase (by decide) ..) rfl⟩

/-- The first copy does not verify: the second one runs, or none. -/
theorem aonRelease_second {s : State} {x : Straps} (ok1 : Bool) (ha : s.pins.aonN = false) (hv : s.pins.vio18 = true)
    (hm : x.raMode % 4 = 0) : ∃ t, exec (.aonRelease x false ok1) s = .next t ∧
      t = { s with
        pins := { s.pins.latch x with aonN := true, vaon := true }, time := {}, flash := t.flash, pad := t.pad, mgt := t.mgt
        boot := t.boot, sent := t.sent, fns := t.fns } ∧
      t.mgt = { s.mgt with running := s.mgt.running || ok1 } ∧ t.flash.bootCount = wrapAdd 32 s.flash.bootCount 1 ∧
      t.boot = (if ok1 then { s.boot with stage := 1, level := 1, mgtCopy := 1, cause := s.boot.nextCause, nextCause := 0 }
        else { s.boot with stage := 6, level := 0 }) := by
  have hm' : ¬ x.raMode % 4 ≠ 0 := by simp [hm]
  have hcount := (Work.start (s.numbered x)).imageTries_unlogged 0 false ok1
  have htried : ((Work.start (s.numbered x)).imageTries 0 false ok1).erase releasing = (Work.start (s.numbered x)).erase releasing :=
    Work.imageTries_erase (by decide) ..
  have hrest := (Work.start (s.numbered x)).imageTries_recording 0 false ok1
  have hboot : ((Work.start (s.numbered x)).imageTries 0 false ok1).s.boot = s.boot := Work.keeps_boot hrest rfl
  have hmgt : ((Work.start (s.numbered x)).imageTries 0 false ok1).s.mgt = s.mgt := Work.keeps_mgt hrest rfl
  have hrun := aonRelease_runs x false ok1 ha hv
  generalize (Work.start (s.numbered x)).imageTries 0 false ok1 = w at htried hcount hboot hmgt hrun
  cases ok1 with
  | false =>
    refine ⟨_, run_is hrun ((if_neg hm').trans (if_pos (by simp))) (Work.keeps_stop htried rfl) rfl,
      Work.result_mix (s := s.numbered x) (ft := releasing) ((Work.erase_set_boot rfl ..).trans htried), ?_,
      congrArg Flash.bootCount hcount, ?_⟩
    · exact hmgt.trans (by simp)
    · exact congrArg (fun b : Boot => { b with stage := 6, level := 0 }) hboot
  | true =>
    have hran : (w.runMgt 1).erase releasing = (Work.start (s.numbered x)).erase releasing :=
      Eq.trans (by simp [Work.runMgt, releasing]) htried
    obtain ⟨hmgt', hboot'⟩ := w.runMgt_boot 1
    refine ⟨_, run_is hrun ((if_neg hm').trans (if_neg (by simp))) (Work.keeps_stop hran rfl) rfl,
      Work.result_mix (s := s.numbered x) (ft := releasing) hran, ?_,
      congrArg Flash.bootCount ((w.runMgt_unlogged 1).trans hcount), ?_⟩
    · exact hmgt'.trans (by rw [hmgt, Bool.or_true])
    · exact hboot'.trans (by rw [hboot]; rfl)

/-! ### Host service (R552–R554) -/

/-- Training that has ended changes neither host service, nor the firmware, nor PCIe, and lowers no level. -/
theorem Work.raiseLevels_boot (w : Work) :
    w.raiseLevels.s.boot.host = w.s.boot.host ∧ w.raiseLevels.s.boot.fwReady = w.s.boot.fwReady ∧
      w.raiseLevels.s.boot.hubCopy = w.s.boot.hubCopy ∧ w.raiseLevels.s.boot.pcieTraining = w.s.boot.pcieTraining ∧
      (3 ≤ w.s.boot.stage → 3 ≤ w.raiseLevels.s.boot.stage) ∧ (2 ≤ w.s.boot.level → 2 ≤ w.raiseLevels.s.boot.level) := by
  unfold Work.raiseLevels
  dsimp only
  split
  · exact ⟨rfl, rfl, rfl, rfl, id, id⟩
  · refine ⟨rfl, rfl, rfl, rfl, fun hs => ?_, fun hl => ?_⟩
    · dsimp only
      split
      · omega
      · exact Nat.le_trans hs (Nat.le_max_left _ _)
    · dsimp only
      repeat' split
      all_goals omega

/-- Before firmware runs no level rises. -/
theorem Work.raiseLevels_idle {w : Work} (hf : w.s.boot.fwReady = false) : w.raiseLevels = w := by
  unfold Work.raiseLevels
  exact if_pos (.inl (by simp [hf]))

/-- Host service waits for firmware and for the release of PERST_N. -/
theorem Work.hostLevel_idle {w : Work} (h : w.s.boot.fwReady = false ∨ w.s.pins.perstN = false) : w.hostLevel = w := by
  unfold Work.hostLevel
  refine if_pos ?_
  rcases h with h | h <;> simp [h]

/-- Host service changes neither the firmware nor PCIe, and lowers no level. -/
theorem Work.hostLevel_boot (w : Work) :
    w.hostLevel.s.boot.fwReady = w.s.boot.fwReady ∧ w.hostLevel.s.boot.hubCopy = w.s.boot.hubCopy ∧
      w.hostLevel.s.boot.pcieTraining = w.s.boot.pcieTraining ∧ (3 ≤ w.s.boot.stage → 3 ≤ w.hostLevel.s.boot.stage) := by
  unfold Work.hostLevel
  split
  · exact ⟨rfl, rfl, rfl, id⟩
  · obtain ⟨_, hfw, hcopy, hpcie, hstage, _⟩ := Work.raiseLevels_boot
      { w with s.boot := { w.s.boot with host := true, level := Nat.max 2 w.s.boot.level } }
    exact ⟨hfw, hcopy, hpcie, hstage⟩

/-- With firmware on core 0 and PERST_N high the host is served; where it was not, the level is at least that of host service. -/
theorem Work.hostLevel_serves {w : Work} (hf : w.s.boot.fwReady = true) (hp : w.s.pins.perstN = true)
    (hc : (w.s.core 0).retired = false) :
    w.hostLevel.s.boot.host = true ∧ (w.s.boot.host = false → 2 ≤ w.hostLevel.s.boot.level) := by
  have hany : (List.range 4).any (fun k => !(w.s.core k).retired) = true :=
    List.any_eq_true.2 ⟨0, by decide, by simp [hc]⟩
  unfold Work.hostLevel
  cases hh : w.s.boot.host with
  | true =>
    rw [if_pos (by simp)]
    exact ⟨hh, by simp⟩
  | false =>
    rw [if_neg (by simp [hf, hp, hany])]
    obtain ⟨hhost, _, _, _, _, hlevel⟩ := Work.raiseLevels_boot
      { w with s.boot := { w.s.boot with host := true, level := Nat.max 2 w.s.boot.level } }
    exact ⟨hhost, fun _ => hlevel (Nat.le_max_left _ _)⟩

/-- PERST_N goes high, and PCIe trains where the boot has reached the hub stage (R552). -/
def State.perstHigh (s : State) : State :=
  { s with
    pins := { s.pins with perstN := true }
    boot := { s.boot with pcieTraining := decide (2 ≤ s.boot.stage) && decide (s.boot.stage ≤ 5) } }

/-- PERST_RELEASE where PERST_N is low. -/
theorem perstRelease_trains {s : State} (h : s.pins.perstN = false) :
    ∃ t, exec .perstRelease s = .next t ∧ t = { s with pins := { s.pins with perstN := true }, boot := t.boot } ∧
      t.boot.pcieTraining = (decide (2 ≤ s.boot.stage) && decide (s.boot.stage ≤ 5)) ∧
      (s.boot.fwReady = true → (s.core 0).retired = false → t.boot.host = true) ∧
      (s.boot.fwReady = false → t.boot.host = s.boot.host ∧ t.boot.level = s.boot.level ∧ t.boot.stage = s.boot.stage) := by
  have hfoot : (Work.start s.perstHigh).hostLevel.erase (fun p => decide (p = .boot)) =
      (Work.start s.perstHigh).erase (fun p => decide (p = .boot)) := by simp
  obtain ⟨_, _, htrains, _⟩ := (Work.start s.perstHigh).hostLevel_boot
  refine ⟨_, run_is (exec_perstRelease s) (if_neg (by simp [h])) (Work.keeps_stop hfoot rfl) rfl,
    Work.result_mix (s := s.perstHigh) hfoot, htrains, fun hf hc => ?_, fun hf => ?_⟩
  · exact (Work.hostLevel_serves (w := Work.start s.perstHigh) hf rfl hc).1
  · have hidle : (Work.start s.perstHigh).hostLevel = Work.start s.perstHigh := Work.hostLevel_idle (.inl hf)
    exact ⟨congrArg (fun w : Work => w.s.boot.host) hidle, congrArg (fun w : Work => w.s.boot.level) hidle,
      congrArg (fun w : Work => w.s.boot.stage) hidle⟩

/-- PCIE_LINK_UP ends the training of the link. -/
theorem pcieLinkUp_links (s : State) : exec .pcieLinkUp s = .next
    (if s.boot.pcieTraining = true then { s with boot := { s.boot with pcieTraining := false, linkUp := true } } else s) := by
  cases h : s.boot.pcieTraining with
  | true => exact run_is (exec_pcieLinkUp s) (if_pos h) rfl rfl
  | false => exact exec_idles (exec_pcieLinkUp s) (if_neg (by simp [h]))

/-! ### The hub's firmware (R547–R549) -/

/-- Two records in a row leave the Scorepad that two recorded states leave. -/
theorem Work.recordTwice_pad (s : State) (code sev src p q : Nat) :
    (((Work.start s).record code sev src p 0 0).record code sev src q 0 0).s.pad =
      ((s.recorded code sev src p 0 0 none).recorded code sev src q 0 0 none).pad := by
  have hnow : ((Work.start s).record code sev src p 0 0).s.now = (s.recorded code sev src p 0 0 none).now := rfl
  exact Work.recordCtx_pad_congr (w := (Work.start s).record code sev src p 0 0)
    (v := Work.start (s.recorded code sev src p 0 0 none)) rfl hnow code sev src q 0 0 none

/-- No copy of the hub's firmware verifies: both are recorded. -/
theorem hubFirmwareVerified_fails {s : State} (hs : s.boot.stage = 2) :
    ∃ t, exec (.hubFirmwareVerified false false) s = .next t ∧
      t = { s with pad := t.pad, flash := t.flash, fns := t.fns, sent := t.sent } ∧
      t.pad = ((s.recorded 0x0002 6 0xC40 2 0 0 none).recorded 0x0002 6 0xC40 3 0 0 none).pad := by
  have hfoot := (Work.start s).imageTries_recording 2 false false
  refine ⟨_, run_is (exec_hubFirmwareVerified false false s) (if_neg (by simp [hs])) (Work.keeps_stop hfoot rfl) rfl,
    Work.result_mix hfoot, Work.recordTwice_pad s 0x0002 6 0xC40 2 3⟩

/-- A pass over `List.range n` whose step at `i` keeps `I` and changes entry `i` of a view alone, by `v`. -/
theorem Work.each_range_view {β : Type} (I : Work → Prop) (view : Work → Nat → β) (v : Nat → β → β) {f : Work → Nat → Work} {n : Nat}
    (hf : ∀ w i, i < n → I w → I (f w i) ∧ ∀ j, view (f w i) j = if j = i then v i (view w i) else view w j) {w : Work} (hw : I w) :
    I (w.each (List.range n) f) ∧ ∀ j, view (w.each (List.range n) f) j = if j < n then v j (view w j) else view w j := by
  induction n with
  | zero => exact ⟨hw, fun j => rfl⟩
  | succ n ih =>
    obtain ⟨hkeep, hview⟩ := ih (fun w i hi => hf w i (by omega))
    have hlast : w.each (List.range (n + 1)) f = f (w.each (List.range n) f) n := by
      rw [List.range_succ]
      exact List.foldl_append ..
    obtain ⟨hkeep', hview'⟩ := hf (w.each (List.range n) f) n (Nat.lt_succ_self n) hkeep
    rw [hlast]
    refine ⟨hkeep', fun j => ?_⟩
    rw [hview']
    by_cases hj : j = n
    · subst hj
      simp only [ite_true, Nat.lt_succ_self, hview, Nat.lt_irrefl, ite_false]
    · rw [if_neg hj, hview]
      exact if_congr (by omega) rfl rfl

/-- The release of the cores (R549). -/
def Work.releaseCores (w : Work) : Work :=
  w.each (List.range 12) (fun w k => w.setCore k { w.s.core k with released := true })

theorem Work.releaseCores_core (w : Work) (k : Nat) :
    w.releaseCores.s.core k = if k < 12 then { w.s.core k with released := true } else w.s.core k :=
  (Work.each_range_view (fun _ => True) (fun w => w.s.core) (fun _ c => { c with released := true })
    (fun w i _ _ => ⟨trivial, fun j => Work.setCore_get w i _ j⟩) trivial).2 k

/-- What good hub firmware changes. -/
def starting (p : Part) : Bool := decide (p ∈ [Part.sched, .boot, .pad, .flash, .fns, .sent])

/-- The hub's firmware starts from one of its copies. -/
def Work.runHub (w : Work) (copy : Nat) : Work :=
  { w.releaseCores with s.boot := { w.releaseCores.s.boot with stage := 3, hubCopy := copy, fwReady := true } }

/-- A copy of the hub's firmware verifies (R549, R554). -/
theorem hubFirmwareVerified_starts {s : State} {ok0 ok1 : Bool} (hs : s.boot.stage = 2) (hok : ok0 = true ∨ ok1 = true) :
    ∃ t, exec (.hubFirmwareVerified ok0 ok1) s = .next t ∧
      t = { s with sched := t.sched, boot := t.boot, pad := t.pad, flash := t.flash, fns := t.fns, sent := t.sent } ∧
      (∀ k, k < 12 → t.core k = { s.core k with released := true }) ∧
      (∀ k, 12 ≤ k → t.core k = s.core k) ∧
      t.boot.fwReady = true ∧ t.boot.hubCopy = b2n (!ok0) ∧ 3 ≤ t.boot.stage ∧
      (s.pins.perstN = false → t.boot = { s.boot with stage := 3, hubCopy := b2n (!ok0), fwReady := true }) ∧
      (s.pins.perstN = true → s.boot.host = false → (s.core 0).retired = false → t.boot.host = true ∧ 2 ≤ t.boot.level) := by
  have hgo : ¬ (¬ ok0 ∧ ¬ ok1) := by rcases hok with h | h <;> simp [h]
  have htried := (Work.start s).imageTries_recording 2 ok0 ok1
  have hrun : ∃ v, v = (Work.start s).imageTries 2 ok0 ok1 := ⟨_, rfl⟩
  obtain ⟨v, hv⟩ := hrun
  rw [← hv] at htried
  have hcores (k : Nat) : v.s.core k = s.core k := by
    simp only [State.core]
    rw [Work.keeps_sched htried rfl]
    rfl
  have hboot : v.s.boot = s.boot := Work.keeps_boot htried rfl
  have hpins : v.s.pins = s.pins := Work.keeps_pins htried rfl
  have hrel : v.releaseCores.erase (fun p => decide (p = .sched)) = v.erase (fun p => decide (p = .sched)) := by
    simp [Work.releaseCores]
  have hrelBoot : v.releaseCores.s.boot = s.boot := (Work.keeps_boot hrel rfl).trans hboot
  have hrelPins : v.releaseCores.s.pins = s.pins := (Work.keeps_pins hrel rfl).trans hpins
  have hlevel : (v.runHub (b2n (!ok0))).hostLevel.erase (fun p => decide (p = .boot)) =
      (v.runHub (b2n (!ok0))).erase (fun p => decide (p = .boot)) := by simp
  have hcore (k : Nat) : (v.runHub (b2n (!ok0))).hostLevel.s.core k = v.releaseCores.s.core k := by
    simp only [State.core]
    rw [Work.keeps_sched hlevel rfl]
    rfl
  have hfoot : (v.runHub (b2n (!ok0))).hostLevel.erase starting = (Work.start s).erase starting := by
    rw [hv]
    simp [Work.runHub, Work.releaseCores, starting]
  have hrunBoot : (v.runHub (b2n (!ok0))).s.boot = { s.boot with stage := 3, hubCopy := b2n (!ok0), fwReady := true } :=
    congrArg (fun b : Boot => { b with stage := 3, hubCopy := b2n (!ok0), fwReady := true }) hrelBoot
  obtain ⟨hfw, hcopy, _, hstage⟩ := (v.runHub (b2n (!ok0))).hostLevel_boot
  refine ⟨_, run_is (exec_hubFirmwareVerified ok0 ok1 s) ?_ (Work.keeps_stop hfoot rfl) rfl, Work.result_mix hfoot,
    fun k hk => ?_, fun k hk => ?_, hfw, hcopy, hstage (Nat.le_refl 3), fun hp => ?_, fun hp hh hc => ?_⟩
  · dsimp only
    rw [if_neg (by simp [hs]), if_neg hgo, ← hv]
    rfl
  · exact (hcore k).trans ((v.releaseCores_core k).trans ((if_pos hk).trans (by rw [hcores])))
  · exact (hcore k).trans ((v.releaseCores_core k).trans ((if_neg (by omega)).trans (hcores k)))
  · have hidle := Work.hostLevel_idle (w := v.runHub (b2n (!ok0))) (.inr ((congrArg Pins.perstN hrelPins).trans hp))
    exact (congrArg (fun w : Work => w.s.boot) hidle).trans hrunBoot
  · have hret : ((v.runHub (b2n (!ok0))).s.core 0).retired = false := by
      refine (congrArg HubCore.retired (v.releaseCores_core 0)).trans ?_
      rw [if_pos (by decide), hcores]
      exact hc
    obtain ⟨hhost, hlow⟩ := Work.hostLevel_serves (w := v.runHub (b2n (!ok0))) rfl ((congrArg Pins.perstN hrelPins).trans hp) hret
    exact ⟨hhost, hlow ((congrArg Boot.host hrunBoot).trans hh)⟩

end Sys2Proof.Machine
end
section
/-! The training of an HBM stack (R319, R320). -/
namespace Sys2Proof.Machine

/-! ### What the loss of a region leaves of SPI flash -/

/-- SPI flash without its log and saved sequence number. -/
def Work.kept (w : Work) : Flash := w.s.flash.unlogged

theorem Work.kept_of_erase {ft : Part → Bool} {w v : Work} (h : w.erase ft = v.erase ft) (hf : ft .flash = false) : w.kept = v.kept :=
  congrArg Flash.unlogged (Work.keeps_flash h hf)

@[simp] theorem Work.reply_kept (w : Work) (a : Active) (status reason p0 p1 : Nat) :
    (w.reply a status reason p0 p1).kept = w.kept :=
  Work.kept_of_erase (ft := fun p => decide (p ≠ .flash)) (by simp) rfl

@[simp] theorem Work.faultStop_kept (w : Work) (c status reason : Nat) : (w.faultStop c status reason).kept = w.kept := by
  have hstop : (w.enterStopped c status reason).kept = w.kept := by
    have hrest (v : Work) (x : Ctx) (n f : Nat) : ((((v.stopTiles c).setCtx c x).cause f n).signal (0x40 + c)).kept = v.kept :=
      Work.kept_of_erase (ft := fun p => decide (p ≠ .flash)) (by simp) rfl
    unfold Work.enterStopped
    exact (hrest _ _ _ _).trans (Work.recordCtx_unlogged ..)
  unfold Work.faultStop Work.stopTurn
  dsimp only
  split
  · rfl
  split
  · exact hstop
  split
  · exact (Work.each_view Work.kept (fun w b => Work.reply_kept ..) _).trans ((Work.reply_kept ..).trans hstop)
  · exact (Work.each_view Work.kept (fun w b => Work.reply_kept ..) _).trans hstop

@[simp] theorem Work.regionLost_kept (w : Work) (r cause : Nat) : (w.regionLost r cause).kept = w.kept := by
  unfold Work.regionLost Work.packageLost
  dsimp only
  split
  · rfl
  refine (Work.each_view Work.kept (fun w c => ?_) _).trans ?_
  · split
    · exact Work.faultStop_kept ..
    · rfl
  split
  · exact Work.recordCtx_unlogged ..
  · exact Work.recordCtx_unlogged ..

/-- The region is lost. -/
theorem Work.regionLost_lost (w : Work) (r cause : Nat) : ((w.regionLost r cause).s.region r).lost = true := by
  have hkeep (v : Work) (p : Ctx → Bool) : ((v.record 0x2005 5 (srcRegion r) cause 0 0).packageLost 1 p).s.regions = v.s.regions :=
    Work.same_regions (by simp)
  unfold Work.regionLost
  split
  · assumption
  · refine (congrArg (fun t : Table Region => (t.get {} r).lost) (hkeep _ _)).trans ?_
    exact congrArg Region.lost (Work.setRegion_same w r _)

/-! ### The lanes that a training repairs -/

/-- The lanes of stack `k` in SPI flash. -/
def State.knownLanes (s : State) (k : Nat) : List (Nat × Nat) := s.flash.hbmLanes.filter (fun e => e.1 = k)

/-- The repaired lanes that SPI flash does not hold yet. -/
def State.newLanes (s : State) (k : Nat) (r : HbmTrain) : List (Nat × Nat) :=
  (r.repaired.map (fun e => (k, e.1))).filter (fun e => !(s.knownLanes k).contains e)

/-- The state once SPI flash holds the repaired lanes (R320). -/
def State.repaired (s : State) (k : Nat) (r : HbmTrain) : State :=
  { s with flash := { s.flash with hbmLanes := s.flash.hbmLanes ++ s.newLanes k r } }

/-- The count of repaired lanes that the stack reports. -/
def State.laneCount (s : State) (k : Nat) (r : HbmTrain) : Nat := Nat.min 255 ((s.knownLanes k).length + (s.newLanes k r).length)

theorem State.mem_repaired (s : State) (k : Nat) (r : HbmTrain) (e : Nat × Nat) :
    e ∈ (s.repaired k r).flash.hbmLanes ↔ e ∈ s.flash.hbmLanes ∨ ∃ l ∈ r.repaired, e = (k, l.1) := by
  have hmem : e ∈ (s.repaired k r).flash.hbmLanes ↔ e ∈ s.flash.hbmLanes ∨
      (∃ l ∈ r.repaired, e = (k, l.1)) ∧ ¬ (e ∈ s.flash.hbmLanes ∧ e.1 = k) := by
    simp only [State.repaired, State.newLanes, State.knownLanes, List.mem_append, List.mem_filter, List.mem_map,
      Bool.not_eq_true', List.contains_eq_mem, decide_eq_false_iff_not, decide_eq_true_eq, @eq_comm _ _ e]
  rw [hmem]
  constructor
  · rintro (h | ⟨h, _⟩)
    · exact .inl h
    · exact .inr h
  · rintro (h | h)
    · exact .inl h
    · by_cases hold : e ∈ s.flash.hbmLanes
      · exact .inl hold
      · exact .inr ⟨h, fun hk => hold hk.1⟩

/-! ### The end of a training -/

/-- What the training does to the stack and to its region, by its outcome. -/
def State.trained (s : State) (k : Nat) (r : HbmTrain) : Work :=
  if r.outcome = 0 then
    (Work.start (s.repaired k r)).setStack k { (s.stack k).resume s.now with slow := false, lanes := s.laneCount k r }
  else if r.outcome = 1 then
    ((Work.start (s.repaired k r)).record 0x3006 3 (srcStack k) r.channel 0 0).setStack k
      { (s.stack k).resume s.now with slow := true, lanes := s.laneCount k r }
  else
    (((Work.start (s.repaired k r)).record 0x3006 3 (srcStack k) r.channel 0 0).setStack k
      { s.stack k with st := 3, lanes := s.laneCount k r }).regionLost k 1

theorem exec_hbmTrained {s : State} {k : Nat} (r : HbmTrain) (hk : k < 12) (hst : (s.stack k).st = 0) (hlo : 2 ≤ s.boot.stage)
    (hhi : s.boot.stage ≤ 5) : exec (.hbmTrainingDone k r) s = run s (fun _ => (s.trained k r).raiseLevels) := by
  rw [exec_hbmTrainingDone, execHbmTrainingDone]
  refine congrArg (fun w => commit s w) ?_
  dsimp only
  rw [if_neg (by omega)]
  refine congrArg Work.raiseLevels ?_
  unfold State.trained
  split
  · rfl
  · rfl

/-- What the end of a training may change. -/
def training (p : Part) : Bool :=
  decide (p ∈ [Part.sent, .pad, .flash, .sched, .fns, .rings, .actives, .pcieTx, .ctxs, .regions, .tiles, .hw, .hbm])

theorem State.trained_erase (s : State) (k : Nat) (r : HbmTrain) :
    (s.trained k r).erase training = (Work.start (s.repaired k r)).erase training := by
  unfold State.trained
  split
  · simp [training]
  split
  · simp [training]
  · simp [training]

/-- The stack at the end of its training: in service, slow, or dead (R320). -/
def State.trainedStack (s : State) (k : Nat) (r : HbmTrain) : Stack :=
  if r.outcome = 0 then { (s.stack k).resume s.now with slow := false, lanes := s.laneCount k r }
  else if r.outcome = 1 then { (s.stack k).resume s.now with slow := true, lanes := s.laneCount k r }
  else { s.stack k with st := 3, lanes := s.laneCount k r }

theorem State.trained_stack (s : State) (k : Nat) (r : HbmTrain) (j : Nat) :
    (s.trained k r).s.stack j = if j = k then s.trainedStack k r else s.stack j := by
  have hrec (v : Work) : (v.record 0x3006 3 (srcStack k) r.channel 0 0).s.hbm = v.s.hbm := Work.same_hbm (by simp)
  have hset (g : Stack) : (((Work.start (s.repaired k r)).record 0x3006 3 (srcStack k) r.channel 0 0).setStack k g).s.stack j =
      if j = k then g else s.stack j := by
    rw [Work.setStack_get, State.stack, hrec]
    rfl
  have hlost (v : Work) : (v.regionLost k 1).s.stack j = v.s.stack j := by
    rw [State.stack, Work.same_hbm (v := v) (by simp)]
    rfl
  unfold State.trained State.trainedStack
  split
  · exact Work.setStack_get ..
  split
  · exact hset _
  · rw [hlost]
    exact hset _

theorem State.trained_kept (s : State) (k : Nat) (r : HbmTrain) : (s.trained k r).kept = (s.repaired k r).flash.unlogged := by
  unfold State.trained
  split
  · rfl
  split
  · exact Work.recordCtx_unlogged ..
  · exact (Work.regionLost_kept ..).trans (Work.recordCtx_unlogged ..)

/-- A stack's training ends with the stack in service, slow or dead (R319, R320). -/
theorem hbmTraining_ends {s : State} {k : Nat} (r : HbmTrain) (hk : k < 12) (hst : (s.stack k).st = 0) (hlo : 2 ≤ s.boot.stage)
    (hhi : s.boot.stage ≤ 5) : ∃ t n, exec (.hbmTrainingDone k r) s = .next t ∧ n ≤ 255 ∧
      (∀ j, j ≠ k → t.stack j = s.stack j) ∧
      (∀ e, e ∈ t.flash.hbmLanes ↔ e ∈ s.flash.hbmLanes ∨ ∃ l ∈ r.repaired, e = (k, l.1)) ∧
      (s.boot.fwReady = false → t.boot = s.boot) ∧
      (r.outcome = 0 → t = { s with hbm := t.hbm, boot := t.boot, flash := { s.flash with hbmLanes := t.flash.hbmLanes } } ∧
        t.stack k = { s.stack k with st := 1, slow := false, lanes := n, since := s.now, lastReq := s.now }) ∧
      (r.outcome = 1 → t.stack k = { s.stack k with st := 1, slow := true, lanes := n, since := s.now, lastReq := s.now } ∧
        t.pad = (s.recorded 0x3006 3 (0xC10 + k) r.channel 0 0 none).pad) ∧
      (r.outcome ≠ 0 → r.outcome ≠ 1 → t.stack k = { s.stack k with st := 3, lanes := n } ∧ (t.region k).lost = true) := by
  have hfoot := s.trained_erase k r
  have hraise (v : Work) : v.raiseLevels.erase (fun p => decide (p = .boot)) = v.erase (fun p => decide (p = .boot)) := by simp
  have hstop : (s.trained k r).raiseLevels.stop = none :=
    (Work.keeps_stop (hraise _) rfl).trans (Work.keeps_stop hfoot rfl)
  have hstack (j : Nat) : (s.trained k r).raiseLevels.s.stack j = if j = k then s.trainedStack k r else s.stack j := by
    refine Eq.trans ?_ (s.trained_stack k r j)
    rw [State.stack, Work.keeps_hbm (hraise _) rfl]
    rfl
  have hself : (s.trained k r).raiseLevels.s.stack k = s.trainedStack k r := (hstack k).trans (if_pos rfl)
  have hkept : (s.trained k r).raiseLevels.kept = (s.repaired k r).flash.unlogged :=
    (Work.kept_of_erase (hraise _) rfl).trans (s.trained_kept k r)
  have hlanes : (s.trained k r).raiseLevels.s.flash.hbmLanes = (s.repaired k r).flash.hbmLanes := by
    have h := congrArg Flash.hbmLanes hkept
    exact h
  refine ⟨_, s.laneCount k r, run_is (exec_hbmTrained r hk hst hlo hhi) rfl hstop rfl, Nat.min_le_left _ _,
    fun j hj => (hstack j).trans (if_neg hj), fun e => ?_, fun hf => ?_, fun h0 => ⟨?_, ?_⟩, fun h1 => ⟨?_, ?_⟩,
    fun h0 h1 => ⟨?_, ?_⟩⟩
  · exact (iff_of_eq (congrArg (e ∈ ·) hlanes)).trans (s.mem_repaired k r e)
  · have hboot : (s.trained k r).s.boot = s.boot := Work.keeps_boot hfoot rfl
    have hidle : (s.trained k r).raiseLevels = s.trained k r := Work.raiseLevels_idle ((congrArg Boot.fwReady hboot).trans hf)
    exact (congrArg (fun w : Work => w.s.boot) hidle).trans hboot
  · have hserve : (s.trained k r).raiseLevels.erase (fun p => decide (p = .hbm ∨ p = .boot)) =
        (Work.start (s.repaired k r)).erase (fun p => decide (p = .hbm ∨ p = .boot)) := by
      rw [State.trained, if_pos h0]
      simp
    exact (Work.result_mix (s := s.repaired k r) hserve).trans (congrArg (fun l => { s with
      hbm := (s.trained k r).raiseLevels.s.hbm, boot := (s.trained k r).raiseLevels.s.boot
      flash := { s.flash with hbmLanes := l } }) hlanes.symm)
  · exact hself.trans (if_pos h0)
  · exact hself.trans ((if_neg (by omega)).trans (if_pos h1))
  · have hrec : s.trained k r = ((Work.start (s.repaired k r)).record 0x3006 3 (srcStack k) r.channel 0 0).setStack k
        { (s.stack k).resume s.now with slow := true, lanes := s.laneCount k r } := (if_neg (by omega)).trans (if_pos h1)
    refine (Work.keeps_pad (hraise _) rfl).trans ((congrArg (fun w : Work => w.s.pad) hrec).trans ?_)
    exact Work.recordCtx_pad_congr (w := Work.start (s.repaired k r)) (v := Work.start s) rfl rfl 0x3006 3 (0xC10 + k) r.channel 0 0 none
  · exact hself.trans ((if_neg h0).trans (if_neg h1))
  · have hdead : s.trained k r = (((Work.start (s.repaired k r)).record 0x3006 3 (srcStack k) r.channel 0 0).setStack k
        { s.stack k with st := 3, lanes := s.laneCount k r }).regionLost k 1 := (if_neg h0).trans (if_neg h1)
    refine (congrArg (fun t : Table Region => (t.get {} k).lost) (Work.keeps_regions (hraise _) rfl)).trans ?_
    exact (congrArg (fun w : Work => (w.s.region k).lost) hdead).trans (Work.regionLost_lost ..)

end Sys2Proof.Machine
end
section
/-! The tile maps of a boot (R14, R18). -/
namespace Sys2Proof.Machine

theorem regionOfMesh_meshOf : ∀ r < 12, ∀ i < 12, regionOfMesh (meshOf r i) = r := by decide
theorem indexOfMesh_meshOf : ∀ r < 12, ∀ i < 12, indexOfMesh (meshOf r i) = i := by decide

/-- A mesh number names one index of one region. -/
theorem meshOf_inj {r i q j : Nat} (hr : r < 12) (hi : i < 12) (hq : q < 12) (hj : j < 12) :
    meshOf r i = meshOf q j ↔ r = q ∧ i = j := by
  constructor
  · intro h
    refine ⟨?_, ?_⟩
    · rw [← regionOfMesh_meshOf r hr i hi, h, regionOfMesh_meshOf q hq j hj]
    · rw [← indexOfMesh_meshOf r hr i hi, h, indexOfMesh_meshOf q hq j hj]
  · rintro ⟨rfl, rfl⟩
    rfl

/-! ### Placing tiles -/

/-- With nothing retired since manufacture, a tile survives unless it failed then. -/
theorem survives_iff {s : State} (h : s.flash.retired = []) (r i : Nat) :
    survives s r i = true ↔ s.flash.failed.contains (meshOf r i) = false := by
  simp [survives, isRetired, h]

/-- A pass whose steps change nothing changes nothing. -/
theorem Work.each_idle {α : Type} {xs : List α} {f : Work → α → Work} {w : Work} (h : ∀ x ∈ xs, f w x = w) : w.each xs f = w := by
  induction xs with
  | nil => rfl
  | cons x xs ih =>
    rw [Work.each_cons, h x (.head _)]
    exact ih fun y hy => h y (.tail _ hy)

/-- A pass in which one step alone does anything. -/
theorem Work.each_one {f : Work → Nat → Work} {w v : Work} {k n : Nat} (hk : k < n) (hbefore : ∀ i, i < n → i ≠ k → f w i = w)
    (hstep : f w k = v) (hafter : ∀ i, i < n → i ≠ k → f v i = v) : w.each (List.range n) f = v := by
  induction n with
  | zero => omega
  | succ n ih =>
    have hlast (u : Work) : u.each (List.range (n + 1)) f = f (u.each (List.range n) f) n := by
      rw [List.range_succ]
      exact List.foldl_append ..
    rw [hlast]
    by_cases hn : k = n
    · subst hn
      rw [Work.each_idle fun i hi => hbefore i (by have := List.mem_range.1 hi; omega) (by have := List.mem_range.1 hi; omega), hstep]
    · rw [ih (by omega) (fun i hi => hbefore i (by omega)) (fun i hi => hafter i (by omega))]
      exact hafter n (Nat.lt_succ_self n) (Ne.symm hn)

/-- An index whose host survives stays. -/
theorem Work.placeIndex_survives {w : Work} {r k : Nat} (h : survives w.s r ((w.s.region r).map.getD k 0) = true) :
    w.placeIndex r k = w := if_pos h

/-- The survivors of a region. -/
def State.survivors (s : State) (r : Nat) : Nat := ((List.range 12).filter (fun i => survives s r i)).length

/-- A region whose hosts all survive, and that has enough survivors, is placed. -/
theorem Work.placeRegion_settled {w : Work} {r : Nat} (h : ∀ k, k < 11 → survives w.s r ((w.s.region r).map.getD k 0) = true)
    (h6 : 6 ≤ w.s.survivors r) : w.placeRegion r = w := by
  have hplace : w.each (List.range 11) (fun w k => w.placeIndex r k) = w :=
    Work.each_idle fun k hk => Work.placeIndex_survives (h k (List.mem_range.1 hk))
  have hnone : (List.range 11).filter (fun k => decide ((w.s.region r).map.getD k 0 ≠ (w.s.region r).map.getD k 0)) = [] := by simp
  unfold Work.placeRegion
  dsimp only
  rw [hplace, hnone, Work.each_nil]
  exact if_neg (Nat.not_lt.2 h6)

/-! ### The fuses -/

/-- The region takes its map from the fuses. -/
def Work.fuse (w : Work) (r : Nat) : Work :=
  w.modRegion r (fun g => { g with map := fusedMap w.s r, spare := factorySpare w.s r, spareUsed := false })

/-- The work with another retirement list. -/
def Work.relist (w : Work) (us : List UnitId) : Work := { w with s.flash.retired := us }

theorem Work.relist_self {w : Work} {us : List UnitId} (h : w.s.flash.retired = us) : w.relist us = w := by
  subst h
  rfl

theorem Work.bootRegion_eq (w : Work) (r : Nat) :
    w.bootRegion r = ((((w.relist []).fuse r).placeRegion r).relist w.s.flash.retired).placeRegion r := by
  simp only [Work.bootRegion, Work.relist, Work.fuse]

/-- With an empty retirement list the region is placed by the fuses, and then placed again. -/
theorem Work.bootRegion_fused {w v : Work} {r : Nat} (h : w.s.flash.retired = []) (hv : (w.fuse r).placeRegion r = v)
    (hkeep : v.s.flash.retired = []) : w.bootRegion r = v.placeRegion r := by
  rw [Work.bootRegion_eq, h, Work.relist_self h, hv, Work.relist_self hkeep]

/-- Indices of the map are below 12. -/
theorem fusedMap_getD_lt (s : State) (r k : Nat) : (fusedMap s r).getD k 0 < 12 := by
  rw [List.getD_eq_getElem?_getD]
  cases h : (fusedMap s r)[k]? with
  | none => exact (by decide : 0 < 12)
  | some i => exact List.mem_range.1 (List.mem_filter.1 (List.mem_of_getElem? h)).1

/-- No tile of the region has failed: the fuses place it. -/
theorem Work.bootRegion_healthy {w : Work} {r : Nat} (h : w.s.flash.retired = [])
    (hok : ∀ i, i < 12 → w.s.flash.failed.contains (meshOf r i) = false) : w.bootRegion r = w.fuse r := by
  have hlive (i : Nat) (hi : i < 12) : survives (w.fuse r).s r i = true := (survives_iff h r i).2 (hok i hi)
  have hmap : ((w.fuse r).s.region r).map = fusedMap w.s r := congrArg Region.map (Work.setRegion_same w r _)
  have hall : (w.fuse r).s.survivors r = 12 := by
    rw [State.survivors, List.filter_eq_self.2 fun i hi => hlive i (List.mem_range.1 hi)]
    rfl
  have hplaced : (w.fuse r).placeRegion r = w.fuse r :=
    Work.placeRegion_settled (fun k _ => by rw [hmap]; exact hlive _ (fusedMap_getD_lt w.s r k)) (by omega)
  rw [Work.bootRegion_fused h hplaced h, hplaced]

end Sys2Proof.Machine
end
section
/-! A tile that failed at manufacture (R14, R18). -/
namespace Sys2Proof.Machine

/-! ### One failed index

Index `i` of region `r` alone failed at manufacture. The factory spare is the highest other index, and the logical tile at
`oneOf i` loses its host. -/

/-- The factory spare of a region whose index `i` alone failed. -/
def spareBut (i : Nat) : Nat := if i = 11 then 10 else 11

/-- The logical tile that the fuses place at `i`. -/
def oneOf (i : Nat) : Nat := Nat.min i 10

/-- The map of the fuses. -/
def mapBut (i : Nat) : List Nat := (List.range 12).filter (fun j => j ≠ spareBut i)

theorem mapBut_oneOf : ∀ i < 12, (mapBut i).getD (oneOf i) 0 = i := by decide
theorem mapBut_other : ∀ i < 12, ∀ k < 11, k ≠ oneOf i → (mapBut i).getD k 0 ≠ i ∧ (mapBut i).getD k 0 < 12 := by decide
theorem hosted_mapBut : ∀ i < 12, hosted (mapBut i) (spareBut i) = 0 := by decide
theorem mapBut_set : ∀ i < 12, (mapBut i).set (oneOf i) (spareBut i) = (mapBut i).map (fun j => if j = i then spareBut i else j) := by
  decide
theorem mapBut_set_ne : ∀ i < 12, ∀ k < 11, ((mapBut i).set (oneOf i) (spareBut i)).getD k 0 ≠ i ∧
    ((mapBut i).set (oneOf i) (spareBut i)).getD k 0 < 12 := by decide
theorem spareBut_ne (i : Nat) : spareBut i ≠ i ∧ spareBut i < 12 := by
  unfold spareBut
  split <;> omega
theorem survivors_but : ∀ i < 12, ((List.range 12).filter (fun j => decide (j ≠ i))).length = 11 := by decide

/-- Index `i` of region `r` is the package's one failed tile, and nothing is retired. -/
structure OneFailed (s : State) (r i : Nat) : Prop where
  region : r < 12
  index : i < 12
  failed : s.flash.failed = [meshOf r i]
  retired : s.flash.retired = []

theorem OneFailed.contains {s : State} {r i : Nat} (h : OneFailed s r i) {q j : Nat} (hq : q < 12) (hj : j < 12) :
    s.flash.failed.contains (meshOf q j) = decide (q = r ∧ j = i) := by
  have hinj := meshOf_inj hq hj h.region h.index
  exact Bool.eq_iff_iff.2 (by simp [h.failed, hinj])

theorem OneFailed.of_flash {s t : State} {r i : Nat} (h : OneFailed s r i) (ht : t.flash = s.flash) : OneFailed t r i :=
  ⟨h.region, h.index, (congrArg Flash.failed ht).trans h.failed, (congrArg Flash.retired ht).trans h.retired⟩

theorem OneFailed.survives_iff {s : State} {r i j : Nat} (h : OneFailed s r i) (hj : j < 12) : survives s r j = true ↔ j ≠ i := by
  rw [Machine.survives_iff h.retired, h.contains h.region hj]
  simp

theorem OneFailed.factorySpare {s : State} {r i : Nat} (h : OneFailed s r i) : factorySpare s r = spareBut i := by
  have hlast : (List.range 12).reverse = 11 :: 10 :: (List.range 10).reverse := rfl
  have h11 := h.contains h.region (by decide : 11 < 12)
  have h10 := h.contains h.region (by decide : 10 < 12)
  unfold Machine.factorySpare spareBut
  rw [hlast, List.find?_cons, List.find?_cons, h11, h10]
  by_cases hi : i = 11
  · subst hi
    simp
  · simp [hi, Ne.symm hi]

theorem OneFailed.fusedMap {s : State} {r i : Nat} (h : OneFailed s r i) : fusedMap s r = mapBut i := by
  rw [Machine.fusedMap, h.factorySpare, mapBut]

theorem OneFailed.survivors {s : State} {r i : Nat} (h : OneFailed s r i) : s.survivors r = 11 := by
  rw [State.survivors, ← survivors_but i h.index]
  refine congrArg List.length (List.filter_congr fun j hj => ?_)
  have hj' := List.mem_range.1 hj
  cases hs : survives s r j
  · exact ((decide_eq_false_iff_not).2 fun hne => by simp [(h.survives_iff hj').2 hne] at hs).symm
  · exact (decide_eq_true ((h.survives_iff hj').1 hs)).symm

/-! ### The spare's place -/

/-- The factory spare takes the place of the failed tile. -/
def Region.spared (g : Region) (i : Nat) : Region :=
  { g with map := (mapBut i).set (oneOf i) (spareBut i), spare := spareBut i, spareUsed := true }

theorem Work.fuse_region {w : Work} {r i : Nat} (h : OneFailed w.s r i) :
    (w.fuse r).s.region r = { w.s.region r with map := mapBut i, spare := spareBut i, spareUsed := false } := by
  rw [Work.fuse, Work.modRegion, Work.setRegion_same, h.fusedMap, h.factorySpare]

theorem Work.fuse_other (w : Work) (r : Nat) {q : Nat} (hq : q ≠ r) : (w.fuse r).s.region q = w.s.region q :=
  Work.setRegion_other w r _ hq

/-- A region of the spared map is settled. -/
theorem Work.placeRegion_spared {w : Work} {r i : Nat} (h : OneFailed w.s r i)
    (hmap : (w.s.region r).map = (mapBut i).set (oneOf i) (spareBut i)) : w.placeRegion r = w := by
  refine Work.placeRegion_settled (fun k hk => ?_) (by rw [h.survivors]; decide)
  obtain ⟨hne, hlt⟩ := mapBut_set_ne i h.index k hk
  rw [hmap]
  exact (h.survives_iff hlt).2 hne

/-- The logical tiles of a region that get a new host. -/
def rehomed (w : Work) (r : Nat) : List Nat :=
  (List.range 11).filter (fun k => decide ((w.s.region r).map.getD k 0 ≠
    ((w.each (List.range 11) (fun w k => w.placeIndex r k)).s.region r).map.getD k 0))

/-- The region of the failed tile gets its spare; the moved logical tile is emptied. -/
theorem Work.placeRegion_fused {w : Work} {r i : Nat} (h : OneFailed w.s r i) :
    ∃ ks, (w.fuse r).placeRegion r = ((w.fuse r).setRegion r ((w.s.region r).spared i)).each ks (fun w k => w.moved (11 * r + k)) := by
  have hfused := Work.fuse_region h
  have hflash : OneFailed (w.fuse r).s r i := h.of_flash rfl
  have hspared : ((w.fuse r).setRegion r ((w.s.region r).spared i)).s.region r = (w.s.region r).spared i := Work.setRegion_same ..
  have hflash' : OneFailed ((w.fuse r).setRegion r ((w.s.region r).spared i)).s r i := h.of_flash rfl
  have hplace : (w.fuse r).each (List.range 11) (fun w k => w.placeIndex r k) = (w.fuse r).setRegion r ((w.s.region r).spared i) := by
    refine Work.each_one (k := oneOf i) (Nat.lt_succ_of_le (Nat.min_le_right i 10)) (fun k hk hne => ?_) ?_ fun k hk hne => ?_
    · obtain ⟨hother, hlt⟩ := mapBut_other i h.index k hk hne
      refine Work.placeIndex_survives ?_
      rw [hfused]
      exact (hflash.survives_iff hlt).2 hother
    · have hdead : ¬ survives (w.fuse r).s r i = true := fun hs => (hflash.survives_iff h.index).1 hs rfl
      obtain ⟨hsp, hsplt⟩ := spareBut_ne i
      have hlive : survives (w.fuse r).s r (spareBut i) = true := (hflash.survives_iff hsplt).2 hsp
      unfold Work.placeIndex
      simp only [hfused, mapBut_oneOf i h.index]
      rw [if_neg hdead, if_pos ⟨Bool.false_ne_true, hlive, hosted_mapBut i h.index⟩]
      rfl
    · obtain ⟨hother, hlt⟩ := mapBut_set_ne i h.index k hk
      refine Work.placeIndex_survives ?_
      rw [hspared]
      exact (hflash'.survives_iff hlt).2 hother
  have hmoved (ks : List Nat) :
      (((w.fuse r).setRegion r ((w.s.region r).spared i)).each ks (fun w k => w.moved (11 * r + k))).s.flash = w.s.flash :=
    Work.keeps_flash (ft := fun p => decide (p = .regions ∨ p = .tiles ∨ p = .mw)) (by simp [Work.fuse]) rfl
  have hunfold (u : Work) : u.placeRegion r =
      if State.survivors ((u.each (List.range 11) (fun w k => w.placeIndex r k)).each (rehomed u r) (fun w k => w.moved (11 * r + k))).s r < 6
      then ((u.each (List.range 11) (fun w k => w.placeIndex r k)).each (rehomed u r) (fun w k => w.moved (11 * r + k))).regionLost r 0
      else (u.each (List.range 11) (fun w k => w.placeIndex r k)).each (rehomed u r) (fun w k => w.moved (11 * r + k)) := rfl
  refine ⟨rehomed (w.fuse r) r, ?_⟩
  rw [hunfold, hplace]
  exact if_neg (by rw [(h.of_flash (hmoved _)).survivors]; decide)

/-- The region of the failed tile after a boot; flash and every other region stay. -/
theorem Work.bootRegion_spared {w : Work} {r i : Nat} (h : OneFailed w.s r i) :
    (w.bootRegion r).s.flash = w.s.flash ∧
      ∀ q, (w.bootRegion r).s.region q = if q = r then (w.s.region r).spared i else w.s.region q := by
  obtain ⟨ks, hplaced⟩ := Work.placeRegion_fused h
  have hmoved (u : Work) : (u.each ks (fun w k => w.moved (11 * r + k))).erase (fun p => decide (p = .tiles ∨ p = .mw)) =
      u.erase (fun p => decide (p = .tiles ∨ p = .mw)) := by simp
  have hflash : (((w.fuse r).setRegion r ((w.s.region r).spared i)).each ks (fun w k => w.moved (11 * r + k))).s.flash = w.s.flash :=
    (Work.keeps_flash (hmoved _) rfl).trans rfl
  have hregion (q : Nat) : (((w.fuse r).setRegion r ((w.s.region r).spared i)).each ks (fun w k => w.moved (11 * r + k))).s.region q =
      if q = r then (w.s.region r).spared i else w.s.region q := by
    refine (congrArg (fun t : Table Region => t.get {} q) (Work.keeps_regions (hmoved _) rfl)).trans ?_
    refine (Work.setRegion_get _ r _ q).trans (ite_congr rfl (fun _ => rfl) fun hq => ?_)
    exact Work.fuse_other w r hq
  generalize ((w.fuse r).setRegion r ((w.s.region r).spared i)).each ks (fun w k => w.moved (11 * r + k)) = v at hplaced hflash hregion
  have hone : OneFailed v.s r i := h.of_flash hflash
  rw [Work.bootRegion_fused h.retired hplaced hone.retired,
    Work.placeRegion_spared hone (congrArg Region.map ((hregion r).trans (if_pos rfl)))]
  exact ⟨hflash, hregion⟩

end Sys2Proof.Machine
end
section
/-! The hub stage (R14, R336, R382, R442, R549). -/
namespace Sys2Proof.Machine

/-! ### The state and its first record -/

/-- The straps are latched again and the hub is at its reset state (R545, R549). -/
def State.hubReset (s : State) (x : Straps) : State :=
  { s with
    pins := { s.pins.latch x with pwrGood := true, pkgN := true }
    fns := freshFns x.legacy
    sched := { s.sched with threads := ringThreads }
    boot := { s.boot with stage := 2, pcieTraining := s.pins.perstN } }

/-- A boot of the package alone is recorded (R516). -/
def State.hubRecord (s : State) (x : Straps) : Work :=
  if s.boot.nextCause = 0 then Work.start (s.hubReset x) else (Work.start (s.hubReset x)).bootRecord

/-- The tile maps and the engines' hosts, from the fuses and the retirement list. -/
def Work.bootUnits (w : Work) : Work := (w.each (List.range 12) Work.bootRegion).each (List.range 12) Work.bootEngines

/-- The remapped pages of the stacks, and the ports that begin to train. -/
def Work.hubLinks (w : Work) (s : State) : Work :=
  (w.each (List.range 12) (fun w k => w.modStack k (fun g => { g with remap := remapsOf s k }))).each (List.range 6)
    (fun w p => w.setPort p { st := 1, step := 1 })

theorem exec_hubStage {s : State} (x : Straps) (hm : s.mgt.running = true) (hs : s.boot.stage = 1) :
    exec (.hubStageStart x) s = run s (fun _ => (s.hubRecord x).bootUnits.hubLinks s) := by
  rw [exec_hubStageStart, execHubStageStart]
  refine congrArg (fun w => commit s w) ?_
  dsimp only
  rw [if_neg (by simp [hm, hs])]
  rfl

/-- What a boot record changes. -/
def bootRecording (p : Part) : Bool := decide (p ∈ [Part.boot, .sent, .pad, .flash, .fns])

theorem State.hubRecord_erase {ft : Part → Bool}
    (hp : ft .boot = true ∧ ft .sent = true ∧ ft .pad = true ∧ ft .flash = true ∧ ft .fns = true) (s : State) (x : Straps) :
    (s.hubRecord x).erase ft = (Work.start (s.hubReset x)).erase ft := by
  unfold State.hubRecord
  split
  · rfl
  · simp [hp]

theorem State.hubRecord_kept (s : State) (x : Straps) : (s.hubRecord x).kept = s.flash.unlogged := by
  unfold State.hubRecord
  split
  · rfl
  · exact Work.recordCtx_unlogged ..

theorem State.hubRecord_fns (s : State) (x : Straps) : (s.hubRecord x).s.fns = freshFns x.legacy := by
  unfold State.hubRecord
  split
  · rfl
  · exact Work.recordCtx_fns _ (by decide) ..

theorem State.hubRecord_boot (s : State) (x : Straps) : (s.hubRecord x).s.boot = { s.boot with
    stage := 2, pcieTraining := s.pins.perstN, nextCause := 0
    cause := if s.boot.nextCause = 0 then s.boot.cause else s.boot.nextCause } := by
  unfold State.hubRecord
  split
  · next h => simp only [State.hubReset, Work.start_s, ← h]
  · unfold Work.bootRecord
    exact Work.keeps_boot (ft := recording) (Work.record_erase (by decide) ..) rfl

/-! ### Fresh tables -/

/-- A table filled over `List.range n`. -/
theorem get_fill {β : Type} [DecidableEq β] (d : β) (v : Nat → β) (n : Nat) (t : Table β) (j : Nat) :
    ((List.range n).foldl (fun t k => t.put d k (v k)) t).get d j = if j < n then v j else t.get d j := by
  induction n with
  | zero => rfl
  | succ n ih =>
    rw [List.range_succ, List.foldl_append, List.foldl_cons, List.foldl_nil, Table.get_put]
    by_cases hj : j = n
    · subst hj
      simp
    · rw [if_neg hj, ih]
      exact if_congr (by omega) rfl rfl

theorem freshFns_get (legacy : Bool) {f : Nat} (h : f < 16) : (freshFns legacy).get {} f = { compat := legacy } :=
  (get_fill ({} : Fn) (fun _ => ({ compat := legacy } : Fn)) 16 [] f).trans (if_pos h)

theorem ringThreads_get {k : Nat} (h : k < 64) :
    ringThreads.get {} k = { prio := 24, elig := 0, st := .blocked, event := some k } :=
  (get_fill ({} : Thread) (fun k => ({ prio := 24, elig := 0, st := .blocked, event := some k } : Thread)) 64 [] k).trans (if_pos h)

/-! ### The maps -/

/-- A region as the fuses give it. -/
def Region.fused (g : Region) (s : State) (r : Nat) : Region :=
  { g with map := fusedMap s r, spare := factorySpare s r, spareUsed := false }

theorem fused_congr {s t : State} (h : t.flash.failed = s.flash.failed) (g : Region) (r : Nat) : g.fused t r = g.fused s r := by
  have hspare : factorySpare t r = factorySpare s r := by simp only [factorySpare, h]
  simp only [Region.fused, fusedMap, hspare]

theorem Work.fuse_get {w : Work} {s : State} (h : w.s.flash.failed = s.flash.failed) (r q : Nat) :
    (w.fuse r).s.region q = if q = r then (w.s.region r).fused s r else w.s.region q := by
  rw [← fused_congr h]
  exact Work.setRegion_get ..

/-- With nothing retired no engine moves. -/
theorem Work.bootEngines_idle {w : Work} (h : w.s.flash.retired = []) (r : Nat) : w.bootEngines r = w := by
  have hret (u : UnitId) (hu : ∀ p, u ≠ .tile p) : isRetired w.s u = false := by
    cases u with
    | tile p => exact absurd rfl (hu p)
    | spinner q => simp [isRetired, h]
    | update q => simp [isRetired, h]
  unfold Work.bootEngines
  dsimp only
  rw [if_neg (by simp [hret]), if_neg (by simp [hret])]

/-- A healthy package: the fuses alone place every region. -/
theorem Work.bootUnits_healthy {w : Work} (hret : w.s.flash.retired = []) (hfail : w.s.flash.failed = []) :
    (∀ ft : Part → Bool, ft .regions = true → w.bootUnits.erase ft = w.erase ft) ∧
      ∀ r, w.bootUnits.s.region r = if r < 12 then (w.s.region r).fused w.s r else w.s.region r := by
  obtain ⟨hkeep, hregion⟩ := Work.each_range_view (f := Work.bootRegion) (n := 12)
    (fun v => ∀ ft : Part → Bool, ft .regions = true → v.erase ft = w.erase ft)
    (fun v => v.s.region) (fun r g => g.fused w.s r) (w := w) (fun v r _ hv => by
      have hflash : v.s.flash = w.s.flash := Work.keeps_flash (hv (fun p => decide (p = .regions)) rfl) rfl
      rw [Work.bootRegion_healthy ((congrArg Flash.retired hflash).trans hret) (fun i _ => by rw [hflash, hfail]; rfl)]
      refine ⟨fun ft hft => Eq.trans ?_ (hv ft hft), fun q => Work.fuse_get (congrArg Flash.failed hflash) r q⟩
      simp [Work.fuse, hft]) (fun _ _ => rfl)
  have hflash := Work.keeps_flash (hkeep (fun p => decide (p = .regions)) rfl) rfl
  have hidle : w.bootUnits = w.each (List.range 12) Work.bootRegion :=
    Work.each_idle fun r _ => Work.bootEngines_idle ((congrArg Flash.retired hflash).trans hret) r
  rw [hidle]
  exact ⟨hkeep, hregion⟩

/-- One failed tile: its region is placed with the factory spare, the others by the fuses. -/
theorem Work.bootUnits_one {w : Work} {r i : Nat} (h : OneFailed w.s r i) (q : Nat) :
    w.bootUnits.s.region q =
      if q < 12 then (if q = r then (w.s.region q).spared i else (w.s.region q).fused w.s q) else w.s.region q := by
  obtain ⟨hkeep, hregion⟩ := Work.each_range_view (f := Work.bootRegion) (n := 12) (fun v => v.s.flash = w.s.flash)
    (fun v => v.s.region) (fun q g => if q = r then g.spared i else g.fused w.s q) (w := w) (fun v q hq hv => by
      have hone : OneFailed v.s r i := h.of_flash hv
      by_cases hqr : q = r
      · subst hqr
        obtain ⟨hflash, hplaced⟩ := Work.bootRegion_spared hone
        exact ⟨hflash.trans hv, fun j => by rw [hplaced, if_pos rfl]⟩
      · rw [Work.bootRegion_healthy hone.retired (fun j hj => by rw [hone.contains hq hj]; simp [hqr])]
        exact ⟨hv, fun j => by rw [if_neg hqr]; exact Work.fuse_get (congrArg Flash.failed hv) q j⟩) rfl
  have hidle : w.bootUnits = w.each (List.range 12) Work.bootRegion :=
    Work.each_idle fun r _ => Work.bootEngines_idle ((congrArg Flash.retired hkeep).trans h.retired) r
  rw [hidle]
  exact hregion q

/-! ### The stage -/

/-- Stacks and ports: what the links' start changes. -/
theorem Work.hubLinks_does (w : Work) (s : State) :
    (∀ ft : Part → Bool, ft .hbm = true → ft .ports = true → (w.hubLinks s).erase ft = w.erase ft) ∧
      (∀ k, k < 12 → (w.hubLinks s).s.hbm.get {} k = { w.s.stack k with remap := remapsOf s k }) ∧
      ∀ p, p < 6 → (w.hubLinks s).s.ports.get {} p = { st := 1, step := 1 } := by
  obtain ⟨_, hstack⟩ := Work.each_range_view (f := fun w k => w.modStack k (fun g => { g with remap := remapsOf s k })) (n := 12)
    (fun _ => True) (fun v => v.s.stack) (fun k g => { g with remap := remapsOf s k }) (w := w)
    (fun v k _ _ => ⟨trivial, fun j => Work.setStack_get v k _ j⟩) trivial
  obtain ⟨_, hport⟩ := Work.each_range_view (f := fun w p => w.setPort p { st := 1, step := 1 }) (n := 6) (fun _ => True)
    (fun v => v.s.port) (fun _ _ => { st := 1, step := 1 })
    (w := w.each (List.range 12) (fun w k => w.modStack k (fun g => { g with remap := remapsOf s k })))
    (fun v p _ _ => ⟨trivial, fun j => Work.setPort_get v p _ j⟩) trivial
  have hports (v : Work) : (v.each (List.range 6) (fun w p => w.setPort p { st := 1, step := 1 })).s.hbm = v.s.hbm :=
    Work.same_hbm (by simp)
  refine ⟨fun ft hh hp => by simp [Work.hubLinks, hh, hp], fun k hk => ?_, fun p hp => (hport p).trans (if_pos hp)⟩
  refine (congrArg (fun t : Table Stack => t.get {} k) (hports _)).trans ?_
  exact (hstack k).trans (if_pos hk)

/-- The hub's reset leaves memory to the work's result. -/
theorem Work.result_hubReset (w : Work) (s : State) (x : Straps) : w.result (s.hubReset x) = w.result s := by
  simp only [Work.result, State.hubReset]

/-- What the hub stage of a healthy package changes beyond its reset. -/
def hubStaging : Part → Bool
  | .boot | .sched | .sent | .pad | .flash | .fns | .regions | .hbm | .ports => true
  | _ => false

theorem State.hubRecord_flash (s : State) (x : Straps) :
    (s.hubRecord x).s.flash.failed = s.flash.failed ∧ (s.hubRecord x).s.flash.retired = s.flash.retired := by
  have h := s.hubRecord_kept x
  have hfailed := congrArg Flash.failed h
  have hretired := congrArg Flash.retired h
  exact ⟨hfailed, hretired⟩

theorem State.hubRecord_region (s : State) (x : Straps) (r : Nat) : (s.hubRecord x).s.region r = s.region r :=
  congrArg (fun t : Table Region => t.get {} r) (Work.keeps_regions (s.hubRecord_erase (ft := bootRecording) (by decide) x) rfl)

/-- The hub stage of a package with no failed and no retired unit. -/
theorem hubStage_healthy {s : State} (x : Straps) (hm : s.mgt.running = true) (hs : s.boot.stage = 1)
    (hok : ∀ u, isRetired s u = false) : ∃ t, exec (.hubStageStart x) s = .next t ∧
      t = { s with
        pins := { s.pins.latch x with pwrGood := true, pkgN := true }
        fns := t.fns
        sched := t.sched
        boot := t.boot
        regions := t.regions
        hbm := t.hbm
        ports := t.ports
        pad := t.pad
        flash := t.flash
        sent := t.sent } ∧
      t.boot = { s.boot with
        stage := 2, pcieTraining := s.pins.perstN, nextCause := 0
        cause := if s.boot.nextCause = 0 then s.boot.cause else s.boot.nextCause } ∧
      (∀ f, f < 16 → t.fn f = { compat := x.legacy }) ∧ (∀ p, p < 6 → t.port p = { st := 1, step := 1 }) ∧
      (∀ r, r < 12 → t.region r = (s.region r).fused s r) ∧
      (∀ k, k < 12 → t.stack k = { s.stack k with remap := remapsOf s k }) ∧
      ∀ k, k < 64 → t.thread k = { prio := 24, elig := 0, st := .blocked, event := some k } := by
  have hretired : s.flash.retired = [] := by
    refine List.eq_nil_iff_forall_not_mem.2 fun u hu => ?_
    have h := hok u
    simp [isRetired, hu] at h
  have hfailed : s.flash.failed = [] := by
    refine List.eq_nil_iff_forall_not_mem.2 fun p hp => ?_
    have h := hok (.tile p)
    simp [isRetired, hp] at h
  have hrec := s.hubRecord_erase (ft := bootRecording) (by decide) x
  obtain ⟨hsame, hsame'⟩ := s.hubRecord_flash x
  obtain ⟨hunits, hregions⟩ := Work.bootUnits_healthy (hsame'.trans hretired) (hsame.trans hfailed)
  obtain ⟨hlinks, hstacks, hports⟩ := (s.hubRecord x).bootUnits.hubLinks_does s
  have hrun := exec_hubStage x hm hs
  generalize (s.hubRecord x).bootUnits.hubLinks s = w at hlinks hstacks hports hrun
  generalize (s.hubRecord x).bootUnits = v at hunits hregions hlinks hstacks
  have hfoot : w.erase hubStaging = (Work.start (s.hubReset x)).erase hubStaging :=
    (hlinks hubStaging rfl rfl).trans ((hunits hubStaging rfl).trans (s.hubRecord_erase (by decide) x))
  have hunits' := hunits (fun p => decide (p = .regions)) rfl
  have hlinks' := hlinks (fun p => decide (p = .hbm ∨ p = .ports)) rfl rfl
  have hresult := Work.result_mix hfoot
  rw [Work.result_hubReset] at hresult
  refine ⟨_, run_is hrun rfl (Work.keeps_stop hfoot rfl) rfl, hresult,
    ?_, fun f hf => ?_, fun p hp => ?_, fun r hr => ?_, fun k hk => ?_, fun k hk => ?_⟩
  · exact (Work.keeps_boot hlinks' rfl).trans ((Work.keeps_boot hunits' rfl).trans (s.hubRecord_boot x))
  · refine (congrArg (fun t : Table Fn => t.get {} f) ?_).trans (freshFns_get x.legacy hf)
    exact (Work.keeps_fns hlinks' rfl).trans ((Work.keeps_fns hunits' rfl).trans (s.hubRecord_fns x))
  · exact hports p hp
  · refine (congrArg (fun t : Table Region => t.get {} r) (Work.keeps_regions hlinks' rfl)).trans ((hregions r).trans ?_)
    rw [if_pos hr, s.hubRecord_region, fused_congr hsame]
  · refine (hstacks k hk).trans (congrArg (fun g : Stack => { g with remap := remapsOf s k }) ?_)
    refine congrArg (fun t : Table Stack => t.get {} k) ?_
    exact (Work.keeps_hbm hunits' rfl).trans (Work.keeps_hbm hrec rfl)
  · refine Eq.trans (b := ({ s.sched with threads := ringThreads } : Sched).threads.get {} k)
      (congrArg (fun c : Sched => c.threads.get {} k) ?_) (ringThreads_get hk)
    exact (Work.keeps_sched hlinks' rfl).trans ((Work.keeps_sched hunits' rfl).trans (Work.keeps_sched hrec rfl))

/-- The hub stage of a package one of whose tiles failed at manufacture. -/
theorem hubStage_oneFailed {s : State} {r i : Nat} (x : Straps) (hm : s.mgt.running = true) (hs : s.boot.stage = 1)
    (h : OneFailed s r i) : ∃ t, exec (.hubStageStart x) s = .next t ∧
      ∀ q, q < 12 → t.region q = if q = r then (s.region q).spared i else (s.region q).fused s q := by
  obtain ⟨hsame, hsame'⟩ := s.hubRecord_flash x
  have hone : OneFailed (s.hubRecord x).s r i := ⟨h.region, h.index, hsame.trans h.failed, hsame'.trans h.retired⟩
  have hregions := Work.bootUnits_one hone
  have hstop : (s.hubRecord x).bootUnits.stop = none :=
    (Work.same_stop (v := s.hubRecord x) (by simp [Work.bootUnits])).trans
      (Work.keeps_stop (s.hubRecord_erase (ft := bootRecording) (by decide) x) rfl)
  obtain ⟨hlinks, _, _⟩ := (s.hubRecord x).bootUnits.hubLinks_does s
  have hrun := exec_hubStage x hm hs
  generalize (s.hubRecord x).bootUnits.hubLinks s = w at hlinks hrun
  generalize (s.hubRecord x).bootUnits = v at hregions hlinks hstop
  have hlinks' := hlinks (fun p => decide (p = .hbm ∨ p = .ports)) rfl rfl
  refine ⟨_, run_is hrun rfl ((Work.keeps_stop hlinks' rfl).trans hstop) rfl, fun q hq => ?_⟩
  refine (congrArg (fun t : Table Region => t.get {} q) (Work.keeps_regions hlinks' rfl)).trans ((hregions q).trans ?_)
  rw [if_pos hq, s.hubRecord_region, fused_congr hsame]

/-! ### The boot as a whole -/

/-- A release of AON_RESET_N does nothing while it is high, or without VIO18. -/
theorem aonRelease_idle {s : State} (x : Straps) (ok0 ok1 : Bool) (h : s.pins.aonN = true ∨ s.pins.vio18 = false) :
    exec (.aonRelease x ok0 ok1) s = .next s :=
  exec_idles (exec_aonRelease x ok0 ok1 s) (if_pos (h.imp_right fun hv => by simp [hv]))

/-- The hub stage waits for the management firmware and comes once. -/
theorem hubStage_idle {s : State} (x : Straps) (h : s.mgt.running = false ∨ s.boot.stage ≠ 1) :
    exec (.hubStageStart x) s = .next s :=
  exec_idles (exec_hubStageStart x s) (if_pos (h.imp_left fun hm => by simp [hm]))

/-- Settles O59: the release of AON_RESET_N, the hub stage, the hub's firmware, HBM training, PERST_N with PCIe training, and a
function's own reset, each by its own lemma above. -/
theorem bootGoesInStages : Obligations.BootGoesInStages := by
  unfold Obligations.BootGoesInStages
  refine ⟨fun s x ok0 ok1 => ⟨aonRelease_idle x ok0 ok1, fun ha hv p q b hp hq hb => ⟨fun hm => ?_, fun hm h0 => ?_, fun hm h0 => ?_⟩⟩,
    fun s x => ⟨hubStage_idle x, hubStage_healthy x, fun r i hm hs hr hi hf hret => ?_⟩,
    fun s ok0 ok1 => ⟨fun hs => ?_, fun hs h0 h1 => ?_, fun hs hok => hubFirmwareVerified_starts hs hok⟩,
    fun s k r => ⟨fun h => ?_, hbmTraining_ends r⟩,
    fun s => ⟨fun h => ?_, perstN_resets, fun h => ?_, perstRelease_trains, pcieLinkUp_links s⟩,
    fun s f => ⟨fun h => ?_, flr_resets⟩⟩
  · subst hp hb
    exact aonRelease_other ok0 ok1 ha hv hm
  · subst hp hq hb h0
    exact aonRelease_first ok1 ha hv hm
  · subst hp hb h0
    exact aonRelease_second ok1 ha hv hm
  · have h : OneFailed s r i := ⟨hr, hi, hf, hret⟩
    obtain ⟨t, hrun, hregions⟩ := hubStage_oneFailed x hm hs h
    refine ⟨t, hrun, fun q hq hqr => (hregions q hq).trans (if_neg hqr), (hregions r hr).trans ((if_pos rfl).trans ?_)⟩
    rw [Region.spared, mapBut_set i hi, ← h.factorySpare, ← h.fusedMap]
    rfl
  · exact exec_idles (exec_hubFirmwareVerified ok0 ok1 s) (if_pos hs)
  · subst h0 h1
    exact hubFirmwareVerified_fails hs
  · exact exec_idles (exec_hbmTrainingDone k r s) (if_pos h)
  · exact exec_idles (exec_perstN s) (if_pos (by simp [h]))
  · exact exec_idles (exec_perstRelease s) (if_pos h)
  · exact exec_idles (exec_flr f s) (if_pos (h.imp_right fun hh => by simp [hh]))

end Sys2Proof.Machine
end
section
/-! The way of a packet through the mesh, and the frames of a link (R365, R372). -/
namespace Sys2Proof.Machine

/-! ### The way from router to router (R365) -/

/-- Links between two routers. -/
def meshDist (a b : Nat × Nat) : Nat := (a.1 - b.1) + (b.1 - a.1) + ((a.2 - b.2) + (b.2 - a.2))

/-- Each step brings the packet one link nearer. -/
theorem meshNext_dist {a b : Nat × Nat} (h : a ≠ b) : meshDist (meshNext a b) b + 1 = meshDist a b := by
  have hne : a.1 ≠ b.1 ∨ a.2 ≠ b.2 := by
    by_contra hno
    exact h (Prod.ext (by omega) (by omega))
  unfold meshNext meshDist
  split
  · dsimp only
    omega
  split
  · dsimp only
    omega
  split
  · dsimp only
    omega
  · dsimp only
    omega

theorem meshWay_self (n : Nat) (a : Nat × Nat) : meshWay n a a = [] := by
  cases n with
  | zero => rfl
  | succ n => exact if_pos rfl

theorem meshWay_succ {n : Nat} {a b : Nat × Nat} (h : a ≠ b) :
    meshWay (n + 1) a b = (a, meshNext a b) :: meshWay n (meshNext a b) b := if_neg h

/-- The way begins at its start. -/
theorem meshWay_head {n : Nat} {a b : Nat × Nat} (hn : meshDist a b ≤ n) :
    (meshWay n a b).head?.map (·.1) = if a = b then none else some a := by
  by_cases h : a = b
  · subst h
    rw [meshWay_self, if_pos rfl]
    rfl
  · have hstep := meshNext_dist h
    obtain ⟨m, rfl⟩ : ∃ m, n = m + 1 := ⟨n - 1, by omega⟩
    rw [meshWay_succ h, if_neg h]
    rfl

/-- The way ends at its goal. -/
theorem meshWay_last {n : Nat} {a b : Nat × Nat} (hn : meshDist a b ≤ n) :
    (meshWay n a b).getLast?.map (·.2) = if a = b then none else some b := by
  induction n generalizing a with
  | zero =>
    have h : a = b := by
      by_contra h
      have := meshNext_dist h
      omega
    rw [h, if_pos rfl]
    rfl
  | succ n ih =>
    by_cases h : a = b
    · subst h
      rw [meshWay_self, if_pos rfl]
      rfl
    · have hstep := meshNext_dist h
      have hrest := ih (a := meshNext a b) (by omega)
      rw [meshWay_succ h, if_neg h, List.getLast?_cons]
      by_cases hlast : meshNext a b = b
      · rw [hlast, meshWay_self]
        rfl
      · rw [if_neg hlast] at hrest
        obtain ⟨l, hl, hb⟩ := Option.map_eq_some_iff.1 hrest
        rw [hl]
        exact congrArg some hb

/-- Each link begins where the one before it ended. -/
theorem meshWay_joined {n : Nat} {a b : Nat × Nat} (hn : meshDist a b ≤ n) (i : Nat) (hi : i + 1 < (meshWay n a b).length) :
    ((meshWay n a b).map (·.2))[i]? = ((meshWay n a b).map (·.1))[i + 1]? := by
  induction n generalizing a i with
  | zero => exact absurd hi (Nat.not_lt_zero _)
  | succ n ih =>
    by_cases h : a = b
    · subst h
      rw [meshWay_self] at hi
      exact absurd hi (Nat.not_lt_zero _)
    · have hstep := meshNext_dist h
      have hhead := meshWay_head (n := n) (a := meshNext a b) (b := b) (by omega)
      rw [meshWay_succ h] at hi ⊢
      simp only [List.length_cons] at hi
      simp only [List.map_cons, List.getElem?_cons_succ]
      cases i with
      | zero =>
        have hgo : meshNext a b ≠ b := fun he => by
          rw [he, meshWay_self] at hi
          simp at hi
        rw [if_neg hgo, List.head?_eq_getElem?] at hhead
        rw [List.getElem?_map, hhead]
        rfl
      | succ i => exact ih (by omega) i (by omega)

/-- A link along mx in the row of the start, while mx differs, or along my in the column of the goal. -/
theorem meshWay_link {n : Nat} {a b : Nat × Nat} (hn : meshDist a b ≤ n) {l : (Nat × Nat) × (Nat × Nat)} (hl : l ∈ meshWay n a b) :
    (a.1 ≠ b.1 ∧ l.1.2 = a.2 ∧ l.2.2 = a.2 ∧ (l.2.1 = l.1.1 + 1 ∨ l.1.1 = l.2.1 + 1)) ∨
      (l.1.1 = b.1 ∧ l.2.1 = b.1 ∧ (l.2.2 = l.1.2 + 1 ∨ l.1.2 = l.2.2 + 1)) := by
  induction n generalizing a with
  | zero => cases hl
  | succ n ih =>
    by_cases h : a = b
    · subst h
      rw [meshWay_self] at hl
      cases hl
    · have hstep := meshNext_dist h
      rw [meshWay_succ h] at hl
      have hnext : (a.1 ≠ b.1 ∧ (meshNext a b).2 = a.2 ∧ ((meshNext a b).1 = a.1 + 1 ∨ a.1 = (meshNext a b).1 + 1)) ∨
          (a.1 = b.1 ∧ (meshNext a b).1 = b.1 ∧ ((meshNext a b).2 = a.2 + 1 ∨ a.2 = (meshNext a b).2 + 1)) := by
        have hy : a.1 = b.1 → a.2 ≠ b.2 := fun hx hy => h (Prod.ext hx hy)
        unfold meshNext
        grind
      rcases List.mem_cons.1 hl with rfl | hl
      · rcases hnext with ⟨hx, hrow, hmove⟩ | ⟨hx, hcol, hmove⟩
        · exact .inl ⟨hx, rfl, hrow, hmove⟩
        · exact .inr ⟨hx, hcol, hmove⟩
      · rcases ih (a := meshNext a b) (by omega) hl with ⟨hx', hrow', hrow'', hmove'⟩ | hcol'
        · rcases hnext with ⟨hx, hrow, _⟩ | ⟨_, hcol, _⟩
          · exact .inl ⟨hx, hrow'.trans hrow, hrow''.trans hrow, hmove'⟩
          · exact absurd hcol hx'
        · exact .inr hcol'

/-- Twenty-two links reach every router. -/
theorem meshDist_le {a b : Nat × Nat} (ha : a.1 < 12 ∧ a.2 < 12) (hb : b.1 < 12 ∧ b.2 < 12) : meshDist a b ≤ 22 := by
  unfold meshDist
  omega

/-! ### Frames (R372) -/

theorem rsParity_length (bs : List Byte) : (rsParity bs).length = 12 := by
  have hfold (r : List Nat) (h : r.length = 12) : (bs.foldl (fun (r : List Nat) b =>
      let f := b.toNat ^^^ r.getD 0 0
      (List.range 12).map (fun i => r.getD (i + 1) 0 ^^^ gfMul f (rsGenerator.getD i 0))) r).length = 12 := by
    induction bs generalizing r with
    | nil => exact h
    | cons b bs ih => exact ih _ (by simp)
  unfold rsParity
  rw [List.length_map]
  exact hfold _ (by simp)

/-- A frame is its flit and 24 bytes of parity. -/
theorem frameOf_flit {flit : List Byte} (h : flit.length = 256) : (frameOf flit).length = 280 ∧ (frameOf flit).take 256 = flit := by
  have hpairs (ps : List (Byte × Byte)) : (ps.flatMap (fun p => [p.1, p.2])).length = 2 * ps.length := by
    induction ps with
    | nil => rfl
    | cons p ps ih =>
      rw [List.flatMap_cons, List.length_append, ih, List.length_cons]
      simp only [List.length_cons, List.length_nil]
      omega
  unfold frameOf
  refine ⟨?_, List.take_left' h⟩
  rw [List.length_append, h, hpairs, List.length_zip, rsParity_length, rsParity_length]
  rfl

end Sys2Proof.Machine
end
section
/-! Packets for this package's memory (R26, R52, R53, R66, R332, R348, R357, R358, R361, R395). -/
namespace Sys2Proof.Machine

/-! ### One window of addresses -/

/-- The bytes of a range in one window are bytes of their own. -/
theorem normAddr_oneWindow {a n : Nat} (h : inOneWindow a n = true) {i j : Nat} (hi : i < n) (hj : j < n)
    (he : normAddr (a + i) = normAddr (a + j)) : i = j := by
  have hw : a + n ≤ stackWindowEnd ∨ (tileWindowBase ≤ a ∧ a + n ≤ tileWindowEnd) ∨ (spreadBase ≤ a ∧ a + n ≤ spreadEnd) := by
    simpa [inOneWindow, or_assoc] using h
  have hside : (spreadBase ≤ a + i ∧ a + i < spreadEnd) ↔ (spreadBase ≤ a + j ∧ a + j < spreadEnd) := by
    simp only [stackWindowEnd, tileWindowBase, tileWindowEnd, spreadBase, spreadEnd] at *
    omega
  have := normAddr_inj hside he
  omega

/-- The bytes of a state whose work stored one stretch in one window, and nothing else. -/
theorem result_stretch {w : Work} {s : State} (hs : s.memOk = true) {a : Nat} {p : Bool} {vs : List Byte}
    (hw : inOneWindow a vs.length = true) (hm : w.mw = ((Work.start s).wrBytesP a p vs).mw) :
    (∀ i, i < vs.length → (w.result s).byteAt (a + i) = vs.getD i 0) ∧
      ∀ x, (∀ i, i < vs.length → normAddr (a + i) ≠ normAddr x) → (w.result s).byteAt x = s.byteAt x := by
  obtain ⟨hin, hout⟩ := Work.result_stored hs hm
  exact ⟨fun i hi => hin i hi fun x y hx hy => normAddr_oneWindow hw hx hy, hout⟩

/-! ### What a packet does -/

/-- A packet that has passed the checks acts by its type. -/
def Work.act (k : Nat) (p : Parcel) (u : List Upset) (w : Work) : Work :=
  match k with
  | 1 => (w.landWrite p.pkt).respond p 4 4 (leBytes 4 1) false
  | 2 => w.takeRead p u
  | _ => w.landWrite p.pkt

/-- The packets that the ingress check sees, with the type under which each is held and its upsets. -/
inductive Checked (p : Parcel) : Instr → Nat → List Upset → Prop where
  | write : Checked p (.pktWrite p) 0 []
  | writeAcked : Checked p (.pktWriteAcked p) 1 []
  | read (u : List Upset) : Checked p (.pktRead p u) 2 u
  | collective : Checked p (.pktCollective p) 6 []

/-- The packet asks for an answer. -/
def wantsAnswer (k : Nat) : Bool := decide (k = 1 ∨ k = 2)

theorem Checked.runs {p : Parcel} {i : Instr} {k : Nat} {u : List Upset} (h : Checked p i k u) (s : State) :
    exec i s = run s (·.ingress p (wantsAnswer k) (fun _ w => w.atRegion k p u (Work.act k p u))) := by
  cases h with
  | write => exact exec_pktWrite p s
  | writeAcked => exact exec_pktWriteAcked p s
  | read u => exact exec_pktRead p u s
  | collective => exact exec_pktCollective p s

theorem Checked.target {p : Parcel} {i : Instr} {k : Nat} {u : List Upset} (h : Checked p i k u) :
    targetRegion k p.pkt = targetRegion 0 p.pkt := by cases h <;> rfl

/-- The packet fails the ingress check (R348). -/
def Denied (s : State) (p : Parcel) : Prop :=
  jobCtx s p.tag.job = none ∨
    (∃ c, jobCtx s p.tag.job = some c ∧ allocated (s.ctx c) p.pkt.addr (Nat.max 1 p.pkt.len) = false)

theorem Work.ingress_denied {s : State} {p : Parcel} (h : Denied s p) (answer : Bool) (f : Nat → Work → Work) :
    (Work.start s).ingress p answer f = (Work.start s).deny p answer := by
  unfold Work.ingress
  rcases h with h | ⟨c, hc, ha⟩
  · rw [Work.start_s, h]
  · rw [Work.start_s, hc]
    exact if_pos (by simp [ha])

theorem Work.ingress_stale {s : State} {p : Parcel} {c : Nat} (hc : jobCtx s p.tag.job = some c)
    (ha : allocated (s.ctx c) p.pkt.addr (Nat.max 1 p.pkt.len) = true) (ht : current s c p.tag = false) (answer : Bool)
    (f : Nat → Work → Work) : (Work.start s).ingress p answer f = Work.start s := by
  unfold Work.ingress
  rw [Work.start_s, hc]
  exact (if_neg (by simp [ha])).trans (if_pos (by simp [ht]))

theorem Work.ingress_current {s : State} {p : Parcel} {c : Nat} (hc : jobCtx s p.tag.job = some c)
    (ha : allocated (s.ctx c) p.pkt.addr (Nat.max 1 p.pkt.len) = true) (ht : current s c p.tag = true) (answer : Bool)
    (f : Nat → Work → Work) : (Work.start s).ingress p answer f = f c (Work.start s) := by
  unfold Work.ingress
  rw [Work.start_s, hc]
  exact (if_neg (by simp [ha])).trans (if_neg (by simp [ht]))

/-- The answer to a packet, from the package that the state says this one is. -/
def State.answer (s : State) (p : Parcel) (type len : Nat) (data : List Byte) (poison : Bool) : Sent :=
  .parcel { vc := 1, tag := p.tag, pkt := { mkPacket s type len p.pkt.src 0 p.pkt.tag data with poison := poison } }

theorem Work.respond_eq {w : Work} {s : State} (hform : w.s.form = s.form) (hpins : w.s.pins = s.pins) (p : Parcel) (type len : Nat)
    (data : List Byte) (poison : Bool) : w.respond p type len data poison = w.send (s.answer p type len data poison) := by
  unfold Work.respond State.answer mkPacket State.here
  rw [hform, hpins]

/-! ### A packet that is refused -/

/-- A refused packet is recorded, and answered with an error where it asks for an answer (R348). -/
theorem checked_denied {s : State} {p : Parcel} (h : Denied s p) {i : Instr} {k : Nat} {u : List Upset} (hi : Checked p i k u) :
    ∃ t, exec i s = .next t ∧ t = { s with pad := t.pad, flash := t.flash, fns := t.fns, sent := t.sent } ∧
      t.pad = (s.recorded 0x4005 4 0xC00 (rankNum p.pkt.src) p.tag.job (p.pkt.addr / 4096) none).pad ∧
      (wantsAnswer k = true →
        .parcel { vc := 1, tag := p.tag, pkt := mkPacket s 8 0 p.pkt.src 0 p.pkt.tag [] } ∈ t.sent) := by
  have hfoot : ((Work.start s).deny p (wantsAnswer k)).erase recording = (Work.start s).erase recording := by simp [recording]
  refine ⟨_, run_is (hi.runs s) (Work.ingress_denied h _ _) (Work.keeps_stop hfoot rfl) rfl, Work.result_mix hfoot, ?_, fun hk => ?_⟩
  · refine Eq.trans (b := ((Work.start s).record 0x4005 4 srcPackage (rankNum p.pkt.src) p.tag.job (p.pkt.addr / 4096)).s.pad) ?_ rfl
    show ((Work.start s).deny p (wantsAnswer k)).s.pad = _
    unfold Work.deny
    dsimp only
    split
    · rfl
    · rfl
  · have hrec : ((Work.start s).record 0x4005 4 srcPackage (rankNum p.pkt.src) p.tag.job (p.pkt.addr / 4096)).erase recording =
        (Work.start s).erase recording := by simp [recording]
    show _ ∈ ((Work.start s).deny p (wantsAnswer k)).s.sent
    unfold Work.deny
    dsimp only
    rw [if_pos hk, Work.respond_eq (Work.keeps_form hrec rfl) (Work.keeps_pins hrec rfl)]
    exact List.mem_append_right _ (.head _)

/-! ### A packet that waits for its region -/

/-- A wake of a region that keeps packets out ends in run, and leaves what waits there. -/
theorem Work.wakeRegion_waits {w : Work} {r : Nat} (h : (w.s.region r).keepsOut = true) (demand : Bool) (ramp : Nat) :
    (∀ j, j ≠ r → (w.wakeRegion r demand ramp).s.region j = w.s.region j) ∧
      ((w.wakeRegion r demand ramp).s.region r).ingress = (w.s.region r).ingress ∧
      (((w.wakeRegion r demand ramp).s.region r).waking = some .run ∨ ((w.wakeRegion r demand ramp).s.region r).wakeNext = some .run) := by
  have hset (g : Region) (hg : g.ingress = (w.s.region r).ingress) (hwake : g.waking = some .run ∨ g.wakeNext = some .run) :
      (∀ j, j ≠ r → (w.setRegion r g).s.region j = w.s.region j) ∧
        ((w.setRegion r g).s.region r).ingress = (w.s.region r).ingress ∧
        (((w.setRegion r g).s.region r).waking = some .run ∨ ((w.setRegion r g).s.region r).wakeNext = some .run) := by
    rw [Work.setRegion_same]
    exact ⟨fun j hj => Work.setRegion_other w r g hj, hg, hwake⟩
  have hcount : ((w.s.region r).countWake demand).ingress = (w.s.region r).ingress := by
    unfold Region.countWake
    split <;> rfl
  unfold Work.wakeRegion
  dsimp only
  split
  · next hwake => exact ⟨fun _ _ => rfl, rfl, hwake⟩
  split
  · exact hset _ hcount (.inr rfl)
  split
  · next hstill hrun =>
    have hstill' := not_or.1 hstill
    simp [Region.keepsOut, hrun, hstill'] at h
  · exact hset _ hcount (.inl rfl)

/-- A packet for a region that does not run waits there, and the region wakes (R66). -/
theorem Work.atRegion_waits {s : State} {p : Parcel} {k r : Nat} (hr : targetRegion k p.pkt = some r)
    (hout : (s.region r).keepsOut = true) (u : List Upset) (f : Work → Work) :
    ((Work.start s).atRegion k p u f).erase (fun q => decide (q = .regions)) = (Work.start s).erase (fun q => decide (q = .regions)) ∧
      (∀ j, j ≠ r → ((Work.start s).atRegion k p u f).s.region j = s.region j) ∧
      (((Work.start s).atRegion k p u f).s.region r).ingress = (s.region r).ingress ++ [({ p with pkt := { p.pkt with type := k } }, u)] ∧
      ((((Work.start s).atRegion k p u f).s.region r).waking = some .run ∨
        (((Work.start s).atRegion k p u f).s.region r).wakeNext = some .run) := by
  have hheld : (Work.start s).atRegion k p u f = ((Work.start s).modRegion r (fun g =>
      { g with ingress := g.ingress ++ [({ p with pkt := { p.pkt with type := k } }, u)] })).wakeRegion r true 20 := by
    unfold Work.atRegion
    rw [hr]
    exact if_neg (by simp [hout])
  have hmod : ((Work.start s).modRegion r (fun g =>
      { g with ingress := g.ingress ++ [({ p with pkt := { p.pkt with type := k } }, u)] })).s.region r =
      { s.region r with ingress := (s.region r).ingress ++ [({ p with pkt := { p.pkt with type := k } }, u)] } :=
    Work.setRegion_same ..
  obtain ⟨hother, hin, hwake⟩ := Work.wakeRegion_waits (r := r) (w := (Work.start s).modRegion r (fun g =>
      { g with ingress := g.ingress ++ [({ p with pkt := { p.pkt with type := k } }, u)] })) (by rw [hmod]; exact hout) true 20
  rw [hmod] at hin
  rw [hheld]
  exact ⟨by simp, fun j hj => (hother j hj).trans (Work.setRegion_other _ r _ hj), hin, hwake⟩

theorem checked_waits {s : State} {p : Parcel} {c r : Nat} (hc : jobCtx s p.tag.job = some c)
    (ha : allocated (s.ctx c) p.pkt.addr (Nat.max 1 p.pkt.len) = true) (ht : current s c p.tag = true)
    (hr : targetRegion 0 p.pkt = some r) (hout : (s.region r).keepsOut = true) {i : Instr} {k : Nat} {u : List Upset}
    (hi : Checked p i k u) : ∃ t, exec i s = .next t ∧ t = { s with regions := t.regions } ∧
      (∀ j, j ≠ r → t.region j = s.region j) ∧
      (t.region r).ingress = (s.region r).ingress ++ [({ p with pkt := { p.pkt with type := k } }, u)] ∧
      ((t.region r).waking = some .run ∨ (t.region r).wakeNext = some .run) := by
  obtain ⟨hfoot, hother, hin, hwake⟩ := Work.atRegion_waits (hi.target.trans hr) hout u (Work.act k p u)
  exact ⟨_, run_is (hi.runs s) (Work.ingress_current hc ha ht _ _) (Work.keeps_stop hfoot rfl) rfl, Work.result_mix hfoot, hother,
    hin, hwake⟩

/-! ### A packet that acts -/

theorem checked_acts {s : State} {p : Parcel} {c : Nat} (hc : jobCtx s p.tag.job = some c)
    (ha : allocated (s.ctx c) p.pkt.addr (Nat.max 1 p.pkt.len) = true) (ht : current s c p.tag = true)
    (hin : ∀ r, targetRegion 0 p.pkt = some r → (s.region r).keepsOut = false) {i : Instr} {k : Nat} {u : List Upset}
    (hi : Checked p i k u) : exec i s = run s (Work.act k p u) := by
  have hwork : (Work.start s).ingress p (wantsAnswer k) (fun _ w => w.atRegion k p u (Work.act k p u)) =
      Work.act k p u (Work.start s) := by
    rw [Work.ingress_current hc ha ht]
    unfold Work.atRegion
    rw [hi.target]
    split
    · rfl
    · next r hr => exact if_pos (by simp [hin r hr])
  rw [hi.runs s]
  exact congrArg (fun w => commit s w) hwork

/-- What the store of a packet's bytes changes. -/
def landing (p : Part) : Bool := decide (p ∈ [Part.hbm, .pkgBytes, .phys, .arrivals, .mw])

theorem Work.landWrite_arrivals (w : Work) (p : Packet) :
    (w.landWrite p).s.arrivals = w.s.arrivals ++ (if p.sig then [(p.sigTile, p.sigTally)] else []) ∧
      (w.landWrite p).mw = (w.wrBytesP p.addr p.poison p.payload).mw := by
  have hcount (v : Work) (n : Nat) : (v.count p.addr n true).erase (fun q => decide (q = .hbm ∨ q = .pkgBytes ∨ q = .phys)) =
      v.erase (fun q => decide (q = .hbm ∨ q = .pkgBytes ∨ q = .phys)) := by simp
  have harr : (w.storeBytes p.addr p.payload p.poison).s.arrivals = w.s.arrivals :=
    Work.same_arrivals (by simp)
  have hmw : (w.storeBytes p.addr p.payload p.poison).mw = (w.wrBytesP p.addr p.poison p.payload).mw := Work.keeps_mw (hcount _ _) rfl
  unfold Work.landWrite
  dsimp only
  split
  · exact ⟨congrArg (· ++ _) harr, hmw⟩
  · exact ⟨harr.trans (List.append_nil _).symm, hmw⟩

/-- A write's packet stores its bytes and no other, and its arrival is due (R52, R358, R395); a WRITE_ACKED is acknowledged (R361). -/
theorem checked_writes {s : State} {p : Parcel} {c : Nat} (hc : jobCtx s p.tag.job = some c)
    (ha : allocated (s.ctx c) p.pkt.addr (Nat.max 1 p.pkt.len) = true) (ht : current s c p.tag = true)
    (hin : ∀ r, targetRegion 0 p.pkt = some r → (s.region r).keepsOut = false)
    (hw : inOneWindow p.pkt.addr p.pkt.payload.length = true) (hs : s.memOk = true) : ∃ t,
      exec (.pktWrite p) s = .next t ∧ exec (.pktCollective p) s = .next t ∧
      exec (.pktWriteAcked p) s = .next (t.sending
        (.parcel { vc := 1, tag := p.tag, pkt := mkPacket s 4 4 p.pkt.src 0 p.pkt.tag (leBytes 4 1) })) ∧
      t = { s with mem := t.mem, poison := t.poison, hbm := t.hbm, pkgBytes := t.pkgBytes, phys := t.phys,
                   arrivals := s.arrivals ++ (if p.pkt.sig then [(p.pkt.sigTile, p.pkt.sigTally)] else []) } ∧
      (∀ i, i < p.pkt.payload.length → t.byteAt (p.pkt.addr + i) = p.pkt.payload.getD i 0) ∧
      ∀ a, (∀ i, i < p.pkt.payload.length → normAddr (p.pkt.addr + i) ≠ normAddr a) → t.byteAt a = s.byteAt a := by
  have hfoot : ((Work.start s).landWrite p.pkt).erase landing = (Work.start s).erase landing := by simp [landing]
  have hstop := Work.keeps_stop hfoot rfl
  obtain ⟨harr, hmw⟩ := (Work.start s).landWrite_arrivals p.pkt
  have hack : Work.act 1 p [] (Work.start s) = ((Work.start s).landWrite p.pkt).send (s.answer p 4 4 (leBytes 4 1) false) :=
    Work.respond_eq (Work.keeps_form hfoot rfl) (Work.keeps_pins hfoot rfl) p 4 4 (leBytes 4 1) false
  have hmix := Work.result_mix hfoot
  have hrun := checked_acts hc ha ht hin (.writeAcked)
  generalize hv : (Work.start s).landWrite p.pkt = v at *
  refine ⟨v.result s, run_is (checked_acts hc ha ht hin .write) hv hstop rfl, run_is (checked_acts hc ha ht hin .collective) hv hstop rfl,
    run_is hrun hack hstop rfl, ?_, result_stretch hs hw hmw⟩
  exact hmix.trans (congrArg (fun l => { s with
      mem := (v.result s).mem, poison := (v.result s).poison, hbm := v.s.hbm, pkgBytes := v.s.pkgBytes, phys := v.s.phys
      arrivals := l }) harr)

/-- A READ is answered with its data, poisoned where a byte is (R332, R357). -/
theorem checked_reads {s : State} {p : Parcel} {c : Nat} (hc : jobCtx s p.tag.job = some c)
    (ha : allocated (s.ctx c) p.pkt.addr (Nat.max 1 p.pkt.len) = true) (ht : current s c p.tag = true)
    (hin : ∀ r, targetRegion 0 p.pkt = some r → (s.region r).keepsOut = false) : ∃ t, exec (.pktRead p []) s = .next t ∧
      t = { s with
        hbm := t.hbm
        pkgBytes := t.pkgBytes
        phys := t.phys
        sent := s.sent ++ [s.answer p 3 p.pkt.len ((List.range p.pkt.len).map (fun i => s.byteAt (p.pkt.addr + i)))
          ((Work.start s).rdPoison p.pkt.addr p.pkt.len)] } := by
  have hfoot : ((Work.start s).count p.pkt.addr p.pkt.len false).erase (fun q => decide (q = .hbm ∨ q = .pkgBytes ∨ q = .phys ∨ q = .sent)) =
      (Work.start s).erase (fun q => decide (q = .hbm ∨ q = .pkgBytes ∨ q = .phys ∨ q = .sent)) := by simp
  have hsent : ((Work.start s).count p.pkt.addr p.pkt.len false).s.sent = s.sent := Work.same_sent (v := Work.start s) (by simp)
  have hbad : (Work.start s).badRange [] p.pkt.addr p.pkt.len = (Work.start s).rdPoison p.pkt.addr p.pkt.len := Bool.or_false _
  have hread : Work.act 2 p [] (Work.start s) = ((Work.start s).count p.pkt.addr p.pkt.len false).send
      (s.answer p 3 p.pkt.len ((List.range p.pkt.len).map (fun i => s.byteAt (p.pkt.addr + i)))
        ((Work.start s).rdPoison p.pkt.addr p.pkt.len)) := by
    rw [← hbad]
    exact Work.respond_eq (Work.keeps_form hfoot rfl) (Work.keeps_pins hfoot rfl) p 3 p.pkt.len _ _
  have hrun := checked_acts hc ha ht hin (.read [])
  generalize (Work.start s).count p.pkt.addr p.pkt.len false = v at hfoot hsent hread
  generalize s.answer p 3 p.pkt.len ((List.range p.pkt.len).map (fun i => s.byteAt (p.pkt.addr + i)))
    ((Work.start s).rdPoison p.pkt.addr p.pkt.len) = m at hread ⊢
  refine ⟨_, run_is hrun hread (Work.keeps_stop hfoot rfl) rfl, ?_⟩
  exact (Work.result_mix ((Work.send_erase rfl v _).trans hfoot)).trans (congrArg (fun l => { s with
    hbm := v.s.hbm, pkgBytes := v.s.pkgBytes, phys := v.s.phys, sent := l ++ [m] }) hsent)

/-! ### ARRIVAL (R52, R53, R357) -/

/-- An ARRIVAL of no context, of another attempt or of a tile that the context does not hold is dropped. -/
theorem pktArrival_idle {s : State} {p : Parcel} (h : jobCtx s p.tag.job = none ∨ ∃ c, jobCtx s p.tag.job = some c ∧
    (current s c p.tag = false ∨ (ctxTiles (s.ctx c)).contains p.pkt.sigTile = false)) : exec (.pktArrival p) s = .next s := by
  refine exec_idles (exec_pktArrival p s) (?_ : (Work.start s).takeArrival p = _)
  unfold Work.takeArrival
  rcases h with h | ⟨c, hc, hno⟩
  · rw [Work.start_s, h]
  · rw [Work.start_s, hc]
    refine if_pos ?_
    rcases hno with hno | hno
    · exact .inl (by simp [hno])
    · exact .inr (by rw [hno]; decide)

theorem pktArrival_runs {s : State} {p : Parcel} {c : Nat} (hc : jobCtx s p.tag.job = some c) (ht : current s c p.tag = true)
    (htile : (ctxTiles (s.ctx c)).contains p.pkt.sigTile = true) : (Work.start s).packet 5 p [] =
      (Work.start s).atRegion 5 p [] (fun w => { w with s.arrivals := w.s.arrivals ++ [(p.pkt.sigTile, p.pkt.sigTally)] }) := by
  show (Work.start s).takeArrival p = _
  unfold Work.takeArrival
  rw [Work.start_s, hc]
  refine if_neg ?_
  rw [not_or, ht, htile]
  decide

/-- An ARRIVAL for a region that runs is on its way. -/
theorem pktArrival_due {s : State} {p : Parcel} {c : Nat} (hc : jobCtx s p.tag.job = some c) (ht : current s c p.tag = true)
    (htile : (ctxTiles (s.ctx c)).contains p.pkt.sigTile = true) (hin : (s.region (p.pkt.sigTile / 11)).keepsOut = false) :
    exec (.pktArrival p) s = .next { s with arrivals := s.arrivals ++ [(p.pkt.sigTile, p.pkt.sigTally)] } := by
  refine run_is (exec_pktArrival p s) (pktArrival_runs hc ht htile) ?_ ?_
  all_goals
    unfold Work.atRegion targetRegion
    rw [if_pos rfl]
    dsimp only
    rw [if_pos (by simp [hin])]
    rfl

/-- An ARRIVAL for a region that does not run wakes it and waits (R66). -/
theorem pktArrival_waits {s : State} {p : Parcel} {c : Nat} (hc : jobCtx s p.tag.job = some c) (ht : current s c p.tag = true)
    (htile : (ctxTiles (s.ctx c)).contains p.pkt.sigTile = true) {r : Nat} (hr : r = p.pkt.sigTile / 11)
    (hout : (s.region r).keepsOut = true) : ∃ t, exec (.pktArrival p) s = .next t ∧ t = { s with regions := t.regions } ∧
      (t.region r).ingress = (s.region r).ingress ++ [({ p with pkt := { p.pkt with type := 5 } }, [])] ∧
      ((t.region r).waking = some .run ∨ (t.region r).wakeNext = some .run) := by
  obtain ⟨hfoot, _, hin, hwake⟩ := Work.atRegion_waits (k := 5) (p := p) ((if_pos rfl).trans (congrArg some hr.symm)) hout []
    (fun w => { w with s.arrivals := w.s.arrivals ++ [(p.pkt.sigTile, p.pkt.sigTally)] })
  exact ⟨_, run_is (exec_pktArrival p s) (pktArrival_runs hc ht htile) (Work.keeps_stop hfoot rfl) rfl, Work.result_mix hfoot, hin, hwake⟩

end Sys2Proof.Machine
end
section
/-! A hop of a packet through this package (R24, R26, R364–R371). -/
namespace Sys2Proof.Machine

/-! ### Messages in a row -/

/-- The work once messages have gone out in a row. -/
def Work.sends (w : Work) (ms : List Sent) : Work := { w with s.sent := w.s.sent ++ ms }

theorem Work.sends_append (w : Work) (ms ns : List Sent) : (w.sends ms).sends ns = w.sends (ms ++ ns) := by
  unfold Work.sends
  simp only [List.append_assoc]

theorem Work.sends_nil (w : Work) : w.sends [] = w := by
  unfold Work.sends
  rw [List.append_nil]

theorem Work.sends_erase {ft : Part → Bool} (h : ft .sent = true) (w : Work) (ms : List Sent) : (w.sends ms).erase ft = w.erase ft :=
  Work.erase_set_sent h ..

theorem Work.each_send {α : Type} (w : Work) (xs : List α) (m : α → Sent) : w.each xs (fun w x => w.send (m x)) = w.sends (xs.map m) := by
  induction xs generalizing w with
  | nil => exact w.sends_nil.symm
  | cons x xs ih =>
    rw [Work.each_cons, ih]
    exact Work.sends_append w [m x] (xs.map m)

/-- The links of a packet's way across the package (R26, R365–R367). -/
theorem Work.across_path (w : Work) (from_ : Stand) (to_ : Option (Nat × Nat)) (p : Parcel) :
    w.across from_ to_ p = w.sends (pathOf from_ to_ p) := by
  have htravel (v : Work) (a b : Nat × Nat) : v.travel a b p = v.sends (linksOf a b p) := Work.each_send v (meshWay 22 a b) _
  unfold Work.across pathOf
  cases from_.inHub <;> cases to_
  · exact (congrArg (fun v : Work => v.send _) (htravel w _ _)).trans (Work.sends_append ..)
  · exact htravel w _ _
  · exact w.sends_nil.symm
  · exact (htravel _ _ _).trans (Work.sends_append ..)

/-! ### Where a packet goes -/

/-- The way of a packet depends on the package's place and its ports alone (R369). -/
theorem wayOf_congr {s t : State} (hform : t.form = s.form) (hpins : t.pins = s.pins) (hports : t.ports = s.ports) (p : Parcel) :
    wayOf t p = wayOf s p := by
  have hhere : t.here = s.here := by simp only [State.here, hform, hpins]
  have hport : t.port = s.port := by
    funext i
    simp only [State.port, hports]
  have hbehind : behind t = behind s := by
    funext i
    simp only [behind, hhere]
  have hreach : reachable t = reachable s := by
    funext i
    simp only [reachable, hport, hbehind, hform]
  unfold wayOf
  rw [hhere, hport, hbehind, hreach, hform]

/-- The links of a packet that ends at a place of this package. -/
def Place.path (d : Place) (from_ : Stand) (p : Parcel) : List Sent :=
  match d with
  | .tile x y => pathOf from_ (some (x, y)) p
  | .hub => pathOf from_ none p
  | .stack => []

theorem Work.arrive_deliver {w : Work} {from_ : Stand} {p p' : Parcel} (h : wayOf w.s p = .deliver p') :
    w.arrive from_ p = w.sends ((placeOf w.s p'.pkt).path from_ p' ++ [.toTile p']) := by
  unfold Work.arrive
  rw [h]
  dsimp only
  cases placeOf w.s p'.pkt with
  | tile x y => exact (congrArg (fun v : Work => v.send (.toTile p')) (Work.across_path ..)).trans (Work.sends_append ..)
  | hub => exact (congrArg (fun v : Work => v.send (.toTile p')) (Work.across_path ..)).trans (Work.sends_append ..)
  | stack => rfl

theorem Work.arrive_out {w : Work} {from_ : Stand} {p p' : Parcel} {o : Nat} (h : wayOf w.s p = .out o p') :
    w.arrive from_ p = (w.sends (pathOf from_ (exitRouter o p'.pkt) p')).sendPort o p' := by
  unfold Work.arrive
  rw [h]
  exact congrArg (fun v : Work => v.sendPort o p') (Work.across_path ..)

/-- A packet that is not dropped changes messages and ports alone. -/
theorem Work.arrive_erase_of_kept {w : Work} {from_ : Stand} {p : Parcel} (h : wayOf w.s p ≠ .drop) {ft : Part → Bool}
    (hs : ft .sent = true) (hp : ft .ports = true) : (w.arrive from_ p).erase ft = w.erase ft := by
  cases hw : wayOf w.s p with
  | deliver p' =>
    rw [Work.arrive_deliver hw]
    exact Work.sends_erase hs ..
  | out o p' =>
    rw [Work.arrive_out hw, Work.sendPort_erase ⟨hs, hp⟩]
    exact Work.sends_erase hs ..
  | drop => exact absurd hw h

/-- A hop at which no router finds an error. -/
theorem routeHop_runs (s : State) (p : Parcel) (from_ : Stand) : exec (.routeHop p from_ none) s = run s (·.arrive from_ p) := by
  have hp : ({ p with pkt := { p.pkt with poison := p.pkt.poison || (none : Option Nat).isSome } } : Parcel) = p := by
    rw [show (none : Option Nat).isSome = false from rfl, Bool.or_false]
  rw [exec_routeHop, execRouteHop, hp]
  rfl

/-! ### Delivery -/

theorem routeHop_delivers {s : State} {p p' : Parcel} {from_ : Stand} (h : wayOf s p = .deliver p') {d : Place} (hd : placeOf s p'.pkt = d) :
    exec (.routeHop p from_ none) s = .next { s with sent := s.sent ++ d.path from_ p' ++ [.toTile p'] } := by
  subst hd
  rw [List.append_assoc]
  exact run_is (routeHop_runs s p from_) (Work.arrive_deliver (w := Work.start s) h) rfl rfl

/-! ### Out through a port -/

/-- A port whose queue is one parcel with a credit sends that parcel next (R362). -/
theorem Port.next_single {q : Port} {p : Parcel} (hq : q.txq = [p]) (hc : 0 < q.credit p.vc) (hv : p.vc < 5) : q.next = some p := by
  have hready (v : Nat) : q.ready v = decide (v = p.vc) := by
    unfold Port.ready
    rw [hq, List.any_cons, List.any_nil, Bool.or_false]
    by_cases h : v = p.vc
    · subst h
      simp [hc]
    · simp [h, Ne.symm h]
  have hpick : (List.range 3).findSome? q.pick = some p.vc := by
    have h3 : List.range 3 = [0, 1, 2] := rfl
    have hcase : p.vc = 0 ∨ p.vc = 1 ∨ p.vc = 2 ∨ p.vc = 3 ∨ p.vc = 4 := by omega
    rw [h3]
    rcases hcase with h | h | h | h | h <;> simp [Port.pick, vcPair, hready, h, List.filter]
  have hnext : q.nextVc = some p.vc := by
    unfold Port.nextVc
    split
    · next v hfound =>
      have hsome := List.find?_some hfound
      rw [hready, Bool.and_eq_true, decide_eq_true_eq] at hsome
      rw [hsome.1]
    · exact hpick
  unfold Port.next
  rw [hnext, Option.bind_some, hq]
  simp

/-- A port that may not send keeps the parcel in its queue (R374). -/
theorem routeHop_queues {s : State} {p p' : Parcel} {from_ : Stand} {o : Nat} (h : wayOf s p = .out o p')
    (hm : (s.port o).maySend = false) : exec (.routeHop p from_ none) s = .next { s with
      ports := s.ports.put {} o { s.port o with txq := (s.port o).txq ++ [p'] }
      sent := s.sent ++ pathOf from_ (exitRouter o p'.pkt) p' } := by
  refine run_is (w := ((Work.start s).sends (pathOf from_ (exitRouter o p'.pkt) p')).setPort o
    { s.port o with txq := (s.port o).txq ++ [p'] }) (routeHop_runs s p from_) ?_ rfl rfl
  rw [Work.arrive_out (w := Work.start s) h]
  generalize pathOf from_ (exitRouter o p'.pkt) p' = ms
  have hstay (w : Work) (n : Nat) (hw : (w.s.port o).maySend = false) : w.pump o n = w := by
    cases n with
    | zero => rfl
    | succ n =>
      unfold Work.pump
      dsimp only
      rw [hw]
      rfl
  refine hstay _ _ ?_
  exact (congrArg Port.maySend (Work.setPort_same _ o _)).trans hm

/-- A port that may send and has nothing else to send sends the parcel at once (R374, R376). -/
theorem routeHop_sends {s : State} {p p' : Parcel} {from_ : Stand} {o : Nat} (h : wayOf s p = .out o p')
    (hm : (s.port o).maySend = true) (hq : (s.port o).txq = []) (hc : 0 < (s.port o).credit p'.vc) (hv : p'.vc < 5) :
    ∃ t, exec (.routeHop p from_ none) s = .next t ∧
      t.sent = s.sent ++ pathOf from_ (exitRouter o p'.pkt) p' ++
        [.flit o (s.port o).seqNext (s.port o).ack (frameOf (flitBytes p' (s.port o).seqNext (s.port o).ack))] ∧
      (t.port o).txq = [] ∧ (t.port o).seqNext = wrapAdd 12 (s.port o).seqNext 1 ∧
      (t.port o).kept = (s.port o).kept ++ [{ seq := (s.port o).seqNext, parcel := p' }] := by
  generalize hg : ({ s.port o with txq := (s.port o).txq ++ [p'] } : Port) = g
  generalize hms : pathOf from_ (exitRouter o p'.pkt) p' = ms
  have hgq : g.txq = [p'] := by rw [← hg, hq]; rfl
  have hmay : g.maySend = true := by rw [← hg]; exact hm
  have hnext : g.next = some p' := Port.next_single hgq (by rw [← hg]; exact hc) hv
  have hone (w : Work) (hw : w.s.port o = g) : w.pumpPort o = (w.setPort o
      { g with
        txq := [], lastVc := (g.served p'.vc).lastVc, waited := (g.served p'.vc).waited
        kept := g.kept ++ [{ seq := g.seqNext, parcel := p' }], seqNext := wrapAdd 12 g.seqNext 1
        sent := g.sent.put 0 p'.vc (wrapAdd 16 (g.sent.get 0 p'.vc) 1), txBytes := wrapAdd 64 g.txBytes 250, unacked := false }).send
          (.flit o g.seqNext g.ack (frameOf (flitBytes p' g.seqNext g.ack))) := by
    unfold Work.pumpPort
    rw [hw, hgq]
    unfold Work.pump
    dsimp only
    rw [hw, hmay, if_pos rfl, hnext]
    dsimp only
    rw [hgq, List.erase_cons_head]
    rfl
  have hwork : (Work.start s).arrive from_ p = (((Work.start s).sends ms).setPort o g).pumpPort o := by
    rw [Work.arrive_out (w := Work.start s) h, hms, ← hg]
    rfl
  have hrun := hwork.trans (hone _ (Work.setPort_same _ o g))
  refine ⟨_, run_is (routeHop_runs s p from_) hrun rfl rfl, ?_, ?_, ?_, ?_⟩
  · rw [← hg]
    rfl
  · exact congrArg Port.txq (Work.setPort_same ..)
  · exact (congrArg Port.seqNext (Work.setPort_same ..)).trans (by rw [← hg])
  · exact (congrArg Port.kept (Work.setPort_same ..)).trans (by rw [← hg])

/-! ### No way -/

/-- A packet that is dropped is counted and recorded (R371). -/
theorem routeHop_drops {s : State} {p : Parcel} {from_ : Stand} (h : wayOf s p = .drop) :
    ∃ t, exec (.routeHop p from_ none) s = .next t ∧
      t = { s with routeDrops := s.routeDrops + 1, pad := t.pad, flash := t.flash, fns := t.fns, sent := t.sent } ∧
      t.pad = (s.recorded 0x4004 3 0xC00 (rankNum p.pkt.dst) p.pkt.type 0 none).pad := by
  have hpad : ((Work.start { s with routeDrops := s.routeDrops + 1 }).record 0x4004 3 srcPackage (rankNum p.pkt.dst) p.pkt.type 0).s.pad =
      (s.recorded 0x4004 3 0xC00 (rankNum p.pkt.dst) p.pkt.type 0 none).pad :=
    Work.recordCtx_pad_congr (w := Work.start { s with routeDrops := s.routeDrops + 1 }) (v := Work.start s) rfl rfl 0x4004 3 0xC00
      (rankNum p.pkt.dst) p.pkt.type 0 none
  have hrec : ((Work.start { s with routeDrops := s.routeDrops + 1 }).record 0x4004 3 srcPackage (rankNum p.pkt.dst) p.pkt.type 0).erase
      recording = (Work.start { s with routeDrops := s.routeDrops + 1 }).erase recording := by simp [recording]
  have hwork : (Work.start s).arrive from_ p =
      (let w := (Work.start { s with routeDrops := s.routeDrops + 1 }).record 0x4004 3 srcPackage (rankNum p.pkt.dst) p.pkt.type 0
      if p.tag.untagged ∧ (p.pkt.type = 1 ∨ p.pkt.type = 2) then
        w.send (.parcel { vc := 1, tag := p.tag, pkt := mkPacket w.s 8 0 p.pkt.src 0 p.pkt.tag [] })
      else w) := by
    unfold Work.arrive
    rw [Work.start_s, h]
    rfl
  dsimp only at hwork
  generalize (Work.start { s with routeDrops := s.routeDrops + 1 }).record 0x4004 3 srcPackage (rankNum p.pkt.dst) p.pkt.type 0 = v at *
  generalize hu : (Work.start s).arrive from_ p = u at hwork
  have huv : u.erase recording = (Work.start { s with routeDrops := s.routeDrops + 1 }).erase recording ∧ u.s.pad = v.s.pad := by
    rw [hwork]
    split
    · exact ⟨(Work.send_erase rfl v _).trans hrec, rfl⟩
    · exact ⟨hrec, rfl⟩
  obtain ⟨hfoot, hupad⟩ := huv
  exact ⟨_, run_is (routeHop_runs s p from_) hu (Work.keeps_stop hfoot rfl) rfl,
    Work.result_mix (s := { s with routeDrops := s.routeDrops + 1 }) hfoot, hupad.trans hpad⟩

/-! ### An error at a router -/

/-- A live attempt is poisoned. -/
theorem Work.poison_live {w : Work} {c : Nat} (h : (w.s.ctx c).turn.live = true) (cause : Nat) :
    ((w.poison c cause).s.ctx c).turn.poison = true := by
  unfold Work.poison
  dsimp only
  rw [if_neg (by simp [h])]
  split
  · next hp =>
    split
    · exact hp
    · exact hp
  · exact congrArg (fun x : Ctx => x.turn.poison) (Work.setCtx_same w c _)

/-- What an error at a router changes (R364). -/
def meshing (p : Part) : Bool := decide (p ∈ [Part.sent, .pad, .flash, .fns, .ctxs])

/-- A router's error is recorded, and the context's attempt is poisoned (R364). -/
theorem Work.meshError_does (s : State) (p : Parcel) (k : Nat) :
    ((Work.start s).meshError p (some k)).erase meshing = (Work.start s).erase meshing ∧
      ((Work.start s).meshError p (some k)).s.pad =
        (s.recorded 0x100C 4 (k / 4) (k % 4) p.tag.turn p.tag.attempt (jobCtx s p.tag.job)).pad ∧
      ∀ c, jobCtx s p.tag.job = some c → (s.ctx c).turn.live = true →
        (((Work.start s).meshError p (some k)).s.ctx c).turn.poison = true := by
  have hrec : ((Work.start s).recordCtx 0x100C 4 (srcTile (k / 4)) (k % 4) p.tag.turn p.tag.attempt (jobCtx s p.tag.job)).s.ctxs = s.ctxs :=
    Work.same_ctxs (v := Work.start s) (by simp)
  have hpad (v : Work) (c : Nat) : (v.poison c 7).s.pad = v.s.pad := Work.same_pad (by simp)
  refine ⟨by simp [meshing], ?_, fun c hc hlive => ?_⟩
  · unfold Work.meshError
    dsimp only
    rw [Work.start_s]
    split
    · exact hpad _ _
    · rfl
  · unfold Work.meshError
    dsimp only
    rw [Work.start_s, hc]
    rw [hc] at hrec
    refine Work.poison_live ?_ 7
    rw [State.ctx, hrec]
    exact hlive

/-- A hop at which a router finds an uncorrectable error: the packet goes on, marked (R364). -/
theorem routeHop_marks {s : State} {p p' : Parcel} {from_ : Stand} {k : Nat} (hp : p' = { p with pkt := { p.pkt with poison := true } })
    (hway : wayOf s p' ≠ .drop) : ∃ t, exec (.routeHop p from_ (some k)) s = .next t ∧
      (∀ p'', wayOf s p' = .deliver p'' → .toTile p'' ∈ t.sent) ∧
      t.pad = (s.recorded 0x100C 4 (k / 4) (k % 4) p.tag.turn p.tag.attempt (jobCtx s p.tag.job)).pad ∧
      ∀ c, jobCtx s p.tag.job = some c → (s.ctx c).turn.live = true → (t.ctx c).turn.poison = true := by
  obtain ⟨hfoot, hpad, hpoison⟩ := Work.meshError_does s p k
  have hrun : exec (.routeHop p from_ (some k)) s = run s (fun w => (w.meshError p (some k)).arrive from_ p') := by
    have hor : (p.pkt.poison || (some k).isSome) = true := Bool.or_true _
    rw [exec_routeHop, execRouteHop, hp, hor]
  have hsame := wayOf_congr (Work.keeps_form hfoot rfl) (Work.keeps_pins hfoot rfl) (Work.keeps_ports hfoot rfl) p'
  have hwork : (fun w : Work => (w.meshError p (some k)).arrive from_ p') (Work.start s) =
      ((Work.start s).meshError p (some k)).arrive from_ p' := rfl
  generalize (Work.start s).meshError p (some k) = v at hfoot hpad hpoison hsame hwork
  have hkeep : (v.arrive from_ p').erase (fun q => decide (q = .sent ∨ q = .ports)) = v.erase (fun q => decide (q = .sent ∨ q = .ports)) :=
    Work.arrive_erase_of_kept (by rw [hsame]; exact hway) rfl rfl
  refine ⟨_, run_is hrun hwork ((Work.keeps_stop hkeep rfl).trans (Work.keeps_stop hfoot rfl)) rfl, fun p'' hdel => ?_,
    (Work.keeps_pad hkeep rfl).trans hpad, fun c hc hlive => ?_⟩
  · show _ ∈ (v.arrive from_ p').s.sent
    rw [Work.arrive_deliver (hsame.trans hdel)]
    exact List.mem_append_right _ (List.mem_append_right _ (.head _))
  · refine Eq.trans ?_ (hpoison c hc hlive)
    exact congrArg (fun t : Table Ctx => (t.get {} c).turn.poison) (Work.keeps_ctxs hkeep rfl)

end Sys2Proof.Machine
end
section
/-! Responses find their requests (R332, R348, R357, R358, R371). -/
namespace Sys2Proof.Machine

/-! ### A reply outside its own packet's start -/

theorem replyBytes_length_le (tw1 : Bool) (status reason op ring index tag p0 p1 time : Nat) :
    (replyBytes tw1 status reason op ring index tag p0 p1 time).length ≤ 32 := by
  unfold replyBytes
  split <;> simp [leBytes]

/-- What a reply changes. -/
def replying (p : Part) : Bool := decide (p ∈ [Part.sent, .fns, .rings, .actives, .pcieTx, .hw])

theorem Work.reply_replying (w : Work) (a : Active) (status reason p0 p1 : Nat) :
    (w.reply a status reason p0 p1).erase replying = w.erase replying := by simp [replying]

/-- A reply that can be posted is, whatever the command's work did besides (R449, R452, R453). -/
theorem Work.reply_posted {w : Work} {s : State} {a : Active} (hC : CanPost s a) (hrings : w.s.rings = s.rings)
    (hact : w.s.actives = s.actives) (status reason p0 p1 : Nat) :
    Posted s ((w.reply a status reason p0 p1).result s) a status reason p0 p1 w.s.now := by
  have hring : w.s.ring a.ring = s.ring a.ring := by simp only [State.ring, hrings]
  have heq := w.reply_eq a status reason p0 p1 hC.ring (by rw [hring]; exact hC.none_waits) (by rw [hring]; exact hC.room)
    (by rw [hact]; exact hC.alone)
  have hctx : (w.reply a status reason p0 p1).s.ctxs = w.s.ctxs := Work.keeps_ctxs (w.reply_replying a status reason p0 p1) rfl
  have hdoes := ({ w with s.actives := w.s.actives.filter (fun b => !a.same b) } : Work).writeReply_does a.ring
    { bytes := replyBytes (w.s.ctx (a.ring / 4)).compat status reason a.op a.ring a.index a.tag p0 p1 w.s.now, irq := a.irq }
  rw [← heq] at hdoes
  obtain ⟨hring', hhw, _⟩ := hdoes
  have hold : ({ w with s.actives := w.s.actives.filter (fun b => !a.same b) } : Work).s.ring a.ring = s.ring a.ring := hring
  rw [hold] at hring' hhw
  have hgone := w.reply_actives a status reason p0 p1
  generalize w.reply a status reason p0 p1 = v at hctx hring' hhw hgone
  have hcompat : ((v.result s).ctx (a.ring / 4)).compat = (w.s.ctx (a.ring / 4)).compat :=
    congrArg (fun t : Table Ctx => (t.get {} (a.ring / 4)).compat) hctx
  have hsize : entrySize (v.result s) a.ring = entrySize w.s a.ring := by simp only [entrySize, hcompat]
  refine ⟨fun b hb => (hgone b hb).2, congrArg Ring.t hring', fun i hi => ?_⟩
  rw [hcompat] at hi ⊢
  rw [Work.result_hostByte, hhw, hsize]
  exact Work.wrHost_look _ s.host _ _ _ i hi (by
    have := replyBytes_length_le (w.s.ctx (a.ring / 4)).compat status reason a.op a.ring a.index a.tag p0 p1 w.s.now
    show (replyBytes _ _ _ _ _ _ _ _ _ _).length ≤ _
    omega)

/-! ### READ_RESP -/

/-- The state without the requests that `keep` does not name. -/
def State.keepRequests (s : State) (keep : Request → Bool) : State := { s with requests := s.requests.filter keep }

theorem pktReadResp_idle {s : State} {p : Parcel} (h : answered s p false = none) : exec (.pktReadResp p) s = .next s := by
  refine exec_idles (exec_pktReadResp p s) ?_
  dsimp only
  rw [h]

theorem pktReadResp_serves {s : State} {p : Parcel} {q : Request} (h : answered s p false = some q)
    (hno : p.pkt.poison = false ∨ ∃ n k, q.owner = .move n k) :
    exec (.pktReadResp p) s = run s (fun w => (w.deliver q p.pkt.payload p.pkt.poison).settle [q] q.owner) := by
  rw [exec_pktReadResp, execPktReadResp]
  refine congrArg (run s) (funext fun w => ?_)
  rw [h]
  dsimp only
  rcases hno with hno | ⟨n, k, hno⟩
  · rw [hno]
  · rw [hno]
    cases p.pkt.poison <;> rfl

/-- A list without one request. -/
theorem filter_contains_one (rs : List Request) (q : Request) : rs.filter (fun r => !([q].contains r)) = rs.filter (fun r => r ≠ q) :=
  List.filter_congr fun r _ => by
    by_cases h : r = q
    · subst h
      simp
    · simp [h]

/-- The data of a move's read into package memory are stored there (R357, R358). -/
theorem pktReadResp_stores {s : State} {p : Parcel} {q : Request} {n k a : Nat} (h : answered s p false = some q)
    (hq : q.owner = .move n k) (hd : q.dest = .mem a) (hs : s.memOk = true) (hw : inOneWindow a p.pkt.payload.length = true) :
    ∃ t, exec (.pktReadResp p) s = .next t ∧
      t = { s with mem := t.mem, poison := t.poison, hbm := t.hbm, pkgBytes := t.pkgBytes, phys := t.phys,
                   requests := s.requests.filter (fun r => r ≠ q) } ∧
      (∀ i, i < p.pkt.payload.length → t.byteAt (a + i) = p.pkt.payload.getD i 0) ∧
      ∀ x, (∀ i, i < p.pkt.payload.length → normAddr (a + i) ≠ normAddr x) → t.byteAt x = s.byteAt x := by
  have hfoot : ((Work.start s).storeBytes a p.pkt.payload p.pkt.poison).erase landing = (Work.start s).erase landing := by simp [landing]
  have hcount (v : Work) (n : Nat) : (v.count a n true).erase (fun p => decide (p = .hbm ∨ p = .pkgBytes ∨ p = .phys)) =
      v.erase (fun p => decide (p = .hbm ∨ p = .pkgBytes ∨ p = .phys)) := by simp
  have hmw : ((Work.start s).storeBytes a p.pkt.payload p.pkt.poison).mw = ((Work.start s).wrBytesP a p.pkt.poison p.pkt.payload).mw :=
    Work.keeps_mw (hcount _ _) rfl
  have hwork : ((Work.start s).deliver q p.pkt.payload p.pkt.poison).settle [q] q.owner =
      (let v := (Work.start s).storeBytes a p.pkt.payload p.pkt.poison
      { v with s.requests := v.s.requests.filter (fun r => !([q].contains r)) }) := by
    unfold Work.deliver Work.settle
    rw [hd, hq]
  dsimp only at hwork
  have harr : ((Work.start s).storeBytes a p.pkt.payload p.pkt.poison).s.arrivals = s.arrivals := Work.same_arrivals (v := Work.start s) (by simp)
  generalize (Work.start s).storeBytes a p.pkt.payload p.pkt.poison = v at hfoot hmw hwork harr
  have hreq : v.s.requests.filter (fun r => !([q].contains r)) = s.requests.filter (fun r => r ≠ q) := by
    rw [filter_contains_one, Work.keeps_requests hfoot rfl]
    rfl
  refine ⟨_, run_is (pktReadResp_serves h (.inr ⟨n, k, hq⟩)) hwork (Work.keeps_stop hfoot rfl) rfl, ?_, ?_⟩
  · have hmix := Work.result_mix (s := s) (w := v) hfoot
    have hset := congrArg (fun t : State => { t with arrivals := s.arrivals, requests := s.requests.filter (fun r => r ≠ q) }) hmix
    refine Eq.trans ?_ hset
    refine (congrArg (fun rs => { v.result s with requests := rs }) hreq).trans ?_
    exact congrArg (fun l => { v.result s with arrivals := l, requests := s.requests.filter (fun r => r ≠ q) }) harr
  · exact result_stretch (w := { v with s.requests := v.s.requests.filter (fun r => !([q].contains r)) }) hs hw hmw

/-- What both replies to a host command's READ have in common: the request is gone, the reply is posted, memory stays. -/
theorem reply_settled {s : State} {keep : Request → Bool} {a : Active} (hC : CanPost s a) {c : Instr} {f : Work → Work}
    {status reason p0 p1 : Nat} (hx : exec c s = run s f)
    (hf : f (Work.start s) = (Work.start (s.keepRequests keep)).reply a status reason p0 p1) :
    ∃ t, exec c s = .next t ∧ Posted s t a status reason p0 p1 s.now ∧ t.requests = s.requests.filter keep ∧ t.mem = s.mem := by
  have hfoot := (Work.start (s.keepRequests keep)).reply_replying a status reason p0 p1
  have hposted := Work.reply_posted (w := Work.start (s.keepRequests keep)) hC rfl rfl status reason p0 p1
  generalize (Work.start (s.keepRequests keep)).reply a status reason p0 p1 = v at hf hfoot hposted
  refine ⟨_, run_is hx hf (Work.keeps_stop hfoot rfl) rfl, hposted, Work.keeps_requests hfoot rfl, ?_⟩
  exact congrArg (fun ops : List MemOp => ops.foldr (fun op m => op.apply m) s.mem) (Work.keeps_mw hfoot rfl)

/-- Poisoned data end their host command (R332). -/
theorem pktReadResp_poisoned {s : State} {p : Parcel} {q : Request} {ring index : Nat} {a : Active} (h : answered s p false = some q)
    (hq : q.owner = .command ring index) (ha : s.actives.find? (fun a => a.ring = ring && a.index = index) = some a) (hC : CanPost s a)
    (hp : p.pkt.poison = true) : ∃ t, exec (.pktReadResp p) s = .next t ∧ Posted s t a 0x13 1 0 0 s.now ∧
      t.requests = s.requests.filter (fun r => r.owner ≠ q.owner) ∧ t.mem = s.mem := by
  refine reply_settled hC (exec_pktReadResp p s) ?_
  dsimp only
  rw [h]
  dsimp only
  rw [hp, hq]
  dsimp only
  rw [Work.start_s, ha]
  rfl

/-- A command none of whose requests is left replies (R357, R435). -/
theorem Work.settle_replies {w v : Work} {qs : List Request} {ring index bytes : Nat} {a : Active}
    (hv : ({ w with s.requests := w.s.requests.filter (fun q => !qs.contains q) } : Work) = v)
    (ha : w.s.actives.find? (fun a => a.ring = ring && a.index = index) = some a) (hwait : a.wait = .remote bytes)
    (howing : owing v.s a = false) : w.settle qs (.command ring index) = v.reply a stDone 0 0 bytes := by
  subst hv
  unfold Work.settle
  dsimp only
  rw [ha]
  dsimp only
  rw [hwait]
  refine if_neg ?_
  rw [Bool.not_eq_true]
  exact howing

/-- The last answer of a host command lets it reply (R357, R435). -/
theorem pktReadResp_last {s : State} {p : Parcel} {q : Request} {ring index : Nat} {a : Active} (h : answered s p false = some q)
    (hq : q.owner = .command ring index) (ha : s.actives.find? (fun a => a.ring = ring && a.index = index) = some a) (hC : CanPost s a)
    (hp : p.pkt.poison = false) (hd : q.dest = .none) (hone : ∀ r ∈ s.requests, r.owner = q.owner → r = q) {bytes : Nat}
    (hwait : a.wait = .remote bytes) : ∃ t, exec (.pktReadResp p) s = .next t ∧ Posted s t a 0x01 0 0 bytes s.now ∧
      t.requests = s.requests.filter (fun r => r ≠ q) ∧ t.mem = s.mem := by
  refine reply_settled hC (pktReadResp_serves h (.inl hp)) ?_
  have hbefore := List.find?_some ha
  have hat : a.ring = ring ∧ a.index = index := by simpa using hbefore
  have howing : owing (s.keepRequests (fun r => r ≠ q)) a = false := by
    refine List.any_eq_false.2 fun r hr => ?_
    obtain ⟨hmem, hne⟩ := List.mem_filter.1 hr
    have hne' : r ≠ q := by simpa using hne
    cases howner : r.owner with
    | command i j =>
      intro hij
      have hij' : i = a.ring ∧ j = a.index := by simpa using hij
      refine hne' (hone r hmem ?_)
      rw [howner, hq, hij'.1, hij'.2, hat.1, hat.2]
    | move n k => simp
    | core k => simp
    | mirror c => simp
  have hdeliver : (Work.start s).deliver q p.pkt.payload p.pkt.poison = Work.start s := by
    unfold Work.deliver
    rw [hd]
  have hkeep : ({ Work.start s with s.requests := (Work.start s).s.requests.filter (fun r => !([q].contains r)) } : Work) =
      Work.start (s.keepRequests (fun r => r ≠ q)) := by
    rw [filter_contains_one]
    rfl
  rw [hdeliver, hq]
  exact Work.settle_replies hkeep ha hwait howing

/-! ### WRITE_ACK -/

theorem pktWriteAck_idle {s : State} {p : Parcel} (h : answered s p true = none) : exec (.pktWriteAck p) s = .next s := by
  refine exec_idles (exec_pktWriteAck p s) ?_
  dsimp only
  rw [h]

/-- The end of a list of copies of one request, of which an answer counts at least one. -/
theorem filter_last_one {rs qs : List Request} {q : Request} (hall : ∀ r ∈ qs, r = q) (hq : q ∈ qs) {n : Nat} (hn : 1 ≤ n) :
    rs.filter (fun r => !((qs.drop (qs.length - n)).contains r)) = rs.filter (fun r => r ≠ q) := by
  have hlen : 0 < qs.length := List.length_pos_of_mem hq
  have hmem : q ∈ qs.drop (qs.length - n) := by
    have hlt : qs.length - n < qs.length := by omega
    have hhead : qs[qs.length - n] ∈ qs.drop (qs.length - n) := by
      rw [List.drop_eq_getElem_cons hlt]
      exact .head _
    rwa [hall _ (List.getElem_mem hlt)] at hhead
  refine List.filter_congr fun r _ => ?_
  by_cases h : r = q
  · subst h
    simp [hmem]
  · have hout : r ∉ qs.drop (qs.length - n) := fun hr => h (hall r (List.mem_of_mem_drop hr))
    simp [h, hout]

/-- The acknowledgement of a move's only write to a package ends its request (R357). -/
theorem pktWriteAck_ends {s : State} {p : Parcel} {q : Request} {n k : Nat} (h : answered s p true = some q) (hq : q.owner = .move n k)
    (hone : ∀ r ∈ s.requests, r.write = true → r.owner = q.owner → r.to_ = q.to_ → r = q) :
    exec (.pktWriteAck p) s = .next { s with requests := s.requests.filter (fun r => r ≠ q) } := by
  have hmem : q ∈ s.requests := List.mem_of_find?_eq_some h
  have hfound := List.find?_some h
  have hwrite : q.write = true := by
    simp only [Bool.and_eq_true, beq_iff_eq] at hfound
    exact hfound.1.2
  generalize hqs : (s.requests.filter (fun r => r.write && r.owner = q.owner && r.to_ = q.to_)).filter
    (fun r => decide (modSub 16 q.tag r.tag < 2 ^ 15)) = qs
  have hall : ∀ r ∈ qs, r = q := fun r hr => by
    rw [← hqs] at hr
    obtain ⟨hr', hmine⟩ := List.mem_filter.1 (List.mem_filter.1 hr).1
    simp only [Bool.and_eq_true, decide_eq_true_eq] at hmine
    exact hone r hr' hmine.1.1 hmine.1.2 hmine.2
  have hself : q ∈ qs := by
    rw [← hqs]
    refine List.mem_filter.2 ⟨List.mem_filter.2 ⟨hmem, by simp [hwrite]⟩, decide_eq_true ?_⟩
    unfold modSub
    omega
  refine run_is (exec_pktWriteAck p s) (w := Work.start (s.keepRequests (fun r => r ≠ q))) ?_ rfl rfl
  dsimp only
  rw [h]
  dsimp only
  rw [hqs]
  unfold Work.settle
  rw [hq]
  have hlast := filter_last_one (rs := s.requests) hall hself (n := Nat.max 1 (ofLe (p.pkt.payload.take 4))) (Nat.le_max_left ..)
  exact congrArg (fun rs => { Work.start s with s.requests := rs }) hlast

/-! ### ERROR_RESP -/

theorem pktErrorResp_idle {s : State} {p : Parcel}
    (h : s.requests.find? (fun q => q.tag = p.pkt.tag && q.untagged == p.tag.untagged) = none) :
    exec (.pktErrorResp p) s = .next s := by
  refine exec_idles (exec_pktErrorResp p s) ?_
  dsimp only
  rw [h]

/-- An error from another package than the one asked: the request is lost (R371). -/
theorem pktErrorResp_lost {s : State} {p : Parcel} {q : Request} {n k : Nat}
    (h : s.requests.find? (fun q => q.tag = p.pkt.tag && q.untagged == p.tag.untagged) = some q) (hq : q.owner = .move n k)
    (hsrc : p.pkt.src ≠ q.to_) : exec (.pktErrorResp p) s = .next { s with requests := s.requests.filter (fun r => r.tag ≠ q.tag) } := by
  refine run_is (exec_pktErrorResp p s) (w := Work.start (s.keepRequests (fun r => r.tag ≠ q.tag))) ?_ rfl rfl
  dsimp only
  rw [h]
  dsimp only
  rw [if_pos hsrc]
  unfold Work.requestLost
  rw [hq]
  rfl

/-- A fault stops an open context, with its status (R468). -/
theorem Work.faultStop_stops {w : Work} {c : Nat} (h : (w.s.ctx c).st = .opened ∨ (w.s.ctx c).st = .running) (status reason : Nat) :
    ((w.faultStop c status reason).s.ctx c).st = .stopped ∧ ((w.faultStop c status reason).s.ctx c).stopStatus = status := by
  have hstop : ((w.enterStopped c status reason).s.ctx c).st = .stopped ∧
      ((w.enterStopped c status reason).s.ctx c).stopStatus = status := by
    have hrest (v : Work) : ((v.cause c 4).signal (0x40 + c)).s.ctxs = v.s.ctxs := Work.same_ctxs (by simp)
    have hset (v : Work) (x : Ctx) : (((v.setCtx c x).cause c 4).signal (0x40 + c)).s.ctx c = x :=
      (congrArg (fun t : Table Ctx => t.get {} c) (hrest (v.setCtx c x))).trans (Work.setCtx_same v c x)
    exact ⟨congrArg Ctx.st (hset _ _), congrArg Ctx.stopStatus (hset _ _)⟩
  have hreply (v : Work) (a : Active) (x y z u : Nat) : (v.reply a x y z u).s.ctxs = v.s.ctxs :=
    Work.keeps_ctxs (v.reply_replying a x y z u) rfl
  have heach (v : Work) (bs : List Active) : (v.each bs (fun w b => w.refuse b rsState)).s.ctxs = v.s.ctxs :=
    Work.each_view (fun w => w.s.ctxs) (fun w b => hreply w b _ _ _ _) v
  have hview {v : Work} (hv : v.s.ctxs = (w.enterStopped c status reason).s.ctxs) :
      (v.s.ctx c).st = .stopped ∧ (v.s.ctx c).stopStatus = status := by
    rw [State.ctx, hv]
    exact hstop
  unfold Work.faultStop Work.stopTurn
  dsimp only
  rw [if_neg (by rcases h with h | h <;> simp [h])]
  split
  · exact hstop
  split
  · exact hview ((heach _ _).trans (hreply _ _ _ _ _ _))
  · exact hview (heach _ _)

/-- What a fault stop changes. -/
def stopping (p : Part) : Bool :=
  decide (p ∈ [Part.sent, .pad, .flash, .sched, .fns, .rings, .actives, .pcieTx, .ctxs, .tiles, .hw])

/-- An error from the package that was asked stops the context (R348). -/
theorem pktErrorResp_stops {s : State} {p : Parcel} {q : Request} {n k : Nat}
    (h : s.requests.find? (fun q => q.tag = p.pkt.tag && q.untagged == p.tag.untagged) = some q) (hq : q.owner = .move n k)
    (hsrc : p.pkt.src = q.to_) (hst : (s.ctx q.ctx).st = .opened ∨ (s.ctx q.ctx).st = .running) :
    ∃ t, exec (.pktErrorResp p) s = .next t ∧ (t.ctx q.ctx).st = .stopped ∧ (t.ctx q.ctx).stopStatus = 0x12 ∧
      t.requests = s.requests.filter (fun r => r.owner ≠ q.owner) ∧ t.mem = s.mem := by
  have hfoot : ((Work.start (s.keepRequests (fun r => r.owner ≠ q.owner))).faultStop q.ctx stTranslation 0).erase stopping =
      (Work.start (s.keepRequests (fun r => r.owner ≠ q.owner))).erase stopping := by simp [stopping]
  obtain ⟨hstopped, hstatus⟩ := Work.faultStop_stops (w := Work.start (s.keepRequests (fun r => r.owner ≠ q.owner))) hst stTranslation 0
  obtain ⟨v, hv⟩ : ∃ v, v = (Work.start (s.keepRequests (fun r => r.owner ≠ q.owner))).faultStop q.ctx stTranslation 0 := ⟨_, rfl⟩
  rw [← hv] at hfoot hstopped hstatus
  refine ⟨_, run_is (w := v) (exec_pktErrorResp p s) ?_ (Work.keeps_stop hfoot rfl) rfl, hstopped, hstatus,
    Work.keeps_requests hfoot rfl, ?_⟩
  · dsimp only
    rw [h]
    dsimp only
    rw [if_neg (not_not.2 hsrc), hv, hq]
    rfl
  · exact congrArg (fun ops : List MemOp => ops.foldr (fun op m => op.apply m) s.mem) (Work.keeps_mw hfoot rfl)

end Sys2Proof.Machine
end
section
/-! A frame from a port (R372–R376, R379). -/
namespace Sys2Proof.Machine

/-! ### Steps of one port -/

/-- From `w` to `v` one port became `g`, messages `ms` went out, and nothing else changed. -/
structure PortStep (w v : Work) (port : Nat) (g : Port) (ms : List Sent) : Prop where
  frame : v.erase (fun p => decide (p = .ports ∨ p = .sent)) = w.erase (fun p => decide (p = .ports ∨ p = .sent))
  sent : v.s.sent = w.s.sent ++ ms
  self : v.s.port port = g
  other : ∀ j, j ≠ port → v.s.port j = w.s.port j

theorem PortStep.trans {w v u : Work} {port : Nat} {g h : Port} {ms ns : List Sent} (a : PortStep w v port g ms)
    (b : PortStep v u port h ns) : PortStep w u port h (ms ++ ns) :=
  ⟨b.frame.trans a.frame, by rw [b.sent, a.sent, List.append_assoc], b.self, fun j hj => (b.other j hj).trans (a.other j hj)⟩

theorem PortStep.refl (w : Work) (port : Nat) : PortStep w w port (w.s.port port) [] :=
  ⟨rfl, (List.append_nil _).symm, rfl, fun _ _ => rfl⟩

theorem PortStep.set (w : Work) (port : Nat) (g : Port) : PortStep w (w.setPort port g) port g [] :=
  ⟨by simp, (List.append_nil _).symm, Work.setPort_same .., fun j hj => Work.setPort_other w port g hj⟩

theorem PortStep.send {w v : Work} {port : Nat} {g : Port} {ms : List Sent} (a : PortStep w v port g ms) (m : Sent) :
    PortStep w (v.send m) port g (ms ++ [m]) :=
  ⟨(Work.send_erase rfl v m).trans a.frame, (congrArg (· ++ [m]) a.sent).trans (List.append_assoc ..), a.self, a.other⟩

theorem PortStep.stop {s : State} {v : Work} {port : Nat} {g : Port} {ms : List Sent} (a : PortStep (Work.start s) v port g ms) :
    v.stop = none := Work.keeps_stop a.frame rfl

/-- The state that such a step leaves. -/
theorem PortStep.result {s : State} {v : Work} {port : Nat} {g : Port} {ms : List Sent} (a : PortStep (Work.start s) v port g ms) :
    v.result s = { s with ports := (v.result s).ports, sent := s.sent ++ ms } :=
  (Work.result_mix a.frame).trans (congrArg (fun l => { s with ports := v.s.ports, sent := l }) a.sent)

theorem PortStep.result_quiet {s : State} {v : Work} {port : Nat} {g : Port} (a : PortStep (Work.start s) v port g []) :
    v.result s = { s with ports := (v.result s).ports } :=
  a.result.trans (congrArg (fun l => { s with ports := (v.result s).ports, sent := l }) (List.append_nil _))

/-! ### NAK (R375) -/

/-- A port that has sent a NAK for its expected number. -/
def Port.naked (g : Port) : Port := { g with nakFor := some g.x, naks := g.naks + 1, told := g.released, unacked := false }

/-- The NAK of a port. -/
def Port.nakFlit (g : Port) (port : Nat) : Sent := .ctl port 1 g.ack ([0#8] ++ g.freedBytes)

/-- A NAK that is not the eighth goes out, and no more. -/
theorem Work.nak_sends {w : Work} {port : Nat} {g : Port} (hg : w.s.port port = g) (hfor : g.nakFor ≠ some g.x) (hn : g.naks < 7) :
    PortStep w (w.nak port) port g.naked [g.nakFlit port] := by
  have hreport : PortStep w ((w.modPort port (fun q => { q with nakFor := some q.x, naks := q.naks + 1 })).sendReport port 1) port
      g.naked [g.nakFlit port] := by
    unfold Work.sendReport Work.modPort
    rw [hg]
    dsimp only
    rw [Work.setPort_same]
    exact ((PortStep.set w port _).trans (PortStep.set _ port g.naked)).send _
  have hfew : ((((w.modPort port (fun q => { q with nakFor := some q.x, naks := q.naks + 1 })).sendReport port 1).s.port port).naks < 8) := by
    rw [hreport.self]
    exact Nat.succ_lt_succ hn
  unfold Work.nak
  dsimp only
  rw [hg, if_neg hfor]
  unfold Work.sendNak
  dsimp only
  rw [if_pos hfew]
  exact hreport

/-- One NAK goes out for each expected number. -/
theorem Work.nak_idle {w : Work} {port : Nat} {g : Port} (hg : w.s.port port = g) (hfor : g.nakFor = some g.x) : w.nak port = w := by
  unfold Work.nak
  dsimp only
  rw [hg, if_pos hfor]

/-! ### What the receiver keeps -/

/-- A port without what its sending changes. -/
def Port.rx (q : Port) : Port :=
  { q with txq := [], kept := [], lastVc := [], waited := [], seqNext := 0, sent := [], txBytes := 0, unacked := false, told := [] }

/-- The receivers of the ports. -/
def Work.rxs (w : Work) (j : Nat) : Port := (w.s.port j).rx

theorem Work.rxs_of_erase {ft : Part → Bool} {w v : Work} (h : w.erase ft = v.erase ft) (hf : ft .ports = false) : w.rxs = v.rxs := by
  funext j
  simp only [Work.rxs, State.port, Work.keeps_ports h hf]

theorem Work.setPort_rxs {w : Work} {port : Nat} {g : Port} (h : g.rx = (w.s.port port).rx) : (w.setPort port g).rxs = w.rxs := by
  funext j
  simp only [Work.rxs, Work.setPort_get]
  split
  · next hj => rw [h, hj]
  · rfl

/-- Sending changes no receiver. -/
theorem Work.pump_rxs (port n : Nat) : ∀ w : Work, (w.pump port n).rxs = w.rxs := by
  induction n with
  | zero => exact fun w => rfl
  | succ n ih =>
    intro w
    unfold Work.pump
    dsimp only
    split
    · rfl
    · rw [ih]
      exact Work.setPort_rxs rfl

theorem Work.sendReport_rxs (w : Work) (port code : Nat) : (w.sendReport port code).rxs = w.rxs := by
  unfold Work.sendReport
  exact Work.setPort_rxs rfl

theorem Work.sendPort_rxs (w : Work) (port : Nat) (p : Parcel) : (w.sendPort port p).rxs = w.rxs := by
  unfold Work.sendPort Work.pumpPort
  rw [Work.pump_rxs]
  exact Work.setPort_rxs rfl

theorem Work.acked_rxs (w : Work) (port ack : Nat) : (w.acked port ack).rxs = w.rxs := by
  unfold Work.acked Work.pumpPort
  rw [Work.pump_rxs]
  exact Work.setPort_rxs rfl

/-- A packet's way through the package changes no receiver. -/
theorem Work.arrive_rxs (w : Work) (from_ : Stand) (p : Parcel) : (w.arrive from_ p).rxs = w.rxs := by
  cases h : wayOf w.s p with
  | deliver p' =>
    rw [Work.arrive_deliver h]
    rfl
  | out o p' =>
    rw [Work.arrive_out h, Work.sendPort_rxs]
    rfl
  | drop =>
    have hrec (v : Work) (a b c d e f : Nat) : (v.record a b c d e f).rxs = v.rxs :=
      Work.rxs_of_erase (ft := recording) (by simp [recording]) rfl
    unfold Work.arrive
    rw [h]
    dsimp only
    split
    · exact hrec _ _ _ _ _ _ _
    · exact hrec _ _ _ _ _ _ _

/-- With nothing queued an ACK only frees kept flits (R376). -/
theorem Work.acked_quiet {w : Work} {port ack : Nat} {g : Port} (hg : w.s.port port = g) (hq : g.txq = []) :
    w.acked port ack = w.setPort port { g with kept := g.kept.filter (fun k => decide (1024 ≤ modSub 12 ack k.seq)) } := by
  unfold Work.acked Work.modPort Work.pumpPort
  dsimp only
  rw [hg, Work.setPort_same]
  dsimp only
  rw [hq]
  rfl

/-! ### Frames that fail (R373, R375) -/

/-- The check of a frame: its symbols are corrected, and its CRC is that of its bytes. -/
def goodFrame (f : List Byte) (line : LineErrors) : Bool :=
  line.corrects && decide (flitCrc (f.take 250) (ofLe (slice f 250 6) % 2 ^ 28) = bits (ofLe (slice f 250 6)) 47 28)

/-- What a frame that fails does. -/
def Work.badFrame (w : Work) (port : Nat) (held : Bool) : Work :=
  let w := w.modPort port (fun q => { q with crcErr := satAdd 32 q.crcErr 1 })
  if held then w else w.nak port

/-- A port that is not UP takes no frame. -/
theorem dataFrame_idle {s : State} {port : Nat} (h : (s.port port).st ≠ 2) (f : List Byte) (line : LineErrors) :
    exec (.dataFrame port f line) s = .next s := exec_idles (exec_dataFrame port f line s) (if_pos h)

theorem dataFrame_fails {s : State} {port : Nat} {f : List Byte} {line : LineErrors} (hst : (s.port port).st = 2)
    (hbad : goodFrame f line = false) : ∃ v g, (g = s.port port ∨ g = (s.port port).countErrors line) ∧
      PortStep (Work.start s) v port g [] ∧
      exec (.dataFrame port f line) s = run s (fun _ => v.badFrame port (s.port port).rxChange.isSome) := by
  by_cases hc : line.corrects = true
  · refine ⟨(Work.start s).setPort port ((s.port port).countErrors line), _, .inr rfl, PortStep.set .., ?_⟩
    have hcrc : flitCrc (f.take 250) (ofLe (slice f 250 6) % 2 ^ 28) ≠ bits (ofLe (slice f 250 6)) 47 28 := by
      intro he
      have hgood : goodFrame f line = true := (Bool.and_eq_true _ _).mpr ⟨hc, decide_eq_true he⟩
      exact Bool.false_ne_true (hbad.symm.trans hgood)
    rw [exec_dataFrame, execDataFrame]
    refine congrArg (fun w => commit s w) ?_
    dsimp only
    rw [if_neg (not_not.2 hst), if_neg (not_not.2 hc), if_pos hcrc]
    rfl
  · refine ⟨Work.start s, _, .inl rfl, PortStep.refl .., ?_⟩
    rw [exec_dataFrame, execDataFrame]
    refine congrArg (fun w => commit s w) ?_
    dsimp only
    rw [if_neg (not_not.2 hst), if_pos hc]
    rfl

/-- A port that has counted a frame that failed. -/
def Port.failed (g : Port) : Port := { g with crcErr := satAdd 32 g.crcErr 1 }

theorem PortStep.fails {w v : Work} {port : Nat} {g : Port} (a : PortStep w v port g []) :
    PortStep w (v.modPort port (fun q => { q with crcErr := satAdd 32 q.crcErr 1 })) port g.failed [] := by
  unfold Work.modPort
  rw [a.self]
  exact a.trans (PortStep.set v port _)

/-- A frame that fails while a width changes, or after a NAK for the same number, is only counted. -/
theorem dataFrame_counted {s : State} {port : Nat} {f : List Byte} {line : LineErrors} (hst : (s.port port).st = 2)
    (hbad : goodFrame f line = false) (hquiet : (s.port port).rxChange.isSome = true ∨ (s.port port).nakFor = some (s.port port).x) :
    ∃ t, exec (.dataFrame port f line) s = .next t ∧ t = { s with ports := t.ports } ∧
      (t.port port).crcErr = satAdd 32 (s.port port).crcErr 1 ∧ (t.port port).x = (s.port port).x ∧
      ∀ j, j ≠ port → t.port j = s.port j := by
  obtain ⟨v, g, hg, hstep, hrun⟩ := dataFrame_fails hst hbad
  have hfail := hstep.fails
  have hfields : g.failed.crcErr = satAdd 32 (s.port port).crcErr 1 ∧ g.failed.x = (s.port port).x ∧
      g.failed.nakFor = (s.port port).nakFor := by
    rcases hg with rfl | rfl
    · exact ⟨rfl, rfl, rfl⟩
    · exact ⟨rfl, rfl, rfl⟩
  obtain ⟨hcrc, hx, hfor⟩ := hfields
  have hwork : v.badFrame port (s.port port).rxChange.isSome = v.modPort port (fun q => { q with crcErr := satAdd 32 q.crcErr 1 }) := by
    unfold Work.badFrame
    dsimp only
    rcases hquiet with hq | hq
    · rw [if_pos hq]
    · split
      · rfl
      · exact Work.nak_idle hfail.self (by rw [hfor, hx]; exact hq)
  exact ⟨_, run_is hrun hwork hfail.stop rfl, hfail.result_quiet, (congrArg Port.crcErr hfail.self).trans hcrc,
    (congrArg Port.x hfail.self).trans hx, hfail.other⟩

/-- Another frame that fails is NAKed (R375). -/
theorem dataFrame_naks {s : State} {port : Nat} {f : List Byte} {line : LineErrors} (hst : (s.port port).st = 2)
    (hbad : goodFrame f line = false) (hrx : (s.port port).rxChange = none) (hfor : (s.port port).nakFor ≠ some (s.port port).x)
    (hn : (s.port port).naks < 7) : ∃ t, exec (.dataFrame port f line) s = .next t ∧
      t = { s with ports := t.ports, sent := s.sent ++ [.ctl port 1 (s.port port).ack ([0#8] ++ (s.port port).freedBytes)] } ∧
      (t.port port).crcErr = satAdd 32 (s.port port).crcErr 1 ∧ (t.port port).x = (s.port port).x ∧
      (t.port port).nakFor = some (s.port port).x ∧ (t.port port).naks = (s.port port).naks + 1 ∧
      ∀ j, j ≠ port → t.port j = s.port j := by
  obtain ⟨v, g, hg, hstep, hrun⟩ := dataFrame_fails hst hbad
  have hfail := hstep.fails
  have hfields : g.failed.naked.crcErr = satAdd 32 (s.port port).crcErr 1 ∧ g.failed.x = (s.port port).x ∧
      g.failed.nakFor = (s.port port).nakFor ∧ g.failed.naks = (s.port port).naks ∧
      g.failed.nakFlit port = .ctl port 1 (s.port port).ack ([0#8] ++ (s.port port).freedBytes) := by
    rcases hg with rfl | rfl
    · exact ⟨rfl, rfl, rfl, rfl, rfl⟩
    · exact ⟨rfl, rfl, rfl, rfl, rfl⟩
  obtain ⟨hcrc, hx, hfor', hn', hflit⟩ := hfields
  have hnak := hfail.trans (Work.nak_sends hfail.self (by rw [hfor', hx]; exact hfor) (by rw [hn']; exact hn))
  rw [List.nil_append, hflit] at hnak
  have hwork : v.badFrame port (s.port port).rxChange.isSome =
      (v.modPort port (fun q => { q with crcErr := satAdd 32 q.crcErr 1 })).nak port := if_neg (by rw [hrx]; decide)
  exact ⟨_, run_is hrun hwork hnak.stop rfl, hnak.result, (congrArg Port.crcErr hnak.self).trans hcrc,
    (congrArg Port.x hnak.self).trans hx, (congrArg Port.nakFor hnak.self).trans (congrArg some hx),
    (congrArg Port.naks hnak.self).trans (congrArg (· + 1) hn'), hnak.other⟩

/-! ### Frames that pass (R375, R376) -/

/-- What a frame that passes does, by its trailer. -/
def Work.goodFrame (w : Work) (port : Nat) (f : List Byte) (q : Port) : Work :=
  if bit (ofLe (slice f 250 6)) 27 then w
  else
    let w := w.acked port (bits (ofLe (slice f 250 6)) 23 12)
    if q.rxChange.isSome then w
    else if modSub 12 (bits (ofLe (slice f 250 6)) 11 0) q.x = 0 then
      (w.acceptFlit port (bits (ofLe (slice f 250 6)) 26 24)).each (flitParcels f) (fun w p => w.arrive (.port port) p)
    else if modSub 12 (bits (ofLe (slice f 250 6)) 11 0) q.x < 1024 then w.nak port
    else w

theorem dataFrame_passes {s : State} {port : Nat} {f : List Byte} {line : LineErrors} (hst : (s.port port).st = 2)
    (hgood : goodFrame f line = true) : exec (.dataFrame port f line) s = run s (fun _ =>
      ((Work.start s).setPort port ((s.port port).countErrors line)).goodFrame port f (s.port port)) := by
  obtain ⟨hc, hcrc⟩ := (Bool.and_eq_true _ _).mp hgood
  rw [exec_dataFrame, execDataFrame]
  refine congrArg (fun w => commit s w) ?_
  dsimp only
  rw [if_neg (not_not.2 hst), if_neg (not_not.2 hc), if_neg (not_not.2 (of_decide_eq_true hcrc))]
  rfl

/-- A CTL flit's frame is only counted. -/
theorem dataFrame_ctl {s : State} {port : Nat} {f : List Byte} {line : LineErrors} (hst : (s.port port).st = 2)
    (hgood : goodFrame f line = true) (hctl : bit (ofLe (slice f 250 6)) 27 = true) :
    ∃ t, exec (.dataFrame port f line) s = .next t ∧ t = { s with ports := t.ports } ∧
      t.port port = (s.port port).countErrors line ∧ ∀ j, j ≠ port → t.port j = s.port j := by
  have hstep := PortStep.set (Work.start s) port ((s.port port).countErrors line)
  exact ⟨_, run_is (dataFrame_passes hst hgood) (if_pos hctl) hstep.stop rfl, hstep.result_quiet, hstep.self, hstep.other⟩

/-- The port once the frame's ACK is in: its receiver has only counted the corrected symbols. -/
theorem acked_counted (s : State) (port ack : Nat) (line : LineErrors) :
    ((((Work.start s).setPort port ((s.port port).countErrors line)).acked port ack).s.port port).rx = ((s.port port).countErrors line).rx :=
  (congrFun (Work.acked_rxs _ port ack) port).trans (congrArg Port.rx (Work.setPort_same ..))

/-- A port that has accepted the data flit it expected. -/
def Port.accepted (q : Port) (vc : Nat) : Port :=
  { q with
    x := wrapAdd 12 q.x 1, nakFor := none, naks := 0, corrected := [], rxBytes := wrapAdd 64 q.rxBytes 250, unacked := true
    released := q.released.put 0 vc (wrapAdd 16 (q.released.get 0 vc) 1) }

theorem Work.acceptFlit_rx (w : Work) (port vc : Nat) : ((w.acceptFlit port vc).s.port port).rx = ((w.s.port port).accepted vc).rx := by
  have hset : (((w.setPort port ((w.s.port port).accepted vc)).s.port port)).rx = ((w.s.port port).accepted vc).rx :=
    congrArg Port.rx (Work.setPort_same ..)
  unfold Work.acceptFlit Work.when
  dsimp only
  split
  · exact (congrFun (Work.sendReport_rxs _ port 0) port).trans hset
  · exact hset

/-- What frames in order may change. -/
def receiving (p : Part) : Bool := decide (p ∈ [Part.sent, .pad, .flash, .fns, .ports, .routeDrops])

/-- A data flit in order is accepted (R375, R378). -/
theorem dataFrame_accepts {s : State} {port : Nat} {f : List Byte} {line : LineErrors} (hst : (s.port port).st = 2)
    (hgood : goodFrame f line = true) (hctl : bit (ofLe (slice f 250 6)) 27 = false) (hrx : (s.port port).rxChange = none)
    (hd : modSub 12 (bits (ofLe (slice f 250 6)) 11 0) (s.port port).x = 0) : ∃ t, exec (.dataFrame port f line) s = .next t ∧
      (t.port port).x = wrapAdd 12 (s.port port).x 1 ∧ (t.port port).rxBytes = wrapAdd 64 (s.port port).rxBytes 250 ∧
      (t.port port).nakFor = none ∧ (t.port port).naks = 0 ∧ t.mem = s.mem := by
  have hacked := acked_counted s port (bits (ofLe (slice f 250 6)) 23 12) line
  have hwork : ((Work.start s).setPort port ((s.port port).countErrors line)).goodFrame port f (s.port port) =
      ((((Work.start s).setPort port ((s.port port).countErrors line)).acked port (bits (ofLe (slice f 250 6)) 23 12)).acceptFlit port
        (bits (ofLe (slice f 250 6)) 26 24)).each (flitParcels f) (fun w p => w.arrive (.port port) p) := by
    unfold Work.goodFrame
    dsimp only
    rw [if_neg (by rw [hctl]; decide), if_neg (by rw [hrx]; decide), if_pos hd]
  have hfoot : ((((Work.start s).setPort port ((s.port port).countErrors line)).acked port (bits (ofLe (slice f 250 6)) 23 12)).acceptFlit port
      (bits (ofLe (slice f 250 6)) 26 24)).erase receiving = (Work.start s).erase receiving := by simp [receiving]
  generalize ((Work.start s).setPort port ((s.port port).countErrors line)).acked port (bits (ofLe (slice f 250 6)) 23 12) = v
    at hacked hwork hfoot
  have hall : ((v.acceptFlit port (bits (ofLe (slice f 250 6)) 26 24)).each (flitParcels f) (fun w p => w.arrive (.port port) p)).erase
      receiving = (Work.start s).erase receiving := Eq.trans (by simp [receiving]) hfoot
  have hrxs : (((v.acceptFlit port (bits (ofLe (slice f 250 6)) 26 24)).each (flitParcels f)
      (fun w p => w.arrive (.port port) p)).s.port port).rx = ((v.s.port port).accepted (bits (ofLe (slice f 250 6)) 26 24)).rx :=
    (congrFun (Work.each_view Work.rxs (fun w p => w.arrive_rxs (.port port) p) _) port).trans (v.acceptFlit_rx ..)
  generalize (v.acceptFlit port (bits (ofLe (slice f 250 6)) 26 24)).each (flitParcels f) (fun w p => w.arrive (.port port) p) = u
    at hwork hall hrxs
  have hx := congrArg Port.x hacked
  have hbytes := congrArg Port.rxBytes hacked
  have hux := congrArg Port.x hrxs
  have hubytes := congrArg Port.rxBytes hrxs
  have hufor := congrArg Port.nakFor hrxs
  have hunaks := congrArg Port.naks hrxs
  refine ⟨_, run_is (dataFrame_passes hst hgood) hwork (Work.keeps_stop hall rfl) rfl, hux.trans ?_, hubytes.trans ?_, hufor, hunaks, ?_⟩
  · exact congrArg (fun n => wrapAdd 12 n 1) hx
  · exact congrArg (fun n => wrapAdd 64 n 250) hbytes
  · exact congrArg (fun ops : List MemOp => ops.foldr (fun op m => op.apply m) s.mem) (Work.keeps_mw hall rfl)

/-- A data flit ahead of the expected number is NAKed (R375). -/
theorem dataFrame_gap {s : State} {port : Nat} {f : List Byte} {line : LineErrors} (hst : (s.port port).st = 2)
    (hgood : goodFrame f line = true) (hctl : bit (ofLe (slice f 250 6)) 27 = false) (hrx : (s.port port).rxChange = none)
    (hd : 0 < modSub 12 (bits (ofLe (slice f 250 6)) 11 0) (s.port port).x)
    (hd' : modSub 12 (bits (ofLe (slice f 250 6)) 11 0) (s.port port).x < 1024)
    (hfor : (s.port port).nakFor ≠ some (s.port port).x) (hn : (s.port port).naks < 7) :
    ∃ t, exec (.dataFrame port f line) s = .next t ∧ (t.port port).x = (s.port port).x ∧
      (t.port port).nakFor = some (s.port port).x ∧ .ctl port 1 (s.port port).ack ([0#8] ++ (s.port port).freedBytes) ∈ t.sent := by
  have hacked := acked_counted s port (bits (ofLe (slice f 250 6)) 23 12) line
  have hwork : ((Work.start s).setPort port ((s.port port).countErrors line)).goodFrame port f (s.port port) =
      (((Work.start s).setPort port ((s.port port).countErrors line)).acked port (bits (ofLe (slice f 250 6)) 23 12)).nak port := by
    unfold Work.goodFrame
    dsimp only
    rw [if_neg (by rw [hctl]; decide), if_neg (by rw [hrx]; decide), if_neg (by omega), if_pos hd']
  have hfoot : (((Work.start s).setPort port ((s.port port).countErrors line)).acked port (bits (ofLe (slice f 250 6)) 23 12)).erase
      receiving = (Work.start s).erase receiving := by simp [receiving]
  generalize ((Work.start s).setPort port ((s.port port).countErrors line)).acked port (bits (ofLe (slice f 250 6)) 23 12) = v
    at hacked hwork hfoot
  have hx : (v.s.port port).x = (s.port port).x := by
    have h := congrArg Port.x hacked
    exact h
  have hfor' : (v.s.port port).nakFor = (s.port port).nakFor := by
    have h := congrArg Port.nakFor hacked
    exact h
  have hn' : (v.s.port port).naks = (s.port port).naks := by
    have h := congrArg Port.naks hacked
    exact h
  have hrel : (v.s.port port).released = (s.port port).released := by
    have h := congrArg Port.released hacked
    exact h
  have hflit : (v.s.port port).nakFlit port = .ctl port 1 (s.port port).ack ([0#8] ++ (s.port port).freedBytes) := by
    simp only [Port.nakFlit, Port.ack, Port.freedBytes, hx, hrel]
  have hnak := Work.nak_sends (w := v) (port := port) rfl (by rw [hfor', hx]; exact hfor) (by rw [hn']; exact hn)
  rw [hflit] at hnak
  generalize v.nak port = u at hwork hnak
  refine ⟨_, run_is (dataFrame_passes hst hgood) hwork ((Work.keeps_stop hnak.frame rfl).trans (Work.keeps_stop hfoot rfl)) rfl,
    (congrArg Port.x hnak.self).trans hx, (congrArg Port.nakFor hnak.self).trans (congrArg some hx), ?_⟩
  show _ ∈ u.s.sent
  rw [hnak.sent]
  exact List.mem_append_right _ (.head _)

/-- A data flit behind the expected number is a copy: only its ACK counts (R375, R376). -/
theorem dataFrame_copy {s : State} {port : Nat} {f : List Byte} {line : LineErrors} (hst : (s.port port).st = 2)
    (hgood : goodFrame f line = true) (hctl : bit (ofLe (slice f 250 6)) 27 = false) (hrx : (s.port port).rxChange = none)
    (hd : 1024 ≤ modSub 12 (bits (ofLe (slice f 250 6)) 11 0) (s.port port).x) (hq : (s.port port).txq = []) :
    ∃ t, exec (.dataFrame port f line) s = .next t ∧ t = { s with ports := t.ports } ∧
      t.port port = { (s.port port).countErrors line with
        kept := (s.port port).kept.filter (fun k => decide (1024 ≤ modSub 12 (bits (ofLe (slice f 250 6)) 23 12) k.seq)) } ∧
      ∀ j, j ≠ port → t.port j = s.port j := by
  have hset := PortStep.set (Work.start s) port ((s.port port).countErrors line)
  have hstep := hset.trans (PortStep.set _ port { (s.port port).countErrors line with
    kept := (s.port port).kept.filter (fun k => decide (1024 ≤ modSub 12 (bits (ofLe (slice f 250 6)) 23 12) k.seq)) })
  have hwork : ((Work.start s).setPort port ((s.port port).countErrors line)).goodFrame port f (s.port port) =
      ((Work.start s).setPort port ((s.port port).countErrors line)).setPort port { (s.port port).countErrors line with
        kept := (s.port port).kept.filter (fun k => decide (1024 ≤ modSub 12 (bits (ofLe (slice f 250 6)) 23 12) k.seq)) } := by
    unfold Work.goodFrame
    dsimp only
    rw [if_neg (by rw [hctl]; decide), if_neg (by rw [hrx]; decide), if_neg (by omega), if_neg (by omega)]
    exact Work.acked_quiet (Work.setPort_same ..) hq
  exact ⟨_, run_is (dataFrame_passes hst hgood) hwork hstep.stop rfl, hstep.result_quiet, hstep.self, hstep.other⟩

/-! ### Packets as a whole -/

theorem Checked.of_eq {p : Parcel} {i : Instr} (h : i = .pktWrite p ∨ i = .pktCollective p ∨ i = .pktWriteAcked p ∨ i = .pktRead p []) :
    ∃ k, Checked p i k [] ∧ (i = .pktWriteAcked p ∨ i = .pktRead p [] → wantsAnswer k = true) := by
  rcases h with rfl | rfl | rfl | rfl
  · exact ⟨0, .write, by simp⟩
  · exact ⟨6, .collective, by simp⟩
  · exact ⟨1, .writeAcked, fun _ => rfl⟩
  · exact ⟨2, .read [], fun _ => rfl⟩

/-- A packet of another attempt is dropped (R53). -/
theorem checked_stale {s : State} {p : Parcel} {c : Nat} (hc : jobCtx s p.tag.job = some c)
    (ha : allocated (s.ctx c) p.pkt.addr (Nat.max 1 p.pkt.len) = true) (ht : current s c p.tag = false) {i : Instr} {k : Nat}
    {u : List Upset} (hi : Checked p i k u) : exec i s = .next s :=
  exec_idles (hi.runs s) (Work.ingress_stale hc ha ht _ _)

/-- Settles O53: the ingress checks and what passes them, ARRIVAL, the responses, the way through the mesh, the hop, the frame, and
the data flit, each by its own lemmas above. -/
theorem packetsReachTheirTarget : Obligations.PacketsReachTheirTarget := by
  unfold Obligations.PacketsReachTheirTarget
  refine ⟨fun s p => ⟨fun hdeny i hi => ?_, fun c hc ha => ⟨fun ht i hi => ?_, fun ht r hr hout i k u hi => ?_, fun ht hin =>
      ⟨checked_writes hc ha ht hin, checked_reads hc ha ht hin⟩⟩⟩,
    fun s p => ⟨fun h => pktArrival_idle (.inl h), fun c hc => ⟨fun h => pktArrival_idle (.inr ⟨c, hc, h⟩), fun ht htile r hr =>
      ⟨fun hin => ?_, pktArrival_waits hc ht htile hr⟩⟩⟩,
    fun s p => ⟨pktReadResp_idle, pktWriteAck_idle, pktErrorResp_idle, fun q n k a => pktReadResp_stores,
      fun q ring index a h hq ha hC => ⟨pktReadResp_poisoned h hq ha hC, fun hp hd hone bytes => pktReadResp_last h hq ha hC hp hd hone⟩,
      fun q n k => pktWriteAck_ends, fun q n k h hq => ⟨pktErrorResp_lost h hq, pktErrorResp_stops h hq⟩⟩,
    fun a b ha ha' hb hb' ls hls => ?_,
    fun s p from_ => ⟨fun k p' => routeHop_marks, fun p' h =>
        ⟨fun hd => routeHop_delivers h hd ▸ ?_, fun hd => routeHop_delivers h hd, fun x y hd => routeHop_delivers h hd⟩,
      fun o p' path h hpath => ⟨fun hm => ?_, fun hm hq hc hv => ?_⟩, routeHop_drops⟩,
    fun flit => frameOf_flit,
    fun s port q hq => ⟨fun hst f line => ?_, fun hst f line tr good htr hgood => ?_⟩⟩
  · obtain ⟨k, hk, hans⟩ := Checked.of_eq hi
    obtain ⟨t, hrun, hframe, hpad, hsent⟩ := checked_denied hdeny hk
    exact ⟨t, hrun, hframe, hpad, fun h => hsent (hans h)⟩
  · obtain ⟨k, hk, _⟩ := Checked.of_eq hi
    exact checked_stale hc ha ht hk
  · have hchecked : Checked p i k u := by
      rcases hi with ⟨rfl, rfl, rfl⟩ | ⟨rfl, rfl, rfl⟩ | ⟨rfl, rfl⟩ | ⟨rfl, rfl, rfl⟩
      · exact .write
      · exact .writeAcked
      · exact .read u
      · exact .collective
    exact checked_waits hc ha ht hr hout hchecked
  · exact pktArrival_due hc ht htile (hr ▸ hin)
  · subst hls
    have hdist := meshDist_le ⟨ha, ha'⟩ ⟨hb, hb'⟩
    exact ⟨meshWay_head hdist, meshWay_last hdist, meshWay_joined hdist, fun l hl => (meshWay_link hdist hl).imp_left And.right⟩
  · rw [Place.path, List.append_nil]
    rfl
  · subst hpath
    exact routeHop_queues h hm
  · subst hpath
    exact routeHop_sends h hm hq hc hv
  · subst hq
    exact dataFrame_idle hst f line
  · subst hq htr hgood
    exact ⟨fun hbad => ⟨dataFrame_counted hst hbad, dataFrame_naks hst hbad⟩, fun hgood => ⟨dataFrame_ctl hst hgood, fun hctl hrx =>
      ⟨dataFrame_accepts hst hgood hctl hrx, dataFrame_gap hst hgood hctl hrx, dataFrame_copy hst hgood hctl hrx⟩⟩⟩

end Sys2Proof.Machine
end
